-- ==== Sys2Proof/Word.lean ====
section
/-!
DEFINITION. Word types of the TW-768 and their plainest arithmetic (R3, R4): bytes, 32-bit words, 64-bit
register values, bit slices and sign or zero extension of the low n bits.
-/

namespace Sys2Proof

abbrev Byte := BitVec 8
abbrev W32 := BitVec 32
abbrev W64 := BitVec 64

/-- The slice `[lo + n - 1 : lo]` of a number (R4). -/
def bits (x lo n : Nat) : Nat := x / 2 ^ lo % 2 ^ n

/-- One bit of a number as a truth value (R4). -/
def bitAt (x i : Nat) : Bool := x / 2 ^ i % 2 == 1

/-- All 64 bits one when `b`, otherwise zero: how a scalar compare writes a predicate (R91). -/
def allOnes (b : Bool) : W64 := if b then BitVec.allOnes 64 else 0

/-- `ZExt(v, n)`: the low `n` bits of `v`, zero-extended to 64 (chapter 04, conventions). -/
def zext64 (n : Nat) (v : W64) : W64 := BitVec.ofNat 64 (v.toNat % 2 ^ n)

/-- `SExt(v, n)`: the low `n` bits of `v` (`0 < n ≤ 64`), sign-extended to 64 (chapter 04, conventions). -/
def sext64 (n : Nat) (v : W64) : W64 :=
  let u := v.toNat % 2 ^ n
  BitVec.ofInt 64 (if u < 2 ^ (n - 1) then (u : Int) else (u : Int) - 2 ^ n)

/-- The low `n` bits of a number read as a two's complement integer (R111). -/
def signedOf (n x : Nat) : Int :=
  let u := x % 2 ^ n
  if u < 2 ^ (n - 1) then (u : Int) else (u : Int) - 2 ^ n

/-- An integer narrowed to `n` bits, as the number of its two's complement code (R111). -/
def wrapTo (n : Nat) (v : Int) : Nat := (v % (2 ^ n : Int)).toNat

/-- Rounds a byte address up to a multiple of 16 (R57). -/
def roundUp16 (a : Nat) : Nat := (a + 15) / 16 * 16

end Sys2Proof
end

