-- ==== Sys2Proof/Syntax.lean ====
section
/-!
DEFINITION. The instructions and whole steps of the TW-768: one constructor per row of spec/opcode_table.json.
Slot instructions carry the fields of their operand family (R39, R43, R44, R47, R51) with the bits lent by the
header already joined to them (R38). The rows without an encoding are the steps the device or the host makes
beside the bundles (spec/95_what_each_step_holds.md); their arguments name the object they act on, or carry
what comes from outside.
-/

namespace Sys2Proof

/-- The two scalar register clusters (R10). -/
inductive Cl | x | y
  deriving DecidableEq, Repr

/-- Slot kinds in the order of R30; the codes 0 to 6 of R126 follow it. -/
inductive SlotKind | X | Y | L | V | M | E | S
  deriving DecidableEq, Repr

/-- The predicate fields PN and PRED of a slot word (R35, R36). -/
structure Guard where
  pn : Bool
  pred : BitVec 4
  deriving DecidableEq, Repr

/-- The twelve element formats of R45. -/
inductive Fmt
  | int8 | int16 | int32 | int64 | fp32 | bf16 | e4m3 | e5m2 | mxfp4 | mxint4 | mxint6 | mxint8
  deriving DecidableEq, Repr

/-- Scalar condition codes (R41). -/
inductive Cond | eq | ne | lt | ge | le | gt | ltu | geu | leu | gtu
  deriving DecidableEq, Repr

/-- Vector condition codes (R41). -/
inductive VCond | eq | ne | lt | le | gt | ge | uo | ord
  deriving DecidableEq, Repr

/-- Operations of a loft atomic (R378). -/
inductive LatomOp | add | min | max | swap | cas
  deriving DecidableEq, Repr

/-- Token fields of an engine command, family E (R51, R52). -/
structure KE where
  kd : BitVec 4
  ka : BitVec 4
  kb : BitVec 4
  kc : BitVec 4
  deriving DecidableEq, Repr

/-- Result and token fields of a query or wait, family EY (R51, R52). -/
structure EYF where
  d : BitVec 5
  pd : BitVec 4
  ka : BitVec 4
  kb : BitVec 4
  deriving DecidableEq, Repr

/-- What a Henow packet delivers to this package (R355, R365, R371, R381). Bytes of a transfer come with the whole of its range, `len`
bytes from `va` on, and their place in it. -/
inductive Payload
  | empty
  | fifoWord (die cluster chan : Nat) (word : W64)
  | barrierReport (desc : W64) (tenant : BitVec 16)
  | mirrorAdd (tenant : BitVec 16) (plane start size second : Nat)
  | mirrorRemove (tenant : BitVec 16) (plane start size second : Nat)
  | xferBytes (tenant : BitVec 16) (va len off : Nat) (bytes : List Byte)
  deriving DecidableEq, Repr

/-- What the outside decides in one start (R392, R395): the stack whose training fails, the die whose self-test
fails, the die that trips, each if any. -/
structure StartReport where
  hbmFail : Option (Fin 12)
  dieFail : Option (Fin 4)
  trip : Option (Fin 4)
  deriving DecidableEq, Repr

/-- Who asks the reeve: the host through BAR0, or the command stream of a die (R391). -/
inductive Requester
  | host
  | stream (die : Nat)
  deriving DecidableEq, Repr

/-- A mailbox command given to the reeve (R391): who gives it, and whether in performing it the firmware attempts a
write outside the limits of R397. -/
structure Mail where
  rq : Requester
  stray : Bool
  deriving DecidableEq, Repr

/-- Where a Henow packet comes from: the package that sends it and this package's port it arrives at (R355, R358). -/
structure Sender where
  peer : Nat
  port : Nat
  deriving DecidableEq, Repr

/-- One constructor per row of spec/opcode_table.json. -/
inductive Instr
  -- bundle level (R33, R176, R183)
  | emptyBundle (stop : Bool)
  | repeatHead (len : BitVec 3) (mword : W32)
  -- X and Y slots, family R (R86, R87)
  | add (g : Guard) (c : Cl) (d a b : BitVec 5) (w : BitVec 2)
  | sub (g : Guard) (c : Cl) (d a b : BitVec 5) (w : BitVec 2)
  | and (g : Guard) (c : Cl) (d a b : BitVec 5) (w : BitVec 2)
  | or (g : Guard) (c : Cl) (d a b : BitVec 5) (w : BitVec 2)
  | xor (g : Guard) (c : Cl) (d a b : BitVec 5) (w : BitVec 2)
  | andn (g : Guard) (c : Cl) (d a b : BitVec 5) (w : BitVec 2)
  | shl (g : Guard) (c : Cl) (d a b : BitVec 5) (w : BitVec 2)
  | shr (g : Guard) (c : Cl) (d a b : BitVec 5) (w : BitVec 2)
  | sra (g : Guard) (c : Cl) (d a b : BitVec 5) (w : BitVec 2)
  | rol (g : Guard) (d a b : BitVec 5) (w : BitVec 2)
  | mulX (g : Guard) (d a b : BitVec 5) (w : BitVec 2)
  | mulY (g : Guard) (d a b : BitVec 5) (w : BitVec 2)
  | mulh (g : Guard) (d a b : BitVec 5) (w : BitVec 2) (u : Bool)
  | minX (g : Guard) (d a b : BitVec 5) (w : BitVec 2) (u : Bool)
  | minY (g : Guard) (d a b : BitVec 5) (w : BitVec 2) (u : Bool)
  | maxX (g : Guard) (d a b : BitVec 5) (w : BitVec 2) (u : Bool)
  | maxY (g : Guard) (d a b : BitVec 5) (w : BitVec 2) (u : Bool)
  | lea (g : Guard) (d a b : BitVec 5) (f : BitVec 4)
  | sextX (g : Guard) (d a : BitVec 5) (w : BitVec 2)
  | sextY (g : Guard) (d a : BitVec 5) (w : BitVec 2)
  | zextX (g : Guard) (d a : BitVec 5) (w : BitVec 2)
  | zextY (g : Guard) (d a : BitVec 5) (w : BitVec 2)
  | clzX (g : Guard) (d a : BitVec 5) (w : BitVec 2)
  | clzY (g : Guard) (d a : BitVec 5) (w : BitVec 2)
  | ctz (g : Guard) (d a : BitVec 5) (w : BitVec 2)
  | popcX (g : Guard) (d a : BitVec 5) (w : BitVec 2)
  | popcY (g : Guard) (d a : BitVec 5) (w : BitVec 2)
  | movxy (g : Guard) (d a : BitVec 5) (w : BitVec 2)
  | movyx (g : Guard) (d a : BitVec 5) (w : BitVec 2)
  -- immediates, constants, bit fields (R88 to R90)
  | addi (g : Guard) (c : Cl) (d a : BitVec 5) (imm : BitVec 14)
  | andi (g : Guard) (c : Cl) (d a : BitVec 5) (imm : BitVec 14)
  | ori (g : Guard) (c : Cl) (d a : BitVec 5) (imm : BitVec 14)
  | xori (g : Guard) (c : Cl) (d a : BitVec 5) (imm : BitVec 14)
  | shli (g : Guard) (c : Cl) (d a : BitVec 5) (imm : BitVec 14)
  | shri (g : Guard) (c : Cl) (d a : BitVec 5) (imm : BitVec 14)
  | srai (g : Guard) (c : Cl) (d a : BitVec 5) (imm : BitVec 14)
  | muli (g : Guard) (d a : BitVec 5) (imm : BitVec 14)
  | liX (g : Guard) (d : BitVec 5) (imm : BitVec 19)
  | liY (g : Guard) (d : BitVec 5) (imm : BitVec 19)
  | lihX (g : Guard) (d : BitVec 5) (imm : BitVec 19)
  | lihY (g : Guard) (d : BitVec 5) (imm : BitVec 19)
  | bextX (g : Guard) (d a : BitVec 5) (pos len : BitVec 6)
  | bextY (g : Guard) (d a : BitVec 5) (pos len : BitVec 6)
  | bins (g : Guard) (d a : BitVec 5) (pos len : BitVec 6)
  -- compares, predicate logic, select (R91, R92)
  | cmpX (g : Guard) (pd : BitVec 4) (a b : BitVec 5) (cc : Cond) (w : BitVec 2)
  | cmpY (g : Guard) (pd : BitVec 4) (a b : BitVec 5) (cc : Cond) (w : BitVec 2)
  | cmpiX (g : Guard) (pd : BitVec 4) (a : BitVec 5) (cc : Cond) (imm : BitVec 11)
  | cmpiY (g : Guard) (pd : BitVec 4) (a : BitVec 5) (cc : Cond) (imm : BitVec 11)
  | plogX (g : Guard) (pd pa pb fn : BitVec 4)
  | plogY (g : Guard) (pd pa pb fn : BitVec 4)
  | selX (g : Guard) (d a b : BitVec 5) (ps : BitVec 4)
  | selY (g : Guard) (d a b : BitVec 5) (ps : BitVec 4)
  -- control transfer and system (R93 to R106, R341)
  | br (g : Guard) (off : BitVec 24)
  | call (g : Guard) (off : BitVec 24)
  | jr (g : Guard) (d a : BitVec 5)
  | ret (g : Guard)
  | mfsr (g : Guard) (d : BitVec 5) (sr : BitVec 14)
  | mtsr (g : Guard) (a : BitVec 5) (sr : BitVec 14)
  | setlc (g : Guard) (a : BitVec 5) (imm : BitVec 14)
  | rdfel (g : Guard) (d : BitVec 5)
  | clrfel (g : Guard)
  | yield (g : Guard)
  | halt (g : Guard)
  | trap (g : Guard) (n : BitVec 14)
  | eret (g : Guard)
  | uret (g : Guard)
  | chk (g : Guard) (a : BitVec 5) (off : BitVec 19)
  -- handles, layout and bond registers (R214, R215, R262, R309)
  | xlat (g : Guard) (h : BitVec 4) (a : BitVec 5) (perm : BitVec 3)
  | hdrop (g : Guard) (h : BitVec 4)
  | hmov (g : Guard) (h src : BitVec 4)
  | hinfo (g : Guard) (h : BitVec 4) (d : BitVec 5)
  | lset (g : Guard) (n : BitVec 3) (part : BitVec 2) (y : BitVec 5)
  | lget (g : Guard) (n : BitVec 3) (part : BitVec 2) (y : BitVec 5)
  | bset (g : Guard) (n : BitVec 3) (y : BitVec 5)
  | bget (g : Guard) (n : BitVec 3) (y : BitVec 5)
  -- L slot (R107, R224, R218, R221, R151 to R153, R234, R285, R290, R339)
  | ld (g : Guard) (cl : Cl) (t a : BitVec 5) (cls : BitVec 4) (w : BitVec 2) (off : BitVec 7)
  | ldz (g : Guard) (cl : Cl) (t a : BitVec 5) (cls : BitVec 4) (w : BitVec 2) (off : BitVec 7)
  | st (g : Guard) (cl : Cl) (t a : BitVec 5) (cls : BitVec 4) (w : BitVec 2) (off : BitVec 7)
  | ldS (g : Guard) (cl : Cl) (t a : BitVec 5) (cls : BitVec 4) (w : BitVec 2) (off : BitVec 7)
  | ldf (g : Guard) (cl : Cl) (t a : BitVec 5) (cls : BitVec 4) (w : BitVec 2) (off : BitVec 7)
  | ldfe (g : Guard) (cl : Cl) (t a : BitVec 5) (cls : BitVec 4) (w : BitVec 2) (off : BitVec 7)
  | ste (g : Guard) (cl : Cl) (t a : BitVec 5) (cls : BitVec 4) (w : BitVec 2) (off : BitVec 7)
  | tset (g : Guard) (cl : Cl) (t a : BitVec 5) (cls : BitVec 4) (w : BitVec 2) (off : BitVec 7)
  | tget (g : Guard) (cl : Cl) (t a : BitVec 5) (cls : BitVec 4) (w : BitVec 2) (off : BitVec 7)
  | ldh (g : Guard) (cl : Cl) (t : BitVec 5) (h : BitVec 4) (o : BitVec 5) (cls : BitVec 4) (w : BitVec 2) (disp : BitVec 3)
  | ldhz (g : Guard) (cl : Cl) (t : BitVec 5) (h : BitVec 4) (o : BitVec 5) (cls : BitVec 4) (w : BitVec 2) (disp : BitVec 3)
  | sth (g : Guard) (cl : Cl) (t : BitVec 5) (h : BitVec 4) (o : BitVec 5) (cls : BitVec 4) (w : BitVec 2) (disp : BitVec 3)
  | ldhS (g : Guard) (cl : Cl) (t : BitVec 5) (h : BitVec 4) (o : BitVec 5) (cls : BitVec 4) (w : BitVec 2) (disp : BitVec 3)
  | ldq (g : Guard) (q : BitVec 2) (h : BitVec 4) (o : BitVec 5) (cls : BitVec 4) (w : BitVec 2)
  | qpop (g : Guard) (cl : Cl) (t : BitVec 5) (q : BitVec 2)
  | ldv (g : Guard) (v a : BitVec 5) (cls : BitVec 4) (ew : BitVec 2) (off : BitVec 8)
  | stv (g : Guard) (v a : BitVec 5) (cls : BitVec 4) (ew : BitVec 2) (off : BitVec 8)
  | ldvh (g : Guard) (v : BitVec 5) (h : BitVec 4) (o : BitVec 5) (cls : BitVec 4) (ew : BitVec 2)
  | stvh (g : Guard) (v : BitVec 5) (h : BitVec 4) (o : BitVec 5) (cls : BitVec 4) (ew : BitVec 2)
  | ldvg (g : Guard) (v i a : BitVec 5) (cls : BitVec 4) (ew : BitVec 2)
  | stvs (g : Guard) (v i a : BitVec 5) (cls : BitVec 4) (ew : BitVec 2)
  | ldvm (g : Guard) (v : BitVec 5) (h : BitVec 4) (o : BitVec 5) (cls : BitVec 4)
  | ldvS (g : Guard) (v a : BitVec 5) (cls : BitVec 4) (ew : BitVec 2) (off : BitVec 8)
  | fenceC (g : Guard) (mask : BitVec 16) (scope : BitVec 4)
  | fenceBank (g : Guard) (mask : BitVec 16) (scope : BitVec 4)
  | stlink (g : Guard) (t : BitVec 5) (h : BitVec 4) (o : BitVec 5) (cls : BitVec 4)
  | ldlink (g : Guard) (t : BitVec 5) (h : BitVec 4) (o : BitVec 5) (cls : BitVec 4)
  -- V slot (R136 to R150)
  | vadd (g : Guard) (d a b : BitVec 5) (fmt : Fmt) (rnd : BitVec 3)
  | vsub (g : Guard) (d a b : BitVec 5) (fmt : Fmt) (rnd : BitVec 3)
  | vmul (g : Guard) (d a b : BitVec 5) (fmt : Fmt) (rnd : BitVec 3)
  | vfma (g : Guard) (d a b : BitVec 5) (fmt : Fmt) (rnd : BitVec 3)
  | vfms (g : Guard) (d a b : BitVec 5) (fmt : Fmt) (rnd : BitVec 3)
  | vmin (g : Guard) (d a b : BitVec 5) (fmt : Fmt) (sub : Bool)
  | vmax (g : Guard) (d a b : BitVec 5) (fmt : Fmt) (sub : Bool)
  | vabs (g : Guard) (d a : BitVec 5) (fmt : Fmt) (rnd : BitVec 3)
  | vneg (g : Guard) (d a : BitVec 5) (fmt : Fmt) (rnd : BitVec 3)
  | vand (g : Guard) (d a b : BitVec 5)
  | vor (g : Guard) (d a b : BitVec 5)
  | vxor (g : Guard) (d a b : BitVec 5)
  | vandn (g : Guard) (d a b : BitVec 5)
  | vshl (g : Guard) (d a b : BitVec 5) (fmt : Fmt)
  | vshr (g : Guard) (d a b : BitVec 5) (fmt : Fmt)
  | vsra (g : Guard) (d a b : BitVec 5) (fmt : Fmt)
  | vcmp (g : Guard) (pd : BitVec 4) (a b : BitVec 5) (cc : VCond) (fmt : Fmt)
  | vsel (g : Guard) (d a b : BitVec 5) (ps : BitVec 4)
  | vdiv (g : Guard) (d a b : BitVec 5) (fmt : Fmt) (rnd : BitVec 3)
  | vsqrt (g : Guard) (d a : BitVec 5) (fmt : Fmt) (rnd : BitVec 3)
  | vrsqrt (g : Guard) (d a : BitVec 5) (fmt : Fmt) (rnd : BitVec 3)
  | vexp2 (g : Guard) (d a : BitVec 5)
  | vcvt (g : Guard) (d a : BitVec 5) (src dst : Fmt) (rnd : BitVec 3)
  | vpack (g : Guard) (d a : BitVec 5) (src dst : Fmt) (hs : BitVec 3) (rnd : BitVec 3)
  | vunpk (g : Guard) (d a : BitVec 5) (src dst : Fmt) (hs : BitVec 3) (rnd : BitVec 3)
  | vredadd (g : Guard) (d a : BitVec 5) (fmt : Fmt) (grp : BitVec 2) (rnd : BitVec 3)
  | vredmax (g : Guard) (d a : BitVec 5) (fmt : Fmt) (grp : BitVec 2)
  | vredmin (g : Guard) (d a : BitVec 5) (fmt : Fmt) (grp : BitVec 2)
  | vperm (g : Guard) (d a b : BitVec 5)
  | vbcast (g : Guard) (d y : BitVec 5) (fmt : Fmt)
  | vmerge (g : Guard) (d a b : BitVec 5) (fmt : Fmt) (mode : BitVec 2)
  | vscan (g : Guard) (d a b : BitVec 5) (fmt : Fmt) (sub : BitVec 2) (rnd : BitVec 3)
  | agen (g : Guard) (d a b y : BitVec 5)
  | vext (g : Guard) (d y : BitVec 5) (lane : BitVec 6) (fmt : Fmt)
  | vins (g : Guard) (d y : BitVec 5) (lane : BitVec 6) (fmt : Fmt)
  | viota (g : Guard) (d y : BitVec 5) (lane : BitVec 6)
  | vmov (g : Guard) (d a : BitVec 5)
  | vclz (g : Guard) (d a : BitVec 5) (fmt : Fmt)
  | vpopc (g : Guard) (d a : BitVec 5) (fmt : Fmt)
  -- M and S slots (R168, R169, R172, R173, R175, R311, R315)
  | mma (g : Guard) (ac a b : BitVec 5) (fmt : Fmt) (ca dm : Bool) (sp : BitVec 3)
  | mmaz (g : Guard) (ac a b : BitVec 5) (fmt : Fmt) (ca dm : Bool) (sp : BitVec 3)
  | mcon (g : Guard) (ac : BitVec 5) (wc bd : BitVec 3) (y : BitVec 5) (fmt : Fmt)
  | mrot (g : Guard) (ac : BitVec 5) (k : BitVec 6)
  | mdrain (g : Guard) (ac y : BitVec 5) (fmt : Fmt) (sc : BitVec 4) (cmp : Bool) (rnd : BitVec 3)
  | mzero (g : Guard) (ac : BitVec 5)
  | mldac (g : Guard) (ac y : BitVec 5)
  | mstac (g : Guard) (ac y : BitVec 5)
  | mhld (g : Guard) (y : BitVec 5) (k : BitVec 6)
  | mdmap (g : Guard) (y : BitVec 5) (k : BitVec 6)
  | mdclr (g : Guard)
  | mord (g : Guard) (ac : BitVec 5) (bd : BitVec 3) (y : BitVec 5)
  | macv (g : Guard) (ac y v : BitVec 5) (row : BitVec 6)
  | mvac (g : Guard) (ac y v : BitVec 5) (row : BitVec 6)
  | mcopy (g : Guard) (ac src : BitVec 5) (t : Bool)
  | sld (g : Guard) (sc : BitVec 4) (a : BitVec 5) (cls : BitVec 4) (off : BitVec 11)
  | sldh (g : Guard) (sc h : BitVec 4) (o : BitVec 5) (cls : BitVec 4)
  | sbc (g : Guard) (sc : BitVec 4) (y : BitVec 5)
  | sst (g : Guard) (sc : BitVec 4) (a : BitVec 5) (cls : BitVec 4) (off : BitVec 11)
  -- E slot (R51, R52; chapters 08, 11, 13, 14, 16, 21)
  | copy (g : Guard) (k : KE) (st : Bool) (h : BitVec 4) (q : BitVec 3)
  | copyg (g : Guard) (k : KE) (st : Bool) (h : BitVec 4) (q : BitVec 3)
  | copyx (g : Guard) (k : KE) (st : Bool) (h : BitVec 4) (q : BitVec 3)
  | binacq (g : Guard) (r : EYF) (q : BitVec 3)
  | binrel (g : Guard) (k : KE) (q : BitVec 3)
  | waitany (g : Guard) (r : EYF) (q : BitVec 3)
  | binst (g : Guard) (r : EYF) (q : BitVec 3)
  | binkill (g : Guard) (k : KE) (q : BitVec 3)
  | kwait (g : Guard) (ka kb kc : BitVec 4)
  | kjoin (g : Guard) (k : KE)
  | kpoll (g : Guard) (d : BitVec 5) (pd ka : BitVec 4)
  | uiarm (g : Guard) (ka : BitVec 4)
  | uidis (g : Guard) (ka : BitVec 4)
  | walk (g : Guard) (k : KE) (f : BitVec 2) (wc : BitVec 3) (q : BitVec 3)
  | wnext (g : Guard) (r : EYF) (wc : BitVec 3) (q : BitVec 3)
  | wstop (g : Guard) (k : KE) (wc : BitVec 3)
  | wsave (g : Guard) (k : KE) (wc : BitVec 3) (q : BitVec 3)
  | wrest (g : Guard) (k : KE) (wc : BitVec 3) (q : BitVec 3)
  | wbudget (g : Guard) (k : KE) (wc : BitVec 3) (q : BitVec 3)
  | chain (g : Guard) (k : KE) (f : BitVec 2) (wc : BitVec 3) (q : BitVec 3)
  | bank (g : Guard) (k : KE) (h : BitVec 4) (q : BitVec 3)
  | fbind (g : Guard) (kd : BitVec 4) (snd : Bool) (n : BitVec 4) (q : BitVec 3)
  | funbind (g : Guard) (kd n : BitVec 4)
  | xfer (g : Guard) (k : KE) (get : Bool) (h : BitVec 4) (q : BitVec 3)
  | lalloc (g : Guard) (r : EYF) (q : BitVec 3)
  | lallocM (g : Guard) (r : EYF) (q : BitVec 3)
  | lfree (g : Guard) (k : KE) (q : BitVec 3)
  | latom (g : Guard) (r : EYF) (wide : Bool) (op : LatomOp) (q : BitVec 3)
  | bar (g : Guard) (k : KE) (q : BitVec 3)
  | barw (g : Guard) (k : KE) (q : BitVec 3)
  | semadd (g : Guard) (r : EYF) (cls : BitVec 4) (q : BitVec 3)
  | semcas (g : Guard) (r : EYF) (cls : BitVec 4) (q : BitVec 3)
  | semwait (g : Guard) (k : KE) (eq : Bool) (cls : BitVec 4) (q : BitVec 3)
  | semrd (g : Guard) (r : EYF) (cls : BitVec 4) (q : BitVec 3)
  | launch (g : Guard) (k : KE) (hf : Bool) (hn : BitVec 4) (q : BitVec 3)
  | retire (g : Guard) (ka kb kc : BitVec 4)
  -- events of results, queues and engines (R17, R20, R160, R161, R170, R214, R221, R253, R254, R267)
  | resultArrival (c i : Nat)
  | translationWalkDone (c i : Nat)
  | queuedLoadArrival (c q i : Nat)
  | mQueueEntry (id : Nat)
  | mCommandStart (id : Nat)
  | mCommandComplete (id : Nat)
  | eQueueEntry (id : Nat)
  | eCommandStart (id : Nat)
  | copyComplete (id : Nat)
  | gleanerHop (id : Nat)
  | bankComplete (id : Nat)
  | xferComplete (id : Nat)
  | launchSnapshot (id : Nat)
  | semwaitTest (id : Nat)
  | userInterruptTaken (c : Nat)
  | trapTaken (c : Nat)
  -- dispatcher, instances, invalidation, pre-emption (R192 to R200, R220, R342 to R344)
  | instancePlacement (id : Nat)
  | singleResnapshot (id : Nat)
  | contextPartEnd (c : Nat)
  | instanceEnd (id : Nat)
  | invalidationAck (id : Nat)
  | preemptSave (id : Nat)
  | resumePlacement (id : Nat)
  -- loft, fabric, barriers, host reads (R219, R360, R361, R365, R371, R374)
  | loftRefusal (c id : Nat)
  | fifoWordDelivery (id : Nat)
  | barrierReport (id : Nat)
  | barrierRelease (id : Nat)
  | hostReadCompletion (c i : Nat) (err : Option (BitVec 2))
  -- reset, start, power and host accesses (R387 to R399)
  | start (rep : StartReport)
  -- reeve mailbox commands (R391)
  | setdev (m : Mail)
  | setroot (m : Mail)
  | settvec (m : Mail)
  | inval (m : Mail)
  | semten (m : Mail)
  | quota (m : Mail)
  | preempt (m : Mail)
  | resume (m : Mail)
  | kill (m : Mail)
  | planelost (m : Mail)
  | planeclr (m : Mail)
  | faultrec (m : Mail)
  | attest (m : Mail)
  | recover (m : Mail)
  | hbmload (m : Mail)
  -- late exact results, stores, PCI Express configuration (R17, R219, R233)
  | exactResultArrival (c i : Nat)
  | storePerformed (c id : Nat)
  -- steps that only the agenda asks for, or that a bundle makes itself (R17, R176, R183, R194, R196, R219, R360, R387 to R399);
  -- they stand last because compiled code can build no constructor beyond the 245th with fields
  | repetition
  | insertedCycle
  | slackWindowFreeze (c : Nat)
  | exactResultFreeze (c : Nat)
  | pendingLevelAging (id : Nat)
  | crossDieWaitExpiry (id : Nat)
  | packetReceive (src : Sender) (chan seq : Nat) (stomp : Bool) (pay : Payload)
  | endToEndResend (peer chan : Nat)
  | completionTimeout (c i : Nat)
  | powerOnReset
  | conventionalReset
  | functionLevelReset
  | startTimeout (step : Nat)
  | thermalTrip (die : Nat)
  | clockThrottle (power : BitVec 12) (tmax : BitVec 8)
  | clockRestore (power : BitVec 12) (tmax : BitVec 8)
  | plimWrite (v : W64)
  | hflagWrite (v : W64)
  | bar0RegisterWrite (off : Nat) (v : W64)
  | plainViewAccess (die off : Nat) (wide : Bool) (data : Option W64)
  | fillViewWrite (die off : Nat) (wide : Bool) (data : W64)
  | fillViewRead (die off : Nat) (wide : Bool)
  | unsupportedBar2Access (die off size : Nat)
  | deviceControl2Write (v : BitVec 16)
  deriving DecidableEq, Repr

end Sys2Proof
end

