-- ==== Sys2Proof/WellFormed.lean ====
section
/-!
DEFINITION. Which instructions an encoding of R39 to R52 may name: the predicate rule of R36 and, per
instruction, the field values that its entry accepts (R38). A word whose fields fail this raises ILLEGAL_FIELD.
-/

namespace Sys2Proof

/-- R36: p0 negated is no legal predicate. -/
def Guard.ok (g : Guard) : Bool := !(g.pn && g.pred == 0)

/-- The integer formats of R45. -/
def Fmt.isInt : Fmt → Bool
  | .int8 | .int16 | .int32 | .int64 => true
  | .fp32 | .bf16 | .e4m3 | .e5m2 | .mxfp4 | .mxint4 | .mxint6 | .mxint8 => false

/-- The block-scaled formats: the set Mx of R135. -/
def Fmt.isMx : Fmt → Bool
  | .mxfp4 | .mxint4 | .mxint6 | .mxint8 => true
  | .int8 | .int16 | .int32 | .int64 | .fp32 | .bf16 | .e4m3 | .e5m2 => false

/-- The element width n of R130; INT64 has no lane form and is given its own 64 bits. -/
def Fmt.width : Fmt → Nat
  | .mxfp4 | .mxint4 => 4
  | .mxint6 => 6
  | .int8 | .e4m3 | .e5m2 | .mxint8 => 8
  | .int16 | .bf16 => 16
  | .int32 | .fp32 => 32
  | .int64 => 64

/-- How many parts a packed register of the format has (R131). -/
def Fmt.parts : Fmt → Nat
  | .mxfp4 | .mxint4 => 8
  | .mxint6 => 5
  | .int8 | .e4m3 | .e5m2 | .mxint8 => 4
  | .int16 | .bf16 => 2
  | .int32 | .fp32 | .int64 => 1

/-- The set Ar of R135. -/
abbrev fmtAr (f : Fmt) : Prop :=
  f = .int8 ∨ f = .int16 ∨ f = .int32 ∨ f = .fp32 ∨ f = .bf16 ∨ f = .e4m3 ∨ f = .e5m2

/-- The set In of R135. -/
abbrev fmtIn (f : Fmt) : Prop := f = .int8 ∨ f = .int16 ∨ f = .int32

/-- The set Fl of R135. -/
abbrev fmtFl (f : Fmt) : Prop := f = .fp32 ∨ f = .bf16

/-- The formats of reductions and scans (R135). -/
abbrev fmtRed (f : Fmt) : Prop := f = .int32 ∨ f = .fp32

/-- Ar together with Mx (R135): every format but INT64. -/
abbrev fmtArMx (f : Fmt) : Prop := f ≠ .int64

/-- The set Pk of R135. -/
abbrev fmtPk (f : Fmt) : Prop :=
  f = .int8 ∨ f = .int16 ∨ f = .bf16 ∨ f = .e4m3 ∨ f = .e5m2 ∨ f.isMx = true

/-- The formats of a tile product (R169). -/
abbrev fmtMma (f : Fmt) : Prop :=
  f = .int8 ∨ f = .bf16 ∨ f = .e4m3 ∨ f = .e5m2 ∨ f.isMx = true

/-- R135: an integer FMT never accepts a nonzero RND[1:0]. -/
abbrev rndOk (f : Fmt) (rnd : BitVec 3) : Prop := f.isInt = true → rnd.toNat % 4 = 0

/-- The special-register numbers of R95. -/
def srKnown (n : Nat) : Bool := n ≤ 0x9 || (0x10 ≤ n && n ≤ 0x13)

/-- The special registers that are not read-only at every level (R95, R102); ECAUSE and EINFO, which no level may write, are taken for
read-only at every level (log entry 134). -/
def srWritable (n : Nat) : Bool :=
  n == 0 || n == 1 || n == 3 || n == 6 || n == 7 || n == 8 || n == 0x10 || n == 0x13

/-- The field values R38 and the entry of each instruction accept. A step without an encoding has no field
to refuse. -/
def Instr.wf : Instr → Bool
  | .emptyBundle _ => true
  | .repeatHead _ _ => true
  | .repetition => true
  | .insertedCycle => true
  | .add g _ _ _ _ _ => g.ok
  | .sub g _ _ _ _ _ => g.ok
  | .and g _ _ _ _ _ => g.ok
  | .or g _ _ _ _ _ => g.ok
  | .xor g _ _ _ _ _ => g.ok
  | .andn g _ _ _ _ _ => g.ok
  | .shl g _ _ _ _ _ => g.ok
  | .shr g _ _ _ _ _ => g.ok
  | .sra g _ _ _ _ _ => g.ok
  | .rol g _ _ _ _ => g.ok
  | .mulX g _ _ _ _ => g.ok
  | .mulY g _ _ _ _ => g.ok
  | .mulh g _ _ _ _ _ => g.ok
  | .minX g _ _ _ _ _ => g.ok
  | .minY g _ _ _ _ _ => g.ok
  | .maxX g _ _ _ _ _ => g.ok
  | .maxY g _ _ _ _ _ => g.ok
  | .lea g _ _ _ f => g.ok && decide (f.toNat ≤ 6)
  | .sextX g _ _ _ => g.ok
  | .sextY g _ _ _ => g.ok
  | .zextX g _ _ _ => g.ok
  | .zextY g _ _ _ => g.ok
  | .clzX g _ _ _ => g.ok
  | .clzY g _ _ _ => g.ok
  | .ctz g _ _ _ => g.ok
  | .popcX g _ _ _ => g.ok
  | .popcY g _ _ _ => g.ok
  | .movxy g _ _ _ => g.ok
  | .movyx g _ _ _ => g.ok
  | .addi g _ _ _ _ => g.ok
  | .andi g _ _ _ _ => g.ok
  | .ori g _ _ _ _ => g.ok
  | .xori g _ _ _ _ => g.ok
  | .shli g _ _ _ imm => g.ok && decide (imm.toNat ≤ 63)
  | .shri g _ _ _ imm => g.ok && decide (imm.toNat ≤ 63)
  | .srai g _ _ _ imm => g.ok && decide (imm.toNat ≤ 63)
  | .muli g _ _ _ => g.ok
  | .liX g _ _ => g.ok
  | .liY g _ _ => g.ok
  | .lihX g _ _ => g.ok
  | .lihY g _ _ => g.ok
  | .bextX g _ _ pos len => g.ok && decide (pos.toNat + len.toNat + 1 ≤ 64)
  | .bextY g _ _ pos len => g.ok && decide (pos.toNat + len.toNat + 1 ≤ 64)
  | .bins g _ _ pos len => g.ok && decide (pos.toNat + len.toNat + 1 ≤ 64)
  | .cmpX g _ _ _ _ _ => g.ok
  | .cmpY g _ _ _ _ _ => g.ok
  | .cmpiX g _ _ _ _ => g.ok
  | .cmpiY g _ _ _ _ => g.ok
  | .plogX g _ _ _ _ => g.ok
  | .plogY g _ _ _ _ => g.ok
  | .selX g _ _ _ _ => g.ok
  | .selY g _ _ _ _ => g.ok
  | .br g _ => g.ok
  | .call g _ => g.ok
  | .jr g _ _ => g.ok
  | .ret g => g.ok
  | .mfsr g _ sr => g.ok && decide (srKnown sr.toNat)
  | .mtsr g _ sr => g.ok && decide (srWritable sr.toNat)
  | .setlc g _ _ => g.ok
  | .rdfel g _ => g.ok
  | .clrfel g => g.ok
  | .yield g => g.ok
  | .halt g => g.ok
  | .trap g _ => g.ok
  | .eret g => g.ok
  | .uret g => g.ok
  | .chk g _ _ => g.ok
  | .xlat g _ _ perm => g.ok && decide (perm ≠ 0)
  | .hdrop g _ => g.ok
  | .hmov g _ _ => g.ok
  | .hinfo g _ _ => g.ok
  | .lset g _ part _ => g.ok && decide (part.toNat ≤ 2)
  | .lget g _ part _ => g.ok && decide (part.toNat ≤ 2)
  | .bset g _ _ => g.ok
  | .bget g _ _ => g.ok
  | .ld g _ _ _ _ _ _ => g.ok
  | .ldz g _ _ _ _ _ _ => g.ok
  | .st g _ _ _ _ _ _ => g.ok
  | .ldS g _ _ _ _ _ _ => g.ok
  | .ldf g _ _ _ _ w _ => g.ok && decide (w.toNat ≥ 2)
  | .ldfe g _ _ _ _ w _ => g.ok && decide (w.toNat ≥ 2)
  | .ste g _ _ _ _ w _ => g.ok && decide (w.toNat ≥ 2)
  | .tset g _ _ _ _ w _ => g.ok && decide (w.toNat ≥ 2)
  | .tget g _ _ _ _ w _ => g.ok && decide (w.toNat ≥ 2)
  | .ldh g _ _ _ _ _ _ _ => g.ok
  | .ldhz g _ _ _ _ _ _ _ => g.ok
  | .sth g _ _ _ _ _ _ _ => g.ok
  | .ldhS g _ _ _ _ _ _ _ => g.ok
  | .ldq g _ _ _ _ _ => g.ok
  | .qpop g _ _ _ => g.ok
  | .ldv g _ _ _ ew _ => g.ok && decide (ew ≠ 3)
  | .stv g _ _ _ ew _ => g.ok && decide (ew ≠ 3)
  | .ldvh g _ _ _ _ ew => g.ok && decide (ew ≠ 3)
  | .stvh g _ _ _ _ ew => g.ok && decide (ew ≠ 3)
  | .ldvg g _ _ _ _ ew => g.ok && decide (ew ≠ 3)
  | .stvs g _ _ _ _ ew => g.ok && decide (ew ≠ 3)
  | .ldvm g _ _ _ _ => g.ok
  | .ldvS g _ _ _ ew _ => g.ok && decide (ew ≠ 3)
  | .fenceC g mask scope => g.ok && decide (mask ≠ 0 ∧ scope.toNat ≤ 10)
  | .fenceBank g mask scope => g.ok && decide (mask ≠ 0 ∧ scope.toNat ≤ 10)
  | .stlink g t _ _ _ => g.ok && decide (t.toNat % 2 = 0)
  | .ldlink g t _ _ _ => g.ok && decide (t.toNat % 2 = 0)
  | .vadd g _ _ _ fmt rnd => g.ok && decide (fmtAr fmt ∧ rndOk fmt rnd)
  | .vsub g _ _ _ fmt rnd => g.ok && decide (fmtAr fmt ∧ rndOk fmt rnd)
  | .vmul g _ _ _ fmt rnd => g.ok && decide (fmtAr fmt ∧ rndOk fmt rnd)
  | .vfma g _ _ _ fmt rnd => g.ok && decide (fmtAr fmt ∧ rndOk fmt rnd)
  | .vfms g _ _ _ fmt rnd => g.ok && decide (fmtAr fmt ∧ rndOk fmt rnd)
  | .vmin g _ _ _ fmt _ => g.ok && decide (fmtAr fmt)
  | .vmax g _ _ _ fmt _ => g.ok && decide (fmtAr fmt)
  | .vabs g _ _ fmt rnd => g.ok && decide (fmtAr fmt ∧ (if fmt.isInt then rnd = 0 ∨ rnd = 4 else rnd = 0))
  | .vneg g _ _ fmt rnd => g.ok && decide (fmtAr fmt ∧ (if fmt.isInt then rnd = 0 ∨ rnd = 4 else rnd = 0))
  | .vand g _ _ _ => g.ok
  | .vor g _ _ _ => g.ok
  | .vxor g _ _ _ => g.ok
  | .vandn g _ _ _ => g.ok
  | .vshl g _ _ _ fmt => g.ok && decide (fmtIn fmt)
  | .vshr g _ _ _ fmt => g.ok && decide (fmtIn fmt)
  | .vsra g _ _ _ fmt => g.ok && decide (fmtIn fmt)
  | .vcmp g _ _ _ cc fmt => g.ok && decide (fmtAr fmt ∧ (fmt.isInt → cc ≠ .uo ∧ cc ≠ .ord))
  | .vsel g _ _ _ _ => g.ok
  | .vdiv g _ _ _ fmt _ => g.ok && decide (fmtFl fmt)
  | .vsqrt g _ _ fmt _ => g.ok && decide (fmtFl fmt)
  | .vrsqrt g _ _ fmt _ => g.ok && decide (fmtFl fmt)
  | .vexp2 g _ _ => g.ok
  | .vcvt g _ _ src dst _ => g.ok && decide (fmtArMx src ∧ fmtArMx dst ∧ src ≠ dst)
  | .vpack g _ _ src dst hs _ => g.ok && decide (fmtArMx src ∧ fmtPk dst ∧ hs.toNat < dst.parts)
  | .vunpk g _ _ src dst hs _ => g.ok && decide (fmtPk src ∧ fmtArMx dst ∧ hs.toNat < src.parts)
  | .vredadd g _ _ fmt _ rnd => g.ok && decide (fmtRed fmt ∧ rndOk fmt rnd)
  | .vredmax g _ _ fmt _ => g.ok && decide (fmtRed fmt)
  | .vredmin g _ _ fmt _ => g.ok && decide (fmtRed fmt)
  | .vperm g _ _ _ => g.ok
  | .vbcast g _ _ fmt => g.ok && decide (fmtAr fmt)
  | .vmerge g _ _ _ fmt mode => g.ok && decide ((fmt = .int32 ∨ (mode = 3 ∧ fmtFl fmt)))
  | .vscan g _ _ b fmt sm rnd => g.ok && decide (fmtRed fmt ∧ rndOk fmt rnd ∧ (sm.toNat < 2 → b = 0))
  | .agen g _ _ _ _ => g.ok
  | .vext g _ _ _ fmt => g.ok && decide (fmtAr fmt)
  | .vins g _ _ _ fmt => g.ok && decide (fmtAr fmt)
  | .viota g _ _ _ => g.ok
  | .vmov g _ _ => g.ok
  | .vclz g _ _ fmt => g.ok && decide (fmtIn fmt)
  | .vpopc g _ _ fmt => g.ok && decide (fmtIn fmt)
  | .mma g _ _ _ fmt _ _ sp => g.ok && decide (fmtMma fmt ∧ (if fmt.isMx then sp.toNat ≤ 3 else sp = 0))
  | .mmaz g _ _ _ fmt _ _ sp => g.ok && decide (fmtMma fmt ∧ (if fmt.isMx then sp.toNat ≤ 3 else sp = 0))
  | .mcon g _ _ _ _ fmt => g.ok && decide ((fmt = .int8 ∨ fmt = .bf16))
  | .mrot g _ _ => g.ok
  | .mdrain g _ _ fmt sc _ _ => g.ok && decide (fmt ≠ .int64 ∧ (if fmt.isMx then sc.toNat ≤ 7 else sc = 0))
  | .mzero g _ => g.ok
  | .mldac g _ _ => g.ok
  | .mstac g _ _ => g.ok
  | .mhld g _ _ => g.ok
  | .mdmap g _ _ => g.ok
  | .mdclr g => g.ok
  | .mord g _ _ _ => g.ok
  | .macv g _ _ _ _ => g.ok
  | .mvac g _ _ _ _ => g.ok
  | .mcopy g _ _ _ => g.ok
  | .sld g _ _ _ _ => g.ok
  | .sldh g _ _ _ _ => g.ok
  | .sbc g _ _ => g.ok
  | .sst g _ _ _ _ => g.ok
  | .copy g _ _ _ _ => g.ok
  | .copyg g _ _ _ _ => g.ok
  | .copyx g _ _ _ _ => g.ok
  | .binacq g _ _ => g.ok
  | .binrel g _ _ => g.ok
  | .waitany g _ _ => g.ok
  | .binst g _ _ => g.ok
  | .binkill g _ _ => g.ok
  | .kwait g _ _ _ => g.ok
  | .kjoin g _ => g.ok
  | .kpoll g _ _ _ => g.ok
  | .uiarm g ka => g.ok && decide (ka ≠ 0)
  | .uidis g _ => g.ok
  | .walk g _ _ _ _ => g.ok
  | .wnext g _ _ _ => g.ok
  | .wstop g _ _ => g.ok
  | .wsave g _ _ _ => g.ok
  | .wrest g _ _ _ => g.ok
  | .wbudget g _ _ _ => g.ok
  | .chain g _ _ _ _ => g.ok
  | .bank g _ _ _ => g.ok
  | .fbind g _ _ _ _ => g.ok
  | .funbind g _ _ => g.ok
  | .xfer g _ _ _ _ => g.ok
  | .lalloc g _ _ => g.ok
  | .lallocM g _ _ => g.ok
  | .lfree g _ _ => g.ok
  | .latom g _ _ _ _ => g.ok
  | .bar g _ _ => g.ok
  | .barw g _ _ => g.ok
  | .semadd g _ _ _ => g.ok
  | .semcas g _ _ _ => g.ok
  | .semwait g _ _ _ _ => g.ok
  | .semrd g _ _ _ => g.ok
  | .launch g _ hf hn _ => g.ok && decide ((hf = true ∨ hn = 0))
  | .retire g _ _ _ => g.ok
  | .resultArrival _ _ => true
  | .slackWindowFreeze _ => true
  | .exactResultFreeze _ => true
  | .translationWalkDone _ _ => true
  | .queuedLoadArrival _ _ _ => true
  | .mQueueEntry _ => true
  | .mCommandStart _ => true
  | .mCommandComplete _ => true
  | .eQueueEntry _ => true
  | .eCommandStart _ => true
  | .copyComplete _ => true
  | .gleanerHop _ => true
  | .bankComplete _ => true
  | .xferComplete _ => true
  | .launchSnapshot _ => true
  | .semwaitTest _ => true
  | .userInterruptTaken _ => true
  | .trapTaken _ => true
  | .instancePlacement _ => true
  | .pendingLevelAging _ => true
  | .crossDieWaitExpiry _ => true
  | .singleResnapshot _ => true
  | .contextPartEnd _ => true
  | .instanceEnd _ => true
  | .invalidationAck _ => true
  | .preemptSave _ => true
  | .resumePlacement _ => true
  | .loftRefusal _ _ => true
  | .packetReceive _ _ _ _ _ => true
  | .endToEndResend _ _ => true
  | .fifoWordDelivery _ => true
  | .barrierReport _ => true
  | .barrierRelease _ => true
  | .hostReadCompletion _ _ _ => true
  | .completionTimeout _ _ => true
  | .powerOnReset => true
  | .conventionalReset => true
  | .functionLevelReset => true
  | .start _ => true
  | .startTimeout _ => true
  | .thermalTrip _ => true
  | .clockThrottle _ _ => true
  | .clockRestore _ _ => true
  | .plimWrite _ => true
  | .hflagWrite _ => true
  | .bar0RegisterWrite _ _ => true
  | .plainViewAccess _ _ _ _ => true
  | .fillViewWrite _ _ _ _ => true
  | .fillViewRead _ _ _ => true
  | .unsupportedBar2Access _ _ _ => true
  | .setdev _ => true
  | .setroot _ => true
  | .settvec _ => true
  | .inval _ => true
  | .semten _ => true
  | .quota _ => true
  | .preempt _ => true
  | .resume _ => true
  | .kill _ => true
  | .planelost _ => true
  | .planeclr _ => true
  | .faultrec _ => true
  | .attest _ => true
  | .recover _ => true
  | .hbmload _ => true
  | .exactResultArrival _ _ => true
  | .storePerformed _ _ => true
  | .deviceControl2Write _ => true

end Sys2Proof
end

