-- ==== Sys2Proof/Decode.lean ====
section
/-!
DEFINITION. Fetching and decoding bundles (R30 to R65) and the encoder written from the same tables. Slot words
are read as numbers, so that the fields are quotients and remainders. A slot word is accepted when the fields it
yields encode to exactly that word and that LEND group (which makes every "must be zero" of R38 a check) and are
well formed.
-/

namespace Sys2Proof

/-! ### Fields -/

/-- The field of `n` bits at bit `lo` of a slot word. -/
def fld (w lo n : Nat) : BitVec n := BitVec.ofNat n (bits w lo n)

def Cl.ofBit (b : Bool) : Cl := if b then .y else .x

def Cl.code : Cl → Nat
  | .x => 0
  | .y => 1

def Cl.kind : Cl → SlotKind
  | .x => .X
  | .y => .Y

/-- The place of a slot kind in the order of R30; also its code in SLOT fields (R126). -/
def SlotKind.code : SlotKind → Nat
  | .X => 0
  | .Y => 1
  | .L => 2
  | .V => 3
  | .M => 4
  | .E => 5
  | .S => 6

/-- Format codes (R45). -/
def Fmt.code : Fmt → Nat
  | .int8 => 0 | .int16 => 1 | .int32 => 2 | .int64 => 3 | .fp32 => 4 | .bf16 => 5
  | .e4m3 => 6 | .e5m2 => 7 | .mxfp4 => 8 | .mxint4 => 9 | .mxint6 => 10 | .mxint8 => 11

def Fmt.ofCode : Nat → Option Fmt
  | 0 => some .int8 | 1 => some .int16 | 2 => some .int32 | 3 => some .int64 | 4 => some .fp32 | 5 => some .bf16
  | 6 => some .e4m3 | 7 => some .e5m2 | 8 => some .mxfp4 | 9 => some .mxint4 | 10 => some .mxint6
  | 11 => some .mxint8 | _ => none

/-- Scalar condition codes (R41). -/
def Cond.code : Cond → Nat
  | .eq => 0 | .ne => 1 | .lt => 2 | .ge => 3 | .le => 4 | .gt => 5 | .ltu => 6 | .geu => 7 | .leu => 8 | .gtu => 9

def Cond.ofCode : Nat → Option Cond
  | 0 => some .eq | 1 => some .ne | 2 => some .lt | 3 => some .ge | 4 => some .le | 5 => some .gt
  | 6 => some .ltu | 7 => some .geu | 8 => some .leu | 9 => some .gtu | _ => none

/-- Vector condition codes (R41). -/
def VCond.code : VCond → Nat
  | .eq => 0 | .ne => 1 | .lt => 2 | .le => 3 | .gt => 4 | .ge => 5 | .uo => 6 | .ord => 7

def VCond.ofCode : Nat → Option VCond
  | 0 => some .eq | 1 => some .ne | 2 => some .lt | 3 => some .le | 4 => some .gt | 5 => some .ge
  | 6 => some .uo | 7 => some .ord | _ => none

/-- OP values of latom (R378). -/
def LatomOp.code : LatomOp → Nat
  | .add => 0 | .min => 1 | .max => 2 | .swap => 3 | .cas => 4

def LatomOp.ofCode : Nat → Option LatomOp
  | 0 => some .add | 1 => some .min | 2 => some .max | 3 => some .swap | 4 => some .cas | _ => none

/-- The token fields of family E (R51). -/
def KE.dec (w : Nat) : KE := ⟨fld w 17 4, fld w 13 4, fld w 9 4, fld w 5 4⟩

def KE.enc (k : KE) : Nat := k.kd.toNat * 2 ^ 17 + k.ka.toNat * 2 ^ 13 + k.kb.toNat * 2 ^ 9 + k.kc.toNat * 2 ^ 5

/-- The result and token fields of family EY (R51). -/
def EYF.dec (w : Nat) : EYF := ⟨fld w 16 5, fld w 12 4, fld w 8 4, fld w 4 4⟩

def EYF.enc (r : EYF) : Nat := r.d.toNat * 2 ^ 16 + r.pd.toNat * 2 ^ 12 + r.ka.toNat * 2 ^ 8 + r.kb.toNat * 2 ^ 4

/-- PN and PRED of a slot word (R35). -/
def Guard.dec (w : Nat) : Guard := ⟨bitAt w 25, fld w 21 4⟩

/-! ### The opcode grids -/

/-- The X slot's opcode grid (R59): the instruction whose fields the word holds, before the checks of R38. -/
def parseX (g : Guard) (op w lend : Nat) : Option Instr :=
  match op with
  | 0 => some (.add g .x (fld w 16 5) (fld w 11 5) (fld w 6 5) (fld w 4 2))
  | 1 => some (.sub g .x (fld w 16 5) (fld w 11 5) (fld w 6 5) (fld w 4 2))
  | 2 => some (.and g .x (fld w 16 5) (fld w 11 5) (fld w 6 5) (fld w 4 2))
  | 3 => some (.or g .x (fld w 16 5) (fld w 11 5) (fld w 6 5) (fld w 4 2))
  | 4 => some (.xor g .x (fld w 16 5) (fld w 11 5) (fld w 6 5) (fld w 4 2))
  | 5 => some (.andn g .x (fld w 16 5) (fld w 11 5) (fld w 6 5) (fld w 4 2))
  | 6 => some (.shl g .x (fld w 16 5) (fld w 11 5) (fld w 6 5) (fld w 4 2))
  | 7 => some (.shr g .x (fld w 16 5) (fld w 11 5) (fld w 6 5) (fld w 4 2))
  | 8 => some (.sra g .x (fld w 16 5) (fld w 11 5) (fld w 6 5) (fld w 4 2))
  | 9 => some (.rol g (fld w 16 5) (fld w 11 5) (fld w 6 5) (fld w 4 2))
  | 10 => some (.mulX g (fld w 16 5) (fld w 11 5) (fld w 6 5) (fld w 4 2))
  | 11 => some (.mulh g (fld w 16 5) (fld w 11 5) (fld w 6 5) (fld w 4 2) (bitAt w 0))
  | 12 => some (.minX g (fld w 16 5) (fld w 11 5) (fld w 6 5) (fld w 4 2) (bitAt w 0))
  | 13 => some (.maxX g (fld w 16 5) (fld w 11 5) (fld w 6 5) (fld w 4 2) (bitAt w 0))
  | 14 => some (.sextX g (fld w 16 5) (fld w 11 5) (fld w 4 2))
  | 15 => some (.zextX g (fld w 16 5) (fld w 11 5) (fld w 4 2))
  | 16 => some (.addi g .x (fld w 16 5) (fld w 11 5) (BitVec.ofNat 14 (bits w 0 11 + lend * 2 ^ 11)))
  | 17 => some (.andi g .x (fld w 16 5) (fld w 11 5) (BitVec.ofNat 14 (bits w 0 11 + lend * 2 ^ 11)))
  | 18 => some (.ori g .x (fld w 16 5) (fld w 11 5) (BitVec.ofNat 14 (bits w 0 11 + lend * 2 ^ 11)))
  | 19 => some (.xori g .x (fld w 16 5) (fld w 11 5) (BitVec.ofNat 14 (bits w 0 11 + lend * 2 ^ 11)))
  | 20 => some (.shli g .x (fld w 16 5) (fld w 11 5) (BitVec.ofNat 14 (bits w 0 11 + lend * 2 ^ 11)))
  | 21 => some (.shri g .x (fld w 16 5) (fld w 11 5) (BitVec.ofNat 14 (bits w 0 11 + lend * 2 ^ 11)))
  | 22 => some (.srai g .x (fld w 16 5) (fld w 11 5) (BitVec.ofNat 14 (bits w 0 11 + lend * 2 ^ 11)))
  | 23 => some (.muli g (fld w 16 5) (fld w 11 5) (BitVec.ofNat 14 (bits w 0 11 + lend * 2 ^ 11)))
  | 24 => some (.liX g (fld w 16 5) (BitVec.ofNat 19 (bits w 0 16 + lend * 2 ^ 16)))
  | 25 => some (.lihX g (fld w 16 5) (BitVec.ofNat 19 (bits w 0 16 + lend * 2 ^ 16)))
  | 26 => some (.bextX g (fld w 16 5) (fld w 11 5) (fld w 5 6) (BitVec.ofNat 6 (bits w 0 5 + lend * 2 ^ 5)))
  | 27 => some (.bins g (fld w 16 5) (fld w 11 5) (fld w 5 6) (BitVec.ofNat 6 (bits w 0 5 + lend * 2 ^ 5)))
  | 28 => some (.clzX g (fld w 16 5) (fld w 11 5) (fld w 4 2))
  | 29 => some (.ctz g (fld w 16 5) (fld w 11 5) (fld w 4 2))
  | 30 => some (.popcX g (fld w 16 5) (fld w 11 5) (fld w 4 2))
  | 31 => some (.selX g (fld w 16 5) (fld w 11 5) (fld w 6 5) (fld w 2 4))
  | 32 => (Cond.ofCode (bits w 3 4)).map fun cc' => .cmpX g (fld w 17 4) (fld w 12 5) (fld w 7 5) cc' (fld w 1 2)
  | 33 => (Cond.ofCode (bits w 8 4)).map fun cc' => .cmpiX g (fld w 17 4) (fld w 12 5) cc' (BitVec.ofNat 11 (bits w 0 8 + lend * 2 ^ 8))
  | 34 => some (.plogX g (fld w 17 4) (fld w 13 4) (fld w 9 4) (fld w 5 4))
  | 35 => some (.movxy g (fld w 16 5) (fld w 11 5) (fld w 4 2))
  | 36 => some (.br g (BitVec.ofNat 24 (bits w 0 21 + lend * 2 ^ 21)))
  | 37 => some (.call g (BitVec.ofNat 24 (bits w 0 21 + lend * 2 ^ 21)))
  | 38 => some (.jr g (fld w 16 5) (fld w 11 5))
  | 39 => some (.ret g)
  | 40 => some (.mfsr g (fld w 16 5) (BitVec.ofNat 14 (bits w 0 11 + lend * 2 ^ 11)))
  | 41 => some (.mtsr g (fld w 11 5) (BitVec.ofNat 14 (bits w 0 11 + lend * 2 ^ 11)))
  | 42 => some (.setlc g (fld w 11 5) (BitVec.ofNat 14 (bits w 0 11 + lend * 2 ^ 11)))
  | 43 => some (.rdfel g (fld w 16 5))
  | 44 => some (.clrfel g)
  | 45 => some (.yield g)
  | 46 => some (.halt g)
  | 47 => some (.trap g (BitVec.ofNat 14 (bits w 0 11 + lend * 2 ^ 11)))
  | 48 => some (.eret g)
  | 49 => some (.uret g)
  | 50 => some (.chk g (fld w 16 5) (BitVec.ofNat 19 (bits w 0 16 + lend * 2 ^ 16)))
  | _ => none

/-- The Y slot's opcode grid (R60): the instruction whose fields the word holds, before the checks of R38. -/
def parseY (g : Guard) (op w lend : Nat) : Option Instr :=
  match op with
  | 0 => some (.add g .y (fld w 16 5) (fld w 11 5) (fld w 6 5) (fld w 4 2))
  | 1 => some (.sub g .y (fld w 16 5) (fld w 11 5) (fld w 6 5) (fld w 4 2))
  | 2 => some (.and g .y (fld w 16 5) (fld w 11 5) (fld w 6 5) (fld w 4 2))
  | 3 => some (.or g .y (fld w 16 5) (fld w 11 5) (fld w 6 5) (fld w 4 2))
  | 4 => some (.xor g .y (fld w 16 5) (fld w 11 5) (fld w 6 5) (fld w 4 2))
  | 5 => some (.andn g .y (fld w 16 5) (fld w 11 5) (fld w 6 5) (fld w 4 2))
  | 6 => some (.shl g .y (fld w 16 5) (fld w 11 5) (fld w 6 5) (fld w 4 2))
  | 7 => some (.shr g .y (fld w 16 5) (fld w 11 5) (fld w 6 5) (fld w 4 2))
  | 8 => some (.sra g .y (fld w 16 5) (fld w 11 5) (fld w 6 5) (fld w 4 2))
  | 9 => some (.mulY g (fld w 16 5) (fld w 11 5) (fld w 6 5) (fld w 4 2))
  | 10 => some (.minY g (fld w 16 5) (fld w 11 5) (fld w 6 5) (fld w 4 2) (bitAt w 0))
  | 11 => some (.maxY g (fld w 16 5) (fld w 11 5) (fld w 6 5) (fld w 4 2) (bitAt w 0))
  | 12 => some (.lea g (fld w 16 5) (fld w 11 5) (fld w 6 5) (fld w 0 4))
  | 13 => some (.clzY g (fld w 16 5) (fld w 11 5) (fld w 4 2))
  | 14 => some (.popcY g (fld w 16 5) (fld w 11 5) (fld w 4 2))
  | 15 => some (.sextY g (fld w 16 5) (fld w 11 5) (fld w 4 2))
  | 16 => some (.addi g .y (fld w 16 5) (fld w 11 5) (BitVec.ofNat 14 (bits w 0 11 + lend * 2 ^ 11)))
  | 17 => some (.andi g .y (fld w 16 5) (fld w 11 5) (BitVec.ofNat 14 (bits w 0 11 + lend * 2 ^ 11)))
  | 18 => some (.ori g .y (fld w 16 5) (fld w 11 5) (BitVec.ofNat 14 (bits w 0 11 + lend * 2 ^ 11)))
  | 19 => some (.xori g .y (fld w 16 5) (fld w 11 5) (BitVec.ofNat 14 (bits w 0 11 + lend * 2 ^ 11)))
  | 20 => some (.shli g .y (fld w 16 5) (fld w 11 5) (BitVec.ofNat 14 (bits w 0 11 + lend * 2 ^ 11)))
  | 21 => some (.shri g .y (fld w 16 5) (fld w 11 5) (BitVec.ofNat 14 (bits w 0 11 + lend * 2 ^ 11)))
  | 22 => some (.srai g .y (fld w 16 5) (fld w 11 5) (BitVec.ofNat 14 (bits w 0 11 + lend * 2 ^ 11)))
  | 23 => some (.liY g (fld w 16 5) (BitVec.ofNat 19 (bits w 0 16 + lend * 2 ^ 16)))
  | 24 => some (.lihY g (fld w 16 5) (BitVec.ofNat 19 (bits w 0 16 + lend * 2 ^ 16)))
  | 25 => some (.bextY g (fld w 16 5) (fld w 11 5) (fld w 5 6) (BitVec.ofNat 6 (bits w 0 5 + lend * 2 ^ 5)))
  | 26 => (Cond.ofCode (bits w 3 4)).map fun cc' => .cmpY g (fld w 17 4) (fld w 12 5) (fld w 7 5) cc' (fld w 1 2)
  | 27 => (Cond.ofCode (bits w 8 4)).map fun cc' => .cmpiY g (fld w 17 4) (fld w 12 5) cc' (BitVec.ofNat 11 (bits w 0 8 + lend * 2 ^ 8))
  | 28 => some (.plogY g (fld w 17 4) (fld w 13 4) (fld w 9 4) (fld w 5 4))
  | 29 => some (.selY g (fld w 16 5) (fld w 11 5) (fld w 6 5) (fld w 2 4))
  | 30 => some (.movyx g (fld w 16 5) (fld w 11 5) (fld w 4 2))
  | 31 => some (.zextY g (fld w 16 5) (fld w 11 5) (fld w 4 2))
  | 32 => some (.xlat g (fld w 17 4) (fld w 12 5) (fld w 4 3))
  | 33 => some (.hdrop g (fld w 17 4))
  | 34 => some (.hmov g (fld w 17 4) (fld w 12 4))
  | 35 => some (.hinfo g (fld w 17 4) (fld w 7 5))
  | 40 => some (.lset g (fld w 17 3) (fld w 15 2) (fld w 10 5))
  | 41 => some (.lget g (fld w 17 3) (fld w 15 2) (fld w 10 5))
  | 42 => some (.bset g (fld w 17 3) (fld w 10 5))
  | 43 => some (.bget g (fld w 17 3) (fld w 10 5))
  | _ => none

/-- The L slot's opcode grid (R61): the instruction whose fields the word holds, before the checks of R38. -/
def parseL (g : Guard) (op w lend : Nat) : Option Instr :=
  match op with
  | 0 => some (.ld g (Cl.ofBit (bitAt w 15)) (fld w 16 5) (fld w 10 5) (fld w 6 4) (fld w 4 2) (BitVec.ofNat 7 (bits w 0 4 + lend * 2 ^ 4)))
  | 1 => some (.ldz g (Cl.ofBit (bitAt w 15)) (fld w 16 5) (fld w 10 5) (fld w 6 4) (fld w 4 2) (BitVec.ofNat 7 (bits w 0 4 + lend * 2 ^ 4)))
  | 2 => some (.st g (Cl.ofBit (bitAt w 15)) (fld w 16 5) (fld w 10 5) (fld w 6 4) (fld w 4 2) (BitVec.ofNat 7 (bits w 0 4 + lend * 2 ^ 4)))
  | 3 => some (.ldS g (Cl.ofBit (bitAt w 15)) (fld w 16 5) (fld w 10 5) (fld w 6 4) (fld w 4 2) (BitVec.ofNat 7 (bits w 0 4 + lend * 2 ^ 4)))
  | 4 => some (.ldf g (Cl.ofBit (bitAt w 15)) (fld w 16 5) (fld w 10 5) (fld w 6 4) (fld w 4 2) (BitVec.ofNat 7 (bits w 0 4 + lend * 2 ^ 4)))
  | 5 => some (.ldfe g (Cl.ofBit (bitAt w 15)) (fld w 16 5) (fld w 10 5) (fld w 6 4) (fld w 4 2) (BitVec.ofNat 7 (bits w 0 4 + lend * 2 ^ 4)))
  | 6 => some (.ste g (Cl.ofBit (bitAt w 15)) (fld w 16 5) (fld w 10 5) (fld w 6 4) (fld w 4 2) (BitVec.ofNat 7 (bits w 0 4 + lend * 2 ^ 4)))
  | 7 => some (.tset g (Cl.ofBit (bitAt w 15)) (fld w 16 5) (fld w 10 5) (fld w 6 4) (fld w 4 2) (BitVec.ofNat 7 (bits w 0 4 + lend * 2 ^ 4)))
  | 8 => some (.tget g (Cl.ofBit (bitAt w 15)) (fld w 16 5) (fld w 10 5) (fld w 6 4) (fld w 4 2) (BitVec.ofNat 7 (bits w 0 4 + lend * 2 ^ 4)))
  | 9 => some (.ldh g (Cl.ofBit (bitAt w 15)) (fld w 16 5) (fld w 11 4) (fld w 6 5) (fld w 2 4) (fld w 0 2) (BitVec.ofNat 3 lend))
  | 10 => some (.ldhz g (Cl.ofBit (bitAt w 15)) (fld w 16 5) (fld w 11 4) (fld w 6 5) (fld w 2 4) (fld w 0 2) (BitVec.ofNat 3 lend))
  | 11 => some (.sth g (Cl.ofBit (bitAt w 15)) (fld w 16 5) (fld w 11 4) (fld w 6 5) (fld w 2 4) (fld w 0 2) (BitVec.ofNat 3 lend))
  | 12 => some (.ldhS g (Cl.ofBit (bitAt w 15)) (fld w 16 5) (fld w 11 4) (fld w 6 5) (fld w 2 4) (fld w 0 2) (BitVec.ofNat 3 lend))
  | 13 => some (.ldq g (fld w 19 2) (fld w 15 4) (fld w 10 5) (fld w 6 4) (fld w 4 2))
  | 14 => some (.qpop g (Cl.ofBit (bitAt w 15)) (fld w 16 5) (fld w 13 2))
  | 16 => some (.ldv g (fld w 16 5) (fld w 11 5) (fld w 7 4) (fld w 5 2) (BitVec.ofNat 8 (bits w 0 5 + lend * 2 ^ 5)))
  | 17 => some (.stv g (fld w 16 5) (fld w 11 5) (fld w 7 4) (fld w 5 2) (BitVec.ofNat 8 (bits w 0 5 + lend * 2 ^ 5)))
  | 18 => some (.ldvh g (fld w 16 5) (fld w 12 4) (fld w 7 5) (fld w 3 4) (fld w 1 2))
  | 19 => some (.stvh g (fld w 16 5) (fld w 12 4) (fld w 7 5) (fld w 3 4) (fld w 1 2))
  | 20 => some (.ldvg g (fld w 16 5) (fld w 11 5) (fld w 6 5) (fld w 2 4) (fld w 0 2))
  | 21 => some (.stvs g (fld w 16 5) (fld w 11 5) (fld w 6 5) (fld w 2 4) (fld w 0 2))
  | 22 => some (.ldvm g (fld w 16 5) (fld w 12 4) (fld w 7 5) (fld w 3 4))
  | 23 => some (.ldvS g (fld w 16 5) (fld w 11 5) (fld w 7 4) (fld w 5 2) (BitVec.ofNat 8 (bits w 0 5 + lend * 2 ^ 5)))
  | 24 => some (.fenceC g (fld w 5 16) (fld w 1 4))
  | 25 => some (.fenceBank g (fld w 5 16) (fld w 1 4))
  | 26 => some (.stlink g (fld w 16 5) (fld w 12 4) (fld w 7 5) (fld w 3 4))
  | 27 => some (.ldlink g (fld w 16 5) (fld w 12 4) (fld w 7 5) (fld w 3 4))
  | _ => none

/-- The V slot's opcode grid (R62): the instruction whose fields the word holds, before the checks of R38. -/
def parseV (g : Guard) (op w lend : Nat) : Option Instr :=
  match op with
  | 0 => (Fmt.ofCode (bits w 2 4)).map fun fmt' => .vadd g (fld w 16 5) (fld w 11 5) (fld w 6 5) fmt' (BitVec.ofNat 3 lend)
  | 1 => (Fmt.ofCode (bits w 2 4)).map fun fmt' => .vsub g (fld w 16 5) (fld w 11 5) (fld w 6 5) fmt' (BitVec.ofNat 3 lend)
  | 2 => (Fmt.ofCode (bits w 2 4)).map fun fmt' => .vmul g (fld w 16 5) (fld w 11 5) (fld w 6 5) fmt' (BitVec.ofNat 3 lend)
  | 3 => (Fmt.ofCode (bits w 2 4)).map fun fmt' => .vfma g (fld w 16 5) (fld w 11 5) (fld w 6 5) fmt' (BitVec.ofNat 3 lend)
  | 4 => (Fmt.ofCode (bits w 2 4)).map fun fmt' => .vfms g (fld w 16 5) (fld w 11 5) (fld w 6 5) fmt' (BitVec.ofNat 3 lend)
  | 5 => (Fmt.ofCode (bits w 2 4)).map fun fmt' => .vmin g (fld w 16 5) (fld w 11 5) (fld w 6 5) fmt' (bitAt w 0)
  | 6 => (Fmt.ofCode (bits w 2 4)).map fun fmt' => .vmax g (fld w 16 5) (fld w 11 5) (fld w 6 5) fmt' (bitAt w 0)
  | 7 => (Fmt.ofCode (bits w 2 4)).map fun fmt' => .vabs g (fld w 16 5) (fld w 11 5) fmt' (BitVec.ofNat 3 lend)
  | 8 => (Fmt.ofCode (bits w 2 4)).map fun fmt' => .vneg g (fld w 16 5) (fld w 11 5) fmt' (BitVec.ofNat 3 lend)
  | 9 => some (.vand g (fld w 16 5) (fld w 11 5) (fld w 6 5))
  | 10 => some (.vor g (fld w 16 5) (fld w 11 5) (fld w 6 5))
  | 11 => some (.vxor g (fld w 16 5) (fld w 11 5) (fld w 6 5))
  | 12 => some (.vandn g (fld w 16 5) (fld w 11 5) (fld w 6 5))
  | 13 => (Fmt.ofCode (bits w 2 4)).map fun fmt' => .vshl g (fld w 16 5) (fld w 11 5) (fld w 6 5) fmt'
  | 14 => (Fmt.ofCode (bits w 2 4)).map fun fmt' => .vshr g (fld w 16 5) (fld w 11 5) (fld w 6 5) fmt'
  | 15 => (Fmt.ofCode (bits w 2 4)).map fun fmt' => .vsra g (fld w 16 5) (fld w 11 5) (fld w 6 5) fmt'
  | 16 => (VCond.ofCode (bits w 4 3)).bind fun cc' => (Fmt.ofCode (bits w 0 4)).map fun fmt' => .vcmp g (fld w 17 4) (fld w 12 5) (fld w 7 5) cc' fmt'
  | 17 => some (.vsel g (fld w 16 5) (fld w 11 5) (fld w 6 5) (fld w 2 4))
  | 18 => (Fmt.ofCode (bits w 2 4)).map fun fmt' => .vdiv g (fld w 16 5) (fld w 11 5) (fld w 6 5) fmt' (BitVec.ofNat 3 lend)
  | 19 => (Fmt.ofCode (bits w 2 4)).map fun fmt' => .vsqrt g (fld w 16 5) (fld w 11 5) fmt' (BitVec.ofNat 3 lend)
  | 20 => (Fmt.ofCode (bits w 2 4)).map fun fmt' => .vrsqrt g (fld w 16 5) (fld w 11 5) fmt' (BitVec.ofNat 3 lend)
  | 21 => some (.vexp2 g (fld w 16 5) (fld w 11 5))
  | 22 => (Fmt.ofCode (bits w 7 4)).bind fun src' => (Fmt.ofCode (bits w 3 4)).map fun dst' => .vcvt g (fld w 16 5) (fld w 11 5) src' dst' (BitVec.ofNat 3 lend)
  | 23 => (Fmt.ofCode (bits w 7 4)).bind fun src' => (Fmt.ofCode (bits w 3 4)).map fun dst' => .vpack g (fld w 16 5) (fld w 11 5) src' dst' (fld w 0 3) (BitVec.ofNat 3 lend)
  | 24 => (Fmt.ofCode (bits w 7 4)).bind fun src' => (Fmt.ofCode (bits w 3 4)).map fun dst' => .vunpk g (fld w 16 5) (fld w 11 5) src' dst' (fld w 0 3) (BitVec.ofNat 3 lend)
  | 25 => (Fmt.ofCode (bits w 2 4)).map fun fmt' => .vredadd g (fld w 16 5) (fld w 11 5) fmt' (fld w 0 2) (BitVec.ofNat 3 lend)
  | 26 => (Fmt.ofCode (bits w 2 4)).map fun fmt' => .vredmax g (fld w 16 5) (fld w 11 5) fmt' (fld w 0 2)
  | 27 => (Fmt.ofCode (bits w 2 4)).map fun fmt' => .vredmin g (fld w 16 5) (fld w 11 5) fmt' (fld w 0 2)
  | 28 => some (.vperm g (fld w 16 5) (fld w 11 5) (fld w 6 5))
  | 29 => (Fmt.ofCode (bits w 1 4)).map fun fmt' => .vbcast g (fld w 16 5) (fld w 11 5) fmt'
  | 30 => (Fmt.ofCode (bits w 2 4)).map fun fmt' => .vmerge g (fld w 16 5) (fld w 11 5) (fld w 6 5) fmt' (fld w 0 2)
  | 31 => (Fmt.ofCode (bits w 2 4)).map fun fmt' => .vscan g (fld w 16 5) (fld w 11 5) (fld w 6 5) fmt' (fld w 0 2) (BitVec.ofNat 3 lend)
  | 32 => some (.agen g (fld w 16 5) (fld w 11 5) (fld w 6 5) (fld w 1 5))
  | 33 => (Fmt.ofCode (bits w 1 4)).map fun fmt' => .vext g (fld w 16 5) (fld w 11 5) (fld w 5 6) fmt'
  | 34 => (Fmt.ofCode (bits w 1 4)).map fun fmt' => .vins g (fld w 16 5) (fld w 11 5) (fld w 5 6) fmt'
  | 35 => some (.viota g (fld w 16 5) (fld w 11 5) (fld w 5 6))
  | 36 => some (.vmov g (fld w 16 5) (fld w 11 5))
  | 37 => (Fmt.ofCode (bits w 2 4)).map fun fmt' => .vclz g (fld w 16 5) (fld w 11 5) fmt'
  | 38 => (Fmt.ofCode (bits w 2 4)).map fun fmt' => .vpopc g (fld w 16 5) (fld w 11 5) fmt'
  | _ => none

/-- The M slot's opcode grid (R63): the instruction whose fields the word holds, before the checks of R38. -/
def parseM (g : Guard) (op w lend : Nat) : Option Instr :=
  match op with
  | 0 => (Fmt.ofCode (bits w 2 4)).map fun fmt' => .mma g (fld w 16 5) (fld w 11 5) (fld w 6 5) fmt' (bitAt w 0) (bitAt w 1) (BitVec.ofNat 3 lend)
  | 1 => (Fmt.ofCode (bits w 2 4)).map fun fmt' => .mmaz g (fld w 16 5) (fld w 11 5) (fld w 6 5) fmt' (bitAt w 0) (bitAt w 1) (BitVec.ofNat 3 lend)
  | 2 => (Fmt.ofCode (bits w 1 4)).map fun fmt' => .mcon g (fld w 16 5) (fld w 13 3) (fld w 10 3) (fld w 5 5) fmt'
  | 3 => some (.mrot g (fld w 16 5) (fld w 5 6))
  | 4 => (Fmt.ofCode (bits w 7 4)).map fun fmt' => .mdrain g (fld w 16 5) (fld w 11 5) fmt' (fld w 3 4) (bitAt w 2) (BitVec.ofNat 3 lend)
  | 5 => some (.mzero g (fld w 16 5))
  | 6 => some (.mldac g (fld w 16 5) (fld w 11 5))
  | 7 => some (.mstac g (fld w 16 5) (fld w 11 5))
  | 8 => some (.mhld g (fld w 11 5) (fld w 5 6))
  | 9 => some (.mdmap g (fld w 11 5) (fld w 5 6))
  | 10 => some (.mdclr g)
  | 11 => some (.mord g (fld w 16 5) (fld w 10 3) (fld w 5 5))
  | 12 => some (.macv g (fld w 16 5) (fld w 11 5) (fld w 6 5) (fld w 0 6))
  | 13 => some (.mvac g (fld w 16 5) (fld w 11 5) (fld w 6 5) (fld w 0 6))
  | 14 => some (.mcopy g (fld w 16 5) (fld w 11 5) (bitAt w 0))
  | _ => none

/-- The E slot's opcode grid (R64): the instruction whose fields the word holds, before the checks of R38. -/
def parseE (g : Guard) (op w lend : Nat) : Option Instr :=
  match op with
  | 0 => some (.copy g (KE.dec w) (bitAt w 4) (fld w 0 4) (BitVec.ofNat 3 lend))
  | 1 => some (.copyg g (KE.dec w) (bitAt w 4) (fld w 0 4) (BitVec.ofNat 3 lend))
  | 2 => some (.copyx g (KE.dec w) (bitAt w 4) (fld w 0 4) (BitVec.ofNat 3 lend))
  | 3 => some (.binacq g (EYF.dec w) (BitVec.ofNat 3 lend))
  | 4 => some (.binrel g (KE.dec w) (BitVec.ofNat 3 lend))
  | 5 => some (.waitany g (EYF.dec w) (BitVec.ofNat 3 lend))
  | 6 => some (.binst g (EYF.dec w) (BitVec.ofNat 3 lend))
  | 7 => some (.binkill g (KE.dec w) (BitVec.ofNat 3 lend))
  | 8 => some (.kwait g (fld w 13 4) (fld w 9 4) (fld w 5 4))
  | 9 => some (.kjoin g (KE.dec w))
  | 10 => some (.kpoll g (fld w 16 5) (fld w 12 4) (fld w 8 4))
  | 11 => some (.uiarm g (fld w 13 4))
  | 12 => some (.uidis g (fld w 13 4))
  | 16 => some (.walk g (KE.dec w) (fld w 3 2) (fld w 0 3) (BitVec.ofNat 3 lend))
  | 17 => some (.wnext g (EYF.dec w) (fld w 0 3) (BitVec.ofNat 3 lend))
  | 18 => some (.wstop g (KE.dec w) (fld w 0 3))
  | 19 => some (.wsave g (KE.dec w) (fld w 0 3) (BitVec.ofNat 3 lend))
  | 20 => some (.wrest g (KE.dec w) (fld w 0 3) (BitVec.ofNat 3 lend))
  | 21 => some (.wbudget g (KE.dec w) (fld w 0 3) (BitVec.ofNat 3 lend))
  | 22 => some (.chain g (KE.dec w) (fld w 3 2) (fld w 0 3) (BitVec.ofNat 3 lend))
  | 24 => some (.bank g (KE.dec w) (fld w 0 4) (BitVec.ofNat 3 lend))
  | 25 => some (.fbind g (fld w 17 4) (bitAt w 4) (fld w 0 4) (BitVec.ofNat 3 lend))
  | 26 => some (.funbind g (fld w 17 4) (fld w 0 4))
  | 27 => some (.xfer g (KE.dec w) (bitAt w 4) (fld w 0 4) (BitVec.ofNat 3 lend))
  | 28 => some (.lalloc g (EYF.dec w) (BitVec.ofNat 3 lend))
  | 29 => some (.lallocM g (EYF.dec w) (BitVec.ofNat 3 lend))
  | 30 => some (.lfree g (KE.dec w) (BitVec.ofNat 3 lend))
  | 31 => (LatomOp.ofCode (bits w 0 3)).map fun op' => .latom g (EYF.dec w) (bitAt w 3) op' (BitVec.ofNat 3 lend)
  | 32 => some (.bar g (KE.dec w) (BitVec.ofNat 3 lend))
  | 33 => some (.barw g (KE.dec w) (BitVec.ofNat 3 lend))
  | 34 => some (.semadd g (EYF.dec w) (fld w 0 4) (BitVec.ofNat 3 lend))
  | 35 => some (.semcas g (EYF.dec w) (fld w 0 4) (BitVec.ofNat 3 lend))
  | 36 => some (.semwait g (KE.dec w) (bitAt w 4) (fld w 0 4) (BitVec.ofNat 3 lend))
  | 37 => some (.semrd g (EYF.dec w) (fld w 0 4) (BitVec.ofNat 3 lend))
  | 38 => some (.launch g (KE.dec w) (bitAt w 4) (fld w 0 4) (BitVec.ofNat 3 lend))
  | 39 => some (.retire g (fld w 13 4) (fld w 9 4) (fld w 5 4))
  | _ => none

/-- The S slot's opcode grid (R65): the instruction whose fields the word holds, before the checks of R38. -/
def parseS (g : Guard) (op w lend : Nat) : Option Instr :=
  match op with
  | 0 => some (.sld g (fld w 17 4) (fld w 12 5) (fld w 8 4) (BitVec.ofNat 11 (bits w 0 8 + lend * 2 ^ 8)))
  | 1 => some (.sldh g (fld w 17 4) (fld w 13 4) (fld w 8 5) (fld w 4 4))
  | 2 => some (.sbc g (fld w 17 4) (fld w 12 5))
  | 3 => some (.sst g (fld w 17 4) (fld w 12 5) (fld w 8 4) (BitVec.ofNat 11 (bits w 0 8 + lend * 2 ^ 8)))
  | _ => none

/-- The grid of a slot kind. -/
def parseSlot (k : SlotKind) (g : Guard) (op w lend : Nat) : Option Instr :=
  match k with
  | .X => parseX g op w lend
  | .Y => parseY g op w lend
  | .L => parseL g op w lend
  | .V => parseV g op w lend
  | .M => parseM g op w lend
  | .E => parseE g op w lend
  | .S => parseS g op w lend

/-- The assigned opcodes of each grid (R37, R59 to R65). -/
def opAssigned (k : SlotKind) (op : Nat) : Bool :=
  match k with
  | .X => op ≤ 0x32
  | .Y => op ≤ 0x23 || (0x28 ≤ op && op ≤ 0x2B)
  | .L => op ≤ 0xE || (0x10 ≤ op && op ≤ 0x1B)
  | .V => op ≤ 0x26
  | .M => op ≤ 0xE
  | .E => op ≤ 0xC || (0x10 ≤ op && op ≤ 0x16) || (0x18 ≤ op && op ≤ 0x27)
  | .S => op ≤ 3

/-! ### The encoder -/

/-- A slot word from its opcode, predicate fields and operands (R35). -/
def slotBits (op : Nat) (g : Guard) (x : Nat) : Nat :=
  op * 2 ^ 26 + g.pn.toNat * 2 ^ 25 + g.pred.toNat * 2 ^ 21 + x

/-- A field at its place in the operands. -/
def putBits {n : Nat} (x : BitVec n) (lo : Nat) : Nat := x.toNat * 2 ^ lo

def putBit (b : Bool) (lo : Nat) : Nat := b.toNat * 2 ^ lo

def putNat (v lo : Nat) : Nat := v * 2 ^ lo

/-- The bits of an immediate that stand in the slot word, and those its LEND group holds (R38). -/
def lowPart {m : Nat} (x : BitVec m) (n : Nat) : Nat := x.toNat % 2 ^ n

def highPart {m : Nat} (x : BitVec m) (n : Nat) : Nat := x.toNat / 2 ^ n

/-- A slot word from its kind, opcode, predicate fields, operand fields at their places, and LEND group. -/
def slotOf (k : SlotKind) (op : Nat) (g : Guard) (fs : List Nat) (lend : Nat) : Option (SlotKind × Nat × Nat) :=
  some (k, slotBits op g fs.sum, lend)

/-- Slot kind, slot word and LEND group of an instruction (R39, R43, R44, R47, R51); none for the steps that
have no slot word. -/
def slotWord : Instr → Option (SlotKind × Nat × Nat)
  | .add g c d a b w => slotOf c.kind 0 g [putBits d 16, putBits a 11, putBits b 6, putBits w 4] 0
  | .sub g c d a b w => slotOf c.kind 1 g [putBits d 16, putBits a 11, putBits b 6, putBits w 4] 0
  | .and g c d a b w => slotOf c.kind 2 g [putBits d 16, putBits a 11, putBits b 6, putBits w 4] 0
  | .or g c d a b w => slotOf c.kind 3 g [putBits d 16, putBits a 11, putBits b 6, putBits w 4] 0
  | .xor g c d a b w => slotOf c.kind 4 g [putBits d 16, putBits a 11, putBits b 6, putBits w 4] 0
  | .andn g c d a b w => slotOf c.kind 5 g [putBits d 16, putBits a 11, putBits b 6, putBits w 4] 0
  | .shl g c d a b w => slotOf c.kind 6 g [putBits d 16, putBits a 11, putBits b 6, putBits w 4] 0
  | .shr g c d a b w => slotOf c.kind 7 g [putBits d 16, putBits a 11, putBits b 6, putBits w 4] 0
  | .sra g c d a b w => slotOf c.kind 8 g [putBits d 16, putBits a 11, putBits b 6, putBits w 4] 0
  | .rol g d a b w => slotOf .X 9 g [putBits d 16, putBits a 11, putBits b 6, putBits w 4] 0
  | .mulX g d a b w => slotOf .X 10 g [putBits d 16, putBits a 11, putBits b 6, putBits w 4] 0
  | .mulY g d a b w => slotOf .Y 9 g [putBits d 16, putBits a 11, putBits b 6, putBits w 4] 0
  | .mulh g d a b w u => slotOf .X 11 g [putBits d 16, putBits a 11, putBits b 6, putBits w 4, putBit u 0] 0
  | .minX g d a b w u => slotOf .X 12 g [putBits d 16, putBits a 11, putBits b 6, putBits w 4, putBit u 0] 0
  | .minY g d a b w u => slotOf .Y 10 g [putBits d 16, putBits a 11, putBits b 6, putBits w 4, putBit u 0] 0
  | .maxX g d a b w u => slotOf .X 13 g [putBits d 16, putBits a 11, putBits b 6, putBits w 4, putBit u 0] 0
  | .maxY g d a b w u => slotOf .Y 11 g [putBits d 16, putBits a 11, putBits b 6, putBits w 4, putBit u 0] 0
  | .lea g d a b f => slotOf .Y 12 g [putBits d 16, putBits a 11, putBits b 6, putBits f 0, putNat 3 4] 0
  | .sextX g d a w => slotOf .X 14 g [putBits d 16, putBits a 11, putBits w 4] 0
  | .sextY g d a w => slotOf .Y 15 g [putBits d 16, putBits a 11, putBits w 4] 0
  | .zextX g d a w => slotOf .X 15 g [putBits d 16, putBits a 11, putBits w 4] 0
  | .zextY g d a w => slotOf .Y 31 g [putBits d 16, putBits a 11, putBits w 4] 0
  | .clzX g d a w => slotOf .X 28 g [putBits d 16, putBits a 11, putBits w 4] 0
  | .clzY g d a w => slotOf .Y 13 g [putBits d 16, putBits a 11, putBits w 4] 0
  | .ctz g d a w => slotOf .X 29 g [putBits d 16, putBits a 11, putBits w 4] 0
  | .popcX g d a w => slotOf .X 30 g [putBits d 16, putBits a 11, putBits w 4] 0
  | .popcY g d a w => slotOf .Y 14 g [putBits d 16, putBits a 11, putBits w 4] 0
  | .movxy g d a w => slotOf .X 35 g [putBits d 16, putBits a 11, putBits w 4] 0
  | .movyx g d a w => slotOf .Y 30 g [putBits d 16, putBits a 11, putBits w 4] 0
  | .addi g c d a imm => slotOf c.kind 16 g [putBits d 16, putBits a 11, lowPart imm 11] (highPart imm 11)
  | .andi g c d a imm => slotOf c.kind 17 g [putBits d 16, putBits a 11, lowPart imm 11] (highPart imm 11)
  | .ori g c d a imm => slotOf c.kind 18 g [putBits d 16, putBits a 11, lowPart imm 11] (highPart imm 11)
  | .xori g c d a imm => slotOf c.kind 19 g [putBits d 16, putBits a 11, lowPart imm 11] (highPart imm 11)
  | .shli g c d a imm => slotOf c.kind 20 g [putBits d 16, putBits a 11, lowPart imm 11] (highPart imm 11)
  | .shri g c d a imm => slotOf c.kind 21 g [putBits d 16, putBits a 11, lowPart imm 11] (highPart imm 11)
  | .srai g c d a imm => slotOf c.kind 22 g [putBits d 16, putBits a 11, lowPart imm 11] (highPart imm 11)
  | .muli g d a imm => slotOf .X 23 g [putBits d 16, putBits a 11, lowPart imm 11] (highPart imm 11)
  | .liX g d imm => slotOf .X 24 g [putBits d 16, lowPart imm 16] (highPart imm 16)
  | .liY g d imm => slotOf .Y 23 g [putBits d 16, lowPart imm 16] (highPart imm 16)
  | .lihX g d imm => slotOf .X 25 g [putBits d 16, lowPart imm 16] (highPart imm 16)
  | .lihY g d imm => slotOf .Y 24 g [putBits d 16, lowPart imm 16] (highPart imm 16)
  | .bextX g d a pos len => slotOf .X 26 g [putBits d 16, putBits a 11, putBits pos 5, lowPart len 5] (highPart len 5)
  | .bextY g d a pos len => slotOf .Y 25 g [putBits d 16, putBits a 11, putBits pos 5, lowPart len 5] (highPart len 5)
  | .bins g d a pos len => slotOf .X 27 g [putBits d 16, putBits a 11, putBits pos 5, lowPart len 5] (highPart len 5)
  | .cmpX g pd a b cc w => slotOf .X 32 g [putBits pd 17, putBits a 12, putBits b 7, putNat cc.code 3, putBits w 1] 0
  | .cmpY g pd a b cc w => slotOf .Y 26 g [putBits pd 17, putBits a 12, putBits b 7, putNat cc.code 3, putBits w 1] 0
  | .cmpiX g pd a cc imm => slotOf .X 33 g [putBits pd 17, putBits a 12, putNat cc.code 8, lowPart imm 8] (highPart imm 8)
  | .cmpiY g pd a cc imm => slotOf .Y 27 g [putBits pd 17, putBits a 12, putNat cc.code 8, lowPart imm 8] (highPart imm 8)
  | .plogX g pd pa pb fn => slotOf .X 34 g [putBits pd 17, putBits pa 13, putBits pb 9, putBits fn 5] 0
  | .plogY g pd pa pb fn => slotOf .Y 28 g [putBits pd 17, putBits pa 13, putBits pb 9, putBits fn 5] 0
  | .selX g d a b ps => slotOf .X 31 g [putBits d 16, putBits a 11, putBits b 6, putBits ps 2] 0
  | .selY g d a b ps => slotOf .Y 29 g [putBits d 16, putBits a 11, putBits b 6, putBits ps 2] 0
  | .br g off => slotOf .X 36 g [lowPart off 21] (highPart off 21)
  | .call g off => slotOf .X 37 g [lowPart off 21] (highPart off 21)
  | .jr g d a => slotOf .X 38 g [putBits d 16, putBits a 11] 0
  | .ret g => slotOf .X 39 g [] 0
  | .mfsr g d sr => slotOf .X 40 g [putBits d 16, lowPart sr 11] (highPart sr 11)
  | .mtsr g a sr => slotOf .X 41 g [putBits a 11, lowPart sr 11] (highPart sr 11)
  | .setlc g a imm => slotOf .X 42 g [putBits a 11, lowPart imm 11] (highPart imm 11)
  | .rdfel g d => slotOf .X 43 g [putBits d 16] 0
  | .clrfel g => slotOf .X 44 g [] 0
  | .yield g => slotOf .X 45 g [] 0
  | .halt g => slotOf .X 46 g [] 0
  | .trap g n => slotOf .X 47 g [lowPart n 11] (highPart n 11)
  | .eret g => slotOf .X 48 g [] 0
  | .uret g => slotOf .X 49 g [] 0
  | .chk g a off => slotOf .X 50 g [putBits a 16, lowPart off 16] (highPart off 16)
  | .xlat g h a perm => slotOf .Y 32 g [putBits h 17, putBits a 12, putBits perm 4] 0
  | .hdrop g h => slotOf .Y 33 g [putBits h 17] 0
  | .hmov g h src => slotOf .Y 34 g [putBits h 17, putBits src 12] 0
  | .hinfo g h d => slotOf .Y 35 g [putBits h 17, putBits d 7] 0
  | .lset g n part y => slotOf .Y 40 g [putBits n 17, putBits part 15, putBits y 10] 0
  | .lget g n part y => slotOf .Y 41 g [putBits n 17, putBits part 15, putBits y 10] 0
  | .bset g n y => slotOf .Y 42 g [putBits n 17, putBits y 10] 0
  | .bget g n y => slotOf .Y 43 g [putBits n 17, putBits y 10] 0
  | .ld g cl t a cls w off => slotOf .L 0 g [putNat cl.code 15, putBits t 16, putBits a 10, putBits cls 6, putBits w 4, lowPart off 4] (highPart off 4)
  | .ldz g cl t a cls w off => slotOf .L 1 g [putNat cl.code 15, putBits t 16, putBits a 10, putBits cls 6, putBits w 4, lowPart off 4] (highPart off 4)
  | .st g cl t a cls w off => slotOf .L 2 g [putNat cl.code 15, putBits t 16, putBits a 10, putBits cls 6, putBits w 4, lowPart off 4] (highPart off 4)
  | .ldS g cl t a cls w off => slotOf .L 3 g [putNat cl.code 15, putBits t 16, putBits a 10, putBits cls 6, putBits w 4, lowPart off 4] (highPart off 4)
  | .ldf g cl t a cls w off => slotOf .L 4 g [putNat cl.code 15, putBits t 16, putBits a 10, putBits cls 6, putBits w 4, lowPart off 4] (highPart off 4)
  | .ldfe g cl t a cls w off => slotOf .L 5 g [putNat cl.code 15, putBits t 16, putBits a 10, putBits cls 6, putBits w 4, lowPart off 4] (highPart off 4)
  | .ste g cl t a cls w off => slotOf .L 6 g [putNat cl.code 15, putBits t 16, putBits a 10, putBits cls 6, putBits w 4, lowPart off 4] (highPart off 4)
  | .tset g cl t a cls w off => slotOf .L 7 g [putNat cl.code 15, putBits t 16, putBits a 10, putBits cls 6, putBits w 4, lowPart off 4] (highPart off 4)
  | .tget g cl t a cls w off => slotOf .L 8 g [putNat cl.code 15, putBits t 16, putBits a 10, putBits cls 6, putBits w 4, lowPart off 4] (highPart off 4)
  | .ldh g cl t h o cls w disp => slotOf .L 9 g [putNat cl.code 15, putBits t 16, putBits h 11, putBits o 6, putBits cls 2, putBits w 0] disp.toNat
  | .ldhz g cl t h o cls w disp => slotOf .L 10 g [putNat cl.code 15, putBits t 16, putBits h 11, putBits o 6, putBits cls 2, putBits w 0] disp.toNat
  | .sth g cl t h o cls w disp => slotOf .L 11 g [putNat cl.code 15, putBits t 16, putBits h 11, putBits o 6, putBits cls 2, putBits w 0] disp.toNat
  | .ldhS g cl t h o cls w disp => slotOf .L 12 g [putNat cl.code 15, putBits t 16, putBits h 11, putBits o 6, putBits cls 2, putBits w 0] disp.toNat
  | .ldq g q h o cls w => slotOf .L 13 g [putBits q 19, putBits h 15, putBits o 10, putBits cls 6, putBits w 4] 0
  | .qpop g cl t q => slotOf .L 14 g [putNat cl.code 15, putBits t 16, putBits q 13] 0
  | .ldv g v a cls ew off => slotOf .L 16 g [putBits v 16, putBits a 11, putBits cls 7, putBits ew 5, lowPart off 5] (highPart off 5)
  | .stv g v a cls ew off => slotOf .L 17 g [putBits v 16, putBits a 11, putBits cls 7, putBits ew 5, lowPart off 5] (highPart off 5)
  | .ldvS g v a cls ew off => slotOf .L 23 g [putBits v 16, putBits a 11, putBits cls 7, putBits ew 5, lowPart off 5] (highPart off 5)
  | .ldvh g v h o cls ew => slotOf .L 18 g [putBits v 16, putBits h 12, putBits o 7, putBits cls 3, putBits ew 1] 0
  | .stvh g v h o cls ew => slotOf .L 19 g [putBits v 16, putBits h 12, putBits o 7, putBits cls 3, putBits ew 1] 0
  | .ldvm g v h o cls => slotOf .L 22 g [putBits v 16, putBits h 12, putBits o 7, putBits cls 3, putNat 2 1] 0
  | .ldvg g v i a cls ew => slotOf .L 20 g [putBits v 16, putBits i 11, putBits a 6, putBits cls 2, putBits ew 0] 0
  | .stvs g v i a cls ew => slotOf .L 21 g [putBits v 16, putBits i 11, putBits a 6, putBits cls 2, putBits ew 0] 0
  | .fenceC g mask scope => slotOf .L 24 g [putBits mask 5, putBits scope 1] 0
  | .fenceBank g mask scope => slotOf .L 25 g [putBits mask 5, putBits scope 1] 0
  | .stlink g t h o cls => slotOf .L 26 g [putBits t 16, putBits h 12, putBits o 7, putBits cls 3] 0
  | .ldlink g t h o cls => slotOf .L 27 g [putBits t 16, putBits h 12, putBits o 7, putBits cls 3] 0
  | .vadd g d a b fmt rnd => slotOf .V 0 g [putBits d 16, putBits a 11, putBits b 6, putNat fmt.code 2] rnd.toNat
  | .vsub g d a b fmt rnd => slotOf .V 1 g [putBits d 16, putBits a 11, putBits b 6, putNat fmt.code 2] rnd.toNat
  | .vmul g d a b fmt rnd => slotOf .V 2 g [putBits d 16, putBits a 11, putBits b 6, putNat fmt.code 2] rnd.toNat
  | .vfma g d a b fmt rnd => slotOf .V 3 g [putBits d 16, putBits a 11, putBits b 6, putNat fmt.code 2] rnd.toNat
  | .vfms g d a b fmt rnd => slotOf .V 4 g [putBits d 16, putBits a 11, putBits b 6, putNat fmt.code 2] rnd.toNat
  | .vmin g d a b fmt sub => slotOf .V 5 g [putBits d 16, putBits a 11, putBits b 6, putNat fmt.code 2, putBit sub 0] 0
  | .vmax g d a b fmt sub => slotOf .V 6 g [putBits d 16, putBits a 11, putBits b 6, putNat fmt.code 2, putBit sub 0] 0
  | .vabs g d a fmt rnd => slotOf .V 7 g [putBits d 16, putBits a 11, putNat fmt.code 2] rnd.toNat
  | .vneg g d a fmt rnd => slotOf .V 8 g [putBits d 16, putBits a 11, putNat fmt.code 2] rnd.toNat
  | .vand g d a b => slotOf .V 9 g [putBits d 16, putBits a 11, putBits b 6, putNat 2 2] 0
  | .vor g d a b => slotOf .V 10 g [putBits d 16, putBits a 11, putBits b 6, putNat 2 2] 0
  | .vxor g d a b => slotOf .V 11 g [putBits d 16, putBits a 11, putBits b 6, putNat 2 2] 0
  | .vandn g d a b => slotOf .V 12 g [putBits d 16, putBits a 11, putBits b 6, putNat 2 2] 0
  | .vshl g d a b fmt => slotOf .V 13 g [putBits d 16, putBits a 11, putBits b 6, putNat fmt.code 2] 0
  | .vshr g d a b fmt => slotOf .V 14 g [putBits d 16, putBits a 11, putBits b 6, putNat fmt.code 2] 0
  | .vsra g d a b fmt => slotOf .V 15 g [putBits d 16, putBits a 11, putBits b 6, putNat fmt.code 2] 0
  | .vcmp g pd a b cc fmt => slotOf .V 16 g [putBits pd 17, putBits a 12, putBits b 7, putNat cc.code 4, putNat fmt.code 0] 0
  | .vsel g d a b ps => slotOf .V 17 g [putBits d 16, putBits a 11, putBits b 6, putBits ps 2] 0
  | .vdiv g d a b fmt rnd => slotOf .V 18 g [putBits d 16, putBits a 11, putBits b 6, putNat fmt.code 2] rnd.toNat
  | .vsqrt g d a fmt rnd => slotOf .V 19 g [putBits d 16, putBits a 11, putNat fmt.code 2] rnd.toNat
  | .vrsqrt g d a fmt rnd => slotOf .V 20 g [putBits d 16, putBits a 11, putNat fmt.code 2] rnd.toNat
  | .vexp2 g d a => slotOf .V 21 g [putBits d 16, putBits a 11, putNat 4 2] 0
  | .vcvt g d a src dst rnd => slotOf .V 22 g [putBits d 16, putBits a 11, putNat src.code 7, putNat dst.code 3] rnd.toNat
  | .vpack g d a src dst hs rnd => slotOf .V 23 g [putBits d 16, putBits a 11, putNat src.code 7, putNat dst.code 3, putBits hs 0] rnd.toNat
  | .vunpk g d a src dst hs rnd => slotOf .V 24 g [putBits d 16, putBits a 11, putNat src.code 7, putNat dst.code 3, putBits hs 0] rnd.toNat
  | .vredadd g d a fmt grp rnd => slotOf .V 25 g [putBits d 16, putBits a 11, putNat fmt.code 2, putBits grp 0] rnd.toNat
  | .vredmax g d a fmt grp => slotOf .V 26 g [putBits d 16, putBits a 11, putNat fmt.code 2, putBits grp 0] 0
  | .vredmin g d a fmt grp => slotOf .V 27 g [putBits d 16, putBits a 11, putNat fmt.code 2, putBits grp 0] 0
  | .vperm g d a b => slotOf .V 28 g [putBits d 16, putBits a 11, putBits b 6, putNat 2 2] 0
  | .vbcast g d y fmt => slotOf .V 29 g [putBits d 16, putBits y 11, putNat fmt.code 1] 0
  | .vmerge g d a b fmt mode => slotOf .V 30 g [putBits d 16, putBits a 11, putBits b 6, putNat fmt.code 2, putBits mode 0] 0
  | .vscan g d a b fmt sub rnd => slotOf .V 31 g [putBits d 16, putBits a 11, putBits b 6, putNat fmt.code 2, putBits sub 0] rnd.toNat
  | .agen g d a b y => slotOf .V 32 g [putBits d 16, putBits a 11, putBits b 6, putBits y 1] 0
  | .vext g d y lane fmt => slotOf .V 33 g [putBits d 16, putBits y 11, putBits lane 5, putNat fmt.code 1] 0
  | .vins g d y lane fmt => slotOf .V 34 g [putBits d 16, putBits y 11, putBits lane 5, putNat fmt.code 1] 0
  | .viota g d y lane => slotOf .V 35 g [putBits d 16, putBits y 11, putBits lane 5, putNat 2 1] 0
  | .vmov g d a => slotOf .V 36 g [putBits d 16, putBits a 11, putNat 2 2] 0
  | .vclz g d a fmt => slotOf .V 37 g [putBits d 16, putBits a 11, putNat fmt.code 2] 0
  | .vpopc g d a fmt => slotOf .V 38 g [putBits d 16, putBits a 11, putNat fmt.code 2] 0
  | .mma g ac a b fmt ca dm sp => slotOf .M 0 g [putBits ac 16, putBits a 11, putBits b 6, putNat fmt.code 2, putBit ca 0, putBit dm 1] sp.toNat
  | .mmaz g ac a b fmt ca dm sp => slotOf .M 1 g [putBits ac 16, putBits a 11, putBits b 6, putNat fmt.code 2, putBit ca 0, putBit dm 1] sp.toNat
  | .mcon g ac wc bd y fmt => slotOf .M 2 g [putBits ac 16, putBits wc 13, putBits bd 10, putBits y 5, putNat fmt.code 1] 0
  | .mrot g ac k => slotOf .M 3 g [putBits ac 16, putBits k 5] 0
  | .mdrain g ac y fmt sc cmp rnd => slotOf .M 4 g [putBits ac 16, putBits y 11, putNat fmt.code 7, putBits sc 3, putBit cmp 2] rnd.toNat
  | .mzero g ac => slotOf .M 5 g [putBits ac 16] 0
  | .mldac g ac y => slotOf .M 6 g [putBits ac 16, putBits y 11] 0
  | .mstac g ac y => slotOf .M 7 g [putBits ac 16, putBits y 11] 0
  | .mhld g y k => slotOf .M 8 g [putBits y 11, putBits k 5] 0
  | .mdmap g y k => slotOf .M 9 g [putBits y 11, putBits k 5] 0
  | .mdclr g => slotOf .M 10 g [] 0
  | .mord g ac bd y => slotOf .M 11 g [putBits ac 16, putBits bd 10, putBits y 5] 0
  | .macv g ac y v row => slotOf .M 12 g [putBits ac 16, putBits y 11, putBits v 6, putBits row 0] 0
  | .mvac g ac y v row => slotOf .M 13 g [putBits ac 16, putBits y 11, putBits v 6, putBits row 0] 0
  | .mcopy g ac src t => slotOf .M 14 g [putBits ac 16, putBits src 11, putBit t 0] 0
  | .sld g sc a cls off => slotOf .S 0 g [putBits sc 17, putBits a 12, putBits cls 8, lowPart off 8] (highPart off 8)
  | .sldh g sc h o cls => slotOf .S 1 g [putBits sc 17, putBits h 13, putBits o 8, putBits cls 4] 0
  | .sbc g sc y => slotOf .S 2 g [putBits sc 17, putBits y 12] 0
  | .sst g sc a cls off => slotOf .S 3 g [putBits sc 17, putBits a 12, putBits cls 8, lowPart off 8] (highPart off 8)
  | .copy g k st h q => slotOf .E 0 g [k.enc, putBit st 4, putBits h 0] q.toNat
  | .copyg g k st h q => slotOf .E 1 g [k.enc, putBit st 4, putBits h 0] q.toNat
  | .copyx g k st h q => slotOf .E 2 g [k.enc, putBit st 4, putBits h 0] q.toNat
  | .binacq g r q => slotOf .E 3 g [r.enc] q.toNat
  | .waitany g r q => slotOf .E 5 g [r.enc] q.toNat
  | .binst g r q => slotOf .E 6 g [r.enc] q.toNat
  | .binrel g k q => slotOf .E 4 g [k.enc] q.toNat
  | .binkill g k q => slotOf .E 7 g [k.enc] q.toNat
  | .kwait g ka kb kc => slotOf .E 8 g [putBits ka 13, putBits kb 9, putBits kc 5] 0
  | .kjoin g k => slotOf .E 9 g [k.enc] 0
  | .kpoll g d pd ka => slotOf .E 10 g [putBits d 16, putBits pd 12, putBits ka 8] 0
  | .uiarm g ka => slotOf .E 11 g [putBits ka 13] 0
  | .uidis g ka => slotOf .E 12 g [putBits ka 13] 0
  | .walk g k f wc q => slotOf .E 16 g [k.enc, putBits f 3, putBits wc 0] q.toNat
  | .chain g k f wc q => slotOf .E 22 g [k.enc, putBits f 3, putBits wc 0] q.toNat
  | .wnext g r wc q => slotOf .E 17 g [r.enc, putBits wc 0] q.toNat
  | .wstop g k wc => slotOf .E 18 g [k.enc, putBits wc 0] 0
  | .wsave g k wc q => slotOf .E 19 g [k.enc, putBits wc 0] q.toNat
  | .wrest g k wc q => slotOf .E 20 g [k.enc, putBits wc 0] q.toNat
  | .wbudget g k wc q => slotOf .E 21 g [k.enc, putBits wc 0] q.toNat
  | .bank g k h q => slotOf .E 24 g [k.enc, putBits h 0] q.toNat
  | .fbind g kd snd n q => slotOf .E 25 g [putBits kd 17, putBit snd 4, putBits n 0] q.toNat
  | .funbind g kd n => slotOf .E 26 g [putBits kd 17, putBits n 0] 0
  | .xfer g k get h q => slotOf .E 27 g [k.enc, putBit get 4, putBits h 0] q.toNat
  | .lalloc g r q => slotOf .E 28 g [r.enc] q.toNat
  | .lallocM g r q => slotOf .E 29 g [r.enc] q.toNat
  | .lfree g k q => slotOf .E 30 g [k.enc] q.toNat
  | .latom g r wide op q => slotOf .E 31 g [r.enc, putBit wide 3, putNat op.code 0] q.toNat
  | .bar g k q => slotOf .E 32 g [k.enc] q.toNat
  | .barw g k q => slotOf .E 33 g [k.enc] q.toNat
  | .semadd g r cls q => slotOf .E 34 g [r.enc, putBits cls 0] q.toNat
  | .semcas g r cls q => slotOf .E 35 g [r.enc, putBits cls 0] q.toNat
  | .semrd g r cls q => slotOf .E 37 g [r.enc, putBits cls 0] q.toNat
  | .semwait g k eq cls q => slotOf .E 36 g [k.enc, putBit eq 4, putBits cls 0] q.toNat
  | .launch g k hf hn q => slotOf .E 38 g [k.enc, putBit hf 4, putBits hn 0] q.toNat
  | .retire g ka kb kc => slotOf .E 39 g [putBits ka 13, putBits kb 9, putBits kc 5] 0
  | .emptyBundle _ => none
  | .repeatHead _ _ => none
  | .repetition => none
  | .insertedCycle => none
  | .resultArrival _ _ => none
  | .slackWindowFreeze _ => none
  | .exactResultFreeze _ => none
  | .translationWalkDone _ _ => none
  | .queuedLoadArrival _ _ _ => none
  | .mQueueEntry _ => none
  | .mCommandStart _ => none
  | .mCommandComplete _ => none
  | .eQueueEntry _ => none
  | .eCommandStart _ => none
  | .copyComplete _ => none
  | .gleanerHop _ => none
  | .bankComplete _ => none
  | .xferComplete _ => none
  | .launchSnapshot _ => none
  | .semwaitTest _ => none
  | .userInterruptTaken _ => none
  | .trapTaken _ => none
  | .instancePlacement _ => none
  | .pendingLevelAging _ => none
  | .crossDieWaitExpiry _ => none
  | .singleResnapshot _ => none
  | .contextPartEnd _ => none
  | .instanceEnd _ => none
  | .invalidationAck _ => none
  | .preemptSave _ => none
  | .resumePlacement _ => none
  | .loftRefusal _ _ => none
  | .packetReceive _ _ _ _ _ => none
  | .endToEndResend _ _ => none
  | .fifoWordDelivery _ => none
  | .barrierReport _ => none
  | .barrierRelease _ => none
  | .hostReadCompletion _ _ _ => none
  | .completionTimeout _ _ => none
  | .powerOnReset => none
  | .conventionalReset => none
  | .functionLevelReset => none
  | .start _ => none
  | .startTimeout _ => none
  | .thermalTrip _ => none
  | .clockThrottle _ _ => none
  | .clockRestore _ _ => none
  | .plimWrite _ => none
  | .hflagWrite _ => none
  | .bar0RegisterWrite _ _ => none
  | .plainViewAccess _ _ _ _ => none
  | .fillViewWrite _ _ _ _ => none
  | .fillViewRead _ _ _ => none
  | .unsupportedBar2Access _ _ _ => none
  | .setdev _ => none
  | .setroot _ => none
  | .settvec _ => none
  | .inval _ => none
  | .semten _ => none
  | .quota _ => none
  | .preempt _ => none
  | .resume _ => none
  | .kill _ => none
  | .planelost _ => none
  | .planeclr _ => none
  | .faultrec _ => none
  | .attest _ => none
  | .recover _ => none
  | .hbmload _ => none
  | .exactResultArrival _ _ => none
  | .storePerformed _ _ => none
  | .deviceControl2Write _ => none

/-! ### Slot words -/

/-- What an encoding check finds wrong (R53): a header, an opcode, or the fields of a slot. -/
inductive EncErr
  | header
  | opcode (k : SlotKind)
  | field (k : SlotKind)
  deriving DecidableEq, Repr

/-- One slot word under its header's LEND group: opcode, predicate fields, then operand fields (R53 step 3). -/
def decodeSlot (k : SlotKind) (w lend : Nat) : Except EncErr Instr :=
  if !opAssigned k (bits w 26 6) then .error (.opcode k)
  else if !(Guard.dec w).ok then .error (.field k)
  else
    match parseSlot k (Guard.dec w) (bits w 26 6) w lend with
    | none => .error (.field k)
    | some i => if slotWord i = some (k, w, lend) ∧ i.wf = true then .ok i else .error (.field k)

/-! ### Bundles -/

/-- The order of the slot words in a bundle (R30). -/
def slotKinds : List SlotKind := [.X, .Y, .L, .V, .M, .E, .S]

/-- R32: the MASK bit of a slot kind in a header. -/
def maskBit (k : SlotKind) : Nat := 30 - k.code

/-- R32: the lowest LEND bit of a slot kind in a header. -/
def lendLo (k : SlotKind) : Nat := 18 - 3 * k.code

/-- The slot kinds whose words a header announces, in order (R30). -/
def headerSlots (h : Nat) : List SlotKind := slotKinds.filter fun k => bitAt h (maskBit k)

/-- R30: a bundle's length in bytes. -/
def bundleSize (h : Nat) : Nat := 4 * (1 + (headerSlots h).length)

/-- A decoded bundle. `rep` is the LEND_M of a repeat head (R48), `mword` the word of its M slot. -/
structure Bundle where
  stop : Bool
  rep : Option (BitVec 3)
  slots : List (SlotKind × Instr)
  mword : W32
  size : Nat
  deriving DecidableEq, Repr

/-- The opcodes marked with a dagger in R63. -/
def repOpcode (op : Nat) : Bool := op == 0 || op == 1 || op == 4 || op == 6 || op == 7

/-- The M-slot word among the slot words of a header. -/
def mWordOf : List SlotKind → List Nat → Nat
  | .M :: _, w :: _ => w
  | _ :: ks, _ :: ws => mWordOf ks ws
  | _, _ => 0

/-- R34: the header checks, given the header and the M slot's word. -/
def headerOk (h mw : Nat) : Bool :=
  bits h 21 2 == 0 &&
  slotKinds.all (fun k => bitAt h (maskBit k) || bits h (lendLo k) 3 == 0) &&
  (!bitAt h 23 || (bitAt h (maskBit .M) && repOpcode (bits mw 26 6)))

/-- The slot words of a bundle, in order (R53 step 3). In a repeat head the M slot has no LEND group (R48). -/
def decodeSlots (h : Nat) : List SlotKind → List Nat → Except EncErr (List (SlotKind × Instr))
  | k :: ks, w :: ws =>
    let lend := if k = .M ∧ bitAt h 23 = true then 0 else bits h (lendLo k) 3
    match decodeSlot k w lend with
    | .error e => .error e
    | .ok i =>
      match decodeSlots h ks ws with
      | .error e => .error e
      | .ok r => .ok ((k, i) :: r)
  | _, _ => .ok []

/-- A whole bundle from its header and its slot words (R53 steps 2 and 3). -/
def decodeBundle (h : Nat) (ws : List Nat) : Except EncErr Bundle :=
  let ks := headerSlots h
  let mw := mWordOf ks ws
  if headerOk h mw then
    match decodeSlots h ks ws with
    | .error e => .error e
    | .ok slots =>
      .ok { stop := bitAt h 31
            rep := if bitAt h 23 then some (BitVec.ofNat 3 (bits h (lendLo .M) 3)) else none
            slots := slots
            mword := BitVec.ofNat 32 mw
            size := 4 * (1 + ks.length) }
  else .error .header

/-- The header word of a one-slot bundle whose STOP is set. -/
def headerWord (k : SlotKind) (lend : Nat) : Nat := 2 ^ 31 + 2 ^ maskBit k + lend * 2 ^ lendLo k

/-- The words of an instruction as a bundle of its own: header, then slot word (R30, R31). A repeat head is
written with its M word as its only slot. -/
def encode (i : Instr) : List W32 :=
  match slotWord i with
  | some (k, w, lend) => [BitVec.ofNat 32 (headerWord k lend), BitVec.ofNat 32 w]
  | none =>
    match i with
    | .emptyBundle stop => [BitVec.ofNat 32 (stop.toNat * 2 ^ 31)]
    | .repeatHead len m => [BitVec.ofNat 32 (headerWord .M len.toNat + 2 ^ 23), m]
    | _ => []

/-- The instructions of a bundle as rows of the opcode table: an empty bundle is one of its own (R33), and a
repeat head adds the row of its repetitions before its slots other than M (R176). -/
def bundleInstrs (b : Bundle) : List Instr :=
  match b.rep with
  | some len => .repeatHead len b.mword :: ((b.slots.filter fun p => p.1 ≠ .M).map Prod.snd)
  | none => if b.slots = [] then [.emptyBundle b.stop] else b.slots.map Prod.snd

/-- A well-formed bundle of one instruction, read from its words. -/
def decode (ws : List W32) : Option Instr :=
  match ws with
  | [] => none
  | h :: r =>
    match decodeBundle h.toNat (r.map BitVec.toNat) with
    | .error _ => none
    | .ok b =>
      match bundleInstrs b with
      | [i] => some i
      | _ => none

/-- The first slot kind, in the order of R30, in which a word decodes with a zero LEND group. -/
def firstLegal (w : Nat) : List SlotKind → Option Instr
  | [] => none
  | k :: ks =>
    match decodeSlot k w 0 with
    | .ok i => some i
    | .error _ => firstLegal w ks

/-- The little-endian bytes of the first `nbits` bits of a table word, most of them zero (R3). -/
def tableWord (nbits w : Nat) : Nat := w % 2 ^ nbits % 2 ^ 32

/-- The instruction the decoder reads from a word of spec/opcode_table.json. The table's words are single 32-bit
words: a header with MASK = 0, or a slot word without its header. A slot word does not say which slot it stands in
(R30), so the word is read as a header when it is a legal empty bundle and otherwise in the first slot kind that
accepts it, with the LEND group 000 (DESIGN CHOICE, log entry 81). -/
def decodeTableWord (nbits w : Nat) : Option Instr :=
  if nbits = 0 then none
  else
    let v := tableWord nbits w
    match decode [BitVec.ofNat 32 v] with
    | some i => if headerSlots v = [] then some i else firstLegal v slotKinds
    | none => firstLegal v slotKinds

end Sys2Proof
end

