-- ==== Sys2Proof/Machine/Base.lean ====
section
/-!
DEFINITION. The two containers State is made of: sparse memories in one canonical form (addresses strictly rising, no
entry equal to what an unlisted address reads as, which is zero: log entry 1) and finite maps as sorted lists; with
fixed-length vectors read and written by number.
-/

namespace Sys2Proof.Machine

/-! ### Sparse memories -/

/-- The value at an address; an unlisted address reads as zero (log entry 1). -/
def cellAt {w : Nat} : List (Nat × BitVec w) → Nat → BitVec w
  | [], _ => 0
  | (k, v) :: r, a => if k = a then v else if a < k then 0 else cellAt r a

/-- The part of a memory from an address upwards. -/
def cellsFrom {w : Nat} : List (Nat × BitVec w) → Nat → List (Nat × BitVec w)
  | [], _ => []
  | (k, v) :: r, a => if k < a then cellsFrom r a else (k, v) :: r

/-- The part of a memory below an address. -/
def cellsBelow {w : Nat} : List (Nat × BitVec w) → Nat → List (Nat × BitVec w)
  | [], _ => []
  | (k, v) :: r, a => if k < a then (k, v) :: cellsBelow r a else []

/-- Puts consecutive cells from an address upwards in front of what lies beyond them. -/
def putCells {w : Nat} (m : List (Nat × BitVec w)) (a : Nat) : List (BitVec w) → List (Nat × BitVec w)
  | [] => cellsFrom m a
  | v :: vs => if v = 0 then putCells m (a + 1) vs else (a, v) :: putCells m (a + 1) vs

/-- Writes consecutive cells from an address upwards, keeping the canonical form: a zero is not listed. -/
def writeCells {w : Nat} (m : List (Nat × BitVec w)) (a : Nat) (vs : List (BitVec w)) : List (Nat × BitVec w) :=
  cellsBelow m a ++ putCells (cellsFrom m a) a vs

/-- Writes one cell. -/
def setCell {w : Nat} (m : List (Nat × BitVec w)) (a : Nat) (v : BitVec w) : List (Nat × BitVec w) := writeCells m a [v]

/-- Reads `n` consecutive cells. -/
def readCells {w : Nat} (m : List (Nat × BitVec w)) (a : Nat) : Nat → List (BitVec w)
  | 0 => []
  | n + 1 => cellAt (cellsFrom m a) a :: readCells (cellsFrom m a) (a + 1) n

/-- Clears `n` consecutive cells. -/
def clearCells {w : Nat} (m : List (Nat × BitVec w)) (a n : Nat) : List (Nat × BitVec w) := cellsBelow m a ++ cellsFrom m (a + n)

/-- The canonical form: addresses strictly rising, no entry equal to what an unlisted address reads as. -/
def Memory.wf {w : Nat} : List (Nat × BitVec w) → Bool
  | [] => true
  | [(_, v)] => v != 0
  | (k, v) :: (k', v') :: r => v != 0 && decide (k < k') && Memory.wf ((k', v') :: r)

/-! ### Finite maps -/

/-- The entry of a key in a sorted list. -/
def alGet {α : Type} : List (Nat × α) → Nat → Option α
  | [], _ => none
  | (k, v) :: r, a => if k = a then some v else alGet r a

/-- Sets the entry of a key, keeping the keys in ascending order. -/
def alSet {α : Type} : List (Nat × α) → Nat → α → List (Nat × α)
  | [], a, v => [(a, v)]
  | (k, u) :: r, a, v =>
    if a < k then (a, v) :: (k, u) :: r else if a = k then (a, v) :: r else (k, u) :: alSet r a v

/-- Removes the entry of a key. -/
def alDel {α : Type} (m : List (Nat × α)) (a : Nat) : List (Nat × α) := m.filter fun p => p.1 != a

/-! ### Vectors by number -/

/-- Element `i`, or `d` beyond the end. -/
def vget {α : Type} {n : Nat} (v : Vector α n) (i : Nat) (d : α) : α := (v[i]?).getD d

/-- Replaces element `i`; beyond the end nothing changes. -/
def vset {α : Type} {n : Nat} (v : Vector α n) (i : Nat) (a : α) : Vector α n := v.setIfInBounds i a

/-! ### Bytes and words -/

/-- The number that bytes hold, little-endian (R3). -/
def leNat : List Byte → Nat
  | [] => 0
  | b :: bs => b.toNat + 256 * leNat bs

/-- The `n` little-endian bytes of a number (R3). -/
def leBytes : Nat → Nat → List Byte
  | 0, _ => []
  | n + 1, x => BitVec.ofNat 8 x :: leBytes n (x / 256)

end Sys2Proof.Machine
end

