-- ==== Sys2Proof/Machine/Float.lean ====
section
/-!
DEFINITION. Numbers of the vector and matrix engines (R110 to R128): exact values, the one rounding step RoundFmt of
R117 and R118, conversions (R121), the arithmetic of R119, and exp2 (R125). Every operation forms its exact result
first and rounds once; quotients and roots carry a sticky bit below their last exact bit.
-/

namespace Sys2Proof

/-- Fraction bits, bias, and total width of a floating format (R112). -/
def Fmt.frac : Fmt → Nat
  | .fp32 => 23
  | .bf16 => 7
  | .e4m3 => 3
  | .e5m2 => 2
  | .mxfp4 => 1
  | .int8 | .int16 | .int32 | .int64 | .mxint4 | .mxint6 | .mxint8 => 0

def Fmt.bias : Fmt → Nat
  | .fp32 | .bf16 => 127
  | .e4m3 => 7
  | .e5m2 => 15
  | .mxfp4 => 1
  | .int8 | .int16 | .int32 | .int64 | .mxint4 | .mxint6 | .mxint8 => 0

/-- Whether a format is a floating format, the element of MXFP4 included (R112, R114). -/
def Fmt.isFloat : Fmt → Bool
  | .fp32 | .bf16 | .e4m3 | .e5m2 | .mxfp4 => true
  | .int8 | .int16 | .int32 | .int64 | .mxint4 | .mxint6 | .mxint8 => false

/-- The exponent of the smallest subnormal (R112). -/
def Fmt.emin (f : Fmt) : Int := 1 - (f.bias : Int) - (f.frac : Int)

/-- The largest finite value in units of the smallest subnormal, as a code without sign (R112). -/
def Fmt.maxCode : Fmt → Nat
  | .fp32 => 0x7F7FFFFF
  | .bf16 => 0x7F7F
  | .e5m2 => 0x7B
  | .e4m3 => 0x7E
  | .mxfp4 => 0x7
  | .int8 | .int16 | .int32 | .int64 | .mxint4 | .mxint6 | .mxint8 => 0

/-- The canonical NaN (R112); a format without NaN has +0 in its place (R121). -/
def Fmt.nanCode : Fmt → Nat
  | .fp32 => 0x7FC00000
  | .bf16 => 0x7FC0
  | .e5m2 => 0x7E
  | .e4m3 => 0x7F
  | .mxfp4 | .int8 | .int16 | .int32 | .int64 | .mxint4 | .mxint6 | .mxint8 => 0

/-- The sign bit's weight. -/
def Fmt.signBit (f : Fmt) : Nat := 2 ^ (f.width - 1)

end Sys2Proof

namespace Sys2Proof.Machine

/-- A number a float code names: NaN, an infinity, or ±m × 2^e (R112). -/
inductive Num
  | nan
  | inf (neg : Bool)
  | fin (neg : Bool) (m : Nat) (e : Int)
  deriving DecidableEq, Repr

/-- A code's number (R112). -/
def decodeNum (f : Fmt) (code : Nat) : Num :=
  let neg := bitAt code (f.width - 1)
  let mag := code % f.signBit
  let ex := mag / 2 ^ f.frac
  let fr := mag % 2 ^ f.frac
  let top := 2 ^ (f.width - 1 - f.frac) - 1
  let special := match f with
    | .e4m3 => ex == top && fr == 7
    | .mxfp4 => false
    | _ => ex == top
  if special then
    (if fr = 0 then .inf neg else .nan)
  else if ex = 0 then .fin neg fr f.emin
  else .fin neg (fr + 2 ^ f.frac) (f.emin + ex - 1)

/-- The code of an infinity; E4M3 and E2M1 have none (R118). -/
def infCode (f : Fmt) (neg : Bool) : Nat := neg.toNat * f.signBit + (2 ^ (f.width - 1 - f.frac) - 1) * 2 ^ f.frac

/-- Whether the discarded part `rem` of `2^d` units rounds the magnitude up (R117). -/
def roundsUp (dir : Nat) (neg : Bool) (n rem d : Nat) : Bool :=
  if rem = 0 then false
  else
    match dir with
    | 0 => 2 ^ d < 2 * rem || (2 * rem == 2 ^ d && n % 2 == 1)
    | 1 => false
    | 2 => neg
    | _ => !neg

/-- The magnitude `m × 2^e` rounded to a multiple of `2^q` (R117), in units of `2^q`. -/
def roundAt (dir : Nat) (neg : Bool) (m : Nat) (e q : Int) : Nat :=
  if q ≤ e then m * 2 ^ (e - q).toNat
  else
    let d := (q - e).toNat
    let n := m / 2 ^ d
    if roundsUp dir neg n (m % 2 ^ d) d then n + 1 else n

/-- The overflow row of R118 for a floating format: the code, and the event (R127). -/
def overflow (f : Fmt) (rnd : Nat) (neg : Bool) : Nat × Nat :=
  let sgn := neg.toNat * f.signBit
  let sat := bitAt rnd 2
  if f = .mxfp4 || sat then (sgn + f.maxCode, 5)
  else
    let toMax := match rnd % 4 with
      | 0 => false
      | 1 => true
      | 2 => !neg
      | _ => neg
    if toMax then (sgn + f.maxCode, 4)
    else if f = .e4m3 then (f.nanCode, 4)
    else (infCode f neg, 4)

/-- RoundFmt of a finite value (R117, R118): the code and the event, 0 for none. -/
def roundFin (f : Fmt) (rnd : Nat) (neg : Bool) (m : Nat) (e : Int) : Nat × Nat :=
  if m = 0 then (neg.toNat * f.signBit, 0)
  else
    let ex : Int := (Nat.log2 m : Int) + e
    let q := max (ex - f.frac) f.emin
    let n := roundAt (rnd % 4) neg m e q
    let mag := (q - f.emin).toNat * 2 ^ f.frac + n
    if f.maxCode < mag then overflow f rnd neg else (neg.toNat * f.signBit + mag, 0)

/-- RoundFmt of a number (R117 to R119). `fresh` says that no operand was a NaN. -/
def roundFmt (f : Fmt) (rnd : Nat) (fresh : Bool) : Num → Nat × Nat
  | .nan => if f = .mxfp4 then (0, 5) else (f.nanCode, if fresh then 3 else 0)
  | .inf neg =>
    match f with
    | .e4m3 => if bitAt rnd 2 then (neg.toNat * f.signBit + f.maxCode, 5) else (f.nanCode, 3)
    | .mxfp4 => (neg.toNat * f.signBit + f.maxCode, 5)
    | _ => (infCode f neg, 0)
  | .fin neg m e => roundFin f rnd neg m e

def Num.isNan : Num → Bool
  | .nan => true
  | .inf _ | .fin _ _ _ => false

def Num.isZero : Num → Bool
  | .fin _ 0 _ => true
  | .fin _ _ _ | .nan | .inf _ => false

def Num.neg? : Num → Bool
  | .nan => false
  | .inf n => n
  | .fin n _ _ => n

def Num.negate : Num → Num
  | .nan => .nan
  | .inf n => .inf (!n)
  | .fin n m e => .fin (!n) m e

/-- The exact product; 0 × inf is a NaN (R119). -/
def Num.mul : Num → Num → Num
  | .nan, _ => .nan
  | _, .nan => .nan
  | .inf a, .inf b => .inf (xor a b)
  | .inf a, .fin b m _ => if m = 0 then .nan else .inf (xor a b)
  | .fin a m _, .inf b => if m = 0 then .nan else .inf (xor a b)
  | .fin a m e, .fin b n g => .fin (xor a b) (m * n) (e + g)

/-- A signed magnitude as an integer in units of 2^q, for q at most its exponent. -/
def signedAt (neg : Bool) (m : Nat) (e q : Int) : Int :=
  let v : Int := (m * 2 ^ (e - q).toNat : Nat)
  if neg then -v else v

/-- The exact sum with the zero signs of R119: zeros of one sign keep it; any other exact zero is +0, but −0 under
`.rd`. -/
def Num.add (rnd : Nat) : Num → Num → Num
  | .nan, _ => .nan
  | _, .nan => .nan
  | .inf a, .inf b => if a = b then .inf a else .nan
  | .inf a, .fin _ _ _ => .inf a
  | .fin _ _ _, .inf b => .inf b
  | .fin a m e, .fin b n g =>
    if m = 0 ∧ n = 0 then .fin (if a = b then a else rnd % 4 == 2) 0 0
    else
      let q := min e g
      let s := signedAt a m e q + signedAt b n g q
      if s = 0 then .fin (rnd % 4 == 2) 0 0 else .fin (s < 0) s.natAbs q

/-- The exact quotient, with enough bits and a sticky bit for one rounding (R119). -/
def Num.div : Num → Num → Num
  | .nan, _ => .nan
  | _, .nan => .nan
  | .inf _, .inf _ => .nan
  | .inf a, .fin b _ _ => .inf (xor a b)
  | .fin a _ _, .inf b => .fin (xor a b) 0 0
  | .fin a m e, .fin b n g =>
    if n = 0 then (if m = 0 then .nan else .inf (xor a b))
    else if m = 0 then .fin (xor a b) 0 0
    else
      let sh := Nat.log2 n + 40
      let x := m * 2 ^ sh
      .fin (xor a b) (2 * (x / n) + (if x % n = 0 then 0 else 1)) (e - g - sh - 1)

/-- The integer square root by bits from the top, `fuel` bits of it. -/
def isqrtBits : Nat → Nat → Nat → Nat
  | 0, _, r => r
  | k + 1, n, r => if (r + 2 ^ k) * (r + 2 ^ k) ≤ n then isqrtBits k n (r + 2 ^ k) else isqrtBits k n r

def isqrt (n : Nat) : Nat := isqrtBits (Nat.log2 n / 2 + 1) n 0

/-- The square root (R119), with a sticky bit. -/
def Num.sqrt : Num → Num
  | .nan => .nan
  | .inf n => if n then .nan else .inf false
  | .fin neg m e =>
    if m = 0 then .fin neg 0 0
    else if neg then .nan
    else
      let sh : Nat := if e % 2 = 0 then 64 else 65
      let x := m * 2 ^ sh
      let r := isqrt x
      .fin false (2 * r + (if r * r = x then 0 else 1)) ((e - sh) / 2 - 1)

/-- The reciprocal square root (R119), rounded once: floor of sqrt(2^k / m) with a sticky bit. -/
def Num.rsqrt : Num → Num
  | .nan => .nan
  | .inf n => if n then .nan else .fin false 0 0
  | .fin neg m e =>
    if m = 0 then .inf neg
    else if neg then .nan
    else
      let k0 : Nat := 2 * (Nat.log2 m + 40)
      let k : Nat := if (e + k0) % 2 = 0 then k0 else k0 + 1
      let x := 2 ^ k
      let r := isqrt (x / m)
      .fin false (2 * r + (if r * r * m = x then 0 else 1)) (-((e + k) / 2) - 1)

/-- A code with its event; the event of an arithmetic result is the first of R127 that applies. -/
abbrev Rounded := Nat × Nat

/-- RoundNE of R117: FP32 to nearest even without saturation. -/
def roundNE (fresh : Bool) (x : Num) : Rounded := roundFmt .fp32 0 fresh x

def fp32 (code : Nat) : Num := decodeNum .fp32 code

/-- a + b in FP32 to nearest even, with the event it records. -/
def addNE (a b : Nat) : Rounded :=
  let x := fp32 a
  let y := fp32 b
  roundNE (!x.isNan && !y.isNan) (x.add 0 y)

/-- a × b in FP32 to nearest even, with the event it records. -/
def mulNE (a b : Nat) : Rounded :=
  let x := fp32 a
  let y := fp32 b
  roundNE (!x.isNan && !y.isNan) (x.mul y)

/-! ### Integers and conversions -/

/-- An integer clamped to n bits: its code and whether it was clamped (R118, R119). -/
def clampInt (n : Nat) (v : Int) : Nat × Bool :=
  let lo : Int := -(2 ^ (n - 1) : Int)
  let hi : Int := 2 ^ (n - 1) - 1
  if v < lo then (wrapTo n lo, true) else if hi < v then (wrapTo n hi, true) else (wrapTo n v, false)

/-- An integer as a number. -/
def numOfInt (v : Int) : Num := .fin (v < 0) v.natAbs 0

/-- A number rounded to an integer in direction RND[1:0] and clamped to n bits (R121): a NaN gives 0. -/
def toIntCode (n rnd : Nat) : Num → Rounded
  | .nan => (0, 5)
  | .inf neg => ((clampInt n (if neg then -(2 ^ n : Int) else 2 ^ n)).1, 5)
  | .fin neg m e =>
    let mag := roundAt (rnd % 4) neg m e 0
    let c := clampInt n (if neg then -(mag : Int) else (mag : Int))
    (c.1, if c.2 then 5 else 0)

/-- Conversion of a lane-form code between formats, MX elements with scale 1.0 (R121, R142). -/
def convert (src dst : Fmt) (rnd code : Nat) : Rounded :=
  if src.isFloat then
    let x := decodeNum src code
    if dst.isFloat then roundFmt dst rnd false x
    else toIntCode dst.width rnd x
  else
    let v := signedOf src.width code
    if dst.isFloat then roundFmt dst rnd true (numOfInt v)
    else if src.width ≤ dst.width then (wrapTo dst.width v, 0)
    else if bitAt rnd 2 || dst.isMx then
      let c := clampInt dst.width v
      (c.1, if c.2 then 5 else 0)
    else (wrapTo dst.width v, 0)

/-- A lane's 32 bits for an element code of a format (R130). -/
def laneOf (f : Fmt) (code : Nat) : W32 :=
  if f.isFloat then BitVec.ofNat 32 (code % 2 ^ f.width) else BitVec.ofNat 32 (wrapTo 32 (signedOf f.width code))

/-- The number of a lane-form code of any format. -/
def numOf (f : Fmt) (code : Nat) : Num :=
  if f.isFloat then decodeNum f (code % 2 ^ f.width) else numOfInt (signedOf f.width code)

/-- The FP32 code of a format's element, exact (R121). -/
def toFp32 (f : Fmt) (code : Nat) : Nat := (convert f .fp32 0 (code % 2 ^ f.width)).1

/-- Total order of lane values with −0 below +0 (R137), for numbers that are not NaN. -/
def Num.lt : Num → Num → Bool
  | .nan, _ => false
  | _, .nan => false
  | .inf a, .inf b => a && !b
  | .inf a, .fin _ _ _ => a
  | .fin _ _ _, .inf b => !b
  | .fin a m e, .fin b n g =>
    let q := min e g
    let x := signedAt a m e q
    let y := signedAt b n g q
    x < y || (x == y && m == 0 && a && !b)

/-- Equality of values, −0 equal to +0 (R140). -/
def Num.eq : Num → Num → Bool
  | .nan, _ => false
  | _, .nan => false
  | .inf a, .inf b => a == b
  | .inf _, .fin _ _ _ => false
  | .fin _ _ _, .inf _ => false
  | .fin a m e, .fin b n g => signedAt a m e (min e g) == signedAt b n g (min e g)

/-- The floor of a finite number. -/
def Num.floor (neg : Bool) (m : Nat) (e : Int) : Int :=
  if 0 ≤ e then signedAt neg m e 0
  else (if neg then -(m : Int) else (m : Int)) / (2 ^ (-e).toNat : Int)

/-- vexp2 (R125): the code and the event. -/
def exp2 (code : Nat) : Rounded :=
  match fp32 code with
  | .nan => (0x7FC00000, 0)
  | .inf neg => if neg then (0, 0) else (0x7F800000, 0)
  | .fin neg m e =>
    let n0 := Num.floor neg m e
    let f0 := (roundNE true ((Num.fin neg m e).add 0 (numOfInt (-n0)))).1
    let n := if f0 = 0x3F800000 then n0 + 1 else n0
    let f := if f0 = 0x3F800000 then 0 else f0
    if n < -126 then (0, 0)
    else if 127 < n then (0x7F800000, 4)
    else
      let t1 := (mulNE f 0x3DA00000).1
      let t2 := (addNE 0x3E680000 t1).1
      let t3 := (mulNE f t2).1
      let t4 := (addNE 0x3F320000 t3).1
      let t5 := (mulNE f t4).1
      let p := (addNE 0x3F800000 t5).1
      let r := (p : Int) + n * 2 ^ 23
      if 0x7F800000 ≤ r then (0x7F800000, 4) else (r.toNat, 0)

end Sys2Proof.Machine
end

