-- ==== Sys2Proof/Config.lean ====
section
/-!
DEFINITION. What the device fixes (sizes and default choices that the spec states as constants), what the model
chooses where the spec gives no number, and the free values: results of units whose computation the spec does not
describe. A free value is a constant without a body, so no proof can learn what it is.
-/

namespace Sys2Proof.Config

/-- R206, R222: the 64-byte lines of a core's L1 of 256 KiB. -/
def l1Lines : Nat := 4096

/-- R212: the translation-buffer entries of a die. -/
def tlbSize : Nat := 2048

/-- R377: the entries of a package's mirror directory. -/
def mirrorMax : Nat := 256

/-- R183: results in flight per context. -/
def maxInFlight : Nat := 64

/-- R16: bound(c) of latency class c; class 0 promises none. -/
def bound (c : Nat) : Nat := if c = 0 then 0 else 24 * 2 ^ (c - 1)

/-- R252, R159: queue lengths of the engines. -/
def copyQueue : Nat := 64
def bufferQueue : Nat := 16
def tokenQueue : Nat := 16
def bankQueue : Nat := 16
def arrayQueue : Nat := 8
def drainQueue : Nat := 8

/-- DESIGN CHOICE (log entry 12): queue lengths of the units for which the spec gives none (launch, fabric and
loft commands). -/
def otherQueue : Nat := 16

/-- R255: incomplete tokens per context. -/
def maxTokens : Nat := 64

/-- R189: records in a die's pending set. -/
def pendingMax : Nat := 256

/-- R186: the default reserved range of a command stream. -/
def reservedDefault : Nat := 0x500000

/-- R28: the size of a cluster's local window. -/
def windowSize : Nat := 0x600000

/-- R207: the HBM range, and the memory of one loft plane. -/
def hbmSize : Nat := 0xC000000000
def loftSize : Nat := 0x8000000000

/-! ### Free values -/

/-- A 64-bit value the spec does not state (log entry 3): the value under the poison bit of a load that accessed nothing
(R107, R218, R221), and what a loft switch's refusal or a lost plane leaves open (R374, R379). -/
opaque freeValue (n : Nat) : W64

/-- Whether a signature over some bytes verifies under the vendor key whose digest is fused (R393), which the spec does not give (log
entry 59, as for the next three). -/
opaque signatureOk (bytes sig : List Byte) : Bool

/-- The signature of an attestation report under the package's fused device key (R396). -/
opaque attestSign (bytes : List Byte) : BitVec 768

/-- The fused minimum of the security version (R393). -/
opaque fusedMinimum : BitVec 32

/-- The fuse configuration of an attestation report (R396). -/
opaque fuseConfig : BitVec 128

/-! ### The start image (R394)

The spec says what the body of a firmware image carries and not how its bytes are laid out (log entry 60). -/

/-- The start-up configuration of a die (R186, R394): the command-stream context, its tenant with its translation root and trap
vector, the start of the reserved range, the tiles it holds, and the entry address. -/
structure StreamCfg where
  ctx : Nat
  tenant : BitVec 16
  root : W64
  tvec : W64
  reserved : Nat
  acb : Nat
  acn : Nat
  entry : W64
  deriving DecidableEq, Repr

/-- The segments of a firmware body's start image: physical HBM address and bytes. -/
opaque imageSegments (body : List Byte) : List (Nat × List Byte)

/-- What a start image says of a die's command stream (R185, R186, R394): where it runs, where its reserved range starts, in
units of 64 KiB, and which tiles it holds (the first and how many), each only if it departs from the default; its tenant with
root and trap vector; and its entry address. -/
structure StreamImage where
  place : Option (Fin 24 × Fin 8 × Fin 4)
  tenant : BitVec 16
  root : W64
  tvec : W64
  reserved : Option (Fin 96)
  tiles : Option (Fin 32 × Fin 33)
  entry : W64
  deriving DecidableEq, Repr, Inhabited

/-- The start-up configuration of a die, with the defaults of R185 and R186 where its start image names nothing else: context 0 of
core 0 of cluster 0, the range from 0x500000, and no tiles. -/
def StreamImage.cfg (m : StreamImage) (die : Nat) : StreamCfg where
  ctx := die * 1024 + m.place.elim 0 fun p => p.1.val * 32 + p.2.1.val * 4 + p.2.2.val
  tenant := m.tenant
  root := m.root
  tvec := m.tvec
  reserved := m.reserved.elim reservedDefault fun n => n.val * 65536
  acb := m.tiles.elim 0 fun t => t.1.val
  acn := m.tiles.elim 0 fun t => min t.2.val (32 - t.1.val)
  entry := m.entry

/-- The configuration of a die's command stream in a firmware body's start image. -/
opaque imageStreams (body : List Byte) (die : Nat) : StreamImage

end Sys2Proof.Config
end

