-- ==== Sys2Proof/Machine/State.lean ====
section
/-!
DEFINITION. The state of the device as plain data. One package: four dies of 24 clusters of eight cores of four
contexts, their scratchpads, the HBM stacks, the loft planes and host memory as seen from the device, the engines with
the commands they hold, the reeve's tables and the boot state. A context is named by its CTXID number (R99):
die * 1024 + cluster * 32 + core * 4 + context; a core is that number divided by 4, a cluster divided by 32.
-/

namespace Sys2Proof.Machine

/-! ### Registers of a context -/

/-- A scalar register: 64 bits and the poison bit (R9). -/
structure Reg where
  val : W64
  poison : Bool
  deriving DecidableEq, Repr

/-- A vector register: 64 lanes of 32 bits (R129). -/
abbrev Lanes := Vector W32 64

def Lanes.zero : Lanes := Vector.replicate 64 0

/-- A page's translation as a leaf holds it (R210) and a handle keeps it (R213). `size` is 0 for 64 KiB, 1 for
2 MiB, 2 for 1 GiB; `tgt` 0 HBM, 1 loft, 2 host; `vpage` and `ppn` are bits [51:16] and [47:16]. -/
structure Handle where
  valid : Bool
  vpage : BitVec 36
  size : BitVec 2
  tgt : BitVec 2
  ppn : BitVec 32
  lclass : BitVec 3
  cview : BitVec 2
  afmt : BitVec 4
  bankl : BitVec 2
  kv : Bool
  tstride : BitVec 3
  plane : BitVec 5
  perm : BitVec 3
  deriving DecidableEq, Repr

def Handle.none : Handle := ⟨false, 0, 0, 0, 0, 0, 0, 0, 0, false, 0, 0, 0⟩

/-- A walk cursor w0 to w7 as its 32-byte image (R292). -/
abbrev Cursor := BitVec 256

/-- An entry of a load queue (R221): the ordering class and the cycle of its ldq (R231), its data once it has arrived, its
poison, how it failed, if it did (trap and detail), whether it is being read afresh after that, and whether a later access
has fixed its value meanwhile (R318, log entry 103). -/
structure QEntry where
  id : Nat
  cls : BitVec 4
  cyc : Nat
  width : BitVec 2
  handle : Handle
  off : Nat
  val : W64
  poison : Bool
  arrived : Bool
  failed : Option (Nat × W64)
  again : Bool
  fixed : Bool
  deriving DecidableEq, Repr

/-- The register files a slot names (R9, R129, R158, R213, R221, R255, R261, R292, R307). -/
structure Regs where
  x : Vector Reg 32
  y : Vector Reg 32
  p : Vector W64 16
  v : Vector Lanes 32
  sc : Vector Lanes 16
  h : Vector Handle 16
  k : Vector (Option Nat) 16
  l : Vector (BitVec 192) 8
  b : Vector W64 8
  w : Vector Cursor 8
  deriving DecidableEq, Repr

def Reg.zero : Reg := ⟨0, false⟩

def Regs.reset : Regs where
  x := Vector.replicate 32 Reg.zero
  y := Vector.replicate 32 Reg.zero
  p := Vector.replicate 16 0
  v := Vector.replicate 32 Lanes.zero
  sc := Vector.replicate 16 Lanes.zero
  h := Vector.replicate 16 Handle.none
  k := Vector.replicate 16 none
  l := Vector.replicate 8 0
  b := Vector.replicate 8 0
  w := Vector.replicate 8 0

/-- An event of the first-event log with its producer's place: bundle, slot kind, lane (R126, R128). -/
structure FelEvent where
  seq : Nat
  slot : Nat
  lane : Nat
  code : Nat
  addr : Nat
  deriving DecidableEq, Repr

/-- The special registers of R95. FEL is kept with its producer's place. A clrfel leaves the events that become visible in its
own cycle and later (R104): `felNew` is what FEL would hold of the events of the present cycle alone, `felSince` of those from
the cycle of the latest clrfel on. -/
structure Srs where
  slack : W64
  lc : W64
  uiv : W64
  tenant : BitVec 16
  rsta : W64
  rstb : W64
  rstd : W64
  acyc : W64
  epc : W64
  ecause : W64
  einfo : W64
  ebp : W64
  fel : Option FelEvent
  felNew : Option FelEvent
  felSince : Option FelEvent
  deriving DecidableEq, Repr

def Srs.reset : Srs := ⟨0, 0, 0, 0, 0, 0, 0, 0, 0, 0, 0, 0, none, none, none⟩

/-! ### Results in flight -/

/-- What a slot writes to a register (R13). A predicate or vector result carries the mask of the lanes it
writes (R132); a word for a send queue its place in program order and the kind of its slot (R364, R366); `yPoison` is the
result of a failed ldv.s (R339). -/
inductive Result
  | x (d : BitVec 5) (r : Reg)
  | y (d : BitVec 5) (r : Reg)
  | p (d : BitVec 4) (mask val : W64)
  | v (d : BitVec 5) (mask : W64) (val : Lanes)
  | sc (d : BitVec 4) (val : Lanes)
  | h (d : BitVec 4) (val : Handle)
  | k (d : BitVec 4) (tok : Option Nat)
  | l (d : BitVec 3) (val : BitVec 192)
  | b (d : BitVec 3) (val : W64)
  | w (d : BitVec 3) (val : Cursor)
  | sr (n : Nat) (val : W64)
  | f (q : Nat) (n : BitVec 4) (ord : Nat) (slot : SlotKind) (r : Reg)
  | yPoison (d : BitVec 5)
  | clrFel
  deriving DecidableEq, Repr

/-- How the bytes of a load become its result (R153, R168, R218, R228, R290): a sign- or zero-extended word, 64 lanes, the
token mask of an arena page, or a link in two registers. -/
inductive LoadForm | sext | zext | lanes | mask | link
  deriving DecidableEq, Repr

/-- An operation that is made again after a freeze trap (R335, R336): a translation, a load of a host or loft page, a
loft atomic, or a loft allocation. An access carries its class and the cycle of its issue (R231); a load's `pos` is the
offset or position its result is made from. `paired` marks the second result of the operation before it. -/
inductive Redo
  | xlat (va : W64) (perm : BitVec 3)
  | load (cls : BitVec 4) (cyc : Nat) (handle : Handle) (off bytes pos : Nat) (form : LoadForm)
  | latom (cls : BitVec 4) (cyc : Nat) (handle : Handle) (off : Nat) (wide : Bool) (op : LatomOp) (v e : W64)
  | lalloc (mirrored : Bool) (size : W64) (planes : W64)
  | paired
  deriving DecidableEq, Repr

/-- A result in flight (R13, R20, R183, R336): cycles left before it is visible, cycles left in its slack window,
whether it may arrive inside the window, whether it has arrived, whether it is visible already, the event it
records, the operation that makes it if it has to be made (again), whether a freeze trap has marked it to be made again
(RETRY), whether its value is fixed though it has not arrived, because an access ordered after it has passed it (R231, R318), and its
place among the context's results. -/
structure Flight where
  id : Nat
  res : Result
  left : Nat
  win : Nat
  elastic : Bool
  arrived : Bool
  landed : Bool
  event : Option FelEvent
  redo : Option Redo
  again : Bool
  fixed : Bool
  deriving DecidableEq, Repr

/-- What a bundle trap acts on beside its context: the walk, by its cursor, that a wnext reports (R295, R297), or the failed
entry that a qpop met (R221). -/
inductive Met | walk (w : Nat) | entry (id : Nat)
  deriving DecidableEq, Repr

/-- The detail of a trap (R327, R332, R333). -/
structure TrapRec where
  cls : Nat
  slot : Nat
  info : W64
  frz : Bool
  met : Option Met
  deriving DecidableEq, Repr

/-! ### Control state -/

/-- The group in progress (R21, R22): bundles issued, registers read and written so far. -/
structure Group where
  count : Nat
  reads : List Nat
  writes : List Nat
  deriving DecidableEq, Repr

def Group.fresh : Group := ⟨0, [], []⟩

/-- The repeat state (R176 to R178, R338) with the loop buffer (R49): address and words of each body bundle, the
strides and the M slot's predicate as the head read them. -/
structure Rep where
  head : Nat
  left : Nat
  r : Nat
  mword : W32
  body : List (Nat × List W32)
  after : Nat
  on : Bool
  sa : W64
  sb : W64
  deriving DecidableEq, Repr

/-- x28 to x31, y28 to y31 and p15 as a shadow set (R280, R329). -/
structure Shadow where
  x : Vector Reg 4
  y : Vector Reg 4
  p : W64
  deriving DecidableEq, Repr

def Shadow.zero : Shadow := ⟨Vector.replicate 4 Reg.zero, Vector.replicate 4 Reg.zero, 0⟩

/-- Where an interrupted code goes on (R280, R329, R336 to R338): for a user interrupt the next bundle and the
branch-pending state too, which a trap keeps in EPC and EBP. `shown` and `felNew` are the context's. -/
structure Saved where
  pc : W64
  branch : Option (W64 × Nat)
  delay : Nat
  flight : List Flight
  rep : Option Rep
  shown : Bool
  felNew : Option FelEvent
  deriving DecidableEq, Repr

/-- Run state (R9). -/
inductive Run | halted | running | blocked | frozen
  deriving DecidableEq, Repr

/-- One granule (R240) of a store that the context has issued and that is not yet performed, or a fence among them (R233,
R235). `acc` is the number of the access the granule is of, `key` the memory key of its first byte; a store of a loft page
keeps the handle and the offset by which its switches know it (R374, R377). `cmds` names the commands a fence waits for: bank
commands (R285), M commands when its mask holds c0 (R243), and semwaits of its classes (R239). -/
inductive Pend
  | store (id acc : Nat) (cls : BitVec 4) (key : Nat) (bytes : List Byte) (loft : Option (Handle × Nat))
  | fence (mask : BitVec 16) (scope : BitVec 4) (cmds : List Nat)
  deriving DecidableEq, Repr

/-- A fabric FIFO register f0 to f15 (R363 to R367): unbound, receiving on a channel of its cluster, or sending
through a send queue. -/
inductive Fifo
  | unbound
  | recv (chan : BitVec 8)
  | send (q : Nat)
  deriving DecidableEq, Repr

/-- A send queue (R364 to R367): its number, the instance whose context bound it (R368), the address word it sends to, its
entries with the oldest first, each with its place in program order (R22) and its word once that has entered, and whether a funbind has
left it to drain. -/
structure SendQ where
  id : Nat
  inst : Option Nat
  addr : W64
  entries : List (Nat × Option W64)
  closed : Bool
  deriving DecidableEq, Repr

/-- One hardware context (R179). `task` is the instance it belongs to and its index in it; `stream` marks a command
stream; `spBase`, `spSize`, `acb` and `acn` are its allotments (R28, R157, R186); `boundary` says
that a user-level interrupt may be taken before the next bundle: the bundle last issued ended its group, or the context has become
ready for the interrupt (R280); `shown` says that the results due in its present cycle are visible
already, so that a capture at the end of the cycle before counts them as one cycle away (R182, R336); `torn` names the accesses among
the stores of which some granules are performed already (R240, R241); `barArrived` holds the tokens of the
arrivals that barw bundles have recorded, by the bundle's address (R370); `cyc` counts the architectural cycles passed at each
level: of the user's code, of a user-level interrupt handler and of a trap handler (R280, R329); `tagWait` holds the tags that a blocked
tag access awaits, by their keys, with what they were when it blocked (R225). -/
structure Ctx where
  run : Run
  regs : Regs
  sr : Srs
  pc : W64
  branch : Option (W64 × Nat)
  delay : Nat
  group : Group
  boundary : Bool
  rep : Option Rep
  flight : List Flight
  shown : Bool
  nextId : Nat
  q : Vector (List QEntry) 4
  f : Vector Fifo 16
  sends : List SendQ
  handler : Bool
  inUi : Bool
  trapShadow : Shadow
  uiShadow : Shadow
  trapRet : Option Saved
  uiRet : Option Saved
  due : Option TrapRec
  arm : Vector (Option Nat) 16
  pend : Vector (Option (BitVec 8)) 16
  rot : BitVec 3
  sign : Vector W64 64
  dup : Vector (Option (BitVec 6)) 64
  task : Option (Nat × Nat)
  stream : Bool
  spBase : Nat
  spSize : Nat
  acb : Nat
  acn : Nat
  stores : List Pend
  torn : List Nat
  retiring : Option (List (Option Nat))
  barArrived : List (Nat × Nat)
  yielded : Bool
  cyc : Vector Nat 3
  tagWait : List (Nat × Byte)
  deriving DecidableEq, Repr

/-- A context at power-on reset (R11, R129, R158, R213, R221, R255, R261, R276, R279, R280, R329). -/
def Ctx.reset : Ctx where
  run := .halted
  regs := Regs.reset
  sr := Srs.reset
  pc := 0
  branch := none
  delay := 0
  group := Group.fresh
  boundary := false
  shown := false
  rep := none
  flight := []
  nextId := 0
  q := Vector.replicate 4 []
  f := Vector.replicate 16 .unbound
  sends := []
  handler := false
  inUi := false
  trapShadow := Shadow.zero
  uiShadow := Shadow.zero
  trapRet := none
  uiRet := none
  due := none
  arm := Vector.replicate 16 none
  pend := Vector.replicate 16 none
  rot := 0
  sign := Vector.replicate 64 0
  dup := Vector.replicate 64 none
  task := none
  stream := false
  spBase := 0
  spSize := 0
  acb := 0
  acn := 0
  stores := []
  torn := []
  retiring := none
  barArrived := []
  yielded := false
  cyc := Vector.replicate 3 0
  tagWait := []

/-! ### Commands -/

/-- Where a command stands (R160, R253, R254): in its core's elastic buffer, in its unit's queue, or started. -/
inductive Stage | buffer | queued | started
  deriving DecidableEq, Repr

/-- A scratchpad operand of an M command (R162): base and pitch in stripes of 256 bytes. -/
structure Opnd where
  base : Nat
  pitch : Nat
  deriving DecidableEq, Repr

/-- An M command with everything it reads at issue (R159); the duplication map of a `.dm` product and the sign slot of an
mrot are those in force behind the commands queued before. -/
inductive MOp
  | mma (z : Bool) (fmt : Fmt) (ca : Bool) (map : Option (Vector (Option (BitVec 6)) 64)) (ac : Nat) (a b : Opnd) (sa0 sa1 sb0 sb1 : Lanes)
  | mrot (ac : Nat) (sign : W64)
  | mhld (k : Nat) (v : W64)
  | mdmap (k : Nat) (src : BitVec 6)
  | mdclr
  | mcon (fmt : Fmt) (ac : Nat) (rec : W64) (dir : Bool) (old new : W64) (lb md rb : Nat) (payload : Nat)
  | mord (ac : Nat) (rec : W64) (old : W64)
  | mdrain (ac : Nat) (dst : Opnd) (fmt : Fmt) (sc : Nat) (cmp : Bool) (rnd : BitVec 3)
  | mzero (ac : Nat)
  | mcopy (ac src : Nat) (t : Bool)
  | mldac (ac : Nat) (src : Opnd)
  | mstac (ac : Nat) (dst : Opnd)
  | mvac (ac row : Nat) (v : Lanes)
  deriving DecidableEq, Repr

/-- An M command in the matrix engine of its core: its context, its operation, where it stands, the producer's
place for FEL (R170), the level at which it was issued and the cycle of that level by whose end it must have left the elastic
buffer (R160, R329), the stores and commands it comes after (R231, R235, R243), and whether its context has not been killed
meanwhile (R330). -/
structure MCmd where
  id : Nat
  ctx : Nat
  op : MOp
  stage : Stage
  seq : Nat
  addr : Nat
  lvl : Nat
  due : Nat
  after : List Nat
  live : Bool
  deriving DecidableEq, Repr

/-- The engines of R252, R291 and the later chapters. -/
inductive Engine | copy | buffer | token | bank | gleaner | launch | fabric | loft | barrier
  deriving DecidableEq, Repr

/-- An E command with everything it reads at issue (R252, R263 to R268, R278, R284, R293, R298, R367, R370,
R376, R381, R189); a launch is marked once a SINGLE snapshot of it has been discarded (R198) and keeps the snapshot with which
it waits for room (R189); a walk has the bytes of its landing places (R166, R293); a semwait is marked once its test has passed (R247), and a funbind once words have been discarded
under it (R367). -/
inductive EOp
  | copy (dir : Bool) (h : Handle) (o : Nat) (lw : W64) (n : Nat) (ctl : W64)
  | copyg (dir : Bool) (h : Handle) (list : Nat) (lw : W64) (rows : W64) (ctl : W64)
  | copyx (dir : Bool) (h : Handle) (l : BitVec 192) (lw : W64) (ctl : W64)
  | binrel (bin : Nat)
  | binkill (bin : Nat)
  | kjoin (ks : List (Option Nat))
  | semwait (ref : Nat) (v : W64) (eq : Bool) (cls : BitVec 4) (passed : Bool)
  | walk (wc : Nat) (link : BitVec 128) (land n : Nat)
  | wstop (wc : Nat)
  | wbudget (wc : Nat) (v : BitVec 16)
  | wsave (wc : Nat) (addr : Nat)
  | wrest (wc : Nat) (addr : Nat)
  | bank (h : Handle) (o x y m k : Nat)
  | funbindRecv (chan : Nat) (lost : Bool)
  | funbindSend (q : Nat)
  | xfer (get : Bool) (h : Handle) (o dev : Nat) (a : W64) (n : Nat)
  | lfree (addr : W64)
  | bar (desc : W64)
  | launch (hf : Bool) (h : Handle) (addr : Nat) (arg : W64) (again : Bool) (snap : Option (List Byte))
  deriving DecidableEq, Repr

/-- An E command: the token it produces, the tokens it consumes (R52), the fences and stores of its context it comes
after (R235, R278, R191), the level at which it was issued and the cycle of that level by whose end it must have left the
elastic buffer (R253, R329), its tenant, whether its
context has not been killed meanwhile (R330), where it stands, and the rows (page offset, local offset, length) that a
copy command found when it started (R268). -/
structure ECmd where
  id : Nat
  ctx : Nat
  tok : Nat
  waits : List Nat
  after : List Nat
  lvl : Nat
  due : Nat
  tenant : BitVec 16
  live : Bool
  eng : Engine
  op : EOp
  stage : Stage
  rows : List (Nat × Nat × Nat)
  deriving DecidableEq, Repr

/-- A token (R255): the context that made it and its completion code once complete. -/
structure Tok where
  owner : Nat
  code : Option Nat
  deriving DecidableEq, Repr

/-- A bin of a cluster's buffer table (R271, R272); `state` 0 free, 1 filling, 2 full, 3 draining. -/
structure Bin where
  state : BitVec 2
  poison : Bool
  readers : BitVec 8
  size : BitVec 21
  base : BitVec 23
  tenant : Option (BitVec 16)
  deriving DecidableEq, Repr

def Bin.free : Bin := ⟨0, false, 0, 0, 0, none⟩

/-- A sheaf a walk has landed, or is landing (R294): its position, its bin, and the link that named it with the GEN its
header held. -/
structure Landed where
  pos : Nat
  bin : Nat
  link : BitVec 128
  deriving DecidableEq, Repr

/-- A walk slot of a gleaner (R291, R294 to R299): the cursor and token; the hop to make next and its link; the rotation
position of the next fill; whether the walk restarted by wrest, so that hop 0 checks GEN and spends budget, and has
still to read the sheaf at ADDR; whether a fill is in progress, the memory key of its sheaf and the page it reads; the sheaves not yet
acquired; the number delivered; whether a reported pause awaits its wnext; where it ended, and where, why and by which
link it stopped or paused; and whether its next sheaf landed while wnext waited for it (R345). `id` is the number of the command that
started it, and so its place among the commands of its core (R166). -/
structure Walk where
  id : Nat
  ctx : Nat
  wc : Nat
  tok : Nat
  hop : Nat
  link : BitVec 128
  next : Nat
  restart : Bool
  reread : Bool
  filling : Bool
  src : Nat
  page : Option Handle
  landed : List Landed
  delivered : Nat
  armed : Bool
  endAt : Option Nat
  reason : Option (Nat × Nat × BitVec 128)
  kept : Bool
  deriving DecidableEq, Repr

/-- A record in a die's pending set (R189, R192 to R196): the token of its launch, its home cluster, the snapshot, the
physical key it came from, the launch's argument, its level, and whether its wait for room on the home die is over, so
that the other dies may take it. -/
structure Pending where
  id : Nat
  tok : Nat
  home : Nat
  record : List Byte
  key : Nat
  arg : W64
  level : Nat
  anyDie : Bool
  deriving DecidableEq, Repr

/-- A running instance (R195 to R200): its core and its contexts in order; the places in that order whose part has ended, each with the
number under which what is left of its commands and tokens is kept; the level its record was placed with; and whether a
pre-emption has been asked for (R342). -/
structure Inst where
  id : Nat
  tok : Nat
  record : List Byte
  key : Nat
  arg : W64
  tenant : BitVec 16
  core : Nat
  ctxs : List Nat
  ended : List (Nat × Nat)
  level : Nat
  stopping : Bool
  deriving DecidableEq, Repr

/-- A saved image (R342, R343): the instance; the places of its contexts that were saved, each with the number under which
the context and what it owns is kept; its walks as (that number, cursor, token, and the sheaf that stays landed for it, R345); the bytes and tags of its allotment and
its tiles; the core it left; the slot-table entries it owned as (entry, input); and whether a resume has been asked for,
with the level reached. -/
structure Image where
  inst : Inst
  ctxs : List (Nat × Nat)
  walks : List (Nat × (Nat × (Nat × Option Landed)))
  bytes : List Byte
  tags : List Byte
  tiles : List W32
  core : Nat
  slots : List (Nat × Nat)
  resuming : Bool
  level : Nat
  deriving DecidableEq, Repr

/-- A barrier in progress (R369 to R371), named by its scope, number and place (the cluster, the die, or 0): the counts
and the tenant of its first arrival; the arrivals of this package as (token, cluster); the clusters, dies and packages
that have reported upward. -/
structure Barrier where
  id : Nat
  scope : Nat
  bar : Nat
  place : Nat
  desc : W64
  tenant : BitVec 16
  arrivals : List (Nat × Nat)
  clusters : List Nat
  dies : List Nat
  packages : List Nat
  deriving DecidableEq, Repr

/-- A loft extent on its switch (R374 to R377). -/
structure Extent where
  plane : Nat
  start : Nat
  size : Nat
  tenant : BitVec 16
  mirror : Option Nat
  deriving DecidableEq, Repr

/-- A page of another package as that package maps it under a tenant (R300, R381). -/
structure RemotePage where
  dev : Nat
  tenant : BitVec 16
  base : Nat
  size : Nat
  perm : BitVec 3
  hbm : Bool
  deriving DecidableEq, Repr

/-- What the tenant's fault record holds (R330, R391, R400). -/
structure FaultRec where
  epc : W64
  ecause : W64
  einfo : W64
  ctxid : W64
  deriving DecidableEq, Repr

/-- A packet of this package that is not acknowledged (R358, R360), by what it is sent for: a result in flight or an entry of a load queue,
by its context; a granule of a store; an E command; a sheaf that a walk reads, by its hop and by whether it is looked at, filled or read
again; a word of a send queue, by its place in program order; or a barrier's round. -/
inductive Packet
  | result (ctx id : Nat)
  | granule (id : Nat)
  | command (id : Nat)
  | sheaf (walk hop phase : Nat)
  | word (q ord : Nat)
  | report (barrier : Nat)
  deriving DecidableEq, Repr

/-- One Henow channel to a package (R358 to R360): the number of the next packet sent, the packet last resent and how often it has been
so in succession, the lowest sequence number not yet accepted, and the packets accepted beyond it (on an ordered channel
they are held back until the missing one is accepted). -/
structure Link where
  txNext : Nat
  resent : Option Packet
  tries : Nat
  rxNext : Nat
  held : List (Nat × Payload)
  deriving DecidableEq, Repr

def Link.reset : Link := ⟨0, none, 0, 0, []⟩

/-- An invalidation in progress (R220, R391): tenant, first byte, length, and who asked. -/
structure Inval where
  id : Nat
  tenant : BitVec 16
  va : Nat
  len : Nat
  rq : Requester
  deriving DecidableEq, Repr

/-- A translation-buffer entry or the handle of a page (R212). -/
structure Tlb where
  die : Nat
  tenant : BitVec 16
  leaf : Handle
  deriving DecidableEq, Repr

/-- BSR.MODE (R388). -/
inductive Mode | reset | starting | running | minimal | shutDown
  deriving DecidableEq, Repr

/-- The registers of BAR0 and the boot state kept across resets (R388 to R393, R398, R399). `startReq` says that a start is
to be made; `answer` is what the last access to BAR2 was completed with, none for Unsupported Request (R387); `heat` is the
reading of the hottest die sensor itself, which no reset changes; `lowering` says that the clock is being lowered (R398), and
`writing` is an image that is being written over the one in
the flash (R393). -/
structure HostIf where
  mode : Mode
  fails : Nat
  reason : BitVec 8
  detail : BitVec 16
  hflag : BitVec 5
  watts : BitVec 12
  clkMhz : BitVec 16
  tmax : BitVec 8
  power : BitVec 12
  heat : BitVec 8
  lowering : Bool
  mbArg : Vector W64 4
  mbCmd : BitVec 8
  mbBusy : Bool
  mbStatus : BitVec 8
  devCtl2 : BitVec 16
  flash : List Byte
  writing : Option (List Byte)
  msix : List Nat
  startReq : Bool
  answer : Option W64
  deriving DecidableEq, Repr

def HostIf.reset : HostIf where
  mode := .reset
  fails := 0
  reason := 0
  detail := 0
  hflag := 0
  watts := 2600
  clkMhz := 1300
  tmax := 0
  power := 0
  heat := 0
  lowering := false
  mbArg := Vector.replicate 4 0
  mbCmd := 0
  mbBusy := false
  mbStatus := 0
  devCtl2 := 0
  flash := []
  writing := none
  msix := []
  startReq := true
  answer := some 0

/-- What a blocked bundle leaves behind all the same: nothing; a walk's paused hop to be made again (R295); the arrival
that a barw records at its first issue, with the descriptor and the tokens it consumes (R370); or the tags that it waits for, each with
what it is now, by whose change its context becomes ready (R225). -/
inductive OnBlock
  | nothing
  | tags (ws : List (Nat × Byte))
  | rehop (w : Nat)
  | arrive (desc : W64) (ks : List (Option Nat))
  deriving DecidableEq, Repr

/-- What a bundle's access comes after among its context's loads: those of some classes, and those of some bytes, each a first memory key
and a length (R231, R235, R236). -/
structure Passing where
  mask : BitVec 16
  spans : List (Nat × Nat)
  deriving DecidableEq, Repr

/-- How the last slot ended (the model's own; R53, R180): `frozenPast` tells the loads that the frozen bundle comes after; `redirected`
after an eret or uret, which have chosen the next bundle themselves. -/
inductive Status | ok | trapped (r : TrapRec) | blocked (act : OnBlock) | frozen | frozenPast (p : Passing) | redirected
  deriving DecidableEq, Repr

/-! ### The whole device -/

/-- The state of the device. The fields `cur`, `agenda`, `scripted`, `status`, `next`, `issueFrom`, `header` and `free` are the model's own:
the context whose bundle is next, the steps asked for before anything else, whether results, stores and engines
advance only by such steps, how the last slot ended, a counter, its value when the bundle that issues began, so that what has a number
from there on is of that bundle itself, the header word of that bundle as it was fetched, and a counter of free values. -/
structure State where
  cur : Nat
  agenda : List Instr
  scripted : Bool
  status : Status
  next : Nat
  issueFrom : Nat
  header : BitVec 32
  free : Nat
  ctxs : List (Nat × Ctx)
  holders : List (Nat × Nat)
  mem : List Host.Cell
  tags : List Host.Cell
  tiles : List (Nat × BitVec 32)
  sems : List (Nat × BitVec 64)
  semTen : List (Nat × BitVec 16)
  bins : List (Nat × Bin)
  toks : List (Nat × Tok)
  mcmds : List MCmd
  ecmds : List ECmd
  walks : List Walk
  claims : List (Nat × (Nat × Nat))
  chans : List (Nat × List W64)
  orphans : List SendQ
  barriers : List Barrier
  pendings : List Pending
  insts : List Inst
  images : List Image
  slots : List (Nat × (Nat × Nat))
  tlb : List Tlb
  lines : List (Nat × (Nat × List Byte))
  invals : List Inval
  roots : List (Nat × W64)
  tvecs : List (Nat × W64)
  faults : List (Nat × FaultRec)
  streams : List (Nat × Config.StreamCfg)
  extents : List Extent
  quotas : List (Nat × Nat)
  lost : List Nat
  device : BitVec 20
  present : List Nat
  unreachable : List Nat
  remote : List RemotePage
  links : List (Nat × Link)
  portDups : List (Nat × Nat)
  host : HostIf
  deriving DecidableEq, Repr

/-- Power-on reset: every context halted, every table empty, BSR.MODE 0 (R11, R223, R245, R271, R352, R388). -/
def State.reset : State where
  cur := 0
  agenda := []
  scripted := false
  status := .ok
  next := 0
  issueFrom := 0
  header := 0
  free := 0
  ctxs := []
  holders := []
  mem := []
  tags := []
  tiles := []
  sems := []
  semTen := []
  bins := []
  toks := []
  mcmds := []
  ecmds := []
  walks := []
  claims := []
  chans := []
  orphans := []
  barriers := []
  pendings := []
  insts := []
  images := []
  slots := []
  tlb := []
  lines := []
  invals := []
  roots := []
  tvecs := []
  faults := []
  streams := []
  extents := []
  quotas := []
  lost := []
  device := 0
  present := []
  unreachable := []
  remote := []
  links := []
  portDups := []
  host := HostIf.reset

/-- Reasons for which the machine stops. -/
inductive Fault
  /-- Raised when the agenda asks for a step of the device or the host that is not enabled in the present state
  (an arrival of a result that is not in flight, the start of a command that does not exist): the device has no such
  step. Safe: a claim about such a run cannot be proved. -/
  | notEnabled (what : String)
  deriving DecidableEq, Repr

/-- Reasons for which the model gives no meaning. -/
inductive Refusal
  /-- Raised by the arm of an instruction the model has no meaning for. Safe. -/
  | notModelled (mnemonic : String)
  deriving DecidableEq, Repr

end Sys2Proof.Machine
end

