-- ==== Sys2Proof/Machine/Cursor.lean ====
section
/-!
DEFINITION. Walk cursors w0 to w7 by field (R292).
-/

namespace Sys2Proof.Machine

def Cursor.field (c : Cursor) (lo n : Nat) : Nat := bits c.toNat lo n

def Cursor.set (c : Cursor) (lo n v : Nat) : Cursor := BitVec.ofNat 256 (c.toNat - bits c.toNat lo n * 2 ^ lo + v % 2 ^ n * 2 ^ lo)

def Cursor.state (c : Cursor) : Nat := c.field 252 4
def Cursor.chk (c : Cursor) : Bool := bitAt c.toNat 251
def Cursor.depth (c : Cursor) : Nat := c.field 248 3 + 1
def Cursor.next (c : Cursor) : Nat := c.field 245 3
def Cursor.group (c : Cursor) : Nat := c.field 240 5
def Cursor.reason (c : Cursor) : Nat := c.field 232 8
def Cursor.core (c : Cursor) : Bool := bitAt c.toNat 231
def Cursor.budget (c : Cursor) : Nat := c.field 176 16
def Cursor.z (c : Cursor) : Nat := c.field 160 9
def Cursor.land (c : Cursor) : Nat := c.field 128 23
def Cursor.kind (c : Cursor) : Nat := c.field 126 2
def Cursor.furrow (c : Cursor) : Nat := c.field 124 2
def Cursor.device (c : Cursor) : Nat := c.field 104 20
def Cursor.gen (c : Cursor) : Nat := c.field 64 32
def Cursor.addr (c : Cursor) : Nat := c.field 0 52

def Cursor.setState (c : Cursor) (v : Nat) : Cursor := c.set 252 4 v
def Cursor.setReason (c : Cursor) (v : Nat) : Cursor := c.set 232 8 v
def Cursor.setBudget (c : Cursor) (v : Nat) : Cursor := c.set 176 16 v

/-- The bin of rotation position p (R294), which a saved NEXT may give beyond D (log entry 141). -/
def Cursor.bin (c : Cursor) (p : Nat) : Nat := 8 * c.group + p % c.depth

/-- The sheaf a cursor names, as the link that named it (R288, R292): ADDR, GEN, DEVICE and KIND. -/
def Cursor.link (c : Cursor) : BitVec 128 := BitVec.ofNat 128 (c.addr + c.gen * 2 ^ 64 + c.device * 2 ^ 104 + c.kind * 2 ^ 126)

/-- Puts ADDR, GEN, DEVICE and KIND of a link into a cursor (R293, R297). -/
def Cursor.setLink (c : Cursor) (l : BitVec 128) : Cursor :=
  (((c.set 0 52 (bits l.toNat 0 52)).set 64 32 (bits l.toNat 64 32)).set 104 20 (bits l.toNat 104 20)).set 126 2 (bits l.toNat 126 2)

end Sys2Proof.Machine
end

