-- ==== Sys2Proof/Machine/Ops.lean ====
section
/-!
DEFINITION. The named operations over registers and memory that the meanings share: reading a register at issue and
scheduling a result (R12, R13, R20), the register banks and their hard-wired members (R40), predicates (R36),
recording events (R128), passing an architectural cycle (R8), performing loads and stores (R108, R231), and taking a
trap and returning from one (R329 to R338, R282).
-/

namespace Sys2Proof.Machine

/-! ### The execution of a slot -/

/-- How a slot stops its bundle: a trap, a block (R180) with what it leaves behind, or a freeze (R17), over loads of the context that the
bundle comes after or over something else. No slot of the bundle takes effect. -/
inductive Stop | trap (r : TrapRec) | blockWith (act : OnBlock) | freeze | freezePast (p : Passing)
  deriving DecidableEq, Repr

/-- The loads of one class, and of every class. -/
def Passing.ofClass (cls : BitVec 4) : Passing := ⟨BitVec.ofNat 16 (2 ^ cls.toNat), []⟩
def Passing.all : Passing := ⟨BitVec.allOnes 16, []⟩

/-- A block that leaves nothing behind. -/
abbrev Stop.block : Stop := .blockWith .nothing

abbrev Exec := StateT State (Except Stop)

def stop {α : Type} (e : Stop) : Exec α := fun _ => .error e

/-- Raises a bundle trap (R327) of a class, at a slot kind, with its detail (R333). -/
def raise {α : Type} (cls : Nat) (k : SlotKind) (info : Nat) : Exec α :=
  stop (.trap ⟨cls, k.code, BitVec.ofNat 64 info, false, none⟩)

/-- `raise` when a condition holds. -/
def raiseIf (b : Bool) (cls : Nat) (k : SlotKind) (info : Nat) : Exec Unit :=
  if b then raise cls k info else pure ()

def stopIf (b : Bool) (e : Stop) : Exec Unit := if b then stop e else pure ()

/-- The number of a register for EINFO of POISON_CONSUMED (R333). -/
def poisonInfo (c : Cl) (r : BitVec 5) : Nat := c.code * 32 + r.toNat

/-! ### Contexts -/

def State.ctx (s : State) (c : Nat) : Ctx := (alGet s.ctxs c).getD Ctx.reset

def State.setCtx (s : State) (c : Nat) (k : Ctx) : State := { s with ctxs := alSet s.ctxs c k }

/-- The context whose bundle issues. -/
def State.here (s : State) : Ctx := s.ctx s.cur

def State.setHere (s : State) (k : Ctx) : State := s.setCtx s.cur k

/-- R99: the core, the cluster and the die of a context, counted over the package. A number of 4096 or more is that of a
context that has been saved or has ended, on the core it left. -/
def coreOf (c : Nat) : Nat := c % 4096 / 4
def clusterOf (c : Nat) : Nat := c % 4096 / 32
def dieOf (c : Nat) : Nat := c % 4096 / 1024

def getHere : Exec Ctx := do return (← get).here

def setHere (k : Ctx) : Exec Unit := modify fun s => s.setHere k

/-! ### Memory keys -/

/-- Where the bytes of a cluster's scratchpad, of HBM, of host memory, of a loft plane and of another package's page
stand in the one memory list: disjoint multiples of 2^64. -/
def hbmKey (a : Nat) : Nat := a
def hostKey (a : Nat) : Nat := 2 ^ 64 + a
def spadKey (cluster a : Nat) : Nat := (16 + cluster) * 2 ^ 64 + a
def loftKey (plane o : Nat) : Nat := (256 + plane) * 2 ^ 64 + o
def remoteKey (dev tenant a : Nat) : Nat := (1024 + dev * 65536 + tenant) * 2 ^ 64 + a

/-! ### Registers -/

/-- A read of x0 or y0 returns zero with poison clear (R40). -/
def Regs.rx (r : Regs) (a : BitVec 5) : Reg := if a = 0 then Reg.zero else vget r.x a.toNat Reg.zero
def Regs.ry (r : Regs) (a : BitVec 5) : Reg := if a = 0 then Reg.zero else vget r.y a.toNat Reg.zero

/-- A read of p0 returns all ones (R40). -/
def Regs.rp (r : Regs) (a : BitVec 4) : W64 := if a = 0 then BitVec.allOnes 64 else vget r.p a.toNat 0

/-- A read of k0 returns none (R40). -/
def Regs.rk (r : Regs) (a : BitVec 4) : Option Nat := if a = 0 then none else vget r.k a.toNat none

def Regs.rv (r : Regs) (a : BitVec 5) : Lanes := vget r.v a.toNat Lanes.zero
def Regs.rsc (r : Regs) (a : BitVec 4) : Lanes := vget r.sc a.toNat Lanes.zero
def Regs.rh (r : Regs) (a : BitVec 4) : Handle := vget r.h a.toNat Handle.none
def Regs.rl (r : Regs) (a : BitVec 3) : BitVec 192 := vget r.l a.toNat 0
def Regs.rb (r : Regs) (a : BitVec 3) : W64 := vget r.b a.toNat 0
def Regs.rw (r : Regs) (a : BitVec 3) : Cursor := vget r.w a.toNat 0

def lane (v : Lanes) (i : Nat) : W32 := vget v i 0

/-- Lanes of `new` where the mask is set, of `old` elsewhere (R132). -/
def mixLanes (mask : W64) (old new : Lanes) : Lanes :=
  Vector.ofFn fun i : Fin 64 => if mask.getLsbD i.val then lane new i.val else lane old i.val

/-- A scalar slot is enabled when bit 0 of its predicate, XOR PN, is 1 (R36). -/
def Ctx.enabled (k : Ctx) (g : Guard) : Bool := xor ((k.regs.rp g.pred).getLsbD 0) g.pn

/-- The lanes a V slot enables (R36). -/
def Ctx.laneMask (k : Ctx) (g : Guard) : W64 := if g.pn then ~~~(k.regs.rp g.pred) else k.regs.rp g.pred

def readX (a : BitVec 5) : Exec Reg := do return (← getHere).regs.rx a

/-- A y register in a field that never names a FIFO (R363). -/
def readY (a : BitVec 5) : Exec Reg := do return (← getHere).regs.ry a
def readP (a : BitVec 4) : Exec W64 := do return (← getHere).regs.rp a
def readV (a : BitVec 5) : Exec Lanes := do return (← getHere).regs.rv a
def readH (a : BitVec 4) : Exec Handle := do return (← getHere).regs.rh a
def readK (a : BitVec 4) : Exec (Option Nat) := do return (← getHere).regs.rk a

/-- Whether an operation makes an access of a class (R231). -/
def Redo.ofClass (r : Redo) (cls : BitVec 4) : Bool :=
  match r with
  | .load c _ _ _ _ _ _ => c == cls
  | .latom c _ _ _ _ _ _ _ => c == cls
  | .xlat _ _ | .lalloc _ _ _ | .paired => false

/-- Whether an operation was issued in a cycle. -/
def Redo.issuedAt (r : Redo) (now : Nat) : Bool :=
  match r with
  | .load _ t _ _ _ _ _ => t == now
  | .latom _ t _ _ _ _ _ _ => t == now
  | .xlat _ _ | .lalloc _ _ _ | .paired => false

/-- Whether an operation makes an access of a class that a cycle before `now` issued (R231). -/
def Redo.inClass (r : Redo) (cls : BitVec 4) (now : Nat) : Bool := r.ofClass cls && !r.issuedAt now

/-- Whether an entry of a load queue may still take a value other than that of its issue: it is on its way to another unit, or has failed
and is to be read afresh (R221). -/
def QEntry.unfixed (e : QEntry) : Bool := e.handle.tgt != 0 && !e.fixed && (!e.arrived || e.failed.isSome)

/-- Whether a result in flight may still take a value other than it has. -/
def Flight.unfixed (f : Flight) : Bool := !f.arrived && !f.fixed

/-- The results that a trap and an interrupt have captured and whose handlers have not returned (R280, R336). -/
def Ctx.captured (k : Ctx) : List Flight := k.trapRet.elim [] Saved.flight ++ k.uiRet.elim [] Saved.flight

/-- Whether a load or loft atomic of a class that an earlier bundle issued is not performed yet, because it is on its way to another unit
or has failed there, and so may yet be made again: what the context issues later in its class waits (R231, R318), a handler's accesses for
those of the code it interrupted among them. -/
def Ctx.late (k : Ctx) (cls : BitVec 4) : Bool :=
  (k.flight.any fun f => f.unfixed && f.redo.any fun r => r.inClass cls k.sr.acyc.toNat) ||
  (k.captured.any fun f => f.unfixed && f.redo.any fun r => r.ofClass cls) ||
  k.q.toList.any fun l => l.any fun e => e.unfixed && e.cls == cls && e.cyc != k.sr.acyc.toNat

/-- Whether a load or loft atomic of one of some classes is on its way. -/
def Ctx.lateIn (k : Ctx) (mask : BitVec 16) : Bool := ((List.range 16).filter mask.getLsbD).any fun n => k.late (BitVec.ofNat 4 n)

/-- The class of the access of its context that an E command makes: a semwait's test (R239, R247, log entry 116), the image of wsave
or wrest (R298), or the index list or record of a copy command (R268). -/
def EOp.accessClass : EOp → Option (BitVec 4)
  | .semwait _ _ _ cls _ => some cls
  | .wsave _ _ => some 0
  | .wrest _ _ => some 0
  | .copyg _ _ _ _ _ _ => some 0
  | .copyx _ _ _ _ _ => some 0
  | _ => none

/-- Whether a copy command has read its index list or record, which it does as it starts (R268). -/
def ECmd.listRead (e : ECmd) : Bool :=
  e.stage == .started &&
    (match e.op with
     | .copyg _ _ _ _ _ _ => true
     | .copyx _ _ _ _ _ => true
     | _ => false)

/-- The class of the access that an E command has still to make for its context. -/
def ECmd.toAccess (e : ECmd) : Option (BitVec 4) := if e.listRead then none else e.op.accessClass

/-- Whether an M command reads or writes the scratchpad. -/
def MOp.touches : MOp → Bool
  | .mma _ _ _ _ _ _ _ _ _ _ _ | .mdrain _ _ _ _ _ _ | .mldac _ _ | .mstac _ _ | .mcon _ _ _ _ _ _ _ _ _ _ => true
  | .mrot _ _ | .mhld _ _ | .mdmap _ _ | .mdclr | .mord _ _ _ | .mzero _ | .mcopy _ _ _ | .mvac _ _ _ => false

/-- The commands of a context whose accesses are of a class: its M commands in class c0 (R243), and its E commands that
make one (R239, R268, R298). -/
def State.classCmds (s : State) (c : Nat) (cls : BitVec 4) : List Nat :=
  (if cls = 0 then (s.mcmds.filter fun m => m.ctx == c && m.op.touches).map MCmd.id else []) ++
    (s.ecmds.filter fun e => e.ctx == c && e.toAccess == some cls).map ECmd.id

/-- Whether a load or store of a class has to wait for the context's stores: an earlier store of the class (R231), or
one that a fence with the class in its mask comes after (R235). -/
def pendBlocks (cls : BitVec 4) (seen : BitVec 16) : List Pend → Bool
  | [] => false
  | .store _ _ c _ _ _ :: ps => c == cls || pendBlocks cls (seen ||| BitVec.ofNat 16 (2 ^ c.toNat)) ps
  | .fence m _ cmds :: ps =>
    (m.getLsbD cls.toNat && ((seen &&& m) != 0 || cmds != [])) || pendBlocks cls seen ps

/-- What of a context's stores and fences was issued before a number. -/
def Pend.before (ord : Nat) : Pend → Option Pend
  | .store id acc c key bs lo => if id < ord then some (.store id acc c key bs lo) else none
  | .fence m sc cmds => some (.fence m sc (cmds.filter fun i => decide (i < ord)))

/-- Whether a load of a class has to wait for what its context has issued in earlier bundles: its stores, the commands whose accesses
are of the class, and loads of the class that are still on their way (R231, R235, R243). Accesses of one bundle that act at its issue
do not wait for one another (log entry 117). -/
def State.loadWaits (s : State) (cls : BitVec 4) : Bool :=
  pendBlocks cls 0 (s.here.stores.filterMap (Pend.before s.issueFrom)) || ((s.classCmds s.cur cls).any fun i => decide (i < s.issueFrom)) ||
    s.here.late cls

/-- An access that acts at once freezes its bundle while the context has still to perform what comes before it. -/
def classWait (cls : BitVec 4) : Exec Unit := do stopIf ((← get).loadWaits cls) (.freezePast (.ofClass cls))

/-- The FIFO that y register `a` names while it is bound (R363). -/
def Ctx.fifoOf (k : Ctx) (a : BitVec 5) : Option (Nat × Fifo) :=
  if 16 ≤ a.toNat then
    match vget k.f (a.toNat - 16) .unbound with
    | .unbound => none
    | b => some (a.toNat - 16, b)
  else none

/-- A source field of a Y slot, or T of an L slot with CL = 1: the word popped from a receive binding, or the
ordinary register (R364). A pop is an access of class c0 (R366). -/
def readYf (slot : SlotKind) (a : BitVec 5) : Exec Reg := do
  let s ← get
  match s.here.fifoOf a with
  | none => return s.here.regs.ry a
  | some (_, .recv ch) =>
    let key := clusterOf s.cur * 256 + ch.toNat
    match (alGet s.chans key).getD [] with
    | [] => stop .block
    | w :: ws =>
      classWait 0
      set { s with chans := alSet s.chans key ws }
      return ⟨w, false⟩
  | some (_, _) => raise 5 slot 0

/-- A scalar source of an X or Y slot. -/
def readR (c : Cl) (a : BitVec 5) : Exec Reg :=
  match c with
  | .x => readX a
  | .y => readYf .Y a

/-! ### Results -/

/-- The slack in force (R18). -/
def Ctx.slackNow (k : Ctx) : Nat := k.sr.slack.toNat % 1024

/-- Whether a result is discarded (R40). -/
def Result.discarded : Result → Bool
  | .x d _ => d == 0
  | .y d _ => d == 0
  | .p d _ _ => d == 0
  | .k d _ => d == 0
  | .yPoison d => d == 0
  | _ => false

/-- Adds a result to a context's results in flight (R13, R20). A result that is discarded counts as none of the 64 of R183, unless an
operation of another unit makes it (log entry 118). `ext` marks an exact result that another unit
answers (R17): with `scripted` set, it and every elastic result arrive only by a step of their own. -/
def Ctx.addFlight (k : Ctx) (scripted : Bool) (res : Result) (lat : Nat) (elastic ext : Bool)
    (event : Option FelEvent) (redo : Option Redo) : Ctx :=
  if res.discarded && redo.isNone then k
  else
    { k with
      flight := k.flight ++ [{ id := k.nextId, res := res, left := lat, win := if elastic then k.slackNow else 0,
                               elastic := elastic, arrived := !(scripted && (elastic || ext)), landed := false,
                               event := event, redo := redo, again := false, fixed := false }]
      nextId := k.nextId + 1 }

/-- Adds a result that another step has yet to bring (R214, R219, R374). -/
def Ctx.addLate (k : Ctx) (res : Result) (lat : Nat) (elastic : Bool) (redo : Redo) : Ctx :=
  { k with
    flight := k.flight ++ [{ id := k.nextId, res := res, left := lat, win := if elastic then k.slackNow else 0, elastic := elastic,
                             arrived := false, landed := false, event := none, redo := some redo, again := false, fixed := false }]
    nextId := k.nextId + 1 }

def schedule (res : Result) (lat : Nat) (elastic : Bool) (event : Option FelEvent) : Exec Unit :=
  modify fun s => s.setHere (s.here.addFlight s.scripted res lat elastic false event none)

/-- An exact result of the register files. -/
def exact (res : Result) (lat : Nat) : Exec Unit := schedule res lat false none

/-- A value the spec leaves open: a free value of its own, numbered by the model's counter. -/
def freshValue : Exec W64 := do
  let s ← get
  set { s with free := s.free + 1 }
  return Config.freeValue s.free

def elasticRes (res : Result) (lat : Nat) : Exec Unit := schedule res lat true none

/-- An exact result that another unit answers (R17). -/
def exactExt (res : Result) (lat : Nat) : Exec Unit :=
  modify fun s => s.setHere (s.here.addFlight s.scripted res lat false true none none)

/-- A destination field of a Y slot, or T of a load with CL = 1: a reserved entry of a send binding, or the ordinary
register (R364). A push is an access of class c0 in its place in program order (R366). -/
def destY (slot : SlotKind) (d : BitVec 5) (r : Reg) : Exec Result := do
  let k ← getHere
  match k.fifoOf d with
  | none => return .y d r
  | some (n, .send q) =>
    stopIf ((k.sends.filter fun e => e.id == q).any fun e => decide (e.entries.length ≥ 16)) .block
    stopIf (k.late 0) (.freezePast (.ofClass 0))
    let s ← get
    set { s.setHere { k with sends := k.sends.map fun e => if e.id = q then { e with entries := e.entries ++ [(s.next, none)] } else e } with
          next := s.next + 1 }
    return .f q (BitVec.ofNat 4 n) s.next slot r
  | some (_, _) => raise 5 slot 0

/-- The destination T of an L slot (R43). -/
def destT (c : Cl) (d : BitVec 5) (r : Reg) : Exec Result :=
  match c with
  | .x => pure (.x d r)
  | .y => destY .L d r

/-- The destination of an X or Y slot. -/
def writeR (c : Cl) (d : BitVec 5) (r : Reg) (lat : Nat) : Exec Unit :=
  match c with
  | .x => exact (.x d r) lat
  | .y => do exact (← destY .Y d r) lat

/-- The data register T of a store (R43). -/
def readT (c : Cl) (a : BitVec 5) : Exec Reg :=
  match c with
  | .x => readX a
  | .y => readYf .L a

/-! ### The first-event log -/

/-- Whether one event's producer stands before another's (R128). -/
def FelEvent.before (a b : FelEvent) : Bool :=
  a.seq < b.seq || (a.seq == b.seq && (a.slot < b.slot || (a.slot == b.slot && a.lane < b.lane)))

/-- R128: the event of the earliest producer is kept. -/
def felMerge (o : Option FelEvent) (e : FelEvent) : Option FelEvent :=
  match o with
  | none => some e
  | some f => if e.before f then some e else some f

/-- FEL as software reads it (R126). -/
def felWord : Option FelEvent → W64
  | none => 0
  | some e => BitVec.ofNat 64 (2 ^ 63 + e.code % 16 * 2 ^ 59 + e.slot % 8 * 2 ^ 56 + e.lane % 64 * 2 ^ 50 + e.addr / 4 % 2 ^ 50)

/-- An event of this bundle (R126, R155): slot code, lane, event code. -/
def Ctx.event (k : Ctx) (slot lane code : Nat) : FelEvent := ⟨k.sr.acyc.toNat, slot, lane, code, k.pc.toNat⟩

/-! ### Special registers by number (R95) -/

def Srs.write (r : Srs) (n : Nat) (v : W64) : Srs :=
  match n with
  | 0x00 => { r with slack := v }
  | 0x01 => { r with lc := v }
  | 0x03 => { r with uiv := v }
  | 0x06 => { r with rsta := v }
  | 0x07 => { r with rstb := v }
  | 0x08 => { r with rstd := v }
  | 0x10 => { r with epc := v }
  | 0x13 => { r with ebp := v }
  | _ => r

/-! ### Results becoming visible -/

/-- A freeze trap awaits the next boundary; of two found together the one with the lower number goes first (R328). -/
def Ctx.addDue (k : Ctx) (r : TrapRec) : Ctx :=
  { k with due := match k.due with
      | none => some r
      | some q => if r.cls < q.cls then some r else some q }

/-- A reserved entry of a send queue receives its word, or is released when the result is poisoned (R364). Entries stand in program order,
which R22 gives the pushes, whenever their results become visible (log entry 91). -/
def SendQ.push (e : SendQ) (ord : Nat) (r : Reg) : SendQ :=
  { e with entries := e.entries.filterMap fun p => if p.1 = ord then (if r.poison then none else some (ord, some r.val)) else some p }

/-- Writes a result to its register (R13). A poisoned result that reaches a send binding frees its entry and raises
POISON_CONSUMED as a freeze trap (R364). -/
def Ctx.land (k : Ctx) (r : Result) : Ctx :=
  match r with
  | .x d v => { k with regs := { k.regs with x := vset k.regs.x d.toNat v } }
  | .y d v => { k with regs := { k.regs with y := vset k.regs.y d.toNat v } }
  | .p d m v => { k with regs := { k.regs with p := vset k.regs.p d.toNat ((vget k.regs.p d.toNat 0 &&& ~~~m) ||| (v &&& m)) } }
  | .v d m v => { k with regs := { k.regs with v := vset k.regs.v d.toNat (mixLanes m (k.regs.rv d) v) } }
  | .sc d v => { k with regs := { k.regs with sc := vset k.regs.sc d.toNat v } }
  | .h d v => { k with regs := { k.regs with h := vset k.regs.h d.toNat v } }
  | .k d v => { k with regs := { k.regs with k := vset k.regs.k d.toNat v } }
  | .l d v => { k with regs := { k.regs with l := vset k.regs.l d.toNat v } }
  | .b d v => { k with regs := { k.regs with b := vset k.regs.b d.toNat v } }
  | .w d v => { k with regs := { k.regs with w := vset k.regs.w d.toNat v } }
  | .sr n v => { k with sr := k.sr.write n v }
  | .f q n ord slot v =>
    let k1 := { k with sends := k.sends.map fun e => if e.id = q then e.push ord v else e }
    if v.poison then k1.addDue ⟨8, slot.code, BitVec.ofNat 64 (32 + 16 + n.toNat), true, none⟩ else k1
  | .yPoison d => { k with regs := { k.regs with y := vset k.regs.y d.toNat { vget k.regs.y d.toNat Reg.zero with poison := true } } }
  | .clrFel =>
    { k with sr := { k.sr with fel := k.sr.felSince }
             trapRet := k.trapRet.map fun sv => { sv with felNew := none }
             uiRet := k.uiRet.map fun sv => { sv with felNew := none } }

def landAll (k : Ctx) : List Flight → Ctx
  | [] => k
  | f :: fs => landAll (if f.res.discarded then k else k.land f.res) fs

def felAll (o : Option FelEvent) : List Flight → Option FelEvent
  | [] => o
  | f :: fs =>
    match f.event with
    | none => felAll o fs
    | some e => felAll (felMerge o e) fs

/-- One cycle of a result in flight. -/
def Flight.age (f : Flight) : Flight := if 0 < f.left then { f with left := f.left - 1 } else { f with win := f.win - 1 }

/-- Whether a result becomes visible now (R13, R20): its latency has run and it has arrived. -/
def Flight.ready (f : Flight) : Bool := f.left == 0 && f.arrived && !f.landed

/-- Whether a result still counts as in flight (R183). -/
def Flight.live (f : Flight) : Bool := !(f.left == 0 && f.win == 0 && (f.landed || f.arrived))

/-- Events become visible: they join FEL, those of the present cycle, and those since the latest clrfel (R104, R128). -/
def Srs.note (r : Srs) (now : List Flight) : Srs :=
  { r with fel := felAll r.fel now, felNew := felAll r.felNew now, felSince := felAll r.felSince now }

/-- The results that are ready become visible in issue order (R14), a clear of FEL before their events (R104), and those whose
window is over go. -/
def Ctx.settle (k : Ctx) : Ctx :=
  let now := k.flight.filter Flight.ready
  let k1 := landAll k now
  { k1 with
    sr := k1.sr.note now
    flight := (k.flight.filter Flight.live).map fun f => if f.ready then { f with landed := true } else f }

/-- The level of a context: 2 in a trap handler, 1 in a user-level interrupt handler, 0 elsewhere. -/
def Ctx.level (k : Ctx) : Nat := if k.handler then 2 else if k.inUi then 1 else 0

/-- The architectural cycles that the code of the context's level has passed (R280, R329). -/
def Ctx.levelCyc (k : Ctx) : Nat := vget k.cyc k.level 0

/-- ACYC counts a cycle (R98), and so does the code of the context's level. -/
def Ctx.count (k : Ctx) : Ctx := { k with sr := { k.sr with acyc := k.sr.acyc + 1 }, cyc := vset k.cyc k.level (k.levelCyc + 1) }

/-- The end of an architectural cycle (R8): what is due in the next one is not visible yet, so that a trap or an interrupt
taken here captures it with one cycle left (R182, R336). -/
def Ctx.tick (k : Ctx) : Ctx := { k.count with shown := false }

/-- The next architectural cycle begins (R8): the results in flight age, those that are due become visible (R13), and FEL's events of
the last cycle are no longer of the present one. -/
def Ctx.nextCycle (k : Ctx) : Ctx :=
  Ctx.settle { k with flight := k.flight.map Flight.age, sr := { k.sr with felNew := none } }

/-- The context reaches its next architectural cycle, once a cycle. -/
def Ctx.newCycle (k : Ctx) : Ctx := if k.shown then k else { k.nextCycle with shown := true }

/-- The results in flight as they are in the cycle whose bundle is next. -/
def Ctx.nextFlight (k : Ctx) : List Flight := if k.shown then k.flight else k.flight.map Flight.age

/-- The next cycles of a context that issues nothing more (R199): its results become visible in their order. -/
def Ctx.runOut (k : Ctx) : Nat → Ctx
  | 0 => k
  | n + 1 => k.nextCycle.runOut n

/-- The cycles until the latency of every result in flight has run. -/
def Ctx.span (k : Ctx) : Nat := k.flight.foldl (fun n f => max n f.left) 0

/-- Whether a result is overdue (R17, R20): its latency and window have run out and it has not arrived. -/
def Flight.late (f : Flight) : Bool := f.left == 0 && f.win == 0 && !f.arrived && !f.landed

/-- Every result that is not visible yet becomes so at once, in issue order (R14, R335 step 1, R282 step 1). -/
def Ctx.drainFlight (k : Ctx) : Ctx :=
  let rest := k.flight.filter fun f => !f.landed
  let k1 := landAll { k with flight := [] } rest
  { k1 with sr := k1.sr.note rest }

/-- Whether a result is a poisoned word for a send queue, whose trap no other trap may hide (R364). -/
def Flight.badPush (f : Flight) : Bool :=
  match f.res with
  | .f _ _ _ _ r => r.poison
  | _ => false

/-- R337: at a capture, an elastic result that has arrived, and whose latency has elapsed, becomes visible at once; a poisoned word for
a send queue stays in flight and raises its trap afterwards. -/
def Ctx.capture (k : Ctx) : Ctx :=
  let seen (f : Flight) : Bool := f.ready && !f.badPush
  let now := k.flight.filter seen
  let k1 := landAll k now
  { k1 with sr := k1.sr.note now, flight := k.flight.map fun f => if seen f then { f with landed := true } else f }

/-! ### Loads and stores -/

/-- The 64-byte lines of HBM and host pages that the core's L1 holds (R222); the newest copy of a line is first. -/
def lineOf (ls : List (Nat × (Nat × List Byte))) (core line : Nat) : Option (List Byte) :=
  match ls with
  | [] => none
  | (c, (k, bs)) :: r => if c = core ∧ k = line then some bs else lineOf r core line

/-- A store reaches its own core's copy of the lines it touches (R222): the copies are dropped, so that the core's
next load reads memory. -/
def dropLines (ls : List (Nat × (Nat × List Byte))) (core key n : Nat) : List (Nat × (Nat × List Byte)) :=
  ls.filter fun p => !(p.1 == core && decide (key < p.2.1 + 64) && decide (p.2.1 < key + n))

/-- A store is performed at every scope (R233). -/
def State.perform (s : State) (core key : Nat) (bs : List Byte) : State :=
  { s with mem := writeCells s.mem key bs, lines := dropLines s.lines core key bs.length }

/-- A core's L1 holds nothing any more (R191, R200, R235). -/
def State.dropCore (s : State) (core : Nat) : State := { s with lines := s.lines.filter fun p => p.1 != core }

/-- A fence from cluster scope on, which discards L1 lines (R235). -/
def Pend.wide : Pend → Bool
  | .fence _ sc _ => decide (2 ≤ sc.toNat)
  | .store _ _ _ _ _ _ => false

/-- What a context's fence waits for goes on: what its core's L1 has taken in meanwhile is discarded before anything behind the fence
reads it (R235, R237). -/
def State.refence (s : State) (c : Nat) : State := if (s.ctx c).stores.any Pend.wide then s.dropCore (coreOf c) else s

/-- The bytes a load of a class returns (R29, R108): it freezes while the context's own stores that it must see are
not performed. -/
def load (cls : BitVec 4) (key n : Nat) : Exec (List Byte) := do
  classWait cls
  return readCells (← get).mem key n

/-! ### Taking a trap and returning -/

def shadowOut (k : Ctx) : Shadow :=
  ⟨Vector.ofFn fun i : Fin 4 => vget k.regs.x (28 + i.val) Reg.zero, Vector.ofFn fun i : Fin 4 => vget k.regs.y (28 + i.val) Reg.zero,
    vget k.regs.p 15 0⟩

/-- Puts a shadow set in place of x28 to x31, y28 to y31 and p15. -/
def shadowIn (r : Regs) (sh : Shadow) : Regs :=
  let x := (List.range 4).foldl (fun v i => vset v (28 + i) (vget sh.x i Reg.zero)) r.x
  let y := (List.range 4).foldl (fun v i => vset v (28 + i) (vget sh.y i Reg.zero)) r.y
  { r with x := x, y := y, p := vset r.p 15 sh.p }

/-- Exchanges the registers with the trap shadows (R329) or with the user-interrupt shadows (R280). -/
def Ctx.swapTrap (k : Ctx) : Ctx := { k with regs := shadowIn k.regs k.trapShadow, trapShadow := shadowOut k }
def Ctx.swapUi (k : Ctx) : Ctx := { k with regs := shadowIn k.regs k.uiShadow, uiShadow := shadowOut k }

/-- EBP's word for a branch-pending state (R334). -/
def ebpWord : Option (W64 × Nat) → W64
  | none => 0
  | some (t, n) => BitVec.ofNat 64 (2 ^ 63 + n % 4 * 2 ^ 56 + t.toNat % 2 ^ 52 / 16 * 16)

/-- The branch-pending state EBP's word names (R334). -/
def ebpBranch (v : W64) : Option (W64 × Nat) :=
  if v.getLsbD 63 then some (BitVec.ofNat 64 (v.toNat % 2 ^ 52 / 16 * 16), bits v.toNat 56 2) else none

/-- ECAUSE (R332). -/
def ecauseWord (k : Ctx) (r : TrapRec) : W64 :=
  BitVec.ofNat 64 (r.frz.toNat * 2 ^ 15 + k.rep.isSome.toNat * 2 ^ 14 + k.inUi.toNat * 2 ^ 13 + r.slot % 8 * 2 ^ 10 + r.cls % 256)

def Ctx.save (k : Ctx) : Saved := ⟨k.pc, k.branch, k.delay, k.flight, k.rep, k.shown, k.sr.felNew⟩

/-- R329: the context captures its results in flight, writes EPC, ECAUSE, EINFO and EBP, exchanges the trap shadows and
goes to the handler level at TVEC. A trapped bundle takes no cycle, so a clrfel in the handler's first bundle keeps what became visible
in that bundle's cycle (log entry 89). -/
def Ctx.enterTrap (k0 : Ctx) (r : TrapRec) (tvec : W64) : Ctx :=
  let k := k0.capture
  let k1 := Ctx.swapTrap { k with
    trapRet := some k.save
    sr := { k.sr with epc := BitVec.ofNat 64 (k.pc.toNat % 2 ^ 52), ecause := ecauseWord k r, einfo := r.info,
                      ebp := ebpWord k.branch } }
  { k1 with flight := [], branch := none, delay := 0, group := Group.fresh, boundary := false, rep := none, handler := true, due := none,
            pc := tvec, run := .running }

/-- The tenant's trap vector (R329); zero while the reeve has set none. -/
def State.tvec (s : State) (t : BitVec 16) : W64 := (alGet s.tvecs t.toNat).getD 0

/-- R279: the entries armed with a token that completes are emptied and their indices become pending with its code, in
place of an older code that is still pending (log entry 144). -/
def Ctx.fire (k : Ctx) (t code : Nat) : Ctx :=
  if k.arm.toList.contains (some t) then
    { k with
      pend := Vector.ofFn fun i : Fin 16 => if vget k.arm i.val none = some t then some (BitVec.ofNat 8 code) else vget k.pend i.val none
      arm := k.arm.map fun a => if a = some t then none else a }
  else k

/-- Completes a token with a code (R256); a token already complete keeps its code. -/
def State.finishTok (s : State) (t code : Nat) : State :=
  match alGet s.toks t with
  | some ⟨o, none⟩ =>
    let s1 := { s with toks := alSet s.toks t ⟨o, some code⟩ }
    if (s.ctx o).arm.toList.contains (some t) then s1.setCtx o ((s.ctx o).fire t code) else s1
  | _ => s

/-! ### Killing what a context or an instance has in progress (R330, R400, R368) -/

/-- The bin a command fills, if any (R265, R267). -/
def EOp.fillBin : EOp → Option Nat
  | .copy _ _ _ _ _ ctl => if ctl.getLsbD 63 then some (bits ctl.toNat 48 8) else none
  | .copyg _ _ _ _ _ ctl => if ctl.getLsbD 63 then some (bits ctl.toNat 48 8) else none
  | .copyx _ _ _ _ ctl => if ctl.getLsbD 63 then some (bits ctl.toNat 48 8) else none
  | _ => none

/-- The bin table: one key for the bins of all clusters (R271). -/
def binKey (cluster b : Nat) : Nat := cluster * 256 + b

def State.bin (s : State) (key : Nat) : Bin := (alGet s.bins key).getD Bin.free

def State.setBin (s : State) (key : Nat) (b : Bin) : State := { s with bins := alSet s.bins key b }

/-- R275: a fill is killed; its bin stays filling with POISON = 1 and its token completes with code 5. -/
def State.killFill (s : State) (c : ECmd) : State :=
  match c.op.fillBin with
  | none => s
  | some b =>
    let key := binKey (clusterOf c.ctx) b
    let s1 := if c.stage = .started then s.setBin key { s.bin key with poison := true } else s
    s1.finishTok c.tok 5

def finishToks (s : State) (code : Nat) : List Nat → State
  | [] => s
  | t :: ts => finishToks (s.finishTok t code) code ts

def killFills (s : State) : List ECmd → State
  | [] => s
  | c :: cs => killFills (s.killFill c) cs

/-- FreeUnread (R297): of the bins that a walk has landed, those that are full and not acquired become free. A bin whose fill was
killed is not full. -/
def freeUnread (s : State) (cluster : Nat) : List Landed → State
  | [] => s
  | l :: ls =>
    let key := binKey cluster l.bin
    let b := s.bin key
    freeUnread (if b.state = 2 then s.setBin key { b with state := 0, readers := 0, tenant := none } else s) cluster ls

/-- The fill in progress of a walk is killed (R275): its bin stays filling with POISON = 1, the walk's other unacquired bins
are freed, and the walk's token completes with code 5. -/
def State.killWalk (s : State) (w : Walk) : State :=
  let cl := clusterOf w.ctx
  let s1 := match w.landed.getLast? with
    | none => s
    | some l => s.setBin (binKey cl l.bin) { s.bin (binKey cl l.bin) with poison := true }
  (freeUnread s1 cl w.landed).finishTok w.tok 5

def killWalks (s : State) : List Walk → State
  | [] => s
  | w :: ws => killWalks (s.killWalk w) ws

/-- The commands of the contexts in `cs` that have not started are discarded and their tokens complete with code 5, and
fills in progress are killed, those of walks too; other started commands run on, a walk that fills nothing among them (R330,
R400). -/
def State.dropWork (s : State) (cs : List Nat) : State :=
  let mine := s.ecmds.filter fun c => cs.contains c.ctx
  let idle := mine.filter fun c => c.stage != .started
  let fills := mine.filter fun c => c.stage == .started && c.op.fillBin.isSome
  let s1 := finishToks s 5 (idle.map ECmd.tok)
  let s2 := killFills s1 fills
  let s3 := killWalks s2 (s2.walks.filter fun w => cs.contains w.ctx && w.filling)
  { s3 with
    ecmds := (s3.ecmds.filter fun c => !(cs.contains c.ctx && (c.stage != .started || c.op.fillBin.isSome))).map fun c =>
      if cs.contains c.ctx then { c with live := false } else c
    mcmds := (s3.mcmds.filter fun c => !(cs.contains c.ctx && c.stage != .started)).map fun c =>
      if cs.contains c.ctx then { c with live := false } else c
    walks := s3.walks.filter fun w => !(cs.contains w.ctx && w.filling) }

/-- The channel of this package that a packet's word is for (R362). -/
def payloadChan : Payload → Option Nat
  | .fifoWord die cluster chan _ => some ((die * 32 + cluster) * 256 + chan)
  | .empty | .barrierReport _ _ | .mirrorAdd _ _ _ _ _ | .mirrorRemove _ _ _ _ _ | .xferBytes _ _ _ _ _ => none

/-- Packets that are held back with a word for one of the channels deliver nothing any more. -/
def State.scrub (s : State) (keys : List Nat) : State :=
  { s with links := s.links.map fun p => (p.1, { p.2 with held := p.2.held.map fun x => if (payloadChan x.2).any keys.contains then (x.1, .empty) else x }) }

/-- The channels that the contexts in `cs` claim are freed and their words discarded (R368). -/
def State.freeClaims (s : State) (cs : List Nat) : State :=
  let gone := (s.claims.filter fun p => cs.contains p.2.1).map Prod.fst
  { s.scrub gone with claims := s.claims.filter fun p => !cs.contains p.2.1
                      chans := s.chans.filter fun p => !gone.contains p.1 }

/-- The slot-table entries an instance owns return to open (R353). -/
def State.freeSlots (s : State) (inst : Nat) : State := { s with slots := s.slots.filter fun p => p.2.2 != inst }

/-- A packet whose context goes under another number. -/
def Packet.rename (f : Nat → Nat) : Packet → Packet
  | .result c id => .result (f c) id
  | p => p

/-- What a number owns passes to another number. -/
def State.rename (s : State) (c v : Nat) : State :=
  let f (x : Nat) : Nat := if x = c then v else x
  { s with
    links := s.links.map fun p => (p.1, { p.2 with resent := p.2.resent.map (Packet.rename f) })
    toks := s.toks.map fun p => (p.1, { p.2 with owner := f p.2.owner })
    mcmds := s.mcmds.map fun m => { m with ctx := f m.ctx }
    ecmds := s.ecmds.map fun e => { e with ctx := f e.ctx }
    walks := s.walks.map fun w => { w with ctx := f w.ctx }
    claims := s.claims.map fun p => (p.1, (f p.2.1, p.2.2)) }

/-- The number under which what a context leaves is kept: one that no context has, on the same core. -/
def State.keepNo (s : State) (c : Nat) : Nat := 4096 * (s.next + 1) + c % 4096

/-- What is left of a killed context for its commands and stores that run on: its cursors, its tenant, and the stores it has
issued, which are still performed (log entry 106). -/
def Ctx.remains (k : Ctx) : Ctx :=
  { Ctx.reset with regs := { Regs.reset with w := k.regs.w }, sr := { Srs.reset with tenant := k.sr.tenant }, stores := k.stores, torn := k.torn }

/-- The contexts become free; what runs on of each goes under a number of its own. -/
def freeCtxs (s : State) : List Nat → State
  | [] => s
  | c :: cs => freeCtxs (((s.rename c (s.keepNo c)).setCtx (s.keepNo c) (s.ctx c).remains).setCtx c Ctx.reset) cs

/-- The contexts of an instance whose part has not ended. -/
def Inst.live (i : Inst) : List Nat := (i.ctxs.zipIdx.filter fun p => !(i.ended.map Prod.fst).contains p.2).map Prod.fst

/-- R330: an instance is killed: its contexts stop at once and become free, its work is dropped, its launch token
completes with code 20, and its tiles, allotment, claims and slot-table entries are freed; the words left in its send queues are
discarded (R368). Its SIGs are ignored. -/
def State.killInst (s : State) (id : Nat) (rec : FaultRec) : State :=
  match s.insts.find? fun i => i.id == id with
  | none => s
  | some i =>
    let s1 := (((s.dropWork (i.live ++ i.ended.map Prod.snd)).freeClaims i.live).freeSlots id).finishTok i.tok 20
    let s2 := freeCtxs s1 i.live
    { s2 with next := s2.next + 1
              orphans := s2.orphans.filter fun e => e.inst != some id
              insts := s2.insts.filter fun j => j.id != id
              faults := alSet s2.faults i.tenant.toNat rec }

/-- HFLAG bit n is set, which raises vector 1 (R389). -/
def State.setFlag (s : State) (n : Nat) : State :=
  { s with host := { s.host with hflag := s.host.hflag ||| BitVec.ofNat 5 (2 ^ n), msix := s.host.msix ++ [1] } }

/-- R400: a command stream stops. -/
def State.stopStream (s : State) (c : Nat) (rec : FaultRec) : State :=
  let k := s.ctx c
  let s1 := (s.dropWork [c]).setCtx c { k with run := .halted }
  { s1 with faults := alSet s1.faults k.sr.tenant.toNat rec }.setFlag 4

/-! ### Henow channels (R358, R360) -/

/-- Channel `chan` to package `peer`. -/
def linkKey (peer chan : Nat) : Nat := peer * 8 + chan

def State.link (s : State) (peer chan : Nat) : Link := (alGet s.links (linkKey peer chan)).getD Link.reset

/-- `n` packets have been sent with the channel's next numbers, and acknowledged, in one step of the model (R358, log entry 105). -/
def State.sent (s : State) (peer chan n : Nat) : State :=
  let l := s.link peer chan
  { s with links := alSet s.links (linkKey peer chan) { l with txNext := (l.txNext + n) % 65536 } }

/-- One packet has been sent and acknowledged. -/
def State.acked (s : State) (peer chan : Nat) : State := s.sent peer chan 1

/-- The packets of at most 256 bytes that carry some bytes, or ask for them (R355, log entry 105). -/
def packets (n : Nat) : Nat := (n + 255) / 256

/-! ### The trap itself -/

/-- Context `c` takes a trap (R329); at handler level, while its tenant's TVEC is 0, or once it has retired (R374; log entry 92 for
a SOFTWARE trap beside a retire), its instance is killed or its command stream stops (R330, R400). -/
def State.trapCtx (s : State) (c : Nat) (r : TrapRec) : State :=
  let k := s.ctx c
  let tv := s.tvec k.sr.tenant
  if k.handler || tv == 0 || k.retiring.isSome then
    let rec_ : FaultRec := ⟨BitVec.ofNat 64 (k.pc.toNat % 2 ^ 52), ecauseWord k r, r.info, BitVec.ofNat 64 c⟩
    match k.task with
    | some (i, _) => s.killInst i rec_
    | none => s.stopStream c rec_
  else s.setCtx c (k.enterTrap r tv)

/-- R221: the failed entry that a qpop has met is read afresh. -/
def Ctx.reread (k : Ctx) (id : Nat) : Ctx :=
  { k with q := k.q.map fun l => l.map fun e => if e.id = id then { e with arrived := false, failed := none, again := true } else e }

/-! ### What a wnext that reports a reason leaves (R295, R297) -/

/-- The walk that runs under a cursor of a context, if one does. -/
def State.walkOf (s : State) (c w : Nat) : Option Walk := s.walks.find? fun x => x.ctx == c && x.wc == w

def State.putWalk (s : State) (w : Walk) : State := { s with walks := s.walks.map fun x => if x.id == w.id then w else x }

/-- The slot of a walk is freed. -/
def State.dropWalk (s : State) (w : Walk) : State := { s with walks := s.walks.filter fun x => x.id != w.id }

/-- Reasons that pause a walk (R295). -/
def pauses (r : Nat) : Bool := r == 6 || r == 7 || r == 8

def Ctx.setCursor (k : Ctx) (w : Nat) (v : Cursor) : Ctx := { k with regs := { k.regs with w := vset k.regs.w w v } }

/-- A reported stop sets STATE 4 and the reason, frees the slot and the unread bins; a reported pause is armed: the next
wnext there lets the hop be made again. -/
def State.reported (s : State) (c w : Nat) : State :=
  match s.walkOf c w with
  | none => s
  | some x =>
    match x.reason with
    | none => s
    | some (_, r, _) =>
      if pauses r then s.putWalk { x with armed := true }
      else
        let s1 := (freeUnread s (clusterOf c) x.landed).dropWalk x
        let k := s1.ctx c
        s1.setCtx c (k.setCursor w (((vget k.regs.w w 0).setState 4).setReason r))

/-- A wnext reissued at an armed pause: the gleaner makes the hop again (R295). -/
def State.rehop (s : State) (c w : Nat) : State :=
  match s.walkOf c w with
  | none => s
  | some x => s.putWalk { x with armed := false, reason := none }

/-! ### E commands of the running context (R235, R252, R253) -/

/-- The stores that the fences among a context's stores cover, with the commands those fences wait for (R235). `seen`
holds the stores met so far with their classes. -/
def fencedIds : List Pend → List (Nat × BitVec 4) → List Nat
  | [], _ => []
  | .store id _ c _ _ _ :: ps, seen => fencedIds ps ((id, c) :: seen)
  | .fence m _ cmds :: ps, seen => (seen.filter fun p => m.getLsbD p.2.toNat).map Prod.fst ++ cmds ++ fencedIds ps seen

/-- Every store of a class, or of all, that is not performed yet. -/
def storeIds (cls : Option (BitVec 4)) : List Pend → List Nat
  | [] => []
  | .store id _ c _ _ _ :: ps => if cls = none ∨ cls = some c then id :: storeIds cls ps else storeIds cls ps
  | .fence _ _ _ :: ps => storeIds cls ps

/-- The queue length of an engine (R252, R291; log entry 12 for the others). -/
def Engine.room : Engine → Nat
  | .copy => Config.copyQueue
  | .buffer => Config.bufferQueue
  | .token => Config.tokenQueue
  | .bank => Config.bankQueue
  | .gleaner => 16
  | .launch | .fabric | .loft | .barrier => Config.otherQueue

/-- Whether two contexts share an engine: one token unit per core, one of the others per cluster (R252). -/
def Engine.shared (e : Engine) (c d : Nat) : Bool := if e = .token then coreOf c == coreOf d else clusterOf c == clusterOf d

/-- What an access of a class that another unit makes for the context comes after: what its fences cover, its stores of the
class, and the commands whose accesses are of the class (R231, R235, R239, R243). -/
def State.classBefore (s : State) (cls : BitVec 4) : List Nat :=
  fencedIds s.here.stores [] ++ storeIds (some cls) s.here.stores ++ s.classCmds s.cur cls

def eRoom (s : State) (c : Nat) (e : Engine) : Bool :=
  decide ((s.ecmds.filter fun d => d.eng == e && e.shared c d.ctx && d.stage == .queued).length < e.room)

/-- Adds an E command of the context whose bundle issues: its token, the tokens it consumes and what else it comes after
(R253). -/
def State.addE (s : State) (t : Nat) (ks : List (Option Nat)) (eng : Engine) (op : EOp) (extra : List Nat) : State :=
  let k := s.here
  let c : ECmd :=
    { id := s.next, ctx := s.cur, tok := t, waits := ks.filterMap id, after := fencedIds k.stores [] ++ extra
      lvl := k.level, due := k.levelCyc + k.slackNow, tenant := k.sr.tenant, live := true, eng := eng, op := op
      stage := if eRoom s s.cur eng then .queued else .buffer, rows := [] }
  { s with ecmds := s.ecmds ++ [c], next := s.next + 1 }

/-- R370: the arrival of a barw, recorded at its first issue under the bundle's address. -/
def State.arrive (s : State) (desc : W64) (ks : List (Option Nat)) : State :=
  let t := s.next
  let s1 := { s with toks := alSet s.toks t ⟨s.cur, none⟩, next := t + 1 }.addE t ks .barrier (.bar desc) []
  s1.setHere { s1.here with barArrived := alSet s1.here.barArrived s1.here.pc.toNat t }

/-- The context whose bundle issues takes a trap. -/
def State.takeTrap (s : State) (r : TrapRec) : State :=
  let s1 := match r.met with
    | none => s
    | some (.entry id) => s.setHere (s.here.reread id)
    | some (.walk w) => s.reported s.cur w
  { s1.trapCtx s.cur r with status := .trapped r }

/-- The tags that a block leaves its context waiting for (R225). -/
def OnBlock.tagWait : OnBlock → List (Nat × Byte)
  | .tags ws => ws
  | .nothing | .rehop _ | .arrive _ _ => []

/-- The context whose bundle issues blocks (R180). -/
def State.block (s : State) (act : OnBlock) : State :=
  let s1 := match act with
    | .nothing => s
    | .tags _ => s
    | .rehop w => s.rehop s.cur w
    | .arrive d ks => s.arrive d ks
  { s1.setHere { s1.here with run := .blocked, tagWait := act.tagWait } with status := .blocked act }

/-- The context whose bundle issues freezes (R17). -/
def State.freeze (s : State) : State := { s.setHere { s.here with run := .frozen } with status := .frozen }

/-- It freezes over loads that its bundle comes after (R231, R318). -/
def State.freezePast (s : State) (p : Passing) : State := { s.setHere { s.here with run := .frozen } with status := .frozenPast p }

/-- Returning from the handler (R335 steps 1 to 4): the handler's results become visible, the trap shadows are
exchanged back, PC and the branch-pending state come from EPC and EBP, and the captured results are in flight again. The
return ends its group, and the bundle it goes to begins one (R21, R94). The delay count of a branch that was not taken is the model's own
and comes back with them (log entry 24). A poisoned word for a send queue that becomes visible here raises its trap after the return, at the
level returned to (log entry 147). -/
def Ctx.leaveTrap (k : Ctx) : Ctx :=
  let k1 := k.drainFlight.swapTrap
  let br := ebpBranch k1.sr.ebp
  match k1.trapRet with
  | none => { k1 with pc := k1.sr.epc, branch := br, delay := (br.map Prod.snd).getD 0, handler := false
                      group := Group.fresh, boundary := true, rep := none, shown := false }
  | some sv =>
    { k1 with pc := k1.sr.epc, branch := br
              delay := match br with
                | some (_, n) => n
                | none => if sv.branch.isSome then 0 else sv.delay
              handler := false, group := Group.fresh, boundary := true, rep := sv.rep, flight := sv.flight, shown := sv.shown, trapRet := none
              sr := { k1.sr with felNew := sv.felNew } }

/-- Entering the user-level interrupt handler (R280). -/
def Ctx.enterUi (k0 : Ctx) (cause : W64) : Ctx :=
  let k := k0.capture
  let k1 := Ctx.swapUi { k with uiRet := some k.save }
  { k1 with
    regs := { k1.regs with y := vset k1.regs.y 31 ⟨cause, false⟩ }
    flight := [], branch := none, delay := 0, group := Group.fresh, boundary := false, rep := none, inUi := true,
    pc := k.sr.uiv, run := .running }

/-- The lowest pending index of a context with its completion code (R280). -/
def Ctx.pendingUi (k : Ctx) : Option (Nat × BitVec 8) :=
  (List.range 16).findSome? fun i => (vget k.pend i none).map fun c => (i, c)

/-- The cause word (R281). -/
def causeWord (i : Nat) (code : BitVec 8) : W64 := BitVec.ofNat 64 (code.toNat * 256 + i)

/-- Takes the lowest pending interrupt, if there is one and UIV is not zero (R280). -/
def Ctx.takeUi (k : Ctx) : Option Ctx :=
  match k.pendingUi with
  | none => none
  | some (i, code) => if k.sr.uiv = 0 then none else some ({ k with pend := vset k.pend i none }.enterUi (causeWord i code))

/-- Returning from the user-level interrupt handler (R282 steps 1 to 4); the bundle it goes to begins a group (R21, R94). -/
def Ctx.leaveUi (k : Ctx) : Ctx :=
  let k1 := k.drainFlight.swapUi
  match k1.uiRet with
  | none => { k1 with inUi := false, group := Group.fresh, boundary := true, shown := false }
  | some sv =>
    { k1 with pc := sv.pc, branch := sv.branch, delay := sv.delay, group := Group.fresh, rep := sv.rep, flight := sv.flight
              shown := sv.shown, boundary := true, inUi := false, uiRet := none, sr := { k1.sr with felNew := sv.felNew } }

/-- R282 step 5: a further pending interrupt is taken at once. -/
def Ctx.uretTo (k : Ctx) : Ctx := k.leaveUi.takeUi.getD k.leaveUi

/-! ### Which contexts may issue -/

/-- Whether a context may have its core's slot at all: it holds code and its instance is not being saved (R342). -/
def State.able (s : State) (c : Nat) : Bool :=
  let k := s.ctx c
  k.run != .halted &&
    (match k.task with
     | some (i, _) => !s.insts.any fun x => x.id == i && x.stopping
     | none => true)

/-! ### Running one slot -/

/-- The course of a slot's body: a disabled slot does nothing (R12); a trap, a block or a freeze stops the bundle. -/
def runBody (body : Exec Unit) (s : State) : Host.Outcome State Fault Refusal :=
  match body s with
  | .ok (_, t) => .next t
  | .error (.trap r) => .next (s.takeTrap r)
  | .error (.blockWith a) => .next (s.block a)
  | .error .freeze => .next s.freeze
  | .error (.freezePast p) => .next (s.freezePast p)

/-- A slot of kind X, Y, L, M, E or S under its predicate (R36). -/
def runSlot (g : Guard) (body : Exec Unit) (s : State) : Host.Outcome State Fault Refusal :=
  if s.here.enabled g then runBody body s else .next s

/-- A step of the device that is enabled only when it has something to act on. -/
def event (what : String) (r : Option State) : Host.Outcome State Fault Refusal :=
  match r with
  | some t => .next t
  | none => .fault (.notEnabled what)

end Sys2Proof.Machine
end

