-- ==== Sys2Proof/Machine/Memory.lean ====
section
/-!
DEFINITION. Translation (R207 to R212), transformed views (R226, R227), and the accesses of the local window and of
pages through handles that the L, S, M and E slots share (R28, R107, R217 to R220).
-/

namespace Sys2Proof.Machine

/-! ### Translation tables -/

/-- The bytes of a page size code (R213). -/
def pageBytes (size : BitVec 2) : Nat := if size = 0 then 0x10000 else if size = 1 then 0x200000 else 0x40000000

/-- The formats an expanding view may hold, and the other views (R226). -/
def viewFmtOk (cview : Nat) (fmt : Option Fmt) : Bool :=
  match fmt with
  | none => false
  | some f =>
    match cview with
    | 1 => f == .int8 || f == .e4m3 || f == .e5m2 || f == .mxint8 || f == .mxint6 || f == .mxfp4 || f == .mxint4 || f == .int16 || f == .bf16
    | 2 => f == .int8 || f == .e4m3 || f == .e5m2 || f == .int16 || f == .bf16 || f == .int32 || f == .fp32
    | 3 => f == .int8 || f == .e4m3 || f == .e5m2 || f == .int16 || f == .bf16
    | _ => false

/-- The bytes of a view's backing range (R226). -/
def backingBytes (cview : Nat) (f : Fmt) (page : Nat) : Nat :=
  match cview with
  | 1 => (page + 512 * f.width - 1) / (512 * f.width) * (128 * (4 + 4 * f.width))
  | 2 => page
  | 3 => page * f.width / 32
  | _ => page

/-- The levels of R209: first index bit, index bits, table bytes, and the size code of a leaf there, if one may
stand there. -/
def levels : List (Nat × Nat × Nat × Option (BitVec 2)) :=
  [(41, 11, 0x8000, none), (30, 11, 0x8000, some 2), (21, 9, 0x2000, some 1), (16, 5, 0x200, some 0)]

/-- The handle a leaf makes, its permissions in R, W, X order of PERM (R210, R213). -/
def leafHandle (w0 va : Nat) (size : BitVec 2) : Handle where
  valid := true
  vpage := BitVec.ofNat 36 (va % 2 ^ 52 / pageBytes size * (pageBytes size / 65536))
  size := size
  tgt := BitVec.ofNat 2 (bits w0 60 2)
  ppn := BitVec.ofNat 32 (bits w0 16 32)
  lclass := BitVec.ofNat 3 (bits w0 57 3)
  cview := BitVec.ofNat 2 (bits w0 52 2)
  afmt := BitVec.ofNat 4 (bits w0 48 4)
  bankl := BitVec.ofNat 2 (bits w0 14 2)
  kv := bitAt w0 13
  tstride := BitVec.ofNat 3 (bits w0 10 3)
  plane := BitVec.ofNat 5 (bits w0 5 5)
  perm := BitVec.ofNat 3 (bits w0 54 3)

/-- PERM's order is R, W, X from bit 2 down (R214); a leaf holds R at [56], W at [55], X at [54] (R210). -/
def Handle.r (h : Handle) : Bool := h.perm.getLsbD 2
def Handle.w (h : Handle) : Bool := h.perm.getLsbD 1
def Handle.x (h : Handle) : Bool := h.perm.getLsbD 0

/-- The rules of R210 and R211 that a leaf's two words must keep. -/
def leafOk (w0 w1 : Nat) (size : BitVec 2) (tenant : BitVec 16) : Bool :=
  let h := leafHandle w0 0 size
  let page := pageBytes size
  let base := h.ppn.toNat * 65536
  let f := Fmt.ofCode h.afmt.toNat
  w1 == tenant.toNat && bits w0 0 5 == 0 && h.tgt != 3 && h.lclass != 7 &&
  (h.kv || h.tstride == 0) && (if h.tgt = 1 then decide (h.plane.toNat ≤ 23) else h.plane == 0) &&
  base % page == 0 &&
  (if h.tgt = 0 then decide (base + page ≤ Config.hbmSize) else if h.tgt = 1 then decide (base + page ≤ Config.loftSize) else true) &&
  (if h.cview = 0 then h.afmt == 0
   else !h.w && !h.x && h.tgt == 0 && !h.kv && viewFmtOk h.cview.toNat f &&
     decide (base + backingBytes h.cview.toNat (f.getD .int8) page ≤ Config.hbmSize)) &&
  !(h.kv && size == 2)

/-- A non-leaf entry of R210, R211: only V, LEAF and NEXT may be nonzero, and NEXT names a table aligned to its size
inside HBM. -/
def nodeOk (w0 w1 size : Nat) : Bool :=
  let next := bits w0 9 39 * 512
  w1 == 0 && bits w0 48 14 == 0 && bits w0 0 9 == 0 && next % size == 0 && decide (next + size ≤ Config.hbmSize)

/-- The walk of the tables (R209): the leaf for a virtual address, or none when R211 makes the translation fail. -/
def walkTables (mem : List Host.Cell) (tenant : BitVec 16) (va : Nat) : List (Nat × Nat × Nat × Option (BitVec 2)) → Nat → Option Handle
  | [], _ => none
  | (lo, n, _, leaf) :: rest, base =>
    let e := readCells mem (hbmKey (base + 16 * bits va lo n)) 16
    let w0 := leNat (e.take 8)
    let w1 := leNat (e.drop 8)
    if !bitAt w0 63 then none
    else if bitAt w0 62 then
      match leaf with
      | none => none
      | some size => if leafOk w0 w1 size tenant then some (leafHandle w0 va size) else none
    else
      match rest with
      | [] => none
      | (_, _, size, _) :: _ => if nodeOk w0 w1 size then walkTables mem tenant va rest (bits w0 9 39 * 512) else none

/-- Whether a leaf maps a virtual address. -/
def Handle.covers (h : Handle) (va : Nat) : Bool :=
  va / pageBytes h.size == h.vpage.toNat * 65536 / pageBytes h.size && decide (va < 2 ^ 52)

/-- Looks the die's TLB up (R212). -/
def tlbFind (t : List Tlb) (die : Nat) (tenant : BitVec 16) (va : Nat) : Option Handle :=
  (t.find? fun e => e.die == die && e.tenant == tenant && e.leaf.covers va).map Tlb.leaf

/-- A list without the members of a kind beyond the first `n` of that kind. -/
def keepFirst {α : Type} (p : α → Bool) : Nat → List α → List α
  | _, [] => []
  | n, a :: r =>
    if p a then
      match n with
      | 0 => keepFirst p 0 r
      | m + 1 => a :: keepFirst p m r
    else a :: keepFirst p n r

/-- Translation under a tenant on a die: TLB, else a walk whose leaf enters the die's TLB (R209, R211, R212). A tenant
without a root has no translation. -/
def State.translate (s : State) (die : Nat) (tenant : BitVec 16) (va : Nat) : Option Handle × State :=
  if 2 ^ 52 ≤ va then (none, s)
  else
    match tlbFind s.tlb die tenant va with
    | some h => (some h, s)
    | none =>
      match alGet s.roots tenant.toNat with
      | none => (none, s)
      | some root =>
        match walkTables s.mem tenant va levels root.toNat with
        | none => (none, s)
        | some h => (some h, { s with tlb := keepFirst (fun e => e.die == die) Config.tlbSize (⟨die, tenant, h⟩ :: s.tlb) })

/-! ### Pages -/

/-- The memory key of a byte of a plain page (R207, R217). -/
def Handle.key (h : Handle) (o : Nat) : Nat :=
  let a := h.ppn.toNat * 65536 + o
  if h.tgt = 0 then hbmKey a else if h.tgt = 1 then loftKey h.plane.toNat a else hostKey a

/-- The virtual address of a byte of a page. -/
def Handle.va (h : Handle) (o : Nat) : Nat := h.vpage.toNat * 65536 + o

/-- The bits `[n·e + n − 1 : n·e]` of packed bytes (R115, R131). -/
def packed (bs : List Byte) (n e : Nat) : Nat := bits (leNat ((bs.drop (n * e / 8)).take 3 ++ (if 16 ≤ n then (bs.drop (n * e / 8 + 3)).take 1 else []))) (n * e % 8) n

/-- The nonzero elements of one compressed block record, in order, put at the places its bitmap names (R165). -/
def expandBlock (bitmap : Nat) (img : List Byte) (n pos : Nat) : Nat → Nat → List Nat
  | 0, _ => []
  | k + 1, taken =>
    let i := 31 - k
    if bitAt bitmap i then
      let at_ := pos * 8 + n * taken
      let v := bits (leNat ((img.drop (at_ / 8)).take 4)) (at_ % 8) n
      v :: expandBlock bitmap img n pos k (taken + 1)
    else 0 :: expandBlock bitmap img n pos k taken

/-- The elements of a compressed image: `blocks` records from byte `pos` of at most 128(4 + 4n) bytes; elements beyond
them are zero (R165). -/
def expandImage (img : List Byte) (n : Nat) : Nat → Nat → List Nat
  | 0, _ => []
  | b + 1, pos =>
    let bitmap := leNat ((img.drop pos).take 4)
    let cnt := ((List.range 32).filter fun i => bitAt bitmap i).length
    expandBlock bitmap img n (pos + 4) 32 0 ++ expandImage img n b (pos + 4 + (n * cnt + 31) / 32 * 4)

/-- Elements of width n packed into bytes (R115), low bits first. -/
def packBits (n : Nat) : List Nat → Nat × Nat
  | [] => (0, 0)
  | v :: vs =>
    let r := packBits n vs
    (v % 2 ^ n + 2 ^ n * r.1, r.2 + n)

/-- The bytes of a list of elements of width n (R115). -/
def packBytes (n : Nat) (vs : List Nat) : List Byte := leBytes (n * vs.length / 8) (packBits n vs).1

/-- The uncompressed bytes of the compressed image at a memory key (R165, R269). -/
def expandAt (mem : List Host.Cell) (key : Nat) (n : Nat) : List Byte :=
  packBytes n (expandImage (readCells mem key (128 * (4 + 4 * n))) n 128 0)

/-- One byte of a transformed view, computed from its backing tile (R226). -/
def viewByte (mem : List Host.Cell) (h : Handle) (o : Nat) : Byte :=
  let base := h.ppn.toNat * 65536
  let f := (Fmt.ofCode h.afmt.toNat).getD .int8
  let n := f.width
  match h.cview.toNat with
  | 1 =>
    let t := o / (512 * n)
    ((expandAt mem (hbmKey (base + 128 * (4 + 4 * n) * t)) n)[o % (512 * n)]?).getD 0
  | 2 =>
    let e := n / 8
    let t := o / (512 * n)
    let r := o % (512 * n)
    let i := r / e / 64
    let j := r / e % 64
    cellAt mem (hbmKey (base + 512 * n * t + (j * 64 + i) * e + r % e))
  | _ =>
    let e := n / 8
    let code := leNat (readCells mem (hbmKey (base + o / 4 * e)) e)
    BitVec.ofNat 8 (toFp32 f code / 256 ^ (o % 4))

def viewBytes (mem : List Host.Cell) (h : Handle) (o : Nat) : Nat → List Byte
  | 0 => []
  | k + 1 => viewByte mem h o :: viewBytes mem h (o + 1) k

/-- The bytes of a page as a reader sees them (R217, R226). -/
def Handle.read (h : Handle) (mem : List Host.Cell) (o n : Nat) : List Byte :=
  if h.cview = 0 then readCells mem (h.key o) n else viewBytes mem h o n

/-! ### The loft (R374, R377, R379) -/

/-- The extent of a tenant that holds all bytes of a range of a plane, as primary or as mirror. -/
def State.extentOf (s : State) (plane start n : Nat) (tenant : BitVec 16) : Option Extent :=
  s.extents.find? fun e => e.tenant == tenant && (e.plane == plane || e.mirror == some plane) &&
    decide (e.start ≤ start) && decide (start + n ≤ e.start + e.size)

/-- The lost plane for which an access raises LOFT_LOST (R379), if one does: a load of a mirrored extent is served by the plane
that survives, a store goes to both. -/
def State.lostPlane (s : State) (h : Handle) (o n : Nat) (tenant : BitVec 16) (isLoad : Bool) : Option Nat :=
  match s.extentOf h.plane.toNat (h.ppn.toNat * 65536 + o) n tenant with
  | none => [h.plane.toNat].find? s.lost.contains
  | some e =>
    let ps := e.plane :: e.mirror.toList
    if isLoad && !ps.all s.lost.contains then none else ps.find? s.lost.contains

/-- The plane that serves a load of an extent, and the planes a store goes to (R377). -/
def State.loftRead (s : State) (h : Handle) (o n : Nat) (tenant : BitVec 16) : Nat :=
  let a := h.ppn.toNat * 65536 + o
  match s.extentOf h.plane.toNat a n tenant with
  | none => loftKey h.plane.toNat a
  | some e =>
    match e.mirror with
    | none => loftKey e.plane a
    | some m => if s.lost.contains e.plane then loftKey m a else loftKey e.plane a

/-- EINFO of LOFT_LOST: the lost plane and the address (R380). -/
def lostInfo (p : Nat) (h : Handle) (o : Nat) : Nat := p * 2 ^ 56 + h.va o % 2 ^ 52

/-- The keys a store through a handle writes: two for a mirrored extent (R377). -/
def State.storeKeys (s : State) (h : Handle) (o n : Nat) (tenant : BitVec 16) : List Nat :=
  if h.tgt = 1 then
    let a := h.ppn.toNat * 65536 + o
    match s.extentOf h.plane.toNat a n tenant with
    | none => []
    | some e =>
      match e.mirror with
      | none => [loftKey e.plane a]
      | some m => [loftKey e.plane a, loftKey m a]
  else [h.key o]

/-! ### Locks of M commands (R166) -/

/-- The 256-byte stripes of an M operand (R162). -/
def Opnd.stripes (o : Opnd) (bytes : Nat) : List Nat :=
  (List.range ((bytes + 255) / 256)).map fun m => o.base + 256 * m * o.pitch

/-- The image of a tile product's operand and of a drain (R164, R165, R175). -/
def imageBytes (f : Fmt) (compressed : Bool) : Nat := if compressed then 128 * (4 + 4 * f.width) else 512 * f.width

/-- The stripes as ranges (address, length). -/
def Opnd.ranges (o : Opnd) (bytes : Nat) : List (Nat × Nat) := (o.stripes bytes).map fun a => (a, 256)

/-- The local ranges an M command reads, the payload of an mcon among them (R314), and those it writes. -/
def MOp.reads : MOp → List (Nat × Nat)
  | .mma _ f ca _ _ a b _ _ _ _ => a.ranges (imageBytes f ca) ++ b.ranges (imageBytes f false)
  | .mldac _ o => o.ranges 16384
  | .mcon f _ _ _ _ _ lb md rb payload => [(payload, f.width / 8 * lb * md * rb)]
  | _ => []

def MOp.writes : MOp → List (Nat × Nat)
  | .mdrain _ o f _ c _ => o.ranges (imageBytes f c)
  | .mstac _ o => o.ranges 16384
  | _ => []

/-- Whether a range of local bytes meets one of a list. -/
def overlaps (addr n : Nat) (rs : List (Nat × Nat)) : Bool := rs.any fun r => decide (addr < r.1 + r.2) && decide (r.1 < addr + n)

/-- Whether an M command holds a lock on local bytes against a load or a store (R166). -/
def MCmd.locks (c : MCmd) (core addr n : Nat) (isStore : Bool) : Bool :=
  coreOf c.ctx == core && (overlaps addr n c.op.writes || (isStore && overlaps addr n c.op.reads))

/-- R166: a slot access of the core freezes while an M command of an earlier bundle, one with a number below `bound`, holds a lock on
its bytes; a command of its own bundle is not issued earlier (log entry 117). -/
def State.locked (s : State) (core bound addr n : Nat) (isStore : Bool) : Bool :=
  s.mcmds.any fun c => decide (c.id < bound) && c.locks core addr n isStore

/-! ### Stores (R231, R233, R240) -/

/-- A granule of a store: the memory key of its first byte, its bytes, and for a loft page the handle and offset. -/
structure Part where
  key : Nat
  bytes : List Byte
  loft : Option (Handle × Nat)
  deriving DecidableEq, Repr

/-- The granules of `g` bytes into which a store falls apart (R240). -/
def partsOf (g key : Nat) (loft : Option (Handle × Nat)) (bs : List Byte) : List Part :=
  (List.range ((bs.length + g - 1) / g)).map fun i => ⟨key + g * i, (bs.drop (g * i)).take g, loft.map fun p => (p.1, p.2 + g * i)⟩

/-- The keys that a granule is written to: of a loft page, those its switches let it have. -/
def State.partKeys (s : State) (tenant : BitVec 16) (p : Part) : List Nat :=
  match p.loft with
  | none => [p.key]
  | some (h, o) => s.storeKeys h o p.bytes.length tenant

def performAll (s : State) (core : Nat) (bs : List Byte) : List Nat → State
  | [] => s
  | k :: ks => performAll (s.perform core k bs) core bs ks

/-- The memory bytes that a load through a handle reads, from a key on: of a transformed view, its backing range (R226). -/
def State.loadSpan (s : State) (c : Nat) (h : Handle) (o n : Nat) : Nat × Nat :=
  if h.tgt = 1 then (s.loftRead h o n (s.ctx c).sr.tenant, n)
  else if h.cview = 0 then (h.key o, n)
  else (hbmKey (h.ppn.toNat * 65536), backingBytes h.cview.toNat ((Fmt.ofCode h.afmt.toNat).getD .int8) (pageBytes h.size))

/-- The bytes that a load or loft atomic reads. -/
def State.redoSpan (s : State) (c : Nat) : Redo → Option (Nat × Nat)
  | .load _ _ h o n _ _ => some (s.loadSpan c h o n)
  | .latom _ _ h o wide _ _ _ => some (s.loadSpan c h o (if wide then 8 else 4))
  | .xlat _ _ | .lalloc _ _ _ | .paired => none

/-- The bytes of the loads of a context, issued by earlier bundles, that may yet be made again, those that it has captured among them. -/
def State.openSpans (s : State) (c : Nat) : List (Nat × Nat) :=
  let k := s.ctx c
  let now := k.sr.acyc.toNat
  ((k.flight.filter fun f => f.unfixed && !f.redo.any fun r => r.issuedAt now).filterMap fun f => f.redo.bind (s.redoSpan c)) ++
    ((k.captured.filter Flight.unfixed).filterMap fun f => f.redo.bind (s.redoSpan c)) ++
    k.q.toList.flatMap fun l => l.filterMap fun e =>
      if e.unfixed && e.cyc != now then some (s.loadSpan c e.handle e.off (2 ^ e.width.toNat)) else none

/-- The bytes that a store of a context writes. -/
def State.partSpans (s : State) (c : Nat) (ps : List Part) : List (Nat × Nat) :=
  ps.flatMap fun p => (s.partKeys (s.ctx c).sr.tenant p).map fun b => (b, p.bytes.length)

/-- Whether a range of bytes meets one of a list. -/
def spanMeets (r : Nat × Nat) (rs : List (Nat × Nat)) : Bool := rs.any fun b => decide (b.1 < r.1 + r.2) && decide (r.1 < b.1 + b.2)

/-- Whether a store of the context meets such bytes: a load never returns a later store of its own context, whatever its class (R108,
R236). -/
def State.overtakes (s : State) (c : Nat) (ps : List Part) : Bool := (s.openSpans c).any fun r => spanMeets r (s.partSpans c ps)

/-- Whether a store of the running context waits for its loads: for those of its class (R231), and for those of its bytes (R236). -/
def State.storeWaits (s : State) (cls : BitVec 4) (ps : List Part) : Bool := s.here.late cls || s.overtakes s.cur ps

/-- Whether a context's own store of some bytes is under way, one part of it performed and another not: the context sees its store whole
(R154, R241). -/
def State.tears (s : State) (c key n : Nat) : Bool :=
  let k := s.ctx c
  !k.torn.isEmpty && k.stores.any fun p =>
    match p with
    | .store _ acc _ a bs lo =>
      k.torn.contains acc && (s.partKeys k.sr.tenant ⟨a, bs, lo⟩).any fun b => decide (b < key + n) && decide (key < b + bs.length)
    | .fence _ _ _ => false

/-- A load freezes while its context's own store of its bytes is half performed. -/
def wholeWait (key n : Nat) : Exec Unit := do
  let s ← get
  stopIf (s.tears s.cur key n) .freeze

def performParts (s : State) (core : Nat) (tenant : BitVec 16) : List Part → State
  | [] => s
  | p :: ps => performParts (performAll s core p.bytes (s.partKeys tenant p)) core tenant ps

/-- The context whose bundle issues keeps granules back until their steps: one access, in their order. -/
def State.keepParts (s : State) (cls : BitVec 4) (ps : List Part) : State :=
  { s.setHere { s.here with stores := s.here.stores ++ ps.zipIdx.map fun p => .store (s.next + p.2) s.next cls p.1.key p.1.bytes p.1.loft } with
    next := s.next + ps.length }

/-- Issues a store of a class by its granules: performed at once, or kept until their steps when `scripted` or when the context has
still to perform what comes before (R231, R233, R239, R243). -/
def store (cls : BitVec 4) (ps : List Part) : Exec Unit := do
  let s ← get
  stopIf (s.storeWaits cls ps) (.freezePast { Passing.ofClass cls with spans := s.partSpans s.cur ps })
  modify fun s =>
    if s.scripted || !s.here.stores.isEmpty || !(s.classCmds s.cur cls).isEmpty then s.keepParts cls ps
    else performParts s (coreOf s.cur) s.here.sr.tenant ps

/-! ### Local accesses -/

/-- R28: whether a local range lies wholly in the context's allotment in the window. -/
def Ctx.allots (k : Ctx) (addr n : Nat) : Bool :=
  decide (k.spBase ≤ addr) && decide (addr + n ≤ k.spBase + k.spSize) && decide (addr + n ≤ Config.windowSize)

/-- R157: whether a tile lies in the context's allotment. -/
def Ctx.hasTile (k : Ctx) (t : Nat) : Bool := decide (k.acb ≤ t) && decide (t < k.acb + k.acn)

/-- The alignment and allotment checks of R28, in that order. -/
def checkAligned (slot : SlotKind) (addr align : Nat) : Exec Unit := raiseIf (addr % align != 0) 6 slot (addr % 2 ^ 52)

def checkLocal (slot : SlotKind) (addr align n : Nat) : Exec Unit := do
  checkAligned slot addr align
  let k ← getHere
  raiseIf (!k.allots addr n) 5 slot (addr % 2 ^ 52)

/-- The bytes of a local load (R108, R166). -/
def loadLocal (cls : BitVec 4) (addr n : Nat) : Exec (List Byte) := do
  let s ← get
  stopIf (s.locked (coreOf s.cur) s.issueFrom addr n false) .freeze
  wholeWait (spadKey (clusterOf s.cur) addr) n
  load cls (spadKey (clusterOf s.cur) addr) n

/-- A local store in granules of `g` bytes (R29, R166, R240). -/
def storeLocal (cls : BitVec 4) (g addr : Nat) (bs : List Byte) : Exec Unit := do
  let s ← get
  stopIf (s.locked (coreOf s.cur) s.issueFrom addr bs.length true) .freeze
  store cls (partsOf g (spadKey (clusterOf s.cur) addr) none bs)

/-- The address yA + s × SExt(offset) as a 64-bit sum (R107, R151, R168). -/
def addrOff {n : Nat} (y : W64) (scale : Nat) (off : BitVec n) : Nat :=
  (y + BitVec.ofInt 64 (off.toInt * scale)).toNat

/-- A loaded datum: sign- or zero-extended from its bytes (R107, R218). -/
def loaded (signed : Bool) (bs : List Byte) : W64 :=
  let v := BitVec.ofNat 64 (leNat bs)
  if signed then sext64 (8 * bs.length) v else v

/-! ### Handle accesses -/

/-- The checks of R217 in order, for an access of `n` bytes aligned to `a` at offset `o`; `noClass` leaves check 3
out. Answers the failing trap with its EINFO, if any. -/
def checkHandle (hn : Nat) (h : Handle) (o n a : Nat) (isLoad isStore noClass : Bool) : Option (Nat × Nat) :=
  if !h.valid then some (7, hn)
  else if (isLoad && !h.r) || (isStore && !h.w) then some (5, o % 2 ^ 52)
  else if isLoad && !noClass && h.lclass == 0 then some (5, o % 2 ^ 52)
  else if o % a != 0 then some (6, o % 2 ^ 52)
  else if pageBytes h.size < o + n then some (5, o % 2 ^ 52)
  else none

def raiseSome (slot : SlotKind) (e : Option (Nat × Nat)) : Exec Unit :=
  match e with
  | none => pure ()
  | some (cls, info) => raise cls slot info

/-- The latency of a load from a page (R15, R16). -/
def Handle.latency (h : Handle) : Nat := Config.bound h.lclass.toNat

/-- The addresses of the 64-byte lines of a range. -/
def linesOf (key n : Nat) : List Nat := (List.range ((key + n + 63) / 64 - key / 64)).map fun i => 64 * (key / 64 + i)

/-- The bytes of a range of HBM or host memory as a core sees them: line by line from its L1 where that holds the line, else
from memory (R222, R233). -/
def State.l1Bytes (s : State) (core key n : Nat) : List Byte :=
  if s.lines.all fun p => p.1 != core then readCells s.mem key n
  else (((linesOf key n).flatMap fun l => (lineOf s.lines core l).getD (readCells s.mem l 64)).drop (key % 64)).take n

/-- The lines of a range enter a core's L1, which holds 4,096 of them; the oldest go (R206, R222). -/
def State.takeLines (s : State) (core key n : Nat) : State :=
  (linesOf key n).foldl (fun t l =>
    match lineOf t.lines core l with
    | some _ => t
    | none => { t with lines := keepFirst (fun p => p.1 == core) Config.l1Lines ((core, (l, readCells t.mem l 64)) :: t.lines) }) s

/-- Whether a core's L1 may hold lines of a page (R222). -/
def Handle.cached (h : Handle) : Bool := h.tgt != 1 && h.cview == 0 && h.lclass != 0

/-- The bytes that a load of a context reads through a handle that has passed its checks (R108, R217, R222); the loft is asked at
the plane that serves the extent (R377). -/
def State.loadBytes (s : State) (c : Nat) (h : Handle) (o n : Nat) : List Byte :=
  if h.tgt = 1 then readCells s.mem (s.loftRead h o n (s.ctx c).sr.tenant) n
  else if h.cached then s.l1Bytes (coreOf c) (h.key o) n
  else h.read s.mem o n

/-- Whether a load has to wait for its context's own store of its bytes to be whole (R241). -/
def State.tearsLoad (s : State) (c : Nat) (h : Handle) (o n : Nat) : Bool := s.tears c (s.loadSpan c h o n).1 (s.loadSpan c h o n).2

/-- What a load leaves in the core's L1: with `scripted`, its lines, and where it reads memory past the L1 no older copy of what it has
read, so that no later load of its class goes back behind it (R236); otherwise the L1 never holds what memory does not (log entry
16). -/
def State.afterLoad (s : State) (c : Nat) (h : Handle) (o n : Nat) : State :=
  if !s.scripted || h.tgt == 1 then s
  else if h.cached then s.takeLines (coreOf c) (h.key o) n
  else { s with lines := dropLines s.lines (coreOf c) (s.loadSpan c h o n).1 (s.loadSpan c h o n).2 }

/-- A load's bytes at its issue. The lines of a host page enter the L1 when its data arrives. -/
def loadHandle (cls : BitVec 4) (h : Handle) (o n : Nat) : Exec (List Byte) := do
  classWait cls
  let s ← get
  stopIf (s.tearsLoad s.cur h o n) .freeze
  if h.tgt ≠ 2 then set (s.afterLoad s.cur h o n)
  return s.loadBytes s.cur h o n

/-- A store in granules of `g` bytes through a handle that has passed its checks. A loft store outside the tenant's extents is not
performed and raises PRIVILEGE as a freeze trap at the next boundary (R374). -/
def storeHandle (cls : BitVec 4) (g : Nat) (h : Handle) (o : Nat) (bs : List Byte) : Exec Unit := do
  let s ← get
  let k := s.here
  if h.tgt = 1 ∧ s.storeKeys h o bs.length k.sr.tenant = [] then
    setHere (k.addDue ⟨5, 2, BitVec.ofNat 64 (h.va o % 2 ^ 52), true, none⟩)
  else store cls (partsOf g (h.key o) (if h.tgt = 1 then some (h, o) else none) bs)

/-- The loft checks at issue of an access through a handle (R379). -/
def checkLoft (slot : SlotKind) (h : Handle) (o n : Nat) (isLoad : Bool) : Exec Unit := do
  let s ← get
  if h.tgt = 1 then
    match s.lostPlane h o n s.here.sr.tenant isLoad with
    | none => pure ()
    | some p => raise 17 slot (lostInfo p h o)

/-- Whether a loft switch refuses an access of the running context (R374). -/
def State.refuses (s : State) (c : Nat) (h : Handle) (o n : Nat) : Bool :=
  h.tgt == 1 && (s.extentOf h.plane.toNat (h.ppn.toNat * 65536 + o) n (s.ctx c).sr.tenant).isNone

/-- Whether the loft gives no bytes for a load as things stand: its switch refuses it, or its plane is lost (R374, R379). -/
def State.unanswered (s : State) (c : Nat) (h : Handle) (o n : Nat) : Bool :=
  s.refuses c h o n || (h.tgt == 1 && (s.lostPlane h o n (s.ctx c).sr.tenant true).isSome)

/-- Bytes as 64 lanes (R131). -/
def lanesOf (bs : List Byte) : Lanes := Vector.ofFn fun i : Fin 64 => BitVec.ofNat 32 (leNat ((bs.drop (4 * i.val)).take 4))

/-- The 256 bytes of 64 lanes (R131). -/
def bytesOf (v : Lanes) : List Byte := (List.range 64).flatMap fun i => leBytes 4 (lane v i).toNat

/-- The token mask of an arena page from position o on (R228); a part of a position at the page's end is none (log entry 140). -/
def maskLanes (h : Handle) (o : Nat) (bit : Nat → Bool) : Lanes :=
  let n := (pageBytes h.size - 4096) / (64 * 2 ^ h.tstride.toNat)
  Vector.ofFn fun i : Fin 64 => if o + i.val < n ∧ bit (o + i.val) = true then 0xFFFFFFFF else 0

/-- The bytes that the mask read of 64 positions covers (R228). -/
def maskSpan (o : Nat) : Nat × Nat :=
  let lo := min (o / 8) 4095
  (lo, min (o / 8 + 9) 4096 - lo)

/-- Puts loaded bytes into a result (R153, R168, R218, R228). -/
def Result.fill (r : Result) (form : LoadForm) (h : Handle) (o : Nat) (bs : List Byte) : Result :=
  match r with
  | .x d _ => .x d ⟨loaded (form == .sext) bs, false⟩
  | .y d _ => .y d ⟨loaded (form == .sext) bs, false⟩
  | .f q d ord slot _ => .f q d ord slot ⟨loaded (form == .sext) bs, false⟩
  | .sc d _ => .sc d (lanesOf bs)
  | .v d m _ =>
    if form = .mask then
      .v d m (maskLanes h o fun p => ((bs[p / 8 - (maskSpan o).1]?).getD 0).getLsbD (p % 8))
    else .v d m (lanesOf bs)
  | _ => r

/-- Adds the result of a load to those in flight: the host answers by a step of its own (R219), a loft switch may refuse (R374), and
with `scripted` every answer is a step. -/
def addLoad (r : Result) (h : Handle) (late : Bool) (redo : Redo) : Exec Unit := do
  let s ← get
  if late then setHere (s.here.addLate r h.latency true redo)
  else setHere (s.here.addFlight s.scripted r h.latency true false none (if h.tgt = 0 then none else some redo))

/-- Issues a load through a handle whose checks have passed (R108, R217): the value is fixed at issue. `o` and `n` are the bytes read,
`p` the offset or position the result is made from. -/
def deliver (cls : BitVec 4) (r : Result) (form : LoadForm) (h : Handle) (o n p : Nat) : Exec Unit := do
  let bs ← loadHandle cls h o n
  let s ← get
  addLoad (r.fill form h p bs) h (h.tgt == 2 || s.refuses s.cur h o n) (.load cls s.here.sr.acyc.toNat h o n p form)

/-- Half `j` of a link goes into one of its two registers (R290). -/
def Result.linkHalf (r : Result) (h : Handle) (o j : Nat) (bs : List Byte) : Result := r.fill .zext h o ((bs.drop (8 * j)).take 8)

/-- Issues the load of a link, one access of 16 bytes into two registers (R290). -/
def deliverLink (cls : BitVec 4) (r0 r1 : Result) (h : Handle) (o : Nat) : Exec Unit := do
  let bs ← loadHandle cls h o 16
  let s ← get
  let late := h.tgt == 2 || s.refuses s.cur h o 16
  addLoad (r0.linkHalf h o 0 bs) h late (.load cls s.here.sr.acyc.toNat h o 16 o .link)
  addLoad (r1.linkHalf h o 1 bs) h late .paired

end Sys2Proof.Machine
end

