-- ==== Sys2Proof/Machine/Operands.lean ====
section
/-!
DEFINITION. Operand forms of the scalar slots: the width field (R85), immediates (R39, R88 to R91) and code addresses
(R56, R57, R93).
-/

namespace Sys2Proof.Machine

/-- R85: the operation width in bits. -/
def widthOf (w : BitVec 2) : Nat := 8 * 2 ^ w.toNat

/-- R85: a source reduced to its low w bits. -/
def lowBits (w : Nat) (v : W64) : Nat := v.toNat % 2 ^ w

/-- R85: a w-bit result sign-extended to 64 bits. -/
def extend (w n : Nat) : W64 := sext64 w (BitVec.ofNat 64 n)

/-- A signed immediate of a family as a 64-bit value (R38). -/
def simm {n : Nat} (i : BitVec n) : W64 := BitVec.ofInt 64 i.toInt

/-- R56: the target of br, call and chk from a signed offset in 16-byte units. -/
def branchTarget {n : Nat} (pc : W64) (off : BitVec n) : W64 :=
  BitVec.ofNat 64 (pc.toNat / 16 * 16) + BitVec.ofInt 64 (off.toInt * 16)

/-- A y register of the quad a LEND_E group names (R51). -/
def quad (q : BitVec 3) (i : Nat) : BitVec 5 := BitVec.ofNat 5 (4 * q.toNat + i)

end Sys2Proof.Machine
end

