-- ==== Sys2Proof/Machine/Fetch.lean ====
section
/-!
DEFINITION. Fetching words of code (R53, R54), the return address of call and jr (R57), and the end of a bundle:
the architectural cycle it takes, its group (R21) and the course of a branch through its delay bundles (R24).
-/

namespace Sys2Proof.Machine

/-- A bundle trap of the fetch (R53 step 1, R333): slot code 7. -/
def fetchTrap (cls : Nat) (info : Nat) : TrapRec := ⟨cls, 7, BitVec.ofNat 64 info, false, none⟩

/-- One word of code at a virtual address under the running context's tenant (R53, R207, R209). A word of a loft page
outside the tenant's extents is refused as any access (R374), and one of a lost plane raises LOFT_LOST (R379). What R58 leaves
open, old or new words until a fence and a taken branch, the model takes as new: memory as it is performed (log entry 97). -/
def State.fetchWord (s : State) (va : Nat) : Except TrapRec W32 × State :=
  let tenant := s.here.sr.tenant
  match s.translate (dieOf s.cur) tenant va with
  | (none, t) => (.error (fetchTrap 4 (2 ^ 63 + va % 2 ^ 52)), t)
  | (some h, t) =>
    let o := va % pageBytes h.size
    if !h.x then (.error (fetchTrap 5 (va % 2 ^ 52)), t)
    else if h.tgt = 1 then
      match t.lostPlane h o 4 tenant true with
      | some p => (.error (fetchTrap 17 (lostInfo p h o)), t)
      | none =>
      if (t.extentOf h.plane.toNat (h.ppn.toNat * 65536 + o) 4 tenant).isNone then (.error (fetchTrap 5 (va % 2 ^ 52)), t)
      else (.ok (BitVec.ofNat 32 (leNat (readCells t.mem (t.loftRead h o 4 tenant) 4))), t)
    else (.ok (BitVec.ofNat 32 (leNat (h.read t.mem o 4))), t)

/-- `n` words from an address upwards; the first fault ends the fetch. -/
def State.fetchWords (s : State) (va : Nat) : Nat → Except TrapRec (List W32) × State
  | 0 => (.ok [], s)
  | n + 1 =>
    match s.fetchWord va with
    | (.error r, t) => (.error r, t)
    | (.ok w, t) =>
      match t.fetchWords (va + 4) n with
      | (.error r, u) => (.error r, u)
      | (.ok ws, u) => (.ok (w :: ws), u)

/-- The first byte after `n` bundles from an address, whose headers it fetches (R57). -/
def State.skipBundles (s : State) (va : Nat) : Nat → Except TrapRec Nat × State
  | 0 => (.ok va, s)
  | n + 1 =>
    match s.fetchWord va with
    | (.error r, t) => (.error r, t)
    | (.ok h, t) => t.skipBundles (va + bundleSize h.toNat) n

/-- R57: the return address of a call or jr: past its bundle and its three delay bundles, rounded up to 16. -/
def retAddr : Exec W64 := do
  let s ← get
  match s.skipBundles s.here.pc.toNat 4 with
  | (.error r, _) => stop (.trap r)
  | (.ok a, t) =>
    set t
    return BitVec.ofNat 64 (roundUp16 a)

/-- The registers that a group has read and written with one more bundle (R22); a bundle that sets STOP, the eighth
bundle and the last delay bundle of a taken branch end the group (R21). -/
def Group.after (g : Group) (reads writes : List Nat) (ends : Bool) : Group :=
  if ends then Group.fresh else ⟨g.count + 1, g.reads ++ reads, g.writes ++ writes⟩

/-- Whether the bundle after which this is the group in progress ended its group (R21). -/
def Group.ended (g : Group) : Bool := g.count == 0 || g.count == 8

/-- What follows a bundle of a repeat: the repeat state and the address of the next bundle (R50, R176). -/
def Rep.step (p : Rep) : Option Rep × Nat :=
  if p.left ≤ 1 then (none, p.after)
  else (some { p with left := p.left - 1, r := p.r + 1 }, ((p.body[p.r % p.body.length]?).map Prod.fst).getD p.after)

/-- The repeat state and the address that follow a bundle of `size` bytes (R54, R176). -/
def Ctx.follow (k : Ctx) (size : Nat) : Option Rep × Nat :=
  match k.rep with
  | none => (none, k.pc.toNat + size)
  | some p => p.step

/-- The end of a bundle of `size` bytes (R8, R24, R27): one architectural cycle passes, and the next bundle is the one
after it, or the target when this was the last delay bundle of a taken branch. `pre` is the branch that was pending when
the bundle issued and `branchSlot` says that it held one itself. Results of the bundle are already scheduled; those of a
context that issues nothing more take effect by themselves (R199). -/
def Ctx.endBundle (k : Ctx) (pre : Option (W64 × Nat)) (size : Nat) (branchSlot : Bool) (grp : Group) : Ctx :=
  let k1 := if k.run = .halted then k.tick.runOut k.span else k.tick
  let nx := k.follow size
  let next := BitVec.ofNat 64 nx.2
  let delay := if branchSlot then 3 else k.delay - 1
  match pre with
  | some (t, 1) => { k1 with pc := t, branch := none, delay := 0, rep := none, group := Group.fresh, boundary := true }
  | some (t, n) => { k1 with pc := next, rep := nx.1, branch := some (t, n - 1), delay := delay, group := grp, boundary := grp.ended }
  | none => { k1 with pc := next, rep := nx.1, delay := delay, group := grp, boundary := grp.ended }

end Sys2Proof.Machine
end

