-- ==== Sys2Proof/Machine/Flags.lean ====
section
/-!
DEFINITION. Conditions and predicates: the scalar and vector condition codes (R41, R91, R140), predicate logic (R42),
and the values a result writes into a predicate register.
-/

namespace Sys2Proof.Machine

/-- R91: the truth of a scalar condition on two w-bit values. -/
def condHolds (cc : Cond) (w a b : Nat) : Bool :=
  match cc with
  | .eq => a % 2 ^ w == b % 2 ^ w
  | .ne => a % 2 ^ w != b % 2 ^ w
  | .lt => decide (signedOf w a < signedOf w b)
  | .ge => decide (signedOf w b ≤ signedOf w a)
  | .le => decide (signedOf w a ≤ signedOf w b)
  | .gt => decide (signedOf w b < signedOf w a)
  | .ltu => decide (a % 2 ^ w < b % 2 ^ w)
  | .geu => decide (b % 2 ^ w ≤ a % 2 ^ w)
  | .leu => decide (a % 2 ^ w ≤ b % 2 ^ w)
  | .gtu => decide (b % 2 ^ w < a % 2 ^ w)

/-- R42: each bit of the result is bit 2a + b of the truth table FN. -/
def plogic (fn : BitVec 4) (a b : W64) : W64 :=
  (if fn.getLsbD 0 then ~~~a &&& ~~~b else 0) ||| (if fn.getLsbD 1 then ~~~a &&& b else 0) |||
  (if fn.getLsbD 2 then a &&& ~~~b else 0) ||| (if fn.getLsbD 3 then a &&& b else 0)

/-- R140: the truth of a vector condition on two lane-form codes of a format. -/
def vcondHolds (cc : VCond) (f : Fmt) (a b : Nat) : Bool :=
  if f.isFloat then
    let x := numOf f a
    let y := numOf f b
    let un := x.isNan || y.isNan
    let lt := x.lt y && !x.eq y
    let gt := y.lt x && !x.eq y
    match cc with
    | .eq => x.eq y
    | .ne => !x.eq y
    | .lt => lt
    | .le => !un && !gt
    | .gt => gt
    | .ge => !un && !lt
    | .uo => un
    | .ord => !un
  else
    let x := signedOf f.width a
    let y := signedOf f.width b
    match cc with
    | .eq => x == y
    | .ne => x != y
    | .lt => decide (x < y)
    | .le => decide (x ≤ y)
    | .gt => decide (y < x)
    | .ge => decide (y ≤ x)
    | .uo => false
    | .ord => true

/-- The 64 bits of a predicate from a test per lane. -/
def laneBits (f : Nat → Bool) : W64 := BitVec.ofNat 64 ((List.range 64).foldr (fun i acc => (f i).toNat * 2 ^ i + acc) 0)

end Sys2Proof.Machine
end

