-- ==== Sys2Proof/Machine/LocalMem.lean ====
section
/-!
DEFINITION. The L slot's accesses of the local window (R107, R108, R339), the full/empty tags (R223 to R225) and the
fences (R234, R235, R285).
-/

namespace Sys2Proof.Machine

/-- A poisoned address or datum of a store or tag instruction raises POISON_CONSUMED (R340). -/
def needReg (slot : SlotKind) (c : Cl) (a : BitVec 5) (r : Reg) : Exec Unit := raiseIf r.poison 8 slot (poisonInfo c a)

/-! ### Loads and stores (R107, R339) -/

/-- The result of a load that accesses nothing because its address is poisoned (R107, R218): poisoned, and of no stated
value, so a free value. -/
def poisonedLoad (c : Cl) (t : BitVec 5) (lat : Nat) : Exec Unit := do
  let v ← freshValue
  elasticRes (← destT c t ⟨v, true⟩) lat

/-- R107: the address of a family-LS access. -/
def lsAddr (y : W64) (w : BitVec 2) (off : BitVec 7) : Nat := addrOff y (2 ^ w.toNat) off

/-- ld and ldz. A poisoned address is checked for alignment, as R107's pseudocode has it, and its text leaves out the check against the
allotment (log entry 93). -/
def localLoad (g : Guard) (cl : Cl) (t a : BitVec 5) (cls : BitVec 4) (w : BitVec 2) (off : BitVec 7) (signed : Bool) (s : State) :
    Host.Outcome State Fault Refusal :=
  runSlot g (do
    let y ← readY a
    let addr := lsAddr y.val w off
    checkAligned .L addr (2 ^ w.toNat)
    if y.poison then poisonedLoad cl t 5
    else
      checkLocal .L addr (2 ^ w.toNat) (2 ^ w.toNat)
      let bs ← loadLocal cls addr (2 ^ w.toNat)
      elasticRes (← destT cl t ⟨loaded signed bs, false⟩) 5) s

def execLd (g : Guard) (cl : Cl) (t a : BitVec 5) (cls : BitVec 4) (w : BitVec 2) (off : BitVec 7) (s : State) :=
  localLoad g cl t a cls w off true s
def execLdz (g : Guard) (cl : Cl) (t a : BitVec 5) (cls : BitVec 4) (w : BitVec 2) (off : BitVec 7) (s : State) :=
  localLoad g cl t a cls w off false s

/-- R339: a failing check of R28 gives a poisoned zero; a poisoned address is checked as R107 has it, for alignment alone (log entry 93). -/
def execLdS (g : Guard) (cl : Cl) (t a : BitVec 5) (cls : BitVec 4) (w : BitVec 2) (off : BitVec 7) (s : State) :
    Host.Outcome State Fault Refusal :=
  runSlot g (do
    let y ← readY a
    let addr := lsAddr y.val w off
    if addr % 2 ^ w.toNat != 0 || (!y.poison && !(← getHere).allots addr (2 ^ w.toNat)) then
      elasticRes (← destT cl t ⟨0, true⟩) 5
    else if y.poison then poisonedLoad cl t 5
    else
      let bs ← loadLocal cls addr (2 ^ w.toNat)
      elasticRes (← destT cl t ⟨loaded true bs, false⟩) 5) s

/-- R107: a store checks the poison of its address, alignment, the allotment, then the poison of its datum. -/
def execSt (g : Guard) (cl : Cl) (t a : BitVec 5) (cls : BitVec 4) (w : BitVec 2) (off : BitVec 7) (s : State) :
    Host.Outcome State Fault Refusal :=
  runSlot g (do
    let y ← readY a
    needReg .L .y a y
    let addr := lsAddr y.val w off
    checkLocal .L addr (2 ^ w.toNat) (2 ^ w.toNat)
    let r ← readT cl t
    needReg .L cl t r
    storeLocal cls (2 ^ w.toNat) addr (leBytes (2 ^ w.toNat) r.val.toNat)) s

/-! ### Full/empty tags (R223 to R225) -/

/-- The key of the tag of a scratchpad word. -/
def tagKey (cluster addr : Nat) : Nat := spadKey cluster (addr / 4 * 4)

/-- Tag j of an access of two words or one (R224). -/
def State.tagAt (s : State) (addr j : Nat) : Bool := cellAt s.tags (tagKey (clusterOf s.cur) (addr + 4 * j)) != 0

def setTags (tags : List Host.Cell) (cluster addr : Nat) : List Bool → List Host.Cell
  | [] => tags
  | b :: bs => setTags (setCell tags (tagKey cluster addr) (if b then 1 else 0)) cluster (addr + 4) bs

/-- The checks of a tag instruction up to the poison of its datum, and its address (R224). -/
def tagAddr (a : BitVec 5) (w : BitVec 2) (off : BitVec 7) : Exec Nat := do
  let y ← readY a
  needReg .L .y a y
  let addr := lsAddr y.val w off
  checkLocal .L addr (2 ^ w.toNat) (2 ^ w.toNat)
  return addr

/-- A tag access waits, once all checks are made, while an M command locks its words (R166, R224). -/
def tagLock (addr : Nat) (w : BitVec 2) (isStore : Bool) : Exec Unit := do
  let s ← get
  stopIf (s.locked (coreOf s.cur) s.issueFrom addr (2 ^ w.toNat) isStore) .freeze

/-- The words of a tag access. -/
def tagWords (w : BitVec 2) : Nat := if w = 3 then 2 else 1

/-- The tags that an access awaits, by their keys, as they are now. -/
def State.tagsNow (s : State) (addr n : Nat) : List (Nat × Byte) :=
  (List.range n).map fun j => (tagKey (clusterOf s.cur) (addr + 4 * j), cellAt s.tags (tagKey (clusterOf s.cur) (addr + 4 * j)))

def allTags (s : State) (addr n : Nat) (full : Bool) : Bool := (List.range n).all fun j => s.tagAt addr j == full

/-- ldf and ldfe: wait for full, load, and, for ldfe, leave the words empty (R224). -/
def loadFull (g : Guard) (cl : Cl) (t a : BitVec 5) (cls : BitVec 4) (w : BitVec 2) (off : BitVec 7) (take : Bool) (s : State) :
    Host.Outcome State Fault Refusal :=
  runSlot g (do
    let addr ← tagAddr a w off
    tagLock addr w false
    let s ← get
    stopIf (!allTags s addr (tagWords w) true) (.blockWith (.tags (s.tagsNow addr (tagWords w))))
    let bs ← loadLocal cls addr (2 ^ w.toNat)
    elasticRes (← destT cl t ⟨loaded true bs, false⟩) 5
    if take then modify fun s => { s with tags := setTags s.tags (clusterOf s.cur) addr (List.replicate (tagWords w) false) }) s

def execLdf (g : Guard) (cl : Cl) (t a : BitVec 5) (cls : BitVec 4) (w : BitVec 2) (off : BitVec 7) (s : State) :=
  loadFull g cl t a cls w off false s
def execLdfe (g : Guard) (cl : Cl) (t a : BitVec 5) (cls : BitVec 4) (w : BitVec 2) (off : BitVec 7) (s : State) :=
  loadFull g cl t a cls w off true s

/-- The data of a tag store; its poison is the last check before any wait (R224). -/
def tagDatum (cl : Cl) (t : BitVec 5) : Exec W64 := do
  let r ← readT cl t
  needReg .L cl t r
  return r.val

def execSte (g : Guard) (cl : Cl) (t a : BitVec 5) (cls : BitVec 4) (w : BitVec 2) (off : BitVec 7) (s : State) :
    Host.Outcome State Fault Refusal :=
  runSlot g (do
    let addr ← tagAddr a w off
    let v ← tagDatum cl t
    tagLock addr w true
    let s ← get
    stopIf (!allTags s addr (tagWords w) false) (.blockWith (.tags (s.tagsNow addr (tagWords w))))
    classWait cls
    modify fun s =>
      let t := s.perform (coreOf s.cur) (spadKey (clusterOf s.cur) addr) (leBytes (2 ^ w.toNat) v.toNat)
      { t with tags := setTags t.tags (clusterOf s.cur) addr (List.replicate (tagWords w) true) }) s

def execTset (g : Guard) (cl : Cl) (t a : BitVec 5) (cls : BitVec 4) (w : BitVec 2) (off : BitVec 7) (s : State) :
    Host.Outcome State Fault Refusal :=
  runSlot g (do
    let addr ← tagAddr a w off
    let v ← tagDatum cl t
    tagLock addr w true
    classWait cls
    modify fun s => { s with tags := setTags s.tags (clusterOf s.cur) addr ((List.range (tagWords w)).map v.getLsbD) }) s

def execTget (g : Guard) (cl : Cl) (t a : BitVec 5) (cls : BitVec 4) (w : BitVec 2) (off : BitVec 7) (s : State) :
    Host.Outcome State Fault Refusal :=
  runSlot g (do
    let addr ← tagAddr a w off
    tagLock addr w false
    classWait cls
    let s ← get
    let v := (s.tagAt addr 0).toNat + (if w = 3 then 2 * (s.tagAt addr 1).toNat else 0)
    elasticRes (← destT cl t ⟨BitVec.ofNat 64 v, false⟩) 5) s

/-! ### Fences (R234, R235, R285) -/

/-- The commands that a fence orders like the context's accesses: those whose accesses are of a class in its mask, its M commands
in class c0 and its semwaits (R239, R243), and for fence.bank its bank commands (R285). -/
def State.fenceCmds (s : State) (mask : BitVec 16) (bank : Bool) : List Nat :=
  ((List.range 16).filter mask.getLsbD).flatMap (fun n => s.classCmds s.cur (BitVec.ofNat 4 n)) ++
    (if bank then (s.ecmds.filter fun c => c.ctx == s.cur && c.eng == .bank).map ECmd.id else [])

/-- A fence orders what the context does later after what it has done before with a class in the mask: its unperformed
stores and its commands. With nothing outstanding it leaves no trace. From cluster scope on it discards the core's L1 lines. -/
def fence (g : Guard) (mask : BitVec 16) (scope : BitVec 4) (bank : Bool) (s : State) : Host.Outcome State Fault Refusal :=
  runSlot g (do
    let k ← getHere
    stopIf (k.lateIn mask) (.freezePast ⟨mask, []⟩)
    modify fun s =>
      let cs := s.fenceCmds mask bank
      let t := if s.here.stores.isEmpty && cs.isEmpty then s
        else s.setHere { s.here with stores := s.here.stores ++ [.fence mask scope cs] }
      if 2 ≤ scope.toNat then t.dropCore (coreOf s.cur) else t) s

def execFenceC (g : Guard) (mask : BitVec 16) (scope : BitVec 4) (s : State) := fence g mask scope false s
def execFenceBank (g : Guard) (mask : BitVec 16) (scope : BitVec 4) (s : State) := fence g mask scope true s

end Sys2Proof.Machine
end

