-- ==== Sys2Proof/Machine/HandleMem.lean ====
section
/-!
DEFINITION. Handles (R213 to R216), layout and bond registers (R262, R309), and the accesses through handles: plain
(R217, R218, R339), queued (R221) and link accesses (R290).
-/

namespace Sys2Proof.Machine

/-! ### Handle, layout and bond registers of the Y slot -/

/-- A y operand of the XL, RF and RB families, which are fields of the Y slot and may name a FIFO (R363). -/
def needY (y : BitVec 5) : Exec W64 := do
  let r ← readYf .Y y
  needReg .Y .y y r
  return r.val

/-- R214: the translation runs after the bundle; the handle is exact at the issue cycle plus 12. -/
def execXlat (g : Guard) (h : BitVec 4) (a : BitVec 5) (perm : BitVec 3) (s : State) : Host.Outcome State Fault Refusal :=
  runSlot g (do
    let va ← needY a
    setHere ((← getHere).addLate (.h h Handle.none) 12 false (.xlat va perm))) s

def execHdrop (g : Guard) (h : BitVec 4) (s : State) := runSlot g (exact (.h h Handle.none) 1) s

def execHmov (g : Guard) (h src : BitVec 4) (s : State) := runSlot g (do exact (.h h (← readH src)) 1) s

/-- The description of a handle (R216). -/
def hinfoWord (h : Handle) : W64 :=
  BitVec.ofNat 64 (h.valid.toNat * 2 ^ 63 + h.lclass.toNat * 2 ^ 60 + h.size.toNat * 2 ^ 58 + h.tgt.toNat * 2 ^ 56 + h.perm.toNat * 2 ^ 53 +
    h.kv.toNat * 2 ^ 52 + h.vpage.toNat * 2 ^ 16 + h.cview.toNat * 2 ^ 14 + h.bankl.toNat * 2 ^ 12 + h.plane.toNat * 2 ^ 7 +
    h.tstride.toNat * 2 ^ 4 + h.afmt.toNat)

def execHinfo (g : Guard) (h : BitVec 4) (d : BitVec 5) (s : State) :=
  runSlot g (do writeR .y d ⟨hinfoWord (← readH h), false⟩ 1) s

/-- R261: a layout register with one part replaced; reserved bits are written as zero. -/
def setPart (l : BitVec 192) (part : Nat) (v : W64) : BitVec 192 :=
  let u := if part = 0 then v.toNat % 2 ^ 23 else v.toNat
  BitVec.ofNat 192 (l.toNat - bits l.toNat (64 * part) 64 * 2 ^ (64 * part) + u * 2 ^ (64 * part))

def execLset (g : Guard) (n : BitVec 3) (part : BitVec 2) (y : BitVec 5) (s : State) :=
  runSlot g (do
    let v ← needY y
    exact (.l n (setPart ((← getHere).regs.rl n) part.toNat v)) 1) s

def execLget (g : Guard) (n : BitVec 3) (part : BitVec 2) (y : BitVec 5) (s : State) :=
  runSlot g (do
    let l := (← getHere).regs.rl n
    writeR .y y ⟨BitVec.ofNat 64 (bits l.toNat (64 * part.toNat) 64), false⟩ 1) s

/-- R307: the bits of a bond register that are kept. -/
def bondMask (v : W64) : W64 := v &&& 0xFFFF011F007F

def execBset (g : Guard) (n : BitVec 3) (y : BitVec 5) (s : State) :=
  runSlot g (do
    let v ← needY y
    exact (.b n (bondMask v)) 1) s

def execBget (g : Guard) (n : BitVec 3) (y : BitVec 5) (s : State) :=
  runSlot g (do writeR .y y ⟨(← getHere).regs.rb n, false⟩ 1) s

/-! ### Plain accesses (R217, R218, R339) -/

/-- The latency of a result that accesses nothing (R339): bound(1) where the page is of class 0. -/
def Handle.poisonLatency (h : Handle) : Nat := if h.lclass = 0 then Config.bound 1 else h.latency

/-- R217: the offset of a family-LH access. -/
def lhOffset (y : W64) (w : BitVec 2) (disp : BitVec 3) : Nat := (y + BitVec.ofNat 64 (disp.toNat * 2 ^ w.toNat)).toNat

def handleLoad (g : Guard) (cl : Cl) (t : BitVec 5) (hn : BitVec 4) (o : BitVec 5) (cls : BitVec 4) (w : BitVec 2) (disp : BitVec 3)
    (form : LoadForm) (s : State) : Host.Outcome State Fault Refusal :=
  runSlot g (do
    let y ← readY o
    let h ← readH hn
    let n := 2 ^ w.toNat
    let off := lhOffset y.val w disp
    raiseIf (!h.valid) 7 .L hn.toNat
    if y.poison then poisonedLoad cl t h.poisonLatency
    else
      raiseSome .L (checkHandle hn.toNat h off n n true false false)
      checkLoft .L h off n true
      deliver cls (← destT cl t Reg.zero) form h off n off) s

def execLdh (g : Guard) (cl : Cl) (t : BitVec 5) (h : BitVec 4) (o : BitVec 5) (cls : BitVec 4) (w : BitVec 2) (disp : BitVec 3) (s : State) :=
  handleLoad g cl t h o cls w disp .sext s
def execLdhz (g : Guard) (cl : Cl) (t : BitVec 5) (h : BitVec 4) (o : BitVec 5) (cls : BitVec 4) (w : BitVec 2) (disp : BitVec 3) (s : State) :=
  handleLoad g cl t h o cls w disp .zext s

/-- R339: a failing check of R217 gives a poisoned zero; the loft's own checks (R379) stay. -/
def execLdhS (g : Guard) (cl : Cl) (t : BitVec 5) (hn : BitVec 4) (o : BitVec 5) (cls : BitVec 4) (w : BitVec 2) (disp : BitVec 3)
    (s : State) : Host.Outcome State Fault Refusal :=
  runSlot g (do
    let y ← readY o
    let h ← readH hn
    let n := 2 ^ w.toNat
    let off := lhOffset y.val w disp
    if y.poison then poisonedLoad cl t h.poisonLatency
    else
      match checkHandle hn.toNat h off n n true false false with
      | some _ => elasticRes (← destT cl t ⟨0, true⟩) h.poisonLatency
      | none =>
        checkLoft .L h off n true
        deliver cls (← destT cl t Reg.zero) .sext h off n off) s

/-- R218: a store checks the poison of its offset, then R217, and last the poison of its datum. -/
def execSth (g : Guard) (cl : Cl) (t : BitVec 5) (hn : BitVec 4) (o : BitVec 5) (cls : BitVec 4) (w : BitVec 2) (disp : BitVec 3)
    (s : State) : Host.Outcome State Fault Refusal :=
  runSlot g (do
    let y ← readY o
    needReg .L .y o y
    let h ← readH hn
    let n := 2 ^ w.toNat
    let off := lhOffset y.val w disp
    raiseSome .L (checkHandle hn.toNat h off n n false true false)
    checkLoft .L h off n false
    let r ← readT cl t
    needReg .L cl t r
    storeHandle cls n h off (leBytes n r.val.toNat)) s

/-! ### Link accesses (R290) -/

/-- The second register of a pair. -/
def pairNext (t : BitVec 5) : BitVec 5 := t + 1

def execLdlink (g : Guard) (t : BitVec 5) (hn : BitVec 4) (o : BitVec 5) (cls : BitVec 4) (s : State) : Host.Outcome State Fault Refusal :=
  runSlot g (do
    let y ← readY o
    let h ← readH hn
    let off := y.val.toNat
    raiseIf (!h.valid) 7 .L hn.toNat
    if y.poison then
      elasticRes (.y t ⟨← freshValue, true⟩) h.poisonLatency
      elasticRes (.y (pairNext t) ⟨← freshValue, true⟩) h.poisonLatency
    else
      raiseSome .L (checkHandle hn.toNat h off 16 16 true false false)
      raiseIf (h.tgt == 2) 5 .L (off % 2 ^ 52)
      checkLoft .L h off 16 true
      deliverLink cls (.y t Reg.zero) (.y (pairNext t) Reg.zero) h off) s

def execStlink (g : Guard) (t : BitVec 5) (hn : BitVec 4) (o : BitVec 5) (cls : BitVec 4) (s : State) : Host.Outcome State Fault Refusal :=
  runSlot g (do
    let y ← readY o
    needReg .L .y o y
    let h ← readH hn
    let off := y.val.toNat
    raiseSome .L (checkHandle hn.toNat h off 16 16 false true false)
    raiseIf (h.tgt == 2) 5 .L (off % 2 ^ 52)
    checkLoft .L h off 16 false
    let r0 ← readY t
    let r1 ← readY (pairNext t)
    needReg .L .y t r0
    needReg .L .y (pairNext t) r1
    storeHandle cls 16 h off (leBytes 8 r0.val.toNat ++ leBytes 8 r1.val.toNat)) s

/-! ### Queued loads (R221) -/

def Ctx.queue (k : Ctx) (q : BitVec 2) : List QEntry := vget k.q q.toNat []

/-- R221: an entry is appended in issue order; its value is fixed at issue and arrives by a step of its own, which also
finds out whether the loft or the host fails it; bytes that the loft does not give are of no stated value. Finding 16 entries stands before
the checks of R217 (log entry 139). -/
def execLdq (g : Guard) (q : BitVec 2) (hn : BitVec 4) (o : BitVec 5) (cls : BitVec 4) (w : BitVec 2) (s : State) :
    Host.Outcome State Fault Refusal :=
  runSlot g (do
    let k ← getHere
    stopIf (decide ((k.queue q).length ≥ 16)) .block
    let y ← readY o
    let h ← readH hn
    let n := 2 ^ w.toNat
    let off := y.val.toNat
    if y.poison then
      let v ← freshValue
      let k ← getHere
      let e : QEntry := ⟨k.nextId, cls, k.sr.acyc.toNat, w, h, off, v, true, true, none, false, false⟩
      setHere { k with q := vset k.q q.toNat (k.queue q ++ [e]), nextId := k.nextId + 1 }
    else
      raiseSome .L (checkHandle hn.toNat h off n n true false true)
      let bs ← loadHandle cls h off n
      let s ← get
      let v ← if s.unanswered s.cur h off n then freshValue else pure (loaded true bs)
      let k ← getHere
      let e : QEntry := ⟨k.nextId, cls, k.sr.acyc.toNat, w, h, off, v, false, false, none, false, false⟩
      setHere { k with q := vset k.q q.toNat (k.queue q ++ [e]), nextId := k.nextId + 1 }) s

/-- R221: takes the head entry; an empty queue raises WATCHDOG, a failed head its own trap, and a head that has not
arrived blocks. -/
def execQpop (g : Guard) (cl : Cl) (t : BitVec 5) (q : BitVec 2) (s : State) : Host.Outcome State Fault Refusal :=
  runSlot g (do
    let k ← getHere
    match k.queue q with
    | [] => raise 19 .L 1
    | e :: es =>
      stopIf (!e.arrived) .block
      match e.failed with
      | some (cls, info) => stop (.trap ⟨cls, SlotKind.L.code, info, false, some (.entry e.id)⟩)
      | none =>
        exact (← destT cl t ⟨e.val, e.poison⟩) 1
        let k ← getHere
        setHere { k with q := vset k.q q.toNat es }) s

end Sys2Proof.Machine
end

