-- ==== Sys2Proof/Machine/Vector.lean ====
section
/-!
DEFINITION. The V slot (R129 to R150, R155): lane arithmetic, logic, compares, conversions, reductions, cross-lane
moves, sorted merges and arena addresses.
-/

namespace Sys2Proof.Machine

/-! ### Shared forms -/

/-- A V slot acts on the lanes its predicate enables; with none it does nothing (R12, R36, R132). -/
def runV (g : Guard) (body : W64 → Exec Unit) (s : State) : Host.Outcome State Fault Refusal :=
  let m := s.here.laneMask g
  if m = 0 then .next s else runBody (body m) s

/-- The event of the lowest enabled lane that has one (R128, R155). -/
def laneEvent (k : Ctx) (m : W64) (f : Nat → Nat) : Option FelEvent :=
  match (List.range 64).find? fun i => m.getLsbD i && f i != 0 with
  | none => none
  | some i => some (k.event 3 i (f i))

/-- Schedules lane results with their events: elastic, the enabled lanes only (R132, R133). -/
def putLanes (d : BitVec 5) (m : W64) (lat : Nat) (f : Nat → W32 × Nat) : Exec Unit := do
  let k ← getHere
  let r : Vector (W32 × Nat) 64 := Vector.ofFn fun i : Fin 64 => if m.getLsbD i.val then f i.val else (0, 0)
  schedule (.v d m (r.map Prod.fst)) lat true (laneEvent k m fun i => (vget r i (0, 0)).2)

/-- Lane results without events. -/
def putPlain (d : BitVec 5) (m : W64) (lat : Nat) (f : Nat → W32) : Exec Unit := putLanes d m lat fun i => (f i, 0)

/-- A y operand of a V slot; poison raises POISON_CONSUMED (R134). V fields never name a FIFO (R363). -/
def readYV (slot : SlotKind) (y : BitVec 5) : Exec W64 := do
  let r ← readY y
  raiseIf r.poison 8 slot (poisonInfo .y y)
  return r.val

/-- A lane's bits as a number. -/
def code (v : Lanes) (i : Nat) : Nat := (lane v i).toNat

/-- A code with its event in lane form (R130). -/
def inLane (f : Fmt) (r : Rounded) : W32 × Nat := (laneOf f r.1, r.2)

/-! ### Lane arithmetic (R136 to R138) -/

/-- An integer result of n bits: wrapped, or clamped under RND[2] (R119, R136). -/
def intResult (n : Nat) (rnd : BitVec 3) (v : Int) : Rounded :=
  if rnd.getLsbD 2 then
    let c := clampInt n v
    (c.1, if c.2 then 5 else 0)
  else (wrapTo n v, 0)

/-- An operation given exactly on integers and on numbers (R136). `fresh` says that no operand was a NaN. -/
def arith (f : Fmt) (rnd : BitVec 3) (vi : Int) (vf : Num) (fresh : Bool) : W32 × Nat :=
  if f.isInt then inLane f (intResult f.width rnd vi) else inLane f (roundFmt f rnd.toNat fresh vf)

def notNan (f : Fmt) (c : Nat) : Bool := !(f.isFloat && (numOf f c).isNan)

def vbin (g : Guard) (d a b : BitVec 5) (fmt : Fmt) (rnd : BitVec 3) (lat : Nat) (vi : Int → Int → Int) (vf : Num → Num → Num)
    (s : State) : Host.Outcome State Fault Refusal :=
  runV g (fun m => do
    let va ← readV a
    let vb ← readV b
    putLanes d m lat fun i =>
      let x := code va i
      let y := code vb i
      arith fmt rnd (vi (signedOf fmt.width x) (signedOf fmt.width y)) (vf (numOf fmt x) (numOf fmt y))
        (notNan fmt x && notNan fmt y)) s

def execVadd (g : Guard) (d a b : BitVec 5) (fmt : Fmt) (rnd : BitVec 3) (s : State) :=
  vbin g d a b fmt rnd 2 (fun x y => x + y) (fun x y => x.add rnd.toNat y) s
def execVsub (g : Guard) (d a b : BitVec 5) (fmt : Fmt) (rnd : BitVec 3) (s : State) :=
  vbin g d a b fmt rnd 2 (fun x y => x - y) (fun x y => x.add rnd.toNat y.negate) s
def execVmul (g : Guard) (d a b : BitVec 5) (fmt : Fmt) (rnd : BitVec 3) (s : State) :=
  vbin g d a b fmt rnd 4 (fun x y => x * y) (fun x y => x.mul y) s

/-- R136: the fused operations read D as their addend. -/
def vfused (g : Guard) (d a b : BitVec 5) (fmt : Fmt) (rnd : BitVec 3) (vi : Int → Int → Int → Int) (vf : Num → Num → Num → Num)
    (s : State) : Host.Outcome State Fault Refusal :=
  runV g (fun m => do
    let va ← readV a
    let vb ← readV b
    let vd ← readV d
    putLanes d m 4 fun i =>
      let x := code va i
      let y := code vb i
      let z := code vd i
      arith fmt rnd (vi (signedOf fmt.width x) (signedOf fmt.width y) (signedOf fmt.width z))
        (vf (numOf fmt x) (numOf fmt y) (numOf fmt z)) (notNan fmt x && notNan fmt y && notNan fmt z)) s

def execVfma (g : Guard) (d a b : BitVec 5) (fmt : Fmt) (rnd : BitVec 3) (s : State) :=
  vfused g d a b fmt rnd (fun x y z => x * y + z) (fun x y z => (x.mul y).add rnd.toNat z) s
def execVfms (g : Guard) (d a b : BitVec 5) (fmt : Fmt) (rnd : BitVec 3) (s : State) :=
  vfused g d a b fmt rnd (fun x y z => z - x * y) (fun x y z => z.add rnd.toNat (x.mul y).negate) s

/-- The canonical NaN for a NaN code, any other code unchanged (R113). -/
def canon (f : Fmt) (c : Nat) : Nat := if f.isFloat && (numOf f c).isNan then f.nanCode else c % 2 ^ f.width

/-- R137: the smaller or larger code; `alt` is SUB[0]. -/
def minMax (f : Fmt) (big alt : Bool) (x y : Nat) : Nat :=
  let a := x % 2 ^ f.width
  let b := y % 2 ^ f.width
  if f.isInt then
    let le := if alt then decide (a ≤ b) else decide (signedOf f.width a ≤ signedOf f.width b)
    if le == big then b else a
  else
    let p := numOf f a
    let q := numOf f b
    if p.isNan || q.isNan then (if alt && !(p.isNan && q.isNan) then (if p.isNan then b else a) else f.nanCode)
    else if q.lt p == big then a else b

def vminmax (g : Guard) (d a b : BitVec 5) (fmt : Fmt) (big alt : Bool) (s : State) : Host.Outcome State Fault Refusal :=
  runV g (fun m => do
    let va ← readV a
    let vb ← readV b
    putPlain d m 2 fun i => laneOf fmt (minMax fmt big alt (code va i) (code vb i))) s

def execVmin (g : Guard) (d a b : BitVec 5) (fmt : Fmt) (sub : Bool) (s : State) := vminmax g d a b fmt false sub s
def execVmax (g : Guard) (d a b : BitVec 5) (fmt : Fmt) (sub : Bool) (s : State) := vminmax g d a b fmt true sub s

/-- R136: vabs and vneg of a floating format change only the sign bit. -/
def signOp (g : Guard) (d a : BitVec 5) (fmt : Fmt) (rnd : BitVec 3) (neg : Bool) (s : State) : Host.Outcome State Fault Refusal :=
  runV g (fun m => do
    let va ← readV a
    putLanes d m 2 fun i =>
      let x := code va i % 2 ^ fmt.width
      if fmt.isInt then
        let v := signedOf fmt.width x
        inLane fmt (intResult fmt.width rnd (if neg then -v else (v.natAbs : Int)))
      else if (numOf fmt x).isNan then (laneOf fmt fmt.nanCode, 0)
      else if neg then (laneOf fmt (x ^^^ fmt.signBit), 0) else (laneOf fmt (x % fmt.signBit), 0)) s

def execVabs (g : Guard) (d a : BitVec 5) (fmt : Fmt) (rnd : BitVec 3) (s : State) := signOp g d a fmt rnd false s
def execVneg (g : Guard) (d a : BitVec 5) (fmt : Fmt) (rnd : BitVec 3) (s : State) := signOp g d a fmt rnd true s

/-- The events of R127 that stand before NaN produced: an invalid root and a division by zero. -/
def firstEvent (special : Bool) (code : Nat) (r : Rounded) : Rounded := if special then (r.1, code) else r

def Num.finite : Num → Bool
  | .fin _ _ _ => true
  | .inf _ | .nan => false

def execVdiv (g : Guard) (d a b : BitVec 5) (fmt : Fmt) (rnd : BitVec 3) (s : State) : Host.Outcome State Fault Refusal :=
  runV g (fun m => do
    let va ← readV a
    let vb ← readV b
    putLanes d m 14 fun i =>
      let x := numOf fmt (code va i)
      let y := numOf fmt (code vb i)
      inLane fmt (firstEvent (x.finite && !x.isZero && y.isZero) 2
        (roundFmt fmt rnd.toNat (!x.isNan && !y.isNan) (x.div y)))) s

/-- R119, R127: a root of a value below zero is a NaN with its own event. -/
def vroot (g : Guard) (d a : BitVec 5) (fmt : Fmt) (rnd : BitVec 3) (recip : Bool) (s : State) : Host.Outcome State Fault Refusal :=
  runV g (fun m => do
    let va ← readV a
    putLanes d m 14 fun i =>
      let x := numOf fmt (code va i)
      let r := roundFmt fmt rnd.toNat (!x.isNan) (if recip then x.rsqrt else x.sqrt)
      inLane fmt (firstEvent (recip && x.isZero) 2 (firstEvent (x.neg? && !x.isZero) 1 r))) s

def execVsqrt (g : Guard) (d a : BitVec 5) (fmt : Fmt) (rnd : BitVec 3) (s : State) := vroot g d a fmt rnd false s
def execVrsqrt (g : Guard) (d a : BitVec 5) (fmt : Fmt) (rnd : BitVec 3) (s : State) := vroot g d a fmt rnd true s

def execVexp2 (g : Guard) (d a : BitVec 5) (s : State) : Host.Outcome State Fault Refusal :=
  runV g (fun m => do
    let va ← readV a
    putLanes d m 6 fun i => inLane .fp32 (exp2 (code va i))) s

/-! ### Logic, shifts, counts and moves (R139) -/

def vlogic (g : Guard) (d a b : BitVec 5) (f : W32 → W32 → W32) (s : State) : Host.Outcome State Fault Refusal :=
  runV g (fun m => do
    let va ← readV a
    let vb ← readV b
    putPlain d m 2 fun i => f (lane va i) (lane vb i)) s

def execVand (g : Guard) (d a b : BitVec 5) (s : State) := vlogic g d a b (fun x y => x &&& y) s
def execVor (g : Guard) (d a b : BitVec 5) (s : State) := vlogic g d a b (fun x y => x ||| y) s
def execVxor (g : Guard) (d a b : BitVec 5) (s : State) := vlogic g d a b (fun x y => x ^^^ y) s
def execVandn (g : Guard) (d a b : BitVec 5) (s : State) := vlogic g d a b (fun x y => x &&& ~~~y) s
def execVmov (g : Guard) (d a : BitVec 5) (s : State) := vlogic g d a a (fun x _ => x) s

/-- An integer lane operation on the element bits of A and the whole lane of B (R139). -/
def vshift (g : Guard) (d a b : BitVec 5) (fmt : Fmt) (f : Nat → Nat → Nat → Nat) (s : State) : Host.Outcome State Fault Refusal :=
  runV g (fun m => do
    let va ← readV a
    let vb ← readV b
    putPlain d m 2 fun i => laneOf fmt (f fmt.width (code va i % 2 ^ fmt.width) (code vb i))) s

/-- R139: a left shift, a right shift filling with zeros, and one filling with the sign, by the whole count. -/
def laneShl (n a c : Nat) : Nat := if n ≤ c then 0 else a * 2 ^ c % 2 ^ n
def laneShr (n a c : Nat) : Nat := if n ≤ c then 0 else a % 2 ^ n / 2 ^ c
def laneSra (n a c : Nat) : Nat := wrapTo n (signedOf n a / 2 ^ min c (n - 1))

def execVshl (g : Guard) (d a b : BitVec 5) (fmt : Fmt) (s : State) := vshift g d a b fmt laneShl s
def execVshr (g : Guard) (d a b : BitVec 5) (fmt : Fmt) (s : State) := vshift g d a b fmt laneShr s
def execVsra (g : Guard) (d a b : BitVec 5) (fmt : Fmt) (s : State) := vshift g d a b fmt laneSra s

/-- Leading zeros and one bits of an element (R139). -/
def laneClz (n a : Nat) : Nat := if a % 2 ^ n = 0 then n else n - 1 - Nat.log2 (a % 2 ^ n)
def lanePop (n a : Nat) : Nat := ((List.range n).filter fun i => bitAt a i).length

def execVclz (g : Guard) (d a : BitVec 5) (fmt : Fmt) (s : State) := vshift g d a a fmt (fun n x _ => laneClz n x) s
def execVpopc (g : Guard) (d a : BitVec 5) (fmt : Fmt) (s : State) := vshift g d a a fmt (fun n x _ => lanePop n x) s

/-! ### Compare and select (R140, R141) -/

def execVcmp (g : Guard) (pd : BitVec 4) (a b : BitVec 5) (cc : VCond) (fmt : Fmt) (s : State) : Host.Outcome State Fault Refusal :=
  runV g (fun m => do
    let va ← readV a
    let vb ← readV b
    elasticRes (.p pd m (laneBits fun i => vcondHolds cc fmt (code va i) (code vb i))) 2) s

def execVsel (g : Guard) (d a b : BitVec 5) (ps : BitVec 4) (s : State) : Host.Outcome State Fault Refusal :=
  runV g (fun m => do
    let va ← readV a
    let vb ← readV b
    let p ← readP ps
    putPlain d m 2 fun i => if p.getLsbD i then lane va i else lane vb i) s

/-! ### Conversions, packing and unpacking (R142, R143) -/

def execVcvt (g : Guard) (d a : BitVec 5) (src dst : Fmt) (rnd : BitVec 3) (s : State) : Host.Outcome State Fault Refusal :=
  runV g (fun m => do
    let va ← readV a
    putLanes d m 3 fun i => inLane dst (convert src dst rnd.toNat (code va i % 2 ^ src.width))) s

/-- A register as the number its 256-byte string holds, little-endian (R131). -/
def stringOf (v : Lanes) : Nat := (List.range 64).foldr (fun i acc => code v i + 2 ^ 32 * acc) 0

/-- Element e of width n of a packed register (R131). -/
def packedElem (v : Nat) (n e : Nat) : Nat := bits v (n * e) n

def execVunpk (g : Guard) (d a : BitVec 5) (src dst : Fmt) (hs rnd : BitVec 3) (s : State) : Host.Outcome State Fault Refusal :=
  runV g (fun m => do
    let va := stringOf (← readV a)
    putLanes d m 3 fun i => inLane dst (convert src dst rnd.toNat (packedElem va src.width (64 * hs.toNat + i)))) s

/-- Puts an element of width n into a packed register (R143). -/
def putElem (v n e c : Nat) : Nat := v - bits v (n * e) n * 2 ^ (n * e) + c % 2 ^ n * 2 ^ (n * e)

/-- R143: vpack reads all of D, replaces the elements of the enabled lanes and writes all of D. The
lane that FEL names for an event is the source lane (log entry 100). -/
def execVpack (g : Guard) (d a : BitVec 5) (src dst : Fmt) (hs rnd : BitVec 3) (s : State) : Host.Outcome State Fault Refusal :=
  runV g (fun m => do
    let va ← readV a
    let vd := stringOf (← readV d)
    let k ← getHere
    let r := fun i => convert src dst rnd.toNat (code va i % 2 ^ src.width)
    let w := (List.range 64).foldl
      (fun acc i => if m.getLsbD i then putElem acc dst.width (64 * hs.toNat + i) (r i).1 else acc) vd
    schedule (.v d (BitVec.allOnes 64) (Vector.ofFn fun i : Fin 64 => BitVec.ofNat 32 (bits w (32 * i.val) 32))) 3 true
      (laneEvent k m fun i => (r i).2)) s

/-! ### Reductions and prefix sums (R144, R145) -/

/-- The combining tree of R144 over the lanes present; of two events the first code of R127 is kept. -/
def nodeOpt (f : Nat → Nat → Rounded) : Option Rounded → Option Rounded → Option Rounded
  | none, y => y
  | x, none => x
  | some (a, e), some (b, e') =>
    let r := f a b
    let es := [e, e', r.2].filter fun c => c != 0
    some (r.1, es.foldl (fun acc c => if acc = 0 ∨ c < acc then c else acc) 0)

def treeLevel {α : Type} (f : α → α → α) : List α → List α
  | a :: b :: r => f a b :: treeLevel f r
  | l => l

def tree {α : Type} (f : α → α → α) : Nat → List α → List α
  | 0, l => l
  | n + 1, l => tree f n (treeLevel f l)

/-- The value of one group, none when no lane of it is enabled (R144). -/
def groupValue (node : Nat → Nat → Rounded) (m : W64) (v : Lanes) (lo size : Nat) : Option Rounded :=
  let leaves := (List.range size).map fun k => if m.getLsbD (lo + k) then some ((code v (lo + k) : Nat), 0) else none
  ((tree (nodeOpt node) 6 leaves).head?).getD none

/-- The lowest enabled lane of a group. -/
def groupLow (m : W64) (lo size : Nat) : Nat := lo + (((List.range size).find? fun k => m.getLsbD (lo + k)).getD 0)

/-- Writes each group's value to its enabled lanes and its event at the group's lowest enabled lane (R144). -/
def putGroups (d : BitVec 5) (m : W64) (grp : BitVec 2) (val : Nat → Nat → Option Rounded) : Exec Unit := do
  let size := 64 / 2 ^ grp.toNat
  let vals : Vector (Option Rounded) 64 := Vector.ofFn fun j : Fin 64 => if j.val * size < 64 then val (j.val * size) size else none
  putLanes d m 6 fun i =>
    let lo := i / size * size
    match vget vals (i / size) none with
    | none => (0, 0)
    | some (r, e) => (BitVec.ofNat 32 r, if i = groupLow m lo size then e else 0)

/-- R144: FP32 sums round at every node; INT32 sums are formed exactly and wrapped or clamped once. -/
def execVredadd (g : Guard) (d a : BitVec 5) (fmt : Fmt) (grp : BitVec 2) (rnd : BitVec 3) (s : State) : Host.Outcome State Fault Refusal :=
  runV g (fun m => do
    let va ← readV a
    putGroups d m grp fun lo size =>
      if fmt.isInt then
        if ((List.range size).any fun k => m.getLsbD (lo + k)) then
          some (intResult 32 rnd ((List.range size).foldl
            (fun acc k => if m.getLsbD (lo + k) then acc + signedOf 32 (code va (lo + k)) else acc) 0))
        else none
      else (groupValue (fun x y => roundFmt .fp32 rnd.toNat (notNan .fp32 x && notNan .fp32 y)
              ((numOf .fp32 x).add rnd.toNat (numOf .fp32 y))) m va lo size).map fun r => (canon .fp32 r.1, r.2)) s

def vredminmax (g : Guard) (d a : BitVec 5) (fmt : Fmt) (grp : BitVec 2) (big : Bool) (s : State) : Host.Outcome State Fault Refusal :=
  runV g (fun m => do
    let va ← readV a
    putGroups d m grp fun lo size =>
      (groupValue (fun x y => (minMax fmt big false x y, 0)) m va lo size).map fun r => (canon fmt r.1, r.2)) s

def execVredmax (g : Guard) (d a : BitVec 5) (fmt : Fmt) (grp : BitVec 2) (s : State) := vredminmax g d a fmt grp true s
def execVredmin (g : Guard) (d a : BitVec 5) (fmt : Fmt) (grp : BitVec 2) (s : State) := vredminmax g d a fmt grp false s

/-- The running sums of R145 from lane `i` upwards: the value written and the event of each lane. -/
def scanFrom (fmt : Fmt) (rnd : BitVec 3) (excl : Bool) (m : W64) (v : Lanes) : List Nat → Nat → List Rounded
  | [], _ => []
  | i :: is, acc =>
    if m.getLsbD i then
      let r : Rounded :=
        if fmt.isInt then intResult 32 rnd (signedOf 32 acc + signedOf 32 (code v i))
        else roundFmt .fp32 rnd.toNat (notNan .fp32 acc && notNan .fp32 (code v i)) ((numOf .fp32 acc).add rnd.toNat (numOf .fp32 (code v i)))
      (if excl then canon fmt acc else r.1, r.2) :: scanFrom fmt rnd excl m v is r.1
    else (0, 0) :: scanFrom fmt rnd excl m v is acc

def execVscan (g : Guard) (d a b : BitVec 5) (fmt : Fmt) (sub : BitVec 2) (rnd : BitVec 3) (s : State) : Host.Outcome State Fault Refusal :=
  runV g (fun m => do
    let va ← readV a
    let vb ← readV b
    let start := if sub.getLsbD 1 then code vb 63 else 0
    let out := scanFrom fmt rnd (sub.getLsbD 0) m va (List.range 64) start
    putLanes d m 6 fun i => inLane fmt ((out[i]?).getD (0, 0))) s

/-! ### Cross-lane moves (R146, R147) -/

def execVperm (g : Guard) (d a b : BitVec 5) (s : State) : Host.Outcome State Fault Refusal :=
  runV g (fun m => do
    let va ← readV a
    let vb ← readV b
    putPlain d m 2 fun i => if code vb i < 64 then lane va (code vb i) else 0) s

def execVbcast (g : Guard) (d y : BitVec 5) (fmt : Fmt) (s : State) : Host.Outcome State Fault Refusal :=
  runV g (fun m => do
    let v ← readYV .V y
    putPlain d m 2 fun _ => laneOf fmt (v.toNat % 2 ^ fmt.width)) s

def execVext (g : Guard) (d y : BitVec 5) (ln : BitVec 6) (fmt : Fmt) (s : State) : Host.Outcome State Fault Refusal :=
  runV g (fun m => do
    let vd ← readV d
    if m.getLsbD ln.toNat then
      let c := code vd ln.toNat % 2 ^ fmt.width
      elasticRes (.y y ⟨if fmt.isInt then extend fmt.width c else BitVec.ofNat 64 c, false⟩) 2) s

def execVins (g : Guard) (d y : BitVec 5) (ln : BitVec 6) (fmt : Fmt) (s : State) : Host.Outcome State Fault Refusal :=
  runV g (fun m => do
    let v ← readYV .V y
    if m.getLsbD ln.toNat then
      putPlain d (BitVec.ofNat 64 (2 ^ ln.toNat)) 2 fun _ => laneOf fmt (v.toNat % 2 ^ fmt.width)) s

def execViota (g : Guard) (d y : BitVec 5) (ln : BitVec 6) (s : State) : Host.Outcome State Fault Refusal :=
  runV g (fun m => do
    let v ← readYV .V y
    putPlain d m 2 fun i => BitVec.ofNat 32 (v.toNat + i * ln.toNat)) s

/-! ### Sorted-index merge (R148, R149) -/

/-- SENT of R148. -/
def sent : Nat := 0xFFFFFFFF

def idxAt (v : Lanes) (i : Nat) : Nat := if i < 64 then code v i else sent

/-- The merge procedure of R148: at most `n` more entries from lanes i of A and j of B, as (index, lane of A, lane
of B). -/
def mergeFrom (a b : Lanes) : Nat → Nat → Nat → List (Nat × Nat × Nat)
  | 0, _, _ => []
  | n + 1, i, j =>
    let x := idxAt a i
    let y := idxAt b j
    if x = sent ∧ y = sent then []
    else if x = y then (x, i, j) :: mergeFrom a b n (i + 1) (j + 1)
    else if x < y then (x, i, sent) :: mergeFrom a b n (i + 1) j
    else (y, sent, j) :: mergeFrom a b n i (j + 1)

/-- R149: the lanes of A at which B is not an exact zero. -/
def squeeze (fmt : Fmt) (a b : Lanes) : List Nat :=
  ((List.range 64).filter fun i =>
    match fmt with
    | .fp32 => code b i % 2 ^ 31 != 0
    | .bf16 => code b i % 2 ^ 15 != 0
    | .int8 | .int16 | .int32 | .int64 | .e4m3 | .e5m2 | .mxfp4 | .mxint4 | .mxint6 | .mxint8 => code b i != 0).map (code a)

def execVmerge (g : Guard) (d a b : BitVec 5) (fmt : Fmt) (mode : BitVec 2) (s : State) : Host.Outcome State Fault Refusal :=
  runV g (fun m => do
    let va ← readV a
    let vb ← readV b
    let out : List Nat :=
      match mode.toNat with
      | 0 => (mergeFrom va vb 64 0 0).map fun e => e.1
      | 1 => (mergeFrom va vb 64 0 0).map fun e => e.2.1
      | 2 => (mergeFrom va vb 64 0 0).map fun e => e.2.2
      | _ => squeeze fmt va vb
    putPlain d m 8 fun i => BitVec.ofNat 32 ((out[i]?).getD sent)) s

/-! ### Arena addresses (R150) -/

def execAgen (g : Guard) (d a b y : BitVec 5) (s : State) : Host.Outcome State Fault Refusal :=
  runV g (fun m => do
    let v ← readYV .V y
    let va ← readV a
    let vb ← readV b
    let limit := bits v.toNat 32 32
    putLanes d m 4 fun i =>
      if limit ≠ 0 ∧ limit ≤ code vb i then (BitVec.ofNat 32 sent, 5)
      else (BitVec.ofNat 32 (code va i + code vb i * bits v.toNat 0 32), 0)) s

end Sys2Proof.Machine
end

