-- ==== Sys2Proof/Machine/VectorMem.lean ====
section
/-!
DEFINITION. The L slot's vector accesses (R151 to R154, R228, R339) and the S slot's scale accesses (R168).
-/

namespace Sys2Proof.Machine

/-! ### Local vector accesses (R151, R152, R339) -/

def execLdv (g : Guard) (v a : BitVec 5) (cls : BitVec 4) (ew : BitVec 2) (off : BitVec 8) (s : State) : Host.Outcome State Fault Refusal :=
  runSlot g (do
    let y ← readYV .L a
    let addr := addrOff y 256 off
    checkLocal .L addr (2 ^ ew.toNat) 256
    let bs ← loadLocal cls addr 256
    elasticRes (.v v (BitVec.allOnes 64) (lanesOf bs)) 5) s

/-- R339: a failing check poisons the address register and leaves its value; an address already poisoned does nothing. -/
def execLdvS (g : Guard) (v a : BitVec 5) (cls : BitVec 4) (ew : BitVec 2) (off : BitVec 8) (s : State) : Host.Outcome State Fault Refusal :=
  runSlot g (do
    let y ← readY a
    let addr := addrOff y.val 256 off
    if y.poison then pure ()
    else if addr % 2 ^ ew.toNat != 0 || !(← getHere).allots addr 256 then elasticRes (.yPoison a) 5
    else
      let bs ← loadLocal cls addr 256
      elasticRes (.v v (BitVec.allOnes 64) (lanesOf bs)) 5) s

def execStv (g : Guard) (v a : BitVec 5) (cls : BitVec 4) (ew : BitVec 2) (off : BitVec 8) (s : State) : Host.Outcome State Fault Refusal :=
  runSlot g (do
    let y ← readYV .L a
    let addr := addrOff y 256 off
    checkLocal .L addr (2 ^ ew.toNat) 256
    storeLocal cls (2 ^ ew.toNat) addr (bytesOf (← readV v))) s

/-- R152: the addresses of a gather or scatter, lane by lane. -/
def laneAddrs (y : W64) (i : Lanes) : List Nat := (List.range 64).map fun j => (y + (lane i j).setWidth 64).toNat

/-- R152, R53: every lane is checked, alignment of all before the allotment of any. Of several lanes that fail a check, EINFO names the
address of the lowest (log entry 94). -/
def checkLanes (addrs : List Nat) (n : Nat) : Exec Unit := do
  let k ← getHere
  match addrs.find? fun a => a % n != 0 with
  | some a => raise 6 .L (a % 2 ^ 52)
  | none =>
    match addrs.find? fun a => !k.allots a n with
    | some a => raise 5 .L (a % 2 ^ 52)
    | none => pure ()

def gather (cls : BitVec 4) (n : Nat) : List Nat → Exec (List Nat)
  | [] => pure []
  | a :: as => do
    let bs ← loadLocal cls a n
    let r ← gather cls n as
    return leNat bs :: r

def execLdvg (g : Guard) (v i a : BitVec 5) (cls : BitVec 4) (ew : BitVec 2) (s : State) : Host.Outcome State Fault Refusal :=
  runSlot g (do
    let y ← readYV .L a
    let addrs := laneAddrs y (← readV i)
    checkLanes addrs (2 ^ ew.toNat)
    let vs ← gather cls (2 ^ ew.toNat) addrs
    elasticRes (.v v (BitVec.allOnes 64) (Vector.ofFn fun j : Fin 64 => BitVec.ofNat 32 ((vs[j.val]?).getD 0))) 5) s

/-- The granules of a scatter, one for each lane in ascending order (R152, R240). -/
def lanePartsOf (cluster n : Nat) (v : Lanes) (addrs : List Nat) : List Part :=
  addrs.zipIdx.map fun p => ⟨spadKey cluster p.1, leBytes n (lane v p.2).toNat, none⟩

def execStvs (g : Guard) (v i a : BitVec 5) (cls : BitVec 4) (ew : BitVec 2) (s : State) : Host.Outcome State Fault Refusal :=
  runSlot g (do
    let y ← readYV .L a
    let addrs := laneAddrs y (← readV i)
    let n := 2 ^ ew.toNat
    checkLanes addrs n
    let s ← get
    stopIf (addrs.any fun a => s.locked (coreOf s.cur) s.issueFrom a n true) .freeze
    store cls (lanePartsOf (clusterOf s.cur) n (← readV v) addrs)) s

/-! ### Vector accesses through handles (R153, R228) -/

/-- A poisoned yO goes before the checks of R217, as in stvh and ldvm (log entry 119). -/
def execLdvh (g : Guard) (v : BitVec 5) (hn : BitVec 4) (o : BitVec 5) (cls : BitVec 4) (ew : BitVec 2) (s : State) :
    Host.Outcome State Fault Refusal :=
  runSlot g (do
    let off := (← readYV .L o).toNat
    let h ← readH hn
    raiseSome .L (checkHandle hn.toNat h off 256 (2 ^ ew.toNat) true false false)
    checkLoft .L h off 256 true
    deliver cls (.v v (BitVec.allOnes 64) Lanes.zero) .lanes h off 256 off) s

def execStvh (g : Guard) (v : BitVec 5) (hn : BitVec 4) (o : BitVec 5) (cls : BitVec 4) (ew : BitVec 2) (s : State) :
    Host.Outcome State Fault Refusal :=
  runSlot g (do
    let off := (← readYV .L o).toNat
    let h ← readH hn
    raiseSome .L (checkHandle hn.toNat h off 256 (2 ^ ew.toNat) false true false)
    checkLoft .L h off 256 false
    storeHandle cls (2 ^ ew.toNat) h off (bytesOf (← readV v))) s

/-- R228: the mask access makes the checks of R217 with s = 8 but for the bound; a page without KV raises PRIVILEGE. Its
alignment is that of a byte, since a mask has no natural alignment at a token position. That KV is checked last, and the EINFO of
its PRIVILEGE and of those of R217, are the model's (log entry 95). -/
def execLdvm (g : Guard) (v : BitVec 5) (hn : BitVec 4) (o : BitVec 5) (cls : BitVec 4) (s : State) : Host.Outcome State Fault Refusal :=
  runSlot g (do
    let p := (← readYV .L o).toNat
    let h ← readH hn
    raiseSome .L (checkHandle hn.toNat h 0 8 1 true false false)
    raiseIf (!h.kv) 5 .L (p % 2 ^ 52)
    let span := maskSpan p
    checkLoft .L h span.1 span.2 true
    deliver cls (.v v (BitVec.allOnes 64) Lanes.zero) .mask h span.1 span.2 p) s

/-! ### Scale registers (R168) -/

/-- R161: a scale register that an mdrain of the context still writes freezes every slot that names it. -/
def MOp.scales : MOp → List Nat
  | .mdrain _ _ f sc _ _ => if f.isMx then [sc, sc + 8] else []
  | _ => []

/-- The repetition of its own bundle, with a number from `issueFrom` on, is no earlier mdrain (R161, R176). -/
def scaleWait (sc : Nat) : Exec Unit := do
  let s ← get
  stopIf (s.mcmds.any fun c => c.ctx == s.cur && decide (c.id < s.issueFrom) && c.op.scales.contains sc) .freeze

/-- The address of sld and sst (R168). -/
def scaleAddr (a : BitVec 5) (off : BitVec 11) : Exec Nat := do
  let addr := addrOff (← readYV .S a) 256 off
  checkLocal .S addr 4 256
  return addr

def execSld (g : Guard) (sc : BitVec 4) (a : BitVec 5) (cls : BitVec 4) (off : BitVec 11) (s : State) : Host.Outcome State Fault Refusal :=
  runSlot g (do
    let addr ← scaleAddr a off
    scaleWait sc.toNat
    let bs ← loadLocal cls addr 256
    elasticRes (.sc sc (lanesOf bs)) 4) s

def execSldh (g : Guard) (sc hn : BitVec 4) (o : BitVec 5) (cls : BitVec 4) (s : State) : Host.Outcome State Fault Refusal :=
  runSlot g (do
    let off := (← readYV .S o).toNat
    let h ← readH hn
    raiseSome .S (checkHandle hn.toNat h off 256 4 true false false)
    checkLoft .S h off 256 true
    scaleWait sc.toNat
    deliver cls (.sc sc Lanes.zero) .lanes h off 256 off) s

def execSbc (g : Guard) (sc : BitVec 4) (y : BitVec 5) (s : State) : Host.Outcome State Fault Refusal :=
  runSlot g (do
    let v ← readYV .S y
    scaleWait sc.toNat
    elasticRes (.sc sc (Vector.replicate 64 (v.setWidth 32))) 4) s

def execSst (g : Guard) (sc : BitVec 4) (a : BitVec 5) (cls : BitVec 4) (off : BitVec 11) (s : State) : Host.Outcome State Fault Refusal :=
  runSlot g (do
    let addr ← scaleAddr a off
    scaleWait sc.toNat
    storeLocal cls 4 addr (bytesOf ((← getHere).regs.rsc sc))) s

end Sys2Proof.Machine
end

