-- ==== Sys2Proof/Machine/Commands.lean ====
section
/-!
DEFINITION. Issuing commands of the M and E slots and the conditions under which they enter a queue and start: units,
queues and elastic buffers (R159, R160, R252 to R254), busy tiles and scale registers (R161), the arbiter's locks (R166),
tokens (R52, R255 to R257), and the fences before a command (R235).
-/

namespace Sys2Proof.Machine

/-! ### What a command comes after -/

/-- The ids of a context's stores and commands that are still outstanding; a copy command that has read its list makes no access of
the context any more (R268). -/
def State.outstanding (s : State) (c : Nat) : List Nat :=
  storeIds none (s.ctx c).stores ++ (s.mcmds.filter fun m => m.ctx == c).map MCmd.id ++
    (s.ecmds.filter fun e => e.ctx == c && !e.listRead).map ECmd.id

/-- Whether none of the ids is outstanding. -/
def State.allDone (s : State) (c : Nat) (ids : List Nat) : Bool :=
  let o := s.outstanding c
  ids.all fun i => !o.contains i

/-- Fences at the front of a context's stores that no longer wait for anything go. -/
def dropFences : List Pend → List Pend
  | .fence m sc cmds :: ps => if cmds.isEmpty then dropFences ps else .fence m sc cmds :: ps
  | ps => ps

def Pend.without (id : Nat) : Pend → Pend
  | .fence m sc cmds => .fence m sc (cmds.filter fun i => i != id)
  | p => p

/-- A command is done, or the access it makes for its context: no fence waits for it any more. -/
def State.cmdDone (s : State) (c id : Nat) : State :=
  let k := s.ctx c
  if k.stores.isEmpty then s else (s.refence c).setCtx c { k with stores := dropFences (k.stores.map (Pend.without id)) }

/-! ### Tiles, scale registers and local bytes of a command -/

/-- The tiles an M command reads, and those it writes (R161). -/
def MOp.tilesR : MOp → List Nat
  | .mma z _ _ _ ac _ _ _ _ _ _ => if z then [] else [ac]
  | .mrot ac _ => [ac]
  | .mcon _ ac _ _ old _ _ _ _ _ => (List.range (bits old.toNat 16 5)).map fun i => ac + old.toNat / 2 ^ 24 % 2 * bits old.toNat 16 5 + i
  | .mord ac _ old => (List.range (bits old.toNat 16 5)).map fun i => ac + old.toNat / 2 ^ 24 % 2 * bits old.toNat 16 5 + i
  | .mdrain ac _ _ _ _ _ => [ac]
  | .mcopy _ src _ => [src]
  | .mstac ac _ => [ac]
  | .mzero _ | .mldac _ _ | .mvac _ _ _ | .mhld _ _ | .mdmap _ _ | .mdclr => []

def MOp.tilesW : MOp → List Nat
  | .mma _ _ _ _ ac _ _ _ _ _ _ => [ac]
  | .mrot ac _ => [ac]
  | .mcon _ ac _ _ old _ _ _ _ _ => (List.range (bits old.toNat 16 5)).map fun i => ac + (1 - old.toNat / 2 ^ 24 % 2) * bits old.toNat 16 5 + i
  | .mord ac _ old => (List.range (bits old.toNat 16 5)).map fun i => ac + (1 - old.toNat / 2 ^ 24 % 2) * bits old.toNat 16 5 + i
  | .mzero ac => [ac]
  | .mcopy ac _ _ => [ac]
  | .mldac ac _ => [ac]
  | .mvac ac _ _ => [ac]
  | .mdrain _ _ _ _ _ _ | .mstac _ _ | .mhld _ _ | .mdmap _ _ | .mdclr => []

/-- The drain unit's commands; the others are the array unit's (R159). -/
def MOp.drain : MOp → Bool
  | .mdrain _ _ _ _ _ _ | .mzero _ | .mcopy _ _ _ | .mldac _ _ | .mstac _ _ | .mvac _ _ _ => true
  | .mma _ _ _ _ _ _ _ _ _ _ _ | .mrot _ _ | .mhld _ _ | .mdmap _ _ | .mdclr | .mcon _ _ _ _ _ _ _ _ _ _ | .mord _ _ _ => false

/-- The tile of a copy command and whether the command writes it (R264). -/
def EOp.tile : EOp → Option (Nat × Bool)
  | .copy dir _ _ lw _ _ => if bits lw.toNat 62 2 = 1 then some (bits lw.toNat 0 5, !dir) else none
  | _ => none

/-- A layout record's fields (R260) as little-endian words. -/
def recordAt (mem : List Host.Cell) (cluster addr i : Nat) : Nat := leNat (readCells mem (spadKey cluster (addr + 4 * i)) 4)

/-- The bytes from the first row to the end of the last of a copyx on the local side (R267, R268). -/
def boxSpan (rowb rows planes rp pp : Nat) : Nat := (planes - 1) * pp + (rows - 1) * rp + rowb

/-- The local bytes a command reads and those it writes, as (address, length) (R166). -/
def EOp.localBytes (op : EOp) (mem : List Host.Cell) (cluster : Nat) : List (Nat × Nat) × List (Nat × Nat) :=
  match op with
  | .copy dir _ _ lw n _ =>
    if bits lw.toNat 62 2 = 1 then ([], [])
    else if dir then ([(bits lw.toNat 0 23, n)], []) else ([], [(bits lw.toNat 0 23, n)])
  | .copyg dir _ list lw rows _ =>
    let r := (bits lw.toNat 0 23, bits rows.toNat 0 32 * bits rows.toNat 32 32)
    let l := (list, 4 * bits rows.toNat 0 32)
    if dir then ([l, r], []) else ([l], [r])
  | .copyx dir _ l lw _ =>
    let a := bits l.toNat 0 23
    let r := (bits lw.toNat 0 23, boxSpan (recordAt mem cluster a 0) (bits l.toNat 128 32) (bits l.toNat 160 32)
      (recordAt mem cluster a 6) (recordAt mem cluster a 7))
    if dir then ([(a, 32), r], []) else ([(a, 32)], [r])
  | .bank h _ x y m k =>
    let n := if h.bankl = 1 then 1 else 2
    ([(x, k * n)], [(y, 4 * m)])
  | .wsave _ a => ([], [(a, 32)])
  | .wrest _ a => ([(a, 32)], [])
  | .launch hf _ a _ _ _ => if hf then ([], []) else ([(a, 128)], [])
  | .walk _ _ a n => ([], [(a, n)])
  | .binrel _ | .binkill _ | .kjoin _ | .semwait _ _ _ _ _ | .wstop _ | .wbudget _ _ | .funbindRecv _ _
  | .funbindSend _ | .xfer _ _ _ _ _ _ | .lfree _ | .bar _ => ([], [])

/-- The local bytes of a command as it stands: a copy command that has read its index list or record keeps the rows it found (R268),
whatever becomes of the list. -/
def ECmd.localBytes (c : ECmd) (mem : List Host.Cell) : List (Nat × Nat) × List (Nat × Nat) :=
  if c.listRead then
    let r := c.rows.map fun p => (p.2.1, p.2.2)
    match c.op with
    | .copyg dir _ _ _ _ _ => if dir then (r, []) else ([], r)
    | .copyx dir _ _ _ _ => if dir then (r, []) else ([], r)
    | _ => ([], [])
  else c.op.localBytes mem (clusterOf c.ctx)

/-- Whether byte ranges meet. -/
def rangesMeet (a b : List (Nat × Nat)) : Bool := a.any fun p => b.any fun q => decide (p.1 < q.1 + q.2) && decide (q.1 < p.1 + p.2)

def listsMeet (a b : List Nat) : Bool := a.any b.contains

/-- The local ranges of a context's stores that are not performed and were issued before number `id`. -/
def pendRanges (cluster id : Nat) : List Pend → List (Nat × Nat)
  | [] => []
  | .store i _ _ key bs _ :: ps =>
    if i < id ∧ spadKey cluster 0 ≤ key ∧ key < spadKey (cluster + 1) 0 then (key - spadKey cluster 0, bs.length) :: pendRanges cluster id ps
    else pendRanges cluster id ps
  | .fence _ _ _ :: ps => pendRanges cluster id ps

/-- R166: an M command waits for the stores that contexts of its core issued to its bytes before it, those that a killed context left
(log entry 106) among them. -/
def MCmd.waitsStores (s : State) (c : MCmd) : Bool :=
  s.ctxs.any fun p => coreOf p.1 == coreOf c.ctx &&
    rangesMeet (pendRanges (clusterOf c.ctx) c.id p.2.stores) (c.op.reads ++ c.op.writes)

/-- The local bytes that the fill in progress of a walk writes (R294). -/
def State.walkRange (s : State) (w : Walk) : List (Nat × Nat) :=
  if w.filling then
    w.landed.getLast?.toList.map fun l => ((s.bin (binKey (clusterOf w.ctx) l.bin)).base.toNat, (s.bin (binKey (clusterOf w.ctx) l.bin)).size.toNat)
  else []

/-- The landing places of a walk that it has still to fill as things stand: those of its free bins, unless it has ended, stopped or
paused (R294). -/
def State.walkPlaces (s : State) (w : Walk) : List (Nat × Nat) :=
  if w.reason.isSome || w.endAt.isSome then []
  else
    let cu := vget (s.ctx w.ctx).regs.w w.wc 0
    ((List.range cu.depth).filter fun i => (s.bin (binKey (clusterOf w.ctx) (cu.bin i))).state == 0).map fun i =>
      (cu.land + 256 * cu.z * i, 256 * cu.z)

/-- R161, R166: an M command waits for an earlier command of its core over tiles, scale registers or local bytes: for a walk's
fill in progress, and, before it writes, for the fills that a walk started before it has still to make (log entry 126). -/
def MCmd.waitsFor (s : State) (c : MCmd) : Bool :=
  (s.mcmds.any fun d => coreOf d.ctx == coreOf c.ctx && decide (d.id < c.id) &&
    (listsMeet c.op.tilesR d.op.tilesW || listsMeet c.op.tilesW (d.op.tilesR ++ d.op.tilesW) ||
      (d.ctx == c.ctx && listsMeet c.op.scales d.op.scales) ||
      rangesMeet c.op.reads d.op.writes || rangesMeet c.op.writes (d.op.reads ++ d.op.writes))) ||
  c.waitsStores s ||
  (s.walks.any fun w => coreOf w.ctx == coreOf c.ctx &&
    (rangesMeet (s.walkRange w) (c.op.reads ++ c.op.writes) || (decide (w.id < c.id) && rangesMeet (s.walkPlaces w) c.op.writes))) ||
  (s.ecmds.any fun d => coreOf d.ctx == coreOf c.ctx && decide (d.id < c.id) &&
    ((match d.op.tile with
      | none => false
      | some (t, w) => c.op.tilesW.contains t || (w && c.op.tilesR.contains t)) ||
      (let r := d.localBytes s.mem
       rangesMeet c.op.writes (r.1 ++ r.2))))

/-- R161, R166: an engine command waits for an earlier M command of its core, and over a tile for an earlier copy. -/
def ECmd.waitsFor (s : State) (c : ECmd) : Bool :=
  let r := c.localBytes s.mem
  let tile := c.op.tile
  (s.mcmds.any fun d => coreOf d.ctx == coreOf c.ctx && decide (d.id < c.id) &&
    (rangesMeet r.1 d.op.writes || rangesMeet r.2 (d.op.reads ++ d.op.writes) ||
      (match tile with
       | none => false
       | some (t, w) => d.op.tilesW.contains t || (w && d.op.tilesR.contains t)))) ||
  (s.ecmds.any fun d => coreOf d.ctx == coreOf c.ctx && decide (d.id < c.id) &&
    (match tile, d.op.tile with
     | some (t, w), some (u, w') => t == u && (w || w')
     | _, _ => false))

/-! ### Issuing M commands (R159, R160) -/

/-- The commands waiting in the queue of a unit of a core. -/
def State.mQueued (s : State) (core : Nat) (drain : Bool) : Nat :=
  (s.mcmds.filter fun c => coreOf c.ctx == core && c.op.drain == drain && c.stage == .queued).length

/-- R159: the room of a unit's queue. -/
def mRoom (s : State) (core : Nat) (op : MOp) : Bool :=
  decide (s.mQueued core op.drain < (if op.drain then Config.drainQueue else Config.arrayQueue))

/-- R160: a bundle with an M slot freezes while the core's M elastic buffer is occupied. -/
def bufferWait : Exec Unit := do
  let s ← get
  stopIf (s.mcmds.any fun c => coreOf c.ctx == coreOf s.cur && c.stage == .buffer) .freeze

/-- R160: issues an M command. In a repetition after the first, the producer that FEL names for its events is the body bundle that the
repetition issues with (R126, R170, log entry 96). A command that accesses the scratchpad comes after the context's earlier
accesses of class c0 (R231, R243). -/
def issueM (op : MOp) : Exec Unit := do
  bufferWait
  let s ← get
  let core := coreOf s.cur
  stopIf (op.touches && s.here.late 0) (.freezePast (.ofClass 0))
  let k := s.here
  let c : MCmd :=
    { id := s.next, ctx := s.cur, op := op, stage := if mRoom s core op then .queued else .buffer
      seq := k.sr.acyc.toNat, addr := k.pc.toNat, lvl := k.level, due := k.levelCyc + k.slackNow
      after := fencedIds k.stores [] ++ if op.touches then storeIds (some 0) k.stores ++ s.classCmds s.cur 0 else []
      live := true }
  set { s with mcmds := s.mcmds ++ [c], next := s.next + 1 }

/-- What an access of a class that an E command makes for the context comes after (R231, R239, R243): its stores and commands of the
class; it freezes over loads of the class that are on their way. -/
def accessBefore (cls : BitVec 4) : Exec (List Nat) := do
  let s ← get
  stopIf (s.here.late cls) (.freezePast (.ofClass cls))
  return storeIds (some cls) s.here.stores ++ s.classCmds s.cur cls

/-! ### Tokens and E commands (R52, R253, R255) -/

/-- A token reference found complete, or none (R256). -/
def State.tokDone (s : State) (t : Option Nat) : Bool :=
  match t with
  | none => true
  | some n =>
    match alGet s.toks n with
    | some ⟨_, none⟩ => false
    | _ => true

/-- The completion code of a token reference; 0 for none (R258). -/
def State.tokCode (s : State) (t : Option Nat) : Nat :=
  match t with
  | none => 0
  | some n =>
    match alGet s.toks n with
    | some ⟨_, some c⟩ => c
    | _ => 0

/-- The incomplete tokens of a context (R255). -/
def State.openTokens (s : State) (c : Nat) : Nat := (s.toks.filter fun p => p.2.owner == c && p.2.code.isNone).length

/-- A new token of the running context, kept in kKD when KD is not 0; the 65th incomplete one freezes (R52, R255). -/
def newToken (kd : BitVec 4) : Exec Nat := do
  let s ← get
  stopIf (decide (Config.maxTokens ≤ s.openTokens s.cur)) .freeze
  set { s with toks := alSet s.toks s.next ⟨s.cur, none⟩, next := s.next + 1 }
  exact (.k kd (some s.next)) 1
  return s.next

/-- The tokens that the consuming fields name (R52). -/
def consumed (ks : List (BitVec 4)) : Exec (List (Option Nat)) := do
  let k ← getHere
  return ks.map k.regs.rk

def usesOf (k : KE) : List (BitVec 4) := [k.ka, k.kb, k.kc]

/-- R253: issues an E command with the tokens it consumes and what else it comes after; the bundle freezes while the
core's E elastic buffer is occupied. Answers the token. -/
def issueE (kd : BitVec 4) (ks : List (Option Nat)) (eng : Engine) (op : EOp) (extra : List Nat) : Exec Nat := do
  let s0 ← get
  stopIf (s0.ecmds.any fun c => coreOf c.ctx == coreOf s0.cur && c.stage == .buffer) .freeze
  let t ← newToken kd
  modify fun s => s.addE t ks eng op extra
  return t

/-- A command that completes at once in the engine's eyes: its token completes with a code. -/
def finishNow (t code : Nat) : Exec Unit := modify fun s => s.finishTok t code

/-- R246, R276: an EY instruction blocks until the tokens it consumes have completed. -/
def awaitTokens (ks : List (BitVec 4)) : Exec Unit := do
  let ts ← consumed ks
  let s ← get
  stopIf (!ts.all s.tokDone) .block

/-- A quad register (R51); the E slot's fields never name a FIFO (R363). -/
def readQuad (q : BitVec 3) (i : Nat) : Exec Reg := readY (quad q i)

/-- A quad register an instruction uses: poison raises POISON_CONSUMED (R340). -/
def needQuad (q : BitVec 3) (i : Nat) : Exec W64 := do
  let r ← readQuad q i
  raiseIf r.poison 8 .E (poisonInfo .y (quad q i))
  return r.val

/-- A bit of a condition as a predicate (R246, R258). -/
def putHit (pd : BitVec 4) (hit : Bool) (lat : Nat) : Exec Unit := exactExt (.p pd (BitVec.allOnes 64) (allOnes hit)) lat

/-! ### Commands by id -/

def State.findM (s : State) (id : Nat) : Option MCmd := s.mcmds.find? fun c => c.id == id

def State.findE (s : State) (id : Nat) : Option ECmd := s.ecmds.find? fun c => c.id == id

def State.putM (s : State) (c : MCmd) : State := { s with mcmds := s.mcmds.map fun d => if d.id == c.id then c else d }

def State.putE (s : State) (c : ECmd) : State := { s with ecmds := s.ecmds.map fun d => if d.id == c.id then c else d }

def State.dropM (s : State) (c : MCmd) : State :=
  { s with mcmds := s.mcmds.filter fun d => d.id != c.id }.cmdDone c.ctx c.id

/-- An E command is done: it leaves its engine and its token completes (R256). -/
def State.dropE (s : State) (c : ECmd) (code : Nat) : State :=
  ({ s with ecmds := s.ecmds.filter fun d => d.id != c.id }.cmdDone c.ctx c.id).finishTok c.tok code

end Sys2Proof.Machine
end

