-- ==== Sys2Proof/Machine/Matrix.lean ====
section
/-!
DEFINITION. The matrix engine (R156 to R178): operand checks, the M slot's instructions, and what each command does when
it completes. Tiles are kept under one key per element: core, tile, row, column.
-/

namespace Sys2Proof.Machine

/-! ### Tiles and scratchpad operands -/

/-- The key of element (0, 0) of a tile of a core (R156); rows and columns follow it in row-major order. -/
def tileKey (core t : Nat) : Nat := core * 2 ^ 17 + t * 4096

abbrev Tile := Vector W32 4096

def State.readTile (s : State) (core t : Nat) : Tile :=
  let cs := (readCells s.tiles (tileKey core t) 4096).toArray
  Vector.ofFn fun i : Fin 4096 => (cs[i.val]?).getD 0

def State.writeTile (s : State) (core t : Nat) (v : Tile) : State :=
  { s with tiles := writeCells s.tiles (tileKey core t) v.toList }

def Tile.at (v : Tile) (r c : Nat) : W32 := vget v (64 * r + c) 0

/-- The bytes of an operand's image, stripe by stripe (R162). -/
def Opnd.gather (o : Opnd) (mem : List Host.Cell) (cluster n : Nat) : List Byte :=
  ((o.stripes n).flatMap fun a => readCells mem (spadKey cluster a) 256).take n

/-- Writes an image to an operand's stripes (R162). -/
def putStripes (mem : List Host.Cell) (cluster : Nat) : List Nat → List Byte → List Host.Cell
  | [], _ => mem
  | a :: as, bs => putStripes (writeCells mem (spadKey cluster a) (bs.take 256)) cluster as (bs.drop 256)

def Opnd.scatter (o : Opnd) (mem : List Host.Cell) (cluster : Nat) (bs : List Byte) : List Host.Cell :=
  putStripes mem cluster (o.stripes bs.length) bs

/-- The operand a y register describes (R162). -/
def opndOf (y : W64) : Opnd := ⟨bits y.toNat 0 23, if bits y.toNat 32 16 = 0 then 1 else bits y.toNat 32 16⟩

/-- The bank group of a local address (R162). -/
def bankGroup (a : Nat) : Nat := a / 0x180000

/-- EINFO of BANK_CONFLICT (R333). -/
def conflictInfo (b : Bool) (o : Opnd) : Nat := b.toNat * 2 ^ 63 + o.base

/-- The checks of R163 on one operand; `b` marks operand B. Of several stripes outside the allotment EINFO names the first (log entry
98). -/
def checkOperand (b : Bool) (o : Opnd) (n : Nat) : Exec Unit := do
  raiseIf (o.base % 256 != 0) 6 .M o.base
  let k ← getHere
  match (o.stripes n).find? fun a => !k.allots a 256 with
  | some a => raise 5 .M (a % 2 ^ 52)
  | none => pure ()
  raiseIf (o.pitch % 8 != 1) 9 .M (conflictInfo b o)
  raiseIf ((o.stripes n).any fun a => bankGroup a != bankGroup o.base) 9 .M (conflictInfo b o)

/-- R157: a tile outside the allotment raises PRIVILEGE. -/
def checkTile (t : BitVec 5) : Exec Unit := do raiseIf (!(← getHere).hasTile t.toNat) 5 .M 0

/-! ### Tile products (R169, R172, R178) -/

/-- The duplication map in force behind the commands already queued (R159, R172). -/
def State.dupBehind (s : State) (c : Nat) : Vector (Option (BitVec 6)) 64 :=
  (s.mcmds.filter fun m => m.ctx == c && m.live).foldl (fun d m =>
    match m.op with
    | .mdmap k v => vset d k (some v)
    | .mdclr => Vector.replicate 64 none
    | _ => d) (s.ctx c).dup

/-- The sign slot in force behind the commands already queued (R159, R171). -/
def State.signBehind (s : State) (c k : Nat) : W64 :=
  (s.mcmds.filter fun m => m.ctx == c && m.live).foldl (fun v m =>
    match m.op with
    | .mhld j w => if j = k then w else v
    | _ => v) (vget (s.ctx c).sign k 0)

/-- R161: waits for the scale registers a product reads. -/
def scalesWait (p : Nat) : Exec Unit := do
  scaleWait (2 * p)
  scaleWait (2 * p + 8)
  scaleWait (2 * p + 1)
  scaleWait (2 * p + 9)

def issueMma (zero : Bool) (ac a b : BitVec 5) (fmt : Fmt) (ca dm : Bool) (sp : BitVec 3) : Exec Unit := do
  let ya ← readYV .M a
  let yb ← readYV .M b
  let oa := opndOf ya
  let ob := opndOf yb
  checkOperand false oa (imageBytes fmt ca)
  checkOperand true ob (imageBytes fmt false)
  raiseIf (bankGroup oa.base == bankGroup ob.base) 9 .M (conflictInfo true ob)
  checkTile ac
  if fmt.isMx then scalesWait sp.toNat
  let s ← get
  let r := s.here.regs
  let p := sp.toNat
  let sc (i : Nat) : Lanes := if fmt.isMx then vget r.sc i Lanes.zero else Lanes.zero
  issueM (.mma zero fmt ca (if dm then some (s.dupBehind s.cur) else none) ac.toNat oa ob
    (sc (2 * p)) (sc (2 * p + 8)) (sc (2 * p + 1)) (sc (2 * p + 9)))

def execMma (g : Guard) (ac a b : BitVec 5) (fmt : Fmt) (ca dm : Bool) (sp : BitVec 3) (s : State) :=
  runSlot g (issueMma false ac a b fmt ca dm sp) s

/-- R178: a repeated mmaz zeros the tile in repetition 0 alone. -/
def Ctx.firstRep (k : Ctx) : Bool :=
  match k.rep with
  | none => true
  | some r => r.r == 0

def execMmaz (g : Guard) (ac a b : BitVec 5) (fmt : Fmt) (ca dm : Bool) (sp : BitVec 3) (s : State) :=
  runSlot g (issueMma s.here.firstRep ac a b fmt ca dm sp) s

/-- The first code of R127 that applies, of two results that make one. -/
def firstCode (a b : Nat) : Nat := if a = 0 then b else if b = 0 then a else min a b

/-- A rounded FP32 sum or product of results, with the first event of all steps so far (R124, R127). -/
def addStep (a b : Rounded) : Rounded :=
  let r := addNE a.1 b.1
  (r.1, firstCode r.2 (firstCode a.2 b.2))

def mulStep (a : Rounded) (b : Nat) : Rounded :=
  let r := mulNE a.1 b
  (r.1, firstCode r.2 a.2)

/-- R124 for a floating format: the rounded products of one block and their balanced tree. -/
def blockFloat (x y : Nat → Nat) : Rounded :=
  ((tree addStep 5 ((List.range 32).map fun k => mulNE (x k) (y k)))[0]?).getD (0, 0)

/-- R124 for an integer format: the exact sum of the products of one block. -/
def blockInt (x y : Nat → Int) : Int := (List.range 32).foldl (fun acc k => acc + x k * y k) 0

/-- One accumulator element after one block (R124). `a` and `b` give the codes of the two operands at K index k. -/
def accumulate (f : Fmt) (a b : Nat → Nat) (sa sb : W32) (acc : Rounded) : Rounded :=
  if f = .int8 then
    (wrapTo 32 (signedOf 32 acc.1 + blockInt (fun k => signedOf 8 (a k)) (fun k => signedOf 8 (b k))), 0)
  else
    let s : Rounded :=
      if f.isFloat then blockFloat (fun k => toFp32 f (a k)) (fun k => toFp32 f (b k))
      else ((roundNE true (numOfInt (blockInt (fun k => signedOf f.width (a k)) (fun k => signedOf f.width (b k))))).1, 0)
    let t := if f.isMx then mulStep (mulStep s sa.toNat) sb.toNat else s
    addStep acc t

/-- An image as one number: element (r, c) of width n is its bits from n(64r + c) (R115, R164). -/
def elemOf (img n r c : Nat) : Nat := bits img (n * (64 * r + c)) n

/-- A tile product (R124, R169). -/
def product (f : Fmt) (map : Option (Vector (Option (BitVec 6)) 64)) (a b : Nat) (sa0 sa1 sb0 sb1 : Lanes) (zero : Bool) (old : Tile) :
    Vector Rounded 4096 :=
  let src (k : Nat) : Nat :=
    match map with
    | none => k
    | some m => match vget m k none with
      | none => k
      | some j => j.toNat
  Vector.ofFn fun e : Fin 4096 =>
    let i := e.val / 64
    let j := e.val % 64
    let acc : Rounded := (if zero then 0 else (vget old e.val 0).toNat, 0)
    let x (k : Nat) := elemOf a f.width i k
    let y (k : Nat) := elemOf b f.width j (src k)
    let acc1 := accumulate f x y (lane sa0 i) (lane sb0 j) acc
    accumulate f (fun k => x (32 + k)) (fun k => y (32 + k)) (lane sa1 i) (lane sb1 j) acc1

/-- The new tile and the event of the lowest row, then the lowest column (R170). -/
def tileOf (v : Vector Rounded 4096) : Tile := v.map fun r => BitVec.ofNat 32 r.1

def firstOf (v : Vector Rounded 4096) : Option (Nat × Nat) :=
  match (List.range 4096).find? fun e => (vget v e (0, 0)).2 != 0 with
  | none => none
  | some e => some (e / 64, (vget v e (0, 0)).2)

/-! ### Outliers (R171, R172) -/

def execMrot (g : Guard) (ac : BitVec 5) (k : BitVec 6) (s : State) :=
  runSlot g (do
    checkTile ac
    let s ← get
    issueM (.mrot ac.toNat (s.signBehind s.cur k.toNat))) s

def execMhld (g : Guard) (y : BitVec 5) (k : BitVec 6) (s : State) :=
  runSlot g (do issueM (.mhld k.toNat (← readYV .M y))) s

def execMdmap (g : Guard) (y : BitVec 5) (k : BitVec 6) (s : State) :=
  runSlot g (do issueM (.mdmap k.toNat ((← readYV .M y).setWidth 6))) s

def execMdclr (g : Guard) (s : State) := runSlot g (issueM .mdclr) s

/-- The parity of the bits of a number below 64 (R171). -/
def parity6 (n : Nat) : Bool := ((List.range 6).filter fun i => bitAt n i).length % 2 == 1

/-- mrot's element (i, j) (R172). -/
def rotate (old : Tile) (slot : W64) (i j : Nat) : Rounded :=
  let t (n : Nat) : Rounded :=
    let v := (vget old (64 * i + n) 0).toNat
    (if xor (slot.getLsbD n) (parity6 (n &&& j)) then v ^^^ 0x80000000 else v, 0)
  mulStep (((tree addStep 6 ((List.range 64).map t))[0]?).getD (0, 0)) 0x3E000000

def rotated (old : Tile) (slot : W64) : Vector Rounded 4096 := Vector.ofFn fun e : Fin 4096 => rotate old slot (e.val / 64) (e.val % 64)

/-! ### The drain converter (R173, R174)

R163 orders the checks of mma and mmaz; mdrain, mldac and mstac make theirs in the same order, the operand before the tile (log
entry 99). -/

def execMdrain (g : Guard) (ac y : BitVec 5) (fmt : Fmt) (sc : BitVec 4) (cmp : Bool) (rnd : BitVec 3) (s : State) :=
  runSlot g (do
    let o := opndOf (← readYV .M y)
    checkOperand false o (imageBytes fmt cmp)
    checkTile ac
    issueM (.mdrain ac.toNat o fmt sc.toNat cmp rnd)) s

/-- The largest element magnitude of an MX format (R174). -/
def emax : Fmt → Nat
  | .mxfp4 => 6
  | .mxint4 => 7
  | .mxint6 => 31
  | .mxint8 => 127
  | .int8 | .int16 | .int32 | .int64 | .fp32 | .bf16 | .e4m3 | .e5m2 => 0

/-- R174: the scale of a block whose largest magnitude has the FP32 code `m`. -/
def drainScale (f : Fmt) (m : Nat) : Nat :=
  if 0x7F800000 < m then 0x7FC00000
  else if m = 0 then 0x3F800000
  else
    let k : Int :=
      match fp32 m with
      | .fin _ a e =>
        let k0 : Int := (Nat.log2 a : Int) + e - (Nat.log2 (emax f) : Int)
        if decide (signedAt false a e (min e k0) ≤ signedAt false (emax f) k0 (min e k0)) then k0 else k0 + 1
      | _ => 127
    ((max (-126) (min 127 k) + 127).toNat) * 2 ^ 23

/-- The largest magnitude of block b of row i as an FP32 code, a NaN above all (R174). -/
def blockMax (t : Tile) (i b : Nat) : Nat :=
  (List.range 32).foldl (fun m k => max m ((vget t (64 * i + 32 * b + k) 0).toNat % 2 ^ 31)) 0

/-- One drained element: its code in the format and its event (R173). `s` is the block's scale. -/
def drainElem (f : Fmt) (rnd s v : Nat) : Rounded :=
  match f with
  | .int32 | .int64 => (v, 0)
  | .int8 | .int16 =>
    let c := clampInt f.width (signedOf 32 v)
    (c.1, if c.2 then 5 else 0)
  | .fp32 => (canon .fp32 v, 0)
  | .bf16 | .e4m3 | .e5m2 => roundFmt f rnd false (fp32 v)
  | .mxfp4 | .mxint4 | .mxint6 | .mxint8 =>
    if 0x7F800000 < s then (0, 0)
    else
      let q := (fp32 v).div (fp32 s)
      if f = .mxfp4 then roundFmt f rnd false q else toIntCode f.width rnd q

/-- R165: whether an element's encoding is a zero. -/
def zeroCode (f : Fmt) (c : Nat) : Bool := if f.isFloat then c % f.signBit == 0 else c % 2 ^ f.width == 0

/-- A block record of a compressed image (R165). -/
def record (f : Fmt) (cs : List Nat) : List Byte :=
  let nz := cs.filter fun c => !zeroCode f c
  let bitmap := cs.foldr (fun c acc => (!zeroCode f c).toNat + 2 * acc) 0
  leBytes 4 bitmap ++ leBytes ((f.width * nz.length + 31) / 32 * 4) (packBits f.width nz).1

def records (f : Fmt) (code : Nat → Nat) : List Byte :=
  (List.range 128).flatMap fun b => record f ((List.range 32).map fun k => code (32 * b + k))

/-- The image a drain writes (R164, R165, R173), from the codes in row-major order. -/
def drainImage (f : Fmt) (cmp : Bool) (code : Nat → Nat) : List Byte :=
  if cmp then
    let r := records f code
    r ++ List.replicate (imageBytes f true - r.length) 0
  else packBytes f.width ((List.range 4096).map code)

/-- The scales of one block column, lane i for row i (R174). -/
def drainScales (f : Fmt) (t : Tile) (b : Nat) : Lanes := Vector.ofFn fun i : Fin 64 => BitVec.ofNat 32 (drainScale f (blockMax t i.val b))

def drained (f : Fmt) (rnd : Nat) (t : Tile) (s0 s1 : Lanes) : Vector Rounded 4096 :=
  Vector.ofFn fun e : Fin 4096 =>
    drainElem f rnd (lane (if e.val % 64 < 32 then s0 else s1) (e.val / 64)).toNat (vget t e.val 0).toNat

/-! ### Moving tiles (R175) -/

def execMzero (g : Guard) (ac : BitVec 5) (s : State) := runSlot g (do checkTile ac; issueM (.mzero ac.toNat)) s

def execMcopy (g : Guard) (ac src : BitVec 5) (t : Bool) (s : State) :=
  runSlot g (do
    checkTile ac
    checkTile src
    issueM (.mcopy ac.toNat src.toNat t)) s

def execMldac (g : Guard) (ac y : BitVec 5) (s : State) :=
  runSlot g (do
    let o := opndOf (← readYV .M y)
    checkOperand false o 16384
    checkTile ac
    issueM (.mldac ac.toNat o)) s

def execMstac (g : Guard) (ac y : BitVec 5) (s : State) :=
  runSlot g (do
    let o := opndOf (← readYV .M y)
    checkOperand false o 16384
    checkTile ac
    issueM (.mstac ac.toNat o)) s

/-- The row of macv and mvac (R175). -/
def rowOf (y : BitVec 5) (row : BitVec 6) : Exec Nat := do
  if y = 0 then return row.toNat
  return (bits (← readYV .M y).toNat 0 6 + row.toNat) % 64

/-- R161: whether a command of the core still writes a tile. -/
def State.writeBusy (s : State) (core t : Nat) : Bool :=
  (s.mcmds.any fun c => coreOf c.ctx == core && c.op.tilesW.contains t) ||
  (s.ecmds.any fun c => coreOf c.ctx == core && c.op.tile == some (t, true))

def execMacv (g : Guard) (ac y v : BitVec 5) (row : BitVec 6) (s : State) :=
  runSlot g (do
    let r ← rowOf y row
    checkTile ac
    bufferWait
    let s ← get
    let core := coreOf s.cur
    stopIf (s.writeBusy core ac.toNat) .freeze
    let cs := (readCells s.tiles (tileKey core ac.toNat + 64 * r) 64).toArray
    exact (.v v (BitVec.allOnes 64) (Vector.ofFn fun i : Fin 64 => (cs[i.val]?).getD 0)) 1) s

def execMvac (g : Guard) (ac y v : BitVec 5) (row : BitVec 6) (s : State) :=
  runSlot g (do
    let r ← rowOf y row
    checkTile ac
    issueM (.mvac ac.toNat r (← readV v))) s

/-! ### Completion -/

/-- An event of a command is recorded (R128, R170). -/
def Ctx.record (k : Ctx) (e : FelEvent) : Ctx :=
  { k with sr := { k.sr with fel := felMerge k.sr.fel e, felNew := felMerge k.sr.felNew e, felSince := felMerge k.sr.felSince e } }

/-- R170: the event of a command whose context has not been killed. -/
def State.mEvent (s : State) (c : MCmd) (e : Option (Nat × Nat)) : State :=
  match e with
  | none => s
  | some (row, code) => if c.live then s.setCtx c.ctx ((s.ctx c.ctx).record ⟨c.seq, 4, row, code, c.addr⟩) else s

/-- Changes what a command's context holds, unless the context has been killed (R330). -/
def State.mCtx (s : State) (c : MCmd) (f : Ctx → Ctx) : State := if c.live then s.setCtx c.ctx (f (s.ctx c.ctx)) else s

def mmaEffect (s : State) (c : MCmd) (z : Bool) (f : Fmt) (ca : Bool) (map : Option (Vector (Option (BitVec 6)) 64)) (ac : Nat) (a b : Opnd)
    (sa0 sa1 sb0 sb1 : Lanes) : State :=
  let cl := clusterOf c.ctx
  let core := coreOf c.ctx
  let ia := a.gather s.mem cl (imageBytes f ca)
  let img := if ca then (packBits f.width (expandImage ia f.width 128 0)).1 else leNat ia
  let v := product f map img (leNat (b.gather s.mem cl (imageBytes f false))) sa0 sa1 sb0 sb1 z (s.readTile core ac)
  (s.writeTile core ac (tileOf v)).mEvent c (firstOf v)

def mrotEffect (s : State) (c : MCmd) (ac : Nat) (slot : W64) : State :=
  let core := coreOf c.ctx
  let v := rotated (s.readTile core ac) slot
  (s.writeTile core ac (tileOf v)).mEvent c (firstOf v)

def mdrainEffect (s : State) (c : MCmd) (ac : Nat) (o : Opnd) (f : Fmt) (sc : Nat) (cmp : Bool) (rnd : BitVec 3) : State :=
  let t := s.readTile (coreOf c.ctx) ac
  let s0 := if f.isMx then drainScales f t 0 else Lanes.zero
  let s1 := if f.isMx then drainScales f t 1 else Lanes.zero
  let v := drained f rnd.toNat t s0 s1
  let bs := drainImage f cmp fun e => (vget v e (0, 0)).1
  let s1' := { s with mem := o.scatter s.mem (clusterOf c.ctx) bs }
  let s2 := if f.isMx then s1'.mCtx c fun k => { k with regs := { k.regs with sc := vset (vset k.regs.sc sc s0) (sc + 8) s1 } } else s1'
  s2.mEvent c (firstOf v)

/-- A tile image in memory (R175): element (i, j) at byte 256i + 4j. -/
def tileBytes (t : Tile) : List Byte := t.toList.flatMap fun w => leBytes 4 w.toNat

def wordsOf : Nat → List Byte → List W32
  | 0, _ => []
  | n + 1, bs => BitVec.ofNat 32 (leNat (bs.take 4)) :: wordsOf n (bs.drop 4)

def tileFrom (ws : List W32) : Tile :=
  let a := ws.toArray
  Vector.ofFn fun i : Fin 4096 => (a[i.val]?).getD 0

def transposed (t : Tile) : Tile := Vector.ofFn fun e : Fin 4096 => vget t (64 * (e.val % 64) + e.val / 64) 0

def mcopyEffect (s : State) (c : MCmd) (ac src : Nat) (tr : Bool) : State :=
  let core := coreOf c.ctx
  let t := s.readTile core src
  s.writeTile core ac (if tr then transposed t else t)

def mldacEffect (s : State) (c : MCmd) (ac : Nat) (o : Opnd) : State :=
  s.writeTile (coreOf c.ctx) ac (tileFrom (wordsOf 4096 (o.gather s.mem (clusterOf c.ctx) 16384)))

def mstacEffect (s : State) (c : MCmd) (ac : Nat) (o : Opnd) : State :=
  { s with mem := o.scatter s.mem (clusterOf c.ctx) (tileBytes (s.readTile (coreOf c.ctx) ac)) }

def mvacEffect (s : State) (c : MCmd) (ac row : Nat) (v : Lanes) : State :=
  { s with tiles := writeCells s.tiles (tileKey (coreOf c.ctx) ac + 64 * row) v.toList }

end Sys2Proof.Machine
end

