-- ==== Sys2Proof/Machine/Chain.lean ====
section
/-!
DEFINITION. Chain cores (R305), boundary contraction and reordering (R307 to R315), and the
steps of the matrix engine: a command enters its queue, starts, and completes (R159 to R161, R166).
-/

namespace Sys2Proof.Machine

/-! ### Chain cores (R305) -/

/-- The core record as bytes 64 to 95 of a sheaf's header hold it: FMT, PAYLOAD_BYTES, LBOND, MODE, RBOND, and whether
bytes 86 to 95 are zero. -/
structure CoreRec where
  fmt : Nat
  payload : Nat
  lb : Nat
  md : Nat
  rb : Nat
  zero : Bool
  deriving DecidableEq, Repr

def coreRec (h : List Byte) : CoreRec :=
  let at_ (i n : Nat) : Nat := leNat ((h.drop i).take n)
  ⟨at_ 4 4 % 16, at_ 8 4, at_ 16 2, at_ 18 2, at_ 20 2, at_ 22 10 == 0⟩

/-- R305: the bytes of an element of a core. -/
def coreWidth (fmt : Nat) : Nat := if fmt = 0 then 1 else 2

/-- R305: a core is well formed. -/
def CoreRec.ok (c : CoreRec) : Bool :=
  (c.fmt == 0 || c.fmt == 5) && decide (1 ≤ c.lb ∧ c.lb ≤ 64) && decide (1 ≤ c.md ∧ c.md ≤ 4096) && decide (1 ≤ c.rb ∧ c.rb ≤ 64) &&
  c.zero && decide (coreWidth c.fmt * c.lb * c.md * c.rb ≤ c.payload)

/-! ### Boundaries and step records (R307, R308, R310) -/

def bRows (b : W64) : Nat := bits b.toNat 32 16
def bSide (b : W64) : Nat := bits b.toNat 24 1
def bCap (b : W64) : Nat := bits b.toNat 16 5
def bBond (b : W64) : Nat := bits b.toNat 0 7

/-- A bond register's value (R307). -/
def bWord (rows side cap bond : Nat) : W64 := BitVec.ofNat 64 (rows * 2 ^ 32 + side * 2 ^ 24 + cap * 2 ^ 16 + bond)

def recM (r : W64) : Nat := bits r.toNat 0 16
def recN (r : W64) : Nat := bits r.toNat 16 16
def recS (r : W64) : Nat := bits r.toNat 32 16

/-- The step record at yY: the checks on the operand, then its bytes as an access of class c0 (R311). -/
def recordAddr (y : BitVec 5) : Exec Nat := do
  let a := (← readYV .M y).toNat
  checkLocal .M a 8 8
  return a

def readRecord (a : Nat) : Exec W64 := do return BitVec.ofNat 64 (leNat (← loadLocal 0 a 8))

/-- R310, R311, R315: whether a record serves mcon (OP = 0) or mord (OP = 1). -/
def recordOk (r : W64) (op : Nat) : Bool :=
  bits r.toNat 57 7 == 0 && bits r.toNat 48 8 == op && decide (1 ≤ recN r ∧ recN r ≤ 4096) && decide (1 ≤ recS r) &&
  (if op = 0 then decide (1 ≤ recM r ∧ recM r ≤ 4096) else recM r == 0)

/-- R307, R311: a bond register that keeps its limits, with its tiles in the allotment. -/
def boundaryOk (k : Ctx) (t : Nat) (b : W64) : Bool :=
  decide (1 ≤ bCap b ∧ bCap b ≤ 16) && decide (1 ≤ bRows b ∧ bRows b ≤ 64 * bCap b) && decide (1 ≤ bBond b ∧ bBond b ≤ 64) &&
  decide (k.acb ≤ t) && decide (t + 2 * bCap b ≤ k.acb + k.acn)

/-! ### Issue (R311, R313, R315) -/

/-- A count of tiles that EINFO's 16 bits cannot hold is held modulo 2^16 (R313, log entry 120). -/
def execMcon (g : Guard) (ac : BitVec 5) (wc bd : BitVec 3) (y : BitVec 5) (fmt : Fmt) (s : State) :=
  runSlot g (do
    let a ← recordAddr y
    let k ← getHere
    let w := k.regs.rw wc
    let bin := (← get).bin (binKey (clusterOf (← get).cur) (w.bin (w.next + w.depth - 1)))
    raiseIf (!(w.state == 2 && bin.state == 3 && bin.tenant == some k.sr.tenant)) 5 .M 0
    let r ← readRecord a
    raiseIf (!recordOk r 0) 5 .M 0
    let b := k.regs.rb bd
    raiseIf (!boundaryOk k ac.toNat b) 5 .M 0
    let c := coreRec (← loadLocal 0 (bin.base.toNat + 64) 32)
    let dir := r.getLsbD 56
    raiseIf (!(c.ok && c.fmt == fmt.code && c.md == recM r * recN r && (if dir then c.rb else c.lb) == bBond b)) 5 .M 0
    raiseIf (bRows b % (recN r * recS r) != 0) 5 .M 0
    let rows := bRows b / recN r * recM r
    raiseIf (decide (64 * bCap b < rows)) 10 .M ((rows + 63) / 64 % 2 ^ 16)
    let new := bWord rows (1 - bSide b) (bCap b) (if dir then c.lb else c.rb)
    exact (.b bd new) 1
    issueM (.mcon fmt ac.toNat r dir b new c.lb c.md c.rb (bin.base.toNat + 128))) s

def execMord (g : Guard) (ac : BitVec 5) (bd : BitVec 3) (y : BitVec 5) (s : State) :=
  runSlot g (do
    let r ← readRecord (← recordAddr y)
    raiseIf (!recordOk r 1) 5 .M 0
    let k ← getHere
    let b := k.regs.rb bd
    raiseIf (!boundaryOk k ac.toNat b) 5 .M 0
    raiseIf (bRows b % (recN r * recS r) != 0) 5 .M 0
    exact (.b bd (bWord (bRows b) (1 - bSide b) (bCap b) (bBond b))) 1
    issueM (.mord ac.toNat r b)) s

/-! ### Completion (R312, R315) -/

/-- The tiles of a boundary's side (R308). -/
def sideTiles (s : State) (core t : Nat) (b : W64) (side : Nat) : List Tile :=
  (List.range (bCap b)).map fun i => s.readTile core (t + side * bCap b + i)

/-- Element (r, c) of a boundary (R308). -/
def bElem (ts : List Tile) (r c : Nat) : W32 :=
  match ts[r / 64]? with
  | none => 0
  | some t => t.at (r % 64) c

/-- The exact sum of mcon's element (r, c') (R312): the terms in order of j and c. `g` is the core as one number. -/
def contract (f : Fmt) (dir : Bool) (n m sf bond md rb : Nat) (src : List Tile) (g r c' : Nat) : Rounded :=
  let s := r % sf
  let o := r / sf % m
  let q := r / (sf * m)
  let w := f.width
  let terms := (List.range n).flatMap fun j => (List.range bond).map fun c =>
    let al := if dir then c' else c
    let be := if dir then c else c'
    ((bElem src ((q * n + j) * sf + s) c).toNat, bits g (w * ((al * md + (o * n + j)) * rb + be)) w)
  if f = .int8 then
    (wrapTo 32 (terms.foldl (fun acc p => acc + signedOf 32 p.1 * signedOf 8 p.2) (0 : Int)), 0)
  else terms.foldl (fun acc p => addStep acc (mulNE p.1 (toFp32 f p.2))) (0, 0)

/-- Writes the tiles of a boundary's side, every element beyond the boundary zero, and answers the first event. -/
def writeSide (s : State) (core t rows cols : Nat) (val : Nat → Nat → Rounded) : List Nat → State × Option (Nat × Nat)
  | [] => (s, none)
  | i :: is =>
    let v : Vector Rounded 4096 := Vector.ofFn fun e : Fin 4096 =>
      let r := 64 * i + e.val / 64
      if r < rows ∧ e.val % 64 < cols then val r (e.val % 64) else (0, 0)
    let r := writeSide (s.writeTile core (t + i) (tileOf v)) core t rows cols val is
    (r.1, (firstOf v).orElse fun _ => r.2)

def mconEffect (s : State) (c : MCmd) (f : Fmt) (ac : Nat) (rec : W64) (dir : Bool) (old new : W64) (lb md rb payload : Nat) : State :=
  let core := coreOf c.ctx
  let src := sideTiles s core ac old (bSide old)
  let g := leNat (readCells s.mem (spadKey (clusterOf c.ctx) payload) (coreWidth f.code * lb * md * rb))
  let r := writeSide s core (ac + bSide new * bCap old) (bRows new) (bBond new)
    (contract f dir (recN rec) (recM rec) (recS rec) (bBond old) md rb src g) (List.range (bCap old))
  r.1.mEvent c r.2

def mordEffect (s : State) (c : MCmd) (ac : Nat) (rec old : W64) : State :=
  let core := coreOf c.ctx
  let src := sideTiles s core ac old (bSide old)
  let n := recN rec
  let sf := recS rec
  (writeSide s core (ac + (1 - bSide old) * bCap old) (bRows old) (bBond old)
    (fun r col => ((bElem src ((r / (n * sf) * n + r % n) * sf + r / n % sf) col).toNat, 0)) (List.range (bCap old))).1

/-- What a command does when it completes. -/
def State.mEffect (s : State) (c : MCmd) : State :=
  match c.op with
  | .mma z f ca map ac a b sa0 sa1 sb0 sb1 => mmaEffect s c z f ca map ac a b sa0 sa1 sb0 sb1
  | .mrot ac slot => mrotEffect s c ac slot
  | .mhld k v => s.mCtx c fun x => { x with sign := vset x.sign k v }
  | .mdmap k v => s.mCtx c fun x => { x with dup := vset x.dup k (some v) }
  | .mdclr => s.mCtx c fun x => { x with dup := Vector.replicate 64 none }
  | .mcon f ac rec dir old new lb md rb payload => mconEffect s c f ac rec dir old new lb md rb payload
  | .mord ac rec old => mordEffect s c ac rec old
  | .mdrain ac o f sc cmp rnd => mdrainEffect s c ac o f sc cmp rnd
  | .mzero ac => s.writeTile (coreOf c.ctx) ac (Vector.replicate 4096 0)
  | .mcopy ac src t => mcopyEffect s c ac src t
  | .mldac ac o => mldacEffect s c ac o
  | .mstac ac o => mstacEffect s c ac o
  | .mvac ac row v => mvacEffect s c ac row v

/-! ### The steps of the engine -/

/-- R160: a command in the elastic buffer enters its unit's queue once that has room. -/
def State.enterM (s : State) (id : Nat) : Option State := do
  let c ← s.findM id
  if c.stage = .buffer ∧ mRoom s (coreOf c.ctx) c.op = true then some (s.putM { c with stage := .queued }) else none

/-- Whether a command may start: the oldest of its unit's queue while the unit is idle (R159), after the fences and stores
it comes after (R235, R243), and once nothing earlier holds its tiles, scale registers or bytes (R161, R166). -/
def State.mReady (s : State) (c : MCmd) : Bool :=
  c.stage == .queued &&
  !(s.mcmds.any fun d => coreOf d.ctx == coreOf c.ctx && d.op.drain == c.op.drain &&
    (d.stage == .started || (d.stage == .queued && decide (d.id < c.id)))) &&
  s.allDone c.ctx c.after && !c.waitsFor s

def State.startM (s : State) (id : Nat) : Option State := do
  let c ← s.findM id
  if s.mReady c then some (s.putM { c with stage := .started }) else none

/-- A command completes. The accesses of one context's commands are of class c0, and so performed in program order: a command that
accesses the scratchpad completes after the context's earlier ones that do (R231, R243). -/
def State.completeM (s : State) (id : Nat) : Option State := do
  let c ← s.findM id
  if c.stage = .started ∧ !(c.op.touches && s.mcmds.any fun d => d.ctx == c.ctx && decide (d.id < c.id) && d.op.touches) then
    some ((s.mEffect c).dropM c)
  else none

def execMQueueEntry (id : Nat) (s : State) : Host.Outcome State Fault Refusal := event "M command enters its queue" (s.enterM id)
def execMCommandStart (id : Nat) (s : State) : Host.Outcome State Fault Refusal := event "M command starts" (s.startM id)
def execMCommandComplete (id : Nat) (s : State) : Host.Outcome State Fault Refusal := event "M command completes" (s.completeM id)

end Sys2Proof.Machine
end

