-- ==== Sys2Proof/Machine/Copy.lean ====
section
/-!
DEFINITION. The copy engine and the bank engines (R260 to R270, R283, R284), with the issue of xfer, which shares their
checks (R381): checks at issue, operands read at start, and the effect of a completed command.
-/

namespace Sys2Proof.Machine

/-! ### Checks at issue (R266) -/

/-- The control word's fields (R265). -/
def ctlBin (v : W64) : Bool := v.getLsbD 63
def ctlBinNo (v : W64) : Nat := bits v.toNat 48 8
def ctlFmt (v : W64) : Nat := bits v.toNat 8 4
def ctlFull (v : W64) : Bool := v.getLsbD 1
def ctlExp (v : W64) : Bool := v.getLsbD 0

/-- The element width of a control word's EFMT; 0 for a code that names no format. -/
def ctlWidth (v : W64) : Nat :=
  match Fmt.ofCode (ctlFmt v) with
  | none => 0
  | some f => f.width

/-- R264: the local word's fields. -/
def lwKind (v : W64) : Nat := bits v.toNat 62 2
def lwAddr (v : W64) : Nat := bits v.toNat 0 23

/-- R266 rows 2 and 3: the handle is valid and grants what the direction needs. -/
def checkPage (hn : BitVec 4) (h : Handle) (dir : Bool) (info : Nat) : Exec Unit := do
  raiseIf (!h.valid) 7 .E hn.toNat
  raiseIf (if dir then !h.w else !h.r) 5 .E info

/-- R266: a value that must be a multiple of `a`; `info` is its EINFO. -/
def checkAlign (v a info : Nat) : Exec Unit := raiseIf (v % a != 0) 6 .E (info % 2 ^ 52)

def checkPriv (ok : Bool) (info : Nat) : Exec Unit := raiseIf (!ok) 5 .E (info % 2 ^ 52)

/-- R266: a local range in the allotment. -/
def checkRange (addr n : Nat) : Exec Unit := do checkPriv ((← getHere).allots addr n) addr

/-- The page bytes that `n` local bytes of a row come from (R269). -/
def pageSpan (ctl : W64) (n : Nat) : Nat :=
  if ctlExp ctl && ctlWidth ctl != 0 then (n + 512 * ctlWidth ctl - 1) / (512 * ctlWidth ctl) * (128 * (4 + 4 * ctlWidth ctl)) else n

/-- R266: the limits that every copy command has: DIR = 1 takes no option, EXP = 1 an expandable format. -/
def checkOptions (dir : Bool) (ctl : W64) : Exec Unit := do
  checkPriv (!(dir && (ctlBin ctl || ctlExp ctl || ctlFull ctl))) 0
  checkPriv (!(ctlExp ctl && !viewFmtOk 1 (Fmt.ofCode (ctlFmt ctl)))) 0

/-- R266: with BIN = 1 the bin is free or the tenant's. -/
def checkBin (ctl : W64) : Exec Unit := do
  let s ← get
  let b := s.bin (binKey (clusterOf s.cur) (ctlBinNo ctl))
  checkPriv (!(ctlBin ctl && b.state != 0 && b.tenant != some s.here.sr.tenant)) 0

/-- The four quad registers, each checked for poison in turn. -/
def quadAll (q : BitVec 3) : Exec (W64 × W64 × W64 × W64) := do
  let a ← needQuad q 0
  let b ← needQuad q 1
  let c ← needQuad q 2
  let d ← needQuad q 3
  return (a, b, c, d)

def execCopy (g : Guard) (k : KE) (st : Bool) (hn : BitVec 4) (q : BitVec 3) (s : State) :=
  runSlot g (do
    let (o, lw, n, ctl) ← quadAll q
    let h ← readH hn
    checkPage hn h st (o.toNat % 2 ^ 52)
    checkAlign o.toNat 32 o.toNat
    checkAlign n.toNat 32 0
    if lwKind lw = 0 then checkAlign (lwAddr lw) 32 (lwAddr lw)
    if ctlExp ctl && ctlWidth ctl != 0 then checkAlign n.toNat (512 * ctlWidth ctl) 0
    let c ← getHere
    checkPriv (lwKind lw == 0 || (lwKind lw == 1 && n == 16384 && !ctlBin ctl && !ctlExp ctl && !ctlFull ctl &&
      bits (lwAddr lw) 5 18 == 0 && c.hasTile (bits (lwAddr lw) 0 5))) 0
    checkPriv (decide (32 ≤ n.toNat) && decide (n.toNat ≤ 1048576)) 0
    checkPriv (decide (o.toNat + pageSpan ctl n.toNat ≤ pageBytes h.size)) o.toNat
    if lwKind lw = 0 then checkRange (lwAddr lw) n.toNat
    checkOptions st ctl
    checkBin ctl
    let ks ← consumed (usesOf k)
    let _ ← issueE k.kd ks .copy (.copy st h o.toNat lw n.toNat ctl) []) s

/-- The index list is read as an access of class c0, when the command starts (R268). -/
def execCopyg (g : Guard) (k : KE) (st : Bool) (hn : BitVec 4) (q : BitVec 3) (s : State) :=
  runSlot g (do
    let (l, lw, r, ctl) ← quadAll q
    let h ← readH hn
    let rb := bits r.toNat 32 32
    let cnt := bits r.toNat 0 32
    checkPage hn h st 0
    checkAlign rb 32 0
    if lwKind lw = 0 then checkAlign (lwAddr lw) 32 (lwAddr lw)
    checkAlign l.toNat 4 l.toNat
    checkPriv (lwKind lw == 0) 0
    checkRange (lwAddr lw) (cnt * rb)
    checkRange l.toNat (4 * cnt)
    checkOptions st ctl
    checkPriv (decide (1 ≤ cnt ∧ cnt ≤ 4096) && decide (32 ≤ rb ∧ rb ≤ 4096) && decide (cnt * rb ≤ 1048576)) 0
    checkBin ctl
    let before ← accessBefore 0
    let ks ← consumed (usesOf k)
    let _ ← issueE k.kd ks .copy (.copyg st h l.toNat lw r ctl) before) s

/-- The layout record is read as an access of class c0, when the command starts (R268). -/
def execCopyx (g : Guard) (k : KE) (st : Bool) (hn : BitVec 4) (q : BitVec 3) (s : State) :=
  runSlot g (do
    let n ← needQuad q 0
    let lw ← needQuad q 1
    let ctl ← needQuad q 3
    let h ← readH hn
    checkPage hn h st 0
    if lwKind lw = 0 then checkAlign (lwAddr lw) 32 (lwAddr lw)
    checkPriv (lwKind lw == 0) 0
    let l := (← getHere).regs.rl (n.setWidth 3)
    checkRange (bits l.toNat 0 23) 32
    checkOptions st ctl
    checkPriv (bits l.toNat 0 23 % 32 == 0) (bits l.toNat 0 23)
    checkBin ctl
    let before ← accessBefore 0
    let ks ← consumed (usesOf k)
    let _ ← issueE k.kd ks .copy (.copyx st h l lw ctl) before) s

/-- R284: the bank engines' command. -/
def execBank (g : Guard) (k : KE) (hn : BitVec 4) (q : BitVec 3) (s : State) :=
  runSlot g (do
    let (o, x, y, mk) ← quadAll q
    let h ← readH hn
    let m := bits mk.toNat 0 16
    let kk := bits mk.toNat 16 16
    let n := if h.bankl = 1 then 1 else 2
    checkPage hn h false (o.toNat % 2 ^ 52)
    checkAlign o.toNat 256 o.toNat
    checkAlign x.toNat 32 x.toNat
    checkAlign y.toNat 32 y.toNat
    checkPriv (h.bankl == 1 || h.bankl == 2) 0
    checkPriv (decide (1 ≤ m ∧ m ≤ 4096)) 0
    checkPriv (decide (64 ≤ kk ∧ kk ≤ 16384) && kk % 64 == 0) 0
    checkPriv (decide (o.toNat + m * kk * n ≤ pageBytes h.size)) o.toNat
    checkRange x.toNat (kk * n)
    checkRange y.toNat (4 * m)
    let ks ← consumed (usesOf k)
    let _ ← issueE k.kd ks .bank (.bank h o.toNat x.toNat y.toNat m kk) []) s

/-- R381: xfer runs on the copy engine; its checks are those of R266 for the range of this package, which lies in the
page of hH. -/
def execXfer (g : Guard) (k : KE) (get_ : Bool) (hn : BitVec 4) (q : BitVec 3) (s : State) :=
  runSlot g (do
    let (o, dev, a, n) ← quadAll q
    let h ← readH hn
    checkPage hn h get_ (o.toNat % 2 ^ 52)
    checkAlign o.toNat 32 o.toNat
    checkAlign n.toNat 32 0
    checkPriv (decide (32 ≤ n.toNat) && decide (n.toNat ≤ 16777216)) 0
    checkPriv (decide (o.toNat + n.toNat ≤ pageBytes h.size)) o.toNat
    let ks ← consumed (usesOf k)
    let _ ← issueE k.kd ks .copy (.xfer get_ h o.toNat (bits dev.toNat 0 20) a n.toNat) []) s

/-! ### Page bytes as an engine sees them -/

/-- The pieces of at most 32 bytes into which the loft's switches see an engine's range split (R240, R374). -/
def pieces (o n : Nat) : List (Nat × Nat) := (List.range ((n + 31) / 32)).map fun i => (o + 32 * i, min 32 (n - 32 * i))

/-- Whether a loft switch refuses, or has lost, some piece of an engine's range (R374, R379). -/
def State.pageFails (s : State) (h : Handle) (o n : Nat) (tenant : BitVec 16) (isLoad : Bool) : Bool :=
  h.tgt == 1 && (pieces o n).any fun p =>
    (s.extentOf h.plane.toNat (h.ppn.toNat * 65536 + p.1) p.2 tenant).isNone || (s.lostPlane h p.1 p.2 tenant isLoad).isSome

/-- The bytes of a range of a page (R217, R226, R377). -/
def State.pageRead (s : State) (h : Handle) (o n : Nat) (tenant : BitVec 16) : List Byte :=
  if h.tgt = 1 then (pieces o n).flatMap fun p => readCells s.mem (s.loftRead h p.1 p.2 tenant) p.2
  else h.read s.mem o n

/-- Writes bytes to a range of a page; a loft switch does not perform what it refuses (R374, R377). -/
def pageWritePieces (s : State) (core : Nat) (h : Handle) (tenant : BitVec 16) (bs : List Byte) (o : Nat) : List (Nat × Nat) → State
  | [] => s
  | p :: ps =>
    pageWritePieces (performAll s core ((bs.drop (p.1 - o)).take p.2) (s.storeKeys h p.1 p.2 tenant)) core h tenant bs o ps

def State.pageWrite (s : State) (core : Nat) (h : Handle) (o : Nat) (tenant : BitVec 16) (bs : List Byte) : State :=
  if h.tgt = 1 then pageWritePieces s core h tenant bs o (pieces o bs.length)
  else s.perform core (h.key o) bs

/-! ### Start (R267, R268) -/

/-- The rows of a copyg: none when an index is invalid. -/
def indexRows (mem : List Host.Cell) (cluster list addr rb page : Nat) (ctl : W64) : Nat → Option (List (Nat × Nat × Nat))
  | 0 => some []
  | n + 1 => do
    let r ← indexRows mem cluster list addr rb page ctl n
    let i := leNat (readCells mem (spadKey cluster (list + 4 * n)) 4)
    if i % 32 = 0 ∧ i + pageSpan ctl rb ≤ page then some (r ++ [(i, addr + n * rb, rb)]) else none

/-- The rows of a copyx: none when the record or an extent is invalid (R260, R268). -/
def boxRows (s : State) (c : Nat) (h : Handle) (l : BitVec 192) (addr : Nat) (ctl : W64) : Option (List (Nat × Nat × Nat)) :=
  let f (i : Nat) : Nat := recordAt s.mem (clusterOf c) (bits l.toNat 0 23) i
  let rowb := f 0
  let rows := bits l.toNat 128 32
  let planes := bits l.toNat 160 32
  let base := bits l.toNat 64 64
  let ok := rowb % 32 == 0 && decide (32 ≤ rowb ∧ rowb ≤ 4096) && decide (1 ≤ f 1 ∧ f 1 ≤ 65536) && decide (1 ≤ f 2 ∧ f 2 ≤ 65536) &&
    f 3 == 0 && f 4 % 32 == 0 && f 5 % 32 == 0 && f 6 % 32 == 0 && f 7 % 32 == 0 &&
    decide (1 ≤ rows ∧ rows ≤ f 1) && decide (1 ≤ planes ∧ planes ≤ f 2)
  let span := boxSpan rowb rows planes (f 6) (f 7)
  if ok && decide (base + (planes - 1) * f 5 + (rows - 1) * f 4 + pageSpan ctl rowb ≤ pageBytes h.size) && (s.ctx c).allots addr span &&
      decide (span ≤ 1048576) then
    some ((List.range planes).flatMap fun p => (List.range rows).map fun r =>
      (base + p * f 5 + r * f 4, addr + p * f 7 + r * f 6, rowb))
  else none

/-- The rows of a copy command and its footprint (R267, R268). -/
def State.copyRows (s : State) (c : ECmd) : Option (List (Nat × Nat × Nat) × Nat) :=
  match c.op with
  | .copy _ _ o lw n _ => some ([(o, lwAddr lw, n)], n)
  | .copyg _ h l lw r ctl =>
    (indexRows s.mem (clusterOf c.ctx) l (lwAddr lw) (bits r.toNat 32 32) (pageBytes h.size) ctl (bits r.toNat 0 32)).map fun rs =>
      (rs, bits r.toNat 0 32 * bits r.toNat 32 32)
  | .copyx _ h l lw ctl =>
    (boxRows s c.ctx h l (lwAddr lw) ctl).map fun rs =>
      (rs, boxSpan (recordAt s.mem (clusterOf c.ctx) (bits l.toNat 0 23) 0) (bits l.toNat 128 32) (bits l.toNat 160 32)
        (recordAt s.mem (clusterOf c.ctx) (bits l.toNat 0 23) 6) (recordAt s.mem (clusterOf c.ctx) (bits l.toNat 0 23) 7))
  | _ => some ([], 0)

/-- The direction, handle, local word and control word of a copy command. -/
def EOp.copyParts : EOp → Option (Bool × Handle × W64 × W64)
  | .copy d h _ lw _ ctl => some (d, h, lw, ctl)
  | .copyg d h _ lw _ ctl => some (d, h, lw, ctl)
  | .copyx d h _ lw ctl => some (d, h, lw, ctl)
  | _ => none

/-- R274: a fill waits until its bin is free and no fill that reached the engine earlier waits for it, on its bin or on the tokens it
consumes (log entry 122). -/
def State.fillReady (s : State) (c : ECmd) : Bool :=
  match c.op.fillBin with
  | none => true
  | some b =>
    (s.bin (binKey (clusterOf c.ctx) b)).state == 0 &&
    ((s.ecmds.find? fun d => d.stage == .queued && d.op.fillBin == some b && clusterOf d.ctx == clusterOf c.ctx).map ECmd.id == some c.id)

/-- The index list or record of a started copy command has been read (R268). -/
def State.listDone (s : State) (c : ECmd) : State := if c.op.accessClass.isSome then s.cmdDone c.ctx c.id else s

/-- R267: a copy command starts; invalid operands complete it with code 7. -/
def State.startCopy (s : State) (c : ECmd) : State :=
  match s.copyRows c with
  | none => s.dropE c 7
  | some (rows, foot) =>
    let s1 := (s.putE { c with stage := .started, rows := rows }).listDone c
    match c.op.fillBin, c.op.copyParts with
    | some b, some (_, _, lw, _) =>
      s1.setBin (binKey (clusterOf c.ctx) b)
        ⟨1, false, 0, BitVec.ofNat 21 foot, BitVec.ofNat 23 (lwAddr lw), some c.tenant⟩
    | _, _ => s1

/-! ### Completion (R267 to R270) -/

/-- R269: the expanded bytes of the compressed images from a page offset on. -/
def expandRun (bs : List Byte) (n : Nat) : Nat → List Byte
  | 0 => []
  | k + 1 => packBytes n (expandImage (bs.take (128 * (4 + 4 * n))) n 128 0) ++ expandRun (bs.drop (128 * (4 + 4 * n))) n k

/-- The bytes that one row brings in (R267, R269). -/
def State.rowIn (s : State) (h : Handle) (ctl : W64) (tenant : BitVec 16) (po n : Nat) : List Byte :=
  if ctlExp ctl then
    let w := ctlWidth ctl
    (expandRun (s.pageRead h po (pageSpan ctl n) tenant) w ((n + 512 * w - 1) / (512 * w))).take n
  else s.pageRead h po n tenant

/-- R242, R265: the tags of every word written are set. -/
def State.fillTags (s : State) (cluster addr n : Nat) : State :=
  { s with tags := setTags s.tags cluster addr (List.replicate (n / 4) true) }

def moveRows (s : State) (c : ECmd) (dir : Bool) (h : Handle) (lw ctl : W64) : List (Nat × Nat × Nat) → State
  | [] => s
  | (po, lo, n) :: rs =>
    let cl := clusterOf c.ctx
    let core := coreOf c.ctx
    let s1 : State :=
      if dir then
        let bs := if lwKind lw = 1 then tileBytes (s.readTile core (bits (lwAddr lw) 0 5)) else readCells s.mem (spadKey cl lo) n
        s.pageWrite core h po c.tenant bs
      else
        let bs := s.rowIn h ctl c.tenant po n
        if lwKind lw = 1 then s.writeTile core (bits (lwAddr lw) 0 5) (tileFrom (wordsOf 4096 bs))
        else
          let t := { s with mem := writeCells s.mem (spadKey cl lo) bs }
          if ctlFull ctl then t.fillTags cl lo n else t
    moveRows s1 c dir h lw ctl rs

/-- Marks a bin full, or poisoned when its fill failed (R219, R267). -/
def State.endFill (s : State) (c : ECmd) (good : Bool) : State :=
  match c.op.fillBin with
  | none => s
  | some b =>
    let key := binKey (clusterOf c.ctx) b
    let bn := s.bin key
    s.setBin key (if good then { bn with state := 2 } else { bn with poison := true })

/-- A command whose loft accesses are refused stops; the spec states no completion code for it, so the code is a free
value. -/
def State.failLoft (s : State) (c : ECmd) : State :=
  ({ s with free := s.free + 1 }.endFill c false).dropE c ((Config.freeValue s.free).toNat % 256)

/-- R267: a started copy command is done. -/
def State.completeCopy (s : State) (id : Nat) : Option State := do
  let c ← s.findE id
  let (dir, h, lw, ctl) ← c.op.copyParts
  if c.stage ≠ .started then none
  else if c.rows.any fun r => s.pageFails h r.1 (if dir then r.2.2 else pageSpan ctl r.2.2) c.tenant (!dir) then some (s.failLoft c)
  else some (((moveRows s c dir h lw ctl c.rows).endFill c true).dropE c 0)

/-! ### Bank commands (R284) -/

/-- Row m of the product (R284). -/
def bankRow (f : Fmt) (a x : Nat) (k m : Nat) : W32 :=
  let w := f.width
  let term (i : Nat) : Nat × Nat := (bits a (w * (m * k + i)) w, bits x (w * i) w)
  if f = .int8 then
    BitVec.ofInt 32 ((List.range k).foldl (fun acc i => acc + signedOf 8 (term i).1 * signedOf 8 (term i).2) (0 : Int))
  else
    BitVec.ofNat 32 ((List.range k).foldl (fun acc i =>
      (addNE acc (mulNE (toFp32 f (term i).1) (toFp32 f (term i).2)).1).1) 0)

def State.completeBank (s : State) (id : Nat) : Option State := do
  let c ← s.findE id
  match c.op with
  | .bank h o x y m k =>
    if c.stage ≠ .started then none
    else
      let f : Fmt := if h.bankl = 1 then .int8 else .bf16
      let n := f.width / 8
      if s.pageFails h o (m * k * n) c.tenant true then some (s.failLoft c)
      else
        let cl := clusterOf c.ctx
        let a := leNat (s.pageRead h o (m * k * n) c.tenant)
        let v := leNat (readCells s.mem (spadKey cl x) (k * n))
        let bs := (List.range m).flatMap fun i => leBytes 4 (bankRow f a v k i).toNat
        some ({ s with mem := writeCells s.mem (spadKey cl y) bs }.dropE c 0)
  | _ => none

/-- R219: a host page's read by a copy or bank command ended in error: code 19. The command has written nothing (log entry 138). -/
def State.failHost (s : State) (c : ECmd) : State := (s.endFill c false).dropE c 19

def execCopyComplete (id : Nat) (s : State) : Host.Outcome State Fault Refusal := event "copy command completes" (s.completeCopy id)
def execBankComplete (id : Nat) (s : State) : Host.Outcome State Fault Refusal := event "bank command completes" (s.completeBank id)

end Sys2Proof.Machine
end

