-- ==== Sys2Proof/Machine/Bins.lean ====
section
/-!
DEFINITION. Bins and the buffer unit (R271 to R278), the token instructions and user-level completion interrupts (R258,
R259, R279 to R281), and semaphores (R245 to R248).
-/

namespace Sys2Proof.Machine

/-! ### Results of EY instructions (R52, R246, R276) -/

/-- yD with poison clear and pD, exact with latency 4. -/
def putEY (r : EYF) (v : W64) (hit : Bool) : Exec Unit := do
  exactExt (.y r.d ⟨v, false⟩) 4
  putHit r.pd hit 4

/-! ### Bins (R272, R273, R276, R277) -/

/-- The bin status word (R272). -/
def Bin.word (b : Bin) : W64 :=
  BitVec.ofNat 64 (b.state.toNat * 2 ^ 62 + b.poison.toNat * 2 ^ 61 + b.readers.toNat * 2 ^ 53 + b.size.toNat * 2 ^ 32 + b.base.toNat)

/-- R273: a bin is acquired. -/
def Bin.acquire (b : Bin) : Bin := if b.state = 2 then { b with state := 3, readers := 1 } else { b with readers := b.readers + 1 }

/-- R273: a bin becomes free; BASE and SIZE stay those of the last fill. -/
def Bin.release (b : Bin) : Bin := { b with state := 0, poison := false, readers := 0, tenant := none }

/-- The bin a reference names (R271). -/
def refBin (v : W64) : Nat := bits v.toNat 48 8

/-- A bin as an operand or a reference for binrel (R276). -/
def binRef (b : Nat) (bn : Bin) : W64 := BitVec.ofNat 64 (b * 2 ^ 48 + bn.base.toNat)

def takeBin (b : Nat) : Exec Bin := do
  let s ← get
  let key := binKey (clusterOf s.cur) b
  set (s.setBin key (s.bin key).acquire)
  return s.bin key

def execBinst (g : Guard) (r : EYF) (q : BitVec 3) (s : State) :=
  runSlot g (do
    awaitTokens [r.ka, r.kb]
    let v ← needQuad q 0
    let b := s.bin (binKey (clusterOf s.cur) (refBin v))
    putEY r b.word (b.state == 2)) s

def execBinacq (g : Guard) (r : EYF) (q : BitVec 3) (s : State) :=
  runSlot g (do
    awaitTokens [r.ka, r.kb]
    let n := refBin (← needQuad q 0)
    let b := s.bin (binKey (clusterOf s.cur) n)
    raiseIf (b.state != 0 && b.tenant != some s.here.sr.tenant) 5 .E 0
    raiseIf b.poison 16 .E n
    stopIf (b.state == 0 || b.state == 1 || (b.state == 3 && b.readers == 255)) .block
    let _ ← takeBin n
    putEY r (binRef n b) true) s

/-- The first full bin of waitany's search from ROT on: its place in the group and its number, or a poisoned one (R276). -/
def searchBins (s : State) (group mask rot : Nat) : Nat → Option (Nat × Nat × Bool)
  | 0 => none
  | k + 1 =>
    let i := (rot + (7 - k)) % 8
    let b := s.bin (binKey (clusterOf s.cur) (8 * group + i))
    if !bitAt mask i || b.tenant != some s.here.sr.tenant then searchBins s group mask rot k
    else if b.poison then some (i, 8 * group + i, true)
    else if b.state = 2 then some (i, 8 * group + i, false)
    else searchBins s group mask rot k

def execWaitany (g : Guard) (r : EYF) (q : BitVec 3) (s : State) :=
  runSlot g (do
    awaitTokens [r.ka, r.kb]
    let v ← needQuad q 0
    let mask := bits v.toNat 0 8
    raiseIf (mask == 0) 19 .E 2
    match searchBins s (bits v.toNat 51 5) mask s.here.rot.toNat 8 with
    | none => stop .block
    | some (_, n, true) => raise 16 .E n
    | some (i, n, false) => do
      let b ← takeBin n
      setHere { ← getHere with rot := BitVec.ofNat 3 (i + 1) }
      putEY r (binRef n b) true) s

/-- The checks of binrel and binkill at issue (R278); answers the bin's number. -/
def binOperand (q : BitVec 3) : Exec Nat := do
  let n := refBin (← needQuad q 0)
  let s ← get
  let b := s.bin (binKey (clusterOf s.cur) n)
  raiseIf (b.state != 0 && b.tenant != some s.here.sr.tenant) 5 .E 0
  return n

/-- R278: every access the context has issued and not performed: its stores, its M commands, whose operands are accesses of class c0, and
the accesses that its E commands have still to make. -/
def State.accesses (s : State) : List Nat :=
  storeIds none s.here.stores ++ (s.mcmds.filter fun m => m.ctx == s.cur).map MCmd.id ++
    (s.ecmds.filter fun e => e.ctx == s.cur && e.toAccess.isSome).map ECmd.id

/-- R278: the release comes after every access of the context; its bundle freezes while a load of any class is on its way (log entry
103). -/
def execBinrel (g : Guard) (k : KE) (q : BitVec 3) (s : State) :=
  runSlot g (do
    let n ← binOperand q
    stopIf (s.here.lateIn (BitVec.allOnes 16)) (.freezePast .all)
    let ks ← consumed (usesOf k)
    let _ ← issueE k.kd ks .buffer (.binrel n) s.accesses) s

def execBinkill (g : Guard) (k : KE) (q : BitVec 3) (s : State) :=
  runSlot g (do
    let n ← binOperand q
    let ks ← consumed (usesOf k)
    let _ ← issueE k.kd ks .buffer (.binkill n) []) s

/-- R273, R278: binrel takes effect: code 0 when the bin is draining, else 8. -/
def State.startBinrel (s : State) (c : ECmd) (n : Nat) : State :=
  let key := binKey (clusterOf c.ctx) n
  let b := s.bin key
  if b.state ≠ 3 then s.dropE c 8
  else if 2 ≤ b.readers.toNat then (s.setBin key { b with readers := b.readers - 1 }).dropE c 0
  else (s.setBin key b.release).dropE c 0

/-- The walk, if any, whose fill of a bin is in progress. -/
def State.walkFilling (s : State) (cluster n : Nat) : Option Walk :=
  s.walks.find? fun w => clusterOf w.ctx == cluster && w.filling && (w.landed.getLast?.map Landed.bin == some n)

/-- R275: a walk's fill is killed: its bin stays filling with POISON = 1, reason 10 stands at the fill's position, no further hop is
made, and the token completes with code 5. The sheaves before that position stay and are delivered (R295); what has not been acquired is
freed when a wnext reports the reason (R297, log entry 66). -/
def State.killWalkFill (s : State) (w : Walk) : State :=
  match w.landed.getLast? with
  | none => s
  | some l =>
    let key := binKey (clusterOf w.ctx) l.bin
    ((s.setBin key { s.bin key with poison := true }).finishTok w.tok 5).putWalk
      { w with filling := false, landed := w.landed.dropLast, reason := some (l.pos, 10, l.link) }

/-- A fill of a bin in progress is killed (R275). -/
def State.killBinFill (s : State) (cluster n : Nat) : State :=
  let s1 := match s.ecmds.find? fun d => d.stage == .started && d.op.fillBin == some n && clusterOf d.ctx == cluster with
    | none => s
    | some d => s.dropE d 5
  match s1.walkFilling cluster n with
  | none => s1
  | some w => s1.killWalkFill w

/-- R278: binkill frees the bin, after killing a fill in progress. -/
def State.startBinkill (s : State) (c : ECmd) (n : Nat) : State :=
  let cl := clusterOf c.ctx
  let s1 := s.killBinFill cl n
  let b := s1.bin (binKey cl n)
  (if b.state = 0 then s1 else s1.setBin (binKey cl n) b.release).dropE c 0

/-! ### Token instructions (R258, R259) -/

def execKwait (g : Guard) (ka kb kc : BitVec 4) (s : State) := runSlot g (awaitTokens [ka, kb, kc]) s

def execKjoin (g : Guard) (k : KE) (s : State) :=
  runSlot g (do
    let ks ← consumed (usesOf k)
    let _ ← issueE k.kd ks .token (.kjoin ks) []) s

/-- The first nonzero code of the tokens a kjoin names (R258). -/
def State.joinCode (s : State) (ks : List (Option Nat)) : Nat := (((ks.map s.tokCode).find? fun c => c != 0).getD 0)

/-- The token status word (R259). -/
def State.tokWord (s : State) (t : Option Nat) : W64 :=
  if s.tokDone t then BitVec.ofNat 64 (2 ^ 63 + s.tokCode t % 256) else 0

def execKpoll (g : Guard) (d : BitVec 5) (pd ka : BitVec 4) (s : State) :=
  runSlot g (do
    let t ← readK ka
    exactExt (.y d ⟨s.tokWord t, false⟩) 1
    putHit pd (s.tokDone t) 1) s

/-! ### Completion interrupts (R279, R280) -/

/-- R279: uiarm; a token found complete, or none, makes its index pending at once. -/
def execUiarm (g : Guard) (ka : BitVec 4) (s : State) :=
  runSlot g (do
    let t ← readK ka
    let k ← getHere
    if s.tokDone t then
      setHere { k with arm := vset k.arm ka.toNat none, pend := vset k.pend ka.toNat (some (BitVec.ofNat 8 (s.tokCode t))) }
    else setHere { k with arm := vset k.arm ka.toNat t }) s

/-- R279: uidis empties one entry, or every entry. -/
def execUidis (g : Guard) (ka : BitVec 4) (s : State) :=
  runSlot g (do
    let k ← getHere
    setHere { k with arm := if ka = 0 then Vector.replicate 16 none else vset k.arm ka.toNat none }) s

/-- R280: whether a context may take a pending interrupt now: outside a handler, at the end of a group or blocked. -/
def Ctx.uiOpen (k : Ctx) : Bool :=
  !k.handler && !k.inUi && (k.run == .blocked || ((k.run == .running || k.run == .frozen) && k.boundary))

def State.userInterrupt (s : State) (c : Nat) : Option State :=
  let k := s.ctx c
  if k.uiOpen then k.takeUi.map fun k1 => s.setCtx c k1 else none

def execUserInterruptTaken (c : Nat) (s : State) : Host.Outcome State Fault Refusal := event "user-level interrupt" (s.userInterrupt c)

/-! ### Semaphores (R245 to R248) -/

/-- R245, R246: whether a reference is well formed and the context may use its file. -/
def State.semOk (s : State) (c : Nat) (ref : W64) : Bool :=
  let k := s.ctx c
  bits ref.toNat 15 49 == 0 && decide (bits ref.toNat 8 5 ≤ 23) &&
  (k.stream || (s.semTen.find? fun p => p.1 == ref.toNat / 256).map Prod.snd == some k.sr.tenant)

def State.sem (s : State) (ref : Nat) : W64 := cellAt s.sems ref

/-- R247: the test of a semwait. -/
def semTest (e v : W64) (eq : Bool) : Bool := if eq then e == v else decide (v.toInt ≤ e.toInt)

/-- R247: a started semwait makes its test on its entry's value `v`; once passed, the test stays passed. -/
def ECmd.retest (c : ECmd) (ref : Nat) (v : W64) : ECmd :=
  match c.op with
  | .semwait r w eq cls passed => if c.stage = .started ∧ r = ref then { c with op := .semwait r w eq cls (passed || semTest v w eq) } else c
  | _ => c

/-- A semaphore entry changes, and every semwait started on it makes its test again (R247). -/
def State.setSem (s : State) (ref : Nat) (v : W64) : State :=
  { s with sems := setCell s.sems ref v, ecmds := s.ecmds.map fun c => c.retest ref v }

/-- R246: the checks and ordering of a semaphore operation at issue; answers the reference. `used` are the quad registers
it uses. -/
def semOperand (r : EYF) (cls : BitVec 4) (q : BitVec 3) (used : Nat) : Exec (Nat × W64 × W64) := do
  awaitTokens [r.ka, r.kb]
  let ref ← needQuad q 0
  let a ← needQuad q 1
  let b ← if used = 3 then needQuad q 2 else pure 0
  let s ← get
  raiseIf (!s.semOk s.cur ref) 5 .E 0
  classWait cls
  return (ref.toNat, a, b)

def execSemadd (g : Guard) (r : EYF) (cls : BitVec 4) (q : BitVec 3) (s : State) :=
  runSlot g (do
    let (ref, a, _) ← semOperand r cls q 2
    let old := s.sem ref
    modify fun t => t.setSem ref (old + a)
    putEY r old (old + a == 0)) s

def execSemcas (g : Guard) (r : EYF) (cls : BitVec 4) (q : BitVec 3) (s : State) :=
  runSlot g (do
    let (ref, e, v) ← semOperand r cls q 3
    let old := s.sem ref
    if old = e then modify fun t => t.setSem ref v
    putEY r old (old == e)) s

def execSemrd (g : Guard) (r : EYF) (cls : BitVec 4) (q : BitVec 3) (s : State) :=
  runSlot g (do
    let (ref, t, _) ← semOperand r cls q 2
    putEY r (s.sem ref) (decide (t.toInt ≤ (s.sem ref).toInt))) s

/-- R247: semwait is a token unit command; its test is an access of its class, after the context's earlier ones. -/
def execSemwait (g : Guard) (k : KE) (eq : Bool) (cls : BitVec 4) (q : BitVec 3) (s : State) :=
  runSlot g (do
    let ref ← needQuad q 0
    let v ← needQuad q 1
    raiseIf (!s.semOk s.cur ref) 5 .E 0
    let before ← accessBefore cls
    let ks ← consumed (usesOf k)
    let _ ← issueE k.kd ks .token (.semwait ref.toNat v eq cls false) before) s

/-- R247: the start of a semwait, which makes its first test. -/
def State.startSemwait (s : State) (c : ECmd) (ref : Nat) : State := s.putE ({ c with stage := .started }.retest ref (s.sem ref))

/-- R247: a started semwait whose test has passed, or passes now, completes; a test that fails changes nothing. -/
def State.testSemwait (s : State) (id : Nat) : Option State := do
  let c ← s.findE id
  match c.op with
  | .semwait ref v eq _ passed =>
    if c.stage ≠ .started then none else if passed || semTest (s.sem ref) v eq then some (s.dropE c 0) else some s
  | _ => none

def execSemwaitTest (id : Nat) (s : State) : Host.Outcome State Fault Refusal := event "semwait tests its entry" (s.testSemwait id)

end Sys2Proof.Machine
end

