-- ==== Sys2Proof/Machine/Control.lean ====
section
/-!
DEFINITION. Control transfer, special registers and system instructions of the X slot (R93 to R106, R282, R341).
-/

namespace Sys2Proof.Machine

/-! ### Branches (R93, R341) -/

/-- A taken branch with its three delay bundles still to issue (R93). -/
def takeBranch (t : W64) : Exec Unit := do setHere { ← getHere with branch := some (t, 3) }

/-- A register target: poison (R340), then alignment (R25). -/
def registerTarget (a : BitVec 5) : Exec W64 := do
  let t ← readX a
  raiseIf t.poison 8 .X (poisonInfo .x a)
  raiseIf (t.val.toNat % 16 != 0) 6 .X (t.val.toNat % 2 ^ 52)
  return t.val

def execBr (g : Guard) (off : BitVec 24) (s : State) := runSlot g (takeBranch (branchTarget s.here.pc off)) s

def execCall (g : Guard) (off : BitVec 24) (s : State) :=
  runSlot g (do
    let r ← retAddr
    exact (.x 30 ⟨r, false⟩) 1
    takeBranch (branchTarget s.here.pc off)) s

def execJr (g : Guard) (d a : BitVec 5) (s : State) :=
  runSlot g (do
    let t ← registerTarget a
    if d ≠ 0 then
      let r ← retAddr
      exact (.x d ⟨r, false⟩) 1
    takeBranch t) s

def execRet (g : Guard) (s : State) := runSlot g (do takeBranch (← registerTarget 30)) s

/-- R341: chk tests the poison bit and leaves it. -/
def execChk (g : Guard) (a : BitVec 5) (off : BitVec 19) (s : State) :=
  runSlot g (do
    let r ← readX a
    if r.poison then takeBranch (branchTarget s.here.pc off)) s

/-! ### Special registers (R95 to R104) -/

/-- The value that mfsr reads (R95 to R101, R126). -/
def srRead (c : Nat) (r : Srs) (n : Nat) : W64 :=
  match n with
  | 0x00 => r.slack
  | 0x01 => r.lc
  | 0x02 => felWord r.fel
  | 0x03 => r.uiv
  | 0x04 => BitVec.ofNat 64 (c % 4096)
  | 0x05 => r.tenant.setWidth 64
  | 0x06 => r.rsta
  | 0x07 => r.rstb
  | 0x08 => r.rstd
  | 0x09 => r.acyc
  | 0x10 => r.epc
  | 0x11 => r.ecause
  | 0x12 => r.einfo
  | 0x13 => r.ebp
  | _ => 0

/-- The handler-only registers of R95. -/
def srHandlerOnly (n : Nat) : Bool := 0x10 ≤ n && n ≤ 0x13

/-- What a write leaves in a register: reserved bits are zero (R102). -/
def srMask (n : Nat) (v : W64) : W64 :=
  match n with
  | 0x00 => v &&& 0x3FF
  | 0x03 => v &&& 0xFFFFFFFFFFFF0
  | 0x10 => v &&& 0xFFFFFFFFFFFFF
  | _ => v

/-- A value of EBP that R334 refuses: PEND = 1 with COUNT = 0, or a reserved bit set. -/
def ebpBad (v : W64) : Bool := (v &&& 0x7CF000000000000F) != 0 || (v.getLsbD 63 && bits v.toNat 56 2 == 0)

/-- Handler-only registers raise PRIVILEGE at user level (R102). -/
def checkLevel (n : Nat) : Exec Unit := do raiseIf (srHandlerOnly n && !(← getHere).handler) 5 .X 0

def execMfsr (g : Guard) (d : BitVec 5) (sr : BitVec 14) (s : State) :=
  runSlot g (do
    checkLevel sr.toNat
    exact (.x d ⟨srRead s.cur s.here.sr sr.toNat, false⟩) 1) s

/-- The word of a slot instruction, the EINFO of ILLEGAL_FIELD (R333). -/
def slotInfo (i : Instr) : Nat :=
  match slotWord i with
  | some (_, w, _) => w
  | none => 0

def execMtsr (g : Guard) (a : BitVec 5) (sr : BitVec 14) (s : State) :=
  runSlot g (do
    let r ← readX a
    let n := sr.toNat
    raiseIf r.poison 8 .X (poisonInfo .x a)
    checkLevel n
    raiseIf ((n == 3 && r.val.toNat % 16 != 0) || (n == 0x10 && r.val.toNat % 4 != 0)) 6 .X (r.val.toNat % 2 ^ 52)
    raiseIf (n == 0x13 && ebpBad r.val) 2 .X (slotInfo (.mtsr g a sr))
    exact (.sr n (srMask n r.val)) 1) s

def execSetlc (g : Guard) (a : BitVec 5) (imm : BitVec 14) (s : State) :=
  runSlot g (do
    let r ← readX a
    raiseIf r.poison 8 .X (poisonInfo .x a)
    exact (.sr 1 (r.val + simm imm)) 1) s

def execRdfel (g : Guard) (d : BitVec 5) (s : State) := runSlot g (exact (.x d ⟨felWord s.here.sr.fel, false⟩) 1) s

/-- R104: what becomes visible from the clrfel's own cycle on is kept. -/
def execClrfel (g : Guard) (s : State) :=
  runSlot g (do
    let k ← getHere
    setHere { k with sr := { k.sr with felSince := k.sr.felNew } }
    exact .clrFel 1) s

/-! ### System instructions (R105, R106, R199, R282) -/

/-- R105: the context gives up the slot for one turn; the turn is taken when the bundle has ended. -/
def execYield (g : Guard) (s : State) := runSlot g (do setHere { ← getHere with yielded := true }) s

/-- R199: after its bundle the context issues nothing more; its part of the instance ends by a step of its own. -/
def retireWith (ks : List (Option Nat)) : Exec Unit := do
  setHere { ← getHere with run := .halted, retiring := some ks }

def execHalt (g : Guard) (s : State) := runSlot g (retireWith []) s

/-- The trap that a context takes at a boundary at which a trap `r` is found: a freeze trap that awaits it goes first if its number
is lower, and the one not taken is not recorded (R328). -/
def Ctx.firstTrap (k : Ctx) (r : TrapRec) : TrapRec :=
  match k.due with
  | none => r
  | some q => if q.cls < r.cls then q else r

/-- R105: after the bundle's other slots have taken effect the bundle ends, and SOFTWARE is raised at the next one. No
branch is pending at a trap (R94) but one that EBP or an interrupt brought back, which then goes on. -/
def execTrap (g : Guard) (n : BitVec 14) (s : State) : Host.Outcome State Fault Refusal :=
  if s.here.enabled g then
    let k := s.here
    let u := k.endBundle k.branch (bundleSize s.header.toNat) false Group.fresh
    .next ((s.setHere u).takeTrap (u.firstTrap ⟨20, 0, n.setWidth 64, false, none⟩))
  else .next s

/-- A handler's return waits for every result in flight to arrive, then goes where `leave` says; its own bundle is one
architectural cycle (R282, R335). -/
def returnWith (leave : Ctx → Ctx) : Exec Unit := do
  let s ← get
  let k := s.here
  stopIf (k.flight.any fun f => !f.arrived) .freeze
  set { s.setHere (leave k.count) with status := .redirected }

def execEret (g : Guard) (s : State) :=
  runSlot g (do
    raiseIf (!s.here.handler) 5 .X 0
    returnWith Ctx.leaveTrap) s

def execUret (g : Guard) (s : State) :=
  runSlot g (do
    raiseIf (!(s.here.inUi && !s.here.handler)) 5 .X 0
    returnWith Ctx.uretTo) s

end Sys2Proof.Machine
end

