-- ==== Sys2Proof/Machine/Group.lean ====
section
/-!
DEFINITION. The group and delay-bundle rules (R21 to R23, R26, R94, R106): the registers that the words of a bundle name,
read from their encoded fields, and the check of a bundle against the earlier bundles of its group.
-/

namespace Sys2Proof.Machine

/-! ### Names of registers

A register is the number of its file times 64 plus its own number. x0, y0, p0 and k0, the queue registers, a y register
that names a bound FIFO, and the accumulator tiles never count (R22, R40, R363). -/

/-- What a slot word reads and writes. -/
structure Uses where
  reads : List Nat
  writes : List Nat
  deriving DecidableEq, Repr

def useX (a : BitVec 5) : List Nat := if a = 0 then [] else [a.toNat]
def useY (a : BitVec 5) : List Nat := if a = 0 then [] else [64 + a.toNat]
def useP (a : BitVec 4) : List Nat := if a = 0 then [] else [128 + a.toNat]
def useV (a : BitVec 5) : List Nat := [192 + a.toNat]
def useSc (a : BitVec 4) : List Nat := [256 + a.toNat]
def useH (a : BitVec 4) : List Nat := [320 + a.toNat]
def useK (a : BitVec 4) : List Nat := if a = 0 then [] else [384 + a.toNat]
def useL (a : BitVec 3) : List Nat := [448 + a.toNat]
def useB (a : BitVec 3) : List Nat := [512 + a.toNat]
def useW (a : BitVec 3) : List Nat := [576 + a.toNat]
def useSr (n : Nat) : List Nat := [640 + n]

/-- A field that may name a bound FIFO (R363); `k` is the context. -/
def useF (k : Ctx) (a : BitVec 5) : List Nat := if (k.fifoOf a).isSome then [] else useY a

/-- A scalar register of an X or Y slot. -/
def useR (k : Ctx) (c : Cl) (a : BitVec 5) : List Nat :=
  match c with
  | .x => useX a
  | .y => useF k a

/-- T of an L slot (R43). -/
def useT (k : Ctx) (c : Cl) (a : BitVec 5) : List Nat := useR k c a

/-- The token fields of family E (R51). -/
def useKs (k : KE) : List Nat := useK k.ka ++ useK k.kb ++ useK k.kc

/-- The y registers of a quad, all of which count as read (R51). -/
def useQuad (q : BitVec 3) : List Nat := (List.range 4).flatMap fun i => useY (quad q i)

/-- The scale registers of a pair (R167). -/
def usePair (p : Nat) : List Nat := [256 + 2 * p, 256 + 2 * p + 1, 256 + 2 * p + 8, 256 + 2 * p + 9]

/-- The registers a slot word names beside its predicate; `f` is the context, for its bindings (R22, R51, R103, R364). wstop and wbudget,
which change their cursor only as the gleaner starts them, count as writing it (log entry 132). -/
def slotUses (f : Ctx) (i : Instr) : Uses :=
  match i with
  | .add _ c d a b _ | .sub _ c d a b _ | .and _ c d a b _ | .or _ c d a b _ | .xor _ c d a b _ | .andn _ c d a b _ | .shl _ c d a b _
  | .shr _ c d a b _ | .sra _ c d a b _ => ⟨useR f c a ++ useR f c b, useR f c d⟩
  | .rol _ d a b _ | .mulX _ d a b _ | .mulh _ d a b _ _ | .minX _ d a b _ _ | .maxX _ d a b _ _ => ⟨useX a ++ useX b, useX d⟩
  | .mulY _ d a b _ | .minY _ d a b _ _ | .maxY _ d a b _ _ | .lea _ d a b _ => ⟨useF f a ++ useF f b, useF f d⟩
  | .sextX _ d a _ | .zextX _ d a _ | .clzX _ d a _ | .ctz _ d a _ | .popcX _ d a _ | .muli _ d a _ | .bextX _ d a _ _ | .jr _ d a =>
    ⟨useX a, useX d⟩
  | .sextY _ d a _ | .zextY _ d a _ | .clzY _ d a _ | .popcY _ d a _ | .bextY _ d a _ _ => ⟨useF f a, useF f d⟩
  | .movxy _ d a _ => ⟨useX a, useY d⟩
  | .movyx _ d a _ => ⟨useF f a, useX d⟩
  | .addi _ c d a _ | .andi _ c d a _ | .ori _ c d a _ | .xori _ c d a _ | .shli _ c d a _ | .shri _ c d a _ | .srai _ c d a _ =>
    ⟨useR f c a, useR f c d⟩
  | .liX _ d _ => ⟨[], useX d⟩
  | .liY _ d _ => ⟨[], useF f d⟩
  | .lihX _ d _ => ⟨useX d, useX d⟩
  | .lihY _ d _ => ⟨useF f d, useF f d⟩
  | .bins _ d a _ _ => ⟨useX d ++ useX a, useX d⟩
  | .cmpX _ pd a b _ _ => ⟨useX a ++ useX b, useP pd⟩
  | .cmpY _ pd a b _ _ => ⟨useF f a ++ useF f b, useP pd⟩
  | .cmpiX _ pd a _ _ => ⟨useX a, useP pd⟩
  | .cmpiY _ pd a _ _ => ⟨useF f a, useP pd⟩
  | .plogX _ pd pa pb _ | .plogY _ pd pa pb _ => ⟨useP pa ++ useP pb, useP pd⟩
  | .selX _ d a b ps => ⟨useX a ++ useX b ++ useP ps, useX d⟩
  | .selY _ d a b ps => ⟨useF f a ++ useF f b ++ useP ps, useF f d⟩
  | .br _ _ | .yield _ | .halt _ | .trap _ _ | .eret _ | .uret _ | .fenceC _ _ _ | .fenceBank _ _ _ | .mrot _ _ _ | .mzero _ _
  | .mdclr _ | .mcopy _ _ _ _ => ⟨[], []⟩
  | .call _ _ => ⟨[], useX 30⟩
  | .ret _ => ⟨useX 30, []⟩
  | .mfsr _ d sr => ⟨useSr sr.toNat, useX d⟩
  | .mtsr _ a sr => ⟨useX a, useSr sr.toNat⟩
  | .setlc _ a _ => ⟨useX a, useSr 1⟩
  | .rdfel _ d => ⟨useSr 2, useX d⟩
  | .clrfel _ => ⟨[], useSr 2⟩
  | .chk _ a _ => ⟨useX a, []⟩
  | .xlat _ h a _ => ⟨useF f a, useH h⟩
  | .hdrop _ h => ⟨[], useH h⟩
  | .hmov _ h src => ⟨useH src, useH h⟩
  | .hinfo _ h d => ⟨useH h, useF f d⟩
  | .lset _ n _ y => ⟨useF f y, useL n⟩
  | .lget _ n _ y => ⟨useL n, useF f y⟩
  | .bset _ n y => ⟨useF f y, useB n⟩
  | .bget _ n y => ⟨useB n, useF f y⟩
  | .ld _ cl t a _ _ _ | .ldz _ cl t a _ _ _ | .ldS _ cl t a _ _ _ | .ldf _ cl t a _ _ _ | .ldfe _ cl t a _ _ _ | .tget _ cl t a _ _ _ =>
    ⟨useY a, useT f cl t⟩
  | .st _ cl t a _ _ _ | .ste _ cl t a _ _ _ | .tset _ cl t a _ _ _ => ⟨useT f cl t ++ useY a, []⟩
  | .ldh _ cl t h o _ _ _ | .ldhz _ cl t h o _ _ _ | .ldhS _ cl t h o _ _ _ => ⟨useH h ++ useY o, useT f cl t⟩
  | .sth _ cl t h o _ _ _ => ⟨useT f cl t ++ useH h ++ useY o, []⟩
  | .ldq _ _ h o _ _ => ⟨useH h ++ useY o, []⟩
  | .qpop _ cl t _ => ⟨[], useT f cl t⟩
  | .ldv _ v a _ _ _ => ⟨useY a, useV v⟩
  | .stv _ v a _ _ _ => ⟨useV v ++ useY a, []⟩
  | .ldvh _ v h o _ _ | .ldvm _ v h o _ => ⟨useH h ++ useY o, useV v⟩
  | .stvh _ v h o _ _ => ⟨useV v ++ useH h ++ useY o, []⟩
  | .ldvg _ v i a _ _ => ⟨useV i ++ useY a, useV v⟩
  | .stvs _ v i a _ _ => ⟨useV v ++ useV i ++ useY a, []⟩
  | .ldvS _ v a _ _ _ => ⟨useY a, useV v ++ useY a⟩
  | .stlink _ t h o _ => ⟨useY t ++ useY (t + 1) ++ useH h ++ useY o, []⟩
  | .ldlink _ t h o _ => ⟨useH h ++ useY o, useY t ++ useY (t + 1)⟩
  | .vadd _ d a b _ _ | .vsub _ d a b _ _ | .vmul _ d a b _ _ | .vmin _ d a b _ _ | .vmax _ d a b _ _ | .vand _ d a b | .vor _ d a b
  | .vxor _ d a b | .vandn _ d a b | .vshl _ d a b _ | .vshr _ d a b _ | .vsra _ d a b _ | .vdiv _ d a b _ _ | .vperm _ d a b
  | .vmerge _ d a b _ _ => ⟨useV a ++ useV b, useV d⟩
  | .vfma _ d a b _ _ | .vfms _ d a b _ _ => ⟨useV d ++ useV a ++ useV b, useV d⟩
  | .vabs _ d a _ _ | .vneg _ d a _ _ | .vsqrt _ d a _ _ | .vrsqrt _ d a _ _ | .vexp2 _ d a | .vcvt _ d a _ _ _ | .vunpk _ d a _ _ _ _
  | .vredadd _ d a _ _ _ | .vredmax _ d a _ _ | .vredmin _ d a _ _ | .vmov _ d a | .vclz _ d a _ | .vpopc _ d a _ => ⟨useV a, useV d⟩
  | .vcmp _ pd a b _ _ => ⟨useV a ++ useV b, useP pd⟩
  | .vsel _ d a b ps => ⟨useV a ++ useV b ++ useP ps, useV d⟩
  | .vpack _ d a _ _ _ _ => ⟨useV d ++ useV a, useV d⟩
  | .vbcast _ d y _ | .vins _ d y _ _ | .viota _ d y _ => ⟨useY y, useV d⟩
  | .vscan _ d a b _ sub _ => ⟨useV a ++ (if sub.getLsbD 1 then useV b else []), useV d⟩
  | .agen _ d a b y => ⟨useV a ++ useV b ++ useY y, useV d⟩
  | .vext _ d y _ _ => ⟨useV d, useY y⟩
  | .mma _ _ a b fmt _ _ sp | .mmaz _ _ a b fmt _ _ sp => ⟨useY a ++ useY b ++ (if fmt.isMx then usePair sp.toNat else []), []⟩
  | .mcon _ _ wc bd y _ => ⟨useW wc ++ useB bd ++ useY y, useB bd⟩
  | .mdrain _ _ y fmt sc _ _ => ⟨useY y, (if fmt.isMx then useSc sc ++ useSc (sc + 8) else [])⟩
  | .mldac _ _ y | .mstac _ _ y | .mhld _ y _ | .mdmap _ y _ => ⟨useY y, []⟩
  | .mord _ _ bd y => ⟨useB bd ++ useY y, useB bd⟩
  | .macv _ _ y v _ => ⟨useY y, useV v⟩
  | .mvac _ _ y v _ => ⟨useY y ++ useV v, []⟩
  | .sld _ sc a _ _ => ⟨useY a, useSc sc⟩
  | .sldh _ sc h o _ => ⟨useH h ++ useY o, useSc sc⟩
  | .sbc _ sc y => ⟨useY y, useSc sc⟩
  | .sst _ sc a _ _ => ⟨useSc sc ++ useY a, []⟩
  | .copy _ k _ h q | .copyg _ k _ h q | .copyx _ k _ h q | .bank _ k h q | .xfer _ k _ h q => ⟨useKs k ++ useH h ++ useQuad q, useK k.kd⟩
  | .binacq _ r q | .waitany _ r q | .binst _ r q | .lalloc _ r q | .lallocM _ r q | .latom _ r _ _ q | .semadd _ r _ q
  | .semcas _ r _ q | .semrd _ r _ q => ⟨useK r.ka ++ useK r.kb ++ useQuad q, useY r.d ++ useP r.pd⟩
  | .binrel _ k q | .binkill _ k q | .lfree _ k q | .bar _ k q | .barw _ k q | .semwait _ k _ _ q => ⟨useKs k ++ useQuad q, useK k.kd⟩
  | .kwait _ ka kb kc | .retire _ ka kb kc => ⟨useK ka ++ useK kb ++ useK kc, []⟩
  | .kjoin _ k => ⟨useKs k, useK k.kd⟩
  | .kpoll _ d pd ka => ⟨useK ka, useY d ++ useP pd⟩
  | .uiarm _ ka | .uidis _ ka => ⟨useK ka, []⟩
  | .walk _ k _ wc q | .wrest _ k wc q | .chain _ k _ wc q => ⟨useKs k ++ useQuad q, useK k.kd ++ useW wc⟩
  | .wnext _ r wc q => ⟨useK r.ka ++ useK r.kb ++ useW wc ++ useQuad q, useY r.d ++ useP r.pd ++ useW wc⟩
  | .wstop _ k wc => ⟨useKs k ++ useW wc, useK k.kd ++ useW wc⟩
  | .wsave _ k wc q => ⟨useKs k ++ useW wc ++ useQuad q, useK k.kd⟩
  | .wbudget _ k wc q => ⟨useKs k ++ useW wc ++ useQuad q, useK k.kd ++ useW wc⟩
  | .fbind _ kd _ _ q => ⟨useQuad q, useK kd⟩
  | .funbind _ kd _ => ⟨[], useK kd⟩
  | .launch _ k hf hn q => ⟨useKs k ++ (if hf then useH hn else []) ++ useQuad q, useK k.kd⟩
  | .emptyBundle _ | .repeatHead _ _ | .repetition | .insertedCycle | .resultArrival _ _ | .slackWindowFreeze _ | .exactResultFreeze _
  | .translationWalkDone _ _ | .queuedLoadArrival _ _ _ | .mQueueEntry _ | .mCommandStart _ | .mCommandComplete _ | .eQueueEntry _
  | .eCommandStart _ | .copyComplete _ | .gleanerHop _ | .bankComplete _ | .xferComplete _ | .launchSnapshot _ | .semwaitTest _
  | .userInterruptTaken _ | .trapTaken _ | .instancePlacement _ | .pendingLevelAging _ | .crossDieWaitExpiry _ | .singleResnapshot _
  | .contextPartEnd _ | .instanceEnd _ | .invalidationAck _ | .preemptSave _ | .resumePlacement _ | .loftRefusal _ _
  | .packetReceive _ _ _ _ _ | .endToEndResend _ _ | .fifoWordDelivery _ | .barrierReport _ | .barrierRelease _
  | .hostReadCompletion _ _ _ | .completionTimeout _ _ | .powerOnReset | .conventionalReset | .functionLevelReset | .start _
  | .startTimeout _ | .thermalTrip _ | .clockThrottle _ _ | .clockRestore _ _ | .plimWrite _ | .hflagWrite _ | .bar0RegisterWrite _ _
  | .plainViewAccess _ _ _ _ | .fillViewWrite _ _ _ _ | .fillViewRead _ _ _ | .unsupportedBar2Access _ _ _ | .setdev _
  | .setroot _ | .settvec _ | .inval _ | .semten _ | .quota _ | .preempt _ | .resume _ | .kill _ | .planelost _
  | .planeclr _ | .faultrec _ | .attest _ | .recover _ | .hbmload _ | .exactResultArrival _ _ | .storePerformed _ _ | .deviceControl2Write _ => ⟨[], []⟩

/-- The predicate fields of a slot word (R36). -/
def guardOf (i : Instr) : Option Guard :=
  match i with
  | .add g _ _ _ _ _ | .sub g _ _ _ _ _ | .and g _ _ _ _ _ | .or g _ _ _ _ _ | .xor g _ _ _ _ _ | .andn g _ _ _ _ _ | .shl g _ _ _ _ _
  | .shr g _ _ _ _ _ | .sra g _ _ _ _ _ | .rol g _ _ _ _ | .mulX g _ _ _ _ | .mulY g _ _ _ _ | .mulh g _ _ _ _ _ | .minX g _ _ _ _ _
  | .minY g _ _ _ _ _ | .maxX g _ _ _ _ _ | .maxY g _ _ _ _ _ | .lea g _ _ _ _ | .sextX g _ _ _ | .sextY g _ _ _ | .zextX g _ _ _
  | .zextY g _ _ _ | .clzX g _ _ _ | .clzY g _ _ _ | .ctz g _ _ _ | .popcX g _ _ _ | .popcY g _ _ _ | .movxy g _ _ _ | .movyx g _ _ _
  | .addi g _ _ _ _ | .andi g _ _ _ _ | .ori g _ _ _ _ | .xori g _ _ _ _ | .shli g _ _ _ _ | .shri g _ _ _ _ | .srai g _ _ _ _
  | .muli g _ _ _ | .liX g _ _ | .liY g _ _ | .lihX g _ _ | .lihY g _ _ | .bextX g _ _ _ _ | .bextY g _ _ _ _ | .bins g _ _ _ _
  | .cmpX g _ _ _ _ _ | .cmpY g _ _ _ _ _ | .cmpiX g _ _ _ _ | .cmpiY g _ _ _ _ | .plogX g _ _ _ _ | .plogY g _ _ _ _
  | .selX g _ _ _ _ | .selY g _ _ _ _ | .br g _ | .call g _ | .jr g _ _ | .ret g | .mfsr g _ _ | .mtsr g _ _ | .setlc g _ _
  | .rdfel g _ | .clrfel g | .yield g | .halt g | .trap g _ | .eret g | .uret g | .chk g _ _ | .xlat g _ _ _ | .hdrop g _
  | .hmov g _ _ | .hinfo g _ _ | .lset g _ _ _ | .lget g _ _ _ | .bset g _ _ | .bget g _ _ | .ld g _ _ _ _ _ _ | .ldz g _ _ _ _ _ _
  | .st g _ _ _ _ _ _ | .ldS g _ _ _ _ _ _ | .ldf g _ _ _ _ _ _ | .ldfe g _ _ _ _ _ _ | .ste g _ _ _ _ _ _ | .tset g _ _ _ _ _ _
  | .tget g _ _ _ _ _ _ | .ldh g _ _ _ _ _ _ _ | .ldhz g _ _ _ _ _ _ _ | .sth g _ _ _ _ _ _ _ | .ldhS g _ _ _ _ _ _ _
  | .ldq g _ _ _ _ _ | .qpop g _ _ _ | .ldv g _ _ _ _ _ | .stv g _ _ _ _ _ | .ldvh g _ _ _ _ _ | .stvh g _ _ _ _ _ | .ldvg g _ _ _ _ _
  | .stvs g _ _ _ _ _ | .ldvm g _ _ _ _ | .ldvS g _ _ _ _ _ | .fenceC g _ _ | .fenceBank g _ _ | .stlink g _ _ _ _ | .ldlink g _ _ _ _
  | .vadd g _ _ _ _ _ | .vsub g _ _ _ _ _ | .vmul g _ _ _ _ _ | .vfma g _ _ _ _ _ | .vfms g _ _ _ _ _ | .vmin g _ _ _ _ _
  | .vmax g _ _ _ _ _ | .vabs g _ _ _ _ | .vneg g _ _ _ _ | .vand g _ _ _ | .vor g _ _ _ | .vxor g _ _ _ | .vandn g _ _ _
  | .vshl g _ _ _ _ | .vshr g _ _ _ _ | .vsra g _ _ _ _ | .vcmp g _ _ _ _ _ | .vsel g _ _ _ _ | .vdiv g _ _ _ _ _ | .vsqrt g _ _ _ _
  | .vrsqrt g _ _ _ _ | .vexp2 g _ _ | .vcvt g _ _ _ _ _ | .vpack g _ _ _ _ _ _ | .vunpk g _ _ _ _ _ _ | .vredadd g _ _ _ _ _
  | .vredmax g _ _ _ _ | .vredmin g _ _ _ _ | .vperm g _ _ _ | .vbcast g _ _ _ | .vmerge g _ _ _ _ _ | .vscan g _ _ _ _ _ _
  | .agen g _ _ _ _ | .vext g _ _ _ _ | .vins g _ _ _ _ | .viota g _ _ _ | .vmov g _ _ | .vclz g _ _ _ | .vpopc g _ _ _
  | .mma g _ _ _ _ _ _ _ | .mmaz g _ _ _ _ _ _ _ | .mcon g _ _ _ _ _ | .mrot g _ _ | .mdrain g _ _ _ _ _ _ | .mzero g _ | .mldac g _ _
  | .mstac g _ _ | .mhld g _ _ | .mdmap g _ _ | .mdclr g | .mord g _ _ _ | .macv g _ _ _ _ | .mvac g _ _ _ _ | .mcopy g _ _ _
  | .sld g _ _ _ _ | .sldh g _ _ _ _ | .sbc g _ _ | .sst g _ _ _ _ | .copy g _ _ _ _ | .copyg g _ _ _ _ | .copyx g _ _ _ _
  | .binacq g _ _ | .binrel g _ _ | .waitany g _ _ | .binst g _ _ | .binkill g _ _ | .kwait g _ _ _ | .kjoin g _ | .kpoll g _ _ _
  | .uiarm g _ | .uidis g _ | .walk g _ _ _ _ | .wnext g _ _ _ | .wstop g _ _ | .wsave g _ _ _ | .wrest g _ _ _ | .wbudget g _ _ _
  | .chain g _ _ _ _ | .bank g _ _ _ | .fbind g _ _ _ _ | .funbind g _ _ | .xfer g _ _ _ _ | .lalloc g _ _ | .lallocM g _ _
  | .lfree g _ _ | .latom g _ _ _ _ | .bar g _ _ | .barw g _ _ | .semadd g _ _ _ | .semcas g _ _ _ | .semwait g _ _ _ _
  | .semrd g _ _ _ | .launch g _ _ _ _ | .retire g _ _ _ => some g
  | .emptyBundle _ | .repeatHead _ _ | .repetition | .insertedCycle | .resultArrival _ _ | .slackWindowFreeze _ | .exactResultFreeze _
  | .translationWalkDone _ _ | .queuedLoadArrival _ _ _ | .mQueueEntry _ | .mCommandStart _ | .mCommandComplete _ | .eQueueEntry _
  | .eCommandStart _ | .copyComplete _ | .gleanerHop _ | .bankComplete _ | .xferComplete _ | .launchSnapshot _ | .semwaitTest _
  | .userInterruptTaken _ | .trapTaken _ | .instancePlacement _ | .pendingLevelAging _ | .crossDieWaitExpiry _ | .singleResnapshot _
  | .contextPartEnd _ | .instanceEnd _ | .invalidationAck _ | .preemptSave _ | .resumePlacement _ | .loftRefusal _ _
  | .packetReceive _ _ _ _ _ | .endToEndResend _ _ | .fifoWordDelivery _ | .barrierReport _ | .barrierRelease _
  | .hostReadCompletion _ _ _ | .completionTimeout _ _ | .powerOnReset | .conventionalReset | .functionLevelReset | .start _
  | .startTimeout _ | .thermalTrip _ | .clockThrottle _ _ | .clockRestore _ _ | .plimWrite _ | .hflagWrite _ | .bar0RegisterWrite _ _
  | .plainViewAccess _ _ _ _ | .fillViewWrite _ _ _ _ | .fillViewRead _ _ _ | .unsupportedBar2Access _ _ _ | .setdev _
  | .setroot _ | .settvec _ | .inval _ | .semten _ | .quota _ | .preempt _ | .resume _ | .kill _ | .planelost _
  | .planeclr _ | .faultrec _ | .attest _ | .recover _ | .hbmload _ | .exactResultArrival _ _ | .storePerformed _ _ | .deviceControl2Write _ => none

/-- The registers a slot word names, its predicate among them (R22). -/
def wordUses (f : Ctx) (i : Instr) : Uses :=
  let u := slotUses f i
  match guardOf i with
  | some g => ⟨useP g.pred ++ u.reads, u.writes⟩
  | none => u

/-- What a repeat head reads beside its slots (R103). -/
def headUses : List Nat := useSr 1 ++ useSr 6 ++ useSr 7 ++ useSr 8

/-! ### The check of a bundle -/

/-- R22: whether a word conflicts with what the group has read and written so far. -/
def Uses.clash (u : Uses) (reads writes : List Nat) : Bool :=
  ((u.reads ++ u.writes).any fun n => writes.contains n) || (u.writes.any fun n => reads.contains n)

/-- The branches (R93) and chk, which branches as they do (R341): three delay bundles follow them. -/
def isBranch : Instr → Bool
  | .br _ _ => true
  | .call _ _ => true
  | .jr _ _ _ => true
  | .ret _ => true
  | .chk _ _ _ => true
  | _ => false

/-- R94: what may not stand in a delay bundle. -/
def isTransfer (i : Instr) : Bool :=
  isBranch i ||
    (match i with
     | .trap _ _ => true
     | .eret _ => true
     | .uret _ => true
     | _ => false)

/-- R106: eret and uret stand alone in their bundle. -/
def isReturn : Instr → Bool
  | .eret _ => true
  | .uret _ => true
  | _ => false

/-- ILLEGAL_GROUP at a word (R333). -/
def groupTrap (slot : Nat) (w : Nat) : TrapRec := ⟨3, slot, BitVec.ofNat 64 (w % 2 ^ 32), false, none⟩

/-- Whether the next bundle is a delay bundle of a branch, taken or not (R24, R26). -/
def Ctx.inDelay (k : Ctx) : Bool := k.branch.isSome || k.delay != 0

/-- The words of a bundle against the group (R22), in slot order; answers the reads and writes with them. -/
def groupWalk (k : Ctx) : List (SlotKind × Instr) → List Nat → List Nat → List Nat → Except TrapRec (List Nat × List Nat)
  | (sk, i) :: ss, w :: ws, rd, wr =>
    let u := wordUses k i
    if u.clash rd wr then .error (groupTrap sk.code w) else groupWalk k ss ws (rd ++ u.reads) (wr ++ u.writes)
  | _, _, rd, wr => .ok (rd, wr)

/-- R53 step 5: the group and delay-bundle rules. `words` are the header and the slot words. -/
def checkGroup (k : Ctx) (slots : List (SlotKind × Instr)) (words : List Nat) (head : Bool) : Except TrapRec (List Nat × List Nat) :=
  let hw := words.headD 0
  let ws := words.tail
  if 8 ≤ k.group.count then .error (groupTrap 7 hw)
  else if k.inDelay ∧ (slots.any fun p => isTransfer p.2) = true then .error (groupTrap 0 (ws.headD 0))
  else if (slots.any fun p => isReturn p.2) = true ∧ 1 < slots.length then .error (groupTrap 0 (ws.headD 0))
  else
    let base := if head then headUses else []
    if head ∧ (base.any fun n => k.group.writes.contains n) = true then .error (groupTrap 7 hw)
    else groupWalk k slots ws (k.group.reads ++ base) k.group.writes

end Sys2Proof.Machine
end

