-- ==== Sys2Proof/Machine/Repeat.lean ====
section
/-!
DEFINITION. Empty bundles (R33) and repeats (R48 to R50, R103, R176 to R178, R338): the checks of a repeat head, the loop
buffer, and a repetition of the M slot's command with the advance of its address registers.
-/

namespace Sys2Proof.Machine

/-! ### The M slot of a repeat -/

/-- The M instruction of a repeat, with LEND_M read as 000 (R48) and, once its predicate has been read, always enabled
(R178). -/
def repeatInstr (mword : W32) : Option Instr :=
  match decodeSlot .M mword.toNat 0 with
  | .ok i => some i
  | .error _ => none

/-- The address registers that a repeat advances: the first by RSTA, the second, of a product, by RSTB (R177). -/
def advanced (i : Instr) : List (BitVec 5 × Bool) :=
  match i with
  | .mma _ _ a b _ _ _ _ => [(a, false), (b, true)]
  | .mmaz _ _ a b _ _ _ _ => [(a, false), (b, true)]
  | .mdrain _ _ y _ _ _ _ => [(y, false)]
  | .mldac _ _ y => [(y, false)]
  | .mstac _ _ y => [(y, false)]
  | _ => []

/-- The command of one repetition, its predicate already read (R178). -/
def repeatCommand (i : Instr) (s : State) : Host.Outcome State Fault Refusal :=
  match i with
  | .mma _ ac a b fmt ca dm sp => execMma ⟨false, 0⟩ ac a b fmt ca dm sp s
  | .mmaz _ ac a b fmt ca dm sp => execMmaz ⟨false, 0⟩ ac a b fmt ca dm sp s
  | .mdrain _ ac y fmt sc cmp rnd => execMdrain ⟨false, 0⟩ ac y fmt sc cmp rnd s
  | .mldac _ ac y => execMldac ⟨false, 0⟩ ac y s
  | .mstac _ ac y => execMstac ⟨false, 0⟩ ac y s
  | _ => .next s

/-- R177: an advanced register holds its value plus the stride from the next cycle on. A result issued before the head that lands in
it during the repeat replaces that value (log entry 101). -/
def advance (p : Rep) : List (BitVec 5 × Bool) → Exec Unit
  | [] => pure ()
  | (y, second) :: ys => do
    let r ← readY y
    exact (.y y ⟨r.val + (if second then p.sb else p.sa), r.poison⟩) 1
    advance p ys

/-- One repetition (R176 to R178): the command, and the advance after it. -/
def State.repetition (s : State) (p : Rep) : Host.Outcome State Fault Refusal :=
  match repeatInstr p.mword with
  | none => .next s
  | some i =>
    if p.on then
      match repeatCommand i { s with status := .ok } with
      | .next t => if t.status = .ok then runBody (advance p (advanced i)) t else .next t
      | o => o
    else .next s

/-! ### The repeat head -/

/-- The loop buffer: the words of `n` bundles from an address, and the address after them (R49). -/
def State.readBody (s : State) (va : Nat) : Nat → Except TrapRec (List (Nat × List W32) × Nat) × State
  | 0 => (.ok ([], va), s)
  | n + 1 =>
    match s.fetchWord va with
    | (.error r, t) => (.error r, t)
    | (.ok h, t) =>
      match t.fetchWords (va + 4) (headerSlots h.toNat).length with
      | (.error r, u) => (.error r, u)
      | (.ok ws, u) =>
        match u.readBody (va + bundleSize h.toNat) n with
        | (.error r, v) => (.error r, v)
        | (.ok (bs, after), v) => (.ok ((va, h :: ws) :: bs, after), v)

/-- R49: what no body bundle may hold: an M slot, REP, an X opcode from 0x24 to 0x32. -/
def bodyBad (ws : List W32) : Bool :=
  let h := (ws.headD 0).toNat
  bitAt h (maskBit .M) || bitAt h 23 ||
    (bitAt h (maskBit .X) &&
      (let op := bits (ws.tail.headD 0).toNat 26 6
       decide (0x24 ≤ op ∧ op ≤ 0x32)))

/-- R177: whether a body bundle writes an advanced register. A bundle that does not decode traps when it issues (R49). -/
def bodyWrites (k : Ctx) (ys : List Nat) (ws : List W32) : Bool :=
  match decodeBundle (ws.headD 0).toNat (ws.tail.map BitVec.toNat) with
  | .error _ => false
  | .ok b => b.slots.any fun p => (wordUses k p.2).writes.any ys.contains

/-- R49, R177, R329: the checks of a repeat head at the running context's PC with header `hw` and the M word; answers the loop
buffer and the address after the body. The checks that need no body stand before the body's fetch, and that before the checks of its words
(log entry 133). -/
def State.headCheck (s : State) (hw : Nat) (len : BitVec 3) (mword : W32) :
    Except TrapRec (List (Nat × List W32) × Nat) × State :=
  let k := s.here
  if k.handler ∨ k.inDelay = true then (.error (groupTrap 7 hw), s)
  else
    match s.readBody (k.pc.toNat + bundleSize hw) (len.toNat + 1) with
    | (.error r, t) => (.error r, t)
    | (.ok (body, after), t) =>
      let ys := match repeatInstr mword with
        | none => []
        | some i => (advanced i).flatMap fun p => useY p.1
      if (body.any fun p => bodyBad p.2) = true then (.error (groupTrap 7 hw), t)
      else if (body.any fun p => bodyWrites k ys p.2) = true then (.error (groupTrap 7 hw), t)
      else (.ok (body, after), t)

/-- The repeat state at the head (R103, R176, R178, R338). -/
def Ctx.startRep (k : Ctx) (mword : W32) (body : List (Nat × List W32)) (after : Nat) : Rep :=
  { head := k.pc.toNat, left := k.sr.lc.toNat, r := 0, mword := mword, body := body, after := after
    on := (match (repeatInstr mword).bind guardOf with
      | some g => k.enabled g
      | none => false)
    sa := k.sr.rsta, sb := k.sr.rstb }

/-- A repeat head's M slot (R176): the head reads LC and the strides, and issues repetition 0 when LC is not 0. A head whose repetition 0
traps, blocks or freezes leaves no repeat state: ECAUSE.REP is 0, and the head issues afresh (log entry 148). -/
def execRepeatHead (len : BitVec 3) (mword : W32) (s : State) : Host.Outcome State Fault Refusal :=
  match s.headCheck s.header.toNat len mword with
  | (.error r, _) => .next (s.takeTrap r)
  | (.ok (body, after), _) =>
    let p := s.here.startRep mword body after
    let s1 := s.setHere { s.here with rep := some p }
    if p.left = 0 then .next s1
    else
      match s1.repetition p with
      | .next t =>
        (match t.status with
         | .trapped r => .next (s.takeTrap r)
         | .blocked a => .next (s.block a)
         | .frozen => .next s.freeze
         | .frozenPast p => .next (s.freezePast p)
         | _ => .next t)
      | o => o

/-- A repetition after the first, in the cycle of the body bundle that it issues with (R176). -/
def execRepetition (s : State) : Host.Outcome State Fault Refusal :=
  match s.here.rep with
  | some p => s.repetition p
  | none => .fault (.notEnabled "repetition")

/-! ### Empty bundles -/

/-- R33: an empty bundle takes one architectural cycle; its STOP bit ends a group. -/
def execEmptyBundle (stop : Bool) (s : State) : Host.Outcome State Fault Refusal :=
  let k := s.here
  .next (s.setHere (k.endBundle k.branch 4 false (k.group.after [] [] stop)))

end Sys2Proof.Machine
end

