-- ==== Sys2Proof/Machine/CodeFetch.lean ====
section
/-!
DEFINITION. Which words the fetch of a bundle reads (R49, R53, R57), and what that decides: a word that a fenced store is still to
change (R58), and a word that is read from a host page (R219).
-/

namespace Sys2Proof.Machine

/-- The addresses of the headers of `n` bundles from an address, as far as they can be fetched. -/
def State.headerAddrs (s : State) (va : Nat) : Nat → List Nat
  | 0 => []
  | n + 1 =>
    match s.fetchWord va with
    | (.error _, _) => []
    | (.ok h, t) => va :: t.headerAddrs (va + bundleSize h.toNat) n

/-- The addresses of the words of `n` bundles from an address, up to the first that cannot be fetched. -/
def State.bundleAddrs (s : State) (va : Nat) : Nat → List Nat
  | 0 => []
  | n + 1 =>
    match s.fetchWord va with
    | (.error _, _) => []
    | (.ok h, t) =>
      let own := (List.range ((headerSlots h.toNat).length + 1)).map fun i => va + 4 * i
      let good := own.takeWhile fun a => (t.fetchWord a).1.isOk
      if good.length < own.length then good else good ++ t.bundleAddrs (va + bundleSize h.toNat) n

/-- The addresses that a bundle of some words, at an address of the running context, reads beyond its own: the three headers that a call or
jr needs (R57), and the body of a repeat head (R49). -/
def State.furtherAddrs (s : State) (va hw : Nat) (ws : List Nat) : List Nat :=
  let next := va + bundleSize hw
  let op := bits (ws.headD 0) 26 6
  let call : Bool := bitAt hw (maskBit .X) && (op == 0x25 || op == 0x26)
  let heads := if call then s.headerAddrs next 3 else []
  if call ∧ heads.length < 3 then heads
  else
    match decodeBundle hw ws with
    | .error _ => heads
    | .ok b =>
      match b.rep with
      | none => heads
      | some len => if s.here.handler ∨ s.here.inDelay = true then heads else heads ++ s.bundleAddrs next (len.toNat + 1)

/-- The addresses of the words that the fetch of a bundle reads, in their order, up to the first that cannot be fetched. -/
def State.fetchAddrs (s : State) (va : Nat) : List Nat :=
  let own := s.bundleAddrs va 1
  match s.fetchWord va with
  | (.error _, _) => own
  | (.ok h, t) =>
    match t.fetchWords (va + 4) (headerSlots h.toNat).length with
    | (.error _, _) => own
    | (.ok ws, u) => own ++ u.furtherAddrs va h.toNat (ws.map BitVec.toNat)

/-- The handle of the page of a word of code, and the word's offset in it. -/
def State.codePage (s : State) (va : Nat) : Option (Handle × Nat) :=
  match s.translate (dieOf s.cur) s.here.sr.tenant va with
  | (some h, _) => some (h, va % pageBytes h.size)
  | (none, _) => none

/-- Whether one context lies in a scope of another (R232). -/
def inScope (scope a b : Nat) : Bool :=
  match scope with
  | 0 => a == b
  | 1 => coreOf a == coreOf b
  | 2 => clusterOf a == clusterOf b
  | 3 => dieOf a == dieOf b
  | 4 => dieOf a == dieOf b
  | _ => true

/-- Whether, among a context's stores, one to bytes from a key on stands before a fence of its class whose scope holds
another context (R58). -/
def fencedStore (src dst key n : Nat) : List Pend → Bool
  | [] => false
  | .store _ _ c a bs _ :: ps =>
    (decide (a < key + n) && decide (key < a + bs.length) && ps.any fun p =>
      match p with
      | .fence m sc _ => m.getLsbD c.toNat && decide (1 ≤ sc.toNat) && inScope sc.toNat src dst
      | .store _ _ _ _ _ _ => false) || fencedStore src dst key n ps
  | .fence _ _ _ :: ps => fencedStore src dst key n ps

/-- R58: whether the fetch at a PC meets a word that a store is still to change which a fence has made due; it waits for that store. -/
def State.codeHeld (s : State) : Bool :=
  (s.ctxs.any fun p => !p.2.stores.isEmpty) && s.here.rep.isNone &&
    (s.fetchAddrs s.here.pc.toNat).any fun va => (s.codePage va).any fun h =>
      s.ctxs.any fun p => fencedStore p.1 s.cur (h.1.key h.2) 4 p.2.stores

/-- Word `j`, in their order, of those that the fetch at the PC reads from a host page (R219); a body bundle is fetched with its head
(R49). -/
def State.hostFetch (s : State) (j : Nat) : Option Nat :=
  if s.here.rep.isNone then ((s.fetchAddrs s.here.pc.toNat).filter fun va => (s.codePage va).any fun h => h.1.tgt == 2)[j]? else none

end Sys2Proof.Machine
end

