-- ==== Sys2Proof/Machine/Walk.lean ====
section
/-!
DEFINITION. Walks (R286 to R306): the E slot's walk instructions, what gleaner commands do when they start, and the hops.
-/

namespace Sys2Proof.Machine

/-! ### Issue (R293, R298, R306) -/

/-- The bins of a walk: 8G to 8G + D − 1. -/
def binsUsable (s : State) (c g d : Nat) : Bool :=
  (List.range d).all fun i =>
    let b := s.bin (binKey (clusterOf c) (8 * g + i))
    b.state == 0 || b.tenant == some (s.ctx c).sr.tenant

/-- The cursor that walk and chain write (R293). -/
def newCursor (link : BitVec 128) (core : Bool) (furrow : Nat) (zl ctl : W64) : Cursor :=
  let budget := if bits ctl.toNat 0 16 = 0 then 65535 else bits ctl.toNat 0 16
  Cursor.setLink (BitVec.ofNat 256 (5 * 2 ^ 252 + bits ctl.toNat 31 1 * 2 ^ 251 + bits ctl.toNat 16 3 * 2 ^ 248 + bits ctl.toNat 24 5 * 2 ^ 240 +
    core.toNat * 2 ^ 231 + budget * 2 ^ 176 + bits zl.toNat 32 9 * 2 ^ 160 + bits zl.toNat 0 23 * 2 ^ 128 + furrow * 2 ^ 124)) link

/-- walk and chain at issue: the checks of R293 in order, the cursor, and the command. -/
def issueWalk (core : Bool) (k : KE) (f : BitVec 2) (wc q : BitVec 3) : Exec Unit := do
  let (lo, hi, zl, ctl) ← quadAll q
  let s ← get
  let st := (s.here.regs.rw wc).state
  checkPriv (st == 0 || st == 3 || st == 4) 0
  let land := bits zl.toNat 0 23
  let z := bits zl.toNat 32 16
  let d := bits ctl.toNat 16 3 + 1
  checkAlign land 128 land
  checkPriv (decide (1 ≤ z ∧ z ≤ 257)) 0
  checkRange land (256 * z * d)
  checkPriv (binsUsable s s.cur (bits ctl.toNat 24 5) d) 0
  let link := hi ++ lo
  exact (.w wc (newCursor link core f.toNat zl ctl)) 1
  let ks ← consumed (usesOf k)
  let _ ← issueE k.kd ks .gleaner (.walk wc.toNat link land (256 * z * d)) []

def execWalk (g : Guard) (k : KE) (f : BitVec 2) (wc q : BitVec 3) (s : State) := runSlot g (issueWalk false k f wc q) s
def execChain (g : Guard) (k : KE) (f : BitVec 2) (wc q : BitVec 3) (s : State) := runSlot g (issueWalk true k f wc q) s

def execWstop (g : Guard) (k : KE) (wc : BitVec 3) (s : State) :=
  runSlot g (do
    let ks ← consumed (usesOf k)
    let _ ← issueE k.kd ks .gleaner (.wstop wc.toNat) []) s

def execWbudget (g : Guard) (k : KE) (wc q : BitVec 3) (s : State) :=
  runSlot g (do
    let v ← needQuad q 0
    let ks ← consumed (usesOf k)
    let _ ← issueE k.kd ks .gleaner (.wbudget wc.toNat (v.setWidth 16)) []) s

/-- The image's address of wsave and wrest (R298). -/
def imageAddr (q : BitVec 3) : Exec Nat := do
  let a := (← needQuad q 0).toNat
  checkAlign a 32 a
  checkRange a 32
  return a

/-- R298: the image is an access of class c0, so it comes after the context's earlier ones of that class (R231). -/
def execWsave (g : Guard) (k : KE) (wc q : BitVec 3) (s : State) :=
  runSlot g (do
    let a ← imageAddr q
    let before ← accessBefore 0
    let ks ← consumed (usesOf k)
    let _ ← issueE k.kd ks .gleaner (.wsave wc.toNat a) before) s

def execWrest (g : Guard) (k : KE) (wc q : BitVec 3) (s : State) :=
  runSlot g (do
    let a ← imageAddr q
    let w := s.here.regs.rw wc
    checkPriv (!(w.state == 1 || w.state == 2 || w.state == 5)) 0
    let before ← accessBefore 0
    exact (.w wc (w.setState 5)) 1
    let ks ← consumed (usesOf k)
    let _ ← issueE k.kd ks .gleaner (.wrest wc.toNat a) before) s

/-! ### wnext (R297) -/

/-- The trap of a reason (R295). -/
def reasonTrap (r : Nat) : Nat :=
  if r = 5 then 12 else if r = 6 then 14 else if r = 7 then 13 else if r = 8 then 15 else if r = 9 then 17 else if r = 10 then 16 else 11

/-- EINFO of a reason for a hop's or a cursor's KIND and ADDR (R333). -/
def reasonInfo (r : Nat) (link : BitVec 128) : Nat := r * 2 ^ 56 + bits link.toNat 126 2 * 2 ^ 54 + bits link.toNat 0 52

/-- Raises the trap of a reason; `report` names the cursor when the walk itself reports it. -/
def raiseReason (r info : Nat) (report : Option Nat) : Exec Unit := stop (.trap ⟨reasonTrap r, 5, BitVec.ofNat 64 info, false, report.map .walk⟩)

def setCursor (w : Nat) (v : Cursor) : Exec Unit := modify fun s => s.setHere (s.here.setCursor w v)

/-- The results of a wnext that finds the walk over (R297). -/
def wnextEnd (r : EYF) (w : Nat) (c : Cursor) : Exec Unit := do
  setCursor w (c.setState 3)
  putEY r 0 true

def execWnext (g : Guard) (r : EYF) (wc _q : BitVec 3) (s : State) :=
  runSlot g (do
    awaitTokens [r.ka, r.kb]
    let w := wc.toNat
    let c := s.here.regs.rw wc
    let cl := clusterOf s.cur
    raiseIf (c.state == 0) 5 .E 0
    stopIf (c.state == 5) .block
    if c.state = 3 then putEY r 0 true
    else if c.state = 4 ∧ c.reason = 0 then wnextEnd r w c
    else if c.state = 4 then raiseReason c.reason (if c.reason = 10 then 8 * c.group + c.next else reasonInfo c.reason c.link) none
    else
      match s.walkOf s.cur w with
      | none => stop .block
      | some x =>
        if x.endAt = some x.delivered then do
          modify fun t => t.dropWalk x
          wnextEnd r w c
        else
          match (if (x.reason.map Prod.fst) = some x.delivered then x.reason else none) with
          | some (_, n, link) =>
            if pauses n && x.armed && !(n == 6 && c.budget == 0) then stop (.blockWith (.rehop w))
            else raiseReason n (if n = 10 then 8 * c.group + c.next else reasonInfo n link) (some w)
          | none => do
            let bins := (List.range c.depth).map fun i => s.bin (binKey cl (c.bin i))
            raiseIf (bins.all fun b => b.state == 3) 19 .E 3
            let n := c.bin c.next
            let b := s.bin (binKey cl n)
            raiseIf b.poison 16 .E n
            match x.landed with
            | [] => stop .block
            | l :: ls => do
              stopIf (b.state != 2) .block
              let _ ← takeBin n
              modify fun t => t.putWalk { x with landed := ls, delivered := x.delivered + 1, kept := false }
              setCursor w ((Cursor.set (c.setLink l.link) 245 3 ((c.next + 1) % c.depth)).setState 2)
              putEY r (binRef n b) false) s

/-! ### Starting gleaner commands (R291, R298, R299) -/

/-- R291: a walk slot is free in the cluster. -/
def State.slotFree (s : State) (c : Nat) : Bool := decide ((s.walks.filter fun w => clusterOf w.ctx == clusterOf c).length < 64)

/-- A walk takes a slot under a cursor that has just been set (R293, R299), with the number of the command that starts it. -/
def State.addWalk (s : State) (id c wc tok : Nat) (cu : Cursor) (link : BitVec 128) (restart : Bool) : State :=
  let s1 := s.setCtx c ((s.ctx c).setCursor wc cu)
  { s1 with
    walks := s1.walks ++ [{ id := id, ctx := c, wc := wc, tok := tok, hop := 0, link := link, next := cu.next, restart := restart,
                            reread := restart, filling := false, src := 0, page := none, landed := [], delivered := 0, armed := false,
                            endAt := none, reason := none, kept := false }] }

/-- A gleaner command leaves the queue without its token completing: the walk's token it is. -/
def State.passE (s : State) (c : ECmd) : State := { s with ecmds := s.ecmds.filter fun d => d.id != c.id }.cmdDone c.ctx c.id

/-- R293: hop 0 follows the link that the command read, all its bits. -/
def State.startWalk (s : State) (c : ECmd) (wc : Nat) (link : BitVec 128) : State :=
  let cu := vget (s.ctx c.ctx).regs.w wc 0
  (s.passE c).addWalk c.id c.ctx wc c.tok (cu.setState 1) link false

/-- A live walk (R298): in STATE 1 or 2 with its slot. A walk that stands saved has no slot and is not live (log entry 146). -/
def State.liveWalk (s : State) (c wc : Nat) : Option Walk :=
  let st := (vget (s.ctx c).regs.w wc 0).state
  if st = 1 ∨ st = 2 then s.walkOf c wc else none

/-- R298: a live walk is stopped as wstop stops it. -/
def State.stopWalk (s : State) (w : Walk) : State :=
  let s1 := ((freeUnread s (clusterOf w.ctx) w.landed).dropWalk w).finishTok w.tok 11
  let k := s1.ctx w.ctx
  s1.setCtx w.ctx (k.setCursor w.wc (((vget k.regs.w w.wc 0).setState 4).setReason 0))

def State.startWstop (s : State) (c : ECmd) (wc : Nat) : State :=
  match s.liveWalk c.ctx wc with
  | none => s.dropE c 13
  | some w => (s.stopWalk w).dropE c 0

def State.startWbudget (s : State) (c : ECmd) (wc : Nat) (v : BitVec 16) : State :=
  match s.liveWalk c.ctx wc with
  | none => s.dropE c 13
  | some _ =>
    let k := s.ctx c.ctx
    (s.setCtx c.ctx (k.setCursor wc ((vget k.regs.w wc 0).setBudget (if v = 0 then 65535 else v.toNat)))).dropE c 0

def State.startWsave (s : State) (c : ECmd) (wc a : Nat) : State :=
  { s with mem := writeCells s.mem (spadKey (clusterOf c.ctx) a) (leBytes 32 (vget (s.ctx c.ctx).regs.w wc 0).toNat) }.dropE c 0

/-- R298: an image that wrest may restart. -/
def imageOk (s : State) (c : Nat) (v : Cursor) : Bool :=
  decide (1 ≤ v.state ∧ v.state ≤ 4) && v.field 192 39 == 0 && v.field 169 7 == 0 && v.field 151 9 == 0 && v.field 96 8 == 0 &&
  v.field 52 12 == 0 && decide (1 ≤ v.z ∧ v.z ≤ 257) && v.land % 128 == 0 && binsUsable s c v.group v.depth

def State.wrestImage (s : State) (c : ECmd) (a : Nat) : Cursor := BitVec.ofNat 256 (leNat (readCells s.mem (spadKey (clusterOf c.ctx) a) 32))

/-- R299: a walk restarts from a cursor in STATE 1, 2 or 4; in STATE 3 it is over. REASON stays as the image has it until the walk reports
one of its own (log entry 124). -/
def State.restartWalk (s : State) (id c wc tok : Nat) (v : Cursor) : State :=
  if v.state = 3 then (s.setCtx c ((s.ctx c).setCursor wc v)).finishTok tok 0
  else if v.state = 1 then s.addWalk id c wc tok v v.link false
  else s.addWalk id c wc tok (v.setState 2) v.link true

def State.startWrest (s : State) (c : ECmd) (wc a : Nat) : State :=
  let v := s.wrestImage c a
  if imageOk s c.ctx v then (s.passE c).restartWalk c.id c.ctx wc c.tok v
  else
    let k := s.ctx c.ctx
    (s.setCtx c.ctx (k.setCursor wc ((vget k.regs.w wc 0).setState 0))).dropE c 7

/-- Whether a cursor that walk, chain or wrest has written is not visible yet (R13, R293), in the context or where it was interrupted; the walk
starts from the visible one. -/
def Ctx.cursorDue (k : Ctx) (wc : Nat) : Bool :=
  (k.flight ++ (k.trapRet.elim [] Saved.flight ++ k.uiRet.elim [] Saved.flight)).any fun f => !f.landed &&
    match f.res with
    | .w d _ => d.toNat == wc
    | _ => false

/-- Whether a gleaner command may start (R291, R297, R298). -/
def State.gleanerReady (s : State) (c : ECmd) : Bool :=
  match c.op with
  | .walk wc _ _ _ => s.slotFree c.ctx && !(s.ctx c.ctx).cursorDue wc
  | .wstop wc => match s.liveWalk c.ctx wc with
    | none => true
    | some w => !w.filling
  | .wsave wc _ => (vget (s.ctx c.ctx).regs.w wc 0).state != 5
  | .wrest wc a => !(s.ctx c.ctx).cursorDue wc &&
    ((s.wrestImage c a).state == 3 || s.slotFree c.ctx || !imageOk s c.ctx (s.wrestImage c a))
  | _ => true

/-! ### Hops (R289, R294 to R296, R300, R306) -/

/-- R289: the reason a link is malformed for, if it is; KIND 00 is treated apart. -/
def linkReason (own : Nat) (l : BitVec 128) : Nat :=
  let kind := bits l.toNat 126 2
  let dev := bits l.toNat 104 20
  if bits l.toNat 124 2 ≠ 0 ∨ bits l.toNat 0 64 % 128 ≠ 0 ∨ bits l.toNat 52 12 ≠ 0 then 2
  else if (kind = 1 ∧ dev ≠ 0) ∨ (kind = 2 ∧ dev = own) ∨ (kind = 3 ∧ (dev / 32 ≠ 0 ∨ 23 < dev % 32)) then 3
  else 0

/-- Where a hop's sheaf lies: a memory key, the bytes left in its page, the loft plane and offset if it is there, and the page, if it is
one of this package's translations. -/
structure Reached where
  key : Nat
  room : Nat
  loft : Option (Nat × Nat)
  page : Option Handle
  deriving DecidableEq, Repr

/-- R294 Reach, R300: the sheaf of a link, or the reason it cannot be reached. A lost plane stands before the translation (log entry
143). -/
def State.reach (s : State) (c : Nat) (l : BitVec 128) : Except Nat Reached × State :=
  let tenant := (s.ctx c).sr.tenant
  let kind := bits l.toNat 126 2
  let dev := bits l.toNat 104 20
  let addr := bits l.toNat 0 52
  if kind = 2 then
    if dev / 256 ≠ s.device.toNat / 256 ∨ !s.present.contains dev ∨ s.unreachable.contains dev then (.error 8, s)
    else
      match s.remote.find? fun p => p.dev == dev && p.tenant == tenant && decide (p.base ≤ addr ∧ addr < p.base + p.size) with
      | none => (.error 7, s)
      | some p =>
        if p.hbm && p.perm.getLsbD 2 then (.ok ⟨remoteKey dev tenant.toNat addr, p.base + p.size - addr, none, none⟩, s.acked dev 2) else (.error 7, s)
  else if kind = 3 ∧ s.lost.contains (dev % 32) then (.error 9, s)
  else
    match s.translate (dieOf c) tenant addr with
    | (none, t) => (.error 7, t)
    | (some h, t) =>
      let o := addr % pageBytes h.size
      let pa := h.ppn.toNat * 65536 + o
      if !h.r || h.cview != 0 then (.error 7, t)
      else if kind = 3 then
        if h.tgt = 1 ∧ h.plane.toNat = dev % 32 ∧ (t.extentOf h.plane.toNat pa 128 tenant).isSome = true then
          (.ok ⟨t.loftRead h o 128 tenant, pageBytes h.size - o, some (h.plane.toNat, pa), some h⟩, t)
        else (.error 7, t)
      else if h.tgt = 0 then (.ok ⟨hbmKey pa, pageBytes h.size - o, none, some h⟩, t)
      else (.error 7, t)

/-- The completion code of a stop (R295). -/
def stopCode (r : Nat) : Nat := if r = 5 then 9 else if r = 9 then 12 else if r = 10 then 5 else 10

/-- Pause(i, r) or Stop(i, r) (R295). -/
def State.recordReason (s : State) (w : Walk) (i r : Nat) (l : BitVec 128) : State :=
  let s1 := s.putWalk { w with reason := some (i, r, l), filling := false }
  if pauses r then s1 else s1.finishTok w.tok (stopCode r)

/-- A link with its GEN replaced by that of the header (R292, R297). -/
def withGen (l : BitVec 128) (g : Nat) : BitVec 128 := BitVec.ofNat 128 (l.toNat - bits l.toNat 64 32 * 2 ^ 64 + g % 2 ^ 32 * 2 ^ 64)

/-- Whether hop i checks the target's GEN and spends a unit of budget (R294, R299). -/
def Walk.later (w : Walk) : Bool := decide (1 ≤ w.hop) || w.restart

/-- R299: a restarted walk reads the header of the last sheaf delivered. That link has been checked when the sheaf was; the read makes
none of R289's checks again (log entry 123). -/
def State.rereadHop (s : State) (w : Walk) (cu : Cursor) : State :=
  match s.reach w.ctx cu.link with
  | (.error r, t) => t.recordReason w 0 r cu.link
  | (.ok p, t) =>
    let h := readCells t.mem p.key 128
    if leNat ((h.drop 64).take 4) ≠ cu.gen then t.recordReason w 0 5 cu.link
    else t.putWalk { w with reread := false, link := BitVec.ofNat 128 (leNat ((h.drop (16 * cu.furrow)).take 16)) }

/-- The fill of a hop starts: the header is read and written to the bin (R294). A chain's check that the sheaf is a core (R306) stands
behind those of its GEN and size, and before the budget is spent (log entry 125); so does the refusal of a loft payload beyond the extent
(log entry 142). -/
def State.beginFill (s : State) (w : Walk) (cu : Cursor) (p : Reached) : State :=
  let l := w.link
  let cl := clusterOf w.ctx
  let tenant := (s.ctx w.ctx).sr.tenant
  let h := readCells s.mem p.key 128
  let g1 := leNat ((h.drop 64).take 4)
  let size := 128 + leNat ((h.drop 72).take 4)
  if (w.later || cu.chk) && g1 != bits l.toNat 64 32 then s.recordReason w w.hop 5 l
  else if 65536 + 128 < size ∨ 256 * cu.z < size ∨ p.room < size then s.recordReason w w.hop 4 l
  else if cu.core && !(coreRec (h.drop 64)).ok then s.recordReason w w.hop 4 l
  else if (match p.loft with
      | none => false
      | some (pl, pa) => (s.extentOf pl pa size tenant).isNone) then s.recordReason w w.hop 7 l
  else
    let b := cu.bin w.next
    let base := cu.land + 256 * cu.z * (b - 8 * cu.group)
    let s1 := if w.later then s.setCtx w.ctx ((s.ctx w.ctx).setCursor w.wc (cu.setBudget (cu.budget - 1))) else s
    let s2 := { s1 with mem := writeCells s1.mem (spadKey cl base) h }.setBin (binKey cl b)
      ⟨1, false, 0, BitVec.ofNat 21 size, BitVec.ofNat 23 base, some tenant⟩
    s2.putWalk { w with filling := true, src := p.key, page := p.page, landed := w.landed ++ [⟨w.hop, b, withGen l g1⟩]
                        link := BitVec.ofNat 128 (leNat ((h.drop (16 * cu.furrow)).take 16)) }

/-- Why the reads of a sheaf by its link fail once the hop has reached it: its package is unreachable (8), its plane is lost (9), or its
extent is no longer the tenant's (7) (R295, R300, R374). -/
def State.readFails (s : State) (c : Nat) (link : BitVec 128) (src size : Nat) : Option Nat :=
  let kind := bits link.toNat 126 2
  let dev := bits link.toNat 104 20
  if kind = 2 then if s.unreachable.contains dev || !s.present.contains dev then some 8 else none
  else if kind = 3 then
    if s.lost.contains (dev % 32) then some 9
    else if (s.extentOf (dev % 32) (src % 2 ^ 64) size (s.ctx c).sr.tenant).isNone then some 7
    else none
  else none

/-- Whether the bundle a context has next holds a wnext of a cursor. -/
def State.awaits (s : State) (c w : Nat) : Bool :=
  let t := { s with cur := c }
  let va := (s.ctx c).pc.toNat
  match t.fetchWord va with
  | (.error _, _) => false
  | (.ok h, u) =>
    match (u.fetchWords (va + 4) (headerSlots h.toNat).length).1 with
    | .error _ => false
    | .ok ws =>
      match decodeBundle h.toNat (ws.map BitVec.toNat) with
      | .error _ => false
      | .ok b => b.slots.any fun p =>
          match p.2 with
          | .wnext _ _ wc _ => wc.toNat == w
          | _ => false

/-- Whether the sheaf that a walk has just landed is the one that a blocked wnext of its context waits for (R345). -/
def State.meetsWnext (s : State) (w : Walk) : Bool :=
  decide (w.landed.length = 1) && (s.ctx w.ctx).run == .blocked && s.awaits w.ctx w.wc

/-- A sheaf's payload and the second read of its GEN are read from another package by packets of their own (R296, R300, R358). -/
def State.payloadPackets (s : State) (link : BitVec 128) (n : Nat) : State :=
  if bits link.toNat 126 2 = 2 then s.sent (bits link.toNat 104 20) 2 (packets n + 1) else s

/-- The fill in progress ends: payload, the second GEN read, and the bin's state (R294). A hop that pauses here is made again from its
start, by the link that named its sheaf (R295), and spends a unit of budget again (log entry 114). -/
def State.endWalkFill (s : State) (w : Walk) (cu : Cursor) (l : Landed) : State :=
  let cl := clusterOf w.ctx
  let key := binKey cl l.bin
  let b := s.bin key
  let n := b.size.toNat - 128
  match s.readFails w.ctx l.link w.src b.size.toNat with
  | some r => (s.setBin key b.release).recordReason { w with landed := w.landed.dropLast, link := l.link } w.hop r l.link
  | none =>
  let pay := readCells s.mem (w.src + 128) n
  let g2 := leNat (readCells s.mem (w.src + 64) 4)
  let s1 := { s with mem := writeCells s.mem (spadKey cl (b.base.toNat + 128)) pay }.payloadPackets l.link n
  if (w.later || cu.chk) && g2 != bits l.link.toNat 64 32 then
    (s1.setBin key b.release).recordReason { w with landed := w.landed.dropLast, link := l.link } w.hop 5 l.link
  else
    (s1.setBin key { b with state := 2 }).putWalk
      { w with filling := false, hop := w.hop + 1, next := (w.next + 1) % cu.depth, kept := w.kept || s.meetsWnext w }

/-- Whether the context of a walk has been killed (R330): its walk runs on by itself. -/
def State.walkDead (s : State) (w : Walk) : Bool :=
  decide (4096 ≤ w.ctx) && (s.ctx w.ctx).task.isNone

/-- Whether the landing place of a walk's next sheaf may be written: its bin is free, and no M command issued before the walk, or started
already, holds its bytes (R166, log entry 126). -/
def State.placeFree (s : State) (w : Walk) (cu : Cursor) : Bool :=
  let b := cu.bin w.next
  (s.bin (binKey (clusterOf w.ctx) b)).state == 0 &&
    !s.mcmds.any fun c => (decide (c.id < w.id) || c.stage == .started) &&
      c.locks (coreOf w.ctx) (cu.land + 256 * cu.z * (b - 8 * cu.group)) (256 * cu.z) true

/-- One step of a walk's gleaner (R294): the end of a fill in progress, or the next hop up to its fill. A hop whose landing place
is not free waits. The walk of a killed context, which no wnext will report, gives up its slot where it ends or stops (log entry
102). -/
def State.hop (s : State) (id : Nat) : Option State := do
  let w ← s.walks.find? fun x => x.id == id
  let cu := vget (s.ctx w.ctx).regs.w w.wc 0
  if w.filling then return s.endWalkFill w cu (← w.landed.getLast?)
  if w.reason.isSome || w.endAt.isSome then (if s.walkDead w then some (s.dropWalk w) else none)
  else if w.reread then return s.rereadHop w cu
  else
    let l := w.link
    if bits l.toNat 126 2 = 0 then
      if bits l.toNat 0 64 ≠ 0 then return s.recordReason w w.hop 1 l
      else return (s.putWalk { w with endAt := some w.hop }).finishTok w.tok 0
    else
      let r := linkReason s.device.toNat l
      if r ≠ 0 then return s.recordReason w w.hop r l
      else if w.later && cu.budget == 0 then return s.recordReason w w.hop 6 l
      else
        match s.reach w.ctx l with
        | (.error r, t) => return t.recordReason w w.hop r l
        | (.ok p, t) => if t.placeFree w cu then return t.beginFill w cu p else none

def execGleanerHop (id : Nat) (s : State) : Host.Outcome State Fault Refusal := event "gleaner hop" (s.hop id)

end Sys2Proof.Machine
end

