-- ==== Sys2Proof/Machine/Barrier.lean ====
section
/-!
DEFINITION. Barriers (R369 to R372, R385): the instructions bar and barw, the start of an arrival, the reports up the
routers' tree, and the release.
-/

namespace Sys2Proof.Machine

/-! ### Descriptors (R369) -/

def descScope (d : W64) : Nat := bits d.toNat 60 4
def descBar (d : W64) : Nat := bits d.toNat 54 6
def descCtx (d : W64) : Nat := bits d.toNat 40 8
def descCl (d : W64) : Nat := bits d.toNat 35 5
def descDie (d : W64) : Nat := bits d.toNat 32 3
def descPkg (d : W64) : Nat := bits d.toNat 16 9

/-- R369, R370: a legal descriptor; counts above its scope are ignored. -/
def descOk (d : W64) : Bool :=
  (descScope d == 2 || descScope d == 3 || descScope d == 5 || descScope d == 9) &&
  bits d.toNat 48 6 == 0 && bits d.toNat 25 7 == 0 && bits d.toNat 0 16 == 0 &&
  decide (1 ≤ descCtx d ∧ descCtx d ≤ 32) &&
  (decide (descScope d < 3) || decide (1 ≤ descCl d ∧ descCl d ≤ 24)) &&
  (decide (descScope d < 5) || decide (1 ≤ descDie d ∧ descDie d ≤ 4)) &&
  (decide (descScope d < 9) || decide (1 ≤ descPkg d ∧ descPkg d ≤ 256))

/-- The counts that a barrier of the scope uses (R369). -/
def descCounts (d : W64) : List Nat :=
  [descCtx d, if 3 ≤ descScope d then descCl d else 0, if 5 ≤ descScope d then descDie d else 0, if 9 ≤ descScope d then descPkg d else 0]

/-- Where the root of a descriptor's barrier stands, seen from a context: its cluster, its die, or the package. -/
def descPlace (d : W64) (c : Nat) : Nat := if descScope d = 2 then clusterOf c else if descScope d = 3 then dieOf c else 0

/-! ### Issue (R370) -/

def barOperand (q : BitVec 3) : Exec W64 := do
  let d ← needQuad q 0
  raiseIf (!descOk d) 5 .E 0
  return d

def execBar (g : Guard) (k : KE) (q : BitVec 3) (s : State) :=
  runSlot g (do
    let d ← barOperand q
    let ks ← consumed (usesOf k)
    let _ ← issueE k.kd ks .barrier (.bar d) []) s

/-- barw: at its first issue it records its arrival and blocks; issued afresh after the release it takes effect. -/
def execBarw (g : Guard) (k : KE) (q : BitVec 3) (s : State) :=
  runSlot g (do
    let s ← get
    let c := s.here
    match alGet c.barArrived c.pc.toNat with
    | some t =>
      stopIf (!s.tokDone (some t)) .block
      setHere { c with barArrived := alDel c.barArrived c.pc.toNat }
      exact (.k k.kd (some t)) 1
    | none => do
      let d ← barOperand q
      let ks ← consumed (usesOf k)
      stopIf (s.ecmds.any fun e => coreOf e.ctx == coreOf s.cur && e.stage == .buffer) .freeze
      stopIf (decide (Config.maxTokens ≤ s.openTokens s.cur)) .freeze
      stop (.blockWith (.arrive d ks))) s

/-! ### Rounds (R371) -/

def State.barrierOf (s : State) (scope bar place : Nat) : Option Barrier :=
  s.barriers.find? fun b => b.scope == scope && b.bar == bar && b.place == place

def State.putBarrier (s : State) (b : Barrier) : State := { s with barriers := s.barriers.map fun x => if x.id == b.id then b else x }

/-- Every arrival of the round completes with code 17 and the barrier is free. -/
def State.failBarrier (s : State) (b : Barrier) : State :=
  finishToks { s with barriers := s.barriers.filter fun x => x.id != b.id } 17 (b.arrivals.map Prod.fst)

/-- The barrier of a descriptor, claimed now if it is free. -/
def State.claimBarrier (s : State) (d : W64) (tenant : BitVec 16) (place : Nat) : Barrier × State :=
  match s.barrierOf (descScope d) (descBar d) place with
  | some b => (b, s)
  | none =>
    let b : Barrier := ⟨s.next, descScope d, descBar d, place, d, tenant, [], [], [], []⟩
    (b, { s with barriers := s.barriers ++ [b], next := s.next + 1 })

/-- An arrival or a package's report joins the round, unless its counts or its tenant differ. -/
def State.joinBarrier (s : State) (d : W64) (tenant : BitVec 16) (place : Nat) (add : Barrier → Barrier) : State :=
  let (b, s1) := s.claimBarrier d tenant place
  if descCounts b.desc = descCounts d ∧ b.tenant = tenant then s1.putBarrier (add b)
  else (s1.putBarrier (add b)).failBarrier (add b)

/-- Whether a command is an arrival at the barrier of a descriptor. -/
def ECmd.arrivesAt (c : ECmd) (d : W64) : Bool :=
  match c.op with
  | .bar e => descScope e == descScope d && descBar e == descBar d
  | _ => false

/-- R370: an arrival starts once the context's previous arrival at the barrier has been released: none that it issued earlier still waits
to start, and none of its own stands in the round. -/
def State.barReady (s : State) (c : ECmd) (d : W64) : Bool :=
  (s.ecmds.all fun e => e.ctx != c.ctx || !e.arrivesAt d || decide (c.id ≤ e.id)) &&
    (match s.barrierOf (descScope d) (descBar d) (descPlace d c.ctx) with
     | none => true
     | some b => !(b.arrivals.any fun a => (alGet s.toks a.1).map Tok.owner == some c.ctx))

/-- An arrival's command starts: it counts in the round, and its token completes at the release. -/
def State.startBar (s : State) (c : ECmd) (d : W64) : State :=
  (s.passE c).joinBarrier d c.tenant (descPlace d c.ctx) fun b => { b with arrivals := b.arrivals ++ [(c.tok, clusterOf c.ctx)] }

/-- The arrivals gathered by a cluster's router. -/
def Barrier.gathered (b : Barrier) (cl : Nat) : Nat := (b.arrivals.filter fun a => a.2 == cl).length

/-- The first cluster, of those that have an arrival, whose router has all its arrivals and has not reported, while its
die's router still counts reports. -/
def Barrier.clusterDue (b : Barrier) : Option Nat :=
  if b.scope < 3 then none
  else
    (b.arrivals.map Prod.snd).find? fun cl => !b.clusters.contains cl && decide (descCtx b.desc ≤ b.gathered cl) &&
      decide ((b.clusters.filter fun x => x / 32 == cl / 32).length < descCl b.desc)

def Barrier.dieDue (b : Barrier) : Option Nat :=
  if b.scope < 5 then none
  else
    (List.range 4).find? fun d => !b.dies.contains d && decide (descCl b.desc ≤ (b.clusters.filter fun x => x / 32 == d).length) &&
      decide (b.dies.length < descDie b.desc)

/-- A router forwards one report: the lowest level with a report to make goes first. A package whose report cannot reach
plane 0 fails its own arrivals. -/
def State.barrierReport (s : State) (id : Nat) : Option State := do
  let b ← s.barriers.find? fun x => x.id == id
  match b.clusterDue, b.dieDue with
  | some cl, _ => some (s.putBarrier { b with clusters := b.clusters ++ [cl] })
  | none, some d => some (s.putBarrier { b with dies := b.dies ++ [d] })
  | none, none =>
    let own := s.device.toNat
    if b.scope = 9 ∧ !b.packages.contains own ∧ descDie b.desc ≤ b.dies.length then
      if s.unreachable.contains own then some (s.failBarrier b) else some (s.putBarrier { b with packages := b.packages ++ [own] })
    else none

/-- Whether the root has all its reports. -/
def Barrier.complete (b : Barrier) : Bool :=
  if b.scope = 2 then decide (descCtx b.desc ≤ b.arrivals.length)
  else if b.scope = 3 then decide (descCl b.desc ≤ b.clusters.length)
  else if b.scope = 5 then decide (descDie b.desc ≤ b.dies.length)
  else decide (descPkg b.desc ≤ b.packages.length)

/-- Whether the reports that a round has counted are up to a cluster's: its own, its die's and its package's, as far as the scope
goes. -/
def Barrier.counted (b : Barrier) (own cl : Nat) : Bool :=
  (b.scope == 2 || b.clusters.contains cl) && (decide (b.scope < 5) || b.dies.contains (cl / 32)) &&
    (decide (b.scope < 9) || b.packages.contains own)

/-- The arrivals of the round, and those beyond its counts, which wait for the next; `seen` are the clusters of the
arrivals met so far, and `own` is this package's number. -/
def splitRound (own : Nat) (b : Barrier) : List (Nat × Nat) → List Nat → List (Nat × Nat) × List (Nat × Nat)
  | [], _ => ([], [])
  | a :: as, seen =>
    let r := splitRound own b as (a.2 :: seen)
    if b.counted own a.2 && decide ((seen.filter fun x => x == a.2).length < descCtx b.desc) then (a :: r.1, r.2)
    else (r.1, a :: r.2)

/-- The release: every arrival's token completes with code 0, and the barrier is free for its next round. -/
def State.barrierRelease (s : State) (id : Nat) : Option State := do
  let b ← s.barriers.find? fun x => x.id == id
  if b.complete then
    let r := splitRound s.device.toNat b b.arrivals []
    let s1 := finishToks s 0 (r.1.map Prod.fst)
    some (if r.2.isEmpty then { s1 with barriers := s1.barriers.filter fun x => x.id != b.id }
      else s1.putBarrier { b with arrivals := r.2, clusters := [], dies := [], packages := [] })
  else none

/-- A report of another package of the domain (R371). -/
def State.peerReport (s : State) (dev : Nat) (d : W64) (tenant : BitVec 16) : State :=
  if descOk d ∧ descScope d = 9 ∧ dev / 256 = s.device.toNat / 256 then
    s.joinBarrier d tenant 0 fun b => { b with packages := if b.packages.contains dev then b.packages else b.packages ++ [dev] }
  else s

/-- Plane 0 finds a package unreachable: the rounds it has reported in fail (R371). -/
def failRounds (s : State) (dev : Nat) : List Barrier → State
  | [] => s
  | b :: bs =>
    failRounds (if b.scope = 9 ∧ b.packages.contains dev then s.failBarrier b else s) dev bs

def execBarrierReport (id : Nat) (s : State) : Host.Outcome State Fault Refusal := event "router reports" (s.barrierReport id)
def execBarrierRelease (id : Nat) (s : State) : Host.Outcome State Fault Refusal := event "barrier is released" (s.barrierRelease id)

end Sys2Proof.Machine
end

