-- ==== Sys2Proof/Machine/Fabric.lean ====
section
/-!
DEFINITION. The fabric beyond the die (R349 to R368, R381): binding FIFO registers, the delivery of their words, the
completion of xfer, and Henow packets received, resent and lost. Another package is known by the pages it maps, by its
presence, and by what its packets bring.
-/

namespace Sys2Proof.Machine

/-! ### Binding (R362, R363, R367) -/

/-- The channel of a cluster (R362). -/
def chanKey (cluster chan : Nat) : Nat := cluster * 256 + chan

/-- The address word's fields (R367). -/
def adDevice (a : W64) : Nat := bits a.toNat 44 20
def adCluster (a : W64) : Nat := bits a.toNat 37 5

/-- The channel an address word names, in this package. -/
def adChan (a : W64) : Nat := chanKey (bits a.toNat 42 2 * 32 + adCluster a) (bits a.toNat 0 8)

def execFbind (g : Guard) (kd : BitVec 4) (snd : Bool) (n : BitVec 4) (q : BitVec 3) (s : State) :=
  runSlot g (do
    let a ← needQuad q 0
    let s ← get
    let k := s.here
    raiseIf (vget k.f n.toNat .unbound != .unbound) 5 .E 0
    if snd then
      raiseIf (decide (23 < adCluster a) || adDevice a / 256 != s.device.toNat / 256) 5 .E 0
      set { s.setHere { k with f := vset k.f n.toNat (.send s.next), sends := k.sends ++ [⟨s.next, k.task.map Prod.fst, a, [], false⟩] } with next := s.next + 1 }
    else
      let key := chanKey (clusterOf s.cur) (bits a.toNat 0 8)
      raiseIf (alGet s.claims key).isSome 5 .E 0
      set { s.setHere { k with f := vset k.f n.toNat (.recv (a.setWidth 8)) } with claims := alSet s.claims key (s.cur, n.toNat) }
    finishNow (← newToken kd) 0) s

def execFunbind (g : Guard) (kd n : BitVec 4) (s : State) :=
  runSlot g (do
    let k ← getHere
    match vget k.f n.toNat .unbound with
    | .unbound => raise 5 .E 0
    | .recv ch => do
      setHere { k with f := vset k.f n.toNat .unbound }
      let _ ← issueE kd [] .fabric (.funbindRecv ch.toNat false) []
    | .send i => do
      setHere { k with f := vset k.f n.toNat .unbound, sends := k.sends.map fun e => if e.id = i then { e with closed := true } else e }
      let _ ← issueE kd [] .fabric (.funbindSend i) []) s

/-- The words for a channel that stand in packets held back until an earlier packet comes (R361). -/
def State.heldWords (s : State) (key : Nat) : Nat := ((s.links.flatMap fun p => p.2.held).filter fun x => payloadChan x.2 == some key).length

/-- R365: whether a channel's buffer has room for one more word beside those already accepted. -/
def State.chanRoom (s : State) (key : Nat) : Bool := decide (((alGet s.chans key).getD []).length + s.heldWords key < 16)

/-- R367: a receive binding's claim is freed and its words are discarded, those that are still to arrive as they do. -/
def State.startFunbindRecv (s : State) (c : ECmd) (ch : Nat) : State :=
  let key := chanKey (clusterOf c.ctx) ch
  let lost := !((alGet s.chans key).getD []).isEmpty || s.heldWords key != 0
  { s.scrub [key] with claims := alDel s.claims key, chans := alDel s.chans key }.putE { c with stage := .started, op := .funbindRecv ch lost }

/-- The funbinds that still discard the words of a channel. -/
def ECmd.drains (c : ECmd) (key : Nat) : Bool :=
  match c.op with
  | .funbindRecv ch _ => c.stage == .started && chanKey (clusterOf c.ctx) ch == key
  | _ => false

/-- A word of a channel is discarded under its funbinds (R367). -/
def State.loseWord (s : State) (key : Nat) : State :=
  { s with ecmds := s.ecmds.map fun c =>
      match c.op with
      | .funbindRecv ch _ => if c.drains key then { c with op := .funbindRecv ch true } else c
      | _ => c }

/-- A funbind of a receive binding completes once every word that had left for its channel has arrived: code 14 when words were
discarded (R367). When that is, the fabric decides. -/
def State.endDrain (s : State) (id : Nat) : Option State := do
  let c ← s.findE id
  match c.op with
  | .funbindRecv _ lost => if c.stage = .started then some (s.dropE c (if lost then 14 else 0)) else none
  | _ => none

/-! ### Send queues (R365, R367, R368) -/

def findSend (id : Nat) : List (Nat × Ctx) → Option SendQ
  | [] => none
  | p :: ps => (p.2.sends.find? fun e => e.id == id).orElse fun _ => findSend id ps

def State.sendOf (s : State) (id : Nat) : Option SendQ := (findSend id s.ctxs).orElse fun _ => s.orphans.find? fun e => e.id == id

/-- A send queue is replaced, or removed. -/
def putSend (id : Nat) (v : Option SendQ) (es : List SendQ) : List SendQ := es.filterMap fun e => if e.id = id then v else some e

def State.setSend (s : State) (id : Nat) (v : Option SendQ) : State :=
  { s with
    ctxs := s.ctxs.map fun p => if p.2.sends.any fun e => e.id == id then (p.1, { p.2 with sends := putSend id v p.2.sends }) else p
    orphans := putSend id v s.orphans }

/-- A queue that a funbind has left to drain is empty. -/
def SendQ.drained (e : SendQ) : Bool := e.closed && e.entries.isEmpty

/-- The funbind of a drained queue completes, once it has started. -/
def State.endSend (s : State) (e : SendQ) : State :=
  if e.drained then
    match s.ecmds.find? fun c => c.op == .funbindSend e.id with
    | none => s.setSend e.id none
    | some c => if c.stage = .started then (s.setSend e.id none).dropE c 0 else s
  else s

/-- Whether a queue that is empty still awaits its end: a poisoned result has released the last entry that its funbind waited for
(R364, R367). -/
def State.endsSend (s : State) (e : SendQ) : Bool :=
  e.drained && !s.ecmds.any fun c => c.op == .funbindSend e.id && c.stage != .started

/-- R360: whether another package is found unreachable: by its resends, or because none stands there. -/
def State.noPackage (s : State) (dev : Nat) : Bool := dev != s.device.toNat && (s.unreachable.contains dev || !s.present.contains dev)

/-- R367: a funbind of a send binding starts: it is done when its queue is empty, and code 15 says that the receiver is
unreachable. -/
def State.startFunbindSend (s : State) (c : ECmd) (q : Nat) : State :=
  let s1 := s.putE { c with stage := .started }
  match s.sendOf q with
  | none => s.dropE c 0
  | some e => if !e.drained && s.noPackage (adDevice e.addr) then s1.dropE c 15 else s1.endSend e

/-- R366: a push is an access of class c0, and so its word leaves after the accesses that its context issued before it in that
class, or behind a fence of it, have been performed (R231, R235, R243). -/
def State.pushWaits (s : State) (c ord : Nat) : Bool :=
  pendBlocks 0 0 ((s.ctx c).stores.filterMap (Pend.before ord)) || (s.classCmds c 0).any fun i => decide (i < ord)

/-- Whether the queue's context keeps its words from leaving. -/
def State.sendWaits (s : State) (id ord : Nat) : Bool :=
  s.ctxs.any fun p => (p.2.sends.any fun e => e.id == id) && s.pushWaits p.1 ord

/-- R365, R368: the oldest word of a send queue leaves when its channel is claimed and has room; whether the buffer in another
package has room, that package decides. An entry still reserved keeps the words behind it. A queue without an entry left may end. -/
def State.deliverWord (s : State) (id : Nat) : Option State := do
  let e ← s.sendOf id
  match e.entries with
  | [] => if s.endsSend e then some (s.endSend e) else none
  | (_, none) :: _ => none
  | (ord, some w) :: es =>
    let e1 := { e with entries := es }
    let dev := adDevice e.addr
    if s.sendWaits id ord then none
    else if dev = s.device.toNat then
      let key := adChan e.addr
      let buf := (alGet s.chans key).getD []
      if (alGet s.claims key).isSome && s.chanRoom key then
        some (({ s with chans := alSet s.chans key (buf ++ [w]) }.setSend id (some e1)).endSend e1)
      else none
    else if s.noPackage dev then none
    else some (((s.acked dev 0).setSend id (some e1)).endSend e1)

def execFifoWordDelivery (id : Nat) (s : State) : Host.Outcome State Fault Refusal :=
  event "word of a send queue is delivered" ((s.deliverWord id).orElse fun _ => s.endDrain id)

/-! ### xfer (R381) -/

/-- The page of this package that a transfer's far range lies in, and the offset in it. -/
def State.farPage (s : State) (die : Nat) (tenant : BitVec 16) (a n : Nat) (isWrite : Bool) : Option (Handle × Nat) × State :=
  match s.translate die tenant a with
  | (none, t) => (none, t)
  | (some h, t) =>
    let o := a % pageBytes h.size
    if (if isWrite then h.w else h.r) ∧ o + n ≤ pageBytes h.size then (some (h, o), t) else (none, t)

/-- A page of another package that holds a range and grants the right (R381). -/
def State.remotePage (s : State) (dev : Nat) (tenant : BitVec 16) (a n : Nat) (isWrite : Bool) : Bool :=
  s.remote.any fun p => p.dev == dev && p.tenant == tenant && decide (p.base ≤ a) && decide (a + n ≤ p.base + p.size) &&
    p.perm.getLsbD (if isWrite then 1 else 2)

def State.completeXfer (s : State) (id : Nat) : Option State := do
  let c ← s.findE id
  match c.op with
  | .xfer get h o dev a n =>
    if c.stage ≠ .started then none
    else if s.pageFails h o n c.tenant (!get) then some (s.failLoft c)
    else
      let core := coreOf c.ctx
      if dev = s.device.toNat then
        match s.farPage (dieOf c.ctx) c.tenant a.toNat n (!get) with
        | (none, t) => some (t.dropE c 18)
        | (some (p, po), t) =>
          if t.pageFails p po n c.tenant get then some (t.failLoft c)
          else if get then some ((t.pageWrite core h o c.tenant (t.pageRead p po n c.tenant)).dropE c 0)
          else some ((t.pageWrite core p po c.tenant (t.pageRead h o n c.tenant)).dropE c 0)
      else if !s.present.contains dev || s.unreachable.contains dev then some (s.dropE c 15)
      else if !s.remotePage dev c.tenant a.toNat n (!get) then some ((s.acked dev 2).dropE c 18)
      else
        let key := remoteKey dev c.tenant.toNat a.toNat
        let s1 := s.sent dev 2 (packets n)
        if get then some ((s1.pageWrite core h o c.tenant (readCells s.mem key n)).dropE c 0)
        else some ({ s1 with mem := writeCells s1.mem key (s1.pageRead h o n c.tenant) }.dropE c 0)
  | _ => none

def execXferComplete (id : Nat) (s : State) : Host.Outcome State Fault Refusal := event "xfer completes" (s.completeXfer id)

/-! ### Packets received (R355, R358, R359, R361) -/

/-- The ordered channels (R355). -/
def orderedChan (ch : Nat) : Bool := ch != 2 && ch != 3

/-- R355: what a channel carries to this package, at most 256 bytes in a packet. -/
def payloadFits (p : Payload) (chan : Nat) : Bool :=
  match p with
  | .empty => true
  | .fifoWord _ _ _ _ => decide (chan ≤ 1)
  | .barrierReport _ _ => decide (chan ≤ 1)
  | .mirrorAdd _ _ _ _ _ => chan == 6
  | .mirrorRemove _ _ _ _ _ => chan == 6
  | .xferBytes _ _ len off bs => (chan == 2 || chan == 3) && decide (bs.length ≤ 256) && decide (off + bs.length ≤ len)

/-- R351, R356: whether a packet of a channel comes in by a port. On channels 4 and 5 the peer is a plane; between packages of a domain an
ordered channel takes plane (a + b) mod 24; a relaxed one takes any, and it alone comes from another domain. -/
def State.portOk (s : State) (peer port chan : Nat) : Bool :=
  if chan = 4 ∨ chan = 5 then decide (peer < 24) && port == peer
  else peer != s.device.toNat &&
    (if orderedChan chan then peer / 256 == s.device.toNat / 256 && port == (peer % 256 + s.device.toNat % 256) % 24 else decide (port < 24))

/-- R375: an extent reads as zero. -/
def clearPlanes (m : List Host.Cell) (o size : Nat) : List Nat → List Host.Cell
  | [] => m
  | p :: ps => clearPlanes (clearCells m (loftKey p o) size) o size ps

/-- Mirrored extents: the entries of the mirror directory (R377). -/
def State.mirrors (s : State) : List Extent := s.extents.filter fun e => e.mirror.isSome

/-- Entries of the mirror directory in packets that are accepted and held back (R358). -/
def State.heldMirrors (s : State) : Nat :=
  ((s.links.flatMap fun p => p.2.held).filter fun x =>
    match x.2 with
    | .mirrorAdd _ _ _ _ _ => true
    | _ => false).length

/-- Whether the mirror directory has no room for a further entry, those that are still held back counted (R377). -/
def State.mirrorsFull (s : State) : Bool := decide (Config.mirrorMax ≤ s.mirrors.length + s.heldMirrors)

/-- What a packet delivers to this package. Bytes of a transfer are written only where its whole range lies in one page with W (R381). -/
def State.deliver (s : State) (peer : Nat) (p : Payload) : State :=
  match p with
  | .empty => s
  | .fifoWord die cluster chan w =>
    let key := chanKey (die * 32 + cluster) chan
    { s with chans := alSet s.chans key ((alGet s.chans key).getD [] ++ [w]) }
  | .barrierReport d tenant => s.peerReport peer d tenant
  | .mirrorAdd tenant plane start size second =>
    { s with extents := s.extents ++ [⟨plane, start, size, tenant, some second⟩], mem := clearPlanes s.mem start size [plane, second] }
  | .mirrorRemove tenant plane start size second => { s with extents := s.extents.filter fun e => e != ⟨plane, start, size, tenant, some second⟩ }
  | .xferBytes tenant va len off bs =>
    match s.farPage 0 tenant va len true with
    | (none, t) => t
    | (some (h, o), t) => if t.pageFails h o len tenant false then t else t.pageWrite 4096 h (o + off) tenant bs

/-- What is left of an accepted packet, and the state in which it is accepted: a word needs a claimed channel with room, since
its sender lets it go only then (R365, R368), but for a word on its way when its claim was freed, which is discarded (R367); an entry
of the mirror directory needs room there (R377). -/
def State.accept (s : State) (p : Payload) : Option (State × Payload) :=
  match payloadChan p with
  | some key =>
    if s.ecmds.any fun c => c.drains key then some (s.loseWord key, .empty)
    else if (alGet s.claims key).isSome && s.chanRoom key then some (s, p)
    else none
  | none =>
    match p with
    | .mirrorAdd _ _ _ _ _ => if s.mirrorsFull then none else some (s, p)
    | _ => some (s, p)

/-- The packets accepted in sequence from the lowest missing number on are delivered; `n` bounds their count. -/
def flushHeld (s : State) (peer : Nat) (l : Link) : Nat → State × Link
  | 0 => (s, l)
  | n + 1 =>
    match l.held.find? fun p => p.1 == l.rxNext with
    | none => (s, l)
    | some p =>
      flushHeld (s.deliver peer p.2) peer
        { l with rxNext := (l.rxNext + 1) % 65536, held := l.held.filter fun x => x.1 != p.1 } n

/-- A duplicate is dropped and counted for its port (R358). -/
def State.dropDup (s : State) (port : Nat) : State :=
  { s with portDups := alSet s.portDups port ((alGet s.portDups port).getD 0 + 1) }

/-- R358, R359, R361: a packet with a sequence number of the channel arrives by a port. -/
def State.receive (s : State) (peer port chan seq : Nat) (stomp : Bool) (pay : Payload) : Option State :=
  if 8 ≤ chan ∨ 65536 ≤ seq ∨ s.portOk peer port chan = false ∨ payloadFits pay chan = false then none
  else if stomp then some s
  else
    let l := s.link peer chan
    let key := linkKey peer chan
    if 64 ≤ (seq + 65536 - l.rxNext) % 65536 ∨ (l.held.any fun p => p.1 == seq) = true then some (s.dropDup port)
    else do
      let (s0, p) ← s.accept pay
      let s1 := if orderedChan chan then s0 else s0.deliver peer p
      let l1 := { s0.link peer chan with held := l.held ++ [(seq, if orderedChan chan then p else .empty)] }
      let (s2, l2) := flushHeld s1 peer l1 64
      some { s2 with links := alSet s2.links key { l2 with resent := (s2.link peer chan).resent, tries := (s2.link peer chan).tries, txNext := (s2.link peer chan).txNext } }

/-- R355, R358: a packet comes in by a port. -/
def execPacketReceive (src : Sender) (chan seq : Nat) (stomp : Bool) (pay : Payload) (s : State) : Host.Outcome State Fault Refusal :=
  event "packet is received" (s.receive src.peer src.port chan seq stomp pay)

/-! ### Loss (R360, R379) -/

/-- R379: a plane is lost. Every running context, no saved one among them, whose tenant holds an extent on it, and whose UIV is not zero,
has index 0 pending with code 32 + π, in place of an older code that is still pending (log entry 152). -/
def State.losePlane (s : State) (p : Nat) : State :=
  if s.lost.contains p then s
  else
    let tenants := (s.extents.filter fun e => e.plane == p || e.mirror == some p).map Extent.tenant
    { s with
      lost := s.lost ++ [p]
      ctxs := s.ctxs.map fun c =>
        if decide (c.1 < 4096) && c.2.run != .halted && tenants.contains c.2.sr.tenant && c.2.sr.uiv != 0 then
          (c.1, { c.2 with pend := vset c.2.pend 0 (some (BitVec.ofNat 8 (32 + p))) })
        else c }

/-- R360: a package is found unreachable; this package's own number stands for plane 0 (log entry 45), which no FIFO word goes to. -/
def State.loseDevice (s : State) (dev : Nat) : State :=
  if s.unreachable.contains dev then s
  else
    let s1 := failRounds { s with unreachable := s.unreachable ++ [dev] } dev s.barriers
    (s1.ecmds.filter fun c => c.stage == .started).foldl (fun t c =>
      match c.op with
      | .funbindSend q => if (t.sendOf q).any fun e => dev != s.device.toNat && adDevice e.addr == dev then t.dropE c 15 else t
      | _ => t) s1

/-- The planes that an access to a loft page goes to: a store to both of a mirrored extent, a load to the one that serves it (R377). -/
def State.planesOf (s : State) (h : Handle) (o n : Nat) (tenant : BitVec 16) (isLoad : Bool) : List Nat :=
  if h.tgt = 1 then
    match s.extentOf h.plane.toNat (h.ppn.toNat * 65536 + o) n tenant with
    | none => [h.plane.toNat]
    | some e =>
      match e.mirror with
      | none => [e.plane]
      | some m => if isLoad then [if s.lost.contains e.plane then m else e.plane] else [e.plane, m]
  else []

/-- The planes that an operation in flight goes to. -/
def State.redoPlanes (s : State) (tenant : BitVec 16) : Redo → List Nat
  | .load _ _ h o n _ _ => s.planesOf h o n tenant true
  | .latom _ _ h o wide _ _ _ => s.planesOf h o (if wide then 8 else 4) tenant false
  | .lalloc m _ planes => if m then [bits planes.toNat 0 5, bits planes.toNat 8 5] else [bits planes.toNat 0 5]
  | .xlat _ _ | .paired => []

/-- Whether a freeze trap for the result is waiting to be taken: until then its operation is not made again. -/
def Ctx.trapped (k : Ctx) (f : Flight) : Bool := f.again && k.due.isSome

/-- The results of a context whose operations another unit has still to answer: those that it has captured among them, but for one whose
freeze trap has still to be left (R336). -/
def Ctx.asked (k : Ctx) : List Flight :=
  (k.flight.filter fun f => !f.arrived && !k.trapped f) ++ k.captured.filter fun f => !f.arrived && !f.again

/-- The packets of a context's loads, loft atomics and allocations in flight, queued loads and unperformed stores, with the planes that they
go to (R378). -/
def State.ctxPackets (s : State) (c : Nat) (k : Ctx) : List (Nat × Packet) :=
  let tenant := k.sr.tenant
  (k.asked.flatMap fun f => (f.redo.elim [] (s.redoPlanes tenant)).map fun p => (p, .result c f.id)) ++
  (k.q.toList.flatMap fun l => l.flatMap fun e =>
    if e.arrived then [] else (s.planesOf e.handle e.off (2 ^ e.width.toNat) tenant true).map fun p => (p, .result c e.id)) ++
  k.stores.flatMap fun p =>
    match p with
    | .store id _ _ _ bs (some (h, o)) => (s.planesOf h o bs.length tenant false).map fun q => (q, .granule id)
    | _ => []

/-- The planes that a started command goes to: those of the loft page that it reads or writes. -/
def State.cmdPlanes (s : State) (c : ECmd) : List Nat :=
  if c.stage != .started then []
  else
    match c.op with
    | .copy dir h _ _ _ _ => c.rows.flatMap fun r => s.planesOf h r.1 r.2.2 c.tenant (!dir)
    | .copyg dir h _ _ _ _ => c.rows.flatMap fun r => s.planesOf h r.1 r.2.2 c.tenant (!dir)
    | .copyx dir h _ _ _ => c.rows.flatMap fun r => s.planesOf h r.1 r.2.2 c.tenant (!dir)
    | .bank h o _ _ m k => s.planesOf h o (m * k * (if h.bankl = 1 then 1 else 2)) c.tenant true
    | .xfer get h o _ _ n => s.planesOf h o n c.tenant (!get)
    | .launch true h a _ _ none => s.planesOf h a 128 c.tenant true
    | _ => []

/-- The link by which a walk reads a sheaf as things stand (R294, R299): that of its fill in progress, of the sheaf that it reads again, or
of its next hop once there is a free bin for it. -/
def State.walkReads (s : State) (w : Walk) : Option (BitVec 128) :=
  let cu := vget (s.ctx w.ctx).regs.w w.wc 0
  if w.reason.isSome || w.endAt.isSome then none
  else if w.filling then w.landed.getLast?.map Landed.link
  else if w.reread then some cu.link
  else if (s.bin (binKey (clusterOf w.ctx) (cu.bin w.next))).state = 0 then some w.link
  else none

/-- The packet by which a walk reads a sheaf. -/
def Walk.packet (w : Walk) : Packet := .sheaf w.id w.hop (if w.filling then 1 else if w.reread then 2 else 0)

/-- The packets by which walks read sheaves of a kind of link in a package or plane. -/
def State.sheafPackets (s : State) (kind peer : Nat) : List Packet :=
  (s.walks.filter fun w => (s.walkReads w).any fun l =>
    bits l.toNat 126 2 == kind && (if kind = 3 then bits l.toNat 104 20 % 32 else bits l.toNat 104 20) == peer).map Walk.packet

/-- The packets of this package to a plane that are unacknowledged (R355, R374). -/
def State.planePackets (s : State) (plane : Nat) : List Packet :=
  ((s.ctxs.flatMap fun p => s.ctxPackets p.1 p.2).filter fun x => x.1 == plane).map Prod.snd ++
    (s.ecmds.filter fun c => (s.cmdPlanes c).contains plane).map (fun c => .command c.id) ++ s.sheafPackets 3 plane

/-- The word of a send queue that has left it for its receiver, if one has (R365, R366). -/
def State.wordPacket (s : State) (e : SendQ) : Option Packet :=
  match e.entries with
  | (ord, some _) :: _ => if s.sendWaits e.id ord then none else some (.word e.id ord)
  | _ => none

/-- This package's unacknowledged packets on a channel to a package or, on channel 4, to a plane; on channel 5 the planes are the
senders. A change of the mirror directory goes to the packages of the domain alone (R377). -/
def State.packetsTo (s : State) (peer chan : Nat) : List Packet :=
  if chan < 2 then
    ((s.barriers.filter fun b => b.scope == 9 && (b.packages.contains peer || peer == s.device.toNat)).map fun b => .report b.id) ++
    (((s.ctxs.flatMap fun p => p.2.sends) ++ s.orphans).filter fun e => adDevice e.addr == peer && peer != s.device.toNat).filterMap s.wordPacket
  else if chan < 4 then
    ((s.ecmds.filter fun c => c.stage == .started && match c.op with
      | .xfer _ _ _ dev _ _ => dev == peer && peer != s.device.toNat
      | _ => false).map fun c => .command c.id) ++ s.sheafPackets 2 peer
  else if chan = 4 then s.planePackets peer
  else if chan = 6 ∧ s.present.contains peer ∧ peer / 256 = s.device.toNat / 256 ∧ peer ≠ s.device.toNat then
    s.ctxs.flatMap fun p => (p.2.asked.filter fun f =>
      match f.redo with
      | some (.lalloc m _ _) => m
      | _ => false).map fun f => .result p.1 f.id
  else []

/-- The packet of a channel that its end-to-end timer resends next: the one it has resent last, until that is acknowledged. -/
def State.toResend (s : State) (peer chan : Nat) : Option Packet :=
  let ps := s.packetsTo peer chan
  match (s.link peer chan).resent with
  | some p => if ps.contains p then some p else ps.head?
  | none => ps.head?

/-- R360: the end-to-end timer resends a packet; the eighth failure in succession of one packet makes its destination unreachable. On
channel 4 `peer` is the plane; on channels 0 and 1 this package's own number stands for plane 0. -/
def State.resend (s : State) (peer chan : Nat) : Option State := do
  let p ← s.toResend peer chan
  let l := s.link peer chan
  let tries := if l.resent = some p then l.tries else 0
  if tries < 7 then some { s with links := alSet s.links (linkKey peer chan) { l with resent := some p, tries := tries + 1 } }
  else some (if chan = 4 then s.losePlane peer else s.loseDevice peer)

def execEndToEndResend (peer chan : Nat) (s : State) : Host.Outcome State Fault Refusal := event "packet is resent" (s.resend peer chan)

end Sys2Proof.Machine
end

