-- ==== Sys2Proof/Machine/Loft.lean ====
section
/-!
DEFINITION. The loft (R373 to R380): allocation, mirrored allocation, freeing, and atomics; and the answers of a switch.
-/

namespace Sys2Proof.Machine

/-- The first address of the loft window (R373), and of a plane in it. -/
def loftWindow : Nat := 0xFF00000000000
def loftAddr (plane o : Nat) : Nat := loftWindow + plane * 2 ^ 39 + o

/-! ### Results that a switch answers -/

/-- Schedules a y result and a predicate result that arrive together by a step of their own. -/
def addAnswer (k : Ctx) (d : BitVec 5) (pd : BitVec 4) (lat : Nat) (elastic : Bool) (redo : Redo) : Ctx :=
  (k.addFlight true (.y d Reg.zero) lat elastic true none (some redo)).addFlight true (.p pd (BitVec.allOnes 64) 0) lat elastic true none
    (some .paired)

/-- The results of an operation arrive, those with the numbers from `i` on, `n` of them; `g` gives what each has become. A result becomes
visible with the context's next cycle; a context that issues nothing more has no further one (R199). -/
def Flight.arriveBy (f : Flight) (i n : Nat) (g : Nat → Result → Result) : Flight :=
  if i ≤ f.id ∧ f.id < i + n then { f with res := g (f.id - i) f.res, arrived := true, redo := none, again := false } else f

def Ctx.arriveBy (k : Ctx) (i n : Nat) (g : Nat → Result → Result) : Ctx :=
  let k1 := { k with flight := k.flight.map fun f => f.arriveBy i n g }
  if k.run = .halted then k1.settle else k1

/-- A result that an answer fills: the old value or the offset, and the predicate. -/
def Result.answered (v : W64) (hit : Bool) (r : Result) : Result :=
  match r with
  | .y d _ => .y d ⟨v, false⟩
  | .p d m _ => .p d m (allOnes hit)
  | r => r

/-- The answer to the operation whose y result has number `i`: its predicate result is the next one. -/
def Ctx.answer (k : Ctx) (i : Nat) (v : W64) (hit : Bool) : Ctx := k.arriveBy i 2 fun _ r => r.answered v hit

/-- A freeze trap of a result in flight: its operation is marked to be made again (R327, R336). -/
def Ctx.failFlight (k : Ctx) (i : Nat) (r : TrapRec) : Ctx :=
  Ctx.addDue { k with flight := k.flight.map fun f => if f.id = i then { f with again := true } else f } r

def Ctx.flightOf (k : Ctx) (i : Nat) : Option Flight := k.flight.find? fun f => f.id == i && !f.arrived

/-! ### Allocation (R374, R375, R377) -/

/-- The extents on a plane, as primary or mirror. -/
def State.onPlane (s : State) (p : Nat) : List Extent := s.extents.filter fun e => e.plane == p || e.mirror == some p

def State.held (s : State) (tenant : BitVec 16) (p : Nat) : Nat :=
  (((s.onPlane p).filter fun e => e.tenant == tenant).map Extent.size).foldl (· + ·) 0

/-- A tenant's quota on a plane's switch; zero until the reeve sets it. -/
def State.quotaOf (s : State) (tenant : BitVec 16) (p : Nat) : Nat := (alGet s.quotas (tenant.toNat * 32 + p)).getD 0

/-- Whether [o, o + size) is free among the extents of the planes concerned. -/
def spaceFree (es : List Extent) (o size : Nat) : Bool :=
  decide (o + size ≤ Config.loftSize) && es.all fun e => decide (o + size ≤ e.start) || decide (e.start + e.size ≤ o)

/-- The lowest free offset: 0 or the end of an extent. -/
def lowestFree (es : List Extent) (size : Nat) : Option Nat :=
  (0 :: es.map fun e => e.start + e.size).foldl (fun best o =>
    if spaceFree es o size then
      match best with
      | none => some o
      | some b => some (min b o)
    else best) none

/-- The planes of an allocation: one, or two for lalloc.m (R375). -/
def allocPlanes (mirrored : Bool) (w : W64) : List Nat := if mirrored then [bits w.toNat 0 5, bits w.toNat 8 5] else [bits w.toNat 0 5]

/-- EINFO of QUOTA (R380). -/
def quotaInfo (p : Nat) (size : W64) : Nat := p * 2 ^ 56 + bits size.toNat 16 36 * 2 ^ 16

/-- A change of the mirror directory goes to every package of the domain over channel 6 (R377); one that is unreachable delays nothing
(log entry 151). -/
def State.tellDomain (s : State) : State :=
  (s.present.filter fun d => d / 256 == s.device.toNat / 256 && d != s.device.toNat).foldl (fun t d => t.acked d 6) s

/-- A switch answers an allocation: its trap, or the state after it with the offset taken, if any. -/
def State.allocate (s : State) (tenant : BitVec 16) (mirrored : Bool) (size planes : W64) : Except TrapRec (State × Option Nat) :=
  let ps := allocPlanes mirrored planes
  let n := size.toNat
  match ps.find? s.lost.contains with
  | some p => .error ⟨17, 5, BitVec.ofNat 64 (p * 2 ^ 56), true, none⟩
  | none =>
    match ps.find? fun p => decide (s.quotaOf tenant p < s.held tenant p + n) with
    | some p => .error ⟨18, 5, BitVec.ofNat 64 (quotaInfo p size), true, none⟩
    | none =>
      if mirrored ∧ s.mirrorsFull = true then
        .error ⟨18, 5, BitVec.ofNat 64 (quotaInfo (bits planes.toNat 0 5) size), true, none⟩
      else
        match lowestFree (ps.flatMap s.onPlane) n with
        | none => .ok (s, none)
        | some o =>
          let e : Extent := ⟨bits planes.toNat 0 5, o, n, tenant, if mirrored then some (bits planes.toNat 8 5) else none⟩
          let t := { s with extents := s.extents ++ [e], mem := clearPlanes s.mem o n ps }
          .ok (if mirrored then t.tellDomain else t, some o)

/-- The issue of lalloc and lalloc.m: tokens, poison, limits, and lost planes (R375, R379). EINFO of LOFT_LOST has no
address to show: its bits 51–0 are 0 (log entry 153). -/
def issueAlloc (mirrored : Bool) (r : EYF) (q : BitVec 3) : Exec Unit := do
  awaitTokens [r.ka, r.kb]
  let size ← needQuad q 0
  let w ← needQuad q 1
  let ps := allocPlanes mirrored w
  raiseIf (size.toNat % 65536 != 0 || decide (size.toNat < 65536) || decide (2 ^ 39 < size.toNat)) 5 .E 0
  raiseIf (ps.any (fun p => decide (23 < p)) || (mirrored && bits w.toNat 0 5 == bits w.toNat 8 5)) 5 .E 0
  let s ← get
  match ps.find? s.lost.contains with
  | some p => raise 17 .E (p * 2 ^ 56)
  | none => setHere (addAnswer s.here r.d r.pd 4 false (.lalloc mirrored size w))

def execLalloc (g : Guard) (r : EYF) (q : BitVec 3) (s : State) := runSlot g (issueAlloc false r q) s
def execLallocM (g : Guard) (r : EYF) (q : BitVec 3) (s : State) := runSlot g (issueAlloc true r q) s

/-- The switch's answer to an allocation in flight reaches its context (R17, R375). -/
def State.answerAlloc (s : State) (c : Nat) (f : Flight) (mirrored : Bool) (size planes : W64) : State :=
  match s.allocate (s.ctx c).sr.tenant mirrored size planes with
  | .error r => s.setCtx c ((s.ctx c).failFlight f.id r)
  | .ok (t, o) =>
    let v := match o with
      | none => 0
      | some o => BitVec.ofNat 64 (loftAddr (bits planes.toNat 0 5) o)
    t.setCtx c ((t.ctx c).answer f.id v o.isSome)

/-! ### lfree (R376) -/

def execLfree (g : Guard) (k : KE) (q : BitVec 3) (s : State) :=
  runSlot g (do
    let a ← needQuad q 0
    let ks ← consumed (usesOf k)
    let _ ← issueE k.kd ks .loft (.lfree a) []) s

/-- R376: an extent of the tenant that begins at the address is freed, on a lost plane too (log entry 150). -/
def State.startLfree (s : State) (c : ECmd) (a : W64) : State :=
  let hit (e : Extent) : Bool := loftAddr e.plane e.start == a.toNat && e.tenant == c.tenant
  match s.extents.find? hit with
  | none => s.dropE c 16
  | some e =>
    let t := { s with extents := s.extents.filter fun e => !hit e }
    (if e.mirror.isSome then t.tellDomain else t).dropE c 0

/-! ### latom (R378) -/

/-- The value a loft atomic leaves. -/
def latomNew (op : LatomOp) (n : Nat) (old v e : Nat) : Nat :=
  match op with
  | .add => (old + v) % 2 ^ n
  | .min => if signedOf n old ≤ signedOf n v then old else v % 2 ^ n
  | .max => if signedOf n v ≤ signedOf n old then old else v % 2 ^ n
  | .swap => v % 2 ^ n
  | .cas => if old = e % 2 ^ n then v % 2 ^ n else old

/-- The switch performs a loft atomic for a context: the state after it, yD's value, and pD (R377, R378). -/
def State.latomDo (s : State) (c : Nat) (h : Handle) (o : Nat) (wide : Bool) (op : LatomOp) (v e : W64) : State × W64 × Bool :=
  let n := if wide then 8 else 4
  let tenant := (s.ctx c).sr.tenant
  let old := leNat (readCells s.mem (s.loftRead h o n tenant) n)
  let new := latomNew op (8 * n) old v.toNat e.toNat
  (performAll s (coreOf c) (leBytes n new) (s.storeKeys h o n tenant), sext64 (8 * n) (BitVec.ofNat 64 old),
    !(op == .cas && old != e.toNat % 2 ^ (8 * n)))

/-- A loft atomic in flight reaches a plane that is lost: it may or may not be performed there, and its answer, if it is not, is of no
stated value; free values decide (R379). -/
def State.latomLost (s : State) (c : Nat) (h : Handle) (o : Nat) (wide : Bool) (op : LatomOp) (v e : W64) : State × W64 × Bool :=
  let s1 := { s with free := s.free + 3 }
  if (Config.freeValue s.free).getLsbD 0 then s1.latomDo c h o wide op v e
  else (s1, Config.freeValue (s.free + 1), (Config.freeValue (s.free + 2)).getLsbD 0)

/-- A loft atomic in flight meets its planes: none where the switch refuses it (R374). -/
def State.latomMeet (s : State) (c : Nat) (h : Handle) (o : Nat) (wide : Bool) (op : LatomOp) (v e : W64) : Option (State × W64 × Bool) :=
  let n := if wide then 8 else 4
  if (s.lostPlane h o n (s.ctx c).sr.tenant false).isSome then some (s.latomLost c h o wide op v e)
  else if s.refuses c h o n then none
  else some (s.latomDo c h o wide op v e)

def execLatom (g : Guard) (r : EYF) (wide : Bool) (op : LatomOp) (q : BitVec 3) (s : State) :=
  runSlot g (do
    awaitTokens [r.ka, r.kb]
    let o := (← needQuad q 0).toNat
    let v ← needQuad q 1
    let e ← if op = .cas then needQuad q 2 else pure 0
    let ctl ← needQuad q 3
    let hn : BitVec 4 := BitVec.ofNat 4 (bits ctl.toNat 8 4)
    let h ← readH hn
    let n := if wide then 8 else 4
    raiseSome .E (checkHandle hn.toNat h o n n true false false)
    raiseSome .E (checkHandle hn.toNat h o n n false true false)
    raiseIf (h.tgt != 1) 5 .E (o % 2 ^ 52)
    checkLoft .E h o n false
    let s ← get
    let cls : BitVec 4 := ctl.setWidth 4
    classWait cls
    stopIf (s.tearsLoad s.cur h o n) .freeze
    let ps : List Part := [⟨h.key o, List.replicate n 0, some (h, o)⟩]
    stopIf (s.overtakes s.cur ps) (.freezePast { Passing.ofClass cls with spans := s.partSpans s.cur ps })
    if s.refuses s.cur h o n then
      setHere (addAnswer s.here r.d r.pd h.latency true (.latom cls s.here.sr.acyc.toNat h o wide op v e))
    else
      let (t, old, hit) := s.latomDo s.cur h o wide op v e
      set t
      elasticRes (.y r.d ⟨old, false⟩) h.latency
      elasticRes (.p r.pd (BitVec.allOnes 64) (allOnes hit)) h.latency) s

/-! ### Refusals (R374) -/

/-- The trap of a refusal: PRIVILEGE with the address, at the slot kind of the access. -/
def refusal (h : Handle) (o : Nat) (slot : Nat) : TrapRec := ⟨5, slot, BitVec.ofNat 64 (h.va o % 2 ^ 52), true, none⟩

/-- The slot kind of a load's result: S for a scale register, else L (R168). -/
def Flight.slotCode (f : Flight) : Nat :=
  match f.res with
  | .sc _ _ => 6
  | _ => 2

/-- A switch's refusal of a load or atomic in flight, or of an entry of a load queue, reaches its context. -/
def State.refuse (s : State) (c i : Nat) : Option State :=
  let k := s.ctx c
  match k.flightOf i with
  | some f =>
    if k.trapped f then none
    else
      match f.redo with
      | some (.load _ _ h o n _ _) => if s.refuses c h o n then some (s.setCtx c (k.failFlight i (refusal h o f.slotCode))) else none
      | some (.latom _ _ h o wide _ _ _) =>
        if s.refuses c h o (if wide then 8 else 4) then some (s.setCtx c (k.failFlight i (refusal h o 5))) else none
      | _ => none
  | none =>
    if k.q.toList.any fun l => l.any fun e => e.id == i && !e.arrived && s.refuses c e.handle e.off (2 ^ e.width.toNat) then
      some (s.setCtx c { k with q := k.q.map fun l => l.map fun e =>
        if e.id = i then { e with arrived := true, failed := some (5, BitVec.ofNat 64 (e.handle.va e.off % 2 ^ 52)) } else e })
    else none

def execLoftRefusal (c id : Nat) (s : State) : Host.Outcome State Fault Refusal := event "loft switch refuses an access" (s.refuse c id)

end Sys2Proof.Machine
end

