-- ==== Sys2Proof/Machine/Results.lean ====
section
/-!
DEFINITION. The events of a context's results: arrivals and freezes (R17, R20), translations (R214), queued loads (R221),
host reads (R219), stores performed (R233), traps taken at a boundary (R327 to R329), and inserted cycles (R183).
-/

namespace Sys2Proof.Machine

/-! ### Results (R17, R20, R335 step 5) -/

/-- A result in flight arrives with its value. -/
def Ctx.arriveWith (k : Ctx) (i : Nat) (r : Result) : Ctx := k.arriveBy i 1 fun _ _ => r

/-- The number of results that a load makes: a link has two halves (R290). -/
def LoadForm.results (form : LoadForm) : Nat := if form = .link then 2 else 1

/-- Result `j` of a load from its bytes. -/
def LoadForm.bring (form : LoadForm) (h : Handle) (p : Nat) (bs : List Byte) (j : Nat) (r : Result) : Result :=
  if form = .link then r.linkHalf h p j bs else r.fill form h p bs

/-- A load's data reaches its context: the value fixed at issue, or the bytes read afresh after a freeze trap, unless an access that
comes after the load has gone on meanwhile (R318); a link's two halves together (R290). -/
def State.landLoad (s : State) (c : Nat) (f : Flight) (h : Handle) (o n p : Nat) (form : LoadForm) : State :=
  let afresh := f.again && !f.fixed
  let bs := s.loadBytes c h o n
  let t := if afresh || h.tgt == 2 then s.afterLoad c h o n else s
  t.setCtx c ((t.ctx c).arriveBy f.id form.results fun j r => if afresh then form.bring h p bs j r else r)

/-- The data of an elastic result arrives. A load of a lost plane's extent in flight raises LOFT_LOST (R379); a host page's
data arrives by its own step (R219), and what a switch refuses does not arrive (R374). -/
def State.arriveResult (s : State) (c i : Nat) : Option State := do
  let k := s.ctx c
  let f ← k.flightOf i
  if !f.elastic || k.trapped f then none
  else
    match f.redo with
    | none => some (s.setCtx c (k.arriveWith i f.res))
    | some (.load _ _ h o n p form) =>
      if h.tgt = 2 then none
      else
        match if h.tgt = 1 then s.lostPlane h o n k.sr.tenant true else none with
        | some q => some (s.setCtx c (k.failFlight i ⟨17, f.slotCode, BitVec.ofNat 64 (lostInfo q h o), true, none⟩))
        | none => if s.refuses c h o n || (f.again && s.tearsLoad c h o n) then none else some (s.landLoad c f h o n p form)
    | some (.latom _ _ h o wide op v e) => (s.latomMeet c h o wide op v e).map fun (t, old, hit) => t.setCtx c ((t.ctx c).answer i old hit)
    | _ => none

/-- A late exact result arrives (R17): another unit's answer, or a switch's answer to an allocation (R375). -/
def State.arriveExact (s : State) (c i : Nat) : Option State := do
  let k := s.ctx c
  let f ← k.flightOf i
  if f.elastic || k.trapped f then none
  else
    match f.redo with
    | none => some (s.setCtx c (k.arriveWith i f.res))
    | some (.lalloc m size planes) => some (s.answerAlloc c f m size planes)
    | _ => none

/-- A running context freezes because a result is overdue in the cycle whose bundle is next; `elastic` tells which kind. Nothing becomes
visible before the result has arrived, so that results that fall due together stand in issue order (R14). -/
def State.freezeLate (s : State) (c : Nat) (elastic : Bool) : Option State :=
  let k := s.ctx c
  if k.run == .running && k.due.isNone && k.nextFlight.any fun f => f.late && f.elastic == elastic then some (s.setCtx c { k with run := .frozen })
  else none

/-- R214: the table walk of an xlat is done. -/
def State.finishXlat (s : State) (c i : Nat) : Option State := do
  let k := s.ctx c
  let f ← k.flightOf i
  if k.trapped f then none
  else
    match f.redo, f.res with
    | some (.xlat va perm), .h d _ =>
      let info := BitVec.ofNat 64 (va.toNat % 2 ^ 52)
      match s.translate (dieOf c) k.sr.tenant va.toNat with
      | (none, t) => some (t.setCtx c (k.failFlight i ⟨4, 1, info, true, none⟩))
      | (some h, t) =>
        if perm &&& ~~~h.perm != 0 then some (t.setCtx c (k.failFlight i ⟨5, 1, info, true, none⟩))
        else some (t.setCtx c (k.arriveWith i (.h d { h with perm := perm })))
    | _, _ => none

def execResultArrival (c i : Nat) (s : State) : Host.Outcome State Fault Refusal := event "elastic result arrives" (s.arriveResult c i)
def execExactResultArrival (c i : Nat) (s : State) : Host.Outcome State Fault Refusal := event "exact result arrives" (s.arriveExact c i)
def execSlackWindowFreeze (c : Nat) (s : State) : Host.Outcome State Fault Refusal := event "slack window is over" (s.freezeLate c true)
def execExactResultFreeze (c : Nat) (s : State) : Host.Outcome State Fault Refusal := event "exact result is late" (s.freezeLate c false)
def execTranslationWalkDone (c i : Nat) (s : State) : Host.Outcome State Fault Refusal := event "table walk is done" (s.finishXlat c i)

/-! ### Load queues (R221) -/

def Ctx.setEntry (k : Ctx) (i : Nat) (f : QEntry → QEntry) : Ctx :=
  { k with q := k.q.map fun l => l.map fun e => if e.id = i then f e else e }

def Ctx.entryOf (k : Ctx) (i : Nat) : Option QEntry := (k.q.toList.flatMap fun l => l).find? fun e => e.id == i && !e.arrived

def QEntry.fail (e : QEntry) (cls : Nat) (info : Nat) : QEntry := { e with arrived := true, failed := some (cls, BitVec.ofNat 64 info) }

/-- The data of an entry reaches its queue: the value fixed at issue, or, after a failure, the one read afresh unless an access that comes
after the load has gone on meanwhile (R318). -/
def State.landEntry (s : State) (c : Nat) (e : QEntry) : State :=
  let n := 2 ^ e.width.toNat
  let afresh := e.again && !e.fixed
  let v := if afresh then loaded true (s.loadBytes c e.handle e.off n) else e.val
  let t := if afresh || e.handle.tgt == 2 then s.afterLoad c e.handle e.off n else s
  t.setCtx c ((t.ctx c).setEntry e.id fun x => { x with val := v, arrived := true, again := false })

/-- The data of a queued load arrives, or a lost plane fails the entry (R379). -/
def State.arriveEntry (s : State) (c q i : Nat) : Option State := do
  let k := s.ctx c
  let e ← k.entryOf i
  let n := 2 ^ e.width.toNat
  if !((vget k.q q []).any fun x => x.id == i) || e.handle.tgt == 2 then none
  else
    match if e.handle.tgt = 1 then s.lostPlane e.handle e.off n k.sr.tenant true else none with
    | some p => some (s.setCtx c (k.setEntry i fun e => e.fail 17 (lostInfo p e.handle e.off)))
    | none => if s.refuses c e.handle e.off n || (e.again && s.tearsLoad c e.handle e.off n) then none else some (s.landEntry c e)

def execQueuedLoadArrival (c q i : Nat) (s : State) : Host.Outcome State Fault Refusal := event "queued load arrives" (s.arriveEntry c q i)

/-! ### Loads that a later access passes (R231, R236, R318) -/

/-- Whether a load of a class and of some bytes is one that a frozen bundle comes after. -/
def Passing.hits (p : Passing) (cls : BitVec 4) (span : Nat × Nat) : Bool := p.mask.getLsbD cls.toNat || spanMeets span p.spans

/-- The class of a load or loft atomic. -/
def Redo.cls : Redo → BitVec 4
  | .load c _ _ _ _ _ _ => c
  | .latom c _ _ _ _ _ _ _ => c
  | .xlat _ _ | .lalloc _ _ _ | .paired => 0

/-- The bytes of a load that is to be made afresh, as memory holds them now: an extent that does not stand yet reads as zero once it does
(R375). -/
def State.bytesNow (s : State) (c : Nat) (h : Handle) (o n : Nat) : List Byte :=
  if s.unanswered c h o n then List.replicate n 0 else s.loadBytes c h o n

/-- Changes the results that a context has captured. -/
def Ctx.mapCaptured (k : Ctx) (g : Flight → Flight) : Ctx :=
  { k with trapRet := k.trapRet.map fun sv => { sv with flight := sv.flight.map g }
           uiRet := k.uiRet.map fun sv => { sv with flight := sv.flight.map g } }

/-- A result whose value is fixed with what `g` makes of it. -/
def Flight.fixBy (f : Flight) (i n : Nat) (g : Nat → Result → Result) : Flight :=
  if i ≤ f.id ∧ f.id < i + n then { f with res := g (f.id - i) f.res, fixed := true } else f

/-- A captured load that a later access passes keeps its value from now on: that of its issue, or, if it is to be made again, that of memory
now. A captured loft atomic is performed now; where its switch still refuses it, it is made again by the return alone (log entry 127). One
whose bytes a half performed store of its context meets waits for that (R241). -/
def State.pinFlight (s : State) (c : Nat) (f : Flight) : State :=
  match f.redo with
  | some (.load _ _ h o n q form) =>
    if s.tearsLoad c h o n then s
    else
      let afresh := f.again || s.unanswered c h o n
      let bs := s.bytesNow c h o n
      let t := if f.again then s.afterLoad c h o n else s
      t.setCtx c ((t.ctx c).mapCaptured fun e => e.fixBy f.id form.results fun j r => if afresh then form.bring h q bs j r else r)
  | some (.latom _ _ h o wide op v e) =>
    if s.tearsLoad c h o (if wide then 8 else 4) then s
    else
      match s.latomMeet c h o wide op v e with
      | some (t, old, hit) => t.setCtx c ((t.ctx c).mapCaptured fun e => e.arriveBy f.id 2 fun _ r => r.answered old hit)
      | none => s.setCtx c ((s.ctx c).mapCaptured fun e => e.fixBy f.id 2 fun _ r => r)
  | _ => s

/-- A failed entry of a load queue that a later access passes keeps what memory holds now: only the qpop that meets it has it read afresh
(R221), and the access cannot wait for that (log entry 103). -/
def State.pinEntry (s : State) (c : Nat) (e : QEntry) : State :=
  let n := 2 ^ e.width.toNat
  if s.tearsLoad c e.handle e.off n then s
  else
    let v := loaded true (s.bytesNow c e.handle e.off n)
    let t := s.afterLoad c e.handle e.off n
    t.setCtx c ((t.ctx c).setEntry e.id fun x => { x with val := v, fixed := true })

/-- The captured loads and the failed entries of load queues that a bundle comes after which freezes over them: their values are fixed, so
that nothing ordered after them is seen by them (R231, R236, R318), however late they are made again. -/
def State.pin (s : State) (c : Nat) (p : Passing) : State :=
  let k := s.ctx c
  let fs := k.captured.filter fun f => f.unfixed && f.redo.any fun r => (s.redoSpan c r).any (p.hits r.cls)
  let es := (k.q.toList.flatMap fun l => l).filter fun e =>
    e.failed.isSome && e.unfixed && p.hits e.cls (s.loadSpan c e.handle e.off (2 ^ e.width.toNat))
  es.foldl (fun t e => t.pinEntry c e) (fs.foldl (fun t f => t.pinFlight c f) s)

/-! ### Host reads (R219) -/

/-- EINFO of HOST_ERROR (R333). -/
def hostInfo (err : BitVec 2) (va : Nat) : Nat := err.toNat * 2 ^ 62 + va % 2 ^ 52

/-- The handle of the page that a started engine command reads, so that its read may end in error (R219; log entry 36 for xfer, log entry
136 for a launch, whose read does not). -/
def EOp.readsPage : EOp → Option Handle
  | .copy false h _ _ _ _ => some h
  | .copyg false h _ _ _ _ => some h
  | .copyx false h _ _ _ => some h
  | .bank h _ _ _ _ _ => some h
  | .xfer false h _ _ _ _ => some h
  | _ => none

/-- The number that names the first word which the fetch at a context's PC reads from a host page; the words after it have the numbers
after it (log entry 57). No result, entry or command has one of them. -/
def State.fetchNo (s : State) (c : Nat) : Nat := s.next + (s.ctx c).nextId

/-- The read that `i` names ends, in error or not: a load in flight, an entry of a load queue, a started engine command, or, in error, a
word of the fetch at the PC. -/
def State.hostRead (s : State) (c i : Nat) (err : Option (BitVec 2)) : Option State :=
  let k := s.ctx c
  match k.flightOf i with
  | some f =>
    match f.redo with
    | some (.load _ _ h o n p form) =>
      if h.tgt ≠ 2 ∨ k.trapped f = true then none
      else
        match err with
        | none => if f.again && s.tearsLoad c h o n then none else some (s.landLoad c f h o n p form)
        | some e => some (s.setCtx c (k.failFlight i ⟨21, f.slotCode, BitVec.ofNat 64 (hostInfo e (h.va o)), true, none⟩))
    | _ => none
  | none =>
    match k.entryOf i with
    | some e =>
      if e.handle.tgt ≠ 2 then none
      else
        match err with
        | none => if e.again && s.tearsLoad c e.handle e.off (2 ^ e.width.toNat) then none else some (s.landEntry c e)
        | some x => some (s.setCtx c (k.setEntry i fun e => e.fail 21 (hostInfo x (e.handle.va e.off))))
    | none =>
      match err with
      | none => none
      | some e =>
        match s.ecmds.find? fun d => d.id == i && d.ctx == c && d.stage == .started with
        | some d =>
          match d.op.readsPage with
          | none => none
          | some h => if h.tgt = 2 then some (s.failHost d) else none
        | none =>
          if s.fetchNo c ≤ i ∧ k.run = .running then
            ({ s with cur := c }.hostFetch (i - s.fetchNo c)).map fun va => s.setCtx c (k.addDue ⟨21, 7, BitVec.ofNat 64 (hostInfo e va), false, none⟩)
          else none

def execHostReadCompletion (c i : Nat) (err : Option (BitVec 2)) (s : State) : Host.Outcome State Fault Refusal :=
  event "host read completes" (s.hostRead c i err)

/-- No completion within the time that Device Control 2 sets: kind 2. -/
def execCompletionTimeout (c i : Nat) (s : State) : Host.Outcome State Fault Refusal := event "host read times out" (s.hostRead c i (some 2))

/-! ### Stores (R231, R233, R235) -/

/-- A granule among a context's stores: its access, class, key, bytes and loft page. -/
structure Granule where
  acc : Nat
  cls : BitVec 4
  key : Nat
  bytes : List Byte
  loft : Option (Handle × Nat)
  deriving DecidableEq, Repr

/-- What stands before a granule, the granule itself, and what stands after it. -/
def splitStore (id : Nat) : List Pend → Option (List Pend × Granule × List Pend)
  | [] => none
  | .store j acc c k bs lo :: ps =>
    if j = id then some ([], ⟨acc, c, k, bs, lo⟩, ps) else (splitStore id ps).map fun r => (.store j acc c k bs lo :: r.1, r.2.1, r.2.2)
  | .fence m sc cs :: ps => (splitStore id ps).map fun r => (.fence m sc cs :: r.1, r.2.1, r.2.2)

/-- Whether an entry is another granule of the same access, and of other bytes: the two are not ordered (R240). -/
def Granule.beside (g : Granule) : Pend → Bool
  | .store _ acc _ key bs _ => acc == g.acc && !(decide (key < g.key + g.bytes.length) && decide (g.key < key + bs.length))
  | .fence _ _ _ => false

/-- Whether an entry is a granule of an access. -/
def Pend.ofAcc (acc : Nat) : Pend → Bool
  | .store _ a _ _ _ _ => a == acc
  | .fence _ _ _ => false

/-- The context's stores without the further granules of an access. -/
def withoutAcc (acc : Nat) (ps : List Pend) : List Pend := ps.filter fun p => !p.ofAcc acc

/-- A granule reaches its memory. Of a loft page, its switches perform it if it still lies in an extent of the tenant, and else the
store is refused and PRIVILEGE awaits the context (R374, R376); on a lost plane it may or may not be performed, and a free value
decides (R379). -/
def State.landGranule (s : State) (c : Nat) (g : Granule) : State :=
  let k := s.ctx c
  match g.loft with
  | none => s.perform (coreOf c) g.key g.bytes
  | some (h, o) =>
    let t := performAll s (coreOf c) g.bytes (s.storeKeys h o g.bytes.length k.sr.tenant)
    if (s.lostPlane h o g.bytes.length k.sr.tenant false).isSome then
      if (Config.freeValue s.free).getLsbD 0 then { t with free := s.free + 1 } else { s with free := s.free + 1 }
    else if s.refuses c h o g.bytes.length then
      s.setCtx c (Ctx.addDue { k with stores := withoutAcc g.acc k.stores } ⟨5, 2, BitVec.ofNat 64 (h.va o % 2 ^ 52), true, none⟩)
    else t

/-- A granule of a store is performed, once what it comes after has been: earlier accesses of its class and what fences order before
it (R231, R235), the context's commands of the class (R239, R243) among them. While others of its access are not, the access is torn
(R241). -/
def State.performStore (s : State) (c id : Nat) : Option State := do
  let k := s.ctx c
  let (pre, g, post) ← splitStore id k.stores
  if pendBlocks g.cls 0 (pre.filter fun p => !g.beside p) || (s.classCmds c g.cls).any fun i => decide (i < id) then none
  else
    let rest := pre ++ post
    let torn := (g.acc :: k.torn).filter fun a => rest.any (Pend.ofAcc a)
    some ((((s.refence c).setCtx c { k with stores := dropFences rest, torn := torn }).landGranule c g))

def execStorePerformed (c id : Nat) (s : State) : Host.Outcome State Fault Refusal := event "store is performed" (s.performStore c id)

/-! ### Traps at a boundary, inserted cycles -/

/-- R327 to R329: a context takes the trap that awaits it. -/
def State.takeDue (s : State) (c : Nat) : Option State := do
  let k := s.ctx c
  let r ← k.due
  if k.run = .halted ∧ k.retiring = none then none
  else some { (s.setCtx c { k with due := none }).trapCtx c r with status := .trapped r }

def execTrapTaken (c : Nat) (s : State) : Host.Outcome State Fault Refusal := event "trap is taken" (s.takeDue c)

/-- R183: an architectural cycle in which the running context issues no bundle. -/
def execInsertedCycle (s : State) : Host.Outcome State Fault Refusal := .next (s.setHere s.here.tick)

end Sys2Proof.Machine
end

