-- ==== Sys2Proof/Machine/Bundle.lean ====
section
/-!
DEFINITION. Issuing a bundle (R7, R8, R12, R53, R180, R183): fetching its words or taking them from the loop buffer, the
checks of R53 in their order, running its slots from one and the same state of the registers, and the end of its
architectural cycle; with the choice of the context that issues (R181). The meaning of one instruction is a parameter here,
`ex`, so that the dispatch stays in one place.
-/

namespace Sys2Proof.Machine

abbrev Meaning := Instr → State → Host.Outcome State Fault Refusal

/-! ### The words of a bundle (R53 step 1) -/

/-- The header and the slot words of the bundle at a virtual address; a bundle with a call or jr has the headers of the three
bundles after it fetched too (R57). -/
def State.fetchBundle (s : State) (va : Nat) : Except TrapRec (List Nat) × State :=
  match s.fetchWord va with
  | (.error r, t) => (.error r, t)
  | (.ok h, t) =>
    match t.fetchWords (va + 4) (headerSlots h.toNat).length with
    | (.error r, u) => (.error r, u)
    | (.ok ws, u) =>
      let op := bits (ws.headD 0).toNat 26 6
      if bitAt h.toNat (maskBit .X) ∧ (op = 0x25 ∨ op = 0x26) then
        match u.skipBundles (va + bundleSize h.toNat) 3 with
        | (.error r, v) => (.error r, v)
        | (.ok _, v) => (.ok (h.toNat :: ws.map BitVec.toNat), v)
      else (.ok (h.toNat :: ws.map BitVec.toNat), u)

/-- The address and words of the bundle that the running context issues: at its PC, or from the loop buffer while a repeat is
in progress (R176, R338). -/
def State.bundleWords (s : State) : Except TrapRec (Nat × List Nat) × State :=
  match s.here.rep with
  | some p =>
    match p.body[(p.r - 1) % p.body.length]? with
    | some (a, ws) => (.ok (a, ws.map BitVec.toNat), s)
    | none => (.error (fetchTrap 5 0), s)
  | none =>
    match s.fetchBundle s.here.pc.toNat with
    | (.error r, t) => (.error r, t)
    | (.ok ws, t) => (.ok (s.here.pc.toNat, ws), t)

/-! ### Encoding checks (R53 steps 2 and 3) -/

/-- The word of a slot kind in a bundle. -/
def wordOf (words : List Nat) (k : SlotKind) : Nat :=
  let hw := words.headD 0
  ((words.tail.zip (headerSlots hw)).find? fun p => p.2 == k).elim 0 Prod.fst

/-- The trap of an encoding fault (R34, R36 to R38, R333). -/
def encTrap (words : List Nat) : EncErr → TrapRec
  | .header => ⟨2, 7, BitVec.ofNat 64 (words.headD 0), false, none⟩
  | .opcode k => ⟨1, k.code, BitVec.ofNat 64 (wordOf words k), false, none⟩
  | .field k => ⟨2, k.code, BitVec.ofNat 64 (wordOf words k), false, none⟩

/-! ### The slots -/

/-- What the slots of a bundle do in order: the M slot of a repeat head is the head's own (R48), the other slots are their
instructions. The repetition of a body bundle takes the M slot's place (R176). -/
def bundleOps (b : Bundle) (rep : Bool) : List Instr :=
  if rep then
    ((b.slots.filter fun p => p.1.code < 4).map Prod.snd) ++ .repetition :: ((b.slots.filter fun p => 4 < p.1.code).map Prod.snd)
  else
    b.slots.map fun p =>
      match b.rep with
      | some len => if p.1 = .M then .repeatHead len b.mword else p.2
      | none => p.2

/-- Whether an instruction is the trap of R105, which acts once the other slots of its bundle have. -/
def isTrap : Instr → Bool
  | .trap _ _ => true
  | _ => false

/-- How the slots of a bundle end: all of them done; one of them stopped the bundle, and how; a return from a handler has
chosen the next bundle; or something the model does not carry on from. -/
inductive SlotsEnd | done (s : State) | stopped (a : Status) | left (s : State) | other (o : Host.Outcome State Fault Refusal)

/-- Runs slots one after another. Every slot reads the registers as they were when the bundle issued, because results become
visible only at the end of the cycle (R12, R13). -/
def runSlots (ex : Meaning) (s : State) : List Instr → SlotsEnd
  | [] => .done s
  | i :: is =>
    match ex i s with
    | .next t =>
      (match t.status with
       | .ok => runSlots ex t is
       | .redirected => .left t
       | a => .stopped a)
    | o => .other o

/-- A stopped bundle: no slot of it takes effect (R12, R53, R180). One that freezes over loads it comes after leaves the value of those
fixed that it cannot wait for. -/
def State.stopBundle (s : State) (a : Status) : State :=
  match a with
  | .trapped r => s.takeTrap r
  | .blocked act => s.block act
  | .frozen => s.freeze
  | .frozenPast p => (s.freezePast p).pin s.cur p
  | _ => s

/-- The results that count as in flight (R183). -/
def Ctx.inFlight (k : Ctx) : Nat := k.flight.length

/-- The end of a bundle whose slots have run: a bundle that would hold more than 64 results in flight does not issue, and a cycle
is inserted instead (R183); else trap, if the bundle holds one that is enabled, and otherwise the end of the cycle. `s0` is the
state in which the bundle issued. -/
def finishBundle (ex : Meaning) (s0 t : State) (b : Bundle) (grp : Group) : Host.Outcome State Fault Refusal :=
  if Config.maxInFlight < t.here.inFlight then ex .insertedCycle s0
  else
    let ended := t.setHere (t.here.endBundle s0.here.branch b.size (b.slots.any fun p => isBranch p.2) grp)
    match (b.slots.map Prod.snd).find? isTrap with
    | none => .next ended
    | some i =>
      match ex i t with
      | .next u => if u.status = .ok then .next ended else .next u
      | o => o

/-- R53 steps 2 to 6 and the bundle's effect. The words are those of the running context's bundle. -/
def issueWords (ex : Meaning) (s : State) (words : List Nat) : Host.Outcome State Fault Refusal :=
  let k := s.here
  match decodeBundle (words.headD 0) words.tail with
  | .error e => .next (s.takeTrap (encTrap words e))
  | .ok b =>
    match (match b.rep with
           | none => none
           | some len =>
             match s.headCheck (words.headD 0) len b.mword with
             | (.error r, _) => some r
             | (.ok _, _) => none) with
    | some r => .next (s.takeTrap r)
    | none =>
      match checkGroup k b.slots words b.rep.isSome with
      | .error r => .next (s.takeTrap r)
      | .ok (rd, wr) =>
        if b.slots = [] ∧ k.rep = none then ex (.emptyBundle b.stop) s
        else
          match runSlots ex s ((bundleOps b k.rep.isSome).filter fun i => !isTrap i) with
          | .stopped a => .next (s.stopBundle a)
          | .left t => .next t
          | .other o => o
          | .done t => finishBundle ex s t b (if b.stop then Group.fresh else ⟨k.group.count + 1, rd, wr⟩)

/-- Whether a store of a loft page that has not been answered stands before a fence of its class whose scope holds the switches: no
bundle after the fence issues before the answer (R374). -/
def loftHeld : List Pend → Bool
  | [] => false
  | .store _ _ c _ _ lo :: ps =>
    (lo.isSome && ps.any fun p =>
      match p with
      | .fence m sc _ => m.getLsbD c.toNat && decide (8 ≤ sc.toNat)
      | .store _ _ _ _ _ _ => false) || loftHeld ps
  | .fence _ _ _ :: ps => loftHeld ps

/-- Whether a command that a context issued at its present level has stayed in an elastic buffer beyond its slack (R160, R253). -/
def Ctx.overdue (k : Ctx) (lvl due : Nat) : Bool := lvl == k.level && decide (due < k.levelCyc)

/-- What the next bundle of the running context waits for: a result that should be visible in its cycle has not arrived (R17, R20); a
command stays in an elastic buffer (R160, R253); a store that a fence covers is not answered (R374). The context freezes. -/
def State.mustWait (s : State) : Bool :=
  let k := s.here
  (k.nextFlight.any Flight.late) || loftHeld k.stores ||
  (s.mcmds.any fun c => c.ctx == s.cur && c.live && c.stage == .buffer && k.overdue c.lvl c.due) ||
  (s.ecmds.any fun c => c.ctx == s.cur && c.live && c.stage == .buffer && k.overdue c.lvl c.due)

/-- The running context at a bundle: its address and its header word. -/
def State.atBundle (s : State) (a : Nat) (ws : List Nat) : State :=
  { s.setHere { s.here with pc := BitVec.ofNat 64 a } with header := BitVec.ofNat 32 (ws.headD 0) }

/-- The bundle that context `s.cur` has next is issued, once no store keeps its words from being fetched (R58). -/
def issueBundle (ex : Meaning) (s : State) : Host.Outcome State Fault Refusal :=
  let s1 := { s.setHere { s.here with run := .running } with status := .ok, issueFrom := s.next }
  if s1.codeHeld then .next s.freeze
  else
    match s1.bundleWords with
    | (.error r, t) => .next (t.takeTrap r)
    | (.ok (a, ws), t) => issueWords ex (t.atBundle a ws) ws

/-- Whether an outcome is that a bundle has taken a trap with a number below `n`. -/
def trapsBelow (n : Nat) (o : Host.Outcome State Fault Refusal) : Bool :=
  match o with
  | .next t =>
    (match t.status with
     | .trapped r => decide (r.cls < n)
     | _ => false)
  | _ => false

/-- The context `s.cur` in its next cycle: it issues its next bundle, or takes a trap that a result has raised as it became visible in
that cycle (R364). Of that trap and one of the bundle's own, found in the same clock cycle, the lower number goes first and the other is not
recorded (R328). -/
def issueNow (ex : Meaning) (s : State) : Host.Outcome State Fault Refusal :=
  match s.here.due with
  | none => issueBundle ex s
  | some r =>
    let o := issueBundle ex (s.setHere { s.here with due := none })
    if trapsBelow r.cls o then o else ex (.trapTaken s.cur) s

/-- The context `s.cur` is offered its core's slot: it takes a trap or an interrupt that awaits it at the boundary (R328, R280),
waits, or goes on to its next cycle. -/
def issueHere (ex : Meaning) (s : State) : Host.Outcome State Fault Refusal :=
  if s.here.due.isSome then ex (.trapTaken s.cur) s
  else if (s.userInterrupt s.cur).isSome then ex (.userInterruptTaken s.cur) s
  else if s.mustWait then .next s.freeze
  else issueNow ex (s.setHere s.here.newCycle)

/-! ### Which context issues (R180, R181, R105) -/

/-- Whether a context is ready, or frozen in the slot it has (R180, R181). -/
def State.ready (s : State) (c : Nat) : Bool := s.able c && (s.ctx c).run != .blocked

/-- The context of a core that holds its slot, or gave it up last. -/
def State.holder (s : State) (core : Nat) : Nat := (alGet s.holders core).getD (4 * core)

/-- The first ready context in rotation from one of a core, itself last (R181). -/
def State.rotate (s : State) (c : Nat) : Option Nat :=
  [1, 2, 3, 4].findSome? fun j =>
    let d := 4 * (c / 4) + (c + j) % 4
    if s.ready d then some d else none

/-- The context that a core offers its slot to: the holder while it is ready, else the next in rotation. -/
def State.offered (s : State) (core : Nat) : Option Nat :=
  if s.ready (s.holder core) then some (s.holder core) else s.rotate (s.holder core)

/-- The cores that hold a ready context, in ascending order. -/
def State.cores (s : State) : List Nat := ((s.ctxs.filter fun p => p.1 < 4096 && s.ready p.1).map fun p => p.1 / 4).dedup

/-- The core after one, in order round the package, that has a context to issue. -/
def State.nextCore (s : State) (core : Nat) : Option Nat :=
  match s.cores.find? fun c => core < c with
  | some c => some c
  | none => s.cores.head?

/-- Sets the holder of a core. -/
def State.hold (s : State) (c : Nat) : State := { s with holders := alSet s.holders (c / 4) c }

/-- Whether one of some slots blocks; one that freezes or traps is passed over, since that is no condition the bundle blocks for. -/
def slotsBlock (ex : Meaning) (s : State) : List Instr → Bool
  | [] => false
  | i :: is =>
    match ex i s with
    | .next t =>
      (match t.status with
       | .ok => slotsBlock ex t is
       | .blocked _ => true
       | _ => slotsBlock ex s is)
    | _ => slotsBlock ex s is

/-- Whether the bundle of context `s.cur` would still block (R180). -/
def State.bundleBlocks (ex : Meaning) (s : State) : Bool :=
  let s1 := { s.setHere { s.here.newCycle with run := .running } with status := .ok, issueFrom := s.next }
  match s1.bundleWords with
  | (.error _, _) => false
  | (.ok (a, ws), t) =>
    match decodeBundle (ws.headD 0) ws.tail with
    | .error _ => false
    | .ok b => slotsBlock ex (t.atBundle a ws) ((bundleOps b t.here.rep.isSome).filter fun i => !isTrap i)

/-- Whether a tag that a blocked context awaits has changed since it blocked (R225). -/
def State.tagChanged (s : State) (c : Nat) : Bool := (s.ctx c).tagWait.any fun p => cellAt s.tags p.1 != p.2

/-- Whether a blocked context may go on: a trap or an interrupt awaits it, a tag that it awaits has changed (R225), or the condition of its
bundle is met (R181, R280, R328). -/
def State.unblocked (ex : Meaning) (s : State) (c : Nat) : Bool :=
  (s.ctx c).due.isSome || (s.userInterrupt c).isSome || s.tagChanged c || !State.bundleBlocks ex { s with cur := c, status := .ok }

/-- The blocked contexts whose condition is met. -/
def State.woken (ex : Meaning) (s : State) : List Nat :=
  ((s.ctxs.filter fun p => p.1 < 4096 && p.2.run == .blocked && s.able p.1).map Prod.fst).filter (s.unblocked ex)

/-- A blocked context becomes ready. One for which an interrupt is pending takes it before anything else, as it would while it was
blocked (R280). -/
def State.awaken (s : State) (c : Nat) : State :=
  let k := s.ctx c
  s.setCtx c { k with run := .running, boundary := k.boundary || (s.userInterrupt c).isSome, tagWait := [] }

/-- The slot of a core goes to the first ready context in rotation from the one that gave it up. -/
def State.giveTurn (s : State) (core : Nat) : State := (s.rotate (s.holder core)).elim s s.hold

/-- R181: blocked contexts become ready as soon as their conditions are met, before anything else happens; on an idle core the first
to become ready has the slot from then on, and of several at once the first in rotation from the one that gave it up. -/
def State.wake (ex : Meaning) (s : State) : State :=
  match s.woken ex with
  | [] => s
  | cs => ((cs.map fun c => c / 4).dedup.filter fun core => (s.offered core).isNone).foldl State.giveTurn (cs.foldl State.awaken s)

/-- After context `c` has had the slot: it keeps it while it runs or is frozen, a handler that it has just entered among it (R329);
when it blocked, halted or yielded the next in rotation gets it (R180, R105). The next core's turn follows. -/
def State.turnOver (s : State) (c : Nat) : State :=
  let k := s.ctx c
  let gives := k.yielded || !s.ready c
  let s1 := if k.yielded then s.setCtx c { k with yielded := false } else s
  let s2 := s1.hold (if gives then (s1.rotate c).getD c else c)
  match s2.nextCore (c / 4) with
  | none => s2
  | some core => { s2 with cur := (s2.offered core).getD s2.cur }

/-- One turn: the core of the context whose bundle is next, or the next core that has a ready one, issues; a device without a ready
context stands still. -/
def issueTurn (ex : Meaning) (s : State) : Host.Outcome State Fault Refusal :=
  match (s.offered (coreOf s.cur)).orElse fun _ => (s.nextCore (coreOf s.cur)).bind s.offered with
  | none => .next s
  | some c =>
    match issueHere ex { s with cur := c, status := .ok } with
    | .next t => .next (t.turnOver c)
    | o => o

end Sys2Proof.Machine
end

