-- ==== Sys2Proof/Machine/Task.lean ====
section
/-!
DEFINITION. Tile tasks (R184 to R201, R330, R342 to R345, R352 to R354): launch and its snapshot, the dispatcher, the end of
a context's part and of an instance, pre-emption, resumption, and kill.
-/

namespace Sys2Proof.Machine

/-! ### The task record (R187, R188) -/

def recNat (r : List Byte) (at_ n : Nat) : Nat := leNat ((r.drop at_).take n)

def recCode (r : List Byte) : Nat := recNat r 0 8
def recAffinity (r : List Byte) : Nat := recNat r 8 8
def recBase (r : List Byte) : Nat := recNat r 16 4
def recSize (r : List Byte) : Nat := recNat r 20 4
def recAcb (r : List Byte) : Nat := recNat r 24 1
def recAcn (r : List Byte) : Nat := recNat r 25 1
def recCtxs (r : List Byte) : Nat := recNat r 26 1
def recCtl (r : List Byte) : Nat := recNat r 27 1
def recSlack (r : List Byte) : Nat := recNat r 28 2
def recTenant (r : List Byte) : Nat := recNat r 30 2
def recSlots (r : List Byte) : Nat := recNat r 32 8
def recSingle (r : List Byte) : Bool := bitAt (recCtl r) 7
def recShare (r : List Byte) : Bool := bitAt (recCtl r) 6
def recPrio (r : List Byte) : Nat := recCtl r % 4

/-- WAIT0, WAIT1, SIG0 and SIG1 are references 0 to 3. -/
def recRef (r : List Byte) (i : Nat) : Nat := recNat r (40 + 8 * i) 8
def recArg (r : List Byte) (i : Nat) : W64 := BitVec.ofNat 64 (recNat r (72 + 8 * i) 8)

def refOn (v : Nat) : Bool := bitAt v 15

/-- R190: the code of the first failing check of a snapshot; 0 when it passes. -/
def State.refusal (s : State) (r : List Byte) (tenant : BitVec 16) (stream : Bool) : Nat :=
  let refs := (List.range 4).map (recRef r)
  if recCode r % 16 ≠ 0 ∨ 2 ^ 52 ≤ recCode r then 1
  else if recBase r % 256 ≠ 0 ∨ 2 ^ 23 ≤ recBase r ∨ recSize r % 256 ≠ 0 ∨ Config.windowSize < recBase r + recSize r ∨ 31 < recAcb r ∨
      32 < recAcn r ∨ 32 < recAcb r + recAcn r ∨ recCtxs r = 0 ∨ 4 < recCtxs r ∨ 1023 < recSlack r ∨ bits (recCtl r) 2 4 ≠ 0 then 2
  else if recTenant r ≠ tenant.toNat ∧ stream = false then 3
  else if (refs.any fun v => if refOn v then decide (23 < bits v 8 5) else v != 0) = true then 4
  else if stream = false ∧ (refs.any fun v => refOn v &&
      (s.semTen.find? fun p => p.1 == bits v 8 7).map Prod.snd != some (BitVec.ofNat 16 (recTenant r))) = true then 6
  else 0

/-! ### launch (R189 to R191) -/

/-- R189: the record's page offset or local address, checked at issue; the launch comes after every store issued before. -/
def execLaunch (g : Guard) (k : KE) (hf : Bool) (hn : BitVec 4) (q : BitVec 3) (s : State) :=
  runSlot g (do
    let a := (← needQuad q 0).toNat
    let arg ← needQuad q 1
    checkAlign a 128 a
    let h ← readH hn
    if hf then raiseSome .E (checkHandle hn.toNat h a 128 128 true false true)
    else checkRange a 128
    let ks ← consumed (usesOf k)
    let _ ← issueE k.kd ks .launch (.launch hf h a arg false none) (storeIds none s.here.stores)) s

/-- The physical key of a launch's record (R198). -/
def launchKey (c : Nat) (hf : Bool) (h : Handle) (a : Nat) : Nat := if hf then h.key a else spadKey (clusterOf c) a

/-- Whether an instance from an address is live (R198). -/
def State.liveFrom (s : State) (key : Nat) : Bool :=
  (s.pendings.any fun p => p.key == key) || (s.insts.any fun i => i.key == key) || (s.images.any fun i => i.inst.key == key)

/-- R193, R208: the home cluster of a record. AFFINITY is translated by the TLB of the launching context's die (log entry 121). -/
def State.homeOf (s : State) (c : Nat) (r : List Byte) : Nat × State :=
  let own := clusterOf c
  if recAffinity r = 0 then (own, s)
  else
    match s.translate (dieOf c) (BitVec.ofNat 16 (recTenant r)) (recAffinity r) with
    | (none, t) => (own, t)
    | (some h, t) =>
      if h.tgt ≠ 0 then (own, t)
      else
        let pa := h.ppn.toNat * 65536 + recAffinity r % pageBytes h.size
        let stack := bits pa 36 4
        (stack / 3 * 32 + 8 * (stack % 3) + bits pa 12 5 % 8, t)

/-- R189: a snapshot that has passed its checks enters its home die's pending set, once that has room. -/
def State.enterPending (s : State) (c : ECmd) (key : Nat) (arg : W64) (r : List Byte) : Option State :=
  let (home, t) := s.homeOf c.ctx r
  if Config.pendingMax ≤ (t.pendings.filter fun p => p.home / 32 == home / 32).length then none
  else some { t.passE c with pendings := t.pendings ++ [⟨t.next, c.tok, home, r, key, arg, recPrio r, false⟩], next := t.next + 1 }

/-- R189, R190, R198: a started launch reads its record: refused, discarded because a live instance from the address is
SINGLE's obstacle, or, its checks passed, entered or kept until there is room. -/
def State.snapshot (s : State) (c : ECmd) (hf : Bool) (h : Handle) (a : Nat) (arg : W64) : State :=
  if hf ∧ s.pageFails h a 128 c.tenant true then s.failLoft c
  else
    let r := if hf then s.pageRead h a 128 c.tenant else readCells s.mem (spadKey (clusterOf c.ctx) a) 128
    let code := s.refusal r c.tenant (s.ctx c.ctx).stream
    let key := launchKey c.ctx hf h a
    if code ≠ 0 then s.dropE c code
    else if recSingle r ∧ s.liveFrom key then s.putE { c with op := .launch hf h a arg true none }
    else (s.enterPending c key arg r).getD (s.putE { c with op := .launch hf h a arg false (some r) })

/-- Whether a store to a launch's record is half performed, by any context: no snapshot observes a store in part (R190). -/
def State.recordTorn (s : State) (c : ECmd) (hf : Bool) (h : Handle) (a : Nat) : Bool :=
  let r := if hf then s.loadSpan c.ctx h a 128 else (spadKey (clusterOf c.ctx) a, 128)
  s.ctxs.any fun p => s.tears p.1 r.1 r.2

/-- A started launch takes its snapshot, or tries again to enter the one it has. -/
def State.launchSnapshot (s : State) (id : Nat) : Option State := do
  let c ← s.findE id
  match c.op with
  | .launch hf h a arg false none => if c.stage = .started ∧ s.recordTorn c hf h a = false then some (s.snapshot c hf h a arg) else none
  | .launch hf h a arg false (some r) => s.enterPending c (launchKey c.ctx hf h a) arg r
  | _ => none

/-- R198: the discarded snapshot is taken anew once every live instance from its address has ended. -/
def State.resnapshot (s : State) (id : Nat) : Option State := do
  let c ← s.findE id
  match c.op with
  | .launch hf h a arg true _ =>
    if s.liveFrom (launchKey c.ctx hf h a) || s.recordTorn c hf h a then none else some (s.snapshot c hf h a arg)
  | _ => none

def execLaunchSnapshot (id : Nat) (s : State) : Host.Outcome State Fault Refusal := event "launch takes its snapshot" (s.launchSnapshot id)
def execSingleResnapshot (id : Nat) (s : State) : Host.Outcome State Fault Refusal := event "SINGLE snapshot is taken anew" (s.resnapshot id)

/-! ### Room (R186, R195) -/

/-- The command stream of a die (R185). -/
def State.streamCtx (s : State) (die : Nat) : Nat := ((alGet s.streams die).map Config.StreamCfg.ctx).getD (die * 1024)

/-- The first byte of a die's reserved range (R186). -/
def State.reservedOf (s : State) (die : Nat) : Nat := ((alGet s.streams die).map Config.StreamCfg.reserved).getD Config.reservedDefault

/-- Whether [a, a + m) and [b, b + n) have a member in common. -/
def meets (a m b n : Nat) : Bool := decide (0 < m) && decide (0 < n) && decide (a < b + n) && decide (b < a + m)

/-- The tiles of a core that a started command of a killed context still reads or writes (R330, R157). -/
def State.deadTiles (s : State) (core : Nat) : List Nat :=
  ((s.mcmds.filter fun m => !m.live && coreOf m.ctx == core).flatMap fun m => m.op.tilesR ++ m.op.tilesW) ++
    (s.ecmds.filter fun e => !e.live && coreOf e.ctx == core).filterMap fun e => e.op.tile.map Prod.fst

/-- Whether the tiles of a record are free on a core: no instance and no command stream has one of them, and no command of a killed context
touches one any more, so that what a task finds in its tiles is zero (R157, log entry 129). -/
def State.tilesFree (s : State) (core : Nat) (r : List Byte) : Bool :=
  let die := core / 256
  !((s.deadTiles core).any fun t => decide (recAcb r ≤ t ∧ t < recAcb r + recAcn r)) &&
  (s.insts.all fun i => !(i.core == core && meets (recAcb r) (recAcn r) (recAcb i.record) (recAcn i.record))) &&
  (match alGet s.streams die with
   | none => true
   | some c => !(coreOf c.ctx == core && meets (recAcb r) (recAcn r) c.acb c.acn))

def State.spadFree (s : State) (cluster : Nat) (r : List Byte) : Bool :=
  let die := cluster / 32
  (s.insts.all fun i => !(i.core / 8 == cluster && meets (recBase r) (recSize r) (recBase i.record) (recSize i.record) &&
    !(recShare r && recShare i.record && recTenant r == recTenant i.record))) &&
  !(clusterOf (s.streamCtx die) == cluster && meets (recBase r) (recSize r) (s.reservedOf die) (Config.windowSize - s.reservedOf die))

/-- The contexts of a core that no instance has and that are not a command stream's. -/
def State.freeCtxs (s : State) (core : Nat) : List Nat :=
  ((List.range 4).map fun i => core * 4 + i).filter fun c => (s.ctx c).task.isNone && c != s.streamCtx (core / 256)

/-- The contexts that an instance of `n` would take on a core, if it has room. -/
def State.roomOn (s : State) (core : Nat) (r : List Byte) (n : Nat) : Option (List Nat) :=
  let f := s.freeCtxs core
  if decide (n ≤ f.length) && s.tilesFree core r && s.spadFree (core / 8) r then some (f.take n) else none

def State.roomIn (s : State) (cluster : Nat) (r : List Byte) (n : Nat) : Option (Nat × List Nat) :=
  (List.range 8).findSome? fun k => (s.roomOn (cluster * 8 + k) r n).map fun cs => (cluster * 8 + k, cs)

/-- The distance of two clusters of a die over the mesh (R193). -/
def meshDist (a b : Nat) : Nat := (a / 6 - b / 6) + (b / 6 - a / 6) + ((a % 6 - b % 6) + (b % 6 - a % 6))

/-- R193: the nearest cluster of the home die with room. -/
def State.homeRoom (s : State) (p : Pending) : Option (Nat × List Nat) :=
  let die := p.home / 32
  (List.range 9).findSome? fun d => (List.range 24).findSome? fun c =>
    if meshDist c (p.home % 32) = d then s.roomIn (die * 32 + c) p.record (recCtxs p.record) else none

/-- The number of bits in which two die numbers differ. -/
def dieDist (a b : Nat) : Nat := (a % 2 + b % 2) % 2 + (a / 2 + b / 2) % 2

/-- R194: the other dies by distance and number. -/
def State.awayRoom (s : State) (p : Pending) : Option (Nat × List Nat) :=
  let die := p.home / 32
  [1, 2].findSome? fun d => (List.range 4).findSome? fun e =>
    if dieDist e die = d then (List.range 24).findSome? fun c => s.roomIn (e * 32 + c) p.record (recCtxs p.record) else none

/-- R188, R192: every WAIT in force holds. -/
def State.waitsHold (s : State) (r : List Byte) : Bool :=
  [0, 1].all fun i => !refOn (recRef r i) || decide (signedOf 48 (bits (recRef r i) 16 48) ≤ (cellAt s.sems (bits (recRef r i) 0 15)).toInt)

/-! ### Slot tables (R352 to R354) -/

/-- The bytes of a tenant's virtual range, from 64 KiB piece to piece; none where one cannot be translated or read. -/
def State.readVirtual (s : State) (die : Nat) (tenant : BitVec 16) (va n : Nat) : Nat → Option (List Byte) × State
  | 0 => (some [], s)
  | f + 1 =>
    if n = 0 then (some [], s)
    else
      let m := min n (65536 - va % 65536)
      match s.translate die tenant va with
      | (none, t) => (none, t)
      | (some h, t) =>
        let o := va % pageBytes h.size
        if !h.r || t.pageFails h o m tenant true then (none, t)
        else
          match t.readVirtual die tenant (va + m) (n - m) f with
          | (none, u) => (none, u)
          | (some bs, u) => (some (t.pageRead h o m tenant ++ bs), u)

/-- Whether a router has a port (R352; the numbering of the mesh is PRESUMED, log entry 53): no mesh port off the 4 by 6 mesh, port 6 at the corners only, and no port 7. -/
def routerHas (r port : Nat) : Bool :=
  match port with
  | 0 => decide (6 ≤ r)
  | 1 => r % 6 != 5
  | 2 => decide (r < 18)
  | 3 => r % 6 != 0
  | 4 => true
  | 5 => true
  | 6 => r == 0 || r == 5 || r == 18 || r == 23
  | _ => false

/-- The circuits of one router's block as (slot, output, input). -/
def blockEntries (b : List Byte) : List (Nat × Nat × Nat) :=
  let v := leNat b
  (List.range 2048).filterMap fun i =>
    let e := bits v (4 * i) 4
    if 8 ≤ e then some (i / 8, i % 8, e % 8) else none

/-- The circuits of an image as (router, slot, output, input), its blocks standing in the order of `routers`. -/
def imageEntries (bs : List Byte) : List Nat → List (Nat × Nat × Nat × Nat)
  | [] => []
  | r :: rs => ((blockEntries (bs.take 1024)).map fun e => (r, e)) ++ imageEntries (bs.drop 1024) rs

/-- R354: an image's circuits with their keys on a die, or none when it is invalid. -/
def slotImage (die : Nat) (head blocks : List Byte) (routers : List Nat) : Option (List (Nat × Nat)) :=
  let es := imageEntries blocks routers
  if (head.drop 3).all (fun b => b == 0) && es.all fun e => e.2.2.1 != e.2.2.2 && routerHas e.1 e.2.2.1 && routerHas e.1 e.2.2.2 then
    some (es.map fun e => (((die * 24 + e.1) * 256 + e.2.1) * 8 + e.2.2.1, e.2.2.2))
  else none

/-- The circuits that a record's SLOTTAB names on a die: `some none` when the image is invalid, none when there is no image. -/
def State.slotsOf (s : State) (die : Nat) (r : List Byte) : Option (Option (List (Nat × Nat))) × State :=
  if recSlots r = 0 then (none, s)
  else
    let tenant : BitVec 16 := BitVec.ofNat 16 (recTenant r)
    match s.readVirtual die tenant (recSlots r) 64 2 with
    | (none, t) => (some none, t)
    | (some head, t) =>
      let routers := (List.range 24).filter fun i => bitAt (leNat (head.take 3)) i
      match t.readVirtual die tenant (recSlots r + 64) (1024 * routers.length) 3 with
      | (none, u) => (some none, u)
      | (some blocks, u) => (some (slotImage die head blocks routers), u)

def State.ownsAny (s : State) (es : List (Nat × Nat)) : Bool := es.any fun e => s.slots.any fun p => p.1 == e.1

/-! ### Placement (R192 to R197) -/

/-- What the dispatcher would do with a pending record: place it on a core with its circuits, or drop it because its image
is invalid. -/
inductive Place | on (core : Nat) (ctxs : List Nat) (slots : List (Nat × Nat)) | drop
  deriving DecidableEq, Repr

def State.placeFor (s : State) (p : Pending) : Option Place × State :=
  if !s.waitsHold p.record then (none, s)
  else
    match (s.homeRoom p).orElse fun _ => if p.anyDie then s.awayRoom p else none with
    | none => (none, s)
    | some (core, cs) =>
      match s.slotsOf (core / 256) p.record with
      | (none, t) => (some (.on core cs []), t)
      | (some none, t) => (some .drop, t)
      | (some (some es), t) => if t.ownsAny es then (none, t) else (some (.on core cs es), t)

/-- R344: the core a saved image would go to with its contexts: the core it left, else the lowest-numbered of its cluster. -/
def State.imageRoom (s : State) (m : Image) : Option (Nat × List Nat) :=
  if s.ownsAny m.slots || decide (64 < (s.walks.filter fun w => clusterOf w.ctx == m.core / 8).length + m.walks.length) then none
  else
    match s.roomOn m.core m.inst.record m.ctxs.length with
    | some cs => some (m.core, cs)
    | none => s.roomIn (m.core / 8) m.inst.record m.ctxs.length

/-- Whether a saved image of the die goes before anything at a level: at its own level it goes before every record. -/
def State.imageBefore (s : State) (die level : Nat) : Bool :=
  s.images.any fun m => m.resuming && m.core / 256 == die && decide (level ≤ m.level) && (s.imageRoom m).isSome

/-- R196: whether another record of the die that can be placed goes before `p`. -/
def State.recordBefore (s : State) (p : Pending) : Bool :=
  s.pendings.any fun x => x.home / 32 == p.home / 32 && (decide (p.level < x.level) || (x.level == p.level && decide (x.id < p.id))) &&
    (s.placeFor x).1.isSome

/-- A context as its instance starts (R197). -/
def startCtx (inst i n : Nat) (r : List Byte) (arg : W64) : Ctx :=
  let y := (List.range 7).foldl (fun v j => vset v (j + 1) ⟨recArg r j, false⟩) Regs.reset.y
  let x := vset (vset (vset Regs.reset.x 1 ⟨BitVec.ofNat 64 i, false⟩) 2 ⟨BitVec.ofNat 64 n, false⟩) 3 ⟨arg, false⟩
  { Ctx.reset with
    run := .running, pc := BitVec.ofNat 64 (recCode r), regs := { Regs.reset with x := x, y := y }
    sr := { Srs.reset with slack := BitVec.ofNat 64 (recSlack r), tenant := BitVec.ofNat 16 (recTenant r) }
    task := some (inst, i), spBase := recBase r, spSize := recSize r, acb := recAcb r, acn := recAcn r }

def startCtxs (s : State) (inst n : Nat) (r : List Byte) (arg : W64) : List (Nat × Nat) → State
  | [] => s
  | (c, i) :: cs => startCtxs (s.setCtx c (startCtx inst i n r arg)) inst n r arg cs

/-- R181: whether a core idles but for some contexts: none of the others is ready or frozen, and those of an instance that is being saved
are not. A blocked context whose condition holds runs again by the time an instance is placed (`State.wake`). -/
def State.coreIdle (s : State) (core : Nat) (but : List Nat) : Bool :=
  [0, 1, 2, 3].all fun i =>
    let c := 4 * core + i
    but.contains c || !s.able c || ((s.ctx c).run != .running && (s.ctx c).run != .frozen)

/-- R197: an idle core gives its slot to the lowest-numbered of the contexts that an instance brings. -/
def State.giveSlot (s : State) (core : Nat) (cs : List Nat) : State :=
  if s.coreIdle core cs then { s with holders := alSet s.holders core (cs.headD 0) } else s

def State.place (s : State) (p : Pending) (core : Nat) (cs : List Nat) (es : List (Nat × Nat)) : State :=
  let id := s.next
  let r := p.record
  let inst : Inst := ⟨id, p.tok, r, p.key, p.arg, BitVec.ofNat 16 (recTenant r), core, cs, [], p.level, false⟩
  let s1 := startCtxs s id (recCtxs r) r p.arg cs.zipIdx
  let s2 := { s1 with
    next := id + 1
    insts := s1.insts ++ [inst]
    pendings := s1.pendings.filter fun x => x.id != p.id
    tiles := clearCells s1.tiles (tileKey core (recAcb r)) (4096 * recAcn r)
    slots := es.foldl (fun l (e : Nat × Nat) => alSet l e.1 (e.2, id)) s1.slots }
  (s2.dropCore core).giveSlot core cs

def State.placeRecord (s : State) (id : Nat) : Option State := do
  let p ← s.pendings.find? fun x => x.id == id
  if s.recordBefore p || s.imageBefore (p.home / 32) p.level then none
  else
    match s.placeFor p with
    | (none, _) => none
    | (some .drop, t) => some ({ t with pendings := t.pendings.filter fun x => x.id != p.id }.finishTok p.tok 21)
    | (some (.on core cs es), t) => some (t.place p core cs es)

/-- R196, R344: a level rises by one. -/
def State.ageLevel (s : State) (id : Nat) : Option State :=
  if s.pendings.any fun p => p.id == id && decide (p.level < 3) then
    some { s with pendings := s.pendings.map fun p => if p.id = id then { p with level := p.level + 1 } else p }
  else if s.images.any fun m => m.inst.id == id && m.resuming && decide (m.level < 3) then
    some { s with images := s.images.map fun m => if m.inst.id = id then { m with level := m.level + 1 } else m }
  else none

/-- R194: a record that is eligible but for room has waited 4,096 clock cycles. -/
def State.expireWait (s : State) (id : Nat) : Option State := do
  let p ← s.pendings.find? fun x => x.id == id
  if !p.anyDie && s.waitsHold p.record && (s.homeRoom p).isNone then
    some { s with pendings := s.pendings.map fun x => if x.id = id then { x with anyDie := true } else x }
  else none

def execInstancePlacement (id : Nat) (s : State) : Host.Outcome State Fault Refusal := event "record is placed" (s.placeRecord id)
def execPendingLevelAging (id : Nat) (s : State) : Host.Outcome State Fault Refusal := event "pending level rises" (s.ageLevel id)
def execCrossDieWaitExpiry (id : Nat) (s : State) : Host.Outcome State Fault Refusal := event "wait for the home die is over" (s.expireWait id)

/-! ### retire, and the end of a context's part (R199) -/

def execRetire (g : Guard) (ka kb kc : BitVec 4) (s : State) :=
  runSlot g (do retireWith (← consumed [ka, kb, kc])) s

/-- The commands of a context that its end does not wait for: semwait, kjoin, and what has not started because it consumes
the token of one of them. `n` bounds the length of such chains. -/
def softToks (cs : List ECmd) : Nat → List Nat
  | 0 => []
  | n + 1 =>
    let ts := softToks cs n
    (cs.filter fun c => match c.op with
      | .semwait _ _ _ _ _ => true
      | .kjoin _ => true
      | _ => c.stage != .started && c.waits.any ts.contains).map ECmd.tok

def stopWalks (s : State) : List Walk → State
  | [] => s
  | w :: ws => stopWalks (s.stopWalk w) ws

/-- Whether a result in flight is a word for a send queue (R364). -/
def Flight.pushes (f : Flight) : Bool :=
  match f.res with
  | .f _ _ _ _ _ => true
  | _ => false

/-- Whether a retired context's part may end. -/
def State.partOver (s : State) (c : Nat) (ks : List (Option Nat)) : Bool :=
  let k := s.ctx c
  let mine := s.ecmds.filter fun e => e.ctx == c
  let soft := softToks mine mine.length
  ks.all s.tokDone && (k.flight.all fun f => f.arrived || f.again || !f.pushes) && (storeIds none k.stores).isEmpty && k.due.isNone &&
    !(s.mcmds.any fun m => m.ctx == c) && mine.all (fun e => soft.contains e.tok) &&
    !(s.walks.any fun w => w.ctx == c && w.filling)

/-- R199: the part of a retired context ends and the context is free; a command stream only stops. Its results in flight,
and with them its last FIFO words, take effect; its claims are freed, and its send queues go on by themselves. Its live walks are stopped
here, once nothing else is left to wait for (log entry 137). -/
def State.endPart (s : State) (c : Nat) : Option State := do
  let k0 := s.ctx c
  let ks ← k0.retiring
  match k0.task with
  | none => some (s.setCtx c { k0 with retiring := none })
  | some (i, idx) =>
    let inst ← s.insts.find? fun x => x.id == i
    if !s.partOver c ks then none
    else
      let k := { k0 with flight := k0.flight.filter Flight.arrived }.drainFlight
      let s1 := ((stopWalks s (s.walks.filter fun w => w.ctx == c)).freeClaims [c])
      let v := s1.keepNo c
      let s2 := (s1.rename c v).setCtx c Ctx.reset
      some { s2 with
        next := s2.next + 1
        orphans := s2.orphans ++ (k.sends.map fun e => { e with entries := e.entries.filter fun p => p.2.isSome, closed := true }).filter fun e =>
          !e.entries.isEmpty
        insts := s2.insts.map fun x => if x.id = i then { inst with ended := inst.ended ++ [(idx, v)] } else x }

def execContextPartEnd (c : Nat) (s : State) : Host.Outcome State Fault Refusal := event "part of a context ends" (s.endPart c)

/-! ### The end of an instance (R200) -/

/-- A SIG adds to its entry (R188). -/
def State.addSig (s : State) (v : Nat) : State :=
  if refOn v then
    let ref := bits v 0 15
    s.setSem ref (s.sem ref + BitVec.ofInt 64 (signedOf 48 (bits v 16 48)))
  else s

/-- R200: the commands that were not waited for are discarded, the SIGs added, the launch token completed, and tiles,
allotment and slot-table entries freed. -/
def State.endInst (s : State) (id : Nat) : Option State := do
  let i ← s.insts.find? fun x => x.id == id
  if i.ended.length < i.ctxs.length then none
  else
    let vs := i.ended.map Prod.snd
    let s1 := finishToks s 5 ((s.ecmds.filter fun c => vs.contains c.ctx).map ECmd.tok)
    let s2 := ({ s1 with ecmds := s1.ecmds.filter fun c => !vs.contains c.ctx }.addSig (recRef i.record 2)).addSig (recRef i.record 3)
    let s3 := (s2.finishTok i.tok 0).freeSlots id
    some { s3 with insts := s3.insts.filter fun x => x.id != id }

def execInstanceEnd (id : Nat) (s : State) : Host.Outcome State Fault Refusal := event "instance ends" (s.endInst id)

/-! ### Pre-emption (R342, R343) -/

/-- Whether an E command keeps its instance from being saved: it stands in the elastic buffer, it is a copy or bank command, or it is a walk or
wrest that has not started, since a cursor in STATE 5 is not saved (R298). The other queued commands start while the instance stands saved (log entry 146). -/
def ECmd.holdsSave (e : ECmd) : Bool :=
  e.stage == .buffer || e.op.copyParts.isSome || e.eng == .bank ||
    (match e.op with
     | .walk _ _ _ _ => true
     | .wrest _ _ => true
     | _ => false)

/-- What the device waits for before it saves a context: its M commands and buffered commands, its load queues, its copy and
bank commands, its stores, its walks that are still to start, the fills of the others, and a trap about to be entered. -/
def State.quiet (s : State) (c : Nat) : Bool :=
  let k := s.ctx c
  k.due.isNone && (storeIds none k.stores).isEmpty && (k.q.toList.all fun l => l.all QEntry.arrived) && !(s.mcmds.any fun m => m.ctx == c) &&
    !(s.ecmds.any fun e => e.ctx == c && e.holdsSave) && !(s.walks.any fun w => w.ctx == c && w.filling)

/-- The landed sheaf that a walk would deliver next. -/
def State.headFull (s : State) (w : Walk) : Bool := w.landed.head?.any fun l => (s.bin (binKey (clusterOf w.ctx) l.bin)).state == 2

/-- R342: a pre-emption stops an instance. -/
def State.stopInst (s : State) (i : Inst) : State :=
  { s with insts := s.insts.map fun x => if x.id = i.id then { x with stopping := true } else x }

/-- The sheaf that stays landed for a saved walk: one that landed while a wnext waited for it, which has not been issued since (R345, log
entry 131). -/
def State.keptSheaf (s : State) (w : Walk) : Option Landed :=
  if w.kept && s.headFull w && s.awaits w.ctx w.wc then w.landed.head? else none

/-- Live walks are saved as wsave saves them, and their unacquired bins are freed but for a kept sheaf's. -/
def saveWalks (s : State) : List Walk → State
  | [] => s
  | w :: ws =>
    saveWalks ((freeUnread s (clusterOf w.ctx) (if (s.keptSheaf w).isSome then w.landed.tail else w.landed)).dropWalk w) ws

/-- Contexts are moved to the numbers they are kept under, a blocked one as blocked (R342); what has arrived becomes visible as the rest is
captured (R337). -/
def saveCtxs (s : State) : List (Nat × Nat) → State
  | [] => s
  | (c, v) :: cs =>
    let k := (s.ctx c).capture
    saveCtxs (((s.rename c v).setCtx v { k with run := if k.run = .frozen then .running else k.run }).setCtx c Ctx.reset) cs

/-- A stopped instance is saved once it is quiet, in what is left of its contexts whose part has ended too (R342). -/
def State.saveInst (s : State) (id : Nat) : Option State := do
  let i ← s.insts.find? fun x => x.id == id
  if !i.stopping || !((i.live ++ i.ended.map Prod.snd).all s.quiet) then none
  else
    let r := i.record
    let idxs := (i.ctxs.zipIdx.filter fun p => !(i.ended.map Prod.fst).contains p.2)
    let n := s.next
    let kept := idxs.map fun p => (p.1, 4096 * (n + 1) + p.1 % 4096)
    let ws := s.walks.filter fun w => i.live.contains w.ctx
    let m : Image :=
      { inst := { i with stopping := false }, ctxs := idxs.map fun p => (p.2, 4096 * (n + 1) + p.1 % 4096)
        walks := ws.map fun w => (4096 * (n + 1) + w.ctx % 4096, (w.wc, (w.tok, s.keptSheaf w)))
        bytes := readCells s.mem (spadKey (i.core / 8) (recBase r)) (recSize r)
        tags := readCells s.tags (spadKey (i.core / 8) (recBase r)) (recSize r)
        tiles := readCells s.tiles (tileKey i.core (recAcb r)) (4096 * recAcn r)
        core := i.core, slots := (s.slots.filter fun p => p.2.2 == id).map fun p => (p.1, p.2.1), resuming := false, level := i.level }
    let s1 := (saveCtxs (saveWalks s ws) kept).freeSlots id
    some { s1 with next := n + 1, insts := s1.insts.filter fun x => x.id != id, images := s1.images ++ [m] }

def execPreemptSave (id : Nat) (s : State) : Host.Outcome State Fault Refusal := event "instance is saved" (s.saveInst id)

/-! ### Resumption (R344) -/

/-- Contexts come back from the numbers they were kept under; `mv` pairs (kept number, place, new context). -/
def restoreCtxs (s : State) (inst : Nat) : List (Nat × Nat × Nat) → State
  | [] => s
  | (v, i, c) :: r =>
    let k := s.ctx v
    let s1 := (s.rename v c).setCtx c { k with task := some (inst, i) }
    restoreCtxs { s1 with ctxs := alDel s1.ctxs v } inst r

/-- A restarted walk whose next sheaf stayed landed goes on behind it (R345). -/
def State.reland (s : State) (c wc : Nat) (kept : Option Landed) : State :=
  match kept, s.walkOf c wc with
  | some l, some w =>
    let cu := vget (s.ctx c).regs.w wc 0
    let base := (s.bin (binKey (clusterOf c) l.bin)).base.toNat
    let h := readCells s.mem (spadKey (clusterOf c) base) 128
    s.putWalk { w with hop := 1, reread := false, landed := [{ l with pos := 0 }], next := (w.next + 1) % cu.depth
                       link := BitVec.ofNat 128 (leNat ((h.drop (16 * cu.furrow)).take 16)) }
  | _, _ => s

/-- R299, R344: each saved walk is started again as wrest starts it; no check of R298 is made on its bins, and it waits for one that another
tenant holds (log entry 145). -/
def restoreWalks (s : State) (mv : List (Nat × Nat × Nat)) : List (Nat × (Nat × (Nat × Option Landed))) → State
  | [] => s
  | (v, (wc, (tok, kept))) :: ws =>
    match mv.find? (fun p => p.1 == v) with
    | none => restoreWalks s mv ws
    | some (_, _, c) =>
      restoreWalks (({ s with next := s.next + 1 }.restartWalk s.next c wc tok (vget (s.ctx c).regs.w wc 0)).reland c wc kept) mv ws

/-- An instance on its new core, with its saved contexts' new numbers. -/
def Inst.moved (i : Inst) (core : Nat) (mv : List (Nat × Nat × Nat)) : Inst :=
  { i with
    core := core
    ctxs := i.ctxs.zipIdx.map fun p => ((mv.find? fun e => e.2.1 == p.2).map fun e => e.2.2).getD p.1 }

/-- R344: a saved instance that is to resume takes a core: after pending records and images of a greater level on its die, and of the images
of its own level after those of lower instance numbers (log entry 149). -/
def State.resumeImage (s : State) (id : Nat) : Option State := do
  let m ← s.images.find? fun x => x.inst.id == id
  let (core, cs) ← s.imageRoom m
  let die := m.core / 256
  if !m.resuming || s.images.any (fun x => x.resuming && x.core / 256 == die && (decide (m.level < x.level) ||
      (x.level == m.level && decide (x.inst.id < m.inst.id))) && (s.imageRoom x).isSome) ||
      s.pendings.any (fun x => x.home / 32 == die && decide (m.level < x.level) && (s.placeFor x).1.isSome) then none
  else
    let r := m.inst.record
    let mv := (m.ctxs.zip cs).map fun p => (p.1.2, p.1.1, p.2)
    let s1 := restoreCtxs s id mv
    let s2 := { s1 with
      mem := writeCells s1.mem (spadKey (core / 8) (recBase r)) m.bytes
      tags := writeCells s1.tags (spadKey (core / 8) (recBase r)) m.tags
      tiles := writeCells s1.tiles (tileKey core (recAcb r)) m.tiles
      slots := m.slots.foldl (fun l (e : Nat × Nat) => alSet l e.1 (e.2, id)) s1.slots
      images := s1.images.filter fun x => x.inst.id != id
      insts := s1.insts ++ [m.inst.moved core mv] }
    some (((restoreWalks s2 mv m.walks).dropCore core).giveSlot core (mv.map fun p => p.2.2))

def execResumePlacement (id : Nat) (s : State) : Host.Outcome State Fault Refusal := event "saved image is placed" (s.resumeImage id)

/-- R330: a saved instance is killed. -/
def State.killImage (s : State) (m : Image) (rec : FaultRec) : State :=
  let vs := m.ctxs.map Prod.snd
  let all := vs ++ m.inst.ended.map Prod.snd
  let s1 := (finishToks ((s.dropWork all).freeClaims vs) 5 (m.walks.map fun w => w.2.2.1)).finishTok m.inst.tok 20
  { s1 with
    ctxs := s1.ctxs.filter fun p => !vs.contains p.1
    images := s1.images.filter fun x => x.inst.id != m.inst.id
    orphans := s1.orphans.filter fun e => e.inst != some m.inst.id
    faults := alSet s1.faults m.inst.tenant.toNat rec }

/-! ### Invalidation (R220) -/

/-- Whether a handle holds a page of a range. -/
def Handle.inRange (h : Handle) (va len : Nat) : Bool :=
  meets (h.vpage.toNat * 65536) (pageBytes h.size) va len

def Handle.revoke (h : Handle) (va len : Nat) : Handle := if h.valid && h.inRange va len then { h with valid := false } else h

def Flight.revoke (f : Flight) (va len : Nat) : Flight :=
  match f.res with
  | .h d v => { f with res := .h d (v.revoke va len) }
  | _ => f

def Saved.revoke (sv : Saved) (va len : Nat) : Saved := { sv with flight := sv.flight.map (fun f => f.revoke va len) }

/-- Step 2: VALID is cleared in the handles of a context of the tenant; those it is about to receive, and those of its saved
states, are revoked too. -/
def Ctx.revoke (k : Ctx) (va len : Nat) : Ctx :=
  { k with
    regs := { k.regs with h := k.regs.h.map (fun h => h.revoke va len) }
    flight := k.flight.map (fun f => f.revoke va len)
    trapRet := k.trapRet.map (fun x => x.revoke va len)
    uiRet := k.uiRet.map (fun x => x.revoke va len) }

def State.revoke (s : State) (tenant : BitVec 16) (va len : Nat) : State :=
  { s with
    tlb := s.tlb.filter fun e => !(e.tenant == tenant && e.leaf.inRange va len)
    ctxs := s.ctxs.map fun p => if p.2.sr.tenant = tenant then (p.1, p.2.revoke va len) else p }

/-- The handle through which a result in flight or a command accesses its page. -/
def Flight.handle (f : Flight) : Option Handle :=
  match f.redo with
  | some (.load _ _ h _ _ _ _) => some h
  | some (.latom _ _ h _ _ _ _ _) => some h
  | _ => none

def EOp.handle : EOp → Option Handle
  | .copy _ h _ _ _ _ => some h
  | .copyg _ h _ _ _ _ => some h
  | .copyx _ h _ _ _ => some h
  | .bank h _ _ _ _ _ => some h
  | .xfer _ h _ _ _ _ => some h
  | .launch true h _ _ _ _ => some h
  | _ => none

def hits (o : Option Handle) (va len : Nat) : Bool := o.any fun h => h.inRange va len

/-- The results in flight of a context, those of its interrupted code among them. -/
def Ctx.allFlight (k : Ctx) : List Flight := k.flight ++ (k.trapRet.elim [] Saved.flight ++ k.uiRet.elim [] Saved.flight)

/-- Whether a walk's fill in progress reads this package's page of a range (R288, R294). -/
def Walk.inRange (w : Walk) (va len : Nat) : Bool := w.filling && hits w.page va len

/-- Step 3: every access through such a handle has been performed. A load that is to be made again, and an entry of a load queue that
has failed and is to be read afresh, have not been. -/
def State.settledFor (s : State) (tenant : BitVec 16) (va len : Nat) : Bool :=
  (s.ctxs.all fun p => p.2.sr.tenant != tenant ||
    ((storeIds none p.2.stores).isEmpty && (p.2.allFlight.all fun f => f.arrived || !hits f.handle va len) &&
      p.2.q.toList.all fun l => l.all fun e => (e.arrived && e.failed.isNone) || !e.handle.inRange va len)) &&
  (s.ecmds.all fun c => c.tenant != tenant || !hits c.op.handle va len) &&
  s.walks.all fun w => (s.ctx w.ctx).sr.tenant != tenant || !w.inRange va len

end Sys2Proof.Machine
end

