-- ==== Sys2Proof/Machine/Engines.lean ====
section
/-!
DEFINITION. E commands entering their engine's queue and starting (R253, R254), with what a command that acts at its start
does then.
-/

namespace Sys2Proof.Machine

/-- R253: a command in the elastic buffer enters its engine's queue once that has room. -/
def State.enterE (s : State) (id : Nat) : Option State := do
  let c ← s.findE id
  if c.stage = .buffer ∧ eRoom s c.ctx c.eng = true then
    some { s with ecmds := (s.ecmds.filter fun d => d.id != id) ++ [{ c with stage := .queued }] }
  else none

/-- R254: whether a queued command may start: its tokens are complete (R52), what its fences cover is performed (R235), no
earlier command holds its tile or bytes (R161, R166), and the further conditions of its entry hold. -/
def State.eReady (s : State) (c : ECmd) : Bool :=
  c.stage == .queued && (c.waits.all fun t => s.tokDone (some t)) && s.allDone c.ctx c.after && !c.waitsFor s && s.fillReady c &&
  s.gleanerReady c &&
  (match c.op with
   | .bar d => s.barReady c d
   | _ => true)

/-- What starting a command does. -/
def State.startOp (s : State) (c : ECmd) : State :=
  match c.op with
  | .copy _ _ _ _ _ _ => s.startCopy c
  | .copyg _ _ _ _ _ _ => s.startCopy c
  | .copyx _ _ _ _ _ => s.startCopy c
  | .binrel n => s.startBinrel c n
  | .binkill n => s.startBinkill c n
  | .kjoin ks => s.dropE c (s.joinCode ks)
  | .semwait ref _ _ _ _ => s.startSemwait c ref
  | .walk wc link _ _ => s.startWalk c wc link
  | .wstop wc => s.startWstop c wc
  | .wbudget wc v => s.startWbudget c wc v
  | .wsave wc a => s.startWsave c wc a
  | .wrest wc a => s.startWrest c wc a
  | .bank _ _ _ _ _ _ => s.putE { c with stage := .started }
  | .funbindRecv ch _ => s.startFunbindRecv c ch
  | .funbindSend q => s.startFunbindSend c q
  | .xfer _ _ _ _ _ _ => s.putE { c with stage := .started }
  | .lfree a => s.startLfree c a
  | .bar d => s.startBar c d
  | .launch _ _ _ _ _ _ => s.putE { c with stage := .started }

def State.startE (s : State) (id : Nat) : Option State := do
  let c ← s.findE id
  if s.eReady c then some (s.startOp c) else none

def execEQueueEntry (id : Nat) (s : State) : Host.Outcome State Fault Refusal := event "E command enters its queue" (s.enterE id)
def execECommandStart (id : Nat) (s : State) : Host.Outcome State Fault Refusal := event "E command starts" (s.startE id)

end Sys2Proof.Machine
end

