-- ==== Sys2Proof/Machine/Sha.lean ====
section
/-!
DEFINITION. SHA-384 (R393), the digest of a firmware image's body. The spec names the function and does not write it out; what stands
here is that of FIPS 180-4 (PRESUMED, log entry 59).
-/

namespace Sys2Proof.Machine

/-- The constants of the eighty rounds: the first 64 bits of the fractional parts of the cube roots of the first eighty primes. -/
def shaK0 : List W64 :=
  [0x428A2F98D728AE22, 0x7137449123EF65CD, 0xB5C0FBCFEC4D3B2F, 0xE9B5DBA58189DBBC, 0x3956C25BF348B538,
   0x59F111F1B605D019, 0x923F82A4AF194F9B, 0xAB1C5ED5DA6D8118, 0xD807AA98A3030242, 0x12835B0145706FBE,
   0x243185BE4EE4B28C, 0x550C7DC3D5FFB4E2, 0x72BE5D74F27B896F, 0x80DEB1FE3B1696B1, 0x9BDC06A725C71235,
   0xC19BF174CF692694, 0xE49B69C19EF14AD2, 0xEFBE4786384F25E3, 0x0FC19DC68B8CD5B5, 0x240CA1CC77AC9C65]
def shaK1 : List W64 :=
  [0x2DE92C6F592B0275, 0x4A7484AA6EA6E483, 0x5CB0A9DCBD41FBD4, 0x76F988DA831153B5, 0x983E5152EE66DFAB,
   0xA831C66D2DB43210, 0xB00327C898FB213F, 0xBF597FC7BEEF0EE4, 0xC6E00BF33DA88FC2, 0xD5A79147930AA725,
   0x06CA6351E003826F, 0x142929670A0E6E70, 0x27B70A8546D22FFC, 0x2E1B21385C26C926, 0x4D2C6DFC5AC42AED,
   0x53380D139D95B3DF, 0x650A73548BAF63DE, 0x766A0ABB3C77B2A8, 0x81C2C92E47EDAEE6, 0x92722C851482353B]
def shaK2 : List W64 :=
  [0xA2BFE8A14CF10364, 0xA81A664BBC423001, 0xC24B8B70D0F89791, 0xC76C51A30654BE30, 0xD192E819D6EF5218,
   0xD69906245565A910, 0xF40E35855771202A, 0x106AA07032BBD1B8, 0x19A4C116B8D2D0C8, 0x1E376C085141AB53,
   0x2748774CDF8EEB99, 0x34B0BCB5E19B48A8, 0x391C0CB3C5C95A63, 0x4ED8AA4AE3418ACB, 0x5B9CCA4F7763E373,
   0x682E6FF3D6B2B8A3, 0x748F82EE5DEFB2FC, 0x78A5636F43172F60, 0x84C87814A1F0AB72, 0x8CC702081A6439EC]
def shaK3 : List W64 :=
  [0x90BEFFFA23631E28, 0xA4506CEBDE82BDE9, 0xBEF9A3F7B2C67915, 0xC67178F2E372532B, 0xCA273ECEEA26619C,
   0xD186B8C721C0C207, 0xEADA7DD6CDE0EB1E, 0xF57D4F7FEE6ED178, 0x06F067AA72176FBA, 0x0A637DC5A2C898A6,
   0x113F9804BEF90DAE, 0x1B710B35131C471B, 0x28DB77F523047D84, 0x32CAAB7B40C72493, 0x3C9EBE0A15C9BEBC,
   0x431D67C49C100D4C, 0x4CC5D4BECB3E42B6, 0x597F299CFC657E2A, 0x5FCB6FAB3AD6FAEC, 0x6C44198C4A475817]
def shaK : List W64 := shaK0 ++ shaK1 ++ shaK2 ++ shaK3

/-- The first chaining value: from the square roots of the ninth to the sixteenth prime. -/
def shaStart : Vector W64 8 :=
  #v[0xCBBB9D5DC1059ED8, 0x629A292A367CD507, 0x9159015A3070DD17, 0x152FECD8F70E5939, 0x67332667FFC00B31,
     0x8EB44A8768581511, 0xDB0C2E0D64F98FA7, 0x47B5481DBEFA4FA4]

/-- A message of whole bytes, filled up to a multiple of 128 with a one bit, zeros, and its length in bits as 16 big-endian bytes. -/
def shaPad (m : List Byte) : List Byte :=
  m ++ 0x80 :: (List.replicate ((239 - m.length % 128) % 128) 0 ++ (leBytes 16 (8 * m.length)).reverse)

/-- A 64-bit word of eight big-endian bytes. -/
def beWord (bs : List Byte) : W64 := BitVec.ofNat 64 (leNat bs.reverse)

def smallSigma (a b c : Nat) (x : W64) : W64 := x.rotateRight a ^^^ x.rotateRight b ^^^ (x >>> c)
def bigSigma (a b c : Nat) (x : W64) : W64 := x.rotateRight a ^^^ x.rotateRight b ^^^ x.rotateRight c

/-- `n` more words of the message schedule, the newest first. -/
def shaSchedule (w : List W64) : Nat → List W64
  | 0 => w
  | n + 1 =>
    let at_ (i : Nat) : W64 := (w[i]?).getD 0
    shaSchedule ((smallSigma 19 61 6 (at_ 1) + at_ 6 + smallSigma 1 8 7 (at_ 14) + at_ 15) :: w) n

/-- The working variables a to h of a block. -/
structure ShaVars where
  a : W64
  b : W64
  c : W64
  d : W64
  e : W64
  f : W64
  g : W64
  h : W64
  deriving DecidableEq, Repr

/-- One round with its constant and schedule word. -/
def ShaVars.round (v : ShaVars) (k w : W64) : ShaVars :=
  let t1 := v.h + bigSigma 14 18 41 v.e + (v.e &&& v.f ^^^ ~~~v.e &&& v.g) + k + w
  let t2 := bigSigma 28 34 39 v.a + (v.a &&& v.b ^^^ v.a &&& v.c ^^^ v.b &&& v.c)
  ⟨t1 + t2, v.a, v.b, v.c, v.d + t1, v.e, v.f, v.g⟩

def shaRounds (v : ShaVars) : List (W64 × W64) → ShaVars
  | [] => v
  | (k, w) :: r => shaRounds (v.round k w) r

/-- One block of 128 bytes goes into the chaining value. -/
def shaBlock (h : Vector W64 8) (bs : List Byte) : Vector W64 8 :=
  let first := (List.range 16).map fun i => beWord ((bs.drop (8 * i)).take 8)
  let ws := (shaSchedule first.reverse 64).reverse
  let v := shaRounds ⟨h[0], h[1], h[2], h[3], h[4], h[5], h[6], h[7]⟩ (shaK.zip ws)
  #v[h[0] + v.a, h[1] + v.b, h[2] + v.c, h[3] + v.d, h[4] + v.e, h[5] + v.f, h[6] + v.g, h[7] + v.h]

def shaBlocks (h : Vector W64 8) (bs : List Byte) : Nat → Vector W64 8
  | 0 => h
  | n + 1 => shaBlocks (shaBlock h (bs.take 128)) (bs.drop 128) n

/-- The 48 bytes of the digest of a message: six of the eight words of the last chaining value. -/
def sha384 (m : List Byte) : List Byte :=
  let p := shaPad m
  ((shaBlocks shaStart p (p.length / 128)).toList.take 6).flatMap fun w => (leBytes 8 w.toNat).reverse

end Sys2Proof.Machine
end

