-- ==== Sys2Proof/Machine/Host.lean ====
section
/-!
DEFINITION. The host's side (R386 to R390, R392 to R399): resets and starts, power and heat, the registers of BAR0 and the two
views of BAR2.
-/

namespace Sys2Proof.Machine

/-! ### BSR.MODE (R388, R389) -/

/-- A change of BSR.MODE raises MSI-X vector 1. -/
def State.setMode (s : State) (m : Mode) : State :=
  if s.host.mode = m then s else { s with host := { s.host with mode := m, msix := s.host.msix ++ [1] } }

/-! ### Resets (R11, R399) -/

/-- Memory that lies outside the package: host memory, the loft planes and other packages. -/
def outsideKey (a : Nat) : Bool := decide (hostKey 0 ≤ a ∧ a < spadKey 0 0) || decide (loftKey 0 0 ≤ a)

/-- Memory that a reset of the dies leaves: all but the scratchpads. The spec gives HBM no contents after it (log entry 61). -/
def keptKey (a : Nat) : Bool := outsideKey a || decide (a < hostKey 0)

/-- R393: what the flash holds when whatever writes it is interrupted: an image that fails, which the model takes as none at all (log
entry 60). -/
def HostIf.keptFlash (h : HostIf) : List Byte := if h.writing.isSome then [] else h.flash

/-- The power-on state of the compute dies and the I/O die, with the memory that `keep` selects. What belongs to the switches, the
host and the other packages stays, and so do the model's own counters. -/
def State.diesReset (s : State) (keep : Nat → Bool) : State :=
  { State.reset with
    agenda := s.agenda, scripted := s.scripted, next := s.next, free := s.free
    mem := s.mem.filter fun c => keep c.1
    extents := s.extents, quotas := s.quotas, lost := s.lost, present := s.present, remote := s.remote
    host := { HostIf.reset with flash := s.host.keptFlash, msix := s.host.msix, heat := s.host.heat } }

/-- R11: power comes on. -/
def execPowerOnReset (s : State) : Host.Outcome State Fault Refusal := .next (s.diesReset outsideKey)

/-- R399: FAILS, HFLAG.TRIP and the flash are kept, and a start is requested. From MODE 4 the start waits, and MODE stays 4. -/
def State.newStart (s : State) : State :=
  let t := s.diesReset keptKey
  let u := { t with host := { t.host with fails := s.host.fails, hflag := s.host.hflag &&& 8, mode := s.host.mode } }
  if s.host.mode = .shutDown then u else u.setMode .reset

def execConventionalReset (s : State) : Host.Outcome State Fault Refusal := .next s.newStart

def execFunctionLevelReset (s : State) : Host.Outcome State Fault Refusal := .next s.newStart

/-! ### Starts (R392 to R395) -/

/-- Fields of the firmware header (R393). -/
def imageField (img : List Byte) (at_ n : Nat) : Nat := leNat ((img.drop at_).take n)
def imageBody (img : List Byte) : List Byte := (img.drop 4096).take (imageField img 12 4)

/-- The boot ROM's verdict on an image as REASON and DETAIL (R393, R395); REASON 0 when it passes. -/
def imageVerdict (img : List Byte) : Nat × Nat :=
  let n := imageField img 12 4
  if img.length ≠ 4096 + n ∨ imageField img 0 8 ≠ 0x3157545A58550001 ∨ 2 ^ 26 < n ∨ ((img.drop 160).take 3936).any (fun b => b != 0) = true ∨
      sha384 (imageBody img) ≠ (img.drop 16).take 48 then (1, 0)
  else if !Config.signatureOk (img.take 64) ((img.drop 64).take 96) then (2, 0)
  else if imageField img 8 4 < Config.fusedMinimum.toNat then (3, Config.fusedMinimum.toNat)
  else (0, 0)

/-- A failed start (R392): REASON and DETAIL are recorded and FAILS counts up to 3; the third sets MODE 3, and until then the
device starts again. A thermal trip stops the device instead (R398). -/
def State.startFails (s : State) (reason detail : Nat) : State :=
  let n := min 3 (s.host.fails + 1)
  let t := { s.setMode .starting with
    host := { (s.setMode .starting).host with fails := n, reason := BitVec.ofNat 8 reason, detail := BitVec.ofNat 16 detail } }
  if n = 3 then { t with host := { t.host with startReq := false } }.setMode .minimal else t

/-- Whether a start can begin or is under way (R392, R399). -/
def State.canStart (s : State) : Bool := s.host.startReq && (s.host.mode != .shutDown || decide (s.host.heat.toNat < 95))

/-- R392 step 4: the segments of the start image are written to HBM. -/
def writeSegments (mem : List Host.Cell) : List (Nat × List Byte) → List Host.Cell
  | [] => mem
  | (a, bs) :: r => writeSegments (if a + bs.length ≤ Config.hbmSize then writeCells mem (hbmKey a) bs else mem) r

/-- A command stream as it starts (R186, R394). -/
def streamStart (c : Config.StreamCfg) : Ctx :=
  { Ctx.reset with
    run := .running, pc := c.entry, sr := { Srs.reset with tenant := c.tenant }, stream := true
    spBase := 0, spSize := Config.windowSize, acb := c.acb, acn := c.acn }

/-- R392 steps 4 and 5 for each die: root, trap vector and command stream. -/
def startStreams (s : State) : List (Nat × Config.StreamCfg) → State
  | [] => s
  | (d, c) :: r =>
    startStreams
      { s.setCtx c.ctx (streamStart c) with
        roots := alSet s.roots c.tenant.toNat c.root, tvecs := alSet s.tvecs c.tenant.toNat c.tvec
        streams := alSet s.streams d c, holders := alSet s.holders (coreOf c.ctx) c.ctx } r

/-- The thermal trip (R398): every clock stops, MODE 4, TRIP. A write of the flash is interrupted (R393). -/
def State.trip (s : State) : State :=
  ({ s with host := { s.host with startReq := false, tmax := 110, heat := 110, flash := s.host.keptFlash, writing := none } }.setFlag 3).setMode
    .shutDown

/-- The command stream of each die that a firmware body's start image configures (R185, R394). -/
def imageCfgs (body : List Byte) : List (Nat × Config.StreamCfg) :=
  (List.range 4).map fun d => (d, (Config.imageStreams body d).cfg d)

/-- A whole start with what the outside decides in it (R392, R395). -/
def State.start (s : State) (rep : StartReport) : State :=
  let v := imageVerdict s.host.flash
  match rep.trip with
  | some d => (s.startFails 7 d.val).trip
  | none =>
    if v.1 ≠ 0 then s.startFails v.1 v.2
    else
      match rep.hbmFail, rep.dieFail with
      | some g, _ => s.startFails 4 g.val
      | none, some d => s.startFails 5 d.val
      | none, none =>
        let body := imageBody s.host.flash
        let t := s.setMode .starting
        let u := startStreams { t with mem := writeSegments t.mem (Config.imageSegments body) } (imageCfgs body)
        { u with host := { u.host with fails := 0, startReq := false } }.setMode .running

def execStart (rep : StartReport) (s : State) : Host.Outcome State Fault Refusal :=
  event "start" (if s.canStart then some (s.start rep) else none)

/-- REASON 6: step 5 is not reached within two seconds; `step` is the last step reached, and beyond the first comes only a good
image. -/
def execStartTimeout (step : Nat) (s : State) : Host.Outcome State Fault Refusal :=
  event "start times out"
    (if s.canStart && decide (1 ≤ step ∧ step ≤ 4) && (step == 1 || (imageVerdict s.host.flash).1 == 0) then some (s.startFails 6 step) else none)

/-! ### Power and heat (R398) -/

/-- 110 °C on a die sensor; during a start it is that start's REASON 7. -/
def execThermalTrip (die : Nat) (s : State) : Host.Outcome State Fault Refusal :=
  event "thermal trip"
    (if s.host.mode = .shutDown ∨ 4 ≤ die then none
     else if s.host.mode = .starting then some (s.startFails 7 die).trip
     else some s.trip)

/-- PSTAT takes new readings (R390). -/
def HostIf.reads (h : HostIf) (power : BitVec 12) (tmax : BitVec 8) : HostIf := { h with power := power, tmax := tmax, heat := tmax }

/-- Whether readings have the clock go down: power exceeds its limit or heat reaches its own, or, once it is being lowered, until both are
below. -/
def HostIf.lowers (h : HostIf) (power : BitVec 12) (tmax : BitVec 8) : Bool :=
  decide (h.watts.toNat < power.toNat) || decide (95 ≤ tmax.toNat) || (h.lowering && decide (h.watts.toNat ≤ power.toNat))

/-- The readings have the clock go down a step of 100 MHz, to 100 MHz at the least, or end its going down. -/
def HostIf.throttle (h : HostIf) (power : BitVec 12) (tmax : BitVec 8) : HostIf :=
  if h.lowers power tmax then { h with lowering := true, clkMhz := BitVec.ofNat 16 (max 100 (h.clkMhz.toNat - 100)) }
  else { h with lowering := false }

/-- New readings, below that of a thermal trip. While every clock stands still only the sensors are read, whatever they show. -/
def execClockThrottle (power : BitVec 12) (tmax : BitVec 8) (s : State) : Host.Outcome State Fault Refusal :=
  event "clock goes down"
    (if tmax.toNat < 110 ∨ s.host.mode = .shutDown then
       let h := s.host.reads power tmax
       some { s with host := if h.mode = .shutDown then h else h.throttle power tmax }
     else none)

/-- Both have stayed below their limits for 10 ms: the clock goes up a step, to 1,300 MHz at the most. While every clock stands still
only the sensors are read. -/
def execClockRestore (power : BitVec 12) (tmax : BitVec 8) (s : State) : Host.Outcome State Fault Refusal :=
  event "clock goes up"
    (if power.toNat < s.host.watts.toNat ∧ tmax.toNat < 95 then
       let h := s.host.reads power tmax
       some { s with host := if h.mode = .shutDown then h else { h with lowering := false, clkMhz := BitVec.ofNat 16 (min 1300 (h.clkMhz.toNat + 100)) } }
     else none)

/-! ### BAR0 (R6, R388 to R391) -/

/-- The code of BSR.MODE (R388). -/
def Mode.code : Mode → Nat
  | .reset => 0
  | .starting => 1
  | .running => 2
  | .minimal => 3
  | .shutDown => 4

/-- What the host reads at an offset of BAR0 (R388 to R391). Reserved bits and offsets read zero (R6); MBCMD and the arguments read as
they were written (log entry 108). -/
def HostIf.bar0 (h : HostIf) (off : Nat) : W64 :=
  match off with
  | 0x000 => BitVec.ofNat 64 (h.detail.toNat * 2 ^ 32 + h.reason.toNat * 2 ^ 24 + h.fails % 4 * 2 ^ 16 + h.mode.code)
  | 0x008 => h.hflag.setWidth 64
  | 0x010 => h.watts.setWidth 64
  | 0x018 => BitVec.ofNat 64 (h.clkMhz.toNat * 2 ^ 48 + h.tmax.toNat * 2 ^ 40 + h.power.toNat)
  | 0x100 => h.mbCmd.setWidth 64
  | 0x108 => vget h.mbArg 0 0
  | 0x110 => vget h.mbArg 1 0
  | 0x118 => vget h.mbArg 2 0
  | 0x120 => vget h.mbArg 3 0
  | 0x128 => BitVec.ofNat 64 (h.mbBusy.toNat * 2 ^ 63 + h.mbStatus.toNat)
  | _ => 0

/-- R390: PLIM takes the whole value written, between 600 and 2,600. -/
def State.writePlim (s : State) (v : W64) : State :=
  { s with host := { s.host with watts := BitVec.ofNat 12 (max 600 (min 2600 v.toNat)) } }

/-- R389: a one clears its flag. -/
def State.writeHflag (s : State) (v : W64) : State := { s with host := { s.host with hflag := s.host.hflag &&& ~~~(v.setWidth 5) } }

def execPlimWrite (v : W64) (s : State) : Host.Outcome State Fault Refusal := .next (s.writePlim v)
def execHflagWrite (v : W64) (s : State) : Host.Outcome State Fault Refusal := .next (s.writeHflag v)

/-- A write of a BAR0 register: HFLAG, PLIM, MBCMD and the arguments; the others are read-only or reserved (R391 steps 1 and
2). -/
def execBar0RegisterWrite (off : Nat) (v : W64) (s : State) : Host.Outcome State Fault Refusal :=
  .next
    (match off with
     | 0x008 => s.writeHflag v
     | 0x010 => s.writePlim v
     | 0x100 => if s.host.mbBusy then s.setFlag 1 else { s with host := { s.host with mbCmd := v.setWidth 8, mbBusy := true } }
     | 0x108 => { s with host := { s.host with mbArg := vset s.host.mbArg 0 v } }
     | 0x110 => { s with host := { s.host with mbArg := vset s.host.mbArg 1 v } }
     | 0x118 => { s with host := { s.host with mbArg := vset s.host.mbArg 2 v } }
     | 0x120 => { s with host := { s.host with mbArg := vset s.host.mbArg 3 v } }
     | _ => s)

/-- R219, R386: Device Control 2 of the configuration space, with the completion timeout. -/
def execDeviceControl2Write (v : BitVec 16) (s : State) : Host.Outcome State Fault Refusal :=
  .next { s with host := { s.host with devCtl2 := v } }

/-! ### BAR2 (R386, R387) -/

/-- Offset of the fill view in a die's window. -/
def fillBase : Nat := 0x800000

/-- Whether an access of `n` bytes at an offset lies aligned in a view that begins at `base`. -/
def inView (base off n : Nat) : Bool :=
  decide (base ≤ off ∧ off - base + n ≤ Config.windowSize) && (n == 4 || n == 8) && off % n == 0

/-- What an access to BAR2 is completed with. -/
def State.answerBar2 (s : State) (v : Option W64) : State := { s with host := { s.host with answer := v } }

/-- The cluster whose window a die's part of BAR2 shows (R386). -/
def State.streamCluster (s : State) (die : Nat) : Nat := clusterOf (s.streamCtx die)

def accessBytes (wide : Bool) : Nat := if wide then 8 else 4

/-- A host write to a scratchpad, performed at package scope. -/
def State.pokeSpad (s : State) (cluster a n : Nat) (v : W64) : State :=
  { s with mem := writeCells s.mem (spadKey cluster a) (leBytes n v.toNat) }

/-- An access through the plain view, a load or, with data, a store. Only a running device answers one (R392, log entry 62). -/
def execPlainViewAccess (die off : Nat) (wide : Bool) (data : Option W64) (s : State) : Host.Outcome State Fault Refusal :=
  let n := accessBytes wide
  let cl := s.streamCluster die
  event "plain-view access"
    (if 4 ≤ die then none
     else if s.host.mode ≠ .running ∨ inView 0 off n = false then some (s.answerBar2 none)
     else
       match data with
       | some v => some ((s.pokeSpad cl off n v).answerBar2 (some 0))
       | none => some (s.answerBar2 (some (BitVec.ofNat 64 (leNat (readCells s.mem (spadKey cl off) n))))))

/-- The tags of the words of a host access (R387). -/
def State.tagBits (s : State) (cluster a n : Nat) : List Bool :=
  (List.range (n / 4)).map fun j => cellAt s.tags (tagKey cluster (a + 4 * j)) != 0

/-- A write through the fill view: data and full tags as one access when every tag is empty; else nothing but IOVR. -/
def execFillViewWrite (die off : Nat) (wide : Bool) (data : W64) (s : State) : Host.Outcome State Fault Refusal :=
  let n := accessBytes wide
  let a := off - fillBase
  let cl := s.streamCluster die
  event "fill-view write"
    (if 4 ≤ die then none
     else if s.host.mode ≠ .running ∨ inView fillBase off n = false then some (s.answerBar2 none)
     else if (s.tagBits cl a n).any (fun b => b) = true then some ((s.setFlag 0).answerBar2 (some 0))
     else
       let t := s.pokeSpad cl a n data
       some ({ t with tags := setTags t.tags cl a (List.replicate (n / 4) true) }.answerBar2 (some 0)))

/-- A read through the fill view: each covered word's tag in bit 0 of that word's position. -/
def execFillViewRead (die off : Nat) (wide : Bool) (s : State) : Host.Outcome State Fault Refusal :=
  let n := accessBytes wide
  event "fill-view read"
    (if 4 ≤ die then none
     else if s.host.mode ≠ .running ∨ inView fillBase off n = false then some (s.answerBar2 none)
     else
       let bs := s.tagBits (s.streamCluster die) (off - fillBase) n
       some (s.answerBar2 (some (BitVec.ofNat 64 ((bs[0]?.getD false).toNat + 2 ^ 32 * (bs[1]?.getD false).toNat)))))

/-- An access of another size, alignment or place: Unsupported Request. -/
def execUnsupportedBar2Access (die off size : Nat) (s : State) : Host.Outcome State Fault Refusal :=
  event "unsupported access"
    (if die < 4 ∧ off < 2 ^ 24 ∧ inView 0 off size = false ∧ inView fillBase off size = false then some (s.answerBar2 none) else none)

end Sys2Proof.Machine
end

