-- ==== Sys2Proof/Machine/Reeve.lean ====
section
/-!
DEFINITION. The reeve's commands (R391, R393, R396, R397) as the host's mailbox in BAR0 or a command stream's mailbox in its
scratchpad gives them, and the acknowledgement of an invalidation (R220).
-/

namespace Sys2Proof.Machine

/-! ### The two mailboxes -/

/-- Local addresses of a command stream's mailbox (R391). -/
def mbCmdAddr : Nat := 0x5FFFC0
def mbStsAddr : Nat := 0x5FFFE8

/-- The command code and the arguments that wait in a requester's mailbox, none while it holds none, its last command is still
being performed, or the reeve writes an image (R393). -/
def State.mailbox (s : State) (rq : Requester) : Option (Nat × List W64) :=
  if (s.invals.any fun i => i.rq == rq) || s.host.writing.isSome then none
  else
    match rq with
    | .host => if s.host.mbBusy && s.host.mode != .shutDown then some (s.host.mbCmd.toNat, s.host.mbArg.toList) else none
    | .stream d =>
      let cl := s.streamCluster d
      if s.host.mode = .running ∧ (alGet s.streams d).isSome = true ∧ (s.tagBits cl mbCmdAddr 8).all (fun b => b) = true then
        let word (i : Nat) : Nat := leNat (readCells s.mem (spadKey cl (mbCmdAddr + 8 * i)) 8)
        some (word 0 % 256, [1, 2, 3, 4].map fun i => BitVec.ofNat 64 (word i))
      else none

/-- The reeve takes a command: a stream's MBCMD is emptied (R391 step 3 of the stream's exchange). -/
def State.takeCmd (s : State) (rq : Requester) : State :=
  match rq with
  | .host => s
  | .stream d => { s with tags := setTags s.tags (s.streamCluster d) mbCmdAddr [false, false] }

/-- The reeve writes a status: MBSTS with BUSY 0 and vector 0 for the host; MBSTS with its tag full for a stream. -/
def State.putStatus (s : State) (rq : Requester) (st : Nat) : State :=
  match rq with
  | .host => { s with host := { s.host with mbBusy := false, mbStatus := BitVec.ofNat 8 st, msix := s.host.msix ++ [0] } }
  | .stream d =>
    let cl := s.streamCluster d
    let t := s.pokeSpad cl mbStsAddr 8 (BitVec.ofNat 64 st)
    { t with tags := setTags t.tags cl mbStsAddr [true, true] }

/-- The commands of R391. -/
def knownCmd (c : Nat) : Bool := decide (1 ≤ c ∧ c ≤ 0xC) || decide (0x10 ≤ c ∧ c ≤ 0x12)

/-- Why a command is turned away before it is looked at: not allowed in this mode or from this requester (4), unknown (1). -/
def State.turnedAway (s : State) (rq : Requester) (c : Nat) : Option Nat :=
  match rq with
  | .host =>
    if s.host.mode = .running then (if knownCmd c then none else some 1)
    else if s.host.mode = .minimal ∧ (c = 0x10 ∨ c = 0x11) then none
    else some 4
  | .stream _ => if !knownCmd c then some 1 else if c = 4 ∨ c = 7 ∨ c = 8 ∨ c = 9 then none else some 4

/-- A command of code `own`: what it does and its status; without a status it is answered later. A code the reeve does not know
is answered by any of the commands' steps. A write outside the limits that the firmware attempts in performing it is not performed: it sets
RVIOL, and the command completes with status 3 (R397). -/
def reeve (own : Nat) (m : Mail) (act : List W64 → State → State × Option Nat) (s : State) : Host.Outcome State Fault Refusal :=
  event "mailbox command"
    (match s.mailbox m.rq with
     | none => none
     | some (c, args) =>
       if c ≠ own ∧ knownCmd c = true then none
       else
         match s.turnedAway m.rq c with
         | some st => some ((s.takeCmd m.rq).putStatus m.rq st)
         | none =>
           let r := if m.stray then ((s.takeCmd m.rq).setFlag 2, some 3) else act args (s.takeCmd m.rq)
           match r.2 with
           | none => some r.1
           | some st => some (r.1.putStatus m.rq st))

def argAt (args : List W64) (i : Nat) : Nat := ((args[i]?).getD 0).toNat

/-! ### Settings -/

/-- R350: the package's number, of a domain from 0 to 3,071. -/
def execSetdev (m : Mail) (s : State) : Host.Outcome State Fault Refusal :=
  reeve 0x01 m (fun a s => if 2 ^ 20 ≤ argAt a 0 ∨ 3072 ≤ argAt a 0 / 256 then (s, some 2) else ({ s with device := BitVec.ofNat 20 (argAt a 0) }, some 0)) s

/-- R209: a tenant's translation root. -/
def execSetroot (m : Mail) (s : State) : Host.Outcome State Fault Refusal :=
  reeve 0x02 m (fun a s =>
    if 2 ^ 16 ≤ argAt a 0 ∨ argAt a 1 % 0x8000 ≠ 0 ∨ Config.hbmSize < argAt a 1 + 0x8000 then (s, some 2)
    else ({ s with roots := alSet s.roots (argAt a 0) (BitVec.ofNat 64 (argAt a 1)) }, some 0)) s

/-- R329: a tenant's trap vector. -/
def execSettvec (m : Mail) (s : State) : Host.Outcome State Fault Refusal :=
  reeve 0x03 m (fun a s =>
    if 2 ^ 16 ≤ argAt a 0 ∨ argAt a 1 % 16 ≠ 0 ∨ 2 ^ 52 ≤ argAt a 1 then (s, some 2)
    else ({ s with tvecs := alSet s.tvecs (argAt a 0) (BitVec.ofNat 64 (argAt a 1)) }, some 0)) s

/-- A die and cluster as a reference (R245, R391). -/
def refOk (v : Nat) : Bool := decide (v < 2 ^ 15 ∧ bits v 8 5 < 24)

/-- R245: the tenant of a semaphore file. -/
def execSemten (m : Mail) (s : State) : Host.Outcome State Fault Refusal :=
  reeve 0x05 m (fun a s =>
    if refOk (argAt a 0) = false ∨ 2 ^ 16 ≤ argAt a 1 then (s, some 2)
    else ({ s with semTen := alSet s.semTen (bits (argAt a 0) 8 7) (BitVec.ofNat 16 (argAt a 1)) }, some 0)) s

/-- R375: a tenant's quota on a plane's switch. -/
def execQuota (m : Mail) (s : State) : Host.Outcome State Fault Refusal :=
  reeve 0x06 m (fun a s =>
    if 2 ^ 16 ≤ argAt a 0 ∨ 24 ≤ argAt a 1 then (s, some 2)
    else ({ s with quotas := alSet s.quotas (argAt a 0 * 32 + argAt a 1) (argAt a 2) }, some 0)) s

/-! ### Invalidation (R220) -/

/-- Steps 1 and 2 at once; the status follows the acknowledgement. -/
def execInval (m : Mail) (s : State) : Host.Outcome State Fault Refusal :=
  reeve 0x04 m (fun a s =>
    if 2 ^ 16 ≤ argAt a 0 ∨ 2 ^ 52 < argAt a 1 + argAt a 2 then (s, some 2)
    else
      let tenant : BitVec 16 := BitVec.ofNat 16 (argAt a 0)
      let t := s.revoke tenant (argAt a 1) (argAt a 2)
      ({ t with invals := t.invals ++ [⟨t.next, tenant, argAt a 1, argAt a 2, m.rq⟩], next := t.next + 1 }, none)) s

/-- Steps 3 and 4. -/
def State.ackInval (s : State) (id : Nat) : Option State := do
  let i ← s.invals.find? fun x => x.id == id
  if s.settledFor i.tenant i.va i.len then some ({ s with invals := s.invals.filter fun x => x.id != id }.putStatus i.rq 0) else none

def execInvalidationAck (id : Nat) (s : State) : Host.Outcome State Fault Refusal := event "invalidation is acknowledged" (s.ackInval id)

/-! ### Instances (R330, R342, R344) -/

/-- The instance that a CTXID names, running or saved (R391). -/
def State.runningNamed (s : State) (c : Nat) : Option (Inst ⊕ Image) :=
  ((s.insts.find? fun i => i.ctxs.head? == some c && i.live.contains c).orElse fun _ =>
    s.insts.find? fun i => i.ctxs.head? == some c).map .inl

def State.savedNamed (s : State) (c : Nat) : Option (Inst ⊕ Image) :=
  (s.images.find? fun m => m.inst.ctxs.head? == some c).map .inr

/-- DEDUCED (log entry 56): where a running and a saved instance answer to one CTXID, RESUME means the saved one and the others the running one. -/
def State.instNamed (s : State) (resume : Bool) (c : Nat) : Option (Inst ⊕ Image) :=
  if resume then (s.savedNamed c).orElse fun _ => s.runningNamed c else (s.runningNamed c).orElse fun _ => s.savedNamed c

/-- A command on an instance by the CTXID in its first argument (R99, R391). -/
def onInst (resume : Bool) (a : List W64) (s : State) (run : Inst → State × Option Nat) (saved : Image → State × Option Nat) : State × Option Nat :=
  if 4096 ≤ argAt a 0 then (s, some 2)
  else
    match s.instNamed resume (argAt a 0) with
    | none => (s, some 2)
    | some (.inl i) => run i
    | some (.inr m) => saved m

/-- R342: each context of the instance stops at its next bundle boundary; the save follows by its own step. -/
def execPreempt (m : Mail) (s : State) : Host.Outcome State Fault Refusal :=
  reeve 0x07 m (fun a s =>
    onInst false a s (fun i => (s.stopInst i, some 0))
      (fun _ => (s, some 4))) s

/-- R344: the image waits to be placed, with the level its record had reached. -/
def execResume (m : Mail) (s : State) : Host.Outcome State Fault Refusal :=
  reeve 0x08 m (fun a s =>
    onInst true a s (fun _ => (s, some 4)) (fun m =>
      ({ s with images := s.images.map fun x => if x.inst.id = m.inst.id ∧ x.resuming = false then { x with resuming := true, level := x.inst.level } else x },
       some 0))) s

/-- R330: the record of a kill by command holds the CTXID alone. -/
def execKill (m : Mail) (s : State) : Host.Outcome State Fault Refusal :=
  reeve 0x09 m (fun a s =>
    let rec_ : FaultRec := ⟨0, 0, 0, BitVec.ofNat 64 (argAt a 0)⟩
    onInst false a s (fun i => (s.killInst i.id rec_, some 0)) (fun m => (s.killImage m rec_, some 0))) s

/-! ### Loft planes (R379) -/

def execPlanelost (m : Mail) (s : State) : Host.Outcome State Fault Refusal :=
  reeve 0x0A m (fun a s => if 24 ≤ argAt a 0 then (s, some 2) else (s.losePlane (argAt a 0), some 0)) s

/-- A plane's extents are gone; an extent mirrored on it lives on where it survives. -/
def Extent.without (e : Extent) (p : Nat) : Option Extent :=
  if e.plane = p then e.mirror.map fun q => { e with plane := q, mirror := none }
  else if e.mirror = some p then some { e with mirror := none } else some e

def execPlaneclr (m : Mail) (s : State) : Host.Outcome State Fault Refusal :=
  reeve 0x0B m (fun a s =>
    let p := argAt a 0
    if 24 ≤ p then (s, some 2)
    else if s.lost.contains p then
      ({ s with lost := s.lost.filter fun q => q != p, extents := s.extents.filterMap fun e => e.without p }, some 0)
    else (s, some 0)) s

/-! ### Host memory: FAULTREC, ATTEST, RECOVER, HBMLOAD -/

/-- EPC, ECAUSE, EINFO and CTXID as 32 little-endian bytes (R391). -/
def faultBytes (f : FaultRec) : List Byte :=
  leBytes 8 f.epc.toNat ++ leBytes 8 f.ecause.toNat ++ leBytes 8 f.einfo.toNat ++ leBytes 8 f.ctxid.toNat

/-- A write of the device to host memory. -/
def State.pokeHost (s : State) (a : Nat) (bs : List Byte) : State := { s with mem := writeCells s.mem (hostKey a) bs }

def execFaultrec (m : Mail) (s : State) : Host.Outcome State Fault Refusal :=
  reeve 0x0C m (fun a s =>
    if 2 ^ 16 ≤ argAt a 0 then (s, some 2)
    else (s.pokeHost (argAt a 1) (faultBytes ((alGet s.faults (argAt a 0)).getD ⟨0, 0, 0, 0⟩)), some 0)) s

/-- R396: nonce, image digest, fuse configuration and security version, signed. -/
def execAttest (m : Mail) (s : State) : Host.Outcome State Fault Refusal :=
  reeve 0x10 m (fun a s =>
    let nonce := readCells s.mem (hostKey (argAt a 0)) 48
    let body := nonce ++ leBytes 48 (imageField s.host.flash 16 48) ++ leBytes 16 Config.fuseConfig.toNat ++
      leBytes 8 (imageField s.host.flash 8 4)
    (s.pokeHost (argAt a 0 + 48) (body ++ leBytes 96 (Config.attestSign body).toNat), some 0)) s

/-- The image that is being written stands in the flash, and the device restarts with FAILS = 0 (R393). -/
def State.endRecover (s : State) (img : List Byte) : State :=
  let t := (State.putStatus { s with host := { s.host with writing := none, flash := img } } .host 0).newStart
  { t with host := { t.host with fails := 0 } }

/-- R393: an image that passes is written over the one in flash by a step of its own, which a reset or a trip may come before. -/
def execRecover (m : Mail) (s : State) : Host.Outcome State Fault Refusal :=
  match s.host.writing with
  | some img => event "image is written" (if m.rq = .host then some (s.endRecover img) else none)
  | none =>
    reeve 0x11 m (fun a s =>
      let img := readCells s.mem (hostKey (argAt a 0)) (argAt a 1)
      if 4096 + 2 ^ 26 < argAt a 1 then (s, some 3)
      else if (imageVerdict img).1 ≠ 0 then (s, some 3)
      else ({ s with host := { s.host with writing := some img } }, none)) s

/-- R391: bytes from host memory to HBM. -/
def execHbmload (m : Mail) (s : State) : Host.Outcome State Fault Refusal :=
  reeve 0x12 m (fun a s =>
    let pa := argAt a 1
    let n := argAt a 2
    if n % 64 ≠ 0 ∨ n < 64 ∨ 2 ^ 26 < n ∨ pa % 64 ≠ 0 ∨ Config.hbmSize < pa + n then (s, some 2)
    else ({ s with mem := writeCells s.mem (hbmKey pa) (readCells s.mem (hostKey (argAt a 0)) n) }, some 0)) s

end Sys2Proof.Machine
end

