-- ==== Sys2Proof/Machine/Events.lean ====
section
/-!
DEFINITION. The step of the device that comes next when no agenda says otherwise: whatever has been started and can go on does
so before the next bundle issues (log entry 63). Left to the agenda are the steps whose moment the outside or a clock decides:
late arrivals, errors, packets, ageing, resets, power, and the host's accesses.
-/

namespace Sys2Proof.Machine

/-- The first of some steps that is enabled. -/
def firstOn : List (Instr × Bool) → Option Instr
  | [] => none
  | (i, b) :: r => if b then some i else firstOn r

/-- Steps of one result in flight. -/
def State.flightEvents (s : State) (c : Nat) (f : Flight) : List (Instr × Bool) :=
  [(.translationWalkDone c f.id, (s.finishXlat c f.id).isSome), (.resultArrival c f.id, (s.arriveResult c f.id).isSome),
   (.exactResultArrival c f.id, (s.arriveExact c f.id).isSome), (.hostReadCompletion c f.id none, (s.hostRead c f.id none).isSome),
   (.loftRefusal c f.id, (s.refuse c f.id).isSome)]

/-- Steps of one entry of a load queue. -/
def State.entryEvents (s : State) (c q : Nat) (e : QEntry) : List (Instr × Bool) :=
  [(.queuedLoadArrival c q e.id, (s.arriveEntry c q e.id).isSome), (.hostReadCompletion c e.id none, (s.hostRead c e.id none).isSome),
   (.loftRefusal c e.id, (s.refuse c e.id).isSome)]

/-- Steps of a context's stores. -/
def State.storeEvents (s : State) (c : Nat) (k : Ctx) : List (Instr × Bool) :=
  (storeIds none k.stores).map fun id => (.storePerformed c id, (s.performStore c id).isSome)

/-- The step of a send queue to a channel of this package, or its end; when a word for another package leaves, that package decides
(R365). -/
def State.sendEvent (s : State) (e : SendQ) : Instr × Bool :=
  (.fifoWordDelivery e.id, (adDevice e.addr == s.device.toNat || e.entries.isEmpty) && (s.deliverWord e.id).isSome)

/-- Steps of a context's results in flight, load queues, stores and send queues, and of the context itself: a trap that awaits a
context which issues nothing more, because it has retired or its instance is being saved, is taken first (R342, R374). -/
def State.ctxEvents (s : State) (c : Nat) (k : Ctx) : List (Instr × Bool) :=
  List.flatten
    [(k.flight.filter fun f => !f.arrived).flatMap (s.flightEvents c),
     (List.range 4).flatMap fun q => ((vget k.q q []).filter fun e => !e.arrived).flatMap (s.entryEvents c q),
     s.storeEvents c k, k.sends.map s.sendEvent,
     [(.trapTaken c, !s.able c && (s.takeDue c).isSome), (.contextPartEnd c, (s.endPart c).isSome)]]

/-- Steps of an M command. -/
def State.mEvents (s : State) (id : Nat) : List (Instr × Bool) :=
  [(.mCommandComplete id, (s.completeM id).isSome), (.mCommandStart id, (s.startM id).isSome), (.mQueueEntry id, (s.enterM id).isSome)]

/-- A semwait whose test would pass. -/
def State.semPasses (s : State) (c : ECmd) : Bool :=
  c.stage == .started &&
    (match c.op with
     | .semwait ref v eq _ passed => passed || semTest (s.sem ref) v eq
     | _ => false)

/-- Steps of an E command. -/
def State.eEvents (s : State) (c : ECmd) : List (Instr × Bool) :=
  [(.copyComplete c.id, (s.completeCopy c.id).isSome), (.bankComplete c.id, (s.completeBank c.id).isSome),
   (.xferComplete c.id, (s.completeXfer c.id).isSome), (.semwaitTest c.id, s.semPasses c),
   (.launchSnapshot c.id, (s.launchSnapshot c.id).isSome), (.singleResnapshot c.id, (s.resnapshot c.id).isSome),
   (.fifoWordDelivery c.id, (s.endDrain c.id).isSome),
   (.eCommandStart c.id, (s.startE c.id).isSome), (.eQueueEntry c.id, (s.enterE c.id).isSome)]

/-- Steps of the units beside the cores and of the reeve. -/
def State.unitEvents (s : State) : List (Instr × Bool) :=
  List.flatten
    [s.walks.map fun w => (.gleanerHop w.id, (s.hop w.id).isSome),
     s.orphans.map s.sendEvent,
     s.barriers.flatMap fun b => [(.barrierReport b.id, (s.barrierReport b.id).isSome), (.barrierRelease b.id, (s.barrierRelease b.id).isSome)],
     s.insts.flatMap fun i => [(.instanceEnd i.id, (s.endInst i.id).isSome), (.preemptSave i.id, (s.saveInst i.id).isSome)],
     s.pendings.map fun p => (.instancePlacement p.id, (s.placeRecord p.id).isSome),
     s.images.map fun m => (.resumePlacement m.inst.id, (s.resumeImage m.inst.id).isSome),
     s.invals.map fun i => (.invalidationAck i.id, (s.ackInval i.id).isSome)]

/-- The step that performs the command in a requester's mailbox, with no write outside the limits of R397. -/
def cmdOf (rq : Requester) (c : Nat) : Instr :=
  match c with
  | 0x02 => .setroot ⟨rq, false⟩
  | 0x03 => .settvec ⟨rq, false⟩
  | 0x04 => .inval ⟨rq, false⟩
  | 0x05 => .semten ⟨rq, false⟩
  | 0x06 => .quota ⟨rq, false⟩
  | 0x07 => .preempt ⟨rq, false⟩
  | 0x08 => .resume ⟨rq, false⟩
  | 0x09 => .kill ⟨rq, false⟩
  | 0x0A => .planelost ⟨rq, false⟩
  | 0x0B => .planeclr ⟨rq, false⟩
  | 0x0C => .faultrec ⟨rq, false⟩
  | 0x10 => .attest ⟨rq, false⟩
  | 0x11 => .recover ⟨rq, false⟩
  | 0x12 => .hbmload ⟨rq, false⟩
  | _ => .setdev ⟨rq, false⟩

/-- The first mailbox that holds a command; before any, the end of a RECOVER. -/
def State.mailEvent (s : State) : List Requester → Option Instr
  | [] => none
  | rq :: rs =>
    if s.host.writing.isSome then some (.recover ⟨.host, false⟩)
    else
      match s.mailbox rq with
      | some (c, _) => some (cmdOf rq c)
      | none => s.mailEvent rs

/-- The requesters that exist. -/
def State.requesters (s : State) : List Requester := .host :: s.streams.map fun p => .stream p.1

/-- The next step of the device by itself: while it runs, of its results, commands, units and mailboxes; otherwise a command
in the host's mailbox or the start that is due. -/
def State.nextEvent (s : State) : Option Instr :=
  if s.host.mode = .running then
    (((((firstOn (s.ctxs.flatMap fun p => if p.1 < 4096 then s.ctxEvents p.1 p.2 else s.storeEvents p.1 p.2)).orElse fun _ =>
      firstOn (s.mcmds.flatMap fun m => s.mEvents m.id)).orElse fun _ =>
      firstOn (s.ecmds.flatMap fun e => s.eEvents e)).orElse fun _ =>
      firstOn s.unitEvents).orElse fun _ =>
      s.mailEvent s.requesters)
  else (s.mailEvent [.host]).orElse fun _ => if s.canStart then some (.start ⟨none, none, none⟩) else none

/-! ### One step -/

/-- Whether an instruction is part of a bundle, and so no step of the agenda. -/
def inBundle (i : Instr) : Bool :=
  (slotWord i).isSome ||
    (match i with
     | .emptyBundle _ => true
     | .repeatHead _ _ => true
     | .repetition => true
     | .insertedCycle => true
     | _ => false)

/-- What can still happen while every clock stands still (R398, R399): resets, starts, the sensors, and the host's accesses. -/
def clockless : Instr → Bool
  | .powerOnReset | .conventionalReset | .functionLevelReset | .start _ | .thermalTrip _ | .clockThrottle _ _ | .clockRestore _ _
  | .plimWrite _ | .hflagWrite _ | .bar0RegisterWrite _ _ | .deviceControl2Write _ | .plainViewAccess _ _ _ _
  | .fillViewWrite _ _ _ _ | .fillViewRead _ _ _ | .unsupportedBar2Access _ _ _ => true
  | _ => false

/-- Why a step of the agenda is none of the device's, if it is not. -/
def State.outOfPlace (s : State) (i : Instr) : Option String :=
  if inBundle i then some "a slot instruction outside a bundle"
  else if s.host.mode == .shutDown && !clockless i then some "a step while every clock stands still"
  else none

/-- One step of the device, its contexts being ready as their conditions have it: the next step of the agenda; else, unless
everything is scripted, what can go on by itself; else the turn of the context whose bundle is next. -/
def stepWith (ex : Meaning) (s0 : State) : Host.Outcome State Fault Refusal :=
  let s := s0.wake ex
  match s.agenda with
  | i :: r => (s.outOfPlace i).elim (ex i { s with agenda := r }) fun w => .fault (.notEnabled w)
  | [] =>
    match if s.scripted then none else s.nextEvent with
    | some i => ex i s
    | none => if s.host.mode = .running then issueTurn ex s else .next s

/-! ### Placing one bundle to be run next -/

/-- The words of the bundle that holds a table word alone: the word itself when it is the header of an empty bundle, else the word
as the only slot of a bundle, in the slot kind in which the decoder reads it. -/
def tableBundle (nbits w : Nat) : List W32 :=
  match decodeTableWord nbits w with
  | none => [BitVec.ofNat 32 (tableWord nbits w)]
  | some i => encode i

/-- A leaf that maps the gibibyte of a virtual address to the first of HBM, readable and executable. -/
def codeLeaf (va : Nat) : Handle :=
  { Handle.none with valid := true, vpage := BitVec.ofNat 36 (va / 2 ^ 30 * 2 ^ 14), size := 2, perm := 5 }

/-- The device running, with the words at the PC of the context whose bundle is next, in HBM behind a translation of that PC, and
that context ready to issue them (log entry 64). -/
def State.placeBundle (s : State) (ws : List W32) : State :=
  let k := s.here
  let va := k.pc.toNat
  let t := (s.setHere { k with run := .running, branch := none, delay := 0, group := Group.fresh, rep := none, due := none }).hold s.cur
  { t with
    agenda := []
    host := { s.host with mode := .running, startReq := false }
    tlb := ⟨dieOf s.cur, k.sr.tenant, codeLeaf va⟩ :: s.tlb
    mem := writeCells s.mem (hbmKey (va % 2 ^ 30)) (ws.flatMap fun w => leBytes 4 w.toNat) }

end Sys2Proof.Machine
end

