-- ==== Sys2Proof/Machine/Scalar.lean ====
section
/-!
DEFINITION. The arithmetic, logic, bit-field, compare and constant instructions of the X and Y slots (R84 to R92).
-/

namespace Sys2Proof.Machine

/-! ### Shared forms -/

/-- A family-R operation of two sources under the width of R85, written with the OR of the poison bits (R84). -/
def binop (g : Guard) (c : Cl) (d a b : BitVec 5) (lat : Nat) (f : W64 → W64 → W64) (s : State) :
    Host.Outcome State Fault Refusal :=
  runSlot g (do
    let x ← readR c a
    let y ← readR c b
    writeR c d ⟨f x.val y.val, x.poison || y.poison⟩ lat) s

/-- A family-R or family-I operation of one source. -/
def unop (g : Guard) (c : Cl) (d a : BitVec 5) (lat : Nat) (f : W64 → W64) (s : State) : Host.Outcome State Fault Refusal :=
  runSlot g (do
    let x ← readR c a
    writeR c d ⟨f x.val, x.poison⟩ lat) s

/-- Left shift by the whole 64-bit count (R86). -/
def shlW (w a n : Nat) : Nat := if w ≤ n then 0 else a * 2 ^ n % 2 ^ w

/-- Right shift filling with zeros (R86). -/
def shrW (w a n : Nat) : Nat := if w ≤ n then 0 else a % 2 ^ w / 2 ^ n

/-- Right shift filling with the sign (R86). -/
def sraW (w a n : Nat) : Nat := wrapTo w (signedOf w a / 2 ^ min n (w - 1))

/-- Rotation left by n mod w (R86). -/
def rolW (w a n : Nat) : Nat :=
  let k := n % w
  (a % 2 ^ w * 2 ^ k) % 2 ^ w + a % 2 ^ w / 2 ^ (w - k)

/-- Leading zeros of a w-bit value; w of zero (R86). -/
def clzW (w a : Nat) : Nat := if a % 2 ^ w = 0 then w else w - 1 - Nat.log2 (a % 2 ^ w)

/-- Trailing zeros of a w-bit value; w of zero (R86). -/
def ctzW (w a : Nat) : Nat := ((List.range w).takeWhile fun i => !bitAt a i).length

/-- One bits of a w-bit value (R86). -/
def popW (w a : Nat) : Nat := ((List.range w).filter fun i => bitAt a i).length

/-- The high half of a product (R86). -/
def mulhW (w a b : Nat) (u : Bool) : Nat :=
  if u then (a % 2 ^ w) * (b % 2 ^ w) / 2 ^ w % 2 ^ w else wrapTo w (signedOf w a * signedOf w b / 2 ^ w)

/-- The smaller or larger of two w-bit values (R86). -/
def minW (w a b : Nat) (u : Bool) : Nat :=
  if (if u then decide (a % 2 ^ w ≤ b % 2 ^ w) else decide (signedOf w a ≤ signedOf w b)) then a else b

def maxW (w a b : Nat) (u : Bool) : Nat :=
  if (if u then decide (b % 2 ^ w ≤ a % 2 ^ w) else decide (signedOf w b ≤ signedOf w a)) then a else b

/-- A family-R result of two sources at a width, sign-extended (R85). -/
def atWidth (w : BitVec 2) (f : Nat → Nat → Nat → Nat) (x y : W64) : W64 := extend (widthOf w) (f (widthOf w) x.toNat y.toNat)

/-- A scalar compare: a poisoned source raises POISON_CONSUMED (R340), of two of them the first (log entry 135); otherwise every bit of PD
is written (R91). -/
def comparison (g : Guard) (c : Cl) (pd : BitVec 4) (a : BitVec 5) (b : Exec (W64 × Option (BitVec 5 × Bool))) (cc : Cond) (w : Nat)
    (s : State) : Host.Outcome State Fault Refusal :=
  runSlot g (do
    let x ← readR c a
    let y ← b
    raiseIf x.poison 8 c.kind (poisonInfo c a)
    match y.2 with
    | some (r, true) => raise 8 c.kind (poisonInfo c r)
    | _ => exact (.p pd (BitVec.allOnes 64) (allOnes (condHolds cc w x.val.toNat y.1.toNat))) 1) s

/-! ### Family R (R86, R87) -/

def execAdd (g : Guard) (c : Cl) (d a b : BitVec 5) (w : BitVec 2) (s : State) := binop g c d a b 1 (atWidth w fun _ x y => x + y) s
def execSub (g : Guard) (c : Cl) (d a b : BitVec 5) (w : BitVec 2) (s : State) :=
  binop g c d a b 1 (atWidth w fun n x y => x % 2 ^ n + 2 ^ n - y % 2 ^ n) s
def execAnd (g : Guard) (c : Cl) (d a b : BitVec 5) (w : BitVec 2) (s : State) := binop g c d a b 1 (atWidth w fun _ x y => x &&& y) s
def execOr (g : Guard) (c : Cl) (d a b : BitVec 5) (w : BitVec 2) (s : State) := binop g c d a b 1 (atWidth w fun _ x y => x ||| y) s
def execXor (g : Guard) (c : Cl) (d a b : BitVec 5) (w : BitVec 2) (s : State) := binop g c d a b 1 (atWidth w fun _ x y => x ^^^ y) s
def execAndn (g : Guard) (c : Cl) (d a b : BitVec 5) (w : BitVec 2) (s : State) :=
  binop g c d a b 1 (fun x y => extend (widthOf w) (x &&& ~~~y).toNat) s
def execShl (g : Guard) (c : Cl) (d a b : BitVec 5) (w : BitVec 2) (s : State) := binop g c d a b 1 (atWidth w shlW) s
def execShr (g : Guard) (c : Cl) (d a b : BitVec 5) (w : BitVec 2) (s : State) := binop g c d a b 1 (atWidth w shrW) s
def execSra (g : Guard) (c : Cl) (d a b : BitVec 5) (w : BitVec 2) (s : State) := binop g c d a b 1 (atWidth w sraW) s
def execRol (g : Guard) (d a b : BitVec 5) (w : BitVec 2) (s : State) := binop g .x d a b 1 (atWidth w rolW) s
def execMulX (g : Guard) (d a b : BitVec 5) (w : BitVec 2) (s : State) := binop g .x d a b 3 (atWidth w fun _ x y => x * y) s
def execMulY (g : Guard) (d a b : BitVec 5) (w : BitVec 2) (s : State) := binop g .y d a b 3 (atWidth w fun _ x y => x * y) s
def execMulh (g : Guard) (d a b : BitVec 5) (w : BitVec 2) (u : Bool) (s : State) :=
  binop g .x d a b 3 (atWidth w fun n x y => mulhW n x y u) s
def execMinX (g : Guard) (d a b : BitVec 5) (w : BitVec 2) (u : Bool) (s : State) := binop g .x d a b 1 (atWidth w fun n x y => minW n x y u) s
def execMinY (g : Guard) (d a b : BitVec 5) (w : BitVec 2) (u : Bool) (s : State) := binop g .y d a b 1 (atWidth w fun n x y => minW n x y u) s
def execMaxX (g : Guard) (d a b : BitVec 5) (w : BitVec 2) (u : Bool) (s : State) := binop g .x d a b 1 (atWidth w fun n x y => maxW n x y u) s
def execMaxY (g : Guard) (d a b : BitVec 5) (w : BitVec 2) (u : Bool) (s : State) := binop g .y d a b 1 (atWidth w fun n x y => maxW n x y u) s
def execLea (g : Guard) (d a b : BitVec 5) (f : BitVec 4) (s : State) := binop g .y d a b 1 (fun x y => x + y <<< f.toNat) s
def execSextX (g : Guard) (d a : BitVec 5) (w : BitVec 2) (s : State) := unop g .x d a 1 (fun x => sext64 (widthOf w) x) s
def execSextY (g : Guard) (d a : BitVec 5) (w : BitVec 2) (s : State) := unop g .y d a 1 (fun x => sext64 (widthOf w) x) s
def execZextX (g : Guard) (d a : BitVec 5) (w : BitVec 2) (s : State) := unop g .x d a 1 (fun x => zext64 (widthOf w) x) s
def execZextY (g : Guard) (d a : BitVec 5) (w : BitVec 2) (s : State) := unop g .y d a 1 (fun x => zext64 (widthOf w) x) s
def execClzX (g : Guard) (d a : BitVec 5) (w : BitVec 2) (s : State) := unop g .x d a 1 (fun x => BitVec.ofNat 64 (clzW (widthOf w) x.toNat)) s
def execClzY (g : Guard) (d a : BitVec 5) (w : BitVec 2) (s : State) := unop g .y d a 1 (fun x => BitVec.ofNat 64 (clzW (widthOf w) x.toNat)) s
def execCtz (g : Guard) (d a : BitVec 5) (w : BitVec 2) (s : State) := unop g .x d a 1 (fun x => BitVec.ofNat 64 (ctzW (widthOf w) x.toNat)) s
def execPopcX (g : Guard) (d a : BitVec 5) (w : BitVec 2) (s : State) := unop g .x d a 1 (fun x => BitVec.ofNat 64 (popW (widthOf w) x.toNat)) s
def execPopcY (g : Guard) (d a : BitVec 5) (w : BitVec 2) (s : State) := unop g .y d a 1 (fun x => BitVec.ofNat 64 (popW (widthOf w) x.toNat)) s

/-- R87: the copy crosses to the y register D with its poison bit, latency 2. X-slot fields never name a FIFO (R363). -/
def execMovxy (g : Guard) (d a : BitVec 5) (w : BitVec 2) (s : State) :=
  runSlot g (do
    let x ← readX a
    exact (.y d ⟨sext64 (widthOf w) x.val, x.poison⟩) 2) s

def execMovyx (g : Guard) (d a : BitVec 5) (w : BitVec 2) (s : State) :=
  runSlot g (do
    let y ← readYf .Y a
    exact (.x d ⟨sext64 (widthOf w) y.val, y.poison⟩) 2) s

/-! ### Families I, K and F (R88 to R90) -/

def execAddi (g : Guard) (c : Cl) (d a : BitVec 5) (i : BitVec 14) (s : State) := unop g c d a 1 (fun x => x + simm i) s
def execAndi (g : Guard) (c : Cl) (d a : BitVec 5) (i : BitVec 14) (s : State) := unop g c d a 1 (fun x => x &&& simm i) s
def execOri (g : Guard) (c : Cl) (d a : BitVec 5) (i : BitVec 14) (s : State) := unop g c d a 1 (fun x => x ||| simm i) s
def execXori (g : Guard) (c : Cl) (d a : BitVec 5) (i : BitVec 14) (s : State) := unop g c d a 1 (fun x => x ^^^ simm i) s
def execShli (g : Guard) (c : Cl) (d a : BitVec 5) (i : BitVec 14) (s : State) := unop g c d a 1 (fun x => x <<< i.toNat) s
def execShri (g : Guard) (c : Cl) (d a : BitVec 5) (i : BitVec 14) (s : State) := unop g c d a 1 (fun x => x >>> i.toNat) s
def execSrai (g : Guard) (c : Cl) (d a : BitVec 5) (i : BitVec 14) (s : State) := unop g c d a 1 (fun x => x.sshiftRight i.toNat) s
def execMuli (g : Guard) (d a : BitVec 5) (i : BitVec 14) (s : State) := unop g .x d a 3 (fun x => x * simm i) s

/-- R89: li writes the sign-extended constant with poison clear; lih shifts D left by 19 and keeps its poison. -/
def loadImm (g : Guard) (c : Cl) (d : BitVec 5) (i : BitVec 19) (s : State) := runSlot g (writeR c d ⟨simm i, false⟩ 1) s

def execLiX (g : Guard) (d : BitVec 5) (i : BitVec 19) (s : State) := loadImm g .x d i s
def execLiY (g : Guard) (d : BitVec 5) (i : BitVec 19) (s : State) := loadImm g .y d i s
def execLihX (g : Guard) (d : BitVec 5) (i : BitVec 19) (s : State) := unop g .x d d 1 (fun x => x <<< 19 ||| BitVec.ofNat 64 i.toNat) s
def execLihY (g : Guard) (d : BitVec 5) (i : BitVec 19) (s : State) := unop g .y d d 1 (fun x => x <<< 19 ||| BitVec.ofNat 64 i.toNat) s

/-- R90: the field of len + 1 bits at pos, zero-extended. -/
def bextVal (pos len : BitVec 6) (x : W64) : W64 := zext64 (len.toNat + 1) (x >>> pos.toNat)

def execBextX (g : Guard) (d a : BitVec 5) (pos len : BitVec 6) (s : State) := unop g .x d a 1 (bextVal pos len) s
def execBextY (g : Guard) (d a : BitVec 5) (pos len : BitVec 6) (s : State) := unop g .y d a 1 (bextVal pos len) s

/-- R90: the low len + 1 bits of A replace the field of D at pos. -/
def binsVal (pos len : BitVec 6) (a d : W64) : W64 :=
  let m : W64 := BitVec.ofNat 64 (2 ^ (len.toNat + 1) - 1) <<< pos.toNat
  (d &&& ~~~m) ||| ((a <<< pos.toNat) &&& m)

def execBins (g : Guard) (d a : BitVec 5) (pos len : BitVec 6) (s : State) := binop g .x d a d 1 (binsVal pos len) s

/-! ### Compares, predicate logic and select (R91, R92) -/

def cmpReg (c : Cl) (b : BitVec 5) : Exec (W64 × Option (BitVec 5 × Bool)) := do
  let y ← readR c b
  return (y.val, some (b, y.poison))

def execCmpX (g : Guard) (pd : BitVec 4) (a b : BitVec 5) (cc : Cond) (w : BitVec 2) (s : State) :=
  comparison g .x pd a (cmpReg .x b) cc (widthOf w) s
def execCmpY (g : Guard) (pd : BitVec 4) (a b : BitVec 5) (cc : Cond) (w : BitVec 2) (s : State) :=
  comparison g .y pd a (cmpReg .y b) cc (widthOf w) s
def execCmpiX (g : Guard) (pd : BitVec 4) (a : BitVec 5) (cc : Cond) (i : BitVec 11) (s : State) :=
  comparison g .x pd a (pure (simm i, none)) cc 64 s
def execCmpiY (g : Guard) (pd : BitVec 4) (a : BitVec 5) (cc : Cond) (i : BitVec 11) (s : State) :=
  comparison g .y pd a (pure (simm i, none)) cc 64 s

def predLogic (g : Guard) (pd pa pb fn : BitVec 4) (s : State) : Host.Outcome State Fault Refusal :=
  runSlot g (do
    let a ← readP pa
    let b ← readP pb
    exact (.p pd (BitVec.allOnes 64) (plogic fn a b)) 1) s

def execPlogX (g : Guard) (pd pa pb fn : BitVec 4) (s : State) := predLogic g pd pa pb fn s
def execPlogY (g : Guard) (pd pa pb fn : BitVec 4) (s : State) := predLogic g pd pa pb fn s

/-- R92: sel writes the chosen source with that source's poison. Both sources are read, so a FIFO named in either
field pops (R364). -/
def select (g : Guard) (c : Cl) (d a b : BitVec 5) (ps : BitVec 4) (s : State) : Host.Outcome State Fault Refusal :=
  runSlot g (do
    let x ← readR c a
    let y ← readR c b
    let p ← readP ps
    writeR c d (if p.getLsbD 0 then x else y) 1) s

def execSelX (g : Guard) (d a b : BitVec 5) (ps : BitVec 4) (s : State) := select g .x d a b ps s
def execSelY (g : Guard) (d a b : BitVec 5) (ps : BitVec 4) (s : State) := select g .y d a b ps s

end Sys2Proof.Machine
end

