-- ==== Sys2Proof/Machine/Dispatch.lean ====
section
/-!
DEFINITION. The meaning of every instruction: one arm per constructor of Instr, each one call of the definition that holds it.
-/

namespace Sys2Proof.Machine

def exec (i : Instr) (s : State) : Host.Outcome State Fault Refusal :=
  match i with
  | .emptyBundle stop => Sys2Proof.Machine.execEmptyBundle stop s
  | .repeatHead len mword => Sys2Proof.Machine.execRepeatHead len mword s
  | .repetition => Sys2Proof.Machine.execRepetition s
  | .insertedCycle => Sys2Proof.Machine.execInsertedCycle s
  | .add g c d a b w => Sys2Proof.Machine.execAdd g c d a b w s
  | .sub g c d a b w => Sys2Proof.Machine.execSub g c d a b w s
  | .and g c d a b w => Sys2Proof.Machine.execAnd g c d a b w s
  | .or g c d a b w => Sys2Proof.Machine.execOr g c d a b w s
  | .xor g c d a b w => Sys2Proof.Machine.execXor g c d a b w s
  | .andn g c d a b w => Sys2Proof.Machine.execAndn g c d a b w s
  | .shl g c d a b w => Sys2Proof.Machine.execShl g c d a b w s
  | .shr g c d a b w => Sys2Proof.Machine.execShr g c d a b w s
  | .sra g c d a b w => Sys2Proof.Machine.execSra g c d a b w s
  | .rol g d a b w => Sys2Proof.Machine.execRol g d a b w s
  | .mulX g d a b w => Sys2Proof.Machine.execMulX g d a b w s
  | .mulY g d a b w => Sys2Proof.Machine.execMulY g d a b w s
  | .mulh g d a b w u => Sys2Proof.Machine.execMulh g d a b w u s
  | .minX g d a b w u => Sys2Proof.Machine.execMinX g d a b w u s
  | .minY g d a b w u => Sys2Proof.Machine.execMinY g d a b w u s
  | .maxX g d a b w u => Sys2Proof.Machine.execMaxX g d a b w u s
  | .maxY g d a b w u => Sys2Proof.Machine.execMaxY g d a b w u s
  | .lea g d a b f => Sys2Proof.Machine.execLea g d a b f s
  | .sextX g d a w => Sys2Proof.Machine.execSextX g d a w s
  | .sextY g d a w => Sys2Proof.Machine.execSextY g d a w s
  | .zextX g d a w => Sys2Proof.Machine.execZextX g d a w s
  | .zextY g d a w => Sys2Proof.Machine.execZextY g d a w s
  | .clzX g d a w => Sys2Proof.Machine.execClzX g d a w s
  | .clzY g d a w => Sys2Proof.Machine.execClzY g d a w s
  | .ctz g d a w => Sys2Proof.Machine.execCtz g d a w s
  | .popcX g d a w => Sys2Proof.Machine.execPopcX g d a w s
  | .popcY g d a w => Sys2Proof.Machine.execPopcY g d a w s
  | .movxy g d a w => Sys2Proof.Machine.execMovxy g d a w s
  | .movyx g d a w => Sys2Proof.Machine.execMovyx g d a w s
  | .addi g c d a imm => Sys2Proof.Machine.execAddi g c d a imm s
  | .andi g c d a imm => Sys2Proof.Machine.execAndi g c d a imm s
  | .ori g c d a imm => Sys2Proof.Machine.execOri g c d a imm s
  | .xori g c d a imm => Sys2Proof.Machine.execXori g c d a imm s
  | .shli g c d a imm => Sys2Proof.Machine.execShli g c d a imm s
  | .shri g c d a imm => Sys2Proof.Machine.execShri g c d a imm s
  | .srai g c d a imm => Sys2Proof.Machine.execSrai g c d a imm s
  | .muli g d a imm => Sys2Proof.Machine.execMuli g d a imm s
  | .liX g d imm => Sys2Proof.Machine.execLiX g d imm s
  | .liY g d imm => Sys2Proof.Machine.execLiY g d imm s
  | .lihX g d imm => Sys2Proof.Machine.execLihX g d imm s
  | .lihY g d imm => Sys2Proof.Machine.execLihY g d imm s
  | .bextX g d a pos len => Sys2Proof.Machine.execBextX g d a pos len s
  | .bextY g d a pos len => Sys2Proof.Machine.execBextY g d a pos len s
  | .bins g d a pos len => Sys2Proof.Machine.execBins g d a pos len s
  | .cmpX g pd a b cc w => Sys2Proof.Machine.execCmpX g pd a b cc w s
  | .cmpY g pd a b cc w => Sys2Proof.Machine.execCmpY g pd a b cc w s
  | .cmpiX g pd a cc imm => Sys2Proof.Machine.execCmpiX g pd a cc imm s
  | .cmpiY g pd a cc imm => Sys2Proof.Machine.execCmpiY g pd a cc imm s
  | .plogX g pd pa pb fn => Sys2Proof.Machine.execPlogX g pd pa pb fn s
  | .plogY g pd pa pb fn => Sys2Proof.Machine.execPlogY g pd pa pb fn s
  | .selX g d a b ps => Sys2Proof.Machine.execSelX g d a b ps s
  | .selY g d a b ps => Sys2Proof.Machine.execSelY g d a b ps s
  | .br g off => Sys2Proof.Machine.execBr g off s
  | .call g off => Sys2Proof.Machine.execCall g off s
  | .jr g d a => Sys2Proof.Machine.execJr g d a s
  | .ret g => Sys2Proof.Machine.execRet g s
  | .mfsr g d sr => Sys2Proof.Machine.execMfsr g d sr s
  | .mtsr g a sr => Sys2Proof.Machine.execMtsr g a sr s
  | .setlc g a imm => Sys2Proof.Machine.execSetlc g a imm s
  | .rdfel g d => Sys2Proof.Machine.execRdfel g d s
  | .clrfel g => Sys2Proof.Machine.execClrfel g s
  | .yield g => Sys2Proof.Machine.execYield g s
  | .halt g => Sys2Proof.Machine.execHalt g s
  | .trap g n => Sys2Proof.Machine.execTrap g n s
  | .eret g => Sys2Proof.Machine.execEret g s
  | .uret g => Sys2Proof.Machine.execUret g s
  | .chk g a off => Sys2Proof.Machine.execChk g a off s
  | .xlat g h a perm => Sys2Proof.Machine.execXlat g h a perm s
  | .hdrop g h => Sys2Proof.Machine.execHdrop g h s
  | .hmov g h src => Sys2Proof.Machine.execHmov g h src s
  | .hinfo g h d => Sys2Proof.Machine.execHinfo g h d s
  | .lset g n part y => Sys2Proof.Machine.execLset g n part y s
  | .lget g n part y => Sys2Proof.Machine.execLget g n part y s
  | .bset g n y => Sys2Proof.Machine.execBset g n y s
  | .bget g n y => Sys2Proof.Machine.execBget g n y s
  | .ld g cl t a cls w off => Sys2Proof.Machine.execLd g cl t a cls w off s
  | .ldz g cl t a cls w off => Sys2Proof.Machine.execLdz g cl t a cls w off s
  | .st g cl t a cls w off => Sys2Proof.Machine.execSt g cl t a cls w off s
  | .ldS g cl t a cls w off => Sys2Proof.Machine.execLdS g cl t a cls w off s
  | .ldf g cl t a cls w off => Sys2Proof.Machine.execLdf g cl t a cls w off s
  | .ldfe g cl t a cls w off => Sys2Proof.Machine.execLdfe g cl t a cls w off s
  | .ste g cl t a cls w off => Sys2Proof.Machine.execSte g cl t a cls w off s
  | .tset g cl t a cls w off => Sys2Proof.Machine.execTset g cl t a cls w off s
  | .tget g cl t a cls w off => Sys2Proof.Machine.execTget g cl t a cls w off s
  | .ldh g cl t h o cls w disp => Sys2Proof.Machine.execLdh g cl t h o cls w disp s
  | .ldhz g cl t h o cls w disp => Sys2Proof.Machine.execLdhz g cl t h o cls w disp s
  | .sth g cl t h o cls w disp => Sys2Proof.Machine.execSth g cl t h o cls w disp s
  | .ldhS g cl t h o cls w disp => Sys2Proof.Machine.execLdhS g cl t h o cls w disp s
  | .ldq g q h o cls w => Sys2Proof.Machine.execLdq g q h o cls w s
  | .qpop g cl t q => Sys2Proof.Machine.execQpop g cl t q s
  | .ldv g v a cls ew off => Sys2Proof.Machine.execLdv g v a cls ew off s
  | .stv g v a cls ew off => Sys2Proof.Machine.execStv g v a cls ew off s
  | .ldvh g v h o cls ew => Sys2Proof.Machine.execLdvh g v h o cls ew s
  | .stvh g v h o cls ew => Sys2Proof.Machine.execStvh g v h o cls ew s
  | .ldvg g v ix a cls ew => Sys2Proof.Machine.execLdvg g v ix a cls ew s
  | .stvs g v ix a cls ew => Sys2Proof.Machine.execStvs g v ix a cls ew s
  | .ldvm g v h o cls => Sys2Proof.Machine.execLdvm g v h o cls s
  | .ldvS g v a cls ew off => Sys2Proof.Machine.execLdvS g v a cls ew off s
  | .fenceC g mask scope => Sys2Proof.Machine.execFenceC g mask scope s
  | .fenceBank g mask scope => Sys2Proof.Machine.execFenceBank g mask scope s
  | .stlink g t h o cls => Sys2Proof.Machine.execStlink g t h o cls s
  | .ldlink g t h o cls => Sys2Proof.Machine.execLdlink g t h o cls s
  | .vadd g d a b fmt rnd => Sys2Proof.Machine.execVadd g d a b fmt rnd s
  | .vsub g d a b fmt rnd => Sys2Proof.Machine.execVsub g d a b fmt rnd s
  | .vmul g d a b fmt rnd => Sys2Proof.Machine.execVmul g d a b fmt rnd s
  | .vfma g d a b fmt rnd => Sys2Proof.Machine.execVfma g d a b fmt rnd s
  | .vfms g d a b fmt rnd => Sys2Proof.Machine.execVfms g d a b fmt rnd s
  | .vmin g d a b fmt sub => Sys2Proof.Machine.execVmin g d a b fmt sub s
  | .vmax g d a b fmt sub => Sys2Proof.Machine.execVmax g d a b fmt sub s
  | .vabs g d a fmt rnd => Sys2Proof.Machine.execVabs g d a fmt rnd s
  | .vneg g d a fmt rnd => Sys2Proof.Machine.execVneg g d a fmt rnd s
  | .vand g d a b => Sys2Proof.Machine.execVand g d a b s
  | .vor g d a b => Sys2Proof.Machine.execVor g d a b s
  | .vxor g d a b => Sys2Proof.Machine.execVxor g d a b s
  | .vandn g d a b => Sys2Proof.Machine.execVandn g d a b s
  | .vshl g d a b fmt => Sys2Proof.Machine.execVshl g d a b fmt s
  | .vshr g d a b fmt => Sys2Proof.Machine.execVshr g d a b fmt s
  | .vsra g d a b fmt => Sys2Proof.Machine.execVsra g d a b fmt s
  | .vcmp g pd a b cc fmt => Sys2Proof.Machine.execVcmp g pd a b cc fmt s
  | .vsel g d a b ps => Sys2Proof.Machine.execVsel g d a b ps s
  | .vdiv g d a b fmt rnd => Sys2Proof.Machine.execVdiv g d a b fmt rnd s
  | .vsqrt g d a fmt rnd => Sys2Proof.Machine.execVsqrt g d a fmt rnd s
  | .vrsqrt g d a fmt rnd => Sys2Proof.Machine.execVrsqrt g d a fmt rnd s
  | .vexp2 g d a => Sys2Proof.Machine.execVexp2 g d a s
  | .vcvt g d a src dst rnd => Sys2Proof.Machine.execVcvt g d a src dst rnd s
  | .vpack g d a src dst hs rnd => Sys2Proof.Machine.execVpack g d a src dst hs rnd s
  | .vunpk g d a src dst hs rnd => Sys2Proof.Machine.execVunpk g d a src dst hs rnd s
  | .vredadd g d a fmt grp rnd => Sys2Proof.Machine.execVredadd g d a fmt grp rnd s
  | .vredmax g d a fmt grp => Sys2Proof.Machine.execVredmax g d a fmt grp s
  | .vredmin g d a fmt grp => Sys2Proof.Machine.execVredmin g d a fmt grp s
  | .vperm g d a b => Sys2Proof.Machine.execVperm g d a b s
  | .vbcast g d y fmt => Sys2Proof.Machine.execVbcast g d y fmt s
  | .vmerge g d a b fmt mode => Sys2Proof.Machine.execVmerge g d a b fmt mode s
  | .vscan g d a b fmt sub rnd => Sys2Proof.Machine.execVscan g d a b fmt sub rnd s
  | .agen g d a b y => Sys2Proof.Machine.execAgen g d a b y s
  | .vext g d y lane fmt => Sys2Proof.Machine.execVext g d y lane fmt s
  | .vins g d y lane fmt => Sys2Proof.Machine.execVins g d y lane fmt s
  | .viota g d y lane => Sys2Proof.Machine.execViota g d y lane s
  | .vmov g d a => Sys2Proof.Machine.execVmov g d a s
  | .vclz g d a fmt => Sys2Proof.Machine.execVclz g d a fmt s
  | .vpopc g d a fmt => Sys2Proof.Machine.execVpopc g d a fmt s
  | .mma g ac a b fmt ca dm sp => Sys2Proof.Machine.execMma g ac a b fmt ca dm sp s
  | .mmaz g ac a b fmt ca dm sp => Sys2Proof.Machine.execMmaz g ac a b fmt ca dm sp s
  | .mcon g ac wc bd y fmt => Sys2Proof.Machine.execMcon g ac wc bd y fmt s
  | .mrot g ac k => Sys2Proof.Machine.execMrot g ac k s
  | .mdrain g ac y fmt sc cmp rnd => Sys2Proof.Machine.execMdrain g ac y fmt sc cmp rnd s
  | .mzero g ac => Sys2Proof.Machine.execMzero g ac s
  | .mldac g ac y => Sys2Proof.Machine.execMldac g ac y s
  | .mstac g ac y => Sys2Proof.Machine.execMstac g ac y s
  | .mhld g y k => Sys2Proof.Machine.execMhld g y k s
  | .mdmap g y k => Sys2Proof.Machine.execMdmap g y k s
  | .mdclr g => Sys2Proof.Machine.execMdclr g s
  | .mord g ac bd y => Sys2Proof.Machine.execMord g ac bd y s
  | .macv g ac y v row => Sys2Proof.Machine.execMacv g ac y v row s
  | .mvac g ac y v row => Sys2Proof.Machine.execMvac g ac y v row s
  | .mcopy g ac src t => Sys2Proof.Machine.execMcopy g ac src t s
  | .sld g sc a cls off => Sys2Proof.Machine.execSld g sc a cls off s
  | .sldh g sc h o cls => Sys2Proof.Machine.execSldh g sc h o cls s
  | .sbc g sc y => Sys2Proof.Machine.execSbc g sc y s
  | .sst g sc a cls off => Sys2Proof.Machine.execSst g sc a cls off s
  | .copy g k st h q => Sys2Proof.Machine.execCopy g k st h q s
  | .copyg g k st h q => Sys2Proof.Machine.execCopyg g k st h q s
  | .copyx g k st h q => Sys2Proof.Machine.execCopyx g k st h q s
  | .binacq g r q => Sys2Proof.Machine.execBinacq g r q s
  | .binrel g k q => Sys2Proof.Machine.execBinrel g k q s
  | .waitany g r q => Sys2Proof.Machine.execWaitany g r q s
  | .binst g r q => Sys2Proof.Machine.execBinst g r q s
  | .binkill g k q => Sys2Proof.Machine.execBinkill g k q s
  | .kwait g ka kb kc => Sys2Proof.Machine.execKwait g ka kb kc s
  | .kjoin g k => Sys2Proof.Machine.execKjoin g k s
  | .kpoll g d pd ka => Sys2Proof.Machine.execKpoll g d pd ka s
  | .uiarm g ka => Sys2Proof.Machine.execUiarm g ka s
  | .uidis g ka => Sys2Proof.Machine.execUidis g ka s
  | .walk g k f wc q => Sys2Proof.Machine.execWalk g k f wc q s
  | .wnext g r wc q => Sys2Proof.Machine.execWnext g r wc q s
  | .wstop g k wc => Sys2Proof.Machine.execWstop g k wc s
  | .wsave g k wc q => Sys2Proof.Machine.execWsave g k wc q s
  | .wrest g k wc q => Sys2Proof.Machine.execWrest g k wc q s
  | .wbudget g k wc q => Sys2Proof.Machine.execWbudget g k wc q s
  | .chain g k f wc q => Sys2Proof.Machine.execChain g k f wc q s
  | .bank g k h q => Sys2Proof.Machine.execBank g k h q s
  | .fbind g kd snd n q => Sys2Proof.Machine.execFbind g kd snd n q s
  | .funbind g kd n => Sys2Proof.Machine.execFunbind g kd n s
  | .xfer g k get h q => Sys2Proof.Machine.execXfer g k get h q s
  | .lalloc g r q => Sys2Proof.Machine.execLalloc g r q s
  | .lallocM g r q => Sys2Proof.Machine.execLallocM g r q s
  | .lfree g k q => Sys2Proof.Machine.execLfree g k q s
  | .latom g r wide op q => Sys2Proof.Machine.execLatom g r wide op q s
  | .bar g k q => Sys2Proof.Machine.execBar g k q s
  | .barw g k q => Sys2Proof.Machine.execBarw g k q s
  | .semadd g r cls q => Sys2Proof.Machine.execSemadd g r cls q s
  | .semcas g r cls q => Sys2Proof.Machine.execSemcas g r cls q s
  | .semwait g k eq cls q => Sys2Proof.Machine.execSemwait g k eq cls q s
  | .semrd g r cls q => Sys2Proof.Machine.execSemrd g r cls q s
  | .launch g k hf hn q => Sys2Proof.Machine.execLaunch g k hf hn q s
  | .retire g ka kb kc => Sys2Proof.Machine.execRetire g ka kb kc s
  | .resultArrival c ix => Sys2Proof.Machine.execResultArrival c ix s
  | .slackWindowFreeze c => Sys2Proof.Machine.execSlackWindowFreeze c s
  | .exactResultFreeze c => Sys2Proof.Machine.execExactResultFreeze c s
  | .translationWalkDone c ix => Sys2Proof.Machine.execTranslationWalkDone c ix s
  | .queuedLoadArrival c q ix => Sys2Proof.Machine.execQueuedLoadArrival c q ix s
  | .mQueueEntry id => Sys2Proof.Machine.execMQueueEntry id s
  | .mCommandStart id => Sys2Proof.Machine.execMCommandStart id s
  | .mCommandComplete id => Sys2Proof.Machine.execMCommandComplete id s
  | .eQueueEntry id => Sys2Proof.Machine.execEQueueEntry id s
  | .eCommandStart id => Sys2Proof.Machine.execECommandStart id s
  | .copyComplete id => Sys2Proof.Machine.execCopyComplete id s
  | .gleanerHop id => Sys2Proof.Machine.execGleanerHop id s
  | .bankComplete id => Sys2Proof.Machine.execBankComplete id s
  | .xferComplete id => Sys2Proof.Machine.execXferComplete id s
  | .launchSnapshot id => Sys2Proof.Machine.execLaunchSnapshot id s
  | .semwaitTest id => Sys2Proof.Machine.execSemwaitTest id s
  | .userInterruptTaken c => Sys2Proof.Machine.execUserInterruptTaken c s
  | .trapTaken c => Sys2Proof.Machine.execTrapTaken c s
  | .instancePlacement id => Sys2Proof.Machine.execInstancePlacement id s
  | .pendingLevelAging id => Sys2Proof.Machine.execPendingLevelAging id s
  | .crossDieWaitExpiry id => Sys2Proof.Machine.execCrossDieWaitExpiry id s
  | .singleResnapshot id => Sys2Proof.Machine.execSingleResnapshot id s
  | .contextPartEnd c => Sys2Proof.Machine.execContextPartEnd c s
  | .instanceEnd id => Sys2Proof.Machine.execInstanceEnd id s
  | .invalidationAck id => Sys2Proof.Machine.execInvalidationAck id s
  | .preemptSave id => Sys2Proof.Machine.execPreemptSave id s
  | .resumePlacement id => Sys2Proof.Machine.execResumePlacement id s
  | .loftRefusal c id => Sys2Proof.Machine.execLoftRefusal c id s
  | .packetReceive src chan seq stomp pay => Sys2Proof.Machine.execPacketReceive src chan seq stomp pay s
  | .endToEndResend peer chan => Sys2Proof.Machine.execEndToEndResend peer chan s
  | .fifoWordDelivery id => Sys2Proof.Machine.execFifoWordDelivery id s
  | .barrierReport id => Sys2Proof.Machine.execBarrierReport id s
  | .barrierRelease id => Sys2Proof.Machine.execBarrierRelease id s
  | .hostReadCompletion c ix err => Sys2Proof.Machine.execHostReadCompletion c ix err s
  | .completionTimeout c ix => Sys2Proof.Machine.execCompletionTimeout c ix s
  | .powerOnReset => Sys2Proof.Machine.execPowerOnReset s
  | .conventionalReset => Sys2Proof.Machine.execConventionalReset s
  | .functionLevelReset => Sys2Proof.Machine.execFunctionLevelReset s
  | .start rep => Sys2Proof.Machine.execStart rep s
  | .startTimeout step => Sys2Proof.Machine.execStartTimeout step s
  | .thermalTrip die => Sys2Proof.Machine.execThermalTrip die s
  | .clockThrottle power tmax => Sys2Proof.Machine.execClockThrottle power tmax s
  | .clockRestore power tmax => Sys2Proof.Machine.execClockRestore power tmax s
  | .plimWrite v => Sys2Proof.Machine.execPlimWrite v s
  | .hflagWrite v => Sys2Proof.Machine.execHflagWrite v s
  | .bar0RegisterWrite off v => Sys2Proof.Machine.execBar0RegisterWrite off v s
  | .plainViewAccess die off wide data => Sys2Proof.Machine.execPlainViewAccess die off wide data s
  | .fillViewWrite die off wide data => Sys2Proof.Machine.execFillViewWrite die off wide data s
  | .fillViewRead die off wide => Sys2Proof.Machine.execFillViewRead die off wide s
  | .unsupportedBar2Access die off size => Sys2Proof.Machine.execUnsupportedBar2Access die off size s
  | .setdev m => Sys2Proof.Machine.execSetdev m s
  | .setroot m => Sys2Proof.Machine.execSetroot m s
  | .settvec m => Sys2Proof.Machine.execSettvec m s
  | .inval m => Sys2Proof.Machine.execInval m s
  | .semten m => Sys2Proof.Machine.execSemten m s
  | .quota m => Sys2Proof.Machine.execQuota m s
  | .preempt m => Sys2Proof.Machine.execPreempt m s
  | .resume m => Sys2Proof.Machine.execResume m s
  | .kill m => Sys2Proof.Machine.execKill m s
  | .planelost m => Sys2Proof.Machine.execPlanelost m s
  | .planeclr m => Sys2Proof.Machine.execPlaneclr m s
  | .faultrec m => Sys2Proof.Machine.execFaultrec m s
  | .attest m => Sys2Proof.Machine.execAttest m s
  | .recover m => Sys2Proof.Machine.execRecover m s
  | .hbmload m => Sys2Proof.Machine.execHbmload m s
  | .exactResultArrival c ix => Sys2Proof.Machine.execExactResultArrival c ix s
  | .storePerformed c id => Sys2Proof.Machine.execStorePerformed c id s
  | .deviceControl2Write v => Sys2Proof.Machine.execDeviceControl2Write v s

end Sys2Proof.Machine
end

