-- ==== Sys2Proof/Machine/Step.lean ====
section
/-!
DEFINITION. One step of the device, and the placing of one instruction to be run by the next step.
-/

namespace Sys2Proof.Machine

/-- One step of the device. -/
def step (s : State) : Host.Outcome State Fault Refusal := stepWith exec s

/-- The state in which the next step fetches and runs the instruction of a table word (log entry 64). -/
def State.withFetchWord (s : State) (nbits w : Nat) : State := s.placeBundle (tableBundle nbits w)

end Sys2Proof.Machine
end

