-- ==== Sys2Proof/Safety.lean ====
section
/-!
DEFINITION. The terms in which claims about the device are made: what a slot leaves when it runs, where a scalar field
names a plain register, and the invariant of the memories that every step keeps.
-/

namespace Sys2Proof.Machine

/-! ### Scalar fields -/

/-- The scalar register of a cluster (R10, R40). -/
def Ctx.scalar (k : Ctx) (c : Cl) (a : BitVec 5) : Reg :=
  match c with
  | .x => k.regs.rx a
  | .y => k.regs.ry a

/-- Whether a scalar field names the register itself, and not a FIFO that is bound to it (R363). -/
def Ctx.plain (k : Ctx) (c : Cl) (a : BitVec 5) : Prop := c = .y → k.fifoOf a = none

/-- A result in a scalar register of a cluster. -/
def Result.scalar (c : Cl) (d : BitVec 5) (r : Reg) : Result :=
  match c with
  | .x => .x d r
  | .y => .y d r

/-- The low n bits of a value, sign-extended to 64 (R85). -/
def narrow (n : Nat) (v : W64) : W64 := (v.setWidth n).signExtend 64

/-! ### What a slot leaves -/

/-- The device with one more exact result of the register files in flight in the running context (R13). -/
def State.exactly (s : State) (r : Result) (lat : Nat) : State := s.setHere (s.here.addFlight s.scripted r lat false false none none)

/-- The device with one more elastic result in flight in the running context (R20). -/
def State.elastically (s : State) (r : Result) (lat : Nat) : State := s.setHere (s.here.addFlight s.scripted r lat true false none none)

/-- The device with one more exact result of another unit in flight in the running context (R17). -/
def State.answered (s : State) (r : Result) (lat : Nat) : State := s.setHere (s.here.addFlight s.scripted r lat false true none none)

/-- The trap of a class that a slot kind raises with a detail (R327, R332, R333). -/
def bundleTrap (cls : Nat) (k : SlotKind) (info : Nat) : TrapRec := ⟨cls, k.code, BitVec.ofNat 64 info, false, none⟩

/-- A branch of the running context is taken, with its three delay bundles still to issue (R93). -/
def State.branched (s : State) (target : W64) : State := s.setHere { s.here with branch := some (target, 3) }

/-- The target of an offset in units of 16 bytes, from the bundle's address rounded down to 16 (R56). -/
def offsetTarget (pc off : W64) : W64 := (pc &&& ~~~(15 : W64)) + off <<< 4

/-- A context after a handler's last bundle: one cycle older, with every result in flight visible (R282, R335). -/
def Ctx.settled (k : Ctx) : Ctx := k.count.drainFlight

/-- The results that become visible as a context reaches its next cycle, in issue order: their latency ends by then and they have
arrived (R13, R20). -/
def Ctx.dueNext (k : Ctx) : List Flight := k.flight.filter fun f => decide (f.left ≤ 1) && f.arrived && !f.landed

/-- What those of one destination bring, in issue order. -/
def Ctx.reaching {α : Type} (k : Ctx) (sel : Result → Option α) : List α := k.dueNext.filterMap fun f => sel f.res

/-- The last of the values that reach a register in one cycle, or the old one where none does (R14). -/
def latest {α : Type} (old : α) (vs : List α) : α := vs.getLast?.getD old

/-! ### The registers that a slot word names (R22) -/

/-- The numbers by which the group rule knows registers: the file times 64 plus the register. x0, y0, p0 and k0 are none, nor is a y register
that names a bound FIFO (R22, R40, R363). -/
def xNamed (a : BitVec 5) : List Nat := if a = 0 then [] else [a.toNat]
def yNamed (a : BitVec 5) : List Nat := if a = 0 then [] else [64 + a.toNat]
def pNamed (a : BitVec 4) : List Nat := if a = 0 then [] else [128 + a.toNat]
def kNamed (a : BitVec 4) : List Nat := if a = 0 then [] else [384 + a.toNat]
def vNamed (a : BitVec 5) : List Nat := [192 + a.toNat]
def scNamed (a : BitVec 4) : List Nat := [256 + a.toNat]
def hNamed (a : BitVec 4) : List Nat := [320 + a.toNat]
def wNamed (a : BitVec 3) : List Nat := [576 + a.toNat]

/-- The same for a register field of the Y slot, or for T of an L slot, where a bound FIFO is no register (R363). -/
def Ctx.named (k : Ctx) (c : Cl) (a : BitVec 5) : List Nat :=
  match c with
  | .x => xNamed a
  | .y => if k.fifoOf a = none then yNamed a else []

/-- The four y registers of a quad (R51). -/
def quadNamed (q : BitVec 3) : List Nat := yNamed (quad q 0) ++ yNamed (quad q 1) ++ yNamed (quad q 2) ++ yNamed (quad q 3)

/-- What a slot word reads and writes for the group rule: its predicate, and the registers of its fields (R22). -/
def Ctx.uses (k : Ctx) (g : Guard) (i : Instr) (reads writes : List Nat) : Prop :=
  ∀ n, (n ∈ (wordUses k i).reads ↔ n ∈ pNamed g.pred ∨ n ∈ reads) ∧ (n ∈ (wordUses k i).writes ↔ n ∈ writes)

/-! ### Loads and stores of the running context -/

/-- Nothing keeps a load or a store of the running context waiting: its stores and its loads of other units are performed, and no
matrix command nor other command with an access of a class is in progress (R166, R231, R235, R239, R243); the steps of the device come
by themselves and its L1 holds no line. -/
structure State.Quiet (s : State) : Prop where
  stores : s.here.stores = []
  loads : ∀ cls, s.here.late cls = false
  mcmds : s.mcmds = []
  ecmds : ∀ c ∈ s.ecmds, c.ctx = s.cur → c.toAccess = none
  scripted : s.scripted = false
  lines : s.lines = []

/-- The address of a local access (R107, R151, R168). -/
def localAddr {n : Nat} (y : W64) (scale : Nat) (off : BitVec n) : Nat := (y + off.signExtend 64 * BitVec.ofNat 64 scale).toNat

/-- The bytes of the running context's scratchpad. -/
def State.spadBytes (s : State) (addr n : Nat) : List Byte := readCells s.mem (spadKey (clusterOf s.cur) addr) n

/-- A local range of n bytes that is aligned and lies in the allotment and in the window (R28). -/
def State.localOk (s : State) (addr align n : Nat) : Prop :=
  addr % align = 0 ∧ s.here.spBase ≤ addr ∧ addr + n ≤ s.here.spBase + s.here.spSize ∧ addr + n ≤ Config.windowSize

/-- The device after a store to the running context's scratchpad is performed, in granules of `g` bytes (R233, R240). -/
def State.spadStored (s : State) (g addr : Nat) (bs : List Byte) : State :=
  performParts s (coreOf s.cur) s.here.sr.tenant (partsOf g (spadKey (clusterOf s.cur) addr) none bs)

/-- The checks of R217 on an access of n bytes, aligned to a, at offset o of a page, for a load or a store, but for the class of a load; and,
for a loft page, that the bytes lie in an extent of the tenant whose plane is not lost (R374, R379). -/
def State.pageOk (s : State) (h : Handle) (o n a : Nat) (isLoad : Bool) : Prop :=
  h.valid = true ∧ (if isLoad then h.perm.getLsbD 2 = true else h.perm.getLsbD 1 = true) ∧ o % a = 0 ∧
  o + n ≤ pageBytes h.size ∧
  (h.tgt = 1 → s.lostPlane h o n s.here.sr.tenant isLoad = none ∧
    (s.extentOf h.plane.toNat (h.ppn.toNat * 65536 + o) n s.here.sr.tenant).isSome = true)

/-- The first check of R217 that an access of n bytes, aligned to a, at offset o of a page fails, with its class and detail; nothing is
said of an access that passes them. -/
def Handle.fails (h : Handle) (hn : BitVec 4) (o n a : Nat) (isLoad : Bool) (raises : Nat → Nat → Prop) : Prop :=
  let granted : Prop := if isLoad then h.perm.getLsbD 2 = true ∧ h.lclass ≠ 0 else h.perm.getLsbD 1 = true
  (h.valid = false → raises 7 hn.toNat) ∧ (h.valid = true → ¬ granted → raises 5 (o % 2 ^ 52)) ∧
  (h.valid = true → granted → o % a ≠ 0 → raises 6 (o % 2 ^ 52)) ∧
  (h.valid = true → granted → o % a = 0 → pageBytes h.size < o + n → raises 5 (o % 2 ^ 52))

/-- The bytes a page holds, through its view, or on the plane that serves the extent (R217, R226, R377). -/
def State.pageHolds (s : State) (h : Handle) (o n : Nat) : List Byte :=
  if h.tgt = 1 then readCells s.mem (s.loftRead h o n s.here.sr.tenant) n else h.read s.mem o n

/-- The device with a result of a page's load in flight: bound(class) after its issue at the earliest; a host page answers by a step of
its own (R15, R16, R219), and what is not HBM can be made again (R335). -/
def State.bringing (s : State) (r : Result) (h : Handle) (again : Redo) : State :=
  if h.tgt = 0 then s.elastically r (Config.bound h.lclass.toNat)
  else if h.tgt = 2 then s.setHere (s.here.addLate r (Config.bound h.lclass.toNat) true again)
  else s.setHere (s.here.addFlight s.scripted r (Config.bound h.lclass.toNat) true false none (some again))

/-- The device with a load of a page in flight in one register, in its class (R231). -/
def State.loading (s : State) (cls : BitVec 4) (r : Result) (h : Handle) (o n p : Nat) (form : LoadForm) : State :=
  s.bringing r h (.load cls s.here.sr.acyc.toNat h o n p form)

/-- The device after a store to a page is performed, in granules of `g` bytes: each at one place, or at the two of a mirrored extent
(R240, R377). -/
def State.pageStored (s : State) (g : Nat) (h : Handle) (o : Nat) (bs : List Byte) : State :=
  performParts s (coreOf s.cur) s.here.sr.tenant (partsOf g (h.key o) (if h.tgt = 1 then some (h, o) else none) bs)

/-- Where n bytes at an offset of a page stand in memory; of a loft page, on the planes of the tenant's extents there (R217, R377). -/
def State.pagePlace (s : State) (h : Handle) (o n key : Nat) : Prop :=
  if h.tgt = 1 then
    ∃ e ∈ s.extents, ∃ p, e.tenant = s.here.sr.tenant ∧ (e.plane = h.plane.toNat ∨ e.mirror = some h.plane.toNat) ∧
      (p = e.plane ∨ e.mirror = some p) ∧ loftKey p (h.ppn.toNat * 65536 + o) ≤ key ∧ key < loftKey p (h.ppn.toNat * 65536 + o) + n
  else h.key o ≤ key ∧ key < h.key o + n

/-- Where n bytes at a local address of the running context stand in memory. -/
def State.spadPlace (s : State) (addr n key : Nat) : Prop := spadKey (clusterOf s.cur) addr ≤ key ∧ key < spadKey (clusterOf s.cur) addr + n

/-- The bytes of memory that a slot instruction stores to, at the address that its operands give (R107, R151 to R153, R168, R217, R290,
R378). -/
def State.storePlace (s : State) (i : Instr) (key : Nat) : Prop :=
  let y (a : BitVec 5) : W64 := (s.here.regs.ry a).val
  match i with
  | .st _ _ _ a _ w off | .ste _ _ _ a _ w off => s.spadPlace (localAddr (y a) (2 ^ w.toNat) off) (2 ^ w.toNat) key
  | .stv _ _ a _ _ off => s.spadPlace (localAddr (y a) 256 off) 256 key
  | .sst _ _ a _ off => s.spadPlace (localAddr (y a) 256 off) 256 key
  | .stvs _ _ i a _ ew => ∃ j < 64, s.spadPlace (y a + (lane (s.here.regs.rv i) j).setWidth 64).toNat (2 ^ ew.toNat) key
  | .sth _ _ _ h o _ w disp =>
    s.pagePlace (s.here.regs.rh h) (y o + disp.setWidth 64 * BitVec.ofNat 64 (2 ^ w.toNat)).toNat (2 ^ w.toNat) key
  | .stvh _ _ h o _ _ => s.pagePlace (s.here.regs.rh h) (y o).toNat 256 key
  | .stlink _ _ h o _ => s.pagePlace (s.here.regs.rh h) (y o).toNat 16 key
  | .latom _ _ wide _ q =>
    s.pagePlace (s.here.regs.rh (BitVec.ofNat 4 ((y (quad q 3)).toNat / 2 ^ 8))) (y (quad q 0)).toNat (if wide then 8 else 4) key
  | _ => False

/-! ### Translation (R209 to R213) -/

/-- Entry i of a table in HBM (R209, R210). -/
def State.tableEntry (s : State) (base i : Nat) : BitVec 128 := BitVec.ofNat 128 (leNat (readCells s.mem (hbmKey (base + 16 * i)) 16))

/-- The address of the table that an entry names (R210). -/
def nextTable (e : BitVec 128) : Nat := (e.extractLsb' 9 39).toNat * 512

/-- R210, R211: a valid entry that names a table of `size` bytes. -/
def namesTable (e : BitVec 128) (size : Nat) : Prop :=
  e.extractLsb' 62 2 = 2 ∧ e.extractLsb' 64 64 = 0 ∧ e.extractLsb' 48 14 = 0 ∧ e.extractLsb' 0 9 = 0 ∧ nextTable e % size = 0 ∧
  nextTable e + size ≤ Config.hbmSize

/-- R210, R211: a valid leaf for a page of a size of a tenant. -/
def mapsPage (e : BitVec 128) (size : BitVec 2) (tenant : BitVec 16) : Prop :=
  let tgt := e.extractLsb' 60 2
  let cview := (e.extractLsb' 52 2).toNat
  let afmt := (e.extractLsb' 48 4).toNat
  let base := (e.extractLsb' 16 32).toNat * 65536
  let kv := e.getLsbD 13
  e.extractLsb' 62 2 = 3 ∧ e.extractLsb' 80 48 = 0 ∧ e.extractLsb' 64 16 = tenant ∧ e.extractLsb' 0 5 = 0 ∧ tgt ≠ 3 ∧ e.extractLsb' 57 3 ≠ 7 ∧
  (kv = false → e.extractLsb' 10 3 = 0) ∧ (if tgt = 1 then (e.extractLsb' 5 5).toNat < 24 else e.extractLsb' 5 5 = 0) ∧ base % pageBytes size = 0 ∧
  (tgt = 0 → base + pageBytes size ≤ Config.hbmSize) ∧ (tgt = 1 → base + pageBytes size ≤ Config.loftSize) ∧ (kv = true → size ≠ 2) ∧
  (cview = 0 → afmt = 0) ∧
  (cview ≠ 0 → e.getLsbD 55 = false ∧ e.getLsbD 54 = false ∧ tgt = 0 ∧ kv = false ∧ viewFmtOk cview (Fmt.ofCode afmt) = true ∧
    base + backingBytes cview ((Fmt.ofCode afmt).getD .int8) (pageBytes size) ≤ Config.hbmSize)

/-- R213: the handle that describes the page of a leaf. -/
def describes (h : Handle) (e : BitVec 128) (size : BitVec 2) (va : Nat) : Prop :=
  h.valid = true ∧ h.size = size ∧ h.vpage.toNat = va / pageBytes size * (pageBytes size / 65536) ∧ h.tgt = e.extractLsb' 60 2 ∧
  h.lclass = e.extractLsb' 57 3 ∧ h.perm = e.extractLsb' 54 3 ∧ h.cview = e.extractLsb' 52 2 ∧ h.afmt = e.extractLsb' 48 4 ∧
  h.ppn = e.extractLsb' 16 32 ∧ h.bankl = e.extractLsb' 14 2 ∧ h.kv = e.getLsbD 13 ∧ h.tstride = e.extractLsb' 10 3 ∧
  h.plane = e.extractLsb' 5 5

/-- R209: a handle describes the page to which the tables under a root translate an address, if they translate it. -/
def State.walksTo (s : State) (root : Nat) (tenant : BitVec 16) (va : Nat) (h : Handle) : Prop :=
  let e0 := s.tableEntry root (va / 2 ^ 41 % 2048)
  let e1 := s.tableEntry (nextTable e0) (va / 2 ^ 30 % 2048)
  let e2 := s.tableEntry (nextTable e1) (va / 2 ^ 21 % 512)
  let e3 := s.tableEntry (nextTable e2) (va / 2 ^ 16 % 32)
  let leaf (e : BitVec 128) (size : BitVec 2) : Prop := mapsPage e size tenant ∧ describes h e size va
  namesTable e0 0x8000 ∧ (leaf e1 2 ∨ (namesTable e1 0x2000 ∧ (leaf e2 1 ∨ (namesTable e2 512 ∧ leaf e3 0))))

/-! ### Lanes -/

/-- The device with lane results in flight in the running context, with the event they record if any (R128, R132). -/
def State.lanesGiven (s : State) (d : BitVec 5) (m : W64) (lat : Nat) (r : Lanes) (ev : Option FelEvent) : State :=
  s.setHere (s.here.addFlight s.scripted (.v d m r) lat true false ev none)

/-- The event that lane results record, where lane j calls for a code, 0 for none: that of the lowest enabled lane with one, with the
producing bundle's place, slot 3, the lane and the bundle's address (R126 to R128, R155). -/
def State.recordsLanes (s : State) (m : W64) (code : Nat → Nat) (ev : Option FelEvent) : Prop :=
  ((∀ j < 64, m.getLsbD j = true → code j = 0) ∧ ev = none) ∨
  ∃ j < 64, m.getLsbD j = true ∧ code j ≠ 0 ∧ (∀ i < j, m.getLsbD i = true → code i = 0) ∧
    ev = some ⟨s.here.sr.acyc.toNat, 3, j, code j, s.here.pc.toNat⟩

/-- A V-slot instruction completes with a value for each lane that its predicate enables, and with the event that the lanes' codes call
for (R36, R127, R132). -/
def State.yieldsLanes (s : State) (g : Guard) (i : Instr) (d : BitVec 5) (lat : Nat) (f : Nat → W32) (code : Nat → Nat) : Prop :=
  ∃ r ev, exec i s = .next (s.lanesGiven d (s.here.laneMask g) lat r ev) ∧ s.recordsLanes (s.here.laneMask g) code ev ∧
    ∀ j < 64, (s.here.laneMask g).getLsbD j = true → lane r j = f j

/-- A V-slot instruction completes with a value for each lane that its predicate enables, and records no event (R36, R132, R155). -/
def State.writesLanes (s : State) (g : Guard) (i : Instr) (d : BitVec 5) (lat : Nat) (f : Nat → W32) : Prop :=
  s.yieldsLanes g i d lat f fun _ => 0

/-- The integer that a lane holds in an n-bit element (R130). -/
def intLane (n : Nat) (v : Lanes) (j : Nat) : Int := ((lane v j).setWidth n).toInt

/-- An integer result wrapped to n bits, or clamped under RND[2] (R119, R136). -/
def fitInt (n : Nat) (rnd : BitVec 3) (v : Int) : Int :=
  if rnd.getLsbD 2 then max (-(2 ^ (n - 1))) (min (2 ^ (n - 1) - 1) v) else Int.bmod v (2 ^ n)

/-- The event of an integer result: saturation where it is clamped under RND[2] (R119, R127, R136). -/
def fitEvent (n : Nat) (rnd : BitVec 3) (v : Int) : Nat := if rnd.getLsbD 2 = true ∧ (v < -(2 ^ (n - 1)) ∨ 2 ^ (n - 1) ≤ v) then 5 else 0

/-- The number that a lane's code stands for in a format (R111 to R116). -/
def numLane (f : Fmt) (v : Lanes) (j : Nat) : Num := numOf f (lane v j).toNat

/-- Where a number that is no NaN stands: below all numbers, at its exact value, or above all (R112). -/
def Num.place : Num → WithBot (WithTop ℚ)
  | .nan => ⊥
  | .inf neg => if neg then ⊥ else ⊤
  | .fin neg m e => (((if neg then -1 else 1) * m * 2 ^ e : ℚ) : WithTop ℚ)

/-- The magnitude of a number, without bound for an infinity (R112). -/
def Num.size : Num → WithTop ℚ
  | .nan | .inf _ => ⊤
  | .fin _ m e => ((m * 2 ^ e : ℚ) : WithTop ℚ)

/-- The value of a finite number. -/
def Num.value : Num → ℚ
  | .nan | .inf _ => 0
  | .fin neg m e => (if neg then -1 else 1) * m * 2 ^ e

/-- R117: the magnitudes of a floating format, extended upward with an unbounded exponent range. -/
def magnitudes (f : Fmt) : Set ℚ := { r | ∃ n k : Nat, n < 2 ^ (f.frac + 1) ∧ r = n * 2 ^ (f.emin + k) }

/-- R117: a magnitude x, of a value of a sign, is rounded in a direction to r among the magnitudes that may be had: 00 to the nearest, and of
two as near to the one that is an even multiple of their distance, 01 toward zero, 10 down, 11 up. -/
def roundsTo (dir : Nat) (neg : Bool) (may : Set ℚ) (x r : ℚ) : Prop :=
  let below : Prop := r ≤ x ∧ ∀ q ∈ may, q ≤ x → q ≤ r
  let above : Prop := x ≤ r ∧ ∀ q ∈ may, x ≤ q → r ≤ q
  r ∈ may ∧
  match dir with
  | 0 => ∀ q ∈ may, |r - x| ≤ |q - x| ∧ (|q - x| = |r - x| → q ≠ r → ∃ n : Nat, r = 2 * n * |q - r|)
  | 1 => below
  | 2 => if neg then above else below
  | _ => if neg then below else above

/-- The largest finite magnitude of a floating format, MaxF (R112). -/
def maxF (f : Fmt) : ℚ := (numOf f f.maxCode).value

/-- R117 for a magnitude known by the rationals at or below it (`lo`) and at or above it (`hi`), as a root is: it is rounded in a direction to
r among the magnitudes that may be had. The nearest is on the same side of every midpoint as the magnitude itself; at a midpoint it is an
even multiple of the distance. -/
def roundsCut (dir : Nat) (neg : Bool) (may : Set ℚ) (lo hi : ℚ → Prop) (r : ℚ) : Prop :=
  let below : Prop := lo r ∧ ∀ q ∈ may, lo q → q ≤ r
  let above : Prop := hi r ∧ ∀ q ∈ may, hi q → r ≤ q
  r ∈ may ∧
  match dir with
  | 0 => ∀ q ∈ may, (q < r → lo ((q + r) / 2)) ∧ (r < q → hi ((q + r) / 2)) ∧
      (q ≠ r → lo ((q + r) / 2) → hi ((q + r) / 2) → ∃ n : Nat, r = 2 * n * |q - r|)
  | 1 => below
  | 2 => if neg then above else below
  | _ => if neg then below else above

/-- R117, R118, R120: c is the code of a magnitude with a sign, rounded once to a floating format with infinities or to E4M3; beyond MaxF its
event is an overflow, or under RND[2] a saturation (R127). -/
def roundsOff (f : Fmt) (rnd : BitVec 3) (neg : Bool) (lo hi : ℚ → Prop) (c ev : Nat) : Prop :=
  let dir := rnd.toNat % 4
  ∃ r : ℚ, roundsCut dir neg (magnitudes f) lo hi r ∧
    (r ≤ maxF f → ev = 0 ∧ (numOf f c).neg? = neg ∧ (numOf f c).size = (r : WithTop ℚ)) ∧
    (maxF f < r → ev = (if rnd.getLsbD 2 then 5 else 4) ∧
      if rnd.getLsbD 2 = true ∨ dir = 1 ∨ (dir = 2 ∧ neg = false) ∨ (dir = 3 ∧ neg = true) then
        (numOf f c).neg? = neg ∧ (numOf f c).size = (maxF f : WithTop ℚ)
      else if f = .e4m3 then c = f.nanCode
      else numOf f c = .inf neg)

/-- The same for a magnitude that is rational. -/
def roundsValue (f : Fmt) (rnd : BitVec 3) (neg : Bool) (x : ℚ) (c ev : Nat) : Prop := roundsOff f rnd neg (· ≤ x) (x ≤ ·) c ev

/-- R119: p is the exact product of two numbers; a product of zero and infinity is a NaN. -/
def Num.times (a b p : Num) : Prop :=
  match a, b with
  | .nan, _ => p = .nan
  | _, .nan => p = .nan
  | .inf s, .inf t => p = .inf (s ^^ t)
  | .inf s, .fin t m _ => p = if m = 0 then .nan else .inf (s ^^ t)
  | .fin s m _, .inf t => p = if m = 0 then .nan else .inf (s ^^ t)
  | .fin s _ _, .fin t _ _ => (∃ m e, p = .fin (s ^^ t) m e) ∧ p.value = a.value * b.value

/-- R119: p is the exact sum of two numbers. A zero sum has the sign of two zeros that agree; any other is −0 under `.rd` and else +0. -/
def Num.plus (rnd : BitVec 3) (a b p : Num) : Prop :=
  match a, b with
  | .nan, _ => p = .nan
  | _, .nan => p = .nan
  | .inf s, .inf t => p = if s = t then .inf s else .nan
  | .inf s, .fin _ _ _ => p = .inf s
  | .fin _ _ _, .inf t => p = .inf t
  | .fin s _ _, .fin t _ _ =>
    let v := a.value + b.value
    let neg : Bool := if v ≠ 0 then decide (v < 0) else if a.value = 0 ∧ s = t then s else rnd.toNat % 4 == 2
    (∃ m e, p = .fin neg m e) ∧ p.value = v

/-- R119: c is the code of an exact number in a floating format: the canonical NaN, an infinity, or the number rounded once. A NaN is an
event where it is produced, from operands that are none (R127). -/
def codes (f : Fmt) (rnd : BitVec 3) (produced : Bool) (p : Num) (c ev : Nat) : Prop :=
  c < 2 ^ f.width ∧
  match p with
  | .nan => c = f.nanCode ∧ ev = if produced then 3 else 0
  | .inf s => numOf f c = .inf s ∧ ev = 0
  | .fin s _ _ => roundsValue f rnd s |p.value| c ev

/-- R119: c is the code of the quotient of two numbers; 0 / 0 and inf / inf are NaNs, and x / 0 is an infinity, with an event of its own
for a finite x (R127). -/
def quotientCode (f : Fmt) (rnd : BitVec 3) (a b : Num) (c ev : Nat) : Prop :=
  match a, b with
  | .nan, _ => codes f rnd false .nan c ev
  | _, .nan => codes f rnd false .nan c ev
  | .inf _, .inf _ => codes f rnd true .nan c ev
  | .inf s, .fin t _ _ => codes f rnd true (.inf (s ^^ t)) c ev
  | .fin s _ _, .inf t => codes f rnd true (.fin (s ^^ t) 0 0) c ev
  | .fin s m _, .fin t n _ =>
    if n = 0 then
      if m = 0 then codes f rnd true .nan c ev else codes f rnd true (.inf (s ^^ t)) c 0 ∧ ev = 2
    else c < 2 ^ f.width ∧ roundsValue f rnd (s ^^ t) |a.value / b.value| c ev

/-- R119: c is the code of the square root of a number; that of a value below zero is a NaN with an event of its own (R127). -/
def rootCode (f : Fmt) (rnd : BitVec 3) (a : Num) (c ev : Nat) : Prop :=
  let invalid : Prop := codes f rnd false .nan c 0 ∧ ev = 1
  match a with
  | .nan => codes f rnd false .nan c ev
  | .inf s => if s then invalid else codes f rnd true (.inf false) c ev
  | .fin s m _ =>
    if m = 0 then codes f rnd true a c ev
    else if s then invalid
    else c < 2 ^ f.width ∧ roundsOff f rnd false (fun q => q ^ 2 ≤ a.value) (fun q => a.value ≤ q ^ 2) c ev

/-- R119: c is the code of the reciprocal square root of a number; that of zero is an infinity, and that of a value below zero a NaN, each with
an event of its own (R127). -/
def reciprocalRootCode (f : Fmt) (rnd : BitVec 3) (a : Num) (c ev : Nat) : Prop :=
  let invalid : Prop := codes f rnd false .nan c 0 ∧ ev = 1
  match a with
  | .nan => codes f rnd false .nan c ev
  | .inf s => if s then invalid else codes f rnd true (.fin false 0 0) c ev
  | .fin s m _ =>
    if m = 0 then codes f rnd true (.inf s) c 0 ∧ ev = 2
    else if s then invalid
    else c < 2 ^ f.width ∧ roundsOff f rnd false (fun q => q ^ 2 * a.value ≤ 1) (fun q => 1 ≤ q ^ 2 * a.value) c ev

/-- The order of R137: by value, and −0 below +0. -/
def Num.under (p q : Num) : Bool :=
  decide (p.place < q.place) || (decide (p.place = q.place) && p.neg? && !q.neg?)

/-- The smaller or the larger of two codes of a floating format (R137); with `num` a NaN gives way to a number. -/
def pickCode (f : Fmt) (big num : Bool) (a b : Nat) : Nat :=
  let p := numOf f a
  let q := numOf f b
  if p.isNan then (if num && !q.isNan then b else f.nanCode)
  else if q.isNan then (if num then a else f.nanCode)
  else if q.under p = big then a
  else b

/-- A balanced tree over 2^d leaves from `lo` on: halves are combined, and what is absent is left out (R124, R144). -/
def treeVal {α : Type} (node : α → α → α) (leaf : Nat → Option α) : Nat → Nat → Option α
  | 0, lo => leaf lo
  | d + 1, lo =>
    match treeVal node leaf d lo, treeVal node leaf d (lo + 2 ^ d) with
    | none, y => y
    | x, none => x
    | some a, some b => some (node a b)

/-- The running value before lane j: the enabled lanes below j are added in ascending order (R145). -/
def scanVal (add : Nat → Nat → Nat) (on : Nat → Bool) (x : Nat → Nat) (start : Nat) : Nat → Nat
  | 0 => start
  | j + 1 => if on j then add (scanVal add on x start j) (x j) else scanVal add on x start j

/-- An FP32 code as a lane holds it: any NaN is the canonical one (R113). -/
def cleanFp32 (c : Nat) : Nat := if (fp32 c).isNan then Fmt.fp32.nanCode else c

/-- The FP32 sum and product of two codes, rounded in a direction (R117, R119). -/
def addFp32 (rnd a b : Nat) : Nat := (roundFmt .fp32 rnd true ((fp32 a).add rnd (fp32 b))).1
def mulFp32 (a b : Nat) : Nat := (roundFmt .fp32 0 true ((fp32 a).mul (fp32 b))).1

/-- The event of that sum: an overflow, a saturation, or a NaN that neither operand is (R127). -/
def addEvent (rnd a b : Nat) : Nat := (roundFmt .fp32 rnd (!(fp32 a).isNan && !(fp32 b).isNan) ((fp32 a).add rnd (fp32 b))).2

/-! ### Matrix commands -/

/-- R124: the sum of the products of one block of 32, in FP32: rounded products in a balanced tree for a floating format, and the exact
sum rounded once for an integer one. -/
def blockSum (f : Fmt) (x y : Nat → Nat) : Nat :=
  if f.isFloat then (treeVal (addFp32 0) (fun k => some (mulFp32 (toFp32 f (x k)) (toFp32 f (y k)))) 5 0).getD 0
  else (roundFmt .fp32 0 true (numOfInt (∑ k ∈ Finset.range 32, signedOf f.width (x k) * signedOf f.width (y k)))).1

/-- R124: an FP32 accumulator after one block, which a block-scaled format multiplies by its two scales first. -/
def blockAdded (f : Fmt) (x y : Nat → Nat) (sa sb : W32) (acc : Nat) : Nat :=
  let b := blockSum f x y
  addFp32 0 acc (if f.isMx then mulFp32 (mulFp32 b sa.toNat) sb.toNat else b)

/-- Element (r, c) of one side of the boundary that a bond register's value describes (R307, R308). -/
def State.boundaryElem (s : State) (core t : Nat) (b : W64) (r c : Nat) : Nat :=
  if r < 64 * bCap b then (cellAt s.tiles (tileKey core (t + bSide b * bCap b + r / 64) + 64 * (r % 64) + c)).toNat else 0

/-- The core's M elastic buffer is empty (R160), and a command that accesses the scratchpad need not wait for a load of class c0 of
another unit (R231). -/
structure State.takesM (s : State) : Prop where
  buffer : ∀ c ∈ s.mcmds, coreOf c.ctx = coreOf s.cur → c.stage ≠ .buffer
  loads : s.here.late 0 = false

/-- The device with a matrix command of the running context issued (R159, R160): with operands in the scratchpad it comes after the
accesses of class c0 before it (R231, R243). -/
def State.mIssued (s : State) (op : MOp) : State :=
  { s with
    mcmds := s.mcmds ++ [{ id := s.next, ctx := s.cur, op := op, stage := if mRoom s (coreOf s.cur) op then .queued else .buffer
                           seq := s.here.sr.acyc.toNat, addr := s.here.pc.toNat
                           lvl := s.here.level, due := s.here.levelCyc + s.here.slackNow
                           after := fencedIds s.here.stores [] ++
                             if op.touches then storeIds (some 0) s.here.stores ++ s.classCmds s.cur 0 else []
                           live := true }]
    next := s.next + 1 }

/-- A scratchpad operand of n bytes that passes the checks of R163. -/
def State.opndOk (s : State) (o : Opnd) (n : Nat) : Prop :=
  o.base % 256 = 0 ∧ o.pitch % 8 = 1 ∧ ∀ a ∈ o.stripes n, s.here.allots a 256 = true ∧ bankGroup a = bankGroup o.base

/-- An element of a tile of a core (R156). -/
def State.tileElem (s : State) (core t i j : Nat) : W32 := cellAt s.tiles (tileKey core t + 64 * i + j)

/-! ### Engine commands -/

/-- The core's elastic buffer is empty and a token is to be had (R253, R255). -/
def State.takesCommand (s : State) : Prop :=
  (∀ c ∈ s.ecmds, coreOf c.ctx = coreOf s.cur → c.stage ≠ .buffer) ∧ s.openTokens s.cur < Config.maxTokens

/-- The device with a new token of the running context, which register kd will hold in the next cycle (R52, R255). -/
def State.withToken (s : State) (kd : BitVec 4) : State :=
  { s with toks := alSet s.toks s.next ⟨s.cur, none⟩, next := s.next + 1 }.exactly (.k kd (some s.next)) 1

/-- The device with an engine command issued under a new token (R52, R253). -/
def State.commanded (s : State) (kd : BitVec 4) (ks : List (BitVec 4)) (eng : Engine) (op : EOp) (extra : List Nat) : State :=
  (s.withToken kd).addE s.next (ks.map s.here.regs.rk) eng op extra

/-- Every token that the fields name is complete, or none (R256). -/
def State.allComplete (s : State) (ks : List (BitVec 4)) : Prop := ∀ k ∈ ks, s.tokDone (s.here.regs.rk k) = true

/-- The device with the results of a query or wait in flight: yD with poison clear and pD (R52, R246). -/
def State.replied (s : State) (r : EYF) (v : W64) (hit : Bool) : State :=
  (s.answered (.y r.d ⟨v, false⟩) 4).answered (.p r.pd (BitVec.allOnes 64) (allOnes hit)) 4

/-- The registers of a quad that are used hold no poison (R340). -/
def State.quadClean (s : State) (q : BitVec 3) (used : List Nat) : Prop := ∀ i ∈ used, (s.here.regs.ry (quad q i)).poison = false

/-- The bins of the running context's cluster. -/
def State.myBin (s : State) (n : Nat) : Bin := s.bin (binKey (clusterOf s.cur) n)

/-- A bin that the running context's tenant may name: a free one, or its own (R266, R276, R293). -/
def State.binMine (s : State) (n : Nat) : Prop := (s.myBin n).state = 0 ∨ (s.myBin n).tenant = some s.here.sr.tenant

/-- The options of a copy's control word are allowed (R266): none with DIR = 1, an expandable format with EXP, a bin that is free or
the tenant's with BIN. -/
def State.optionsOk (s : State) (st : Bool) (ctl : W64) : Prop :=
  (st = true → ctlBin ctl = false ∧ ctlExp ctl = false ∧ ctlFull ctl = false) ∧
  (ctlExp ctl = true → viewFmtOk 1 (Fmt.ofCode (ctlFmt ctl)) = true) ∧ (ctlBin ctl = true → s.binMine (ctlBinNo ctl))

/-- A handle grants a copy of its page in a direction (R266). -/
def Handle.grants (h : Handle) (st : Bool) : Prop := h.valid = true ∧ (if st then h.w else h.r) = true

/-- The device with a bin of the running context's cluster replaced. -/
def State.withBin (s : State) (n : Nat) (b : Bin) : State := s.setBin (binKey (clusterOf s.cur) n) b

/-- The value of a register of a quad (R51). -/
def State.quadVal (s : State) (q : BitVec 3) (i : Nat) : W64 := (s.here.regs.ry (quad q i)).val

/-- The bytes that one row of a copy brings in: those of the page, or the images of 64 × 64 elements that their compressed ones expand to
(R165, R269). -/
def State.rowBytes (s : State) (h : Handle) (ctl : W64) (tenant : BitVec 16) (o n : Nat) : List Byte :=
  let w := ctlWidth ctl
  let image := 128 * (4 + 4 * w)
  let page := s.pageRead h o (pageSpan ctl n) tenant
  if ctlExp ctl then
    ((List.range ((n + 512 * w - 1) / (512 * w))).flatMap fun i => packBytes w (expandImage ((page.drop (image * i)).take image) w 128 0)).take n
  else page

/-! ### Kills and stopped streams (R330, R400) -/

/-- Whether an engine command or a matrix command of some contexts is dropped as they stop: one that has not started, and one that fills
a bin. -/
def ECmd.drops (cs : List Nat) (e : ECmd) : Bool := cs.contains e.ctx && (e.stage != .started || e.op.fillBin.isSome)
def MCmd.drops (cs : List Nat) (m : MCmd) : Bool := cs.contains m.ctx && m.stage != .started

/-- A token that was incomplete has completed with a code. -/
def State.completes (s t : State) (tok code : Nat) : Prop :=
  ∀ o, alGet s.toks tok = some ⟨o, none⟩ → t.tokDone (some tok) = true ∧ t.tokCode (some tok) = code

/-- What becomes of the work of some contexts that stop at once (R275, R330, R400): their commands that have not started are discarded and
their fills killed, with code 5, the fills of their walks too; a killed fill's bin stays filling with POISON = 1; every other command
runs on. -/
structure State.Dropped (s t : State) (cs : List Nat) : Prop where
  ids : t.ecmds.map ECmd.id = (s.ecmds.filter fun e => !e.drops cs).map ECmd.id
  others : ∀ e ∈ s.ecmds, e.ctx ∉ cs → e ∈ t.ecmds
  started : ∀ e ∈ s.ecmds, e.drops cs = false → ∃ x ∈ t.ecmds, x.id = e.id ∧ x.op = e.op ∧ x.stage = e.stage ∧ x.tok = e.tok
  codes : ∀ e ∈ s.ecmds, e.drops cs = true → s.completes t e.tok 5
  fills : ∀ e ∈ s.ecmds, e.ctx ∈ cs → e.stage = .started → ∀ b, e.op.fillBin = some b →
    let key := binKey (clusterOf e.ctx) b
    (t.bin key).poison = true ∧ ((s.bin key).state = 1 → (t.bin key).state = 1)
  mids : t.mcmds.map MCmd.id = (s.mcmds.filter fun m => !m.drops cs).map MCmd.id
  wids : t.walks.map Walk.id = (s.walks.filter fun w => !(cs.contains w.ctx && w.filling)).map Walk.id
  walks : ∀ w ∈ s.walks, w.ctx ∈ cs → w.filling = true → s.completes t w.tok 5 ∧
    ∀ l, w.landed.getLast? = some l → (t.bin (binKey (clusterOf w.ctx) l.bin)).poison = true
  mem : t.mem = s.mem
  tiles : t.tiles = s.tiles

/-! ### Places for instances (R193 to R195) -/

/-- Two ranges with no member in common. -/
def apart (a m b n : Nat) : Prop := m = 0 ∨ n = 0 ∨ a + m ≤ b ∨ b + n ≤ a

/-- The free contexts of a core in ascending order: no instance's, and not the command stream's (R195). -/
def State.idle (s : State) (core : Nat) : List Nat :=
  ((List.range 4).map fun i => core * 4 + i).filter fun c => decide ((s.ctx c).task = none ∧ c ≠ s.streamCtx (core / 256))

/-- R195: a core has room for a record. -/
structure State.hasRoom (s : State) (core : Nat) (r : List Byte) : Prop where
  contexts : recCtxs r ≤ (s.idle core).length
  tiles : ∀ i ∈ s.insts, i.core = core → apart (recAcb r) (recAcn r) (recAcb i.record) (recAcn i.record)
  stream : ∀ c, alGet s.streams (core / 256) = some c → coreOf c.ctx = core → apart (recAcb r) (recAcn r) c.acb c.acn
  dead : ∀ t ∈ s.deadTiles core, t < recAcb r ∨ recAcb r + recAcn r ≤ t
  range : ∀ i ∈ s.insts, i.core / 8 = core / 8 → apart (recBase r) (recSize r) (recBase i.record) (recSize i.record) ∨
    (recShare r = true ∧ recShare i.record = true ∧ recTenant r = recTenant i.record)
  reserved : clusterOf (s.streamCtx (core / 8 / 32)) = core / 8 →
    apart (recBase r) (recSize r) (s.reservedOf (core / 8 / 32)) (Config.windowSize - s.reservedOf (core / 8 / 32))

/-- The distance of two clusters of a die over the mesh of four rows of six (R193). -/
def clusterGap (a b : Nat) : Nat := ((a / 6 : Int) - b / 6).natAbs + ((a % 6 : Int) - b % 6).natAbs

/-- The number of bits in which two die numbers differ (R194). -/
def dieGap (a b : Nat) : Nat := ((List.range 2).filter fun i => a.testBit i != b.testBit i).length

/-! ### Bundles -/

/-- The device with the running context in its next architectural cycle: the results due in it are visible (R13). -/
def State.newCycle (s : State) : State := s.setHere s.here.newCycle

/-- The device as a bundle of the running context issues: its context runs in its next cycle, and what has a number below `issueFrom` was
issued by an earlier bundle (R231). -/
def State.atIssue (s : State) : State :=
  { s.newCycle.setHere { s.newCycle.here with run := .running } with status := .ok, issueFrom := s.newCycle.next }

/-- The running context issues, in the next step and with these words, the bundle at its place: the agenda is empty and nothing goes on
by itself before it, the device runs, no blocked context's condition has been met (R181), the context has its core's slot, and neither a
trap nor an interrupt nor a late result nor a store to its words comes first. The bundle issues in `u`, in the context's next cycle and
with the translations of the fetch. -/
structure State.Issues (s u : State) (ws : List Nat) : Prop where
  agenda : s.agenda = []
  alone : s.scripted = true ∨ s.nextEvent = none
  running : s.host.mode = .running
  woken : s.woken exec = []
  turn : s.offered (coreOf s.cur) = some s.cur
  due : s.here.due = none
  interrupt : s.userInterrupt s.cur = none
  wait : s.mustWait = false
  quiet : s.newCycle.here.due = none
  held : s.atIssue.codeHeld = false
  words : ∃ a v, s.atIssue.bundleWords = (.ok (a, ws), v) ∧
    u = v.atBundle a ws

/-- Instructions of one bundle run one after another, each to its end (R12). -/
inductive RunsTo : State → List Instr → State → Prop
  | nil (s : State) : RunsTo s [] s
  | cons (s t u : State) (i : Instr) (is : List Instr) (ran : exec i s = .next t) (ok : t.status = .ok) (rest : RunsTo t is u) : RunsTo s (i :: is) u

/-- The slot instructions that write memory when they are performed at their issue. -/
def storesBytes : Instr → Bool
  | .st _ _ _ _ _ _ _ | .ste _ _ _ _ _ _ _ | .sth _ _ _ _ _ _ _ _ | .stv _ _ _ _ _ _ | .stvh _ _ _ _ _ _ | .stvs _ _ _ _ _ _
  | .stlink _ _ _ _ _ | .sst _ _ _ _ _ | .latom _ _ _ _ _ => true
  | _ => false

/-- The slot instructions that change full/empty tags (R224). -/
def changesTags : Instr → Bool
  | .ldfe _ _ _ _ _ _ _ | .ste _ _ _ _ _ _ _ | .tset _ _ _ _ _ _ _ => true
  | _ => false

/-- The slot instructions that change a semaphore at once (R246). -/
def changesSems : Instr → Bool
  | .semadd _ _ _ _ | .semcas _ _ _ _ => true
  | _ => false

/-- wnext, which writes its cursor at issue (R297). -/
def isWnext : Instr → Bool
  | .wnext _ _ _ _ => true
  | _ => false

/-! ### The invariant of the memories -/

/-- The memories are in their one canonical form: addresses rise strictly and no entry equals what an unlisted address reads
as. -/
structure State.Inv (s : State) : Prop where
  mem : Memory.wf s.mem = true
  tags : Memory.wf s.tags = true
  tiles : Memory.wf s.tiles = true
  sems : Memory.wf s.sems = true

end Sys2Proof.Machine
end

