-- ==== Sys2Proof/Certificates/Slice0/Obligations.lean ====
section
/-!
DEFINITION. The statements for the provers.
-/

open Sys2Proof Sys2Proof.Machine

/-! ### Scalar results (R84 to R92, R363) -/

/-- R84 to R86, R90, and lea of R86: the instructions of two scalar sources, in fields that name plain registers. The result is the value
at the operation width, sign-extended, with the OR of the sources' poison bits, visible after the latency. -/
def Obligations.ScalarTwoSources : Prop :=
  ∀ (s : State) (g : Guard) (c : Cl) (d a b : BitVec 5) (w : BitVec 2), s.here.enabled g = true →
    s.here.plain c d → s.here.plain c a → s.here.plain c b →
    let n := 8 * 2 ^ w.toNat
    let x := s.here.scalar c a
    let y := s.here.scalar c b
    let gives (lat : Nat) (v : W64) : Host.Outcome State Fault Refusal := .next (s.exactly (.scalar c d ⟨v, x.poison || y.poison⟩) lat)
    exec (.add g c d a b w) s = gives 1 (narrow n (x.val + y.val)) ∧
    exec (.sub g c d a b w) s = gives 1 (narrow n (x.val - y.val)) ∧
    exec (.and g c d a b w) s = gives 1 (narrow n (x.val &&& y.val)) ∧
    exec (.or g c d a b w) s = gives 1 (narrow n (x.val ||| y.val)) ∧
    exec (.xor g c d a b w) s = gives 1 (narrow n (x.val ^^^ y.val)) ∧
    exec (.andn g c d a b w) s = gives 1 (narrow n (x.val &&& ~~~y.val)) ∧
    exec (.shl g c d a b w) s = gives 1 (narrow n (x.val <<< y.val.toNat)) ∧
    exec (.shr g c d a b w) s = gives 1 (((x.val.setWidth n) >>> y.val.toNat).signExtend 64) ∧
    exec (.sra g c d a b w) s = gives 1 (((x.val.setWidth n).sshiftRight y.val.toNat).signExtend 64)

/-- R86, R90: the instructions of two sources that only one cluster has: rol, the products, mulh, the smaller and the larger, lea and
bins. A product is visible after three cycles. -/
def Obligations.ScalarProductsAndExtremes : Prop :=
  ∀ (s : State) (g : Guard) (d a b : BitVec 5) (w : BitVec 2) (f : BitVec 4) (pos len : BitVec 6), s.here.enabled g = true →
    let n := 8 * 2 ^ w.toNat
    let gives (c : Cl) (lat : Nat) (v : W64 → W64 → W64) : Host.Outcome State Fault Refusal :=
      .next (s.exactly (.scalar c d ⟨v (s.here.scalar c a).val (s.here.scalar c b).val,
        (s.here.scalar c a).poison || (s.here.scalar c b).poison⟩) lat)
    let lesser (x y : W64) : W64 := if (x.setWidth n).toInt ≤ (y.setWidth n).toInt then narrow n x else narrow n y
    let greater (x y : W64) : W64 := if (x.setWidth n).toInt ≤ (y.setWidth n).toInt then narrow n y else narrow n x
    let lesserU (x y : W64) : W64 := if x.setWidth n ≤ y.setWidth n then narrow n x else narrow n y
    let greaterU (x y : W64) : W64 := if x.setWidth n ≤ y.setWidth n then narrow n y else narrow n x
    (exec (.rol g d a b w) s = gives .x 1 (fun x y => ((x.setWidth n).rotateLeft y.toNat).signExtend 64) ∧
     exec (.mulX g d a b w) s = gives .x 3 (fun x y => narrow n (x * y)) ∧
     exec (.mulh g d a b w false) s = gives .x 3 (fun x y =>
       (BitVec.ofInt n ((x.setWidth n).toInt * (y.setWidth n).toInt / 2 ^ n)).signExtend 64) ∧
     exec (.mulh g d a b w true) s = gives .x 3 (fun x y =>
       (BitVec.ofNat n ((x.setWidth n).toNat * (y.setWidth n).toNat / 2 ^ n)).signExtend 64) ∧
     exec (.minX g d a b w false) s = gives .x 1 lesser ∧ exec (.minX g d a b w true) s = gives .x 1 lesserU ∧
     exec (.maxX g d a b w false) s = gives .x 1 greater ∧ exec (.maxX g d a b w true) s = gives .x 1 greaterU ∧
     (pos.toNat + len.toNat + 1 ≤ 64 →
       ∃ v : W64, exec (.bins g d a pos len) s =
           .next (s.exactly (.x d ⟨v, (s.here.regs.rx a).poison || (s.here.regs.rx d).poison⟩) 1) ∧
         ∀ i < 64, v.getLsbD i =
           if pos.toNat ≤ i ∧ i ≤ pos.toNat + len.toNat then (s.here.regs.rx a).val.getLsbD (i - pos.toNat)
           else (s.here.regs.rx d).val.getLsbD i)) ∧
    (s.here.plain .y d → s.here.plain .y a → s.here.plain .y b →
     exec (.mulY g d a b w) s = gives .y 3 (fun x y => narrow n (x * y)) ∧
     exec (.minY g d a b w false) s = gives .y 1 lesser ∧ exec (.minY g d a b w true) s = gives .y 1 lesserU ∧
     exec (.maxY g d a b w false) s = gives .y 1 greater ∧ exec (.maxY g d a b w true) s = gives .y 1 greaterU ∧
     exec (.lea g d a b f) s = gives .y 1 (fun x y => x + y <<< f.toNat))

/-- R85 to R90: the instructions of one scalar source and the constants, in fields that name plain registers. -/
def Obligations.ScalarOneSource : Prop :=
  ∀ (s : State) (g : Guard) (c : Cl) (d a : BitVec 5) (w : BitVec 2) (i : BitVec 14) (j : BitVec 19) (pos len : BitVec 6),
    s.here.enabled g = true → s.here.plain c d → s.here.plain c a → pos.toNat + len.toNat + 1 ≤ 64 →
    let n := 8 * 2 ^ w.toNat
    let x := s.here.scalar c a
    let old := s.here.scalar c d
    let gives (lat : Nat) (v : W64) : Host.Outcome State Fault Refusal := .next (s.exactly (.scalar c d ⟨v, x.poison⟩) lat)
    exec (.addi g c d a i) s = gives 1 (x.val + i.signExtend 64) ∧
    exec (.andi g c d a i) s = gives 1 (x.val &&& i.signExtend 64) ∧
    exec (.ori g c d a i) s = gives 1 (x.val ||| i.signExtend 64) ∧
    exec (.xori g c d a i) s = gives 1 (x.val ^^^ i.signExtend 64) ∧
    exec (.shli g c d a i) s = gives 1 (x.val <<< i.toNat) ∧
    exec (.shri g c d a i) s = gives 1 (x.val >>> i.toNat) ∧
    exec (.srai g c d a i) s = gives 1 (x.val.sshiftRight i.toNat) ∧
    exec (match c with | .x => .sextX g d a w | .y => .sextY g d a w) s = gives 1 (narrow n x.val) ∧
    exec (match c with | .x => .zextX g d a w | .y => .zextY g d a w) s = gives 1 ((x.val.setWidth n).setWidth 64) ∧
    exec (match c with | .x => .bextX g d a pos len | .y => .bextY g d a pos len) s =
      gives 1 ((x.val.extractLsb' pos.toNat (len.toNat + 1)).setWidth 64) ∧
    exec (match c with | .x => .liX g d j | .y => .liY g d j) s = .next (s.exactly (.scalar c d ⟨j.signExtend 64, false⟩) 1) ∧
    exec (match c with | .x => .lihX g d j | .y => .lihY g d j) s =
      .next (s.exactly (.scalar c d ⟨old.val <<< 19 ||| j.setWidth 64, old.poison⟩) 1) ∧
    (c = .x → exec (.muli g d a i) s = gives 3 (x.val * i.signExtend 64)) ∧
    (c = .x → exec (.movxy g d a w) s = .next (s.exactly (.y d ⟨narrow n x.val, x.poison⟩) 2)) ∧
    (c = .y → exec (.movyx g d a w) s = .next (s.exactly (.x d ⟨narrow n x.val, x.poison⟩) 2))

/-- R86: clz, ctz and popc count in the low bits of the operation width: the zeros above the highest one, the zeros below the
lowest one, and the ones. -/
def Obligations.ScalarCounts : Prop :=
  ∀ (s : State) (g : Guard) (c : Cl) (d a : BitVec 5) (w : BitVec 2), s.here.enabled g = true → s.here.plain c d → s.here.plain c a →
    let n := 8 * 2 ^ w.toNat
    let x := s.here.scalar c a
    let gives (k : Nat) : Host.Outcome State Fault Refusal := .next (s.exactly (.scalar c d ⟨BitVec.ofNat 64 k, x.poison⟩) 1)
    (∃ k ≤ n, exec (match c with | .x => .clzX g d a w | .y => .clzY g d a w) s = gives k ∧
      (∀ i < n, n - k ≤ i → x.val.getLsbD i = false) ∧ (k < n → x.val.getLsbD (n - 1 - k) = true)) ∧
    (c = .x → ∃ k ≤ n, exec (.ctz g d a w) s = gives k ∧ (∀ i < k, x.val.getLsbD i = false) ∧ (k < n → x.val.getLsbD k = true)) ∧
    exec (match c with | .x => .popcX g d a w | .y => .popcY g d a w) s =
      gives ((Finset.range n).filter fun i => x.val.getLsbD i = true).card

/-- R91, R42, R92: compares write every bit of PD, predicate logic forms each bit from its truth table, and a select writes the
chosen source with its poison; in fields that name plain registers. R340: a compare of a poisoned source raises POISON_CONSUMED. The model's
choice here: log entry 135, that EINFO names A when both sources are poisoned. -/
def Obligations.ComparesLogicSelect : Prop :=
  ∀ (s : State) (g : Guard) (c : Cl) (d a b : BitVec 5) (pd pa pb fn ps : BitVec 4) (w : BitVec 2) (cc : Cond) (i : BitVec 11),
    s.here.enabled g = true → s.here.plain c d → s.here.plain c a → s.here.plain c b →
    let n := 8 * 2 ^ w.toNat
    let x := s.here.scalar c a
    let y := s.here.scalar c b
    let holds (m : Nat) (p q : BitVec m) : Bool :=
      match cc with
      | .eq => p == q
      | .ne => p != q
      | .lt => p.slt q
      | .ge => q.sle p
      | .le => p.sle q
      | .gt => q.slt p
      | .ltu => p.ult q
      | .geu => q.ule p
      | .leu => p.ule q
      | .gtu => q.ult p
    let sets (v : W64) : Host.Outcome State Fault Refusal := .next (s.exactly (.p pd (BitVec.allOnes 64) v) 1)
    let consumed (r : BitVec 5) : Host.Outcome State Fault Refusal :=
      .next (s.takeTrap (match c with | .x => bundleTrap 8 .X r.toNat | .y => bundleTrap 8 .Y (32 + r.toNat)))
    (x.poison = true →
      exec (match c with | .x => .cmpX g pd a b cc w | .y => .cmpY g pd a b cc w) s = consumed a ∧
      exec (match c with | .x => .cmpiX g pd a cc i | .y => .cmpiY g pd a cc i) s = consumed a) ∧
    (x.poison = false → y.poison = true → exec (match c with | .x => .cmpX g pd a b cc w | .y => .cmpY g pd a b cc w) s = consumed b) ∧
    (x.poison = false → y.poison = false →
      exec (match c with | .x => .cmpX g pd a b cc w | .y => .cmpY g pd a b cc w) s =
        sets (allOnes (holds n (x.val.setWidth n) (y.val.setWidth n)))) ∧
    (x.poison = false →
      exec (match c with | .x => .cmpiX g pd a cc i | .y => .cmpiY g pd a cc i) s = sets (allOnes (holds 64 x.val (i.signExtend 64)))) ∧
    (∃ v : W64, exec (match c with | .x => .plogX g pd pa pb fn | .y => .plogY g pd pa pb fn) s = sets v ∧
      ∀ k < 64, v.getLsbD k = fn.getLsbD (2 * ((s.here.regs.rp pa).getLsbD k).toNat + ((s.here.regs.rp pb).getLsbD k).toNat)) ∧
    exec (match c with | .x => .selX g d a b ps | .y => .selY g d a b ps) s =
      .next (s.exactly (.scalar c d (if (s.here.regs.rp ps).getLsbD 0 then x else y)) 1)

/-- R363, R364: a Y-slot field that names a bound FIFO. A source pops the channel's head word, with poison clear, and blocks while
there is none; a destination reserves an entry of the send queue, and blocks while all 16 are taken; a field of the wrong direction
raises PRIVILEGE. R366: both are accesses of class c0, and wait like one. Said of addi, whose source and destination are such fields. The
model's choices here: log entry 103, that a pop and a push freeze while a load of class c0 is on its way, and log entry 109, when they act. -/
def Obligations.FifoFields : Prop :=
  ∀ (s : State) (g : Guard) (d a : BitVec 5) (i : BitVec 14) (n : Nat), s.here.enabled g = true →
    let key (ch : BitVec 8) : Nat := clusterOf s.cur * 256 + ch.toNat
    (∀ ch w ws, s.here.plain .y d → s.here.fifoOf a = some (n, .recv ch) → alGet s.chans (key ch) = some (w :: ws) →
      (s.loadWaits 0 = false → exec (.addi g .y d a i) s =
        .next ({ s with chans := alSet s.chans (key ch) ws }.exactly (.y d ⟨w + i.signExtend 64, false⟩) 1)) ∧
      (s.loadWaits 0 = true → exec (.addi g .y d a i) s = .next (s.freezePast (.ofClass 0)))) ∧
    (∀ ch, s.here.fifoOf a = some (n, .recv ch) → (alGet s.chans (key ch)).getD [] = [] →
      exec (.addi g .y d a i) s = .next (s.block .nothing)) ∧
    (∀ q, s.here.fifoOf a = some (n, .send q) → exec (.addi g .y d a i) s = .next (s.takeTrap (bundleTrap 5 .Y 0))) ∧
    (∀ q, s.here.plain .y a → s.here.fifoOf d = some (n, .send q) →
      (∀ e ∈ s.here.sends, e.id = q → e.entries.length < 16) →
      (s.here.late 0 = true → exec (.addi g .y d a i) s = .next (s.freezePast (.ofClass 0))) ∧
      (s.here.late 0 = false → exec (.addi g .y d a i) s =
        let u := s.setHere { s.here with sends := s.here.sends.map fun e => if e.id = q then { e with entries := e.entries ++ [(s.next, none)] } else e }
        .next ({ u with next := s.next + 1 }.exactly
          (.f q (BitVec.ofNat 4 n) s.next .Y ⟨(s.here.regs.ry a).val + i.signExtend 64, (s.here.regs.ry a).poison⟩) 1))) ∧
    (∀ q, s.here.plain .y a → s.here.fifoOf d = some (n, .send q) →
      (∃ e ∈ s.here.sends, e.id = q ∧ 16 ≤ e.entries.length) →
      exec (.addi g .y d a i) s = .next (s.block .nothing)) ∧
    (∀ ch, s.here.plain .y a → s.here.fifoOf d = some (n, .recv ch) →
      exec (.addi g .y d a i) s = .next (s.takeTrap (bundleTrap 5 .Y 0)))

/-! ### Control transfer, special registers, system (R93 to R106, R282, R335, R341) -/

/-- R56, R57, R93, R341: br, call, jr, ret and chk take their branch with three delay bundles to go; call and a jr with a destination
write the address after the third delay bundle, rounded up to 16; chk branches only on poison. R24: the bundle after a branch is the first of its
three delay bundles, and the third one's successor is the target; a bundle's own end without a branch pending goes on after it. R25, R340: a jr or
ret of a poisoned target raises POISON_CONSUMED, and of a misaligned one ALIGNMENT. -/
def Obligations.Branches : Prop :=
  (∀ (s : State) (g : Guard) (off : BitVec 24) (o : BitVec 19) (d a : BitVec 5), s.here.enabled g = true →
     let t := s.here.regs.rx a
     exec (.br g off) s = .next (s.branched (offsetTarget s.here.pc (off.signExtend 64))) ∧
     exec (.chk g a o) s = .next (if t.poison then s.branched (offsetTarget s.here.pc (o.signExtend 64)) else s) ∧
     (∀ r u, s.skipBundles s.here.pc.toNat 4 = (.ok r, u) →
       exec (.call g off) s = .next ((u.exactly (.x 30 ⟨BitVec.ofNat 64 ((r + 15) / 16 * 16), false⟩) 1).branched
         (offsetTarget s.here.pc (off.signExtend 64)))) ∧
     (t.poison = true → exec (.jr g d a) s = .next (s.takeTrap (bundleTrap 8 .X a.toNat)) ∧
       (a = 30 → exec (.ret g) s = .next (s.takeTrap (bundleTrap 8 .X 30)))) ∧
     (t.poison = false → t.val.toNat % 16 ≠ 0 → exec (.jr g d a) s = .next (s.takeTrap (bundleTrap 6 .X (t.val.toNat % 2 ^ 52))) ∧
       (a = 30 → exec (.ret g) s = .next (s.takeTrap (bundleTrap 6 .X (t.val.toNat % 2 ^ 52))))) ∧
     (t.poison = false → t.val.toNat % 16 = 0 →
       exec (.jr g 0 a) s = .next (s.branched t.val) ∧
       (a = 30 → exec (.ret g) s = .next (s.branched t.val)) ∧
       (∀ r u, d ≠ 0 → s.skipBundles s.here.pc.toNat 4 = (.ok r, u) →
         exec (.jr g d a) s = .next ((u.exactly (.x d ⟨BitVec.ofNat 64 ((r + 15) / 16 * 16), false⟩) 1).branched t.val)))) ∧
  (∀ (k : Ctx) (t : W64) (size : Nat) (grp : Group), k.rep = none →
     (k.endBundle none size false grp).pc = BitVec.ofNat 64 (k.pc.toNat + size) ∧
     (∀ n, 2 ≤ n → (k.endBundle (some (t, n)) size false grp).pc = BitVec.ofNat 64 (k.pc.toNat + size) ∧
       (k.endBundle (some (t, n)) size false grp).branch = some (t, n - 1)) ∧
     (k.endBundle (some (t, 1)) size false grp).pc = t ∧ (k.endBundle (some (t, 1)) size false grp).branch = none ∧
     (k.endBundle (some (t, 1)) size false grp).group = Group.fresh)

/-- R95 to R104, R126: mfsr reads each special register, mtsr writes each writable one with its reserved bits zero, setlc writes LC, rdfel
reads FEL and clrfel clears it, each visible in the next cycle. At user level EPC, ECAUSE, EINFO and EBP raise PRIVILEGE, a poisoned source
raises POISON_CONSUMED, a misaligned UIV or EPC raises ALIGNMENT, and a value that EBP may not hold raises ILLEGAL_FIELD (R334). -/
def Obligations.SpecialRegisters : Prop :=
  (∀ (s : State) (g : Guard) (d a : BitVec 5) (i : BitVec 14), s.here.enabled g = true →
     let r := s.here.sr
     let x := s.here.regs.rx a
     let reads (n : BitVec 14) (v : W64) : Prop := exec (.mfsr g d n) s = .next (s.exactly (.x d ⟨v, false⟩) 1)
     let writes (n : BitVec 14) (v : W64) : Prop := exec (.mtsr g a n) s = .next (s.exactly (.sr n.toNat v) 1)
     reads 0x00 r.slack ∧ reads 0x01 r.lc ∧ reads 0x02 (felWord r.fel) ∧ reads 0x03 r.uiv ∧
     reads 0x04 (BitVec.ofNat 64 (s.cur % 4096)) ∧ reads 0x05 (r.tenant.setWidth 64) ∧ reads 0x06 r.rsta ∧ reads 0x07 r.rstb ∧
     reads 0x08 r.rstd ∧ reads 0x09 r.acyc ∧
     (s.here.handler = true → reads 0x10 r.epc ∧ reads 0x11 r.ecause ∧ reads 0x12 r.einfo ∧ reads 0x13 r.ebp) ∧
     (x.poison = false →
       writes 0x00 (x.val &&& 0x3FF) ∧ writes 0x01 x.val ∧ (x.val.toNat % 16 = 0 → writes 0x03 (x.val &&& 0xFFFFFFFFFFFFF)) ∧
       writes 0x06 x.val ∧ writes 0x07 x.val ∧ writes 0x08 x.val ∧
       (s.here.handler = true → x.val.toNat % 4 = 0 → writes 0x10 (x.val &&& 0xFFFFFFFFFFFFF)) ∧
       (s.here.handler = true → x.val &&& 0x7CF000000000000F = 0 → (x.val.getLsbD 63 = true → x.val.extractLsb' 56 2 ≠ 0) → writes 0x13 x.val) ∧
       exec (.setlc g a i) s = .next (s.exactly (.sr 1 (x.val + i.signExtend 64)) 1)) ∧
     exec (.rdfel g d) s = .next (s.exactly (.x d ⟨felWord r.fel, false⟩) 1) ∧
     exec (.clrfel g) s = .next ((s.setHere { s.here with sr := { r with felSince := r.felNew } }).exactly .clrFel 1)) ∧
  (∀ (s : State) (g : Guard) (d a : BitVec 5) (n : BitVec 14), s.here.enabled g = true →
     let x := s.here.regs.rx a
     (0x10 ≤ n.toNat → n.toNat ≤ 0x13 → s.here.handler = false →
       exec (.mfsr g d n) s = .next (s.takeTrap (bundleTrap 5 .X 0)) ∧
       (x.poison = false → exec (.mtsr g a n) s = .next (s.takeTrap (bundleTrap 5 .X 0)))) ∧
     (x.poison = true → exec (.mtsr g a n) s = .next (s.takeTrap (bundleTrap 8 .X a.toNat))) ∧
     (x.poison = false → n = 3 → x.val.toNat % 16 ≠ 0 → exec (.mtsr g a n) s = .next (s.takeTrap (bundleTrap 6 .X (x.val.toNat % 2 ^ 52)))) ∧
     (x.poison = false → n = 0x10 → s.here.handler = true → x.val.toNat % 4 ≠ 0 →
       exec (.mtsr g a n) s = .next (s.takeTrap (bundleTrap 6 .X (x.val.toNat % 2 ^ 52)))) ∧
     (x.poison = false → n = 0x13 → s.here.handler = true →
       x.val &&& 0x7CF000000000000F ≠ 0 ∨ (x.val.getLsbD 63 = true ∧ x.val.extractLsb' 56 2 = 0) →
       ∀ k w l, slotWord (.mtsr g a n) = some (k, w, l) → exec (.mtsr g a n) s = .next (s.takeTrap (bundleTrap 2 .X w))))

/-- R105, R199: yield gives up the slot for a turn, and halt ends the context's issue. R105, R327: trap ends its bundle and raises SOFTWARE
with its immediate at the next one: the handler level is entered at TVEC, EPC names the next bundle, ECAUSE says class 20 in slot X. R328: a
freeze trap that awaits the context with a lower number goes first, and SOFTWARE is not recorded. -/
def Obligations.SystemInstructions : Prop :=
  (∀ (s : State) (g : Guard), s.here.enabled g = true →
     exec (.yield g) s = .next (s.setHere { s.here with yielded := true }) ∧
     exec (.halt g) s = .next (s.setHere { s.here with run := .halted, retiring := some [] })) ∧
  (∀ (s : State) (g : Guard) (n : BitVec 14), s.here.enabled g = true → s.here.handler = false →
     s.here.run ≠ .halted → s.here.retiring = none → s.here.rep = none → s.here.branch = none → s.here.inUi = false →
     s.tvec s.here.sr.tenant ≠ 0 → (∀ q, s.here.due = some q → q.met = none) →
     let software : TrapRec := ⟨20, 0, n.setWidth 64, false, none⟩
     let first : TrapRec :=
       match s.here.due with
       | none => software
       | some q => if q.cls < 20 then q else software
     ∃ t, exec (.trap g n) s = .next t ∧ t.status = .trapped first ∧ t.here.handler = true ∧
       t.here.pc = s.tvec s.here.sr.tenant ∧ t.here.sr.einfo = first.info ∧ t.here.due = none ∧
       (s.here.due = none → t.here.sr.ecause = 20) ∧ t.here.sr.ebp = 0 ∧
       t.here.sr.epc = BitVec.ofNat 64 ((s.here.pc.toNat + bundleSize s.header.toNat) % 2 ^ 64 % 2 ^ 52) ∧ t.here.flight = [] ∧
       t.here.sr.acyc = s.here.sr.acyc + 1 ∧ t.mem = s.mem)

/-- R282, R335, R336: eret at handler level goes back to EPC with the branch that EBP names and with the captured results in flight again, and uret
in a user-level interrupt handler, with no further interrupt pending, to the interrupted bundle; the shadowed registers are exchanged back. R21, R94: the bundle that
each goes to begins a group. R105: at any other level they raise PRIVILEGE. The model's choices here: log entries 24 and 25; log entry 147, a
poisoned word for a send queue that becomes visible at the return. -/
def Obligations.ReturnsFromHandlers : Prop :=
  (∀ (s : State) (g : Guard) (sv : Saved), s.here.enabled g = true → s.here.handler = true → (∀ f ∈ s.here.flight, f.arrived = true) →
     s.here.trapRet = some sv →
     let k := s.here.settled
     ∃ t, exec (.eret g) s = .next t ∧ t.status = .redirected ∧ t.here.handler = false ∧ t.here.pc = k.sr.epc ∧ t.here.group = Group.fresh ∧
       t.here.flight = sv.flight ∧ t.here.shown = sv.shown ∧ t.here.trapRet = none ∧ t.here.trapShadow = shadowOut k ∧
       t.here.regs = shadowIn k.regs k.trapShadow ∧ t.mem = s.mem ∧
       (k.sr.ebp.getLsbD 63 = false → t.here.branch = none) ∧
       (k.sr.ebp.getLsbD 63 = true → t.here.branch = some (k.sr.ebp &&& 0xFFFFFFFFFFFF0, (k.sr.ebp.extractLsb' 56 2).toNat))) ∧
  (∀ (s : State) (g : Guard) (sv : Saved), s.here.enabled g = true → s.here.handler = false → s.here.inUi = true →
     (∀ f ∈ s.here.flight, f.arrived = true) → s.here.uiRet = some sv → (∀ i : Fin 16, s.here.pend[i] = none) →
     let k := s.here.settled
     ∃ t, exec (.uret g) s = .next t ∧ t.status = .redirected ∧ t.here.inUi = false ∧ t.here.pc = sv.pc ∧ t.here.branch = sv.branch ∧ t.here.group = Group.fresh ∧
       t.here.flight = sv.flight ∧ t.here.shown = sv.shown ∧ t.here.uiRet = none ∧ t.here.uiShadow = shadowOut k ∧ t.here.regs = shadowIn k.regs k.uiShadow ∧
       t.mem = s.mem) ∧
  (∀ (s : State) (g : Guard), s.here.enabled g = true →
     (s.here.handler = false → exec (.eret g) s = .next (s.takeTrap (bundleTrap 5 .X 0))) ∧
     (s.here.inUi = false ∨ s.here.handler = true → exec (.uret g) s = .next (s.takeTrap (bundleTrap 5 .X 0))))


/-! ### Handles, layout and bond registers (R213 to R216, R262, R309) -/

/-- R214: xlat starts a translation whose handle is exact at the issue cycle plus 12; it stays in flight until the walk is done. R209 to R213: a
translation answers a leaf of the tenant for the address that the die's TLB holds, and else the one that the tables under the tenant's root give,
which enters the TLB; it answers nothing where an entry breaks a rule, the tenant has no root or the address is beyond 52 bits. The model's choice
here: log entry 17, that a leaf which a walk finds enters the die's TLB and that at most 2,048 of a die's leaves are kept (R212 leaves the
replacement open). -/
def Obligations.XlatStarts : Prop :=
  (∀ (s : State) (g : Guard) (h : BitVec 4) (a : BitVec 5) (perm : BitVec 3), s.here.enabled g = true → s.here.plain .y a →
    (s.here.regs.ry a).poison = false →
    exec (.xlat g h a perm) s = .next (s.setHere (s.here.addLate (.h h Handle.none) 12 false (.xlat (s.here.regs.ry a).val perm)))) ∧
  (∀ (s : State) (die : Nat) (tenant : BitVec 16) (va : Nat),
    let r := s.translate die tenant va
    let held (e : Tlb) : Prop := e.die = die ∧ e.tenant = tenant ∧ e.leaf.covers va = true
    (2 ^ 52 ≤ va → r = (none, s)) ∧
    (va < 2 ^ 52 → (∃ e ∈ s.tlb, held e) → r.2 = s ∧ ∃ e ∈ s.tlb, held e ∧ r.1 = some e.leaf) ∧
    (va < 2 ^ 52 → (∀ e ∈ s.tlb, ¬ held e) →
      (alGet s.roots tenant.toNat = none → r = (none, s)) ∧
      (∀ root, alGet s.roots tenant.toNat = some root →
        (∀ h, r.1 = some h ↔ s.walksTo root.toNat tenant va h) ∧ (r.1 = none → r.2 = s) ∧
        (∀ h, r.1 = some h → { r.2 with tlb := s.tlb } = s ∧ ⟨die, tenant, h⟩ ∈ r.2.tlb ∧
          (r.2.tlb.filter fun e => e.die == die).length ≤ 2048 ∧ ∀ e ∈ r.2.tlb, e ∈ s.tlb ∨ e = ⟨die, tenant, h⟩))))

/-- R213, R215, R216, R261, R262, R307, R309: hdrop, hmov and hinfo on handles, lset and lget on the parts of a layout register, bset and
bget on a bond register, in fields that name plain registers. -/
def Obligations.HandleLayoutBond : Prop :=
  ∀ (s : State) (g : Guard) (h src : BitVec 4) (d y : BitVec 5) (n : BitVec 3) (part : BitVec 2), s.here.enabled g = true →
    s.here.plain .y d → s.here.plain .y y → part.toNat ≤ 2 →
    let v := (s.here.regs.ry y).val
    let l := s.here.regs.rl n
    let q := s.here.regs.rh h
    exec (.hdrop g h) s = .next (s.exactly (.h h Handle.none) 1) ∧
    exec (.hmov g h src) s = .next (s.exactly (.h h (s.here.regs.rh src)) 1) ∧
    (∃ w : W64, exec (.hinfo g h d) s = .next (s.exactly (.y d ⟨w, false⟩) 1) ∧
      w = BitVec.ofNat 1 q.valid.toNat ++ q.lclass ++ q.size ++ q.tgt ++ q.perm ++ BitVec.ofNat 1 q.kv.toNat ++ q.vpage ++ q.cview ++ q.bankl ++
        q.plane ++ q.tstride ++ q.afmt) ∧
    exec (.lget g n part d) s = .next (s.exactly (.y d ⟨l.extractLsb' (64 * part.toNat) 64, false⟩) 1) ∧
    exec (.bget g n d) s = .next (s.exactly (.y d ⟨s.here.regs.rb n, false⟩) 1) ∧
    ((s.here.regs.ry y).poison = false →
      exec (.bset g n y) s = .next (s.exactly (.b n (v &&& 0xFFFF011F007F)) 1) ∧
      ∃ u : BitVec 192, exec (.lset g n part y) s = .next (s.exactly (.l n u) 1) ∧
        ∀ i < 3, u.extractLsb' (64 * i) 64 =
          if i = part.toNat then (if i = 0 then v &&& 0x7FFFFF else v) else l.extractLsb' (64 * i) 64)

/-! ### Accesses of the local window (R28, R107, R108, R151, R152, R168, R224, R339) -/

/-- R28, R107, R108, R339: ld, ldz, ld.s and st on an aligned range of the allotment: a load brings the bytes that stand there, sign- or
zero-extended, visible from cycle 5 on; a store puts the low bytes of its datum there. The model's choices here: log entries 11 and 15. -/
def Obligations.LocalScalarAccesses : Prop :=
  (∀ (s : State) (g : Guard) (cl : Cl) (t a : BitVec 5) (cls : BitVec 4) (w : BitVec 2) (off : BitVec 7), s.here.enabled g = true → s.Quiet →
    s.here.plain cl t → (s.here.regs.ry a).poison = false →
    let n := 2 ^ w.toNat
    let addr := localAddr (s.here.regs.ry a).val n off
    s.localOk addr n n →
    let v : W64 := BitVec.ofNat 64 (leNat (s.spadBytes addr n))
    exec (.ld g cl t a cls w off) s = .next (s.elastically (.scalar cl t ⟨narrow (8 * n) v, false⟩) 5) ∧
    exec (.ldz g cl t a cls w off) s = .next (s.elastically (.scalar cl t ⟨v, false⟩) 5) ∧
    exec (.ldS g cl t a cls w off) s = .next (s.elastically (.scalar cl t ⟨narrow (8 * n) v, false⟩) 5) ∧
    ((s.here.scalar cl t).poison = false →
      exec (.st g cl t a cls w off) s = .next (s.spadStored n addr (leBytes n (s.here.scalar cl t).val.toNat)))) ∧
  (∀ (s : State) (g addr : Nat) (bs : List Byte), s.Inv → 0 < g →
    let key := spadKey (clusterOf s.cur) addr
    ∀ a, cellAt (s.spadStored g addr bs).mem a =
      if key ≤ a ∧ a < key + bs.length then (bs[a - key]?).getD 0 else cellAt s.mem a)

/-- R28, R53: a misaligned ld or st raises ALIGNMENT, and an aligned one outside the allotment PRIVILEGE, with the address in EINFO. R107, R339,
R340: ld.s of such a range brings a poisoned zero; ld, ldz and ld.s of a poisoned address bring a poisoned result of no stated value (a free
value), and st raises POISON_CONSUMED. R217: the checks of a scalar access through a handle fail in their order: an invalid handle raises
HANDLE_REVOKED, a missing permission or class 0 PRIVILEGE, a misaligned offset ALIGNMENT, a range beyond the page PRIVILEGE. Said of ldh; ldh.s
brings a poisoned zero instead (R339). R151 to R153, R168, R217, R218, R228, R290: the same for the vector and scale accesses of the local
window, for sth, and for the vector, scale, mask and link accesses through a handle. The model's choices here: log entry 3; log entry 93, that a
load of a poisoned address is checked for alignment alone and has no stated value; log entries 94, 95 and 119, the order of checks and what EINFO names. -/
def Obligations.AccessChecks : Prop :=
  ((∀ (s : State) (g : Guard) (cl : Cl) (t a : BitVec 5) (cls : BitVec 4) (w : BitVec 2) (off : BitVec 7), s.here.enabled g = true →
      (s.here.regs.ry a).poison = false →
      let n := 2 ^ w.toNat
      let addr := localAddr (s.here.regs.ry a).val n off
      (addr % n ≠ 0 →
        exec (.ld g cl t a cls w off) s = .next (s.takeTrap (bundleTrap 6 .L (addr % 2 ^ 52))) ∧
        exec (.st g cl t a cls w off) s = .next (s.takeTrap (bundleTrap 6 .L (addr % 2 ^ 52)))) ∧
      (addr % n = 0 → ¬ s.localOk addr n n →
        exec (.ld g cl t a cls w off) s = .next (s.takeTrap (bundleTrap 5 .L (addr % 2 ^ 52))) ∧
        exec (.st g cl t a cls w off) s = .next (s.takeTrap (bundleTrap 5 .L (addr % 2 ^ 52))))) ∧
   (∀ (s : State) (g : Guard) (cl : Cl) (t a : BitVec 5) (cls : BitVec 4) (w : BitVec 2) (off : BitVec 7), s.here.enabled g = true →
      s.here.plain cl t →
      let n := 2 ^ w.toNat
      let addr := localAddr (s.here.regs.ry a).val n off
      let unstated : Host.Outcome State Fault Refusal :=
        .next ({ s with free := s.free + 1 }.elastically (.scalar cl t ⟨Config.freeValue s.free, true⟩) 5)
      ((s.here.regs.ry a).poison = false → ¬ s.localOk addr n n →
        exec (.ldS g cl t a cls w off) s = .next (s.elastically (.scalar cl t ⟨0, true⟩) 5)) ∧
      ((s.here.regs.ry a).poison = true →
        let crooked : Host.Outcome State Fault Refusal := .next (s.takeTrap (bundleTrap 6 .L (addr % 2 ^ 52)))
        (addr % n = 0 →
          exec (.ld g cl t a cls w off) s = unstated ∧ exec (.ldz g cl t a cls w off) s = unstated ∧ exec (.ldS g cl t a cls w off) s = unstated) ∧
        (addr % n ≠ 0 →
          exec (.ld g cl t a cls w off) s = crooked ∧ exec (.ldz g cl t a cls w off) s = crooked ∧
          exec (.ldS g cl t a cls w off) s = .next (s.elastically (.scalar cl t ⟨0, true⟩) 5)) ∧
        exec (.st g cl t a cls w off) s = .next (s.takeTrap (bundleTrap 8 .L (32 + a.toNat)))))) ∧
  (∀ (s : State) (g : Guard) (cl : Cl) (t : BitVec 5) (hn : BitVec 4) (o : BitVec 5) (cls : BitVec 4) (w : BitVec 2) (disp : BitVec 3),
     s.here.enabled g = true → (s.here.regs.ry o).poison = false → s.here.plain cl t →
     let h := s.here.regs.rh hn
     let n := 2 ^ w.toNat
     let off := ((s.here.regs.ry o).val + disp.setWidth 64 * BitVec.ofNat 64 n).toNat
     let raises (cls' info : Nat) : Prop :=
       exec (.ldh g cl t hn o cls w disp) s = .next (s.takeTrap (bundleTrap cls' .L info)) ∧
       ∃ lat, exec (.ldhS g cl t hn o cls w disp) s = .next (s.elastically (.scalar cl t ⟨0, true⟩) lat)
     (h.valid = false → raises 7 hn.toNat) ∧
     (h.valid = true → h.perm.getLsbD 2 = false ∨ h.lclass = 0 → raises 5 (off % 2 ^ 52)) ∧
     (h.valid = true → h.perm.getLsbD 2 = true → h.lclass ≠ 0 →
       (off % n ≠ 0 → raises 6 (off % 2 ^ 52)) ∧
       (off % n = 0 → pageBytes h.size < off + n → raises 5 (off % 2 ^ 52)))) ∧
  (∀ (s : State) (g : Guard) (cl : Cl) (t v i a : BitVec 5) (sc : BitVec 4) (cls : BitVec 4) (w ew : BitVec 2) (off : BitVec 7) (voff : BitVec 8)
      (soff : BitVec 11), s.here.enabled g = true →
     let y := s.here.regs.ry a
     let al := 2 ^ ew.toNat
     let traps (j : Instr) (c : Nat) (k : SlotKind) (info : Nat) : Prop := exec j s = .next (s.takeTrap (bundleTrap c k info))
     let checks (j : Instr) (k : SlotKind) (addr align : Nat) : Prop :=
       (y.poison = true → traps j 8 k (32 + a.toNat)) ∧ (y.poison = false → addr % align ≠ 0 → traps j 6 k (addr % 2 ^ 52)) ∧
       (y.poison = false → addr % align = 0 → ¬ s.localOk addr align 256 → traps j 5 k (addr % 2 ^ 52))
     let at_ (j : Nat) : Nat := (y.val + (lane (s.here.regs.rv i) j).setWidth 64).toNat
     let lanes (ins : Instr) : Prop :=
       (y.poison = true → traps ins 8 .L (32 + a.toNat)) ∧
       (∀ j < 64, y.poison = false → at_ j % al ≠ 0 → (∀ m < j, at_ m % al = 0) → traps ins 6 .L (at_ j % 2 ^ 52)) ∧
       (∀ j < 64, y.poison = false → (∀ m < 64, at_ m % al = 0) → ¬ s.localOk (at_ j) al al → (∀ m < j, s.localOk (at_ m) al al) →
         traps ins 5 .L (at_ j % 2 ^ 52))
     checks (.ldv g v a cls ew voff) .L (localAddr y.val 256 voff) al ∧ checks (.stv g v a cls ew voff) .L (localAddr y.val 256 voff) al ∧
     checks (.sld g sc a cls soff) .S (localAddr y.val 256 soff) 4 ∧ checks (.sst g sc a cls soff) .S (localAddr y.val 256 soff) 4 ∧
     (y.poison = true → traps (.sbc g sc a) 8 .S (32 + a.toNat)) ∧ lanes (.ldvg g v i a cls ew) ∧ lanes (.stvs g v i a cls ew) ∧
     (s.here.plain cl t → y.poison = false → s.localOk (localAddr y.val (2 ^ w.toNat) off) (2 ^ w.toNat) (2 ^ w.toNat) →
       (s.here.scalar cl t).poison = true →
       traps (.st g cl t a cls w off) 8 .L (match cl with | .x => t.toNat | .y => 32 + t.toNat))) ∧
  (∀ (s : State) (g : Guard) (cl : Cl) (t v : BitVec 5) (sc hn : BitVec 4) (o : BitVec 5) (cls : BitVec 4) (w ew : BitVec 2) (disp : BitVec 3),
     s.here.enabled g = true →
     let h := s.here.regs.rh hn
     let y := s.here.regs.ry o
     let off := y.val.toNat
     let n := 2 ^ w.toNat
     let offD := (y.val + disp.setWidth 64 * BitVec.ofNat 64 n).toNat
     let traps (j : Instr) (k : SlotKind) (c info : Nat) : Prop := exec j s = .next (s.takeTrap (bundleTrap c k info))
     let checks (j : Instr) (k : SlotKind) (a b align : Nat) (isLoad : Bool) : Prop :=
       (y.poison = true → traps j k 8 (32 + o.toNat)) ∧ (y.poison = false → h.fails hn a b align isLoad (traps j k))
     let far (j : Instr) : Prop := h.tgt = 2 → traps j .L 5 (off % 2 ^ 52)
     let datum (c : Nat) (j : Instr) : Prop := traps j .L 8 c
     checks (.ldvh g v hn o cls ew) .L off 256 (2 ^ ew.toNat) true ∧ checks (.stvh g v hn o cls ew) .L off 256 (2 ^ ew.toNat) false ∧
     checks (.sldh g sc hn o cls) .S off 256 4 true ∧ checks (.sth g cl t hn o cls w disp) .L offD n n false ∧
     checks (.stlink g t hn o cls) .L off 16 16 false ∧ checks (.ldvm g v hn o cls) .L 0 8 1 true ∧
     (y.poison = false → s.pageOk h 0 8 1 true → h.lclass ≠ 0 → h.kv = false → traps (.ldvm g v hn o cls) .L 5 (off % 2 ^ 52)) ∧
     (h.valid = false → traps (.ldlink g t hn o cls) .L 7 hn.toNat) ∧
     (y.poison = false → h.fails hn off 16 16 true (traps (.ldlink g t hn o cls) .L)) ∧
     (y.poison = false → s.pageOk h off 16 16 true → h.lclass ≠ 0 → far (.ldlink g t hn o cls)) ∧
     (y.poison = false → s.pageOk h off 16 16 false → far (.stlink g t hn o cls)) ∧
     (y.poison = false → s.pageOk h offD n n false → s.here.plain cl t → (s.here.scalar cl t).poison = true →
       datum (match cl with | .x => t.toNat | .y => 32 + t.toNat) (.sth g cl t hn o cls w disp)) ∧
     (y.poison = false → s.pageOk h off 16 16 false → h.tgt ≠ 2 →
       ((s.here.regs.ry t).poison = true → datum (32 + t.toNat) (.stlink g t hn o cls)) ∧
       ((s.here.regs.ry t).poison = false → (s.here.regs.ry (t + 1)).poison = true → datum (32 + (t + 1).toNat) (.stlink g t hn o cls))))

/-- R224: the tag instructions. ldf and ldfe wait until every word is full, ste until every word is empty; ldfe leaves the words empty, ste
full, tset as its datum says; tget reads the tags. The tags that a blocked access awaits are
recorded, as a change of any of them makes it ready (R225). The checks come before any wait: the poison of the address, alignment, the allotment, and the
poison of the datum. A disabled slot does nothing, and a width below one word is no encoding. The model's choices here: log entries 11 and 15, that
the words are read, or written, and the tags changed in the step of the issue. -/
def Obligations.TagAccesses : Prop :=
  (∀ (s : State) (g : Guard) (cl : Cl) (t a : BitVec 5) (cls : BitVec 4) (w : BitVec 2) (off : BitVec 7), s.here.enabled g = true → s.Quiet →
    s.here.plain cl t → (s.here.regs.ry a).poison = false → 2 ≤ w.toNat →
    let n := 2 ^ w.toNat
    let words := n / 4
    let addr := localAddr (s.here.regs.ry a).val n off
    s.localOk addr n n →
    let r := s.here.scalar cl t
    let v : Reg := ⟨narrow (8 * n) (BitVec.ofNat 64 (leNat (s.spadBytes addr n))), false⟩
    let tags (t : State) (bs : List Bool) : State := { t with tags := setTags t.tags (clusterOf t.cur) addr bs }
    let key (j : Nat) : Nat := spadKey (clusterOf s.cur) ((addr + 4 * j) / 4 * 4)
    let awaited : List (Nat × Byte) := (List.range words).map fun j => (key j, cellAt s.tags (key j))
    ((∀ j < words, s.tagAt addr j = true) →
      exec (.ldf g cl t a cls w off) s = .next (s.elastically (.scalar cl t v) 5) ∧
      exec (.ldfe g cl t a cls w off) s = .next (tags (s.elastically (.scalar cl t v) 5) (List.replicate words false))) ∧
    ((∃ j < words, s.tagAt addr j = false) →
      exec (.ldf g cl t a cls w off) s = .next (s.block (.tags awaited)) ∧ exec (.ldfe g cl t a cls w off) s = .next (s.block (.tags awaited))) ∧
    (r.poison = false →
      ((∀ j < words, s.tagAt addr j = false) →
        exec (.ste g cl t a cls w off) s = .next (tags (s.spadStored n addr (leBytes n r.val.toNat)) (List.replicate words true))) ∧
      ((∃ j < words, s.tagAt addr j = true) → exec (.ste g cl t a cls w off) s = .next (s.block (.tags awaited))) ∧
      exec (.tset g cl t a cls w off) s = .next (tags s ((List.range words).map fun j => r.val.getLsbD j))) ∧
    (r.poison = true →
      let info := (match cl with | .x => 0 | .y => 32) + t.toNat
      exec (.ste g cl t a cls w off) s = .next (s.takeTrap (bundleTrap 8 .L info)) ∧
      exec (.tset g cl t a cls w off) s = .next (s.takeTrap (bundleTrap 8 .L info))) ∧
    exec (.tget g cl t a cls w off) s =
      .next (s.elastically (.scalar cl t ⟨BitVec.ofNat 64 ((List.range words).map fun j => (s.tagAt addr j).toNat * 2 ^ j).sum, false⟩) 5)) ∧
  (∀ (s : State) (g : Guard) (cl : Cl) (t a : BitVec 5) (cls : BitVec 4) (w : BitVec 2) (off : BitVec 7),
    let n := 2 ^ w.toNat
    let y := s.here.regs.ry a
    let addr := localAddr y.val n off
    let each (u : State) : Prop :=
      exec (.ldf g cl t a cls w off) s = .next u ∧ exec (.ldfe g cl t a cls w off) s = .next u ∧ exec (.ste g cl t a cls w off) s = .next u ∧
      exec (.tset g cl t a cls w off) s = .next u ∧ exec (.tget g cl t a cls w off) s = .next u
    (s.here.enabled g = false → each s) ∧
    (s.here.enabled g = true →
      (y.poison = true → each (s.takeTrap (bundleTrap 8 .L (32 + a.toNat)))) ∧
      (y.poison = false → addr % n ≠ 0 → each (s.takeTrap (bundleTrap 6 .L (addr % 2 ^ 52)))) ∧
      (y.poison = false → addr % n = 0 → ¬ s.localOk addr n n → each (s.takeTrap (bundleTrap 5 .L (addr % 2 ^ 52)))))) ∧
  (∀ w l : Nat, 4 ≤ w / 2 ^ 26 → w / 2 ^ 26 ≤ 8 → w / 2 ^ 4 % 4 < 2 → decodeSlot .L w l = .error (.field .L))

/-- R151, R152, R339: the vector accesses of the local window. ldv, ldv.s and stv move 256 bytes; ldvg and stvs move one element per lane, the
lanes of stvs in ascending order, at yA plus the lane's index. The model's choices here: log entries 11 and 15. -/
def Obligations.LocalVectorAccesses : Prop :=
  ∀ (s : State) (g : Guard) (v i a : BitVec 5) (cls : BitVec 4) (ew : BitVec 2) (off : BitVec 8), s.here.enabled g = true → s.Quiet →
    (s.here.regs.ry a).poison = false →
    let y := (s.here.regs.ry a).val
    let n := 2 ^ ew.toNat
    let addr := localAddr y 256 off
    let at_ (j : Nat) : Nat := (y + (lane (s.here.regs.rv i) j).setWidth 64).toNat
    (s.localOk addr n 256 →
      exec (.ldv g v a cls ew off) s = .next (s.elastically (.v v (BitVec.allOnes 64) (lanesOf (s.spadBytes addr 256))) 5) ∧
      exec (.ldvS g v a cls ew off) s = .next (s.elastically (.v v (BitVec.allOnes 64) (lanesOf (s.spadBytes addr 256))) 5) ∧
      exec (.stv g v a cls ew off) s = .next (s.spadStored n addr (bytesOf (s.here.regs.rv v)))) ∧
    (¬ s.localOk addr n 256 → exec (.ldvS g v a cls ew off) s = .next (s.elastically (.yPoison a) 5)) ∧
    ((∀ j < 64, s.localOk (at_ j) n n) →
      exec (.ldvg g v i a cls ew) s = .next (s.elastically
        (.v v (BitVec.allOnes 64) (Vector.ofFn fun j : Fin 64 => BitVec.ofNat 32 (leNat (s.spadBytes (at_ j.val) n)))) 5) ∧
      exec (.stvs g v i a cls ew) s = .next ((List.range 64).foldl
        (fun t j => t.spadStored n (at_ j) (leBytes n (lane (s.here.regs.rv v) j).toNat)) s))

/-- R167, R168: sld, sst and sbc: 64 scales from local memory, to local memory, or all from one y register. The model's choices here: log entries 11 and 15. -/
def Obligations.ScaleAccesses : Prop :=
  ∀ (s : State) (g : Guard) (sc : BitVec 4) (a : BitVec 5) (cls : BitVec 4) (off : BitVec 11), s.here.enabled g = true → s.Quiet →
    (s.here.regs.ry a).poison = false →
    let y := (s.here.regs.ry a).val
    let addr := localAddr y 256 off
    exec (.sbc g sc a) s = .next (s.elastically (.sc sc (Vector.replicate 64 (y.setWidth 32))) 4) ∧
    (s.localOk addr 4 256 →
      exec (.sld g sc a cls off) s = .next (s.elastically (.sc sc (lanesOf (s.spadBytes addr 256))) 4) ∧
      exec (.sst g sc a cls off) s = .next (s.spadStored 4 addr (bytesOf (s.here.regs.rsc sc))))

/-! ### Accesses through handles (R153, R168, R217 to R221, R228, R290, R339) -/

/-- R217, R218, R290, R339: the scalar and link accesses through a handle that passes the checks, on HBM, host and loft pages. Loads answer
bound(class) after their issue at the earliest, a link's two registers by one access, and stores reach memory. The model's choices here: log
entries 11 and 15. -/
def Obligations.HandleScalarAccesses : Prop :=
  ∀ (s : State) (g : Guard) (cl : Cl) (t : BitVec 5) (hn : BitVec 4) (o : BitVec 5) (cls : BitVec 4) (w : BitVec 2) (disp : BitVec 3),
    s.here.enabled g = true → s.Quiet → s.here.plain cl t → (s.here.regs.ry o).poison = false →
    let h := s.here.regs.rh hn
    let n := 2 ^ w.toNat
    let off := ((s.here.regs.ry o).val + disp.setWidth 64 * BitVec.ofNat 64 n).toNat
    let off0 := (s.here.regs.ry o).val.toNat
    let v : W64 := BitVec.ofNat 64 (leNat (s.pageHolds h off n))
    let half (i : Nat) : W64 := BitVec.ofNat 64 (leNat (((s.pageHolds h off0 16).drop (8 * i)).take 8))
    (s.pageOk h off n n true → h.lclass ≠ 0 →
      exec (.ldh g cl t hn o cls w disp) s = .next (s.loading cls (.scalar cl t ⟨narrow (8 * n) v, false⟩) h off n off .sext) ∧
      exec (.ldhz g cl t hn o cls w disp) s = .next (s.loading cls (.scalar cl t ⟨v, false⟩) h off n off .zext) ∧
      exec (.ldhS g cl t hn o cls w disp) s = .next (s.loading cls (.scalar cl t ⟨narrow (8 * n) v, false⟩) h off n off .sext)) ∧
    (s.pageOk h off n n false → (s.here.scalar cl t).poison = false →
      exec (.sth g cl t hn o cls w disp) s = .next (s.pageStored n h off (leBytes n (s.here.scalar cl t).val.toNat))) ∧
    (s.pageOk h off0 16 16 true → h.lclass ≠ 0 → h.tgt ≠ 2 →
      exec (.ldlink g t hn o cls) s =
        .next ((s.bringing (.y t ⟨half 0, false⟩) h (.load cls s.here.sr.acyc.toNat h off0 16 off0 .link)).bringing
          (.y (t + 1) ⟨half 1, false⟩) h .paired)) ∧
    (s.pageOk h off0 16 16 false → h.tgt ≠ 2 → (s.here.regs.ry t).poison = false → (s.here.regs.ry (t + 1)).poison = false →
      exec (.stlink g t hn o cls) s =
        .next (s.pageStored 16 h off0 (leBytes 8 (s.here.regs.ry t).val.toNat ++ leBytes 8 (s.here.regs.ry (t + 1)).val.toNat))) ∧
    (s.Inv → h.tgt ≠ 1 → ∀ (g o : Nat) (bs : List Byte), 0 < g → ∀ a, cellAt (s.pageStored g h o bs).mem a =
      if h.key o ≤ a ∧ a < h.key o + bs.length then (bs[a - h.key o]?).getD 0 else cellAt s.mem a)

/-- R153, R168, R228: the vector and scale accesses through a handle that passes the checks: ldvh, sldh and stvh move 256 bytes, ldvm the
token mask of 64 positions of an arena page. The model's choices here: log entries 11, 15 and 30; log entry 140, that a page holds the whole
tokens of its token area, also where the quotient of R228 is not whole. -/
def Obligations.HandleVectorAccesses : Prop :=
  ∀ (s : State) (g : Guard) (v : BitVec 5) (sc hn : BitVec 4) (o : BitVec 5) (cls : BitVec 4) (ew : BitVec 2),
    s.here.enabled g = true → s.Quiet → (s.here.regs.ry o).poison = false →
    let h := s.here.regs.rh hn
    let off := (s.here.regs.ry o).val.toNat
    let n := 2 ^ ew.toNat
    (s.pageOk h off 256 n true → h.lclass ≠ 0 →
      exec (.ldvh g v hn o cls ew) s = .next (s.loading cls (.v v (BitVec.allOnes 64) (lanesOf (s.pageHolds h off 256))) h off 256 off .lanes)) ∧
    (s.pageOk h off 256 4 true → h.lclass ≠ 0 →
      exec (.sldh g sc hn o cls) s = .next (s.loading cls (.sc sc (lanesOf (s.pageHolds h off 256))) h off 256 off .lanes)) ∧
    (s.pageOk h off 256 n false →
      exec (.stvh g v hn o cls ew) s = .next (s.pageStored n h off (bytesOf (s.here.regs.rv v)))) ∧
    (s.Inv → s.pageOk h 0 8 1 true → h.lclass ≠ 0 → h.kv = true → h.tgt = 0 → h.cview = 0 → h.size = 0 ∨ h.size = 1 →
      ∃ r : Lanes, exec (.ldvm g v hn o cls) s = .next (s.elastically (.v v (BitVec.allOnes 64) r) (Config.bound h.lclass.toNat)) ∧
        ∀ i < 64, lane r i =
          if off + i < (pageBytes h.size - 4096) / (64 * 2 ^ h.tstride.toNat) ∧
             ((s.pageHolds h ((off + i) / 8) 1).headD 0).getLsbD ((off + i) % 8) = true then 0xFFFFFFFF else 0)

/-- R221: ldq appends an entry to its queue, with the value the page holds, and qpop takes the head entry once it has arrived; an empty queue
raises WATCHDOG, a full one blocks ldq, a head that has not arrived blocks qpop, a failed one raises its trap and is read
again; and what a later access of its class fixes of a failed entry, or of a load that a handler has captured (R231, R318, R325). The model's
choices here: log entry 11; log entry 139, that a queue of 16 entries blocks ldq before the checks of R217; log entries 103 and 127, that a load
which a later access passes has the value that memory holds then, or zeros where it is refused. -/
def Obligations.QueuedLoads : Prop :=
  (∀ (s : State) (g : Guard) (cl : Cl) (t : BitVec 5) (q : BitVec 2) (hn : BitVec 4) (o : BitVec 5) (cls : BitVec 4) (w : BitVec 2),
    s.here.enabled g = true → s.Quiet →
    let h := s.here.regs.rh hn
    let n := 2 ^ w.toNat
    let off := (s.here.regs.ry o).val.toNat
    let entries := s.here.queue q
    let with_ (es : List QEntry) : Vector (List QEntry) 4 := s.here.q.set q.toNat es q.isLt
    ((s.here.regs.ry o).poison = false → s.pageOk h off n n true → entries.length < 16 →
      ∃ e, exec (.ldq g q hn o cls w) s = .next (s.setHere { s.here with q := with_ (entries ++ [e]), nextId := s.here.nextId + 1 }) ∧
        e.val = narrow (8 * n) (BitVec.ofNat 64 (leNat (s.pageHolds h off n))) ∧ e.cls = cls ∧ e.poison = false ∧ e.arrived = false ∧ e.failed = none) ∧
    (16 ≤ entries.length → exec (.ldq g q hn o cls w) s = .next (s.block .nothing)) ∧
    (entries = [] → exec (.qpop g cl t q) s = .next (s.takeTrap (bundleTrap 19 .L 1))) ∧
    (∀ e es, entries = e :: es → s.here.plain cl t →
      (e.arrived = true → e.failed = none →
        let u := s.exactly (.scalar cl t ⟨e.val, e.poison⟩) 1
        exec (.qpop g cl t q) s = .next (u.setHere { u.here with q := with_ es })) ∧
      (e.arrived = false → exec (.qpop g cl t q) s = .next (s.block .nothing)) ∧
      (∀ c info, e.arrived = true → e.failed = some (c, info) →
        exec (.qpop g cl t q) s = .next (s.takeTrap { bundleTrap c .L info.toNat with met := some (.entry e.id) })))) ∧
  ∀ (s : State) (c : Nat) (p : Passing), s.scripted = false →
    let k := s.ctx c
    let passes (cls : BitVec 4) (r : Nat × Nat) : Prop :=
      p.mask.getLsbD cls.toNat = true ∨ ∃ b ∈ p.spans, b.1 < r.1 + r.2 ∧ r.1 < b.1 + b.2
    let now (h : Handle) (o n : Nat) : List Byte :=
      if s.refuses c h o n = true ∨ (h.tgt = 1 ∧ s.lostPlane h o n k.sr.tenant true ≠ none) then List.replicate n 0 else s.loadBytes c h o n
    (∀ (e : QEntry) (i : Fin 4), k.captured = [] → (∀ l : Fin 4, k.q[l] = if l = i then [e] else []) →
      let n := 2 ^ e.width.toNat
      let passed : Prop := e.failed ≠ none ∧ e.handle.tgt ≠ 0 ∧ e.fixed = false ∧ passes e.cls (s.loadSpan c e.handle e.off n)
      (¬ passed → s.pin c p = s) ∧
      (passed → s.tearsLoad c e.handle e.off n = false →
        s.pin c p = s.setCtx c { k with q := k.q.set i [{ e with val := loaded true (now e.handle e.off n), fixed := true }] })) ∧
    (∀ (f : Flight) (sv : Saved) (cls : BitVec 4) (cyc : Nat) (h : Handle) (o n q : Nat) (form : LoadForm), (∀ l : Fin 4, k.q[l] = []) →
      k.uiRet = none → k.trapRet = some sv → sv.flight = [f] → f.redo = some (.load cls cyc h o n q form) → form ≠ .link →
      let passed : Prop := f.arrived = false ∧ f.fixed = false ∧ passes cls (s.loadSpan c h o n)
      let afresh : Prop := f.again = true ∨ s.refuses c h o n = true ∨ (h.tgt = 1 ∧ s.lostPlane h o n k.sr.tenant true ≠ none)
      (¬ passed → s.pin c p = s) ∧
      (passed → s.tearsLoad c h o n = false →
        let r := if afresh then f.res.fill form h q (now h o n) else f.res
        s.pin c p = s.setCtx c { k with trapRet := some { sv with flight := [{ f with res := r, fixed := true }] } }))

/-- R234, R235, R239, R243, R285: a fence stands behind the context's outstanding stores, with the commands it waits for: in class c0 the
context's M commands with operands in the scratchpad, the commands whose own access is of a class in the mask, and for fence.bank its bank
commands. With nothing outstanding it leaves no trace there. From cluster scope on it discards the core's L1 lines. The model's choices here: log
entry 103, that its bundle freezes while a load of those classes is still on its way to another unit; log entry 127, that the loads which a handler
has captured are given their values instead; and log entry 116, that it covers the semwaits of those classes. -/
def Obligations.Fences : Prop :=
  ∀ (s : State) (g : Guard) (mask : BitVec 16) (scope : BitVec 4), s.here.enabled g = true →
    let lines (t : State) : State := if 2 ≤ scope.toNat then { t with lines := t.lines.filter fun p => p.1 != coreOf s.cur } else t
    let behind (cs : List Nat) : State :=
      if s.here.stores = [] ∧ cs = [] then s else s.setHere { s.here with stores := s.here.stores ++ [.fence mask scope cs] }
    let covered (i : Nat) : Prop :=
      (mask.getLsbD 0 = true ∧ ∃ c ∈ s.mcmds, c.ctx = s.cur ∧ c.op.touches = true ∧ c.id = i) ∨
      (∃ n < 16, mask.getLsbD n = true ∧ ∃ c ∈ s.ecmds, c.ctx = s.cur ∧ c.toAccess = some (BitVec.ofNat 4 n) ∧ c.id = i)
    ((∃ n < 16, mask.getLsbD n = true ∧ s.here.late (BitVec.ofNat 4 n) = true) →
      exec (.fenceC g mask scope) s = .next (s.freezePast ⟨mask, []⟩) ∧ exec (.fenceBank g mask scope) s = .next (s.freezePast ⟨mask, []⟩)) ∧
    ((∀ n < 16, mask.getLsbD n = true → s.here.late (BitVec.ofNat 4 n) = false) →
      (∃ cs, exec (.fenceC g mask scope) s = .next (lines (behind cs)) ∧ ∀ i, i ∈ cs ↔ covered i) ∧
      (∃ cs, exec (.fenceBank g mask scope) s = .next (lines (behind cs)) ∧
        ∀ i, i ∈ cs ↔ covered i ∨ ∃ c ∈ s.ecmds, c.ctx = s.cur ∧ c.eng = .bank ∧ c.id = i))

/-! ### The V slot (R129 to R150) -/

/-- R136, R137, R139: lane arithmetic on the integer formats: the exact result wrapped, or clamped under RND[2], the smaller and the larger,
shifts by the whole lane of B, counts of leading zeros and of ones; in lane form. R126, R127, R155: the lowest enabled lane that is clamped
records a saturation, code 5; nothing else records an event. -/
def Obligations.VectorIntegerLanes : Prop :=
  ∀ (s : State) (g : Guard) (d a b : BitVec 5) (f : Fmt) (rnd : BitVec 3), s.here.laneMask g ≠ 0 → fmtIn f →
    let n := f.width
    let va := s.here.regs.rv a
    let vb := s.here.regs.rv b
    let vd := s.here.regs.rv d
    let x (j : Nat) : Int := intLane n va j
    let y (j : Nat) : Int := intLane n vb j
    let u (v : Lanes) (j : Nat) : Nat := ((lane v j).setWidth n).toNat
    let fits (i : Instr) (lat : Nat) (v : Nat → Int) : Prop :=
      s.yieldsLanes g i d lat (fun j => BitVec.ofInt 32 (fitInt n rnd (v j))) (fun j => fitEvent n rnd (v j))
    let code (v : Nat → BitVec n) (j : Nat) : W32 := (v j).signExtend 32
    fits (.vadd g d a b f rnd) 2 (fun j => x j + y j) ∧
    fits (.vsub g d a b f rnd) 2 (fun j => x j - y j) ∧
    fits (.vmul g d a b f rnd) 4 (fun j => x j * y j) ∧
    fits (.vfma g d a b f rnd) 4 (fun j => x j * y j + intLane n vd j) ∧
    fits (.vfms g d a b f rnd) 4 (fun j => intLane n vd j - x j * y j) ∧
    fits (.vabs g d a f rnd) 2 (fun j => |x j|) ∧
    fits (.vneg g d a f rnd) 2 (fun j => -x j) ∧
    s.writesLanes g (.vmin g d a b f false) d 2 (fun j => BitVec.ofInt 32 (min (x j) (y j))) ∧
    s.writesLanes g (.vmax g d a b f false) d 2 (fun j => BitVec.ofInt 32 (max (x j) (y j))) ∧
    s.writesLanes g (.vmin g d a b f true) d 2 (code fun j => BitVec.ofNat n (min (u va j) (u vb j))) ∧
    s.writesLanes g (.vmax g d a b f true) d 2 (code fun j => BitVec.ofNat n (max (u va j) (u vb j))) ∧
    s.writesLanes g (.vshl g d a b f) d 2 (code fun j => (lane va j).setWidth n <<< (lane vb j).toNat) ∧
    s.writesLanes g (.vshr g d a b f) d 2 (code fun j => (lane va j).setWidth n >>> (lane vb j).toNat) ∧
    s.writesLanes g (.vsra g d a b f) d 2 (code fun j => ((lane va j).setWidth n).sshiftRight (lane vb j).toNat) ∧
    s.writesLanes g (.vclz g d a f) d 2 (code fun j => ((lane va j).setWidth n).clz) ∧
    s.writesLanes g (.vpopc g d a f) d 2 (code fun j => ((lane va j).setWidth n).cpop)

/-- R112, R117 to R120, R136 to R138: lane arithmetic on the floating formats: the exact sum or product of the operands' numbers, and of a fused
multiply-add the exact sum with the exact product, as rational numbers, rounded once to the format; quotients, square roots and reciprocal square
roots, rounded once, in FP32 and BF16; and vexp2 in FP32. A root is known by the rationals below and above it: those whose squares are. A sign
operation changes only the sign. The smaller and the larger are chosen by value with −0 below +0; a NaN makes the result the canonical NaN, or with
`.num` gives way to a number. R125: exp2 takes the steps of its procedure, the integer part apart from a fraction whose polynomial is rounded at
every step. R126 to R128, R155: the event recorded is that of the lowest enabled lane with one: a root of a value below zero, a division by
zero, a NaN produced, an overflow, or a saturation; signs, the smaller and the larger record none. -/
def Obligations.VectorFloatLanes : Prop :=
  (∀ c : Nat,
    let x := fp32 c
    let r := (exp2 c).1
    let ev := (exp2 c).2
    let one := 0x3F800000
    (x = .nan → r = 0x7FC00000 ∧ ev = 0) ∧ (x = .inf true → r = 0 ∧ ev = 0) ∧ (x = .inf false → r = 0x7F800000 ∧ ev = 0) ∧
    (∀ neg m e, x = .fin neg m e →
      let f0 := (roundFmt .fp32 0 true (x.add 0 (numOfInt (-⌊x.value⌋)))).1
      let n := if f0 = one then ⌊x.value⌋ + 1 else ⌊x.value⌋
      let f := if f0 = one then 0 else f0
      let t := mulFp32 f (addFp32 0 0x3F320000 (mulFp32 f (addFp32 0 0x3E680000 (mulFp32 f 0x3DA00000))))
      let p := addFp32 0 one t
      (n < -126 → r = 0 ∧ ev = 0) ∧ (127 < n → r = 0x7F800000 ∧ ev = 4) ∧
      (-126 ≤ n → n ≤ 127 →
        if 0x7F800000 ≤ p + n * 2 ^ 23 then r = 0x7F800000 ∧ ev = 4 else r = (p + n * 2 ^ 23 : Int).toNat ∧ ev = 0))) ∧
  ∀ (s : State) (g : Guard) (d a b : BitVec 5) (f : Fmt) (rnd : BitVec 3), s.here.laneMask g ≠ 0 →
    f = .fp32 ∨ f = .bf16 ∨ f = .e4m3 ∨ f = .e5m2 →
    let va := s.here.regs.rv a
    let vb := s.here.regs.rv b
    let vd := s.here.regs.rv d
    let x (j : Nat) := numLane f va j
    let y (j : Nat) := numLane f vb j
    let z (j : Nat) := numLane f vd j
    let each (i : Instr) (lat : Nat) (c : Nat → Nat → Nat → Prop) : Prop :=
      ∃ (v : Nat → W32) (ev : Nat → Nat), s.yieldsLanes g i d lat v ev ∧
        ∀ j < 64, (s.here.laneMask g).getLsbD j = true → c j (v j).toNat (ev j)
    let numbers (j : Nat) : Bool := !(x j).isNan && !(y j).isNan
    let signs (v : W32 → W32) (j : Nat) : W32 :=
      if (x j).isNan = true then BitVec.ofNat 32 f.nanCode else v ((lane va j) &&& BitVec.ofNat 32 (2 ^ f.width - 1))
    each (.vadd g d a b f rnd) 2 (fun j c ev => ∃ p, (x j).plus rnd (y j) p ∧ codes f rnd (numbers j) p c ev) ∧
    each (.vsub g d a b f rnd) 2 (fun j c ev => ∃ p, (x j).plus rnd (y j).negate p ∧ codes f rnd (numbers j) p c ev) ∧
    each (.vmul g d a b f rnd) 4 (fun j c ev => ∃ p, (x j).times (y j) p ∧ codes f rnd (numbers j) p c ev) ∧
    each (.vfma g d a b f rnd) 4 (fun j c ev => ∃ p r, (x j).times (y j) p ∧ p.plus rnd (z j) r ∧
      codes f rnd (numbers j && !(z j).isNan) r c ev) ∧
    each (.vfms g d a b f rnd) 4 (fun j c ev => ∃ p r, (x j).times (y j) p ∧ (z j).plus rnd p.negate r ∧
      codes f rnd (numbers j && !(z j).isNan) r c ev) ∧
    s.writesLanes g (.vabs g d a f rnd) d 2 (signs fun c => c &&& BitVec.ofNat 32 (f.signBit - 1)) ∧
    s.writesLanes g (.vneg g d a f rnd) d 2 (signs fun c => c ^^^ BitVec.ofNat 32 f.signBit) ∧
    (∀ sub : Bool,
      let picks (big : Bool) (j : Nat) : W32 :=
        BitVec.ofNat 32 (pickCode f big sub ((lane va j).toNat % 2 ^ f.width) ((lane vb j).toNat % 2 ^ f.width))
      s.writesLanes g (.vmin g d a b f sub) d 2 (picks false) ∧ s.writesLanes g (.vmax g d a b f sub) d 2 (picks true)) ∧
    (fmtFl f →
      each (.vdiv g d a b f rnd) 14 (fun j => quotientCode f rnd (x j) (y j)) ∧
      each (.vsqrt g d a f rnd) 14 (fun j => rootCode f rnd (x j)) ∧
      each (.vrsqrt g d a f rnd) 14 (fun j => reciprocalRootCode f rnd (x j))) ∧
    (f = .fp32 → s.yieldsLanes g (.vexp2 g d a) d 6 (fun j => BitVec.ofNat 32 (exp2 (lane va j).toNat).1) (fun j => (exp2 (lane va j).toNat).2))

/-- R132, R139, R141, R146, R147, R150: lane logic, moves, selection, permutation, broadcast, insertion, counting and arena addresses; and the
lane that vext moves to a y register. An address beyond the limit is recorded as a saturation of its lane; the others record no event (R155). -/
def Obligations.VectorMoves : Prop :=
  ∀ (s : State) (g : Guard) (d a b y : BitVec 5) (f : Fmt) (ps : BitVec 4) (ln : BitVec 6), s.here.laneMask g ≠ 0 → fmtAr f →
    (s.here.regs.ry y).poison = false →
    let va := s.here.regs.rv a
    let vb := s.here.regs.rv b
    let v := (s.here.regs.ry y).val
    let elem (c : W32) : W32 := if f.isInt then (c.setWidth f.width).signExtend 32 else (c.setWidth f.width).setWidth 32
    s.writesLanes g (.vand g d a b) d 2 (fun j => lane va j &&& lane vb j) ∧
    s.writesLanes g (.vor g d a b) d 2 (fun j => lane va j ||| lane vb j) ∧
    s.writesLanes g (.vxor g d a b) d 2 (fun j => lane va j ^^^ lane vb j) ∧
    s.writesLanes g (.vandn g d a b) d 2 (fun j => lane va j &&& ~~~lane vb j) ∧
    s.writesLanes g (.vmov g d a) d 2 (fun j => lane va j) ∧
    s.writesLanes g (.vsel g d a b ps) d 2 (fun j => if (s.here.regs.rp ps).getLsbD j then lane va j else lane vb j) ∧
    s.writesLanes g (.vperm g d a b) d 2 (fun j => if (lane vb j).toNat < 64 then lane va (lane vb j).toNat else 0) ∧
    s.writesLanes g (.vbcast g d y f) d 2 (fun _ => elem (v.setWidth 32)) ∧
    s.writesLanes g (.viota g d y ln) d 2 (fun j => v.setWidth 32 + BitVec.ofNat 32 (j * ln.toNat)) ∧
    (let beyond (j : Nat) : Prop := v.extractLsb' 32 32 ≠ 0 ∧ v.extractLsb' 32 32 ≤ lane vb j
     s.yieldsLanes g (.agen g d a b y) d 4 (fun j => if beyond j then 0xFFFFFFFF else lane va j + lane vb j * v.setWidth 32)
       (fun j => if beyond j then 5 else 0)) ∧
    ((s.here.laneMask g).getLsbD ln.toNat = true →
      (∃ r, exec (.vins g d y ln f) s = .next (s.lanesGiven d (1 <<< ln.toNat) 2 r none) ∧ lane r ln.toNat = elem (v.setWidth 32)) ∧
      exec (.vext g d y ln f) s = .next (s.elastically (.y y
        ⟨if f.isInt then ((lane (s.here.regs.rv d) ln.toNat).setWidth f.width).signExtend 64
         else ((lane (s.here.regs.rv d) ln.toNat).setWidth f.width).setWidth 64, false⟩) 2)) ∧
    ((s.here.laneMask g).getLsbD ln.toNat = false →
      exec (.vins g d y ln f) s = .next s ∧ exec (.vext g d y ln f) s = .next s)

/-- R140: vcmp writes the bits of the enabled lanes of PD. On integers every condition is that of the signed elements; on floating formats a
NaN is unordered, and other numbers compare by value, so that −0 equals +0. -/
def Obligations.VectorCompares : Prop :=
  ∀ (s : State) (g : Guard) (pd : BitVec 4) (a b : BitVec 5) (cc : VCond) (f : Fmt), s.here.laneMask g ≠ 0 → fmtAr f →
    ∃ v : W64, exec (.vcmp g pd a b cc f) s = .next (s.elastically (.p pd (s.here.laneMask g) v) 2) ∧
      ∀ j < 64,
        let x := intLane f.width (s.here.regs.rv a) j
        let y := intLane f.width (s.here.regs.rv b) j
        let p := numLane f (s.here.regs.rv a) j
        let q := numLane f (s.here.regs.rv b) j
        (fmtIn f → v.getLsbD j =
          match cc with
          | .eq => x == y
          | .ne => x != y
          | .lt => decide (x < y)
          | .le => decide (x ≤ y)
          | .gt => decide (y < x)
          | .ge => decide (y ≤ x)
          | .uo => false
          | .ord => true) ∧
        (¬ fmtIn f → p.isNan = true ∨ q.isNan = true → v.getLsbD j = (cc == .ne || cc == .uo)) ∧
        (¬ fmtIn f → p.isNan = false → q.isNan = false →
          (v.getLsbD j = true ↔
            match cc with
            | .eq => p.place = q.place
            | .ne => p.place ≠ q.place
            | .lt => p.place < q.place
            | .le => p.place ≤ q.place
            | .gt => q.place < p.place
            | .ge => q.place ≤ p.place
            | .uo => False
            | .ord => True))

/-- R121, R131, R142, R143: conversions. vcvt converts each lane, vunpk the elements of one part of a packed register, and vpack puts the
converted lanes into one part of a packed register whose other elements stay. R117, R118, R120: a finite number is rounded to its neighbour in
the direction among the format's magnitudes, extended upward; one beyond the largest finite value becomes that value, an infinity, or in E4M3
the NaN. R121: a floating operand becomes the number of the other format, or the integer it is rounded to, clamped; an integer becomes its
number, or the integer extended, wrapped or clamped. The model's choice here: log entry 29, that an integer converted to an element of a
block-scaled integer format is clamped under every RND. -/
def Obligations.VectorConversions : Prop :=
  (∀ (f : Fmt) (rnd : BitVec 3) (neg : Bool) (m : Nat) (e : Int), f.isFloat = true →
    let sat := rnd.getLsbD 2
    let dir := rnd.toNat % 4
    let code (x : Machine.Num) : Nat := (roundFmt f rnd.toNat true x).1
    let event (x : Machine.Num) : Nat := (roundFmt f rnd.toNat true x).2
    let c := code (.fin neg m e)
    let beyond (c : Nat) : Prop := if f = .e4m3 then c = f.nanCode else numOf f c = .inf neg
    let most (c : Nat) : Prop := (numOf f c).neg? = neg ∧ (numOf f c).size = (maxF f : WithTop ℚ)
    c < 2 ^ f.width ∧
    (∃ r : ℚ, roundsTo dir neg (magnitudes f) (m * 2 ^ e) r ∧
      (r ≤ maxF f → event (.fin neg m e) = 0 ∧ (numOf f c).neg? = neg ∧ (numOf f c).size = (r : WithTop ℚ)) ∧
      (maxF f < r → event (.fin neg m e) = (if f = .mxfp4 ∨ sat = true then 5 else 4) ∧
        if f = .mxfp4 ∨ sat = true ∨ dir = 1 ∨ (dir = 2 ∧ neg = false) ∨ (dir = 3 ∧ neg = true) then most c else beyond c)) ∧
    (if f = .mxfp4 ∨ (f = .e4m3 ∧ sat = true) then most (code (.inf neg)) else beyond (code (.inf neg))) ∧
    (event (.inf neg) = if f = .mxfp4 ∨ (f = .e4m3 ∧ sat = true) then 5 else if f = .e4m3 then 3 else 0) ∧
    (code .nan = if f = .mxfp4 then 0 else f.nanCode) ∧
    (event .nan = if f = .mxfp4 then 5 else 3) ∧ (roundFmt f rnd.toNat false .nan).2 = (if f = .mxfp4 then 5 else 0) ∧
    (∀ x, x ≠ .nan → roundFmt f rnd.toNat false x = roundFmt f rnd.toNat true x)) ∧
  (∀ (src dst : Fmt) (rnd : BitVec 3) (c : Nat), c < 2 ^ src.width →
    let n := dst.width
    let got := (convert src dst rnd.toNat c).1
    let ev := (convert src dst rnd.toNat c).2
    let v : Int := signedOf src.width c
    let top : Int := 2 ^ (n - 1)
    let clamped (i : Int) : Prop :=
      (BitVec.ofNat n got).toInt = max (-top) (min (top - 1) i) ∧ ev = if i < -top ∨ top ≤ i then 5 else 0
    (src.isFloat = true → dst.isFloat = true → convert src dst rnd.toNat c = roundFmt dst rnd.toNat false (numOf src c)) ∧
    (src.isFloat = true → dst.isFloat = false →
      (numOf src c = .nan → got = 0 ∧ ev = 5) ∧ (∀ neg, numOf src c = .inf neg → clamped (if neg then -top - 1 else top)) ∧
      (∀ neg m e, numOf src c = .fin neg m e →
        ∃ k : Nat, roundsTo (rnd.toNat % 4) neg { r | ∃ i : Nat, r = i } (m * 2 ^ e) k ∧ clamped (if neg then -k else k))) ∧
    (src.isFloat = false → dst.isFloat = true → convert src dst rnd.toNat c = roundFmt dst rnd.toNat true (numOfInt v)) ∧
    (src.isFloat = false → dst.isFloat = false →
      (src.width ≤ n ∨ rnd.getLsbD 2 = true ∨ dst.isMx = true → clamped v) ∧
      (n < src.width → rnd.getLsbD 2 = false → dst.isMx = false → got % 2 ^ n = c % 2 ^ n ∧ ev = 0))) ∧
  ∀ (s : State) (g : Guard) (d a : BitVec 5) (src dst : Fmt) (hs rnd : BitVec 3), s.here.laneMask g ≠ 0 →
    let va := s.here.regs.rv a
    (fmtArMx src → fmtArMx dst →
      let made (j : Nat) := convert src dst rnd.toNat ((lane va j).toNat % 2 ^ src.width)
      s.yieldsLanes g (.vcvt g d a src dst rnd) d 3 (fun j => laneOf dst (made j).1) (fun j => (made j).2)) ∧
    (fmtPk src → fmtArMx dst → hs.toNat < src.parts →
      let made (j : Nat) := convert src dst rnd.toNat (packedElem (stringOf va) src.width (64 * hs.toNat + j))
      s.yieldsLanes g (.vunpk g d a src dst hs rnd) d 3 (fun j => laneOf dst (made j).1) (fun j => (made j).2)) ∧
    (fmtArMx src → fmtPk dst → hs.toNat < dst.parts →
      ∃ r ev, exec (.vpack g d a src dst hs rnd) s = .next (s.lanesGiven d (BitVec.allOnes 64) 3 r ev) ∧
        s.recordsLanes (s.here.laneMask g) (fun j => (convert src dst rnd.toNat ((lane va j).toNat % 2 ^ src.width)).2) ev ∧
        ∀ e < 64 * dst.parts, packedElem (stringOf r) dst.width e =
          if 64 * hs.toNat ≤ e ∧ e < 64 * hs.toNat + 64 ∧ (s.here.laneMask g).getLsbD (e - 64 * hs.toNat) = true then
            (convert src dst rnd.toNat ((lane va (e - 64 * hs.toNat)).toNat % 2 ^ src.width)).1 % 2 ^ dst.width
          else packedElem (stringOf (s.here.regs.rv d)) dst.width e)

/-- R144, R145: reductions and prefix sums. Every enabled lane of a group gets the combination of the group's enabled lanes: in INT32 their sum,
the largest or the smallest; in FP32 the value of the balanced tree that rounds, or chooses, at every node. A prefix sum adds the enabled lanes in
ascending order, rounding (FP32), wrapping or clamping (INT32) at every step. Of the events in a group the first in the table of R127 is
recorded at its lowest enabled lane, and a prefix sum's at the lane whose addition has it; the largest and the smallest record none (R155). -/
def Obligations.VectorReductions : Prop :=
  ∀ (s : State) (g : Guard) (d a b : BitVec 5) (f : Fmt) (grp sub : BitVec 2) (rnd : BitVec 3), s.here.laneMask g ≠ 0 → fmtRed f →
    let m := s.here.laneMask g
    let x (j : Nat) : Int := intLane 32 (s.here.regs.rv a) j
    let size := 64 / 2 ^ grp.toNat
    let group (j : Nat) : Finset Nat := (Finset.range 64).filter fun i => i / size = j / size ∧ m.getLsbD i = true
    let before (j : Nat) : Finset Nat := (Finset.range 64).filter fun i => i < j ∧ m.getLsbD i = true
    let start : Int := if sub.getLsbD 1 then intLane 32 (s.here.regs.rv b) 63 else 0
    let code (j : Nat) : Nat := (lane (s.here.regs.rv a) j).toNat
    let grouped (node : Nat → Nat → Nat) (v : Nat → W32) : Prop :=
      ∀ j < 64, m.getLsbD j = true →
        ∃ c, treeVal node (fun k => if m.getLsbD k then some (code k) else none) (6 - grp.toNat) (j / size * size) = some c ∧
          v j = BitVec.ofNat 32 (cleanFp32 c)
    let running (add : Nat → Nat → Nat) : Nat → Nat :=
      scanVal add m.getLsbD code (if sub.getLsbD 1 then (lane (s.here.regs.rv b) 63).toNat else 0)
    let addInt (x y : Nat) : Nat := (BitVec.ofInt 32 (fitInt 32 rnd ((BitVec.ofNat 32 x).toInt + (BitVec.ofNat 32 y).toInt))).toNat
    let at_ (j : Nat) : Nat := if sub.getLsbD 0 then j else j + 1
    let sums (p q : Nat × Nat) : Nat × Nat :=
      (addFp32 rnd.toNat p.1 q.1, firstCode (firstCode p.2 q.2) (addEvent rnd.toNat p.1 q.1))
    (∃ v ev, s.yieldsLanes g (.vredadd g d a f grp rnd) d 6 v ev ∧
      (f = .int32 → ∀ j < 64, m.getLsbD j = true →
        v j = BitVec.ofInt 32 (fitInt 32 rnd (∑ i ∈ group j, x i)) ∧ ev j = fitEvent 32 rnd (∑ i ∈ group j, x i)) ∧
      (f = .fp32 → ∀ j < 64, m.getLsbD j = true →
        ∃ c, treeVal sums (fun k => if m.getLsbD k then some (code k, 0) else none) (6 - grp.toNat) (j / size * size) = some (c, ev j) ∧
          v j = BitVec.ofNat 32 (cleanFp32 c))) ∧
    (∃ v, s.writesLanes g (.vredmax g d a f grp) d 6 v ∧
      (f = .int32 → ∀ j < 64, m.getLsbD j = true → (∀ i ∈ group j, x i ≤ (v j).toInt) ∧ ∃ i ∈ group j, x i = (v j).toInt) ∧
      (f = .fp32 → grouped (pickCode .fp32 true false) v)) ∧
    (∃ v, s.writesLanes g (.vredmin g d a f grp) d 6 v ∧
      (f = .int32 → ∀ j < 64, m.getLsbD j = true → (∀ i ∈ group j, (v j).toInt ≤ x i) ∧ ∃ i ∈ group j, x i = (v j).toInt) ∧
      (f = .fp32 → grouped (pickCode .fp32 false false) v)) ∧
    (∃ v ev, s.yieldsLanes g (.vscan g d a b f sub rnd) d 6 v ev ∧
      (f = .int32 → rnd.getLsbD 2 = false → ∀ j < 64, m.getLsbD j = true →
        v j = BitVec.ofInt 32 (start + (∑ i ∈ before j, x i) + if sub.getLsbD 0 then 0 else x j)) ∧
      (f = .int32 → ∀ j < 64, m.getLsbD j = true → v j = BitVec.ofNat 32 (running addInt (at_ j)) ∧
        ev j = fitEvent 32 rnd ((BitVec.ofNat 32 (running addInt j)).toInt + x j)) ∧
      (f = .fp32 → ∀ j < 64, m.getLsbD j = true →
        v j = BitVec.ofNat 32 (cleanFp32 (running (addFp32 rnd.toNat) (at_ j))) ∧
        ev j = addEvent rnd.toNat (running (addFp32 rnd.toNat) j) (code j)))

/-- R148, R149: a sorted-index merge completes, with one entry for each lane. For any contents of A and B, entry n compares the lanes at which
the two lists stand: it is the lower index, with the lanes that supplied it, and each list with that index goes on; once both stand at SENT or
beyond lane 63 the entries are SENT. So for lists in ascending order without repeats the entries are the union of their indices in ascending order,
each with its lane of A and of B, or SENT. In mode `.sq` they are the lanes of A at which B is not an exact zero, in lane order, and then SENT. -/
def Obligations.VectorMerges : Prop :=
  ∀ (s : State) (g : Guard) (d a b : BitVec 5) (f : Fmt) (mode : BitVec 2), s.here.laneMask g ≠ 0 →
    let va := s.here.regs.rv a
    let vb := s.here.regs.rv b
    let sent : Nat := 0xFFFFFFFF
    let x (i : Nat) : Nat := (lane va i).toNat
    let y (j : Nat) : Nat := (lane vb j).toNat
    let sorted (l : Nat → Nat) : Prop := ∀ j < 64, ∀ i < j, l i < l j ∨ l j = sent
    let both : Finset Nat := ((Finset.range 64).image x ∪ (Finset.range 64).image y).filter fun e => e < sent
    let entry (n : Nat) : Nat := ((both.sort (· ≤ ·))[n]?).getD sent
    let supplied (l : Nat → Nat) (v : Nat → W32) : Prop :=
      ∀ n < 64, (entry n ≠ sent → ∀ i < 64, l i = entry n → v n = BitVec.ofNat 32 i) ∧
        (entry n = sent ∨ (∀ i < 64, l i ≠ entry n) → v n = 0xFFFFFFFF)
    let nonzero : List Nat := (List.range 64).filter fun i =>
      if f = .fp32 then decide ((lane vb i).toNat % 2 ^ 31 ≠ 0)
      else if f = .bf16 then decide ((lane vb i).toNat % 2 ^ 15 ≠ 0) else decide (lane vb i ≠ 0)
    (mode ≠ 3 → ∃ (v : Nat → W32) (i j : Nat → Nat), s.writesLanes g (.vmerge g d a b f mode) d 8 v ∧ i 0 = 0 ∧ j 0 = 0 ∧
      (∀ n < 64,
        let p := if i n < 64 then x (i n) else sent
        let q := if j n < 64 then y (j n) else sent
        (p = sent → q = sent → v n = 0xFFFFFFFF ∧ i (n + 1) = i n ∧ j (n + 1) = j n) ∧
        (p ≠ sent ∨ q ≠ sent →
          i (n + 1) = (if p ≤ q then i n + 1 else i n) ∧ j (n + 1) = (if q ≤ p then j n + 1 else j n) ∧
          (mode = 0 → v n = BitVec.ofNat 32 (min p q)) ∧ (mode = 1 → v n = if p ≤ q then BitVec.ofNat 32 (i n) else 0xFFFFFFFF) ∧
          (mode = 2 → v n = if q ≤ p then BitVec.ofNat 32 (j n) else 0xFFFFFFFF))) ∧
      (sorted x → sorted y →
        (mode = 0 → ∀ n < 64, v n = BitVec.ofNat 32 (entry n)) ∧ (mode = 1 → supplied x v) ∧ (mode = 2 → supplied y v))) ∧
    (mode = 3 → s.writesLanes g (.vmerge g d a b f mode) d 8 (fun j => ((nonzero.map (lane va))[j]?).getD 0xFFFFFFFF))

/-! ### The M slot (R156 to R175, R311, R315) -/

/-- R159, R161 to R163, R169: a tile product reads its operands and, in a block-scaled format, its scales at issue, and goes to the array
unit's queue. mmaz starts from zero, but for the repetitions of a repeat after the first (R178). What refuses a product's operands: a base that
is no multiple of 256 raises ALIGNMENT, and A and B in one bank group raise BANK_CONFLICT; a tile outside the allotment raises PRIVILEGE (R157). -/
def Obligations.Products : Prop :=
  (∀ (s : State) (g : Guard) (ac a b : BitVec 5) (f : Fmt) (ca dm : Bool) (sp : BitVec 3), s.here.enabled g = true → s.takesM →
     (f.isMx = true → ∀ c ∈ s.mcmds, c.ctx = s.cur → c.op.scales = []) →
     (s.here.regs.ry a).poison = false → (s.here.regs.ry b).poison = false →
     let oa := opndOf (s.here.regs.ry a).val
     let ob := opndOf (s.here.regs.ry b).val
     s.opndOk oa (imageBytes f ca) → s.opndOk ob (imageBytes f false) → bankGroup oa.base ≠ bankGroup ob.base →
     s.here.hasTile ac.toNat = true →
     let map := if dm then some (s.dupBehind s.cur) else none
     let sc (i : Nat) : Lanes := if f.isMx then vget s.here.regs.sc (2 * sp.toNat + i) Lanes.zero else Lanes.zero
     exec (.mma g ac a b f ca dm sp) s = .next (s.mIssued (.mma false f ca map ac.toNat oa ob (sc 0) (sc 8) (sc 1) (sc 9))) ∧
     exec (.mmaz g ac a b f ca dm sp) s =
       .next (s.mIssued (.mma (match s.here.rep with | none => true | some p => p.r == 0) f ca map ac.toNat oa ob (sc 0) (sc 8) (sc 1) (sc 9)))) ∧
  (∀ (s : State) (g : Guard) (ac a b : BitVec 5) (f : Fmt) (ca dm : Bool) (sp : BitVec 3), s.here.enabled g = true →
     (s.here.regs.ry a).poison = false → (s.here.regs.ry b).poison = false →
     let oa := opndOf (s.here.regs.ry a).val
     let ob := opndOf (s.here.regs.ry b).val
     (oa.base % 256 ≠ 0 → exec (.mma g ac a b f ca dm sp) s = .next (s.takeTrap (bundleTrap 6 .M oa.base))) ∧
     (s.opndOk oa (imageBytes f ca) → s.opndOk ob (imageBytes f false) →
       (bankGroup oa.base = bankGroup ob.base → exec (.mma g ac a b f ca dm sp) s = .next (s.takeTrap (bundleTrap 9 .M (2 ^ 63 + ob.base)))) ∧
       (bankGroup oa.base ≠ bankGroup ob.base → s.here.hasTile ac.toNat = false →
         exec (.mma g ac a b f ca dm sp) s = .next (s.takeTrap (bundleTrap 5 .M 0)))))

/-- R159, R171 to R175: the other commands of the M slot, with what they read at issue, and macv, which brings a row of a tile. -/
def Obligations.MatrixCommandsIssue : Prop :=
  ∀ (s : State) (g : Guard) (ac src y v : BitVec 5) (f : Fmt) (sc : BitVec 4) (cmp t : Bool) (rnd : BitVec 3) (k row : BitVec 6),
    s.here.enabled g = true → s.takesM → (s.here.regs.ry y).poison = false →
    let o := opndOf (s.here.regs.ry y).val
    let line := if y = 0 then row.toNat else ((s.here.regs.ry y).val.toNat % 64 + row.toNat) % 64
    exec (.mhld g y k) s = .next (s.mIssued (.mhld k.toNat (s.here.regs.ry y).val)) ∧
    exec (.mdmap g y k) s = .next (s.mIssued (.mdmap k.toNat ((s.here.regs.ry y).val.setWidth 6))) ∧
    exec (.mdclr g) s = .next (s.mIssued .mdclr) ∧
    (s.here.hasTile ac.toNat = true →
      exec (.mrot g ac k) s = .next (s.mIssued (.mrot ac.toNat (s.signBehind s.cur k.toNat))) ∧
      exec (.mzero g ac) s = .next (s.mIssued (.mzero ac.toNat)) ∧
      exec (.mvac g ac y v row) s = .next (s.mIssued (.mvac ac.toNat line (s.here.regs.rv v))) ∧
      (s.here.hasTile src.toNat = true → exec (.mcopy g ac src t) s = .next (s.mIssued (.mcopy ac.toNat src.toNat t))) ∧
      (s.opndOk o (imageBytes f cmp) →
        exec (.mdrain g ac y f sc cmp rnd) s = .next (s.mIssued (.mdrain ac.toNat o f sc.toNat cmp rnd))) ∧
      (s.opndOk o 16384 →
        exec (.mldac g ac y) s = .next (s.mIssued (.mldac ac.toNat o)) ∧ exec (.mstac g ac y) s = .next (s.mIssued (.mstac ac.toNat o))) ∧
      (s.Inv → s.writeBusy (coreOf s.cur) ac.toNat = false →
        exec (.macv g ac y v row) s = .next (s.exactly (.v v (BitVec.allOnes 64)
          (Vector.ofFn fun j : Fin 64 => s.tileElem (coreOf s.cur) ac.toNat line j.val)) 1)))

/-- R307, R311, R313, R315: mcon and mord with a step record, a boundary and, for mcon, a core that pass their checks: the bond register gets
the new boundary in the next cycle, and the command goes to the array unit's queue. The model's choice here: log entry 141, that a NEXT which
is not below D names a bin modulo D. -/
def Obligations.BoundaryCommandsIssue : Prop :=
  ∀ (s : State) (g : Guard) (ac : BitVec 5) (wc bd : BitVec 3) (y : BitVec 5) (f : Fmt), s.here.enabled g = true → s.Quiet →
    (s.here.regs.ry y).poison = false →
    let at_ := (s.here.regs.ry y).val.toNat
    let r : W64 := BitVec.ofNat 64 (leNat (s.spadBytes at_ 8))
    let b := s.here.regs.rb bd
    let w := s.here.regs.rw wc
    let bin := s.bin (binKey (clusterOf s.cur) (w.bin (w.next + w.depth - 1)))
    let c := coreRec (s.spadBytes (bin.base.toNat + 64) 32)
    let dir := r.getLsbD 56
    s.localOk at_ 8 8 → boundaryOk s.here ac.toNat b = true → bRows b % (recN r * recS r) = 0 →
    (recordOk r 1 = true →
      exec (.mord g ac bd y) s =
        .next ((s.exactly (.b bd (bWord (bRows b) (1 - bSide b) (bCap b) (bBond b))) 1).mIssued (.mord ac.toNat r b))) ∧
    (recordOk r 0 = true → w.state = 2 → bin.state = 3 → bin.tenant = some s.here.sr.tenant → c.ok = true → c.fmt = f.code →
      c.md = recM r * recN r → (if dir then c.rb else c.lb) = bBond b → bRows b / recN r * recM r ≤ 64 * bCap b →
      let new := bWord (bRows b / recN r * recM r) (1 - bSide b) (bCap b) (if dir then c.lb else c.rb)
      exec (.mcon g ac wc bd y f) s =
        .next ((s.exactly (.b bd new) 1).mIssued (.mcon f ac.toNat r dir b new c.lb c.md c.rb (bin.base.toNat + 128))))

/-- R124, R156, R159, R164, R165, R169, R171 to R175, R308, R312, R315: what started matrix commands leave when they complete. A product adds the
sums of products: in INT8 modulo 2^32, in the other formats block by block in FP32, from plain or compressed images and through a duplication map.
mrot rotates a tile; mdrain writes a tile's image and, in a block-scaled format, its scales; mldac and mstac move a whole tile; mcon contracts a
boundary with a core and mord reorders one; mzero, mcopy and mvac set elements of their tile; mhld, mdmap and mdclr change the context's tables.
Elements of no tile that the command writes are unchanged, and memory is, but for a command that writes to it. The model's choices here: log entry
14. -/
def Obligations.MatrixEffects : Prop :=
  ∀ (s : State) (c : MCmd), s.Inv → s.findM c.id = some c → c.stage = .started → c.live = true →
    (c.op.touches = true → ∀ d ∈ s.mcmds, d.ctx = c.ctx → d.id < c.id → d.op.touches = false) →
    let core := coreOf c.ctx
    let cl := clusterOf c.ctx
    let old (t i j : Nat) : Nat := (s.tileElem core t i j).toNat
    ∃ t, exec (.mCommandComplete c.id) s = .next t ∧
      ((∀ f ac rec dir old new lb md rb p, c.op = .mcon f ac rec dir old new lb md rb p → bSide new ≠ bSide old) →
        ∀ key, (∀ w ∈ c.op.tilesW, key < tileKey core w ∨ tileKey core w + 4096 ≤ key) → cellAt t.tiles key = cellAt s.tiles key) ∧
      (c.op.writes = [] → t.mem = s.mem) ∧
      (∀ z f ca map a b sa0 sa1 sb0 sb1 ac, c.op = .mma z f ca map ac a b sa0 sa1 sb0 sb1 →
        let ia := a.gather s.mem cl (imageBytes f ca)
        let ib := b.gather s.mem cl (imageBytes f false)
        let x (i k : Nat) : Nat := if ca then ((expandImage ia f.width 128 0)[64 * i + k]?).getD 0 else elemOf (leNat ia) f.width i k
        let y (j k : Nat) : Nat :=
          elemOf (leNat ib) f.width j (match map with | none => k | some m => match vget m k none with | none => k | some n => n.toNat)
        ∀ i < 64, ∀ j < 64,
          (f = .int8 → t.tileElem core ac i j = (if z then 0 else s.tileElem core ac i j) +
            BitVec.ofInt 32 (∑ k ∈ Finset.range 64, (BitVec.ofNat 8 (x i k)).toInt * (BitVec.ofNat 8 (y j k)).toInt)) ∧
          (f ≠ .int8 → t.tileElem core ac i j = BitVec.ofNat 32 (
            blockAdded f (fun k => x i (32 + k)) (fun k => y j (32 + k)) (lane sa1 i) (lane sb1 j)
              (blockAdded f (x i) (y j) (lane sa0 i) (lane sb0 j) (if z then 0 else old ac i j))))) ∧
      (∀ ac slot, c.op = .mrot ac slot → ∀ i < 64, ∀ j < 64,
        let flips (n : Nat) : Bool := xor (slot.getLsbD n) ((∑ b ∈ Finset.range 6, (n &&& j) / 2 ^ b % 2) % 2 = 1)
        let term (n : Nat) : Nat := if flips n then old ac i n ^^^ 0x80000000 else old ac i n
        t.tileElem core ac i j = BitVec.ofNat 32 (mulFp32 ((treeVal (addFp32 0) (fun n => some (term n)) 6 0).getD 0) 0x3E000000)) ∧
      (∀ ac o f sc cmp rnd, c.op = .mdrain ac o f sc cmp rnd → 0 < o.pitch → (f.isMx = true → sc < 8) →
        let scaleAt (b i : Nat) : W32 := lane (vget (t.ctx c.ctx).regs.sc (sc + 8 * b) Lanes.zero) i
        (o.gather t.mem cl (imageBytes f cmp) = drainImage f cmp fun e =>
          (drainElem f rnd.toNat (scaleAt (e % 64 / 32) (e / 64)).toNat (old ac (e / 64) (e % 64))).1) ∧
        (f.isMx = true → ∀ b < 2, ∀ i < 64,
          let v (k : Nat) : Machine.Num := fp32 (old ac i (32 * b + k))
          ((∃ k < 32, (v k).isNan = true) → scaleAt b i = 0x7FC00000) ∧
          ((∀ k < 32, (v k).isNan = false) →
            ((∀ k < 32, (v k).isZero = true) → scaleAt b i = 0x3F800000) ∧
            ((∃ k < 32, (v k).size = ⊤) → scaleAt b i = 0x7F000000) ∧
            ((∃ k < 32, (v k).isZero = false) → ∀ e : Int,
              (∀ n : Int, (∀ k < 32, (v k).size ≤ (((emax f : ℚ) * 2 ^ n : ℚ) : WithTop ℚ)) ↔ e ≤ n) →
              scaleAt b i = BitVec.ofInt 32 ((max (-126) (min 127 e) + 127) * 2 ^ 23)))) ∧
        (∀ key, (∀ a ∈ o.stripes (imageBytes f cmp), key < spadKey cl a ∨ spadKey cl a + 256 ≤ key) → cellAt t.mem key = cellAt s.mem key)) ∧
      (∀ ac o, c.op = .mldac ac o → ∀ i < 64, ∀ j < 64, t.tileElem core ac i j =
        BitVec.ofNat 32 (leNat (((o.gather s.mem cl 16384).drop (256 * i + 4 * j)).take 4))) ∧
      (∀ ac o, c.op = .mstac ac o → 0 < o.pitch →
        (o.gather t.mem cl 16384 = (List.range 4096).flatMap fun e => leBytes 4 (old ac (e / 64) (e % 64))) ∧
        (∀ key, (∀ a ∈ o.stripes 16384, key < spadKey cl a ∨ spadKey cl a + 256 ≤ key) → cellAt t.mem key = cellAt s.mem key)) ∧
      (∀ f ac rec dir b new lb md rb p, c.op = .mcon f ac rec dir b new lb md rb p → bSide new ≠ bSide b → bBond b ≤ 64 →
        let g := leNat (readCells s.mem (spadKey cl p) (coreWidth f.code * lb * md * rb))
        let n := recN rec
        ∀ i < bCap b, ∀ j < 64, ∀ c' < 64,
          let r := 64 * i + j
          let q := r / (recS rec * recM rec)
          let x (k m : Nat) : Nat := s.boundaryElem core ac b ((q * n + k) * recS rec + r % recS rec) m
          let y (k m : Nat) : Nat :=
            bits g (f.width * (((if dir then c' else m) * md + (r / recS rec % recM rec * n + k)) * rb + if dir then m else c')) f.width
          t.tileElem core (ac + bSide new * bCap b + i) j c' =
            if r < bRows new ∧ c' < bBond new then
              if f = .int8 then BitVec.ofInt 32 (∑ k ∈ Finset.range n, ∑ m ∈ Finset.range (bBond b),
                (BitVec.ofNat 32 (x k m)).toInt * (BitVec.ofNat 8 (y k m)).toInt)
              else BitVec.ofNat 32 (((List.range n).flatMap fun k => (List.range (bBond b)).map fun m => mulFp32 (x k m) (toFp32 f (y k m))).foldl
                (addFp32 0) 0)
            else 0) ∧
      (∀ ac rec b, c.op = .mord ac rec b → ∀ i < bCap b, ∀ j < 64, ∀ c' < 64,
        let r := 64 * i + j
        let n := recN rec
        let src := (r / (n * recS rec) * n + r % n) * recS rec + r / n % recS rec
        t.tileElem core (ac + (1 - bSide b) * bCap b + i) j c' =
          if r < bRows b ∧ c' < bBond b then BitVec.ofNat 32 (s.boundaryElem core ac b src c') else 0) ∧
      (∀ ac, c.op = .mzero ac → ∀ i < 64, ∀ j < 64, t.tileElem core ac i j = 0) ∧
      (∀ ac src tr, c.op = .mcopy ac src tr →
        ∀ i < 64, ∀ j < 64, t.tileElem core ac i j = if tr then s.tileElem core src j i else s.tileElem core src i j) ∧
      (∀ ac row v, c.op = .mvac ac row v → row < 64 → ∀ j < 64, t.tileElem core ac row j = lane v j) ∧
      (∀ k v, c.op = .mhld k v → k < 64 → vget (t.ctx c.ctx).sign k 0 = v) ∧
      (∀ k v, c.op = .mdmap k v → k < 64 → vget (t.ctx c.ctx).dup k none = some v) ∧
      (c.op = .mdclr → (∀ k < 64, vget (t.ctx c.ctx).dup k none = none))

/-- R159, R160, R161, R235: a matrix command in the elastic buffer enters its unit's queue once that has room, the oldest of an idle unit
starts once nothing it comes after is outstanding, and a started one completes and leaves the engine, one with operands in the scratchpad after the
context's earlier ones (R243). The model's choices here: log entry 63. -/
def Obligations.MatrixCommandSteps : Prop :=
  ∀ (s : State) (c : MCmd), s.findM c.id = some c →
    (c.stage = .buffer → mRoom s (coreOf c.ctx) c.op = true →
      exec (.mQueueEntry c.id) s = .next (s.putM { c with stage := .queued })) ∧
    (c.stage = .queued → c.waitsFor s = false →
      (∀ d ∈ s.mcmds, coreOf d.ctx = coreOf c.ctx → d.op.drain = c.op.drain → d.stage ≠ .started ∧ (d.stage = .queued → c.id ≤ d.id)) →
      (∀ i ∈ c.after, i ∉ s.outstanding c.ctx) →
      exec (.mCommandStart c.id) s = .next (s.putM { c with stage := .started })) ∧
    (c.stage = .started → (c.op.touches = true → ∀ d ∈ s.mcmds, d.ctx = c.ctx → d.id < c.id → d.op.touches = false) →
      ∃ t, exec (.mCommandComplete c.id) s = .next t ∧ t.findM c.id = none)

/-! ### The E slot (R245 to R306, R362 to R381) -/

/-- R52, R253, R255, R264 to R266, R284, R381: copy, copyg, copyx, bank and xfer with operands that pass the checks at issue put a command
with everything they read into their engine, under a new token. R268: copyg and copyx read their list or record as an access of class c0, and come
after the context's earlier ones (R231, R239). The model's choices here: log entries 33 to 35; log entry 103, that their bundle freezes while a load
of class c0 is on its way. -/
def Obligations.TransfersIssue : Prop :=
  ∀ (s : State) (g : Guard) (k : KE) (st : Bool) (hn : BitVec 4) (q : BitVec 3), s.here.enabled g = true → s.takesCommand →
    let h := s.here.regs.rh hn
    let v := s.quadVal q
    let gives (eng : Engine) (op : EOp) : Host.Outcome State Fault Refusal := .next (s.commanded k.kd [k.ka, k.kb, k.kc] eng op [])
    let accesses (op : EOp) : Host.Outcome State Fault Refusal :=
      if s.here.late 0 then .next (s.freezePast (.ofClass 0))
      else .next (s.commanded k.kd [k.ka, k.kb, k.kc] .copy op (storeIds (some 0) s.here.stores ++ s.classCmds s.cur 0))
    let localAt (lw : W64) (n : Nat) : Prop := lwKind lw = 0 ∧ lwAddr lw % 32 = 0 ∧ s.here.allots (lwAddr lw) n = true
    let o := (v 0).toNat
    let n := (v 2).toNat
    (s.quadClean q [0, 1, 2, 3] → h.grants st → s.optionsOk st (v 3) → o % 32 = 0 → n % 32 = 0 → 32 ≤ n → n ≤ 1048576 →
      (ctlExp (v 3) = true → n % (512 * ctlWidth (v 3)) = 0) → o + pageSpan (v 3) n ≤ pageBytes h.size →
      (localAt (v 1) n ∨ (lwKind (v 1) = 1 ∧ n = 16384 ∧ ctlBin (v 3) = false ∧ ctlExp (v 3) = false ∧ ctlFull (v 3) = false ∧
        lwAddr (v 1) / 32 = 0 ∧ s.here.hasTile (lwAddr (v 1)) = true)) →
      exec (.copy g k st hn q) s = gives .copy (.copy st h o (v 1) n (v 3))) ∧
    (let cnt := n % 2 ^ 32
     let row := n / 2 ^ 32
     s.quadClean q [0, 1, 2, 3] → h.grants st → s.optionsOk st (v 3) → row % 32 = 0 → 32 ≤ row → row ≤ 4096 → 1 ≤ cnt → cnt ≤ 4096 →
      cnt * row ≤ 1048576 → localAt (v 1) (cnt * row) → o % 4 = 0 → s.here.allots o (4 * cnt) = true →
      exec (.copyg g k st hn q) s = accesses (.copyg st h o (v 1) (v 2) (v 3))) ∧
    (let l := s.here.regs.rl ((v 0).setWidth 3)
     s.quadClean q [0, 1, 3] → h.grants st → s.optionsOk st (v 3) → lwKind (v 1) = 0 → lwAddr (v 1) % 32 = 0 →
      l.toNat % 2 ^ 23 % 32 = 0 → s.here.allots (l.toNat % 2 ^ 23) 32 = true →
      exec (.copyx g k st hn q) s = accesses (.copyx st h l (v 1) (v 3))) ∧
    (let m := (v 3).toNat % 2 ^ 16
     let kk := (v 3).toNat / 2 ^ 16 % 2 ^ 16
     let w := if h.bankl = 1 then 1 else 2
     s.quadClean q [0, 1, 2, 3] → h.grants false → (h.bankl = 1 ∨ h.bankl = 2) → o % 256 = 0 → (v 1).toNat % 32 = 0 → n % 32 = 0 →
      1 ≤ m → m ≤ 4096 → 64 ≤ kk → kk ≤ 16384 → kk % 64 = 0 → o + m * kk * w ≤ pageBytes h.size →
      s.here.allots (v 1).toNat (kk * w) = true → s.here.allots n (4 * m) = true →
      exec (.bank g k hn q) s = gives .bank (.bank h o (v 1).toNat n m kk)) ∧
    (let len := (v 3).toNat
     s.quadClean q [0, 1, 2, 3] → h.grants st → o % 32 = 0 → len % 32 = 0 → 32 ≤ len → len ≤ 16777216 → o + len ≤ pageBytes h.size →
      exec (.xfer g k st hn q) s = gives .copy (.xfer st h o ((v 1).toNat % 2 ^ 20) (v 2) len))

/-- R247, R258, R278, R293, R298, R299, R306: the commands of the buffer unit, the token unit and the gleaner at issue, with what walk,
chain and wrest leave in their cursor. A command that makes an access of a class comes after the context's earlier ones (R231, R239), and binrel
after all of them. The model's choices here: log entry 103, that semwait, wsave, wrest and binrel freeze over loads still on their way; log entry 116,
that a semwait's class orders its test, against the general words of R257 and the runs of the simulator; log entry 126, that a walk stands among
the commands of its core with the bytes of its landing places. -/
def Obligations.UnitCommandsIssue : Prop :=
  ∀ (s : State) (g : Guard) (k : KE) (wc q : BitVec 3) (eq : Bool) (cls : BitVec 4) (f : BitVec 2), s.here.enabled g = true → s.takesCommand →
    let v := s.quadVal q
    let bin := (v 0).toNat / 2 ^ 48 % 2 ^ 8
    let gives (t : State) (eng : Engine) (op : EOp) (extra : List Nat) : Host.Outcome State Fault Refusal :=
      .next (t.commanded k.kd [k.ka, k.kb, k.kc] eng op extra)
    (s.quadClean q [0] → s.binMine bin →
      ((∃ n < 16, s.here.late (BitVec.ofNat 4 n) = true) → exec (.binrel g k q) s = .next (s.freezePast .all)) ∧
      ((∀ n < 16, s.here.late (BitVec.ofNat 4 n) = false) → ∃ before, exec (.binrel g k q) s = gives s .buffer (.binrel bin) before ∧
        ∀ i, i ∈ before ↔ i ∈ storeIds none s.here.stores ∨ (∃ c ∈ s.mcmds, c.ctx = s.cur ∧ c.id = i) ∨
          ∃ c ∈ s.ecmds, c.ctx = s.cur ∧ c.toAccess ≠ none ∧ c.id = i) ∧
      exec (.binkill g k q) s = gives s .buffer (.binkill bin) []) ∧
    exec (.kjoin g k) s = gives s .token (.kjoin ([k.ka, k.kb, k.kc].map s.here.regs.rk)) [] ∧
    (s.quadClean q [0, 1] → s.semOk s.cur (v 0) = true →
      (s.here.late cls = true → exec (.semwait g k eq cls q) s = .next (s.freezePast (.ofClass cls))) ∧
      (s.here.late cls = false → exec (.semwait g k eq cls q) s =
        gives s .token (.semwait (v 0).toNat (v 1) eq cls false) (storeIds (some cls) s.here.stores ++ s.classCmds s.cur cls))) ∧
    (let st := (s.here.regs.rw wc).state
     let land := (v 2).toNat % 2 ^ 23
     let z := (v 2).toNat / 2 ^ 32 % 2 ^ 16
     let d := (v 3).toNat / 2 ^ 16 % 8 + 1
     let grp := (v 3).toNat / 2 ^ 24 % 32
     s.quadClean q [0, 1, 2, 3] → (st = 0 ∨ st = 3 ∨ st = 4) → land % 128 = 0 → 1 ≤ z → z ≤ 257 →
      s.here.allots land (256 * z * d) = true → (∀ i < d, s.binMine (8 * grp + i)) →
      ∀ core : Bool, ∃ c : Cursor,
        exec (if core then .chain g k f wc q else .walk g k f wc q) s = gives (s.exactly (.w wc c) 1) .gleaner (.walk wc.toNat (v 1 ++ v 0) land (256 * z * d)) [] ∧
        c.state = 5 ∧ c.depth = d ∧ c.group = grp ∧ c.z = z ∧ c.land = land ∧ c.furrow = f.toNat ∧ c.core = core ∧ c.next = 0 ∧ c.reason = 0 ∧
        c.chk = (v 3).getLsbD 31 ∧ c.budget = (if (v 3).toNat % 2 ^ 16 = 0 then 65535 else (v 3).toNat % 2 ^ 16) ∧
        c.addr = (v 0).toNat % 2 ^ 52 ∧ c.gen = (v 1).toNat % 2 ^ 32 ∧ c.device = (v 1).toNat / 2 ^ 40 % 2 ^ 20 ∧
        c.kind = (v 1).toNat / 2 ^ 62) ∧
    exec (.wstop g k wc) s = gives s .gleaner (.wstop wc.toNat) [] ∧
    (s.quadClean q [0] → exec (.wbudget g k wc q) s = gives s .gleaner (.wbudget wc.toNat ((v 0).setWidth 16)) []) ∧
    (s.quadClean q [0] → (v 0).toNat % 32 = 0 → s.here.allots (v 0).toNat 32 = true → s.here.late 0 = true →
      exec (.wsave g k wc q) s = .next (s.freezePast (.ofClass 0)) ∧
        ((s.here.regs.rw wc).state ∉ [1, 2, 5] → exec (.wrest g k wc q) s = .next (s.freezePast (.ofClass 0)))) ∧
    (s.quadClean q [0] → (v 0).toNat % 32 = 0 → s.here.allots (v 0).toNat 32 = true → s.here.late 0 = false →
      let before := storeIds (some 0) s.here.stores ++ s.classCmds s.cur 0
      exec (.wsave g k wc q) s = gives s .gleaner (.wsave wc.toNat (v 0).toNat) before ∧
      ((s.here.regs.rw wc).state ∉ [1, 2, 5] →
        exec (.wrest g k wc q) s =
          gives (s.exactly (.w wc ((s.here.regs.rw wc).setState 5)) 1) .gleaner (.wrest wc.toNat (v 0).toNat) before))

/-- R189, R191, R362 to R367, R370, R376: the commands for tasks, FIFOs, the loft and barriers at issue. A send binding opens a queue of its
own; the token of fbind is complete at once. The model's choices here: log entry 41, that fbind is no queued command and its token complete when
the bundle has issued; log entry 42, that a funbind makes yN ordinary at once while a receive binding's claim lives to its start. -/
def Obligations.TaskAndFabricCommandsIssue : Prop :=
  ∀ (s : State) (g : Guard) (k : KE) (hf : Bool) (hn n kd : BitVec 4) (q : BitVec 3), s.here.enabled g = true → s.takesCommand →
    let v := s.quadVal q
    let c := s.here
    let ks := [k.ka, k.kb, k.kc]
    (s.quadClean q [0] →
      exec (.lfree g k q) s = .next (s.commanded k.kd ks .loft (.lfree (v 0)) []) ∧
      (descOk (v 0) = true → exec (.bar g k q) s = .next (s.commanded k.kd ks .barrier (.bar (v 0)) []))) ∧
    (let a := (v 0).toNat
     let h := c.regs.rh hn
     s.quadClean q [0, 1] → a % 128 = 0 → (if hf then h.valid = true ∧ h.r = true ∧ a + 128 ≤ pageBytes h.size else c.allots a 128 = true) →
      exec (.launch g k hf hn q) s = .next (s.commanded k.kd ks .launch (.launch hf h a (v 1) false none) (storeIds none c.stores))) ∧
    (s.quadClean q [0] → vget c.f n.toNat .unbound = .unbound →
      let a := v 0
      let key := clusterOf s.cur * 256 + a.toNat % 256
      (a.toNat / 2 ^ 37 % 32 < 24 → a.toNat / 2 ^ 52 = s.device.toNat / 256 →
        exec (.fbind g kd true n q) s =
          let t := { s.setHere { c with f := vset c.f n.toNat (.send s.next), sends := c.sends ++ [⟨s.next, c.task.map Prod.fst, a, [], false⟩] } with next := s.next + 1 }
          .next ((t.withToken kd).finishTok t.next 0)) ∧
      (alGet s.claims key = none →
        exec (.fbind g kd false n q) s =
          let t := { s.setHere { c with f := vset c.f n.toNat (.recv (a.setWidth 8)) } with claims := alSet s.claims key (s.cur, n.toNat) }
          .next ((t.withToken kd).finishTok t.next 0))) ∧
    (∀ ch, vget c.f n.toNat .unbound = .recv ch →
      exec (.funbind g kd n) s =
        .next ((s.setHere { c with f := vset c.f n.toNat .unbound }).commanded kd [] .fabric (.funbindRecv ch.toNat false) [])) ∧
    (∀ i, vget c.f n.toNat .unbound = .send i →
      exec (.funbind g kd n) s =
        .next ((s.setHere { c with f := vset c.f n.toNat .unbound
                                   sends := c.sends.map fun e => if e.id = i then { e with closed := true } else e }).commanded kd [] .fabric
          (.funbindSend i) []))

/-- R246, R256, R258, R259, R272, R273, R276, R279: what reads a bin, a token or a semaphore answers at once: yD with poison clear and pD. A
semaphore operation changes its entry alone, on which every semwait that has started makes its test again (R247), and binacq and waitany take
their bin. The model's choices here: log entry 11, that a semaphore operation reads and changes its entry in the step of its issue. -/
def Obligations.QueriesAnswer : Prop :=
  ∀ (s : State) (g : Guard) (r : EYF) (cls : BitVec 4) (q : BitVec 3) (d : BitVec 5) (pd ka kb kc : BitVec 4), s.here.enabled g = true →
    let v := s.quadVal q
    let n := (v 0).toNat / 2 ^ 48 % 2 ^ 8
    let b := s.myBin n
    let ref := (v 0).toNat
    let old := s.sem ref
    let t := s.here.regs.rk ka
    (s.allComplete [ka, kb, kc] → exec (.kwait g ka kb kc) s = .next s) ∧
    (exec (.kpoll g d pd ka) s =
      .next ((s.answered (.y d ⟨if s.tokDone t then BitVec.ofNat 64 (2 ^ 63 + s.tokCode t % 256) else 0, false⟩) 1).answered
        (.p pd (BitVec.allOnes 64) (allOnes (s.tokDone t))) 1)) ∧
    exec (.uiarm g ka) s =
      .next (s.setHere (if s.tokDone t then { s.here with arm := vset s.here.arm ka.toNat none
                                                          pend := vset s.here.pend ka.toNat (some (BitVec.ofNat 8 (s.tokCode t))) }
        else { s.here with arm := vset s.here.arm ka.toNat t })) ∧
    exec (.uidis g ka) s =
      .next (s.setHere { s.here with arm := if ka = 0 then Vector.replicate 16 none else vset s.here.arm ka.toNat none }) ∧
    (s.allComplete [r.ka, r.kb] → s.quadClean q [0] →
      exec (.binst g r q) s = .next (s.replied r (b.state ++ BitVec.ofBool b.poison ++ b.readers ++ b.size ++ 0#9 ++ b.base) (b.state == 2)) ∧
      (b.tenant = some s.here.sr.tenant → b.poison = false → b.state = 2 →
        exec (.binacq g r q) s = .next ((s.withBin n { b with state := 3, readers := 1 }).replied r (binRef n b) true)) ∧
      (b.tenant = some s.here.sr.tenant → b.poison = false → b.state = 3 → b.readers < 255 →
        exec (.binacq g r q) s = .next ((s.withBin n { b with readers := b.readers + 1 }).replied r (binRef n b) true)) ∧
      (∀ j < 8,
        let place (e : Nat) := (s.here.rot.toNat + e) % 8
        let at_ (e : Nat) := 8 * ((v 0).toNat / 2 ^ 51 % 32) + place e
        let wanted (e : Nat) : Prop := (v 0).getLsbD (place e) = true ∧ (s.myBin (at_ e)).tenant = some s.here.sr.tenant
        wanted j → (s.myBin (at_ j)).poison = false → (s.myBin (at_ j)).state = 2 →
        (∀ e < j, wanted e → (s.myBin (at_ e)).poison = false ∧ (s.myBin (at_ e)).state ≠ 2) →
        exec (.waitany g r q) s =
          let u := s.withBin (at_ j) { s.myBin (at_ j) with state := 3, readers := 1 }
          .next ((u.setHere { u.here with rot := BitVec.ofNat 3 (place j + 1) }).replied r (binRef (at_ j) (s.myBin (at_ j))) true))) ∧
    (s.Quiet → s.allComplete [r.ka, r.kb] → s.semOk s.cur (v 0) = true → s.quadClean q [0, 1] →
      let sets (x : W64) : State := { s with sems := setCell s.sems ref x, ecmds := s.ecmds.map fun c => c.retest ref x }
      exec (.semadd g r cls q) s = .next ((sets (old + v 1)).replied r old (decide (old + v 1 = 0))) ∧
      exec (.semrd g r cls q) s = .next (s.replied r old ((v 1).sle old)) ∧
      (s.quadClean q [2] →
        exec (.semcas g r cls q) s =
          .next ((if old = v 1 then sets (v 2) else s).replied r old (decide (old = v 1)))))

/-- R199, R295, R297, R333, R370, R375, R378: wnext at the end of a walk, at a reason and at a full bin, the two loft allocations, a loft atomic on
bytes that the switch serves, barw at its first issue and once its round is over, and retire. At a reason wnext raises its trap, and at a pause
that it has reported before it has the gleaner make the hop again. The model's choices here: log entries 11 and 15, that a loft atomic is performed
in the step of its issue; log entry 47, that barw's arrival is kept under the address of its bundle; log entry 141, that a NEXT which is not below
D names a bin modulo D. -/
def Obligations.WaitsAnswer : Prop :=
  ∀ (s : State) (g : Guard) (k : KE) (r : EYF) (wc q : BitVec 3) (wide : Bool) (op : LatomOp) (ka kb kc : BitVec 4), s.here.enabled g = true →
    let v := s.quadVal q
    let c := s.here.regs.rw wc
    let cursor (t : State) (x : Cursor) : State := t.setHere { t.here with regs := { t.here.regs with w := vset t.here.regs.w wc.toNat x } }
    (s.allComplete [r.ka, r.kb] →
      (c.state = 3 → exec (.wnext g r wc q) s = .next (s.replied r 0 true)) ∧
      (c.state = 4 → c.reason = 0 → exec (.wnext g r wc q) s = .next ((cursor s (c.setState 3)).replied r 0 true)) ∧
      (∀ x, (c.state = 1 ∨ c.state = 2) → s.walkOf s.cur wc.toNat = some x → x.endAt = some x.delivered →
        exec (.wnext g r wc q) s = .next ((cursor (s.dropWalk x) (c.setState 3)).replied r 0 true)) ∧
      (∀ x n link, (c.state = 1 ∨ c.state = 2) → s.walkOf s.cur wc.toNat = some x → x.endAt ≠ some x.delivered →
        x.reason = some (x.delivered, n, link) → 1 ≤ n → n ≤ 10 →
        let cls := (([11, 11, 11, 11, 12, 14, 13, 15, 17, 16] : List Nat)[n - 1]?).getD 0
        let info := if n = 10 then 8 * c.group + c.next else n * 2 ^ 56 + link.toNat / 2 ^ 126 * 2 ^ 54 + link.toNat % 2 ^ 52
        let again : Prop := (n = 6 ∨ n = 7 ∨ n = 8) ∧ x.armed = true ∧ ¬ (n = 6 ∧ c.budget = 0)
        (again → exec (.wnext g r wc q) s = .next (s.block (.rehop wc.toNat))) ∧
        (¬ again → exec (.wnext g r wc q) s = .next (s.takeTrap { bundleTrap cls .E info with met := some (.walk wc.toNat) }))) ∧
      (∀ x l ls, (c.state = 1 ∨ c.state = 2) → s.walkOf s.cur wc.toNat = some x → x.endAt ≠ some x.delivered →
        (∀ p, x.reason = some p → p.1 ≠ x.delivered) → x.landed = l :: ls →
        let n := c.bin c.next
        let b := s.myBin n
        b.state = 2 → b.poison = false →
        exec (.wnext g r wc q) s =
          .next ((cursor ((s.withBin n { b with state := 3, readers := 1 }).putWalk { x with landed := ls, delivered := x.delivered + 1, kept := false })
            ((Cursor.set (c.setLink l.link) 245 3 ((c.next + 1) % c.depth)).setState 2)).replied r (binRef n b) false)) ∧
      (s.quadClean q [0, 1] →
        let size := (v 0).toNat
        let p := (v 1).toNat % 32
        let m := (v 1).toNat / 2 ^ 8 % 32
        let gives (mirrored : Bool) : Host.Outcome State Fault Refusal :=
          .next (s.setHere (addAnswer s.here r.d r.pd 4 false (.lalloc mirrored (v 0) (v 1))))
        size % 65536 = 0 → 65536 ≤ size → size ≤ 2 ^ 39 → p < 24 → p ∉ s.lost →
        exec (.lalloc g r q) s = gives false ∧ (m < 24 → p ≠ m → m ∉ s.lost → exec (.lallocM g r q) s = gives true)) ∧
      (s.Quiet → s.quadClean q [0, 1, 3] → (op = .cas → s.quadClean q [2]) →
        let h := s.here.regs.rh (BitVec.ofNat 4 ((v 3).toNat / 2 ^ 8))
        let o := (v 0).toNat
        let n := if wide then 8 else 4
        s.pageOk h o n n true → h.perm.getLsbD 1 = true → h.lclass ≠ 0 → h.tgt = 1 → s.lostPlane h o n s.here.sr.tenant false = none →
        let old : BitVec (8 * n) := BitVec.ofNat (8 * n) (leNat (s.pageHolds h o n))
        let x := (v 1).setWidth (8 * n)
        let new : BitVec (8 * n) :=
          match op with
          | .add => old + x
          | .min => if old.toInt ≤ x.toInt then old else x
          | .max => if x.toInt ≤ old.toInt then old else x
          | .swap => x
          | .cas => if old = (v 2).setWidth (8 * n) then x else old
        let hit := decide (op = .cas → old = (v 2).setWidth (8 * n))
        exec (.latom g r wide op q) s =
          .next (((s.pageStored n h o (leBytes n new.toNat)).elastically (.y r.d ⟨old.signExtend 64, false⟩) h.latency).elastically
            (.p r.pd (BitVec.allOnes 64) (allOnes hit)) h.latency))) ∧
    (∀ t, alGet s.here.barArrived s.here.pc.toNat = some t → s.tokDone (some t) = true →
      exec (.barw g k q) s =
        .next ((s.setHere { s.here with barArrived := alDel s.here.barArrived s.here.pc.toNat }).exactly (.k k.kd (some t)) 1)) ∧
    (alGet s.here.barArrived s.here.pc.toNat = none → s.takesCommand → s.quadClean q [0] → descOk (v 0) = true →
      exec (.barw g k q) s = .next (s.block (.arrive (v 0) ([k.ka, k.kb, k.kc].map s.here.regs.rk)))) ∧
    exec (.retire g ka kb kc) s =
      .next (s.setHere { s.here with run := .halted, retiring := some ([ka, kb, kc].map s.here.regs.rk) })

/-! ### Cycles, repeats, traps and results (R8, R13, R33, R48, R176 to R183, R327 to R336) -/

/-- R8, R13, R14, R20, R33, R183: an empty bundle is one architectural cycle that goes on at the next bundle, or at a branch's target when it
is the last delay bundle, and ends the group when STOP says so; an inserted cycle stays at its bundle. Neither shows a result by itself: as the
context reaches its next cycle, once, every result whose latency then has run and that has arrived becomes visible, the latest issued of a
register last; one with more to go, or that has not arrived, does not, and stays in flight with one cycle less of its latency to go, or of its
slack once that has run. So for each register file, a lane or a bit at a time where a result writes
only some; for the special registers; for a clear of FEL, which takes effect before the events of its cycle, of which the earliest producer's is
kept (R104, R128); and for a word of a send queue, which enters the entry that its slot reserved, in program order (R22, R70), or releases it and raises
POISON_CONSUMED (R364). The model's choice here: log entry 91, that a word waits for the entries before its own. -/
def Obligations.CyclesPass : Prop :=
  (∀ (s : State) (stop : Bool), s.here.rep = none →
    ∃ t, exec (.emptyBundle stop) s = .next t ∧ t.mem = s.mem ∧ t.here.sr.acyc = s.here.sr.acyc + 1 ∧
      (s.here.branch = none → t.here.pc = s.here.pc + 4 ∧ t.here.branch = none ∧
        t.here.group = if stop then Group.fresh else { s.here.group with count := s.here.group.count + 1 }) ∧
      t = s.setHere t.here ∧ (s.here.run ≠ .halted → t.here.regs = s.here.regs ∧ t.here.flight = s.here.flight ∧
        t.here.sr = { s.here.sr with acyc := s.here.sr.acyc + 1 } ∧ t.here.shown = false) ∧
      (∀ target, s.here.branch = some (target, 1) → t.here.pc = target ∧ t.here.branch = none ∧ t.here.group = Group.fresh) ∧
      (∀ target n, s.here.branch = some (target, n + 2) → t.here.pc = s.here.pc + 4 ∧ t.here.branch = some (target, n + 1))) ∧
  (∀ (s : State), ∃ t, exec .insertedCycle s = .next t ∧ t.mem = s.mem ∧ t.here.sr.acyc = s.here.sr.acyc + 1 ∧ t.here.pc = s.here.pc ∧
      t.here.branch = s.here.branch ∧ t.here.group = s.here.group ∧ t.here.regs = s.here.regs ∧ t.here.flight = s.here.flight ∧
      t.here.shown = false) ∧
  (∀ (k : Ctx), k.newCycle.newCycle = k.newCycle ∧ k.newCycle.pc = k.pc ∧ k.newCycle.sr.acyc = k.sr.acyc ∧
    (k.shown = false →
      let n := k.newCycle
      (∀ f ∈ k.flight, 2 ≤ f.left → { f with left := f.left - 1 } ∈ n.flight) ∧
      (∀ f ∈ k.flight, f.arrived = false → f.landed = false →
        (if 0 < f.left then { f with left := f.left - 1 } else { f with win := f.win - 1 }) ∈ n.flight) ∧
      (n.flight.map Flight.id).Sublist (k.flight.map Flight.id) ∧
      (∀ f ∈ n.flight, ∃ e ∈ k.flight, f.id = e.id ∧ f.res = e.res ∧ f.left = e.left - 1) ∧
      (∀ d, d ≠ 0 → n.regs.rx d = latest (k.regs.rx d) (k.reaching fun r => match r with
        | .x e v => if e = d then some v else none
        | _ => none)) ∧
      (∀ d, d ≠ 0 → n.regs.ry d = (k.reaching fun r => match r with
        | .y e v => if e = d then some (fun _ : Reg => v) else none
        | .yPoison e => if e = d then some (fun o : Reg => ⟨o.val, true⟩) else none
        | _ => none).foldl (fun o f => f o) (k.regs.ry d)) ∧
      (∀ d, d ≠ 0 → ∀ j < 64, (n.regs.rp d).getLsbD j = latest ((k.regs.rp d).getLsbD j) (k.reaching fun r => match r with
        | .p e m v => if e = d ∧ m.getLsbD j = true then some (v.getLsbD j) else none
        | _ => none)) ∧
      (∀ d, ∀ j < 64, lane (n.regs.rv d) j = latest (lane (k.regs.rv d) j) (k.reaching fun r => match r with
        | .v e m v => if e = d ∧ m.getLsbD j = true then some (lane v j) else none
        | _ => none)) ∧
      (∀ d, n.regs.rsc d = latest (k.regs.rsc d) (k.reaching fun r => match r with
        | .sc e v => if e = d then some v else none
        | _ => none)) ∧
      (∀ d, n.regs.rh d = latest (k.regs.rh d) (k.reaching fun r => match r with
        | .h e v => if e = d then some v else none
        | _ => none)) ∧
      (∀ d, d ≠ 0 → n.regs.rk d = latest (k.regs.rk d) (k.reaching fun r => match r with
        | .k e v => if e = d then some v else none
        | _ => none)) ∧
      (∀ d, n.regs.rl d = latest (k.regs.rl d) (k.reaching fun r => match r with
        | .l e v => if e = d then some v else none
        | _ => none)) ∧
      (∀ d, n.regs.rb d = latest (k.regs.rb d) (k.reaching fun r => match r with
        | .b e v => if e = d then some v else none
        | _ => none)) ∧
      (∀ d, n.regs.rw d = latest (k.regs.rw d) (k.reaching fun r => match r with
        | .w e v => if e = d then some v else none
        | _ => none)) ∧
      (let sr (num : Nat) (old : W64) : W64 := latest old (k.reaching fun r => match r with
         | .sr m v => if m = num then some v else none
         | _ => none)
       n.sr.slack = sr 0x00 k.sr.slack ∧ n.sr.lc = sr 0x01 k.sr.lc ∧ n.sr.uiv = sr 0x03 k.sr.uiv ∧ n.sr.rsta = sr 0x06 k.sr.rsta ∧
       n.sr.rstb = sr 0x07 k.sr.rstb ∧ n.sr.rstd = sr 0x08 k.sr.rstd ∧ n.sr.epc = sr 0x10 k.sr.epc ∧ n.sr.ebp = sr 0x13 k.sr.ebp ∧
       n.sr.tenant = k.sr.tenant ∧ n.sr.ecause = k.sr.ecause ∧ n.sr.einfo = k.sr.einfo) ∧
      (let events := k.dueNext.filterMap Flight.event
       let cleared : Bool := k.dueNext.any fun f => f.res == .clrFel
       let base := if cleared then k.sr.felSince else k.sr.fel
       (events = [] → n.sr.fel = base) ∧ (∀ x, n.sr.fel = some x → x ∈ events ∨ base = some x) ∧
       (∀ e, e ∈ events ∨ base = some e → ∃ x, n.sr.fel = some x ∧ e.before x = false)) ∧
      (let words (q : Nat) : List (Nat × Reg) := k.reaching fun r => match r with
         | .f p _ ord _ v => if p = q then some (ord, v) else none
         | _ => none
       let spoilt : List TrapRec := k.reaching fun r => match r with
         | .f _ num _ slot v => if v.poison then some ⟨8, slot.code, BitVec.ofNat 64 (32 + 16 + num.toNat), true, none⟩ else none
         | _ => none
       n.sends = k.sends.map (fun e => { e with
         entries := e.entries.filterMap fun p =>
           let vs := ((words e.id).filter fun w => w.1 == p.1).map Prod.snd
           if vs.any Reg.poison then none else some (p.1, latest p.2 (vs.map fun v => some v.val)) }) ∧
       n.due = if spoilt = [] ∨ (∃ q, k.due = some q ∧ q.cls ≤ 8) then k.due else spoilt.head?)))

/-- R48, R103, R176 to R178: a repeat head whose checks pass reads LC and the strides; with LC = 0, or with its M slot disabled, no command is
issued. A repetition issues the M slot's command, mmaz as a product from zero in the first one only, and the address registers advance by the
strides in the next cycle. R49, R177, R329: a head in a trap handler or in the delay bundles of a branch, one with a body bundle that holds an M slot, a
REP bit or an X opcode from 0x24 to 0x32, and one with a body slot that writes an advanced register raise ILLEGAL_GROUP before any slot takes
effect. The model's choices here: log entry 28; log entry 18, the slot and word that the trap names; log entry 96, the address of a repetition's
command; log entry 101, that an address register is advanced from the value it has, also where an elastic result has become visible in it during
the repeat; log entry 133, that a head which R49 refuses where it stands is refused whatever its body's bytes are. -/
def Obligations.RepeatIssues : Prop :=
  let rounds (t : State) (p : Rep) (o : Host.Outcome State Fault Refusal) : Prop :=
    let moved (u : State) (y : BitVec 5) (by_ : W64) : State := u.exactly (.y y ⟨(t.here.regs.ry y).val + by_, false⟩) 1
    let clean (y : BitVec 5) : Prop := (t.here.regs.ry y).poison = false
    let opnd (y : BitVec 5) : Opnd := opndOf (t.here.regs.ry y).val
    (∀ g ac a b f ca dm sp (z : Bool), repeatInstr p.mword = some (if z then .mmaz g ac a b f ca dm sp else .mma g ac a b f ca dm sp) →
      (f.isMx = true → ∀ c ∈ t.mcmds, c.ctx = t.cur → c.op.scales = []) → clean a → clean b → t.here.hasTile ac.toNat = true →
      t.opndOk (opnd a) (imageBytes f ca) → t.opndOk (opnd b) (imageBytes f false) → bankGroup (opnd a).base ≠ bankGroup (opnd b).base →
      let map := if dm then some (t.dupBehind t.cur) else none
      let sc (i : Nat) : Lanes := if f.isMx then vget t.here.regs.sc (2 * sp.toNat + i) Lanes.zero else Lanes.zero
      o = .next (moved (moved (t.mIssued (.mma (z && p.r == 0) f ca map ac.toNat (opnd a) (opnd b) (sc 0) (sc 8) (sc 1) (sc 9))) a p.sa) b p.sb)) ∧
    (∀ g ac y, t.here.hasTile ac.toNat = true → clean y → t.opndOk (opnd y) 16384 →
      (repeatInstr p.mword = some (.mldac g ac y) → o = .next (moved (t.mIssued (.mldac ac.toNat (opnd y))) y p.sa)) ∧
      (repeatInstr p.mword = some (.mstac g ac y) → o = .next (moved (t.mIssued (.mstac ac.toNat (opnd y))) y p.sa))) ∧
    (∀ g ac y f sc cmp rnd, repeatInstr p.mword = some (.mdrain g ac y f sc cmp rnd) → t.here.hasTile ac.toNat = true → clean y →
      t.opndOk (opnd y) (imageBytes f cmp) →
      o = .next (moved (t.mIssued (.mdrain ac.toNat (opnd y) f sc.toNat cmp rnd)) y p.sa))
  (∀ (s : State) (len : BitVec 3) (mword : W32),
    let h := s.header
    let refused : Prop := exec (.repeatHead len mword) s = .next (s.takeTrap ⟨3, 7, BitVec.ofNat 64 h.toNat, false, none⟩)
    let heads (ws : List W32) : Nat := (ws.headD 0).toNat
    let barred (ws : List W32) : Prop :=
      (heads ws).testBit 26 = true ∨ (heads ws).testBit 23 = true ∨
        ((heads ws).testBit 30 = true ∧ 0x24 ≤ (ws.tail.headD 0).toNat / 2 ^ 26 ∧ (ws.tail.headD 0).toNat / 2 ^ 26 ≤ 0x32)
    let advances (y : BitVec 5) : Prop :=
      match repeatInstr mword with
      | some (.mma _ _ a b _ _ _ _) | some (.mmaz _ _ a b _ _ _ _) => y = a ∨ y = b
      | some (.mdrain _ _ a _ _ _ _) | some (.mldac _ _ a) | some (.mstac _ _ a) => y = a
      | _ => False
    let spoils (ws : List W32) : Prop :=
      ∃ b i y, decodeBundle (heads ws) (ws.tail.map BitVec.toNat) = .ok b ∧ i ∈ b.slots.map Prod.snd ∧ y ≠ 0 ∧ advances y ∧
        64 + y.toNat ∈ (wordUses s.here i).writes
    (s.here.handler = true ∨ s.here.branch ≠ none ∨ s.here.delay ≠ 0 → refused) ∧
    (∀ body after v, s.readBody (s.here.pc.toNat + bundleSize h.toNat) (len.toNat + 1) = (.ok (body, after), v) →
      s.here.handler = false → s.here.branch = none → s.here.delay = 0 →
      ((∃ p ∈ body, barred p.2 ∨ spoils p.2) → refused) ∧
      ((∀ p ∈ body, ¬ barred p.2 ∧ ¬ spoils p.2) → (s.headCheck h.toNat len mword).1 = .ok (body, after)))) ∧
  ∀ (s : State), s.status = .ok →
    (∀ len mword body after v, s.headCheck s.header.toNat len mword = (.ok (body, after), v) →
      let p := s.here.startRep mword body after
      let t := s.setHere { s.here with rep := some p }
      (s.here.sr.lc = 0 ∨ p.on = false → exec (.repeatHead len mword) s = .next t) ∧
      (s.here.sr.lc ≠ 0 → p.on = true → s.takesM → rounds t p (exec (.repeatHead len mword) s))) ∧
    (∀ p, s.here.rep = some p →
      (p.on = false → exec .repetition s = .next s) ∧ (p.on = true → s.takesM → rounds s p (exec .repetition s)))

/-- R280, R281, R327 to R330, R332 to R334, R336, R400: a trap that awaits a context at user level whose tenant has a vector is entered: EPC, ECAUSE,
EINFO and EBP are written, the results in flight are captured, x28 to x31, y28 to y31 and p15 are exchanged with their shadows, and the handler
starts at TVEC; nothing else of the device changes. A trap of the bundle that the running context issues enters it likewise; the failed entry of a
load queue that a qpop has met is then read afresh (R221), and the walk whose reason a wnext has reported is armed at a pause, or at a stop gives up
its slot and its unread bins, with the reason in its cursor (R297). At handler level, or without a vector, a command stream stops and an instance is
killed, with the tenant's fault record and, for a stream, HFLAG bit 4: what has not started is discarded and fills are killed, with code 5, and other
started commands run on; the instance's contexts become free, its claims and slot-table entries are freed, and its launch token completes with code
20; a stopped stream issues nothing more, and its instances and pending records stay. At the capture an elastic result that has arrived, and whose latency has elapsed, becomes visible (R337).
A pending completion interrupt that may be taken enters its handler at UIV with its cause in y31, and likewise changes nothing else. The model's
choices here: log entries 24, 27 and 78; log entry 106, that what runs on of a killed context goes under a number of its own; log entry 130, that a poisoned
word for a send queue stays in flight at the capture. -/
def Obligations.TrapEntry : Prop :=
  ∀ (s : State) (c : Nat),
    let k := s.ctx c
    let m := k.capture
    let saved : Saved := ⟨m.pc, m.branch, m.delay, m.flight, m.rep, m.shown, m.sr.felNew⟩
    let ebp : W64 :=
      match k.branch with
      | none => 0
      | some (target, n) => BitVec.ofNat 64 (2 ^ 63 + n % 4 * 2 ^ 56 + target.toNat % 2 ^ 52 / 16 * 16)
    let cause (r : TrapRec) : W64 :=
      BitVec.ofNat 64 (r.frz.toNat * 2 ^ 15 + k.rep.isSome.toNat * 2 ^ 14 + k.inUi.toNat * 2 ^ 13 + r.slot % 8 * 2 ^ 10 + r.cls % 256)
    let record (r : TrapRec) : FaultRec := ⟨k.pc &&& 0xFFFFFFFFFFFFF, cause r, r.info, BitVec.ofNat 64 c⟩
    let exchanged (u : Regs) (new old : Shadow) : Prop :=
      (∀ i < 28, vget u.x i Reg.zero = vget m.regs.x i Reg.zero ∧ vget u.y i Reg.zero = vget m.regs.y i Reg.zero) ∧
      (∀ i < 4, vget u.x (28 + i) Reg.zero = vget old.x i Reg.zero ∧ vget new.x i Reg.zero = vget m.regs.x (28 + i) Reg.zero ∧
        vget new.y i Reg.zero = vget m.regs.y (28 + i) Reg.zero) ∧
      (∀ i < 3, vget u.y (28 + i) Reg.zero = vget old.y i Reg.zero) ∧
      vget u.p 15 0 = old.p ∧ new.p = vget m.regs.p 15 0 ∧ (∀ i < 15, vget u.p i 0 = vget m.regs.p i 0) ∧
      u.v = m.regs.v ∧ u.sc = m.regs.sc ∧ u.h = m.regs.h ∧ u.k = m.regs.k ∧ u.l = m.regs.l ∧ u.b = m.regs.b ∧ u.w = m.regs.w
    let visible (f : Flight) : Prop :=
      f.left = 0 ∧ f.arrived = true ∧ f.landed = false ∧ ∀ q n ord slot v, f.res = .f q n ord slot v → v.poison = false
    ((∀ f ∈ k.flight, ¬ visible f) → m = k) ∧ (∀ f ∈ m.flight, ¬ visible f) ∧ m.flight.map Flight.id = k.flight.map Flight.id ∧
    (∀ d r f, d ≠ 0 → f ∈ k.flight → visible f → f.res = .x d r → (∀ e ∈ k.flight, visible e → ∀ v, e.res = .x d v → e = f) → m.regs.rx d = r) ∧
    let entered (r : TrapRec) (u : State) : Prop :=
      ∃ regs shadow, exchanged regs shadow k.trapShadow ∧ vget regs.y 31 Reg.zero = vget k.trapShadow.y 3 Reg.zero ∧
        u = { s.setCtx c { m with
          regs := regs, trapShadow := shadow, trapRet := some saved, flight := [], due := none, rep := none
          sr := { m.sr with epc := k.pc &&& 0xFFFFFFFFFFFFF, ecause := cause r, einfo := r.info, ebp := ebp }
          pc := s.tvec k.sr.tenant, branch := none, delay := 0, group := Group.fresh, boundary := false
          handler := true, run := .running } with status := .trapped r }
    (∀ r, k.due = some r → (k.run = .halted → k.retiring ≠ none) →
      (k.handler = false → k.retiring = none → s.tvec k.sr.tenant ≠ 0 → ∃ u, exec (.trapTaken c) s = .next u ∧ entered r u) ∧
      (k.handler = true ∨ s.tvec k.sr.tenant = 0 →
        ∃ t, exec (.trapTaken c) s = .next t ∧
          (k.task = none → t = { (s.setCtx c { k with due := none }).stopStream c (record r) with status := .trapped r } ∧
            (t.ctx c).run = .halted ∧ t.host.hflag = s.host.hflag ||| 16 ∧ alGet t.faults k.sr.tenant.toNat = some (record r)) ∧
          (∀ i n x, k.task = some (i, n) → s.insts.find? (fun y => y.id == i) = some x →
            t = { (s.setCtx c { k with due := none }).killInst i (record r) with status := .trapped r } ∧
            (∀ y ∈ t.insts, y.id ≠ i) ∧ alGet t.faults x.tenant.toNat = some (record r)))) ∧
    (∀ r, c = s.cur →
      (r.met = none →
        (k.handler = false → k.retiring = none → s.tvec k.sr.tenant ≠ 0 → entered r (s.takeTrap r)) ∧
        (k.handler = true ∨ s.tvec k.sr.tenant = 0 →
          (k.task = none → s.takeTrap r = { s.stopStream c (record r) with status := .trapped r }) ∧
          (∀ i n, k.task = some (i, n) → s.takeTrap r = { s.killInst i (record r) with status := .trapped r }))) ∧
      (let goesOn (u : State) : Prop := s.takeTrap r = { u.takeTrap { r with met := none } with status := .trapped r }
       (∀ id, r.met = some (.entry id) → goesOn (s.setHere { k with q := k.q.map fun l => l.map fun e =>
          if e.id = id then { e with arrived := false, failed := none, again := true } else e })) ∧
       (∀ w x at_ n link, r.met = some (.walk w) → s.walkOf c w = some x → x.reason = some (at_, n, link) → 1 ≤ n → n ≤ 10 → w < 8 →
         let cl := clusterOf c
         let old := vget k.regs.w w 0
         (n = 6 ∨ n = 7 ∨ n = 8 → goesOn (s.putWalk { x with armed := true })) ∧
         (n ≠ 6 → n ≠ 7 → n ≠ 8 → ∃ u v, goesOn u ∧ u.walks = s.walks.filter (fun y => y.id != x.id) ∧ u.mem = s.mem ∧ u.toks = s.toks ∧
           u.ctx c = { k with regs := { k.regs with w := vset k.regs.w w v } } ∧ v.state = 4 ∧ v.reason = n ∧
           v.extractLsb' 0 232 = old.extractLsb' 0 232 ∧ v.extractLsb' 240 12 = old.extractLsb' 240 12 ∧
           ∀ b, let bin := s.bin (binKey cl b)
             u.bin (binKey cl b) = if (∃ l ∈ x.landed, l.bin = b) ∧ bin.state = 2 then { bin with state := 0, readers := 0, tenant := none } else bin)))) ∧
    (∀ rec x, s.insts.find? (fun y => y.id == x.id) = some x →
      let t := s.killInst x.id rec
      s.Dropped t (x.live ++ x.ended.map Prod.snd) ∧ t.insts = s.insts.filter (fun y => y.id != x.id) ∧ alGet t.faults x.tenant.toNat = some rec ∧
      (∀ p ∈ t.claims, p.2.1 ∉ x.live) ∧ t.slots = s.slots.filter (fun p => p.2.2 != x.id) ∧ (∀ d ∈ x.live, d < 4096 → t.ctx d = Ctx.reset) ∧
      t.pendings = s.pendings ∧ t.sems = s.sems ∧
      ((∀ e ∈ s.ecmds, e.tok ≠ x.tok) → (∀ w ∈ s.walks, w.tok ≠ x.tok) → s.completes t x.tok 20)) ∧
    (∀ rec,
      let t := s.stopStream c rec
      s.Dropped t [c] ∧ (t.ctx c).run = .halted ∧ alGet t.faults k.sr.tenant.toNat = some rec ∧ t.host.hflag = s.host.hflag ||| 16 ∧
      t.host.mode = s.host.mode ∧ t.insts = s.insts ∧ t.pendings = s.pendings ∧ t.images = s.images) ∧
    (∀ i code, k.handler = false → k.inUi = false → (k.run = .blocked ∨ ((k.run = .running ∨ k.run = .frozen) ∧ k.boundary = true)) →
      k.sr.uiv ≠ 0 → i < 16 → vget k.pend i none = some code → (∀ j < i, vget k.pend j none = none) →
      ∃ regs shadow pend, exchanged regs shadow k.uiShadow ∧ vget regs.y 31 Reg.zero = ⟨BitVec.ofNat 64 (code.toNat * 256 + i), false⟩ ∧
        (∀ j < 16, vget pend j none = if j = i then none else vget k.pend j none) ∧
        exec (.userInterruptTaken c) s = .next (s.setCtx c { m with
          regs := regs, uiShadow := shadow, uiRet := some saved, pend := pend, flight := [], rep := none
          pc := k.sr.uiv, branch := none, delay := 0, group := Group.fresh, boundary := false, inUi := true, run := .running }))

/-- R17, R20, R214, R219, R221, R231, R233, R240, R243, R327, R336, R374, R379: how results in flight, queued loads and stores come to their end. A
result arrives with its value, the two halves of a link together (R290), and what is made again with the bytes that are there then; it becomes visible in the context's
next cycle. A translation arrives with its handle, or raises PAGE_FAULT or PRIVILEGE; a host read arrives or raises HOST_ERROR, a timeout being
error kind 2; a switch's refusal raises PRIVILEGE, a lost plane LOFT_LOST; a running context freezes over an overdue result; and a granule of a
store is performed after what it comes after, changing its own bytes only, or refused. The model's choices here: log entries 11 and 15; log entry 83,
that a refused granule drops the rest of its store and its trap awaits the next boundary; log entry 103, that a link is made again as one access;
log entry 127, that what a later access has fixed is not read again; log entry 104, that granules are performed in any order but where their bytes meet. What is made again waits for the context's own store of its
bytes to be whole (R241). -/
def Obligations.ResultEvents : Prop :=
  ∀ (s : State) (c i : Nat),
    let k := s.ctx c
    let arrives (r : Result) : Host.Outcome State Fault Refusal := .next (s.setCtx c (k.arriveWith i r))
    let fails (t : State) (cls slot info : Nat) : Host.Outcome State Fault Refusal :=
      .next (t.setCtx c (k.failFlight i ⟨cls, slot, BitVec.ofNat 64 info, true, none⟩))
    (∀ f, k.flightOf i = some f → k.trapped f = false →
      (f.redo = none → (f.elastic = true → exec (.resultArrival c i) s = arrives f.res) ∧
        (f.elastic = false → exec (.exactResultArrival c i) s = arrives f.res) ∧
        (∀ d r, k.flight = [f] → f.res = .x d r → f.left ≤ 1 → f.landed = false → k.shown = false → k.run ≠ .halted →
          (k.arriveWith i f.res).newCycle.regs.rx d = if d = 0 then Reg.zero else r)) ∧
      (∀ cls cyc h o n p form, f.redo = some (.load cls cyc h o n p form) →
        let whole : Prop := f.again = true → s.tearsLoad c h o n = false
        let va := (h.vpage.toNat * 65536 + o) % 2 ^ 52
        let bs := s.loadBytes c h o n
        let afresh : Prop := f.again = true ∧ f.fixed = false
        let made (j : Nat) (r : Result) : Result :=
          if ¬ afresh then r else if form = .link then r.fill .zext h p ((bs.drop (8 * j)).take 8) else r.fill form h p bs
        let t := if afresh ∨ h.tgt = 2 then s.afterLoad c h o n else s
        let lands : Host.Outcome State Fault Refusal := .next (t.setCtx c (k.arriveBy i (if form = .link then 2 else 1) made))
        (f.elastic = true → h.tgt = 0 → whole → exec (.resultArrival c i) s = lands) ∧
        (f.elastic = true → h.tgt = 1 →
          (s.lostPlane h o n k.sr.tenant true = none → s.refuses c h o n = false → whole → exec (.resultArrival c i) s = lands) ∧
          (∀ q, s.lostPlane h o n k.sr.tenant true = some q → exec (.resultArrival c i) s = fails s 17 f.slotCode (q * 2 ^ 56 + va))) ∧
        (h.tgt = 1 → s.refuses c h o n = true → exec (.loftRefusal c i) s = fails s 5 f.slotCode va) ∧
        (h.tgt = 2 → (whole → exec (.hostReadCompletion c i none) s = lands) ∧
          (∀ e, exec (.hostReadCompletion c i (some e)) s = fails s 21 f.slotCode (e.toNat * 2 ^ 62 + va)) ∧
          exec (.completionTimeout c i) s = fails s 21 f.slotCode (2 * 2 ^ 62 + va))) ∧
      (∀ va perm d x t, f.redo = some (.xlat va perm) → f.res = .h d x →
        (s.translate (dieOf c) k.sr.tenant va.toNat = (none, t) → exec (.translationWalkDone c i) s = fails t 4 1 (va.toNat % 2 ^ 52)) ∧
        (∀ h, s.translate (dieOf c) k.sr.tenant va.toNat = (some h, t) →
          exec (.translationWalkDone c i) s =
            if perm &&& ~~~h.perm ≠ 0 then fails t 5 1 (va.toNat % 2 ^ 52)
            else .next (t.setCtx c (k.arriveWith i (.h d { h with perm := perm })))))) ∧
    (k.run = .running → k.due = none → ∀ f ∈ k.nextFlight, f.left = 0 → f.win = 0 → f.arrived = false → f.landed = false →
      exec (if f.elastic then .slackWindowFreeze c else .exactResultFreeze c) s = .next (s.setCtx c { k with run := .frozen })) ∧
    (∀ e q, k.entryOf i = some e → e ∈ vget k.q q [] →
      let h := e.handle
      let o := e.off
      let n := 2 ^ e.width.toNat
      let va := (h.vpage.toNat * 65536 + o) % 2 ^ 52
      let afresh : Prop := e.again = true ∧ e.fixed = false
      let t := if afresh ∨ h.tgt = 2 then s.afterLoad c h o n else s
      let v : W64 := if afresh then loaded true (s.loadBytes c h o n) else e.val
      let lands : Host.Outcome State Fault Refusal := .next (t.setCtx c (k.setEntry i fun x => { x with val := v, arrived := true, again := false }))
      let marked (cls info : Nat) : Host.Outcome State Fault Refusal :=
        .next (s.setCtx c (k.setEntry i fun x => { x with arrived := true, failed := some (cls, BitVec.ofNat 64 info) }))
      let whole : Prop := e.again = true → s.tearsLoad c h o n = false
      (h.tgt = 0 → whole → exec (.queuedLoadArrival c q i) s = lands) ∧
      (h.tgt = 1 →
        (s.lostPlane h o n k.sr.tenant true = none → s.refuses c h o n = false → whole → exec (.queuedLoadArrival c q i) s = lands) ∧
        (∀ p, s.lostPlane h o n k.sr.tenant true = some p → exec (.queuedLoadArrival c q i) s = marked 17 (p * 2 ^ 56 + va)) ∧
        (k.flightOf i = none → s.refuses c h o n = true → exec (.loftRefusal c i) s = marked 5 va)) ∧
      (h.tgt = 2 → k.flightOf i = none →
        (whole → exec (.hostReadCompletion c i none) s = lands) ∧
        (∀ x, exec (.hostReadCompletion c i (some x)) s = marked 21 (x.toNat * 2 ^ 62 + va)))) ∧
    (∀ pre acc cls key bs lo post, k.stores = pre ++ .store i acc cls key bs lo :: post → (∀ a x y z u, Pend.store i a x y z u ∉ pre) →
      pendBlocks cls 0 (pre.filter fun p => !(⟨acc, cls, key, bs, lo⟩ : Granule).beside p) = false → (∀ j ∈ s.classCmds c cls, i ≤ j) →
      let rest := dropFences (pre ++ post)
      let torn := (acc :: k.torn).filter fun a => (pre ++ post).any fun p => p.ofAcc a
      (lo = none → ∃ t, exec (.storePerformed c i) s = .next t ∧ t.ctx c = { k with stores := rest, torn := torn } ∧ (∀ d, d ≠ c → t.ctx d = s.ctx d) ∧
        (s.Inv → ∀ a, cellAt t.mem a = if key ≤ a ∧ a < key + bs.length then (bs[a - key]?).getD 0 else cellAt s.mem a)) ∧
      (∀ h o, lo = some (h, o) → s.lostPlane h o bs.length k.sr.tenant false = none → s.refuses c h o bs.length = true →
        ∃ t, exec (.storePerformed c i) s = .next t ∧ t.mem = s.mem ∧
          t.ctx c = Ctx.addDue { k with stores := withoutAcc acc rest, torn := torn } ⟨5, 2, BitVec.ofNat 64 ((h.vpage.toNat * 65536 + o) % 2 ^ 52), true, none⟩))

/-- R374, R375, R377, R380: a switch answers an allocation with the lowest free place, which is then the tenant's extent and reads as zero; with no place free
it answers none; a tenant beyond its quota takes QUOTA. The model's choices here: log entry 50; log entry 151, that an unreachable package does not keep lalloc.m from completing. -/
def Obligations.LoftAllocation : Prop :=
  ∀ (s : State) (c i : Nat) (f : Flight) (mirrored : Bool) (size planes : W64), s.Inv →
    let k := s.ctx c
    let tenant := k.sr.tenant
    let p := planes.toNat % 32
    let q := planes.toNat / 256 % 32
    let on := if mirrored then [p, q] else [p]
    let n := size.toNat
    let used (x : Nat) : Nat := ((s.extents.filter fun e => (e.plane == x || e.mirror == some x) && e.tenant == tenant).map Extent.size).sum
    let fits (o : Nat) : Prop :=
      o + n ≤ Config.loftSize ∧
        ∀ e ∈ s.extents, (∃ x ∈ on, e.plane = x ∨ e.mirror = some x) → o + n ≤ e.start ∨ e.start + e.size ≤ o
    k.flightOf i = some f → f.elastic = false → k.trapped f = false → f.redo = some (.lalloc mirrored size planes) → (∀ x ∈ on, x ∉ s.lost) →
    ((∀ x ∈ on, used x + n ≤ s.quotaOf tenant x) → (mirrored = true → (s.extents.filter fun e => e.mirror.isSome).length + s.heldMirrors < 256) →
      (∀ o, fits o → (∀ u < o, ¬ fits u) →
        ∃ t, exec (.exactResultArrival c i) s = .next t ∧ t.extents = s.extents ++ [⟨p, o, n, tenant, if mirrored then some q else none⟩] ∧
          (∀ x ∈ on, ∀ j < n, cellAt t.mem (loftKey x (o + j)) = 0) ∧
          t.ctx c = k.answer i (BitVec.ofNat 64 (0xFF00000000000 + p * 2 ^ 39 + o)) true) ∧
      ((∀ o, ¬ fits o) → exec (.exactResultArrival c i) s = .next (s.setCtx c (k.answer i 0 false)))) ∧
    (s.quotaOf tenant p < used p + n →
      exec (.exactResultArrival c i) s =
        .next (s.setCtx c (k.failFlight i ⟨18, 5, BitVec.ofNat 64 (p * 2 ^ 56 + n / 2 ^ 16 % 2 ^ 36 * 2 ^ 16), true, none⟩)))

/-! ### Engines, walks, tasks and the fabric (R185 to R200, R252 to R306, R342 to R381) -/

/-- R235, R247, R253, R254, R258, R260, R265, R267, R268, R273, R278, R291, R293, R298, R299, R367, R376: an engine command enters its queue once that has room, and starts once the tokens it consumes
and what it comes after are done. kjoin, binrel, binkill and lfree act at their start; a copy, copyg or copyx then reads its list or its layout record, knows its rows and begins to
fill its bin, or completes with code 7 when one of them is invalid; semwait, bank, xfer and launch are in progress, and a semwait makes its test
and ends once it has passed. A walk takes one of the cluster's 64 slots with its first link as the link of hop 0, and its token stays incomplete. wstop
ends a live walk with code 11, its unread bins free; wbudget gives a live walk its budget; wsave writes the image of the cursor; wrest takes an image,
or refuses it with code 7, and the walk starts again, in STATE 2 or 4 from the sheaf that the image names. A funbind frees its claim and discards the
words of the channel, those in packets held back among them, or waits for its queue to be sent out, with code 15 where no package is there. The
model's choices here: log entry 63; log entry 34, the page span of an expanding row of copyg or copyx; log entries
105 and 110, that the lfree of a mirrored extent tells the domain over channel 6 in this step; log entry 67, that a wrest which refuses its
image leaves the cursor's other fields with STATE 0; log entry 124, that a walk which starts again keeps its REASON; log entry 107, that a funbind
discards the words held back of its channel; log entry 45, that a send queue to the device's own package never ends with code 15; log entry 146,
that a saved walk is not live; log entry 150, that an extent on a lost plane is freed. -/
def Obligations.EngineCommandsStart : Prop :=
  ∀ (s : State) (c : ECmd), s.findE c.id = some c →
    let done (t : State) (code : Nat) : Host.Outcome State Fault Refusal := .next (t.dropE c code)
    let started := exec (.eCommandStart c.id) s
    let goes : Host.Outcome State Fault Refusal := .next (s.putE { c with stage := .started })
    let cl := clusterOf c.ctx
    let passes (ref : Nat) (v : W64) (eq : Bool) : Bool := if eq then s.sem ref == v else decide (v.toInt ≤ (s.sem ref).toInt)
    let copies (lw ctl : W64) (rows : List (Nat × Nat × Nat)) (size : Nat) : Host.Outcome State Fault Refusal :=
      let t := (s.putE { c with stage := .started, rows := rows }).listDone c
      .next (if ctlBin ctl then t.setBin (binKey cl (ctlBinNo ctl)) ⟨1, false, 0, BitVec.ofNat 21 size, BitVec.ofNat 23 (lwAddr lw), some c.tenant⟩
        else t)
    (c.stage = .buffer → eRoom s c.ctx c.eng = true →
      exec (.eQueueEntry c.id) s = .next { s with ecmds := (s.ecmds.filter fun d => d.id != c.id) ++ [{ c with stage := .queued }] }) ∧
    (c.stage = .queued → (∀ t ∈ c.waits, s.tokDone (some t) = true) → (∀ i ∈ c.after, i ∉ s.outstanding c.ctx) → c.waitsFor s = false →
      (∀ ks, c.op = .kjoin ks → started = done s (((ks.map s.tokCode).find? fun x => x != 0).getD 0)) ∧
      (∀ ref v eq cls passed, c.op = .semwait ref v eq cls passed →
        started = .next (s.putE { c with stage := .started, op := .semwait ref v eq cls (passed || passes ref v eq) })) ∧
      (∀ h o x y m k, c.op = .bank h o x y m k → started = goes) ∧
      (∀ get h o dev a n, c.op = .xfer get h o dev a n → started = goes) ∧
      (∀ hf h a arg again snap, c.op = .launch hf h a arg again snap → started = goes) ∧
      (s.fillReady c = true →
        (∀ dir h o lw n ctl, c.op = .copy dir h o lw n ctl → started = copies lw ctl [(o, lwAddr lw, n)] n) ∧
        (∀ dir h list lw r ctl, c.op = .copyg dir h list lw r ctl →
          let index (i : Nat) : Nat := leNat (readCells s.mem (spadKey cl (list + 4 * i)) 4)
          let cnt := r.toNat % 2 ^ 32
          let row := r.toNat / 2 ^ 32
          let ok : Prop := ∀ i < cnt, index i % 32 = 0 ∧ index i + pageSpan ctl row ≤ pageBytes h.size
          (ok → started = copies lw ctl ((List.range cnt).map fun i => (index i, lwAddr lw + i * row, row)) (cnt * row)) ∧
          (¬ ok → started = done s 7)) ∧
        (∀ dir h l lw ctl, c.op = .copyx dir h l lw ctl →
          let f (i : Nat) : Nat := leNat (readCells s.mem (spadKey cl (l.toNat % 2 ^ 23 + 4 * i)) 4)
          let base := l.toNat / 2 ^ 64 % 2 ^ 64
          let rows := l.toNat / 2 ^ 128 % 2 ^ 32
          let planes := l.toNat / 2 ^ 160
          let span := (planes - 1) * f 7 + (rows - 1) * f 6 + f 0
          let ok : Prop := f 0 % 32 = 0 ∧ 32 ≤ f 0 ∧ f 0 ≤ 4096 ∧ 1 ≤ f 1 ∧ f 1 ≤ 65536 ∧ 1 ≤ f 2 ∧ f 2 ≤ 65536 ∧ f 3 = 0 ∧
            f 4 % 32 = 0 ∧ f 5 % 32 = 0 ∧ f 6 % 32 = 0 ∧ f 7 % 32 = 0 ∧ 1 ≤ rows ∧ rows ≤ f 1 ∧ 1 ≤ planes ∧ planes ≤ f 2 ∧
            base + (planes - 1) * f 5 + (rows - 1) * f 4 + pageSpan ctl (f 0) ≤ pageBytes h.size ∧
            (s.ctx c.ctx).allots (lwAddr lw) span = true ∧ span ≤ 1048576
          (ok → started = copies lw ctl ((List.range planes).flatMap fun p => (List.range rows).map fun r =>
            (base + p * f 5 + r * f 4, lwAddr lw + p * f 7 + r * f 6, f 0)) span) ∧
          (¬ ok → started = done s 7))) ∧
      (∀ n, c.op = .binrel n →
        let key := binKey (clusterOf c.ctx) n
        let b := s.bin key
        started =
          if b.state ≠ 3 then done s 8
          else if 2 ≤ b.readers.toNat then done (s.setBin key { b with readers := b.readers - 1 }) 0
          else done (s.setBin key { b with state := 0, poison := false, readers := 0, tenant := none }) 0) ∧
      (∀ n, c.op = .binkill n →
        let key := binKey (clusterOf c.ctx) n
        let b := s.bin key
        b.state ≠ 0 → (∀ d ∈ s.ecmds, d.stage = .started → clusterOf d.ctx = clusterOf c.ctx → d.op.fillBin ≠ some n) →
        (∀ w ∈ s.walks, clusterOf w.ctx = clusterOf c.ctx → w.filling = false) →
        started = done (s.setBin key { b with state := 0, poison := false, readers := 0, tenant := none }) 0) ∧
      (∀ a, c.op = .lfree a →
        let hit (e : Extent) : Bool := 0xFF00000000000 + e.plane * 2 ^ 39 + e.start == a.toNat && e.tenant == c.tenant
        (∀ e, s.extents.find? hit = some e →
          let t := { s with extents := s.extents.filter fun e => !hit e }
          started = done (if e.mirror.isSome then t.tellDomain else t) 0) ∧
        ((∀ e ∈ s.extents, hit e = false) → started = done s 16)) ∧
      (let k := s.ctx c.ctx
       let cursor (n : Nat) : Cursor := vget k.regs.w n 0
       let free : Prop := (s.walks.filter fun w => clusterOf w.ctx == cl).length < 64
       let sets (n : Nat) (v : Cursor) : State := s.setCtx c.ctx { k with regs := { k.regs with w := vset k.regs.w n v } }
       let like (v o : Cursor) (lo n : Nat) : Prop := v.extractLsb' 0 lo = o.extractLsb' 0 lo ∧ v.extractLsb' (lo + n) (256 - lo - n) = o.extractLsb' (lo + n) (256 - lo - n)
       let live (n : Nat) (w : Walk) : Prop := ((cursor n).state = 1 ∨ (cursor n).state = 2) ∧ s.walkOf c.ctx n = some w
       let begins (u : State) (n : Nat) (v : Cursor) (link : BitVec 128) (again : Bool) : Prop :=
         started = .next u ∧ vget (u.ctx c.ctx).regs.w n 0 = v ∧ u.toks = s.toks ∧ u.mem = s.mem ∧ u.bins = s.bins ∧ (∀ e ∈ u.ecmds, e.id ≠ c.id) ∧
         ∃ w, u.walks = s.walks ++ [w] ∧ w.id = c.id ∧ w.ctx = c.ctx ∧ w.wc = n ∧ w.tok = c.tok ∧ w.hop = 0 ∧ w.link = link ∧ w.next = v.next ∧
           w.restart = again ∧ w.reread = again ∧ w.filling = false ∧ w.landed = [] ∧ w.delivered = 0 ∧ w.endAt = none ∧ w.reason = none
       (∀ n link land bytes, c.op = .walk n link land bytes → n < 8 → free → k.cursorDue n = false →
         ∃ u v, begins u n v link false ∧ v.state = 1 ∧ like v (cursor n) 252 4) ∧
       (∀ n, c.op = .wstop n → n < 8 →
         ((∀ w, ¬ live n w) → started = done s 13) ∧
         (∀ w, live n w → w.filling = false → ∃ u v, started = done u 0 ∧ s.completes u w.tok 11 ∧ u.walks = s.walks.filter (fun y => y.id != w.id) ∧
           u.mem = s.mem ∧ vget (u.ctx c.ctx).regs.w n 0 = v ∧ v.state = 4 ∧ v.reason = 0 ∧ v.extractLsb' 0 232 = (cursor n).extractLsb' 0 232 ∧
           v.extractLsb' 240 12 = (cursor n).extractLsb' 240 12 ∧
           ∀ b, let bin := s.bin (binKey cl b)
             u.bin (binKey cl b) = if (∃ l ∈ w.landed, l.bin = b) ∧ bin.state = 2 then { bin with state := 0, readers := 0, tenant := none } else bin)) ∧
       (∀ n b, c.op = .wbudget n b → n < 8 →
         ((∀ w, ¬ live n w) → started = done s 13) ∧
         (∀ w, live n w → ∃ v, started = done (sets n v) 0 ∧ v.budget = (if b = 0 then 65535 else b.toNat) ∧ like v (cursor n) 176 16)) ∧
       (∀ n a, c.op = .wsave n a → (cursor n).state ≠ 5 →
         started = done { s with mem := writeCells s.mem (spadKey cl a) (leBytes 32 (cursor n).toNat) } 0) ∧
       (∀ n a, c.op = .wrest n a → n < 8 → k.cursorDue n = false →
         let v : Cursor := BitVec.ofNat 256 (leNat (readCells s.mem (spadKey cl a) 32))
         let link : BitVec 128 := BitVec.ofNat 128 (v.addr + v.gen * 2 ^ 64 + v.device * 2 ^ 104 + v.kind * 2 ^ 126)
         let ok : Prop := 1 ≤ v.state ∧ v.state ≤ 4 ∧ v.extractLsb' 192 39 = 0 ∧ v.extractLsb' 169 7 = 0 ∧ v.extractLsb' 151 9 = 0 ∧
           v.extractLsb' 96 8 = 0 ∧ v.extractLsb' 52 12 = 0 ∧ 1 ≤ v.z ∧ v.z ≤ 257 ∧ v.land % 128 = 0 ∧
           ∀ i < v.depth, let b := s.bin (binKey cl (8 * v.group + i))
             b.state = 0 ∨ b.tenant = some k.sr.tenant
         (¬ ok → ∃ x, started = done (sets n x) 7 ∧ x.state = 0 ∧ like x (cursor n) 252 4) ∧
         (ok → v.state = 3 → ∃ u, started = .next u ∧ vget (u.ctx c.ctx).regs.w n 0 = v ∧ s.completes u c.tok 0 ∧ u.walks = s.walks ∧ u.mem = s.mem) ∧
         (ok → v.state = 1 → free → ∃ u, begins u n v link false) ∧
         (ok → v.state = 2 ∨ v.state = 4 → free → ∃ u x, begins u n x link true ∧ x.state = 2 ∧ like x v 252 4))) ∧
      (∀ ch lost, c.op = .funbindRecv ch lost →
        let key := cl * 256 + ch
        let words := (alGet s.chans key).getD []
        ∃ u, started = .next u ∧ alGet u.claims key = none ∧ alGet u.chans key = none ∧ u.heldWords key = 0 ∧
          (∀ j, j ≠ key → alGet u.claims j = alGet s.claims j ∧ alGet u.chans j = alGet s.chans j ∧ u.heldWords j = s.heldWords j) ∧
          { c with stage := .started, op := .funbindRecv ch (decide (words ≠ [] ∨ s.heldWords key ≠ 0)) } ∈ u.ecmds) ∧
      (∀ q, c.op = .funbindSend q →
        let v := { c with stage := .started }
        (s.sendOf q = none → started = done s 0) ∧
        (∀ e, s.sendOf q = some e →
          let drained : Prop := e.closed = true ∧ e.entries = []
          let dev := e.addr.toNat / 2 ^ 44
          let gone : Prop := dev ≠ s.device.toNat ∧ (dev ∈ s.unreachable ∨ dev ∉ s.present)
          (¬ drained → gone → started = done (s.putE v) 15) ∧ (¬ drained → ¬ gone → started = goes) ∧
          (drained → s.ecmds.find? (fun d => d.op == .funbindSend e.id) = some c → started = done ((s.putE v).setSend e.id none) 0)))) ∧
    (∀ ref v eq cls passed, c.stage = .started → c.op = .semwait ref v eq cls passed →
      exec (.semwaitTest c.id) s = if (passed || passes ref v eq) = true then done s 0 else .next s)

/-- R165, R267 to R269, R284, R377, R381: what completed transfers leave. A copy moves its rows one after another, to or from a page or a tile, with
compressed images expanded, full tags and a full bin where its options say so; a bank product leaves its sums, in INT8 modulo 2^32 and in BF16
rounded to FP32 step by step; xfer moves bytes to or from a page of this package or another, or completes with code 15 or 18. In the tenant's
one extent of a loft plane an engine reads and writes the plane's bytes, and writes the mirror's too. The model's choices here: log entries 13 and
36; log entry 37, that the far range of an xfer to this package is translated by the TLB of the issuing context's die; log entry 58, other packages as plain data, their pages as bytes of the one memory; log entry 105, that an xfer takes a packet's number for
each 256 bytes, acknowledged in this step. -/
def Obligations.TransfersComplete : Prop :=
  (∀ (s : State) (h : Handle) (tenant : BitVec 16) (e : Extent) (core o : Nat) (bs : List Byte), s.Inv → h.tgt = 1 → e ∈ s.extents →
    e.tenant = tenant → e.plane = h.plane.toNat → e.mirror ≠ some e.plane →
    (∀ x ∈ s.extents, x.tenant = tenant → (x.plane = e.plane ∨ x.mirror = some e.plane) → x = e) → e.plane ∉ s.lost →
    let at_ := h.ppn.toNat * 65536 + o
    e.start ≤ at_ → at_ + bs.length ≤ e.start + e.size → e.size ≤ Config.loftSize → e.start + e.size ≤ Config.loftSize →
    s.pageRead h o bs.length tenant = readCells s.mem (loftKey e.plane at_) bs.length ∧
    ∀ p i, i < Config.loftSize → cellAt (s.pageWrite core h o tenant bs).mem (loftKey p i) =
      if (p = e.plane ∨ e.mirror = some p) ∧ at_ ≤ i ∧ i < at_ + bs.length then (bs[i - at_]?).getD 0 else cellAt s.mem (loftKey p i)) ∧
  ∀ (s : State) (c : ECmd), s.findE c.id = some c → c.stage = .started →
    let core := coreOf c.ctx
    let cl := clusterOf c.ctx
    let done (t : State) (code : Nat) : Host.Outcome State Fault Refusal := .next (t.dropE c code)
    (∀ dir h lw ctl, c.op.copyParts = some (dir, h, lw, ctl) → lwKind lw ≠ 1 →
      (∀ r ∈ c.rows, s.pageFails h r.1 (if dir then r.2.2 else pageSpan ctl r.2.2) c.tenant (!dir) = false) →
      let moves (t : State) (r : Nat × Nat × Nat) : State :=
        if dir then t.pageWrite core h r.1 c.tenant (readCells t.mem (spadKey cl r.2.1) r.2.2)
        else { t with mem := writeCells t.mem (spadKey cl r.2.1) (t.rowBytes h ctl c.tenant r.1 r.2.2)
                      tags := if ctlFull ctl then setTags t.tags cl r.2.1 (List.replicate (r.2.2 / 4) true) else t.tags }
      let t := c.rows.foldl moves s
      let key := binKey cl (ctlBinNo ctl)
      exec (.copyComplete c.id) s = done (if ctlBin ctl then t.setBin key { t.bin key with state := 2 } else t) 0) ∧
    (∀ dir h o lw n ctl, c.op = .copy dir h o lw n ctl → c.rows = [(o, lwAddr lw, n)] → lwKind lw = 1 → h.tgt ≠ 1 → n = 16384 →
      ctlExp ctl = false → ctlBin ctl = false → s.Inv →
      let tile := lwAddr lw % 32
      ∃ t, exec (.copyComplete c.id) s = done t 0 ∧
        (dir = true → t.tiles = s.tiles ∧ (∀ i < 64, ∀ j < 64,
          BitVec.ofNat 32 (leNat (readCells t.mem (h.key o + 256 * i + 4 * j) 4)) = s.tileElem core tile i j) ∧
          ∀ a, a < h.key o ∨ h.key o + 16384 ≤ a → cellAt t.mem a = cellAt s.mem a) ∧
        (dir = false → t.mem = s.mem ∧ ∀ i < 64, ∀ j < 64,
          t.tileElem core tile i j = BitVec.ofNat 32 (leNat (((h.read s.mem o n).drop (256 * i + 4 * j)).take 4)))) ∧
    (∀ h o x y m k, c.op = .bank h o x y m k → s.Inv →
      let w := if h.bankl = 1 then 1 else 2
      let page := s.pageRead h o (m * k * w) c.tenant
      let vec := readCells s.mem (spadKey cl x) (k * w)
      let bf (bs : List Byte) (i : Nat) : Nat := toFp32 .bf16 (leNat ((bs.drop (2 * i)).take 2))
      s.pageFails h o (m * k * w) c.tenant true = false →
      ∃ t, exec (.bankComplete c.id) s = done t 0 ∧ t.ctxs = s.ctxs ∧ t.toks = s.toks ∧
        (∀ i < m, BitVec.ofNat 32 (leNat (readCells t.mem (spadKey cl (y + 4 * i)) 4)) =
          if h.bankl = 1 then BitVec.ofInt 32 (∑ j ∈ Finset.range k, ((page[k * i + j]?).getD 0).toInt * ((vec[j]?).getD 0).toInt)
          else BitVec.ofNat 32 (((List.range k).map fun j => mulFp32 (bf page (k * i + j)) (bf vec j)).foldl (addFp32 0) 0)) ∧
        (∀ a, a < spadKey cl y ∨ spadKey cl y + 4 * m ≤ a → cellAt t.mem a = cellAt s.mem a)) ∧
    (∀ get h o dev a n, c.op = .xfer get h o dev a n → h.tgt ≠ 1 →
      let far := remoteKey dev c.tenant.toNat a.toNat
      (dev ≠ s.device.toNat →
        (dev ∉ s.present ∨ dev ∈ s.unreachable → exec (.xferComplete c.id) s = done s 15) ∧
        (dev ∈ s.present → dev ∉ s.unreachable →
          exec (.xferComplete c.id) s =
            if s.remotePage dev c.tenant a.toNat n (!get) then
              let l := s.link dev 2
              let t := { s with links := alSet s.links (dev * 8 + 2) { l with txNext := (l.txNext + (n + 255) / 256) % 65536 } }
              done (if get then t.perform core (h.key o) (readCells s.mem far n)
                else { t with mem := writeCells s.mem far (h.read s.mem o n) }) 0
            else done (s.acked dev 2) 18)) ∧
      (dev = s.device.toNat →
        (∀ t, s.translate (dieOf c.ctx) c.tenant a.toNat = (none, t) → exec (.xferComplete c.id) s = done t 18) ∧
        (∀ p t, s.translate (dieOf c.ctx) c.tenant a.toNat = (some p, t) → p.tgt ≠ 1 →
          let po := a.toNat % pageBytes p.size
          exec (.xferComplete c.id) s =
            if (if get then p.r else p.w) = true ∧ po + n ≤ pageBytes p.size then
              done (if get then t.perform core (h.key o) (p.read t.mem po n) else t.perform core (p.key po) (h.read t.mem o n)) 0
            else done t 18)))

/-- R288 to R297, R299, R306: a step of a walk's gleaner: at a link of KIND 00 the walk ends with code 0, or stops with reason 1 when its ADDR is not 0; a
malformed link stops it with reason 2 or 3; without budget it pauses with reason 6; a package out of reach pauses it with reason 8, a lost plane
stops it with reason 9, and a sheaf without a page that it may read pauses it with reason 7; a stale GEN stops it with reason 5 and code 9, a sheaf
too large for its slot or its page, or in a chain one that is no well-formed core, with reason 4. A hop in HBM whose checks pass reads the header into
the free bin and names the next link by its furrow; and the end of the fill brings the payload and makes the bin full, unless the sheaf has gone
meanwhile or its GEN, read again, is stale, when the bin is free. A walk that wrest has restarted first reads the header of the sheaf its cursor names: a
stale GEN stops it at position 0, and otherwise it follows that sheaf's link. The model's choices here: log entry 65; log entry 58, other packages as
plain data; log entry 114, that a fill that fails between its two steps leaves its reason at the hop's position and its bin free; log entry 123, that a
restarted walk checks nothing else of the link it reads again; log entry 125, that a chain's check stands behind those of GEN and size; log entry 126,
which commands' bytes keep a fill back; log entry 143, that a link to a lost plane stops the walk before any translation; log entry 141, that a
NEXT which is not below D names a bin modulo D. -/
def Obligations.GleanerHops : Prop :=
  ∀ (s : State) (w : Walk), s.walks.find? (fun x => x.id == w.id) = some w →
    let cu := vget (s.ctx w.ctx).regs.w w.wc 0
    let l := w.link
    let cl := clusterOf w.ctx
    let tenant := (s.ctx w.ctx).sr.tenant
    let kind := l.toNat / 2 ^ 126
    let dev := l.toNat / 2 ^ 104 % 2 ^ 20
    let addr := l.toNat % 2 ^ 52
    let malformed : Prop := l.toNat / 2 ^ 124 % 4 ≠ 0 ∨ l.toNat % 128 ≠ 0 ∨ l.toNat / 2 ^ 52 % 2 ^ 12 ≠ 0
    let misplaced : Prop := (kind = 1 ∧ dev ≠ 0) ∨ (kind = 2 ∧ dev = s.device.toNat) ∨ (kind = 3 ∧ (dev / 32 ≠ 0 ∨ 23 < dev % 32))
    let later : Prop := 1 ≤ w.hop ∨ w.restart = true
    let checks : Prop := later ∨ cu.chk = true
    let pauses (u : State) (i r : Nat) (k : BitVec 128) : State := u.putWalk { w with reason := some (i, r, k), filling := false }
    let stops (u : State) (i r code : Nat) (k : BitVec 128) : State := (pauses u i r k).finishTok w.tok code
    let field (b : List Byte) (at_ n : Nat) : Nat := leNat ((b.drop at_).take n)
    let genOf (b : List Byte) : Nat := field b 64 4
    let linkOf (b : List Byte) : BitVec 128 := BitVec.ofNat 128 (field b (16 * cu.furrow) 16)
    let wellFormed (b : List Byte) : Prop :=
      let fmt := field b 68 4 % 16
      (fmt = 0 ∨ fmt = 5) ∧ 1 ≤ field b 80 2 ∧ field b 80 2 ≤ 64 ∧ 1 ≤ field b 82 2 ∧ field b 82 2 ≤ 4096 ∧ 1 ≤ field b 84 2 ∧ field b 84 2 ≤ 64 ∧
      field b 86 10 = 0 ∧ (if fmt = 0 then 1 else 2) * field b 80 2 * field b 82 2 * field b 84 2 ≤ field b 72 4
    let readable (p : Handle) : Prop := p.r = true ∧ p.cview = 0 ∧ p.tgt = 0
    let hop := exec (.gleanerHop w.id) s
    (w.filling = false → w.reason = none → w.endAt = none → w.reread = false →
      (kind = 0 → l.toNat % 2 ^ 64 = 0 → hop = .next ((s.putWalk { w with endAt := some w.hop }).finishTok w.tok 0)) ∧
      (kind = 0 → l.toNat % 2 ^ 64 ≠ 0 → hop = .next (stops s w.hop 1 10 l)) ∧
      (kind ≠ 0 → malformed → hop = .next (stops s w.hop 2 10 l)) ∧ (kind ≠ 0 → ¬ malformed → misplaced → hop = .next (stops s w.hop 3 10 l)) ∧
      (kind ≠ 0 → ¬ malformed → ¬ misplaced →
        (later → cu.budget = 0 → hop = .next (pauses s w.hop 6 l)) ∧
        ((later → cu.budget ≠ 0) →
          (kind = 2 → dev / 256 ≠ s.device.toNat / 256 ∨ dev ∉ s.present ∨ dev ∈ s.unreachable → hop = .next (pauses s w.hop 8 l)) ∧
          (kind = 3 → dev % 32 ∈ s.lost → hop = .next (stops s w.hop 9 12 l)) ∧
          (∀ t, kind = 1 → s.translate (dieOf w.ctx) tenant addr = (none, t) → hop = .next (pauses t w.hop 7 l)) ∧
          (∀ p t, kind = 1 → s.translate (dieOf w.ctx) tenant addr = (some p, t) → ¬ readable p → hop = .next (pauses t w.hop 7 l)) ∧
          (∀ p t, kind = 1 → s.translate (dieOf w.ctx) tenant addr = (some p, t) → readable p → s.Inv →
            let n := cu.bin w.next
            let room := pageBytes p.size - addr % pageBytes p.size
            let head := readCells s.mem (hbmKey (p.ppn.toNat * 65536 + addr % pageBytes p.size)) 128
            let size := 128 + field head 72 4
            let base := cu.land + 256 * cu.z * (n - 8 * cu.group)
            let fits : Prop := size ≤ 65536 + 128 ∧ size ≤ 256 * cu.z ∧ size ≤ room
            (s.bin (binKey cl n)).state = 0 →
            (∀ m ∈ s.mcmds, m.id < w.id ∨ m.stage = .started → m.locks (coreOf w.ctx) base (256 * cu.z) true = false) →
            (checks → genOf head ≠ l.toNat / 2 ^ 64 % 2 ^ 32 → hop = .next (stops t w.hop 5 9 l)) ∧
            ((checks → genOf head = l.toNat / 2 ^ 64 % 2 ^ 32) →
              (¬ fits → hop = .next (stops t w.hop 4 10 l)) ∧
              (fits → cu.core = true → ¬ wellFormed head → hop = .next (stops t w.hop 4 10 l)) ∧
              (fits → (cu.core = true → wellFormed head) →
                ∃ u, hop = .next u ∧ readCells u.mem (spadKey cl base) 128 = head ∧
                  (∀ a, a < spadKey cl base ∨ spadKey cl base + 128 ≤ a → cellAt u.mem a = cellAt s.mem a) ∧
                  u.bin (binKey cl n) = ⟨1, false, 0, BitVec.ofNat 21 size, BitVec.ofNat 23 base, some tenant⟩ ∧
                  (∃ x ∈ u.walks, x.id = w.id ∧ x.filling = true ∧ x.hop = w.hop ∧ x.link = linkOf head) ∧
                  (later → w.wc < 8 → (vget (u.ctx w.ctx).regs.w w.wc 0).budget = cu.budget - 1))))))) ∧
    (w.filling = false → w.reason = none → w.endAt = none → w.reread = true →
      let name : BitVec 128 := BitVec.ofNat 128 (cu.addr + cu.gen * 2 ^ 64 + cu.device * 2 ^ 104 + cu.kind * 2 ^ 126)
      (cu.kind = 3 → cu.device % 32 ∈ s.lost → hop = .next (stops s 0 9 12 name)) ∧
      (cu.kind = 1 →
        (∀ t, s.translate (dieOf w.ctx) tenant cu.addr = (none, t) → hop = .next (pauses t 0 7 name)) ∧
        (∀ p t, s.translate (dieOf w.ctx) tenant cu.addr = (some p, t) → readable p →
          let head := readCells s.mem (hbmKey (p.ppn.toNat * 65536 + cu.addr % pageBytes p.size)) 128
          (genOf head ≠ cu.gen → hop = .next (stops t 0 5 9 name)) ∧
          (genOf head = cu.gen → hop = .next (t.putWalk { w with reread := false, link := linkOf head }))))) ∧
    (∀ e, w.filling = true → w.landed.getLast? = some e → s.Inv →
      let b := s.bin (binKey cl e.bin)
      let at_ := spadKey cl (b.base.toNat + 128)
      let n := b.size.toNat - 128
      let stale : Prop := checks ∧ leNat (readCells s.mem (w.src + 64) 4) ≠ e.link.toNat / 2 ^ 64 % 2 ^ 32
      let gives (u : State) (r : Nat) : Prop :=
        hop = .next u ∧ u.bin (binKey cl e.bin) = { b with state := 0, poison := false, readers := 0, tenant := none } ∧
          ∃ x ∈ u.walks, x.id = w.id ∧ x.filling = false ∧ x.landed = w.landed.dropLast ∧ x.link = e.link ∧ x.reason = some (w.hop, r, e.link)
      (∀ r, s.readFails w.ctx e.link w.src b.size.toNat = some r → ∃ u, gives u r ∧ u.mem = s.mem) ∧
      (s.readFails w.ctx e.link w.src b.size.toNat = none → stale →
        ∃ u, gives u 5 ∧ s.completes u w.tok 9 ∧ ∀ a, a < at_ ∨ at_ + n ≤ a → cellAt u.mem a = cellAt s.mem a) ∧
      (s.readFails w.ctx e.link w.src b.size.toNat = none → ¬ stale →
        ∃ u, hop = .next u ∧ readCells u.mem at_ n = readCells s.mem (w.src + 128) n ∧
          (∀ a, a < at_ ∨ at_ + n ≤ a → cellAt u.mem a = cellAt s.mem a) ∧ u.bin (binKey cl e.bin) = { b with state := 2 } ∧
          (∃ x ∈ u.walks, x.id = w.id ∧ x.filling = false ∧ x.hop = w.hop + 1)))

/-- R189 to R198: a launch reads its record, and not while a store to it is half performed: a refused one completes with the code of the first
check that fails, one that SINGLE holds back is set aside and taken anew once no instance from its address lives, and otherwise it enters the pending
set of its home die, or is kept until there is room. The home is the channel of HBM that AFFINITY names, or else the launching context's cluster. A
record whose WAITs hold takes the core with room that is nearest its home cluster, and after its wait the first of the other dies; one that can be
placed and that nothing goes before starts its contexts with the record's values and with its tiles zero; levels rise to 3. The model's choices here: log
entry 16, that nothing is in the core's L1 after a placement; log entry 38; log entry 85, that a level rises and the wait for the home die ends whenever
the step is asked for; log entry 121, the die whose TLB translates AFFINITY; log entry 129, that a tile which a command of a killed context still uses
is not free; log entry 136, that the snapshot of a record on a host page never ends in an error. -/
def Obligations.LaunchesAndPlacement : Prop :=
  (∀ (s : State) (c : ECmd) (hf : Bool) (h : Handle) (a : Nat) (arg : W64) (again : Bool) (snap : Option (List Byte)), s.findE c.id = some c →
    c.op = .launch hf h a arg again snap → (again = false → c.stage = .started) →
    let key := launchKey c.ctx hf h a
    let enters (r : List Byte) : Host.Outcome State Fault Refusal :=
      let home := s.homeOf c.ctx r
      .next { home.2.passE c with pendings := home.2.pendings ++ [⟨home.2.next, c.tok, home.1, r, key, arg, recPrio r, false⟩]
                                  next := home.2.next + 1 }
    let room (r : List Byte) : Prop :=
      let home := s.homeOf c.ctx r
      (home.2.pendings.filter fun p => p.home / 32 == home.1 / 32).length < Config.pendingMax
    ((again = true ∨ snap = none) → (hf = true → h.tgt ≠ 1) → (again = true → s.liveFrom key = false) →
      let takes := if again then exec (.singleResnapshot c.id) s else exec (.launchSnapshot c.id) s
      let r := if hf then h.read s.mem a 128 else readCells s.mem (spadKey (clusterOf c.ctx) a) 128
      let code := s.refusal r c.tenant (s.ctx c.ctx).stream
      let field (o n : Nat) : Nat := leNat ((r.drop o).take n)
      let ref (i : Nat) : Nat := field (40 + 8 * i) 8
      let on (i : Nat) : Prop := (ref i).testBit 15 = true
      let wrongCode : Prop := field 0 8 % 16 ≠ 0 ∨ 2 ^ 52 ≤ field 0 8
      let wrongLimit : Prop :=
        field 16 4 % 256 ≠ 0 ∨ 2 ^ 23 ≤ field 16 4 ∨ field 20 4 % 256 ≠ 0 ∨ 0x600000 < field 16 4 + field 20 4 ∨ 31 < field 24 1 ∨ 32 < field 25 1 ∨
          32 < field 24 1 + field 25 1 ∨ field 26 1 = 0 ∨ 4 < field 26 1 ∨ 1023 < field 28 2 ∨ field 27 1 / 4 % 16 ≠ 0
      let stream : Prop := (s.ctx c.ctx).stream = true
      let wrongTenant : Prop := field 30 2 ≠ c.tenant.toNat ∧ ¬ stream
      let wrongRef : Prop := ∃ i < 4, (on i ∧ 23 < ref i / 2 ^ 8 % 32) ∨ (¬ on i ∧ ref i ≠ 0)
      let notOwn : Prop := ¬ stream ∧ ∃ i < 4, on i ∧ (s.semTen.find? fun p => p.1 == ref i / 2 ^ 8 % 128).map Prod.snd ≠ some (BitVec.ofNat 16 (field 30 2))
      s.recordTorn c hf h a = false →
      (code ≠ 0 → takes = .next (s.dropE c code)) ∧
      (wrongCode → code = 1) ∧ (¬ wrongCode → wrongLimit → code = 2) ∧ (¬ wrongCode → ¬ wrongLimit → wrongTenant → code = 3) ∧
      (¬ wrongCode → ¬ wrongLimit → ¬ wrongTenant →
        (wrongRef → code = 4) ∧ (¬ wrongRef → notOwn → code = 6) ∧ (¬ wrongRef → ¬ notOwn → code = 0)) ∧
      (code = 0 → recSingle r = true → s.liveFrom key = true → takes = .next (s.putE { c with op := .launch hf h a arg true none })) ∧
      (code = 0 → (recSingle r = true → s.liveFrom key = false) →
        (room r → takes = enters r) ∧ (¬ room r → takes = .next (s.putE { c with op := .launch hf h a arg false (some r) })))) ∧
    (again = false → snap = none → s.recordTorn c hf h a = true → ∃ f, exec (.launchSnapshot c.id) s = .fault f) ∧
    (∀ r, again = false → snap = some r → room r → exec (.launchSnapshot c.id) s = enters r)) ∧
  (∀ (s : State) (c : Nat) (r : List Byte),
    let a := leNat ((r.drop 8).take 8)
    let tenant : BitVec 16 := BitVec.ofNat 16 (leNat ((r.drop 30).take 2))
    (a = 0 → s.homeOf c r = (clusterOf c, s)) ∧
    (a ≠ 0 → ∀ t, s.translate (dieOf c) tenant a = (none, t) → s.homeOf c r = (clusterOf c, t)) ∧
    (a ≠ 0 → ∀ h t, s.translate (dieOf c) tenant a = (some h, t) →
      let pa := h.ppn.toNat * 65536 + a % pageBytes h.size
      let stack := pa / 2 ^ 36 % 16
      (h.tgt ≠ 0 → s.homeOf c r = (clusterOf c, t)) ∧
      (h.tgt = 0 → s.homeOf c r = (stack / 3 * 32 + (8 * (stack % 3) + pa / 2 ^ 12 % 32 % 8), t)))) ∧
  (∀ (s : State) (p : Pending),
    let die := p.home / 32
    let r := p.record
    let ref (i : Nat) : Nat := leNat ((r.drop (40 + 8 * i)).take 8)
    let holds : Prop := ∀ i < 2, (ref i).testBit 15 = true → (BitVec.ofNat 48 (ref i / 2 ^ 16)).toInt ≤ (s.sem (ref i % 2 ^ 15)).toInt
    let cluster (core : Nat) : Nat := core / 8 % 32
    let far (core : Nat) : Nat := clusterGap (cluster core) (p.home % 32)
    let atHome (core : Nat) : Prop := core / 256 = die ∧ cluster core < 24 ∧ s.hasRoom core r
    let away (core : Nat) : Prop := core / 256 < 4 ∧ core / 256 ≠ die ∧ cluster core < 24 ∧ s.hasRoom core r
    let room := if (s.homeRoom p).isSome then s.homeRoom p else if p.anyDie then s.awayRoom p else none
    (s.waitsHold r = true ↔ holds) ∧
    (p.home % 32 < 24 → die < 4 → ∀ core cs,
      (s.homeRoom p = some (core, cs) ↔ atHome core ∧ cs = (s.idle core).take (recCtxs r) ∧
        ∀ d, atHome d → far core < far d ∨ (far core = far d ∧ core ≤ d)) ∧
      (s.awayRoom p = some (core, cs) ↔ away core ∧ cs = (s.idle core).take (recCtxs r) ∧
        ∀ d, away d → dieGap (core / 256) die < dieGap (d / 256) die ∨ (dieGap (core / 256) die = dieGap (d / 256) die ∧ core ≤ d))) ∧
    (¬ holds → s.placeFor p = (none, s)) ∧ (holds → room = none → s.placeFor p = (none, s)) ∧
    (∀ core cs, holds → room = some (core, cs) →
      (recSlots r = 0 → s.placeFor p = (some (.on core cs []), s)) ∧
      (∀ t, s.slotsOf (core / 256) r = (some none, t) → s.placeFor p = (some .drop, t)) ∧
      (∀ es t, s.slotsOf (core / 256) r = (some (some es), t) →
        s.placeFor p = if ∃ e ∈ es, ∃ q ∈ t.slots, q.1 = e.1 then (none, t) else (some (.on core cs es), t)))) ∧
  (∀ (s : State) (p : Pending), s.pendings.find? (fun x => x.id == p.id) = some p →
    let places := exec (.instancePlacement p.id) s
    (s.recordBefore p = false → s.imageBefore (p.home / 32) p.level = false →
      (∀ t, s.placeFor p = (some .drop, t) → places = .next ({ t with pendings := t.pendings.filter fun x => x.id != p.id }.finishTok p.tok 21)) ∧
      (∀ core cs es t, s.placeFor p = (some (.on core cs es), t) → cs.Nodup → s.Inv →
        let r := p.record
        ∃ u, places = .next u ∧ (∀ x ∈ u.pendings, x.id ≠ p.id) ∧
          (∃ i ∈ u.insts, i.id = t.next ∧ i.tok = p.tok ∧ i.core = core ∧ i.ctxs = cs ∧ i.ended = []) ∧
          (∀ k, tileKey core (recAcb r) ≤ k → k < tileKey core (recAcb r) + 4096 * recAcn r → cellAt u.tiles k = 0) ∧
          (∀ l ∈ u.lines, l.1 ≠ core) ∧
          (∀ j c, cs[j]? = some c →
            let k := u.ctx c
            k.run = .running ∧ k.pc = BitVec.ofNat 64 (recCode r) ∧ k.regs.rx 1 = ⟨BitVec.ofNat 64 j, false⟩ ∧
            k.regs.rx 2 = ⟨BitVec.ofNat 64 (recCtxs r), false⟩ ∧ k.regs.rx 3 = ⟨p.arg, false⟩ ∧
            (∀ m < 7, vget k.regs.y (m + 1) Reg.zero = ⟨BitVec.ofNat 64 (leNat ((r.drop (72 + 8 * m)).take 8)), false⟩) ∧
            k.sr.slack = BitVec.ofNat 64 (recSlack r) ∧ k.sr.tenant = BitVec.ofNat 16 (recTenant r) ∧ k.spBase = recBase r ∧
            k.spSize = recSize r ∧ k.acb = recAcb r ∧ k.acn = recAcn r))) ∧
    (p.level < 3 →
      exec (.pendingLevelAging p.id) s =
        .next { s with pendings := s.pendings.map fun x => if x.id = p.id then { x with level := x.level + 1 } else x }) ∧
    (p.anyDie = false → s.waitsHold p.record = true → s.homeRoom p = none →
      exec (.crossDieWaitExpiry p.id) s =
        .next { s with pendings := s.pendings.map fun x => if x.id = p.id then { x with anyDie := true } else x }))

/-- R199, R200, R220, R342 to R344, R391: a retired context whose commands and stores are done becomes free, an instance whose contexts have all ended
completes its launch and adds its SIGs, an instance that is to stop is saved once it is quiet, with its bytes, tags and tiles, and comes back
with them where there is room, and an invalidation is acknowledged once its accesses are settled. The model's choices here: log entries 44, 52, 54
and 55; log entry 146, which commands a save waits for; log entries 145 and 149, how a saved walk starts again and in what order images
resume; log entry 88, that a part ends with its results that have not arrived dropped, words for a FIFO excepted. -/
def Obligations.InstancesEnd : Prop :=
  (∀ (s : State) (c : Nat) (ks : List (Option Nat)), (s.ctx c).retiring = some ks →
    ((s.ctx c).task = none → exec (.contextPartEnd c) s = .next (s.setCtx c { s.ctx c with retiring := none })) ∧
    (∀ i j x, (s.ctx c).task = some (i, j) → s.insts.find? (fun y => y.id == i) = some x → (∀ t ∈ ks, s.tokDone t = true) →
      (s.ctx c).stores = [] → (s.ctx c).due = none → (∀ m ∈ s.mcmds, m.ctx ≠ c) → (∀ e ∈ s.ecmds, e.ctx ≠ c) →
      (∀ w ∈ s.walks, w.ctx ≠ c) →
      (∀ f ∈ (s.ctx c).flight, f.arrived = false → f.again = false → ∀ q n ord slot v, f.res ≠ .f q n ord slot v) →
      ∃ t, exec (.contextPartEnd c) s = .next t ∧ t.ctx c = Ctx.reset ∧ (∀ d, d ≠ c → t.ctx d = s.ctx d) ∧ t.mem = s.mem ∧
        (∀ p ∈ t.claims, p.2.1 ≠ c) ∧ (∃ y ∈ t.insts, y.id = i ∧ (x.ended.map Prod.fst) ++ [j] = y.ended.map Prod.fst))) ∧
  (∀ (s : State) (i : Inst), s.insts.find? (fun y => y.id == i.id) = some i → i.ctxs.length ≤ i.ended.length →
    ∃ t, exec (.instanceEnd i.id) s = .next t ∧ (∀ y ∈ t.insts, y.id ≠ i.id) ∧ (∀ p ∈ t.slots, p.2.2 ≠ i.id) ∧
      t.tokDone (some i.tok) = true ∧
      (∀ o, alGet s.toks i.tok = some ⟨o, none⟩ → (∀ e ∈ s.ecmds, e.tok ≠ i.tok) → t.tokCode (some i.tok) = 0) ∧
      (s.Inv → refOn (recRef i.record 3) = false →
        ∀ ref, t.sem ref =
          if refOn (recRef i.record 2) = true ∧ ref = recRef i.record 2 % 2 ^ 15 then
            s.sem ref + ((BitVec.ofNat 48 (recRef i.record 2 / 2 ^ 16)).signExtend 64)
          else s.sem ref)) ∧
  (∀ (s : State) (v : Inval), s.invals.find? (fun x => x.id == v.id) = some v → s.settledFor v.tenant v.va v.len = true →
    exec (.invalidationAck v.id) s = .next ({ s with invals := s.invals.filter fun x => x.id != v.id }.putStatus v.rq 0)) ∧
  (∀ (s : State) (i : Inst), s.insts.find? (fun y => y.id == i.id) = some i → i.stopping = true → (∀ c ∈ i.live ++ i.ended.map Prod.snd, s.quiet c = true) →
    (∀ c ∈ i.ctxs, c < 4096) →
    let r := i.record
    ∃ t m, exec (.preemptSave i.id) s = .next t ∧ t.images = s.images ++ [m] ∧ (∀ y ∈ t.insts, y.id ≠ i.id) ∧
      (∀ c ∈ i.live, t.ctx c = Ctx.reset) ∧ m.core = i.core ∧ m.level = i.level ∧ m.resuming = false ∧
      m.bytes = readCells s.mem (spadKey (i.core / 8) (recBase r)) (recSize r) ∧
      m.tags = readCells s.tags (spadKey (i.core / 8) (recBase r)) (recSize r) ∧
      m.tiles = readCells s.tiles (tileKey i.core (recAcb r)) (4096 * recAcn r)) ∧
  (∀ (s : State) (m : Image) (core : Nat) (cs : List Nat), s.images.find? (fun y => y.inst.id == m.inst.id) = some m → m.resuming = true →
    s.imageRoom m = some (core, cs) →
    (∀ x ∈ s.images, x.resuming = true → x.core / 256 = m.core / 256 →
      (m.level < x.level ∨ (x.level = m.level ∧ x.inst.id < m.inst.id)) → s.imageRoom x = none) →
    (∀ x ∈ s.pendings, x.home / 32 = m.core / 256 → m.level < x.level → (s.placeFor x).1 = none) → s.Inv →
    ∃ t, exec (.resumePlacement m.inst.id) s = .next t ∧ (∀ y ∈ t.images, y.inst.id ≠ m.inst.id) ∧
      (∃ y ∈ t.insts, y.id = m.inst.id ∧ y.core = core) ∧
      readCells t.mem (spadKey (core / 8) (recBase m.inst.record)) m.bytes.length = m.bytes ∧
      readCells t.tags (spadKey (core / 8) (recBase m.inst.record)) m.tags.length = m.tags ∧
      readCells t.tiles (tileKey core (recAcb m.inst.record)) m.tiles.length = m.tiles)

/-- R355, R356, R358 to R361, R365 to R372, R377, R379, R381: packets, FIFO words and barriers. A stomped packet is dropped; a duplicate counts for its
port; an ordered channel takes its packets in sequence and holds back one that comes early; a word enters its claimed channel while that has
room, and is discarded under a funbind that drains the channel; an entry of the mirror directory is added; bytes of a transfer are written where its
whole range lies in one page with W, and otherwise none is; each packet that awaits an answer is resent by itself, and the eighth failed resend of one
packet makes its destination unreachable or, on channel 4, its plane lost. The oldest word of a send queue reaches its claimed channel while that has room, or leaves for its
package, and waits behind an entry that is reserved for an older one; a draining funbind ends with code 14 when words were lost. A barrier gathers arrivals, an arrival of a context waiting until its
earlier one has been released (R370), reports up, and at the count of its scope releases
every arrival with code 0; an arrival with other counts or of another tenant completes every arrival of the round with code 17. R351: from a package of another domain an ordered channel takes nothing. A funbind
whose queue has been emptied by a poisoned result completes with code 0. The model's choices here: log entries 46 and 68; log entry 85, a resend
without a time; log entry 105, what a packet is, its number taken and acknowledged in the step that sends it; log entry 37, that an
incoming range is translated by the TLB of die 0; log entry 107, when a word leaves for another package and what a draining funbind discards; log entry 110, a mirrored extent that another package adds; log entry 113, the port and the
payload that a packet may have. -/
def Obligations.PacketsAndBarriers : Prop :=
  (∀ (s : State) (peer port chan seq : Nat) (pay : Payload), chan < 8 → seq < 65536 → s.portOk peer port chan = true → payloadFits pay chan = true →
    let l := s.link peer chan
    let got := exec (.packetReceive ⟨peer, port⟩ chan seq false pay) s
    exec (.packetReceive ⟨peer, port⟩ chan seq true pay) s = .next s ∧
    ((∃ p ∈ l.held, p.1 = seq) ∨ 64 ≤ (seq + 65536 - l.rxNext) % 65536 →
      got = .next { s with portDups := alSet s.portDups port ((alGet s.portDups port).getD 0 + 1) }) ∧
    (∀ die cluster ch w, l.held = [] → l.rxNext < 65536 → pay = .fifoWord die cluster ch w →
      let key := (die * 32 + cluster) * 256 + ch
      let buf := (alGet s.chans key).getD []
      (∀ c ∈ s.ecmds, c.drains key = false) → (alGet s.claims key).isSome = true → buf.length + s.heldWords key < 16 →
      (seq = l.rxNext →
        ∃ t, got = .next t ∧ alGet t.chans key = some (buf ++ [w]) ∧ (t.link peer chan).rxNext = (seq + 1) % 65536 ∧
          (t.link peer chan).held = [] ∧ t.ctxs = s.ctxs ∧ t.mem = s.mem) ∧
      (seq ≠ l.rxNext → (seq + 65536 - l.rxNext) % 65536 < 64 →
        ∃ t, got = .next t ∧ t.chans = s.chans ∧ (t.link peer chan).rxNext = l.rxNext ∧ (t.link peer chan).held = [(seq, pay)])) ∧
    (∀ die cluster ch w d, l.held = [] → l.rxNext < 65536 → seq = l.rxNext → pay = .fifoWord die cluster ch w → d ∈ s.ecmds →
      d.drains ((die * 32 + cluster) * 256 + ch) = true →
      ∃ t, got = .next t ∧ t.chans = s.chans ∧ (t.link peer chan).rxNext = (seq + 1) % 65536 ∧ { d with op := .funbindRecv ch true } ∈ t.ecmds) ∧
    (∀ tenant plane start size second, l.held = [] → l.rxNext < 65536 → seq = l.rxNext → pay = .mirrorAdd tenant plane start size second →
      (s.extents.filter fun e => e.mirror.isSome).length + s.heldMirrors < 256 →
      ∃ t, got = .next t ∧ t.extents = s.extents ++ [⟨plane, start, size, tenant, some second⟩] ∧ t.ctxs = s.ctxs ∧
        (t.link peer chan).rxNext = (seq + 1) % 65536) ∧
    (∀ tenant va len off bs, chan = 2 ∨ chan = 3 → pay = .xferBytes tenant va len off bs → (∀ p ∈ l.held, p.1 ≠ seq) →
      (seq + 65536 - l.rxNext) % 65536 < 64 → (∀ p ∈ l.held, p.2 = .empty) →
      ∃ t, got = .next t ∧ t.ctxs = s.ctxs ∧ t.extents = s.extents ∧
        (∀ u, s.translate 0 tenant va = (none, u) → t.mem = s.mem) ∧
        (∀ h u, s.translate 0 tenant va = (some h, u) →
          let o := va % pageBytes h.size
          (h.w = false ∨ pageBytes h.size < o + len → t.mem = s.mem) ∧
          (h.w = true → o + len ≤ pageBytes h.size → h.tgt ≠ 1 → s.Inv → ∀ a, cellAt t.mem a =
            if h.key (o + off) ≤ a ∧ a < h.key (o + off) + bs.length then (bs[a - h.key (o + off)]?).getD 0 else cellAt s.mem a)))) ∧
  (∀ (s : State) (peer port chan : Nat), chan ∉ [2, 3, 4, 5] → peer / 256 ≠ s.device.toNat / 256 →
    s.portOk peer port chan = false ∧ ∀ seq stomp pay, ∃ f, exec (.packetReceive ⟨peer, port⟩ chan seq stomp pay) s = .fault f) ∧
  (∀ (s : State) (peer chan : Nat),
    let ps := s.packetsTo peer chan
    let l := s.link peer chan
    let resends (p : Packet) : Prop :=
      let tries := if l.resent = some p then l.tries else 0
      (tries < 7 → exec (.endToEndResend peer chan) s =
        .next { s with links := alSet s.links (peer * 8 + chan) { l with resent := some p, tries := tries + 1 } }) ∧
      (7 ≤ tries → ∃ t, exec (.endToEndResend peer chan) s = .next t ∧ (chan ≠ 4 → peer ∈ t.unreachable) ∧ (chan = 4 → peer ∈ t.lost))
    (ps = [] → ∃ f, exec (.endToEndResend peer chan) s = .fault f) ∧ (ps ≠ [] → ∃ p ∈ ps, resends p) ∧
    (∀ p ∈ ps, l.resent = some p → resends p)) ∧
  (∀ (s : State) (id ord : Nat) (e : SendQ) (w : W64) (es : List (Nat × Option W64)), s.sendOf id = some e → e.entries = (ord, some w) :: es →
    s.sendWaits id ord = false →
    let dev := e.addr.toNat / 2 ^ 44
    let left (t : State) : Host.Outcome State Fault Refusal := .next ((t.setSend id (some { e with entries := es })).endSend { e with entries := es })
    (dev = s.device.toNat →
      let key := (e.addr.toNat / 2 ^ 42 % 4 * 32 + e.addr.toNat / 2 ^ 37 % 32) * 256 + e.addr.toNat % 256
      let buf := (alGet s.chans key).getD []
      (alGet s.claims key).isSome = true → buf.length + s.heldWords key < 16 →
      exec (.fifoWordDelivery id) s = left { s with chans := alSet s.chans key (buf ++ [w]) }) ∧
    (dev ≠ s.device.toNat → dev ∈ s.present → dev ∉ s.unreachable →
      let l := s.link dev 0
      exec (.fifoWordDelivery id) s =
        left { s with links := alSet s.links (dev * 8) { l with txNext := (l.txNext + 1) % 65536 } })) ∧
  (∀ (s : State) (id ord : Nat) (e : SendQ) (es : List (Nat × Option W64)), s.sendOf id = some e → e.entries = (ord, none) :: es →
    s.findE id = none → ∃ f, exec (.fifoWordDelivery id) s = .fault f) ∧
  (∀ (s : State) (id : Nat) (e : SendQ) (c : ECmd), s.sendOf id = some e → e.entries = [] → e.closed = true →
    s.ecmds.find? (fun d => d.op == .funbindSend e.id) = some c → (∀ d ∈ s.ecmds, d.op = .funbindSend e.id → d.stage = .started) →
    exec (.fifoWordDelivery id) s = .next ((s.setSend e.id none).dropE c 0)) ∧
  (∀ (s : State) (c : ECmd) (ch : Nat) (lost : Bool), s.findE c.id = some c → c.op = .funbindRecv ch lost → c.stage = .started →
    s.sendOf c.id = none → exec (.fifoWordDelivery c.id) s = .next (s.dropE c (if lost then 14 else 0))) ∧
  (∀ (s : State) (b : Barrier), s.barriers.find? (fun x => x.id == b.id) = some b →
    (∀ cl, b.clusterDue = some cl → exec (.barrierReport b.id) s = .next (s.putBarrier { b with clusters := b.clusters ++ [cl] })) ∧
    (∀ d, b.clusterDue = none → b.dieDue = some d → exec (.barrierReport b.id) s = .next (s.putBarrier { b with dies := b.dies ++ [d] })) ∧
    (b.scope = 2 → b.arrivals.length = descCtx b.desc →
      exec (.barrierRelease b.id) s =
        .next (let t := finishToks s 0 (b.arrivals.map Prod.fst); { t with barriers := t.barriers.filter fun x => x.id != b.id })) ∧
    ((b.scope = 3 ∧ descCl b.desc ≤ b.clusters.length) ∨ (b.scope = 5 ∧ descDie b.desc ≤ b.dies.length) ∨
        (b.scope = 9 ∧ descPkg b.desc ≤ b.packages.length ∧ s.device.toNat ∈ b.packages) →
      (∀ a ∈ b.arrivals, a.2 ∈ b.clusters ∧ (5 ≤ b.scope → a.2 / 32 ∈ b.dies) ∧
        (b.arrivals.filter fun x => x.2 == a.2).length ≤ descCtx b.desc) →
      exec (.barrierRelease b.id) s =
        .next (let t := finishToks s 0 (b.arrivals.map Prod.fst); { t with barriers := t.barriers.filter fun x => x.id != b.id }))) ∧
  (∀ (s : State) (c : ECmd) (d : W64), s.findE c.id = some c → c.op = .bar d → c.stage = .queued →
    let earlier (e : ECmd) : Prop := e.ctx = c.ctx ∧ e.id < c.id ∧ ∃ x, e.op = .bar x ∧ descScope x = descScope d ∧ descBar x = descBar d
    let stands (b : Barrier) : Prop := ∃ a ∈ b.arrivals, (alGet s.toks a.1).map Tok.owner = some c.ctx
    ((∃ e ∈ s.ecmds, earlier e) ∨ (∃ b, s.barrierOf (descScope d) (descBar d) (descPlace d c.ctx) = some b ∧ stands b) →
      ∃ f, exec (.eCommandStart c.id) s = .fault f) ∧
    ((∀ e ∈ s.ecmds, ¬ earlier e) → (∀ t ∈ c.waits, s.tokDone (some t) = true) → (∀ i ∈ c.after, i ∉ s.outstanding c.ctx) →
      c.waitsFor s = false →
      (s.barrierOf (descScope d) (descBar d) (descPlace d c.ctx) = none →
        let t := s.passE c
        let b : Barrier := ⟨t.next, descScope d, descBar d, descPlace d c.ctx, d, c.tenant, [], [], [], []⟩
        exec (.eCommandStart c.id) s =
          .next ({ t with barriers := t.barriers ++ [b], next := t.next + 1 }.putBarrier { b with arrivals := [(c.tok, clusterOf c.ctx)] })) ∧
      (∀ b, s.barrierOf (descScope d) (descBar d) (descPlace d c.ctx) = some b → ¬ stands b →
        (descCounts b.desc = descCounts d → b.tenant = c.tenant →
          exec (.eCommandStart c.id) s = .next ((s.passE c).putBarrier { b with arrivals := b.arrivals ++ [(c.tok, clusterOf c.ctx)] })) ∧
        (descCounts b.desc ≠ descCounts d ∨ b.tenant ≠ c.tenant →
          ∃ t, exec (.eCommandStart c.id) s = .next t ∧ (∀ x ∈ t.barriers, x.id ≠ b.id) ∧ (∀ a ∈ b.arrivals, s.completes t a.1 17) ∧
            s.completes t c.tok 17))))

/-! ### The host and the reeve (R11, R386 to R399) -/

/-- R11, R185, R186, R390, R392 to R395, R398, R399: a reset brings the compute dies to their power-on state and asks for a start; it keeps what it is
said to keep, and an image whose writing it interrupts fails the next start. A start whose image passes ends in MODE 2 with each die's command
stream running at its entry; a failed one counts, and the third sets MODE 3; a thermal trip sets MODE 4 and HFLAG.TRIP; the clock goes down a
step when power or heat is above its limit, further down until both are below it, and up again afterwards, between 100 and 1,300 MHz. The
model's choices here: log entries 59, 60, 61, 69, 71 and 76; log entry 79, that both steps of the clock carry the readings and write them; log entry
85, that no time is counted; log entry 86, that a start carries its outcome as an argument. -/
def Obligations.ResetsStartsAndPower : Prop :=
  ∀ (s : State),
    let dies (t : State) : Prop :=
      t.ctxs = [] ∧ t.sems = [] ∧ t.tags = [] ∧ t.tiles = [] ∧ t.bins = [] ∧ t.toks = [] ∧ t.mcmds = [] ∧ t.ecmds = [] ∧ t.walks = [] ∧ t.tlb = [] ∧
      t.roots = [] ∧ t.insts = [] ∧ t.pendings = [] ∧ t.images = [] ∧ t.streams = [] ∧ t.lost = s.lost ∧ t.extents = s.extents ∧
      t.host.startReq = true ∧ t.host.reason = 0 ∧ t.host.watts = 2600 ∧ t.host.mbBusy = false ∧ t.host.devCtl2 = 0 ∧ t.host.tmax = 0 ∧
      t.host.clkMhz = 1300 ∧ t.host.writing = none ∧ (s.host.writing = none → t.host.flash = s.host.flash) ∧
      (s.host.writing ≠ none → (imageVerdict t.host.flash).1 ≠ 0)
    let kept (t : State) : Prop :=
      t.host.fails = s.host.fails ∧ t.host.hflag = s.host.hflag &&& 8 ∧ (s.host.mode ≠ .shutDown → t.host.mode = .reset) ∧
      (s.host.mode = .shutDown → t.host.mode = .shutDown)
    (∃ t, exec .powerOnReset s = .next t ∧ dies t ∧ t.host.mode = .reset ∧ t.host.fails = 0 ∧ t.host.hflag = 0) ∧
    (∃ t, exec .conventionalReset s = .next t ∧ dies t ∧ kept t) ∧ (∃ t, exec .functionLevelReset s = .next t ∧ dies t ∧ kept t) ∧
    (s.host.startReq = true → s.host.mode ≠ .shutDown ∨ s.host.heat.toNat < 95 →
      let v := imageVerdict s.host.flash
      let failed (o : Host.Outcome State Fault Refusal) (reason detail : Nat) : Prop :=
        ∃ t, o = .next t ∧ t.host.reason = BitVec.ofNat 8 reason ∧ t.host.detail = BitVec.ofNat 16 detail ∧
          t.host.fails = min 3 (s.host.fails + 1) ∧ t.host.mode = (if 2 ≤ s.host.fails then .minimal else .starting) ∧
          t.host.startReq = decide (s.host.fails < 2) ∧ t.ctxs = s.ctxs
      (v.1 ≠ 0 → failed (exec (.start ⟨none, none, none⟩) s) v.1 v.2) ∧
      (v.1 = 0 →
        (∀ g : Fin 12, failed (exec (.start ⟨some g, none, none⟩) s) 4 g.val) ∧ (∀ d : Fin 4, failed (exec (.start ⟨none, some d, none⟩) s) 5 d.val) ∧
        ∃ t, exec (.start ⟨none, none, none⟩) s = .next t ∧ t.host.mode = .running ∧ t.host.fails = 0 ∧ t.host.startReq = false ∧
          ∀ d < 4,
            let m := Config.imageStreams (imageBody s.host.flash) d
            let c := m.cfg d
            let k := t.ctx c.ctx
            dieOf c.ctx = d ∧ (m.place = none → c.ctx = d * 1024) ∧ (m.reserved = none → c.reserved = 0x500000) ∧ c.reserved % 0x10000 = 0 ∧
            (m.tiles = none → c.acn = 0) ∧ alGet t.streams d = some c ∧ k.run = .running ∧ k.pc = m.entry ∧ k.sr.tenant = m.tenant ∧
            k.stream = true ∧ k.spBase = 0 ∧ k.spSize = 0x600000 ∧ k.acb = c.acb ∧ k.acn = c.acn ∧
            ((∀ e, d < e → e < 4 → (Config.imageStreams (imageBody s.host.flash) e).tenant ≠ m.tenant) →
              t.tvec m.tenant = m.tvec ∧ alGet t.roots m.tenant.toNat = some m.root)) ∧
      (∀ h d (e : Fin 4), ∃ t, exec (.start ⟨h, d, some e⟩) s = .next t ∧ t.host.mode = .shutDown ∧ t.host.hflag.getLsbD 3 = true ∧
        t.host.reason = 7 ∧ t.host.detail = BitVec.ofNat 16 e.val) ∧
      (∀ n, 1 ≤ n → n ≤ 4 → n = 1 ∨ v.1 = 0 → failed (exec (.startTimeout n) s) 6 n)) ∧
    (∀ d, d < 4 → s.host.mode ≠ .shutDown →
      ∃ t, exec (.thermalTrip d) s = .next t ∧ t.host.mode = .shutDown ∧ t.host.hflag.getLsbD 3 = true ∧ t.host.startReq = false ∧
        (s.host.mode = .starting → t.host.reason = 7 ∧ t.host.detail = BitVec.ofNat 16 d)) ∧
    (∀ (w : BitVec 12) (x : BitVec 8),
      let reads : HostIf := { s.host with power := w, tmax := x, heat := x }
      let leaves (h : HostIf) : Host.Outcome State Fault Refusal := .next { s with host := h }
      let c := s.host.clkMhz.toNat
      let down : Prop := s.host.watts.toNat < w.toNat ∨ 95 ≤ x.toNat ∨ (s.host.lowering = true ∧ s.host.watts.toNat ≤ w.toNat)
      (s.host.mode ≠ .shutDown → x.toNat < 110 →
        (down → exec (.clockThrottle w x) s = leaves { reads with lowering := true, clkMhz := BitVec.ofNat 16 (max 100 (c - 100)) }) ∧
        (¬ down → exec (.clockThrottle w x) s = leaves { reads with lowering := false })) ∧
      (s.host.mode ≠ .shutDown → w.toNat < s.host.watts.toNat → x.toNat < 95 →
        exec (.clockRestore w x) s = leaves { reads with lowering := false, clkMhz := BitVec.ofNat 16 (min 1300 (c + 100)) }) ∧
      (s.host.mode = .shutDown →
        exec (.clockThrottle w x) s = leaves reads ∧
        (w.toNat < s.host.watts.toNat → x.toNat < 95 → exec (.clockRestore w x) s = leaves reads)))

/-- R219, R386 to R391: the host's writes to BAR0 and its accesses to BAR2. PLIM takes the value written between 600 and 2,600; a one clears its flag
in HFLAG; a command is taken while the mailbox is idle, and otherwise sets MBOVR; the plain view reaches the scratchpad of a running device's
command-stream cluster; a write through the fill view lands with full tags where every tag is empty, and otherwise only sets IOVR; a read
there brings the tags; any other access is an Unsupported Request. A read of a register brings its fields at their places, and zero in its
reserved bits. The model's choices here: log entries 62, 77 and 108. -/
def Obligations.HostAccesses : Prop :=
  ∀ (s : State) (v : W64) (c : BitVec 16),
    let host (h : HostIf) : Host.Outcome State Fault Refusal := .next { s with host := h }
    let plim := host { s.host with watts := BitVec.ofNat 12 (max 600 (min 2600 v.toNat)) }
    let hflag := host { s.host with hflag := s.host.hflag &&& ~~~(v.setWidth 5) }
    exec (.plimWrite v) s = plim ∧ exec (.bar0RegisterWrite 0x010 v) s = plim ∧ exec (.hflagWrite v) s = hflag ∧
    exec (.bar0RegisterWrite 0x008 v) s = hflag ∧ exec (.deviceControl2Write c) s = host { s.host with devCtl2 := c } ∧
    exec (.bar0RegisterWrite 0x100 v) s =
      (if s.host.mbBusy then host { s.host with hflag := s.host.hflag ||| 2, msix := s.host.msix ++ [1] }
       else host { s.host with mbCmd := v.setWidth 8, mbBusy := true }) ∧
    (∀ i < 4, exec (.bar0RegisterWrite (0x108 + 8 * i) v) s = host { s.host with mbArg := vset s.host.mbArg i v }) ∧
    (∀ (die off : Nat) (wide : Bool), die < 4 → s.host.mode = .running →
      let n := if wide then 8 else 4
      let cl := clusterOf (s.streamCtx die)
      let answer (t : State) (x : W64) : Host.Outcome State Fault Refusal := .next { t with host := { t.host with answer := some x } }
      let empty (a j : Nat) : Bool := cellAt s.tags (tagKey cl (a + 4 * j)) == 0
      off % n = 0 → off + n ≤ Config.windowSize →
      exec (.plainViewAccess die off wide none) s = answer s (BitVec.ofNat 64 (leNat (readCells s.mem (spadKey cl off) n))) ∧
      exec (.plainViewAccess die off wide (some v)) s =
        answer { s with mem := writeCells s.mem (spadKey cl off) (leBytes n v.toNat) } 0 ∧
      ((∀ j < n / 4, empty off j = true) →
        exec (.fillViewWrite die (0x800000 + off) wide v) s =
          answer { s with mem := writeCells s.mem (spadKey cl off) (leBytes n v.toNat)
                          tags := setTags s.tags cl off (List.replicate (n / 4) true) } 0) ∧
      ((∃ j < n / 4, empty off j = false) →
        exec (.fillViewWrite die (0x800000 + off) wide v) s =
          answer { s with host := { s.host with hflag := s.host.hflag ||| 1, msix := s.host.msix ++ [1] } } 0) ∧
      ∃ x, exec (.fillViewRead die (0x800000 + off) wide) s = answer s x ∧ x.getLsbD 0 = !empty off 0 ∧
        x.getLsbD 32 = (wide && !empty off 1) ∧ ∀ j < 64, j ≠ 0 → j ≠ 32 → x.getLsbD j = false) ∧
    (∀ die off size, die < 4 → off < 2 ^ 24 →
      (size ≠ 4 ∧ size ≠ 8) ∨ off % size ≠ 0 ∨ (Config.windowSize < off + size ∧ off < 0x800000) ∨ 0x800000 + Config.windowSize < off + size →
      exec (.unsupportedBar2Access die off size) s = host { s.host with answer := none }) ∧
    (let bsr := s.host.bar0 0x000
     bsr.extractLsb' 0 3 = (match s.host.mode with
       | .reset => 0
       | .starting => 1
       | .running => 2
       | .minimal => 3
       | .shutDown => 4) ∧
     bsr.extractLsb' 3 13 = 0 ∧ (s.host.fails ≤ 3 → (bsr.extractLsb' 16 8).toNat = s.host.fails) ∧ bsr.extractLsb' 24 8 = s.host.reason ∧
     bsr.extractLsb' 32 16 = s.host.detail ∧ bsr.extractLsb' 48 16 = 0) ∧
    s.host.bar0 0x008 = s.host.hflag.setWidth 64 ∧ s.host.bar0 0x010 = s.host.watts.setWidth 64 ∧
    (let pstat := s.host.bar0 0x018
     pstat.extractLsb' 0 12 = s.host.power ∧ pstat.extractLsb' 12 28 = 0 ∧ pstat.extractLsb' 40 8 = s.host.tmax ∧
     pstat.extractLsb' 48 16 = s.host.clkMhz) ∧
    (let sts := s.host.bar0 0x128
     sts.getLsbD 63 = s.host.mbBusy ∧ sts.extractLsb' 0 8 = s.host.mbStatus ∧ sts.extractLsb' 8 55 = 0)

/-- R209, R220, R245, R329, R330, R342, R344, R350, R375, R379, R391, R393, R396, R397: the reeve's commands, from the host's mailbox of a running device,
with what each does for arguments it takes, and status 2 for one it does not take; each answers with its status and vector 0, but for an
invalidation, which is answered later, and RECOVER, whose image is written by a step of its own. A command in which the firmware attempts a
write outside its limits sets RVIOL, and completes with status 3. A plane that PLANELOST names, or that is found unreachable, is lost from then on:
every running context whose tenant holds an extent there and whose UIV is not zero has index 0 pending with code 32 + π; an ldh, an sth or an
lalloc that is issued there raises LOFT_LOST, and so does a load in flight; an entry of a load queue fails; a store in flight is performed there or
not, with no trap; a mirrored extent's loads are served by the other plane, and its stores raise LOFT_LOST (R379, R380). The model's choices here: log entries 56, 70, 72 and 73; log entry 48, that PLANECLR
removes the extents of a plane while a mirrored one lives on at its other plane; log entries 59 and 74, the signature of an attestation and its
digest, which is that of the header in flash; log entry 115, that RECOVER takes two steps; log entry
152, that a later plane's code takes the place of one still pending; log entry 153, EINFO of an lalloc on a lost plane. -/
def Obligations.MailboxCommands : Prop :=
  (∀ (s : State) (x : Nat), x ∉ s.lost →
     let u := s.losePlane x
     { u with lost := s.lost, ctxs := s.ctxs } = s ∧ u.lost = s.lost ++ [x] ∧
     ∀ n < 4096,
       let k := s.ctx n
       u.ctx n =
         if k.run ≠ .halted ∧ k.sr.uiv ≠ 0 ∧ (∃ e ∈ s.extents, e.tenant = k.sr.tenant ∧ (e.plane = x ∨ e.mirror = some x)) then
           { k with pend := vset k.pend 0 (some (BitVec.ofNat 8 (32 + x))) }
         else k) ∧
  (∀ (s : State) (x : Nat) (h : Handle) (e : Extent) (o n : Nat), x ∈ s.lost → h.tgt = 1 → h.plane.toNat = x → e.plane = x →
     let at_ := h.ppn.toNat * 65536 + o
     let va := (h.vpage.toNat * 65536 + o) % 2 ^ 52
     let info := x * 2 ^ 56 + va
     let there (tenant : BitVec 16) : Prop := s.extentOf x at_ n tenant = some e
     let lone (tenant : BitVec 16) : Prop := there tenant ∧ ∀ m, e.mirror = some m → m ∈ s.lost
     (∀ tenant m, there tenant → e.mirror = some m → m ∉ s.lost →
       s.lostPlane h o n tenant true = none ∧ s.loftRead h o n tenant = loftKey m at_ ∧ s.lostPlane h o n tenant false = some x) ∧
     (∀ (g : Guard) (cl : Cl) (t : BitVec 5) (hn : BitVec 4) (y : BitVec 5) (cls : BitVec 4) (w : BitVec 2) (disp : BitVec 3),
       s.here.enabled g = true → (s.here.regs.ry y).poison = false → s.here.regs.rh hn = h → n = 2 ^ w.toNat →
       ((s.here.regs.ry y).val + disp.setWidth 64 * BitVec.ofNat 64 n).toNat = o → h.valid = true → o % n = 0 → o + n ≤ pageBytes h.size →
       there s.here.sr.tenant →
       (lone s.here.sr.tenant → h.perm.getLsbD 2 = true → h.lclass ≠ 0 →
         exec (.ldh g cl t hn y cls w disp) s = .next (s.takeTrap (bundleTrap 17 .L info))) ∧
       (h.perm.getLsbD 1 = true → exec (.sth g cl t hn y cls w disp) s = .next (s.takeTrap (bundleTrap 17 .L info)))) ∧
     (∀ (g : Guard) (r : EYF) (q : BitVec 3), s.here.enabled g = true → s.allComplete [r.ka, r.kb] → s.quadClean q [0, 1] →
       (s.quadVal q 0).toNat % 65536 = 0 → 65536 ≤ (s.quadVal q 0).toNat → (s.quadVal q 0).toNat ≤ 2 ^ 39 → (s.quadVal q 1).toNat % 32 = x → x < 24 →
       exec (.lalloc g r q) s = .next (s.takeTrap (bundleTrap 17 .E (x * 2 ^ 56)))) ∧
     (∀ (c i : Nat) (f : Flight) cls cyc p form, (s.ctx c).flightOf i = some f → (s.ctx c).trapped f = false → f.elastic = true →
       f.redo = some (.load cls cyc h o n p form) → lone (s.ctx c).sr.tenant →
       exec (.resultArrival c i) s = .next (s.setCtx c ((s.ctx c).failFlight i ⟨17, f.slotCode, BitVec.ofNat 64 info, true, none⟩))) ∧
     (∀ (c i q : Nat) (y : QEntry), (s.ctx c).entryOf i = some y → y ∈ vget (s.ctx c).q q [] → y.handle = h → y.off = o → n = 2 ^ y.width.toNat →
       lone (s.ctx c).sr.tenant →
       exec (.queuedLoadArrival c q i) s =
         .next (s.setCtx c ((s.ctx c).setEntry i fun v => { v with arrived := true, failed := some (17, BitVec.ofNat 64 info) }))) ∧
     (∀ (c i acc : Nat) cls key bs post, (s.ctx c).stores = .store i acc cls key bs (some (h, o)) :: post → n = bs.length →
       there (s.ctx c).sr.tenant → e.mirror = none → (∀ j ∈ s.classCmds c cls, i ≤ j) →
       ∃ t, exec (.storePerformed c i) s = .next t ∧ (t.ctx c).due = (s.ctx c).due ∧ (t.ctx c).stores = dropFences post ∧
         (t.mem = s.mem ∨ t.mem = writeCells s.mem (loftKey x at_) bs))) ∧
  ∀ (s : State) (a b c d : W64), s.host.mode = .running → s.host.mbBusy = true → s.host.writing = none → (∀ i ∈ s.invals, i.rq ≠ .host) →
    s.host.mbArg = #v[a, b, c, d] →
    let x := a.toNat
    let y := b.toNat
    let z := c.toNat
    let tenant : BitVec 16 := a.setWidth 16
    let answered (t : State) (st : Nat) : Host.Outcome State Fault Refusal :=
      .next { t with host := { t.host with mbBusy := false, mbStatus := BitVec.ofNat 8 st, msix := t.host.msix ++ [0] } }
    let strays (i : Instr) : Prop :=
      exec i s = answered { s with host := { s.host with hflag := s.host.hflag ||| 4, msix := s.host.msix ++ [1] } } 3
    let takes (code : Nat) (i : Mail → Instr) (ok : Prop) (t : State) : Prop :=
      s.host.mbCmd.toNat = code → (ok → exec (i ⟨.host, false⟩) s = answered t 0) ∧ (¬ ok → exec (i ⟨.host, false⟩) s = answered s 2) ∧ strays (i ⟨.host, true⟩)
    takes 0x01 .setdev (x < 3072 * 256) { s with device := a.setWidth 20 } ∧
    takes 0x02 .setroot (x < 2 ^ 16 ∧ y % 0x8000 = 0 ∧ y + 0x8000 ≤ Config.hbmSize) { s with roots := alSet s.roots x b } ∧
    takes 0x03 .settvec (x < 2 ^ 16 ∧ y % 16 = 0 ∧ y < 2 ^ 52) { s with tvecs := alSet s.tvecs x b } ∧
    takes 0x05 .semten (x < 2 ^ 15 ∧ x / 256 % 32 < 24 ∧ y < 2 ^ 16) { s with semTen := alSet s.semTen (x / 256 % 128) (b.setWidth 16) } ∧
    takes 0x06 .quota (x < 2 ^ 16 ∧ y < 24) { s with quotas := alSet s.quotas (x * 32 + y) z } ∧
    takes 0x0A .planelost (x < 24) (s.losePlane x) ∧
    takes 0x0B .planeclr (x < 24)
      (if x ∈ s.lost then { s with lost := s.lost.filter fun q => q != x, extents := s.extents.filterMap fun e => e.without x } else s) ∧
    takes 0x0C .faultrec (x < 2 ^ 16)
      (let f := (alGet s.faults x).getD ⟨0, 0, 0, 0⟩
       { s with mem := writeCells s.mem (hostKey y) (leBytes 8 f.epc.toNat ++ leBytes 8 f.ecause.toNat ++ leBytes 8 f.einfo.toNat ++
          leBytes 8 f.ctxid.toNat) }) ∧
    takes 0x12 .hbmload (z % 64 = 0 ∧ 64 ≤ z ∧ z ≤ 2 ^ 26 ∧ y % 64 = 0 ∧ y + z ≤ Config.hbmSize)
      { s with mem := writeCells s.mem (hbmKey y) (readCells s.mem (hostKey x) z) } ∧
    (s.host.mbCmd.toNat = 0x10 →
      let body := readCells s.mem (hostKey x) 48 ++ leBytes 48 (leNat ((s.host.flash.drop 16).take 48)) ++ leBytes 16 Config.fuseConfig.toNat ++
        leBytes 8 (leNat ((s.host.flash.drop 8).take 4))
      strays (.attest ⟨.host, true⟩) ∧ exec (.attest ⟨.host, false⟩) s =
        answered { s with mem := writeCells s.mem (hostKey (x + 48)) (body ++ leBytes 96 (Config.attestSign body).toNat) } 0) ∧
    (s.host.mbCmd.toNat = 0x11 →
      let image := readCells s.mem (hostKey x) y
      (y ≤ 4096 + 2 ^ 26 → (imageVerdict image).1 = 0 →
        let u := { s with host := { s.host with writing := some image } }
        exec (.recover ⟨.host, false⟩) s = .next u ∧
        ∃ t, exec (.recover ⟨.host, false⟩) u = .next t ∧ t.host.flash = image ∧ t.host.writing = none ∧ t.host.fails = 0 ∧ t.host.mode = .reset ∧
          t.host.startReq = true ∧ t.ctxs = []) ∧
      (4096 + 2 ^ 26 < y ∨ (imageVerdict image).1 ≠ 0 → exec (.recover ⟨.host, false⟩) s = answered s 3) ∧ strays (.recover ⟨.host, true⟩)) ∧
    (s.host.mbCmd.toNat = 0x04 →
      (x < 2 ^ 16 → y + z ≤ 2 ^ 52 →
        ∃ t, exec (.inval ⟨.host, false⟩) s = .next t ∧ t.host = s.host ∧ t.invals = s.invals ++ [⟨s.next, tenant, y, z, .host⟩] ∧
          (∀ e ∈ t.tlb, e.tenant = tenant → 0 < z →
            e.leaf.vpage.toNat * 65536 + pageBytes e.leaf.size ≤ y ∨ y + z ≤ e.leaf.vpage.toNat * 65536) ∧
          (∀ p ∈ t.ctxs, p.2.sr.tenant = tenant → 0 < z → ∀ i < 16, (vget p.2.regs.h i Handle.none).valid = true →
            let h := vget p.2.regs.h i Handle.none
            h.vpage.toNat * 65536 + pageBytes h.size ≤ y ∨ y + z ≤ h.vpage.toNat * 65536)) ∧
      (2 ^ 16 ≤ x ∨ 2 ^ 52 < y + z → exec (.inval ⟨.host, false⟩) s = answered s 2) ∧ strays (.inval ⟨.host, true⟩)) ∧
    (∀ i, x < 4096 → s.runningNamed x = some (.inl i) →
      (s.host.mbCmd.toNat = 0x07 →
        exec (.preempt ⟨.host, false⟩) s = answered (s.stopInst i) 0 ∧ strays (.preempt ⟨.host, true⟩)) ∧
      (s.host.mbCmd.toNat = 0x09 → exec (.kill ⟨.host, false⟩) s = answered (s.killInst i.id ⟨0, 0, 0, a⟩) 0 ∧ strays (.kill ⟨.host, true⟩))) ∧
    (∀ m, x < 4096 → s.savedNamed x = some (.inr m) → s.host.mbCmd.toNat = 0x08 →
      strays (.resume ⟨.host, true⟩) ∧ exec (.resume ⟨.host, false⟩) s =
        answered { s with images := s.images.map fun e =>
          if e.inst.id = m.inst.id ∧ e.resuming = false then { e with resuming := true, level := e.inst.level } else e } 0)

/-! ### Bundles, encodings, reset and the invariant (R11, R12, R30 to R53, R180) -/

/-- R7, R12, R13, R24, R53, R180, R183: a step that issues a bundle of one slot runs the instruction its words decode to: exec of that instruction in the
state of the bundle's issue, then the end of the architectural cycle and the next context's turn. A slot that traps, blocks or freezes leaves
the state of the issue but for that, one that freezes over the loads of its classes also with what it fixes of them (log entry 127); a return goes where it has chosen; an empty bundle is its own instruction. The model's choices here: log entries 9 and 63. -/
def Obligations.StepRunsDecoded : Prop :=
  ∀ (s u : State) (ws : List Nat) (b : Bundle), s.Issues u ws → s.here.rep = none → decodeBundle (ws.headD 0) ws.tail = .ok b → b.rep = none →
    (∀ k i rd wr t, checkGroup u.here b.slots ws false = .ok (rd, wr) → b.slots = [(k, i)] → isTrap i = false → exec i u = .next t →
      let group := if b.stop then Group.fresh else ⟨u.here.group.count + 1, rd, wr⟩
      (t.status = .ok → t.here.flight.length ≤ 64 →
        step s = .next ((t.setHere (t.here.endBundle u.here.branch b.size (isBranch i) group)).turnOver s.cur)) ∧
      (t.status = .redirected → step s = .next (t.turnOver s.cur)) ∧
      (∀ r, t.status = .trapped r → step s = .next ((u.takeTrap r).turnOver s.cur)) ∧
      (∀ a, t.status = .blocked a → step s = .next ((u.block a).turnOver s.cur)) ∧
      (t.status = .frozen → step s = .next (u.freeze.turnOver s.cur)) ∧
      (∀ p, t.status = .frozenPast p → step s = .next (((u.freezePast p).pin u.cur p).turnOver s.cur))) ∧
    (∀ rd wr t, checkGroup u.here b.slots ws false = .ok (rd, wr) → b.slots = [] → exec (.emptyBundle b.stop) u = .next t →
      step s = .next (t.turnOver s.cur))

/-- R12, R22, R53, R105, R180, R183: a bundle whose checks fail traps; its slots run in the order X, Y, L, V, M, E, S, with the M slot of a repeat's head and of
its repetitions in its place; the first slot that stops stops them all, and none takes effect; a bundle whose slots all run ends with the
cycle, and then with SOFTWARE when it holds an enabled trap; with more than 64 results in flight a cycle is inserted instead. R21, R22, R26, R94, R106:
the checks raise ILLEGAL_GROUP for a ninth bundle of a group, for a control transfer in a delay bundle, for eret or uret beside another slot, and
where one slot of the group reads or writes a register that another one of it writes, a repeat head reading LC and the strides (R103). The
registers a slot reads and writes are its predicate and those of its encoded fields, with the four y registers of a quad (R51), and none for a
field that names a bound FIFO (R363); queue registers and accumulator tiles are none (R22). The model's choices here: log entries 9, 18, 20, 22
and 132; log entry 117, that the slots act in that order in everything, which R22 states of queue
registers alone. -/
def Obligations.BundlesRunOrStop : Prop :=
  (∀ (k : Ctx) (g : Guard) (c cl : Cl) (d a b ac src5 y t o v i : BitVec 5) (w part q2 ew mode grp sub fw : BitVec 2)
     (u tr alt ca dm cmp st get eq hf snd wide : Bool) (fl pd pa pb fn ps scope h src cls sc hn kd n4 ka kb kc : BitVec 4)
     (imm n14 sr : BitVec 14) (pos len k6 lane row : BitVec 6) (imm19 off19 : BitVec 19) (cc : Cond) (imm11 off11 : BitVec 11)
     (off24 : BitVec 24) (mask : BitVec 16) (perm n disp rnd hs sp wc bd q : BitVec 3) (off7 : BitVec 7) (off8 : BitVec 8) (fmt sf df : Fmt)
     (vcc : VCond) (e : KE) (r : EYF) (op : LatomOp),
    (∀ i ∈ ([.add g c d a b w, .sub g c d a b w, .and g c d a b w, .or g c d a b w, .xor g c d a b w, .andn g c d a b w, .shl g c d a b w,
        .shr g c d a b w, .sra g c d a b w] : List Instr), k.uses g i (k.named c a ++ k.named c b) (k.named c d)) ∧
    (∀ i ∈ ([.rol g d a b w, .mulX g d a b w, .mulh g d a b w u, .minX g d a b w u, .maxX g d a b w u
      ] : List Instr), k.uses g i (xNamed a ++ xNamed b) (xNamed d)) ∧
    (∀ i ∈ ([.mulY g d a b w, .minY g d a b w u, .maxY g d a b w u, .lea g d a b fl
      ] : List Instr), k.uses g i (k.named .y a ++ k.named .y b) (k.named .y d)) ∧
    (∀ i ∈ ([.sextX g d a w, .zextX g d a w, .clzX g d a w, .ctz g d a w, .popcX g d a w, .muli g d a imm, .bextX g d a pos len, .jr g d a
      ] : List Instr), k.uses g i (xNamed a) (xNamed d)) ∧
    (∀ i ∈ ([.sextY g d a w, .zextY g d a w, .clzY g d a w, .popcY g d a w, .bextY g d a pos len
      ] : List Instr), k.uses g i (k.named .y a) (k.named .y d)) ∧
    k.uses g (.movxy g d a w) (xNamed a) (yNamed d) ∧
    k.uses g (.movyx g d a w) (k.named .y a) (xNamed d) ∧
    (∀ i ∈ ([.addi g c d a imm, .andi g c d a imm, .ori g c d a imm, .xori g c d a imm, .shli g c d a imm, .shri g c d a imm,
        .srai g c d a imm] : List Instr), k.uses g i (k.named c a) (k.named c d)) ∧
    k.uses g (.liX g d imm19) ([]) (xNamed d) ∧
    k.uses g (.liY g d imm19) ([]) (k.named .y d) ∧
    k.uses g (.lihX g d imm19) (xNamed d) (xNamed d) ∧
    k.uses g (.lihY g d imm19) (k.named .y d) (k.named .y d) ∧
    k.uses g (.bins g d a pos len) (xNamed d ++ xNamed a) (xNamed d) ∧
    k.uses g (.cmpX g pd a b cc w) (xNamed a ++ xNamed b) (pNamed pd) ∧
    k.uses g (.cmpY g pd a b cc w) (k.named .y a ++ k.named .y b) (pNamed pd) ∧
    k.uses g (.cmpiX g pd a cc imm11) (xNamed a) (pNamed pd) ∧
    k.uses g (.cmpiY g pd a cc imm11) (k.named .y a) (pNamed pd) ∧
    (∀ i ∈ ([.plogX g pd pa pb fn, .plogY g pd pa pb fn] : List Instr), k.uses g i (pNamed pa ++ pNamed pb) (pNamed pd)) ∧
    k.uses g (.selX g d a b ps) (xNamed a ++ xNamed b ++ pNamed ps) (xNamed d) ∧
    k.uses g (.selY g d a b ps) (k.named .y a ++ k.named .y b ++ pNamed ps) (k.named .y d) ∧
    (∀ i ∈ ([.br g off24, .yield g, .halt g, .trap g n14, .eret g, .uret g, .fenceC g mask scope, .fenceBank g mask scope, .mrot g ac k6,
        .mzero g ac, .mdclr g, .mcopy g ac src5 tr] : List Instr), k.uses g i ([]) ([])) ∧
    k.uses g (.call g off24) ([]) (xNamed 30) ∧
    k.uses g (.ret g) (xNamed 30) ([]) ∧
    k.uses g (.chk g a off19) (xNamed a) ([]) ∧
    k.uses g (.mfsr g d sr) ([640 + sr.toNat]) (xNamed d) ∧
    k.uses g (.mtsr g a sr) (xNamed a) ([640 + sr.toNat]) ∧
    k.uses g (.setlc g a imm) (xNamed a) ([641]) ∧
    k.uses g (.rdfel g d) ([642]) (xNamed d) ∧
    k.uses g (.clrfel g) ([]) ([642]) ∧
    k.uses g (.xlat g h a perm) (k.named .y a) (hNamed h) ∧
    k.uses g (.hdrop g h) ([]) (hNamed h) ∧
    k.uses g (.hmov g h src) (hNamed src) (hNamed h) ∧
    k.uses g (.hinfo g h d) (hNamed h) (k.named .y d) ∧
    k.uses g (.lset g n part y) (k.named .y y) ([448 + n.toNat]) ∧
    k.uses g (.lget g n part y) ([448 + n.toNat]) (k.named .y y) ∧
    k.uses g (.bset g n y) (k.named .y y) ([512 + n.toNat]) ∧
    k.uses g (.bget g n y) ([512 + n.toNat]) (k.named .y y) ∧
    (∀ i ∈ ([.ld g cl t a cls w off7, .ldz g cl t a cls w off7, .ldS g cl t a cls w off7, .ldf g cl t a cls w off7,
        .ldfe g cl t a cls w off7, .tget g cl t a cls w off7] : List Instr), k.uses g i (yNamed a) (k.named cl t)) ∧
    (∀ i ∈ ([.st g cl t a cls w off7, .ste g cl t a cls w off7, .tset g cl t a cls w off7] : List Instr), k.uses g i (k.named cl t ++ yNamed a) ([])) ∧
    (∀ i ∈ ([.ldh g cl t h o cls w disp, .ldhz g cl t h o cls w disp, .ldhS g cl t h o cls w disp
      ] : List Instr), k.uses g i (hNamed h ++ yNamed o) (k.named cl t)) ∧
    k.uses g (.sth g cl t h o cls w disp) (k.named cl t ++ hNamed h ++ yNamed o) ([]) ∧
    k.uses g (.ldq g q2 h o cls w) (hNamed h ++ yNamed o) ([]) ∧
    k.uses g (.qpop g cl t q2) ([]) (k.named cl t) ∧
    k.uses g (.ldv g v a cls ew off8) (yNamed a) (vNamed v) ∧
    k.uses g (.stv g v a cls ew off8) (vNamed v ++ yNamed a) ([]) ∧
    k.uses g (.ldvS g v a cls ew off8) (yNamed a) (vNamed v ++ yNamed a) ∧
    (∀ i ∈ ([.ldvh g v h o cls ew, .ldvm g v h o cls] : List Instr), k.uses g i (hNamed h ++ yNamed o) (vNamed v)) ∧
    k.uses g (.stvh g v h o cls ew) (vNamed v ++ hNamed h ++ yNamed o) ([]) ∧
    k.uses g (.ldvg g v i a cls ew) (vNamed i ++ yNamed a) (vNamed v) ∧
    k.uses g (.stvs g v i a cls ew) (vNamed v ++ vNamed i ++ yNamed a) ([]) ∧
    k.uses g (.stlink g t h o cls) (yNamed t ++ yNamed (t + 1) ++ hNamed h ++ yNamed o) ([]) ∧
    k.uses g (.ldlink g t h o cls) (hNamed h ++ yNamed o) (yNamed t ++ yNamed (t + 1)) ∧
    (∀ i ∈ ([.vadd g d a b fmt rnd, .vsub g d a b fmt rnd, .vmul g d a b fmt rnd, .vmin g d a b fmt alt, .vmax g d a b fmt alt,
        .vand g d a b, .vor g d a b, .vxor g d a b, .vandn g d a b, .vshl g d a b fmt, .vshr g d a b fmt, .vsra g d a b fmt,
        .vdiv g d a b fmt rnd, .vperm g d a b, .vmerge g d a b fmt mode] : List Instr), k.uses g i (vNamed a ++ vNamed b) (vNamed d)) ∧
    (∀ i ∈ ([.vfma g d a b fmt rnd, .vfms g d a b fmt rnd] : List Instr), k.uses g i (vNamed d ++ vNamed a ++ vNamed b) (vNamed d)) ∧
    (∀ i ∈ ([.vabs g d a fmt rnd, .vneg g d a fmt rnd, .vsqrt g d a fmt rnd, .vrsqrt g d a fmt rnd, .vexp2 g d a, .vcvt g d a sf df rnd,
        .vunpk g d a sf df hs rnd, .vredadd g d a fmt grp rnd, .vredmax g d a fmt grp, .vredmin g d a fmt grp, .vmov g d a,
        .vclz g d a fmt, .vpopc g d a fmt] : List Instr), k.uses g i (vNamed a) (vNamed d)) ∧
    k.uses g (.vcmp g pd a b vcc fmt) (vNamed a ++ vNamed b) (pNamed pd) ∧
    k.uses g (.vsel g d a b ps) (vNamed a ++ vNamed b ++ pNamed ps) (vNamed d) ∧
    k.uses g (.vpack g d a sf df hs rnd) (vNamed d ++ vNamed a) (vNamed d) ∧
    (∀ i ∈ ([.vbcast g d y fmt, .vins g d y lane fmt, .viota g d y lane] : List Instr), k.uses g i (yNamed y) (vNamed d)) ∧
    k.uses g (.vscan g d a b fmt sub rnd) (vNamed a ++ (if sub.getLsbD 1 then vNamed b else [])) (vNamed d) ∧
    k.uses g (.agen g d a b y) (vNamed a ++ vNamed b ++ yNamed y) (vNamed d) ∧
    k.uses g (.vext g d y lane fmt) (vNamed d) (yNamed y) ∧
    (∀ i ∈ ([.mma g ac a b fmt ca dm sp, .mmaz g ac a b fmt ca dm sp
      ] : List Instr), k.uses g i (yNamed a ++ yNamed b ++ (if fmt.isMx then [256 + 2 * sp.toNat, 257 + 2 * sp.toNat, 264 + 2 * sp.toNat, 265 + 2 * sp.toNat] else [])) ([])) ∧
    k.uses g (.mcon g ac wc bd y fmt) (wNamed wc ++ [512 + bd.toNat] ++ yNamed y) ([512 + bd.toNat]) ∧
    k.uses g (.mord g ac bd y) ([512 + bd.toNat] ++ yNamed y) ([512 + bd.toNat]) ∧
    k.uses g (.mdrain g ac y fmt sc cmp rnd) (yNamed y) (if fmt.isMx then scNamed sc ++ scNamed (sc + 8) else []) ∧
    (∀ i ∈ ([.mldac g ac y, .mstac g ac y, .mhld g y k6, .mdmap g y k6] : List Instr), k.uses g i (yNamed y) ([])) ∧
    k.uses g (.macv g ac y v row) (yNamed y) (vNamed v) ∧
    k.uses g (.mvac g ac y v row) (yNamed y ++ vNamed v) ([]) ∧
    k.uses g (.sld g sc a cls off11) (yNamed a) (scNamed sc) ∧
    k.uses g (.sldh g sc h o cls) (hNamed h ++ yNamed o) (scNamed sc) ∧
    k.uses g (.sbc g sc y) (yNamed y) (scNamed sc) ∧
    k.uses g (.sst g sc a cls off11) (scNamed sc ++ yNamed a) ([]) ∧
    (∀ i ∈ ([.copy g e st h q, .copyg g e st h q, .copyx g e st h q, .bank g e h q, .xfer g e get h q
      ] : List Instr), k.uses g i (kNamed e.ka ++ kNamed e.kb ++ kNamed e.kc ++ hNamed h ++ quadNamed q) (kNamed e.kd)) ∧
    (∀ i ∈ ([.binrel g e q, .binkill g e q, .lfree g e q, .bar g e q, .barw g e q, .semwait g e eq cls q
      ] : List Instr), k.uses g i (kNamed e.ka ++ kNamed e.kb ++ kNamed e.kc ++ quadNamed q) (kNamed e.kd)) ∧
    k.uses g (.kjoin g e) (kNamed e.ka ++ kNamed e.kb ++ kNamed e.kc) (kNamed e.kd) ∧
    (∀ i ∈ ([.walk g e fw wc q, .wrest g e wc q, .chain g e fw wc q
      ] : List Instr), k.uses g i (kNamed e.ka ++ kNamed e.kb ++ kNamed e.kc ++ quadNamed q) (kNamed e.kd ++ wNamed wc)) ∧
    k.uses g (.wstop g e wc) (kNamed e.ka ++ kNamed e.kb ++ kNamed e.kc ++ wNamed wc) (kNamed e.kd ++ wNamed wc) ∧
    k.uses g (.wsave g e wc q) (kNamed e.ka ++ kNamed e.kb ++ kNamed e.kc ++ wNamed wc ++ quadNamed q) (kNamed e.kd) ∧
    k.uses g (.wbudget g e wc q) (kNamed e.ka ++ kNamed e.kb ++ kNamed e.kc ++ wNamed wc ++ quadNamed q) (kNamed e.kd ++ wNamed wc) ∧
    k.uses g (.launch g e hf hn q) (kNamed e.ka ++ kNamed e.kb ++ kNamed e.kc ++ (if hf then hNamed hn else []) ++ quadNamed q) (kNamed e.kd) ∧
    k.uses g (.fbind g kd snd n4 q) (quadNamed q) (kNamed kd) ∧
    k.uses g (.funbind g kd n4) ([]) (kNamed kd) ∧
    (∀ i ∈ ([.binacq g r q, .waitany g r q, .binst g r q, .lalloc g r q, .lallocM g r q, .latom g r wide op q, .semadd g r cls q,
        .semcas g r cls q, .semrd g r cls q] : List Instr), k.uses g i (kNamed r.ka ++ kNamed r.kb ++ quadNamed q) (yNamed r.d ++ pNamed r.pd)) ∧
    k.uses g (.wnext g r wc q) (kNamed r.ka ++ kNamed r.kb ++ wNamed wc ++ quadNamed q) (yNamed r.d ++ pNamed r.pd ++ wNamed wc) ∧
    k.uses g (.kpoll g d pd ka) (kNamed ka) (yNamed d ++ pNamed pd) ∧
    (∀ i ∈ ([.kwait g ka kb kc, .retire g ka kb kc] : List Instr), k.uses g i (kNamed ka ++ kNamed kb ++ kNamed kc) ([])) ∧
    (∀ i ∈ ([.uiarm g ka, .uidis g ka] : List Instr), k.uses g i (kNamed ka) ([]))) ∧
  (∀ (k : Ctx) (slots : List (SlotKind × Instr)) (h : Nat) (ws : List Nat) (head : Bool), slots.length ≤ ws.length →
    let r := checkGroup k slots (h :: ws) head
    let illegal (slot w : Nat) : Prop := r = .error ⟨3, slot, BitVec.ofNat 64 (w % 2 ^ 32), false, none⟩
    let transfer (i : Instr) : Prop :=
      match i with
      | .br _ _ | .call _ _ | .jr _ _ _ | .ret _ | .chk _ _ _ | .trap _ _ | .eret _ | .uret _ => True
      | _ => False
    let returns (i : Instr) : Prop :=
      match i with
      | .eret _ | .uret _ => True
      | _ => False
    let delayed : Prop := k.branch ≠ none ∨ k.delay ≠ 0
    let alone : Prop := (∃ p ∈ slots, returns p.2) ∧ 2 ≤ slots.length
    let reads (p : SlotKind × Instr) := (wordUses k p.2).reads
    let writes (p : SlotKind × Instr) := (wordUses k p.2).writes
    let strides (n : Nat) : Prop := head = true ∧ n ∈ [641, 646, 647, 648]
    let earlier (p : SlotKind × Instr) : Prop :=
      ∃ n, (n ∈ reads p ∧ n ∈ k.group.writes) ∨ (n ∈ writes p ∧ (n ∈ k.group.writes ∨ n ∈ k.group.reads ∨ strides n))
    let together (p q : SlotKind × Instr) : Prop := ∃ n, (n ∈ writes p ∧ (n ∈ reads q ∨ n ∈ writes q)) ∨ (n ∈ writes q ∧ n ∈ reads p)
    (8 ≤ k.group.count → illegal 7 h) ∧
    (k.group.count < 8 → delayed → (∃ p ∈ slots, transfer p.2) → illegal 0 (ws.headD 0)) ∧
    (k.group.count < 8 → ¬ (delayed ∧ ∃ p ∈ slots, transfer p.2) → alone → illegal 0 (ws.headD 0)) ∧
    (k.group.count < 8 → ¬ (delayed ∧ ∃ p ∈ slots, transfer p.2) → ¬ alone →
      ((∃ n ∈ k.group.writes, strides n) → illegal 7 h) ∧
      (¬ (∃ n ∈ k.group.writes, strides n) →
        (∀ (m : Nat) p w, slots[m]? = some p → ws[m]? = some w →
          earlier p ∨ (∃ l < m, ∃ q, slots[l]? = some q ∧ together q p) →
          (∀ j < m, ∀ q, slots[j]? = some q → ¬ earlier q ∧ ∀ l < j, ∀ o, slots[l]? = some o → ¬ together o q) → illegal p.1.code w) ∧
        ((∀ (m : Nat) p, slots[m]? = some p → ¬ earlier p ∧ ∀ l < m, ∀ q, slots[l]? = some q → ¬ together q p) →
          r = .ok (k.group.reads ++ (if head then [641, 646, 647, 648] else []) ++ slots.flatMap reads, k.group.writes ++ slots.flatMap writes))))) ∧
  ∀ (s u : State) (ws : List Nat), s.Issues u ws →
    (∀ e, decodeBundle (ws.headD 0) ws.tail = .error e → step s = .next ((u.takeTrap (encTrap ws e)).turnOver s.cur)) ∧
    (∀ b, decodeBundle (ws.headD 0) ws.tail = .ok b →
      (∀ len r v, b.rep = some len → u.headCheck (ws.headD 0) len b.mword = (.error r, v) → step s = .next ((u.takeTrap r).turnOver s.cur)) ∧
      ((∀ len, b.rep = some len → ∃ x v, u.headCheck (ws.headD 0) len b.mword = (.ok x, v)) →
        (∀ r, checkGroup u.here b.slots ws b.rep.isSome = .error r → step s = .next ((u.takeTrap r).turnOver s.cur)) ∧
        (∀ rd wr, checkGroup u.here b.slots ws b.rep.isSome = .ok (rd, wr) → (b.slots ≠ [] ∨ u.here.rep ≠ none) →
          let ops := (bundleOps b u.here.rep.isSome).filter fun i => !isTrap i
          let group := if b.stop then Group.fresh else ⟨u.here.group.count + 1, rd, wr⟩
          let ended (t : State) : State := t.setHere (t.here.endBundle u.here.branch b.size (b.slots.any fun p => isBranch p.2) group)
          (∀ t, RunsTo u ops t → t.here.flight.length ≤ 64 →
            ((∀ p ∈ b.slots, isTrap p.2 = false) → step s = .next ((ended t).turnOver s.cur)) ∧
            (∀ i v, (b.slots.map Prod.snd).find? isTrap = some i → exec i t = .next v →
              step s = .next ((if v.status = .ok then ended t else v).turnOver s.cur))) ∧
          (∀ t, RunsTo u ops t → 64 < t.here.flight.length → step s = .next ((u.setHere u.here.tick).turnOver s.cur)) ∧
          (∀ pre i post v x, ops = pre ++ i :: post → RunsTo u pre v → exec i v = .next x →
            (∀ r, x.status = .trapped r → step s = .next ((u.takeTrap r).turnOver s.cur)) ∧
            (∀ a, x.status = .blocked a → step s = .next ((u.block a).turnOver s.cur)) ∧
            (x.status = .frozen → step s = .next (u.freeze.turnOver s.cur)) ∧
            (∀ p, x.status = .frozenPast p → step s = .next (((u.freezePast p).pin u.cur p).turnOver s.cur))))))

/-- R12, R13, R36: what a slot leaves alone at its issue. The register files, the special registers, the PC and the branch state change only when
results become visible (but for wnext's cursor); memory changes only by a store, the tags only by ldfe, ste and tset, a semaphore only by
semadd and semcas; a storing form changes no byte but those that its operands address; no other context changes; and a disabled slot does
nothing, a V slot when its predicate enables no lane. -/
def Obligations.IssueLeavesTheRest : Prop :=
  (∀ (s : State) (i : Instr) (g : Guard) (k : SlotKind) (w l : Nat), guardOf i = some g → slotWord i = some (k, w, l) →
    (if k = .V then s.here.laneMask g = 0 else s.here.enabled g = false) → exec i s = .next s) ∧
  ∀ (s t : State) (i : Instr), (slotWord i).isSome = true → exec i s = .next t → t.status = .ok →
    (isWnext i = false → t.here.regs = s.here.regs) ∧ t.here.sr = { s.here.sr with felSince := t.here.sr.felSince } ∧ t.here.pc = s.here.pc ∧ t.cur = s.cur ∧
    (isBranch i = false → t.here.branch = s.here.branch) ∧ (∀ c, c ≠ s.cur → t.ctx c = s.ctx c) ∧
    (storesBytes i = false → t.mem = s.mem) ∧ (changesTags i = false → t.tags = s.tags) ∧ (changesSems i = false → t.sems = s.sems) ∧
    t.tiles = s.tiles ∧ t.host = s.host ∧ t.mcmds.length ≤ s.mcmds.length + 1 ∧
    (s.Inv → ∀ key, cellAt t.mem key ≠ cellAt s.mem key → s.storePlace i key)

/-- R31, R32, R35, R38 to R52: words of the spec's own worked encodings, one or more of each slot kind, read as the instructions they stand for. -/
def Obligations.SpecWordsDecode : Prop :=
  let g : Guard := ⟨false, 0⟩
  let p (n : BitVec 4) : Guard := ⟨false, n⟩
  decode [0x80000000] = some (.emptyBundle true) ∧
  decode [0xC0000000, 0x28062170] = some (.mulX g 6 4 5 3) ∧
  decode [0xC01C0000, 0x903FFFFD] = some (.br (p 1) (-3)) ∧
  decode [0xA0038000, 0x40031FFF] = some (.addi g .y 3 3 (-1)) ∧
  decode [0xA0000000, 0x6C023100] = some (.cmpiY g 1 3 .ne 0) ∧
  decode [0xC0000000, 0xC4000000] = some (.uret g) ∧
  decode [0x90000000, 0x6000006A] = some (.fenceC g 3 5) ∧
  decode [0x88000000, 0x60080010] = some (.vunpk g 8 0 .int8 .int32 0 0) ∧
  decode [0x84000000, 0x30000100] = some (.macv g 0 0 4 0) ∧
  decode [0x84000040, 0x0005432E] = some (.mma g 5 8 12 .mxint8 false true 1) ∧
  decode [0x82000010, 0x00040001] = some (.copy g ⟨2, 0, 0, 0⟩ false 1 2) ∧
  decode [0x82000010, 0x88053002] = some (.semadd g ⟨5, 3, 0, 0⟩ 2 2) ∧
  decode [0x82000000, 0x2C004000] = some (.uiarm g 2)

/-- R30 to R52: DECODING UNDOES ENCODING. The words of every well-formed slot instruction, as a bundle of its own, decode to that instruction, with
every operand at every value its entry accepts; so do an empty bundle's. -/
def Obligations.DecodeUndoesEncode : Prop :=
  (∀ (i : Instr), i.wf = true → ∀ k w l, slotWord i = some (k, w, l) → decodeSlot k w l = .ok i ∧ decode (encode i) = some i) ∧
  (∀ stop, decode (encode (.emptyBundle stop)) = some (.emptyBundle stop))

/-- R34, R36, R37, R38, R53: what no slot and no header may hold is refused. An unassigned opcode raises ILLEGAL_OPCODE and p0 negated ILLEGAL_FIELD, before anything
else; a slot word that is read at all is the encoding of the well-formed instruction it is read as; reserved header bits, a LEND group of an
absent slot, a REP bit without an M slot and one whose M slot has no dagger in the grid refuse the header. The trap of an unassigned opcode is class 1,
that of a refused field or header class 2. -/
def Obligations.ReservedEncodingsRefused : Prop :=
  (∀ (k : SlotKind) (w lend : Nat), w < 2 ^ 32 →
    let op := w / 2 ^ 26
    let unassigned : Prop :=
      match k with
      | .X => 0x32 < op
      | .Y => (0x23 < op ∧ op < 0x28) ∨ 0x2B < op
      | .L => op = 0x0F ∨ 0x1B < op
      | .V => 0x26 < op
      | .M => 0x0E < op
      | .E => (0x0C < op ∧ op < 0x10) ∨ op = 0x17 ∨ 0x27 < op
      | .S => 3 < op
    (unassigned → decodeSlot k w lend = .error (.opcode k)) ∧
    (¬ unassigned → w.testBit 25 = true → w / 2 ^ 21 % 16 = 0 → decodeSlot k w lend = .error (.field k)) ∧
    (∀ i, decodeSlot k w lend = .ok i → slotWord i = some (k, w, lend) ∧ i.wf = true)) ∧
  (∀ (h : Nat) (ws : List Nat),
    (h.testBit 22 = true ∨ h.testBit 21 = true → decodeBundle h ws = .error .header) ∧
    (∀ k : SlotKind, h.testBit (30 - k.code) = false → h / 2 ^ (18 - 3 * k.code) % 8 ≠ 0 → decodeBundle h ws = .error .header) ∧
    (h.testBit 23 = true → h.testBit 26 = false → decodeBundle h ws = .error .header) ∧
    (∀ m, h.testBit 23 = true → ws[(List.range 4).countP fun j => h.testBit (30 - j)]? = some m → m / 2 ^ 26 % 2 ^ 6 ∉ [0, 1, 4, 6, 7] →
      decodeBundle h ws = .error .header)) ∧
  (∀ (ws : List Nat) (k : SlotKind), (encTrap ws .header).cls = 2 ∧ (encTrap ws (.opcode k)).cls = 1 ∧ (encTrap ws (.field k)).cls = 2)

/-- R11, R179, R223, R245, R271, R388, R390: what power-on reset leaves: every context halted, with its predicate and special registers zero, no branch
pending, invalid handles, empty queues and unbound FIFOs; every other register file zero with poison clear (the model's choice where the spec
gives no value); every semaphore zero and every tag empty, every bin free, MODE 0, PLIM 2,600 and the clock at 1,300; and the memories are in their
canonical form. The model's choices here: log entries 1, 2 and 4 to 8. -/
def Obligations.ResetState : Prop :=
  let s := State.reset
  s.Inv ∧ s.host.mode = .reset ∧ s.host.fails = 0 ∧ s.host.hflag = 0 ∧ s.host.watts = 2600 ∧ s.host.clkMhz = 1300 ∧ s.host.mbBusy = false ∧
  s.device = 0 ∧
  (∀ c,
    let k := s.ctx c
    let r := k.regs
    k.run = .halted ∧ k.handler = false ∧ k.inUi = false ∧ k.branch = none ∧ k.flight = [] ∧ k.rep = none ∧
    (k.sr.slack = 0 ∧ k.sr.lc = 0 ∧ k.sr.uiv = 0 ∧ k.sr.tenant = 0 ∧ k.sr.rsta = 0 ∧ k.sr.rstb = 0 ∧ k.sr.rstd = 0 ∧ k.sr.acyc = 0 ∧
      k.sr.epc = 0 ∧ k.sr.ecause = 0 ∧ k.sr.einfo = 0 ∧ k.sr.ebp = 0 ∧ felWord k.sr.fel = 0) ∧
    (∀ a, r.rx a = ⟨0, false⟩ ∧ r.ry a = ⟨0, false⟩) ∧ (∀ a, r.rp a = if a = 0 then BitVec.allOnes 64 else 0) ∧
    (∀ a i, lane (r.rv a) i = 0) ∧ (∀ a i, lane (r.rsc a) i = 0) ∧
    (∀ a, (r.rh a).valid = false) ∧ (∀ a, r.rk a = none) ∧ (∀ a, r.rl a = 0) ∧ (∀ a, r.rb a = 0) ∧ (∀ a, r.rw a = 0 ∧ (r.rw a).state = 0) ∧
    (∀ i, vget k.q i [] = []) ∧ (∀ i, vget k.f i .unbound = .unbound) ∧ (∀ i, vget k.arm i none = none) ∧ (∀ i, vget k.pend i none = none)) ∧
  (∀ ref, s.sem ref = 0) ∧ (∀ cl b, (s.bin (binKey cl b)).state = 0) ∧ (∀ cl a, cellAt s.tags (tagKey cl a) = 0) ∧
  (∀ core t i j, s.tileElem core t i j = 0) ∧ s.toks = [] ∧ s.walks = [] ∧ s.insts = [] ∧ s.slots = [] ∧ s.extents = []

/-- EVERY STEP KEEPS THE MEMORIES' CANONICAL FORM: memory, tags, tiles and semaphores stay lists of strictly rising addresses with no entry equal to
what an unlisted address reads as, whatever step the device makes from whatever state that has it. -/
def Obligations.StepKeepsInvariant : Prop :=
  ∀ (s t : State), s.Inv → step s = .next t → t.Inv
end

