-- ==== Sys2Proof/Laws/Memory.lean ====
section
/-!
SUPPORT. What the operations on sparse memories do: every one keeps the canonical form, a read inside what was written
gives the value written, and a read outside gives what stood there before.
-/

namespace Sys2Proof.Machine

variable {w : Nat}

/-! ### The canonical form as two plain facts -/

/-- Addresses rise strictly. -/
def Rising (m : List (Nat × BitVec w)) : Prop := m.Pairwise fun p q => p.1 < q.1

/-- No entry is zero. -/
def NoZero (m : List (Nat × BitVec w)) : Prop := ∀ p ∈ m, p.2 ≠ 0

theorem wf_iff (m : List (Nat × BitVec w)) : Memory.wf m = true ↔ Rising m ∧ NoZero m := by
  induction m with
  | nil => simp [Memory.wf, Rising, NoZero]
  | cons p r ih =>
    obtain ⟨k, v⟩ := p
    cases r with
    | nil => simp [Memory.wf, Rising, NoZero]
    | cons q r =>
      obtain ⟨k', v'⟩ := q
      simp only [Memory.wf, Bool.and_eq_true, bne_iff_ne, ne_eq, decide_eq_true_eq, ih]
      constructor
      · rintro ⟨⟨hv, hk⟩, hr, hz⟩
        refine ⟨?_, ?_⟩
        · refine List.pairwise_cons.2 ⟨?_, hr⟩
          intro x hx
          rcases List.mem_cons.1 hx with rfl | hx
          · exact hk
          · exact lt_trans hk ((List.pairwise_cons.1 hr).1 x hx)
        · intro x hx
          rcases List.mem_cons.1 hx with rfl | hx
          · exact hv
          · exact hz x hx
      · rintro ⟨hr, hz⟩
        have h := List.pairwise_cons.1 hr
        exact ⟨⟨hz (k, v) (by simp), h.1 (k', v') (by simp)⟩, h.2, fun x hx => hz x (List.mem_cons_of_mem _ hx)⟩

@[simp] theorem wf_nil : Memory.wf ([] : List (Nat × BitVec w)) = true := rfl

/-! ### Parts of a memory -/

theorem cellsFrom_sublist (m : List (Nat × BitVec w)) (a : Nat) : (cellsFrom m a).Sublist m := by
  induction m with
  | nil => exact .slnil
  | cons p r ih =>
    obtain ⟨k, v⟩ := p
    unfold cellsFrom
    split
    · exact ih.cons _
    · exact .refl _

theorem cellsBelow_sublist (m : List (Nat × BitVec w)) (a : Nat) : (cellsBelow m a).Sublist m := by
  induction m with
  | nil => exact .slnil
  | cons p r ih =>
    obtain ⟨k, v⟩ := p
    unfold cellsBelow
    split
    · exact ih.cons_cons _
    · exact List.nil_sublist _

theorem mem_cellsFrom {m : List (Nat × BitVec w)} (h : Rising m) {a : Nat} {p : Nat × BitVec w} (hp : p ∈ cellsFrom m a) : a ≤ p.1 := by
  induction m with
  | nil => simp [cellsFrom] at hp
  | cons q r ih =>
    obtain ⟨k, v⟩ := q
    unfold cellsFrom at hp
    split at hp
    · exact ih (List.pairwise_cons.1 h).2 hp
    · rename_i hk
      rcases List.mem_cons.1 hp with rfl | hp
      · simpa using hk
      · have := (List.pairwise_cons.1 h).1 p hp
        simp only at this
        omega

theorem mem_cellsBelow {m : List (Nat × BitVec w)} {a : Nat} {p : Nat × BitVec w} (hp : p ∈ cellsBelow m a) : p.1 < a := by
  induction m with
  | nil => simp [cellsBelow] at hp
  | cons q r ih =>
    obtain ⟨k, v⟩ := q
    unfold cellsBelow at hp
    split at hp
    · rename_i hk
      rcases List.mem_cons.1 hp with rfl | hp
      · exact hk
      · exact ih hp
    · simp at hp

theorem Rising.cellsFrom {m : List (Nat × BitVec w)} (h : Rising m) (a : Nat) : Rising (cellsFrom m a) := List.Pairwise.sublist (cellsFrom_sublist m a) h

theorem Rising.cellsBelow {m : List (Nat × BitVec w)} (h : Rising m) (a : Nat) : Rising (cellsBelow m a) := List.Pairwise.sublist (cellsBelow_sublist m a) h

/-! ### Writing keeps the canonical form -/

theorem mem_putCells {m : List (Nat × BitVec w)} (h : Rising m) {vs : List (BitVec w)} {a : Nat} {p : Nat × BitVec w}
    (hp : p ∈ putCells m a vs) : a ≤ p.1 := by
  induction vs generalizing a with
  | nil => exact mem_cellsFrom h hp
  | cons v vs ih =>
    unfold putCells at hp
    split at hp
    · exact le_trans (Nat.le_succ a) (ih hp)
    · rcases List.mem_cons.1 hp with rfl | hp
      · exact le_refl _
      · exact le_trans (Nat.le_succ a) (ih hp)

theorem Rising.putCells {m : List (Nat × BitVec w)} (h : Rising m) (vs : List (BitVec w)) (a : Nat) : Rising (putCells m a vs) := by
  induction vs generalizing a with
  | nil => exact h.cellsFrom a
  | cons v vs ih =>
    unfold Machine.putCells
    split
    · exact ih (a + 1)
    · exact List.pairwise_cons.2 ⟨fun p hp => mem_putCells h hp, ih (a + 1)⟩

theorem NoZero.putCells {m : List (Nat × BitVec w)} (h : NoZero m) (vs : List (BitVec w)) (a : Nat) : NoZero (putCells m a vs) := by
  induction vs generalizing a with
  | nil => exact fun p hp => h p ((cellsFrom_sublist m a).subset hp)
  | cons v vs ih =>
    unfold Machine.putCells
    split
    · exact ih (a + 1)
    · rename_i hv
      intro p hp
      rcases List.mem_cons.1 hp with rfl | hp
      · exact hv
      · exact ih (a + 1) p hp

/-- Every write keeps the canonical form. -/
theorem wf_writeCells {m : List (Nat × BitVec w)} (h : Memory.wf m = true) (a : Nat) (vs : List (BitVec w)) :
    Memory.wf (writeCells m a vs) = true := by
  rw [wf_iff] at *
  obtain ⟨hr, hz⟩ := h
  refine ⟨?_, ?_⟩
  · refine List.pairwise_append.2 ⟨hr.cellsBelow a, (hr.cellsFrom a).putCells vs a, ?_⟩
    intro p hp q hq
    exact lt_of_lt_of_le (mem_cellsBelow hp) (mem_putCells (hr.cellsFrom a) hq)
  · intro p hp
    rcases List.mem_append.1 hp with hp | hp
    · exact hz p ((cellsBelow_sublist m a).subset hp)
    · exact NoZero.putCells (fun q hq => hz q ((cellsFrom_sublist m a).subset hq)) vs a p hp

theorem wf_setCell {m : List (Nat × BitVec w)} (h : Memory.wf m = true) (a : Nat) (v : BitVec w) : Memory.wf (setCell m a v) = true :=
  wf_writeCells h a [v]

theorem wf_clearCells {m : List (Nat × BitVec w)} (h : Memory.wf m = true) (a n : Nat) : Memory.wf (clearCells m a n) = true := by
  rw [wf_iff] at *
  obtain ⟨hr, hz⟩ := h
  refine ⟨?_, ?_⟩
  · refine List.pairwise_append.2 ⟨hr.cellsBelow a, hr.cellsFrom (a + n), ?_⟩
    intro p hp q hq
    have := mem_cellsBelow hp
    have := mem_cellsFrom hr hq
    omega
  · intro p hp
    rcases List.mem_append.1 hp with hp | hp
    · exact hz p ((cellsBelow_sublist m a).subset hp)
    · exact hz p ((cellsFrom_sublist m (a + n)).subset hp)

/-- Leaving entries out keeps the canonical form. -/
theorem wf_filter {m : List (Nat × BitVec w)} (h : Memory.wf m = true) (f : Nat × BitVec w → Bool) : Memory.wf (m.filter f) = true := by
  rw [wf_iff] at *
  exact ⟨h.1.sublist List.filter_sublist, fun p hp => h.2 p (List.mem_filter.1 hp).1⟩

/-! ### Reading -/

theorem cellAt_of_notMem {m : List (Nat × BitVec w)} {a : Nat} (h : ∀ p ∈ m, p.1 ≠ a) : cellAt m a = 0 := by
  induction m with
  | nil => rfl
  | cons p r ih =>
    obtain ⟨k, v⟩ := p
    have hk : k ≠ a := h (k, v) (by simp)
    unfold cellAt
    rw [if_neg hk]
    split
    · rfl
    · exact ih fun q hq => h q (List.mem_cons_of_mem _ hq)

theorem cellAt_of_mem {m : List (Nat × BitVec w)} (hr : Rising m) {a : Nat} {v : BitVec w} (h : (a, v) ∈ m) : cellAt m a = v := by
  induction m with
  | nil => simp at h
  | cons p r ih =>
    obtain ⟨k, u⟩ := p
    unfold cellAt
    rcases List.mem_cons.1 h with e | h
    · cases e
      simp
    · have := (List.pairwise_cons.1 hr).1 (a, v) h
      simp only at this
      rw [if_neg (by omega), if_neg (by omega)]
      exact ih (List.pairwise_cons.1 hr).2 h

/-- Two memories in canonical form that hold the same entries at an address read the same there. -/
theorem cellAt_congr {m n : List (Nat × BitVec w)} (hm : Rising m) (hn : Rising n) {a : Nat}
    (h : ∀ v, (a, v) ∈ m ↔ (a, v) ∈ n) : cellAt m a = cellAt n a := by
  by_cases e : ∃ v, (a, v) ∈ m
  · obtain ⟨v, hv⟩ := e
    rw [cellAt_of_mem hm hv, cellAt_of_mem hn ((h v).1 hv)]
  · rw [cellAt_of_notMem, cellAt_of_notMem]
    · rintro ⟨k, v⟩ hp rfl
      exact e ⟨v, (h v).2 hp⟩
    · rintro ⟨k, v⟩ hp rfl
      exact e ⟨v, hp⟩

theorem mem_cellsFrom_iff {m : List (Nat × BitVec w)} (hr : Rising m) (a : Nat) (p : Nat × BitVec w) :
    p ∈ cellsFrom m a ↔ p ∈ m ∧ a ≤ p.1 := by
  refine ⟨fun h => ⟨(cellsFrom_sublist m a).subset h, mem_cellsFrom hr h⟩, ?_⟩
  rintro ⟨h, ha⟩
  induction m with
  | nil => simp at h
  | cons q r ih =>
    obtain ⟨k, v⟩ := q
    unfold cellsFrom
    split
    · rename_i hk
      rcases List.mem_cons.1 h with rfl | h
      · simp only at ha
        omega
      · exact ih (List.pairwise_cons.1 hr).2 h
    · exact h

theorem mem_cellsBelow_iff {m : List (Nat × BitVec w)} (hr : Rising m) (a : Nat) (p : Nat × BitVec w) :
    p ∈ cellsBelow m a ↔ p ∈ m ∧ p.1 < a := by
  refine ⟨fun h => ⟨(cellsBelow_sublist m a).subset h, mem_cellsBelow h⟩, ?_⟩
  rintro ⟨h, ha⟩
  induction m with
  | nil => simp at h
  | cons q r ih =>
    obtain ⟨k, v⟩ := q
    unfold cellsBelow
    rcases List.mem_cons.1 h with rfl | h
    · rw [if_pos ha]
      simp
    · have := (List.pairwise_cons.1 hr).1 p h
      simp only at this
      rw [if_pos (by omega)]
      exact List.mem_cons_of_mem _ (ih (List.pairwise_cons.1 hr).2 h)

theorem mem_putCells_iff {m : List (Nat × BitVec w)} (hr : Rising m) (vs : List (BitVec w)) (a b : Nat) (v : BitVec w) :
    (b, v) ∈ putCells m a vs ↔ (a ≤ b ∧ b < a + vs.length ∧ vs[b - a]? = some v ∧ v ≠ 0) ∨ (a + vs.length ≤ b ∧ (b, v) ∈ m) := by
  induction vs generalizing a with
  | nil =>
    unfold putCells
    rw [mem_cellsFrom_iff hr]
    constructor
    · rintro ⟨h, ha⟩
      exact .inr ⟨by simpa using ha, h⟩
    · rintro (⟨h1, h2, _⟩ | ⟨h1, h2⟩)
      · simp at h2
        omega
      · exact ⟨h2, by simpa using h1⟩
  | cons u us ih =>
    have key : ((b, v) ∈ putCells m (a + 1) us) ↔
        (a + 1 ≤ b ∧ b < a + (us.length + 1) ∧ us[b - (a + 1)]? = some v ∧ v ≠ 0) ∨ (a + (us.length + 1) ≤ b ∧ (b, v) ∈ m) := by
      rw [ih]
      constructor <;> rintro (h | h)
      · exact .inl ⟨h.1, by omega, h.2.2⟩
      · exact .inr ⟨by omega, h.2⟩
      · exact .inl ⟨h.1, by omega, h.2.2⟩
      · exact .inr ⟨by omega, h.2⟩
    have tail : ∀ {b : Nat}, a + 1 ≤ b → (u :: us)[b - a]? = us[b - (a + 1)]? := by
      intro b hb
      obtain ⟨c, rfl⟩ := Nat.exists_eq_add_of_le hb
      rw [show a + 1 + c - a = c + 1 from by omega, show a + 1 + c - (a + 1) = c from by omega, List.getElem?_cons_succ]
    unfold putCells
    simp only [List.length_cons]
    split
    · rename_i hu
      rw [key]
      constructor
      · rintro (h | h)
        · exact .inl ⟨by omega, h.2.1, by rw [tail h.1]; exact h.2.2.1, h.2.2.2⟩
        · exact .inr h
      · rintro (⟨h1, h2, h3, h4⟩ | h)
        · rcases Nat.eq_or_lt_of_le h1 with rfl | h1
          · simp at h3
            exact absurd (h3.symm.trans hu) h4
          · exact .inl ⟨h1, h2, by rw [← tail h1]; exact h3, h4⟩
        · exact .inr h
    · rename_i hu
      rw [List.mem_cons, key]
      constructor
      · rintro (e | h | h)
        · cases e
          exact .inl ⟨le_refl _, by omega, by simp, hu⟩
        · exact .inl ⟨by omega, h.2.1, by rw [tail h.1]; exact h.2.2.1, h.2.2.2⟩
        · exact .inr h
      · rintro (⟨h1, h2, h3, h4⟩ | h)
        · rcases Nat.eq_or_lt_of_le h1 with rfl | h1
          · simp at h3
            exact .inl (by rw [h3])
          · exact .inr (.inl ⟨h1, h2, by rw [← tail h1]; exact h3, h4⟩)
        · exact .inr (.inr h)

/-- A read of one cell after a write: inside, the value written; outside, what stood there. -/
theorem cellAt_writeCells {m : List (Nat × BitVec w)} (h : Memory.wf m = true) (a : Nat) (vs : List (BitVec w)) (b : Nat) :
    cellAt (writeCells m a vs) b = if a ≤ b ∧ b < a + vs.length then (vs[b - a]?).getD 0 else cellAt m b := by
  have hw := (wf_iff _).1 (wf_writeCells h a vs)
  have hm := (wf_iff _).1 h
  have mem : ∀ v, (b, v) ∈ writeCells m a vs ↔
      ((b, v) ∈ m ∧ b < a) ∨ (a ≤ b ∧ b < a + vs.length ∧ vs[b - a]? = some v ∧ v ≠ 0) ∨ (a + vs.length ≤ b ∧ (b, v) ∈ m) := by
    intro v
    unfold writeCells
    rw [List.mem_append, mem_cellsBelow_iff hm.1, mem_putCells_iff (hm.1.cellsFrom a), mem_cellsFrom_iff hm.1]
    constructor
    · rintro (h | h | h)
      · exact .inl h
      · exact .inr (.inl h)
      · exact .inr (.inr ⟨h.1, h.2.1⟩)
    · rintro (h | h | h)
      · exact .inl h
      · exact .inr (.inl h)
      · exact .inr (.inr ⟨h.1, h.2, by simp only; omega⟩)
  split
  · rename_i hb
    cases hv : vs[b - a]? with
    | none =>
      exfalso
      have := List.getElem?_eq_none_iff.1 hv
      omega
    | some v =>
      simp only [Option.getD_some]
      by_cases hz : v = 0
      · subst hz
        rw [cellAt_of_notMem]
        rintro ⟨k, u⟩ hp rfl
        rcases (mem u).1 hp with h | h | h
        · have := h.2
          omega
        · rw [hv] at h
          exact h.2.2.2 (Option.some.inj h.2.2.1).symm
        · have := h.1
          simp only at this hb
          omega
      · exact cellAt_of_mem hw.1 ((mem v).2 (.inr (.inl ⟨hb.1, hb.2, hv, hz⟩)))
  · rename_i hb
    refine cellAt_congr hw.1 hm.1 fun v => ?_
    rw [mem]
    constructor
    · rintro (h | h | h)
      · exact h.1
      · exact absurd ⟨h.1, h.2.1⟩ hb
      · exact h.2
    · intro hv
      by_cases hlt : b < a
      · exact .inl ⟨hv, hlt⟩
      · exact .inr (.inr ⟨by omega, hv⟩)

theorem cellAt_setCell {m : List (Nat × BitVec w)} (h : Memory.wf m = true) (a : Nat) (v : BitVec w) (b : Nat) :
    cellAt (setCell m a v) b = if b = a then v else cellAt m b := by
  unfold setCell
  rw [cellAt_writeCells h]
  simp only [List.length_cons, List.length_nil]
  by_cases hb : b = a
  · subst hb
    simp
  · rw [if_neg (by omega), if_neg hb]

theorem cellAt_clearCells {m : List (Nat × BitVec w)} (h : Memory.wf m = true) (a n b : Nat) :
    cellAt (clearCells m a n) b = if a ≤ b ∧ b < a + n then 0 else cellAt m b := by
  have hc := (wf_iff _).1 (wf_clearCells h a n)
  have hm := (wf_iff _).1 h
  have mem : ∀ v, (b, v) ∈ clearCells m a n ↔ ((b, v) ∈ m ∧ b < a) ∨ ((b, v) ∈ m ∧ a + n ≤ b) := by
    intro v
    unfold clearCells
    rw [List.mem_append, mem_cellsBelow_iff hm.1, mem_cellsFrom_iff hm.1]
  split
  · rename_i hb
    refine cellAt_of_notMem ?_
    rintro ⟨k, u⟩ hp rfl
    rcases (mem u).1 hp with h | h
    · have := h.2
      omega
    · have := h.2
      simp only at this hb
      omega
  · rename_i hb
    refine cellAt_congr hc.1 hm.1 fun v => ?_
    rw [mem]
    constructor
    · rintro (h | h)
      · exact h.1
      · exact h.1
    · intro hv
      by_cases hlt : b < a
      · exact .inl ⟨hv, hlt⟩
      · exact .inr ⟨hv, by omega⟩

/-! ### Reading several cells -/

theorem cellAt_cellsFrom {m : List (Nat × BitVec w)} (hr : Rising m) {a b : Nat} (h : a ≤ b) : cellAt (cellsFrom m a) b = cellAt m b := by
  refine cellAt_congr (hr.cellsFrom a) hr fun v => ?_
  rw [mem_cellsFrom_iff hr]
  exact ⟨fun h => h.1, fun hv => ⟨hv, h⟩⟩

/-- The cells read, one by one. -/
theorem readCells_eq {m : List (Nat × BitVec w)} (h : Memory.wf m = true) (a n : Nat) :
    readCells m a n = (List.range n).map fun i => cellAt m (a + i) := by
  have hr := ((wf_iff m).1 h).1
  clear h
  induction n generalizing m a with
  | zero => rfl
  | succ n ih =>
    unfold readCells
    rw [ih (a + 1) (hr.cellsFrom a), List.range_succ_eq_map, cellAt_cellsFrom hr (le_refl a)]
    simp only [List.map_cons, List.map_map, Nat.add_zero, List.cons.injEq, true_and]
    refine List.map_congr_left fun i _ => ?_
    simp only [Function.comp]
    rw [cellAt_cellsFrom hr (by omega), show a + 1 + i = a + (i + 1) from by omega]

theorem length_readCells (m : List (Nat × BitVec w)) (a n : Nat) : (readCells m a n).length = n := by
  induction n generalizing m a with
  | zero => rfl
  | succ n ih =>
    unfold readCells
    rw [List.length_cons, ih]

/-- What was written is read back. -/
theorem readCells_writeCells {m : List (Nat × BitVec w)} (h : Memory.wf m = true) (a : Nat) (vs : List (BitVec w)) :
    readCells (writeCells m a vs) a vs.length = vs := by
  rw [readCells_eq (wf_writeCells h a vs)]
  refine List.ext_getElem? fun i => ?_
  rw [List.getElem?_map]
  by_cases hi : i < vs.length
  · rw [List.getElem?_range hi]
    simp only [Option.map_some]
    rw [cellAt_writeCells h, if_pos (by omega), show a + i - a = i from by omega, List.getElem?_eq_getElem hi]
    rfl
  · rw [List.getElem?_eq_none (by simpa using hi), List.getElem?_eq_none (by simpa using hi)]
    rfl

/-- A write leaves every other range alone. -/
theorem readCells_writeCells_apart {m : List (Nat × BitVec w)} (h : Memory.wf m = true) (a : Nat) (vs : List (BitVec w)) (b n : Nat)
    (hb : b + n ≤ a ∨ a + vs.length ≤ b) : readCells (writeCells m a vs) b n = readCells m b n := by
  rw [readCells_eq (wf_writeCells h a vs), readCells_eq h]
  refine List.map_congr_left fun i hi => ?_
  have := List.mem_range.1 hi
  rw [cellAt_writeCells h, if_neg (by omega)]

/-! ### Finite maps and vectors -/

theorem alGet_alSet {α : Type} (m : List (Nat × α)) (a : Nat) (v : α) : alGet (alSet m a v) a = some v := by
  induction m with
  | nil => simp [alSet, alGet]
  | cons p r ih =>
    obtain ⟨k, u⟩ := p
    unfold alSet
    split
    · simp [alGet]
    · split
      · simp [alGet]
      · rename_i h1 h2
        simp only [alGet]
        rw [if_neg (fun e => h2 e.symm)]
        exact ih

theorem alGet_alSet_ne {α : Type} (m : List (Nat × α)) (a b : Nat) (v : α) (h : b ≠ a) : alGet (alSet m a v) b = alGet m b := by
  induction m with
  | nil => simp [alSet, alGet, Ne.symm h]
  | cons p r ih =>
    obtain ⟨k, u⟩ := p
    unfold alSet
    split
    · simp [alGet, Ne.symm h]
    · split
      · rename_i h2
        subst h2
        simp [alGet, Ne.symm h]
      · simp only [alGet]
        split
        · rfl
        · exact ih

theorem vget_vset {α : Type} {n : Nat} (v : Vector α n) (i : Nat) (a d : α) (h : i < n) : vget (vset v i a) i d = a := by
  simp [vget, vset, h]

theorem vget_vset_ne {α : Type} {n : Nat} (v : Vector α n) (i j : Nat) (a d : α) (h : i ≠ j) : vget (vset v i a) j d = vget v j d := by
  simp [vget, vset, h]

end Sys2Proof.Machine
end

