-- ==== Sys2Proof/Laws/State.lean ====
section
/-!
SUPPORT. One lemma per field and update of State: what an update leaves, true by unfolding.
-/

namespace Sys2Proof.Machine

/-! ### A context is replaced -/

@[simp] theorem setCtx_cur (s : State) (c : Nat) (k : Ctx) : (s.setCtx c k).cur = s.cur := rfl
@[simp] theorem setCtx_agenda (s : State) (c : Nat) (k : Ctx) : (s.setCtx c k).agenda = s.agenda := rfl
@[simp] theorem setCtx_scripted (s : State) (c : Nat) (k : Ctx) : (s.setCtx c k).scripted = s.scripted := rfl
@[simp] theorem setCtx_status (s : State) (c : Nat) (k : Ctx) : (s.setCtx c k).status = s.status := rfl
@[simp] theorem setCtx_next (s : State) (c : Nat) (k : Ctx) : (s.setCtx c k).next = s.next := rfl
@[simp] theorem setCtx_issueFrom (s : State) (c : Nat) (k : Ctx) : (s.setCtx c k).issueFrom = s.issueFrom := rfl
@[simp] theorem setCtx_header (s : State) (c : Nat) (k : Ctx) : (s.setCtx c k).header = s.header := rfl
@[simp] theorem setCtx_free (s : State) (c : Nat) (k : Ctx) : (s.setCtx c k).free = s.free := rfl
@[simp] theorem setCtx_holders (s : State) (c : Nat) (k : Ctx) : (s.setCtx c k).holders = s.holders := rfl
@[simp] theorem setCtx_mem (s : State) (c : Nat) (k : Ctx) : (s.setCtx c k).mem = s.mem := rfl
@[simp] theorem setCtx_tags (s : State) (c : Nat) (k : Ctx) : (s.setCtx c k).tags = s.tags := rfl
@[simp] theorem setCtx_tiles (s : State) (c : Nat) (k : Ctx) : (s.setCtx c k).tiles = s.tiles := rfl
@[simp] theorem setCtx_sems (s : State) (c : Nat) (k : Ctx) : (s.setCtx c k).sems = s.sems := rfl
@[simp] theorem setCtx_semTen (s : State) (c : Nat) (k : Ctx) : (s.setCtx c k).semTen = s.semTen := rfl
@[simp] theorem setCtx_bins (s : State) (c : Nat) (k : Ctx) : (s.setCtx c k).bins = s.bins := rfl
@[simp] theorem setCtx_toks (s : State) (c : Nat) (k : Ctx) : (s.setCtx c k).toks = s.toks := rfl
@[simp] theorem setCtx_mcmds (s : State) (c : Nat) (k : Ctx) : (s.setCtx c k).mcmds = s.mcmds := rfl
@[simp] theorem setCtx_ecmds (s : State) (c : Nat) (k : Ctx) : (s.setCtx c k).ecmds = s.ecmds := rfl
@[simp] theorem setCtx_walks (s : State) (c : Nat) (k : Ctx) : (s.setCtx c k).walks = s.walks := rfl
@[simp] theorem setCtx_claims (s : State) (c : Nat) (k : Ctx) : (s.setCtx c k).claims = s.claims := rfl
@[simp] theorem setCtx_chans (s : State) (c : Nat) (k : Ctx) : (s.setCtx c k).chans = s.chans := rfl
@[simp] theorem setCtx_orphans (s : State) (c : Nat) (k : Ctx) : (s.setCtx c k).orphans = s.orphans := rfl
@[simp] theorem setCtx_barriers (s : State) (c : Nat) (k : Ctx) : (s.setCtx c k).barriers = s.barriers := rfl
@[simp] theorem setCtx_pendings (s : State) (c : Nat) (k : Ctx) : (s.setCtx c k).pendings = s.pendings := rfl
@[simp] theorem setCtx_insts (s : State) (c : Nat) (k : Ctx) : (s.setCtx c k).insts = s.insts := rfl
@[simp] theorem setCtx_images (s : State) (c : Nat) (k : Ctx) : (s.setCtx c k).images = s.images := rfl
@[simp] theorem setCtx_slots (s : State) (c : Nat) (k : Ctx) : (s.setCtx c k).slots = s.slots := rfl
@[simp] theorem setCtx_tlb (s : State) (c : Nat) (k : Ctx) : (s.setCtx c k).tlb = s.tlb := rfl
@[simp] theorem setCtx_lines (s : State) (c : Nat) (k : Ctx) : (s.setCtx c k).lines = s.lines := rfl
@[simp] theorem setCtx_invals (s : State) (c : Nat) (k : Ctx) : (s.setCtx c k).invals = s.invals := rfl
@[simp] theorem setCtx_roots (s : State) (c : Nat) (k : Ctx) : (s.setCtx c k).roots = s.roots := rfl
@[simp] theorem setCtx_tvecs (s : State) (c : Nat) (k : Ctx) : (s.setCtx c k).tvecs = s.tvecs := rfl
@[simp] theorem setCtx_faults (s : State) (c : Nat) (k : Ctx) : (s.setCtx c k).faults = s.faults := rfl
@[simp] theorem setCtx_streams (s : State) (c : Nat) (k : Ctx) : (s.setCtx c k).streams = s.streams := rfl
@[simp] theorem setCtx_extents (s : State) (c : Nat) (k : Ctx) : (s.setCtx c k).extents = s.extents := rfl
@[simp] theorem setCtx_quotas (s : State) (c : Nat) (k : Ctx) : (s.setCtx c k).quotas = s.quotas := rfl
@[simp] theorem setCtx_lost (s : State) (c : Nat) (k : Ctx) : (s.setCtx c k).lost = s.lost := rfl
@[simp] theorem setCtx_device (s : State) (c : Nat) (k : Ctx) : (s.setCtx c k).device = s.device := rfl
@[simp] theorem setCtx_present (s : State) (c : Nat) (k : Ctx) : (s.setCtx c k).present = s.present := rfl
@[simp] theorem setCtx_unreachable (s : State) (c : Nat) (k : Ctx) : (s.setCtx c k).unreachable = s.unreachable := rfl
@[simp] theorem setCtx_remote (s : State) (c : Nat) (k : Ctx) : (s.setCtx c k).remote = s.remote := rfl
@[simp] theorem setCtx_links (s : State) (c : Nat) (k : Ctx) : (s.setCtx c k).links = s.links := rfl
@[simp] theorem setCtx_portDups (s : State) (c : Nat) (k : Ctx) : (s.setCtx c k).portDups = s.portDups := rfl
@[simp] theorem setCtx_host (s : State) (c : Nat) (k : Ctx) : (s.setCtx c k).host = s.host := rfl

/-! ### The running context is replaced -/

@[simp] theorem setHere_cur (s : State) (k : Ctx) : (s.setHere k).cur = s.cur := rfl
@[simp] theorem setHere_agenda (s : State) (k : Ctx) : (s.setHere k).agenda = s.agenda := rfl
@[simp] theorem setHere_scripted (s : State) (k : Ctx) : (s.setHere k).scripted = s.scripted := rfl
@[simp] theorem setHere_status (s : State) (k : Ctx) : (s.setHere k).status = s.status := rfl
@[simp] theorem setHere_next (s : State) (k : Ctx) : (s.setHere k).next = s.next := rfl
@[simp] theorem setHere_issueFrom (s : State) (k : Ctx) : (s.setHere k).issueFrom = s.issueFrom := rfl
@[simp] theorem setHere_header (s : State) (k : Ctx) : (s.setHere k).header = s.header := rfl
@[simp] theorem setHere_free (s : State) (k : Ctx) : (s.setHere k).free = s.free := rfl
@[simp] theorem setHere_holders (s : State) (k : Ctx) : (s.setHere k).holders = s.holders := rfl
@[simp] theorem setHere_mem (s : State) (k : Ctx) : (s.setHere k).mem = s.mem := rfl
@[simp] theorem setHere_tags (s : State) (k : Ctx) : (s.setHere k).tags = s.tags := rfl
@[simp] theorem setHere_tiles (s : State) (k : Ctx) : (s.setHere k).tiles = s.tiles := rfl
@[simp] theorem setHere_sems (s : State) (k : Ctx) : (s.setHere k).sems = s.sems := rfl
@[simp] theorem setHere_semTen (s : State) (k : Ctx) : (s.setHere k).semTen = s.semTen := rfl
@[simp] theorem setHere_bins (s : State) (k : Ctx) : (s.setHere k).bins = s.bins := rfl
@[simp] theorem setHere_toks (s : State) (k : Ctx) : (s.setHere k).toks = s.toks := rfl
@[simp] theorem setHere_mcmds (s : State) (k : Ctx) : (s.setHere k).mcmds = s.mcmds := rfl
@[simp] theorem setHere_ecmds (s : State) (k : Ctx) : (s.setHere k).ecmds = s.ecmds := rfl
@[simp] theorem setHere_walks (s : State) (k : Ctx) : (s.setHere k).walks = s.walks := rfl
@[simp] theorem setHere_claims (s : State) (k : Ctx) : (s.setHere k).claims = s.claims := rfl
@[simp] theorem setHere_chans (s : State) (k : Ctx) : (s.setHere k).chans = s.chans := rfl
@[simp] theorem setHere_orphans (s : State) (k : Ctx) : (s.setHere k).orphans = s.orphans := rfl
@[simp] theorem setHere_barriers (s : State) (k : Ctx) : (s.setHere k).barriers = s.barriers := rfl
@[simp] theorem setHere_pendings (s : State) (k : Ctx) : (s.setHere k).pendings = s.pendings := rfl
@[simp] theorem setHere_insts (s : State) (k : Ctx) : (s.setHere k).insts = s.insts := rfl
@[simp] theorem setHere_images (s : State) (k : Ctx) : (s.setHere k).images = s.images := rfl
@[simp] theorem setHere_slots (s : State) (k : Ctx) : (s.setHere k).slots = s.slots := rfl
@[simp] theorem setHere_tlb (s : State) (k : Ctx) : (s.setHere k).tlb = s.tlb := rfl
@[simp] theorem setHere_lines (s : State) (k : Ctx) : (s.setHere k).lines = s.lines := rfl
@[simp] theorem setHere_invals (s : State) (k : Ctx) : (s.setHere k).invals = s.invals := rfl
@[simp] theorem setHere_roots (s : State) (k : Ctx) : (s.setHere k).roots = s.roots := rfl
@[simp] theorem setHere_tvecs (s : State) (k : Ctx) : (s.setHere k).tvecs = s.tvecs := rfl
@[simp] theorem setHere_faults (s : State) (k : Ctx) : (s.setHere k).faults = s.faults := rfl
@[simp] theorem setHere_streams (s : State) (k : Ctx) : (s.setHere k).streams = s.streams := rfl
@[simp] theorem setHere_extents (s : State) (k : Ctx) : (s.setHere k).extents = s.extents := rfl
@[simp] theorem setHere_quotas (s : State) (k : Ctx) : (s.setHere k).quotas = s.quotas := rfl
@[simp] theorem setHere_lost (s : State) (k : Ctx) : (s.setHere k).lost = s.lost := rfl
@[simp] theorem setHere_device (s : State) (k : Ctx) : (s.setHere k).device = s.device := rfl
@[simp] theorem setHere_present (s : State) (k : Ctx) : (s.setHere k).present = s.present := rfl
@[simp] theorem setHere_unreachable (s : State) (k : Ctx) : (s.setHere k).unreachable = s.unreachable := rfl
@[simp] theorem setHere_remote (s : State) (k : Ctx) : (s.setHere k).remote = s.remote := rfl
@[simp] theorem setHere_links (s : State) (k : Ctx) : (s.setHere k).links = s.links := rfl
@[simp] theorem setHere_portDups (s : State) (k : Ctx) : (s.setHere k).portDups = s.portDups := rfl
@[simp] theorem setHere_host (s : State) (k : Ctx) : (s.setHere k).host = s.host := rfl

/-! ### A bin is replaced -/

@[simp] theorem setBin_cur (s : State) (key : Nat) (b : Bin) : (s.setBin key b).cur = s.cur := rfl
@[simp] theorem setBin_agenda (s : State) (key : Nat) (b : Bin) : (s.setBin key b).agenda = s.agenda := rfl
@[simp] theorem setBin_scripted (s : State) (key : Nat) (b : Bin) : (s.setBin key b).scripted = s.scripted := rfl
@[simp] theorem setBin_status (s : State) (key : Nat) (b : Bin) : (s.setBin key b).status = s.status := rfl
@[simp] theorem setBin_next (s : State) (key : Nat) (b : Bin) : (s.setBin key b).next = s.next := rfl
@[simp] theorem setBin_issueFrom (s : State) (key : Nat) (b : Bin) : (s.setBin key b).issueFrom = s.issueFrom := rfl
@[simp] theorem setBin_header (s : State) (key : Nat) (b : Bin) : (s.setBin key b).header = s.header := rfl
@[simp] theorem setBin_free (s : State) (key : Nat) (b : Bin) : (s.setBin key b).free = s.free := rfl
@[simp] theorem setBin_ctxs (s : State) (key : Nat) (b : Bin) : (s.setBin key b).ctxs = s.ctxs := rfl
@[simp] theorem setBin_holders (s : State) (key : Nat) (b : Bin) : (s.setBin key b).holders = s.holders := rfl
@[simp] theorem setBin_mem (s : State) (key : Nat) (b : Bin) : (s.setBin key b).mem = s.mem := rfl
@[simp] theorem setBin_tags (s : State) (key : Nat) (b : Bin) : (s.setBin key b).tags = s.tags := rfl
@[simp] theorem setBin_tiles (s : State) (key : Nat) (b : Bin) : (s.setBin key b).tiles = s.tiles := rfl
@[simp] theorem setBin_sems (s : State) (key : Nat) (b : Bin) : (s.setBin key b).sems = s.sems := rfl
@[simp] theorem setBin_semTen (s : State) (key : Nat) (b : Bin) : (s.setBin key b).semTen = s.semTen := rfl
@[simp] theorem setBin_toks (s : State) (key : Nat) (b : Bin) : (s.setBin key b).toks = s.toks := rfl
@[simp] theorem setBin_mcmds (s : State) (key : Nat) (b : Bin) : (s.setBin key b).mcmds = s.mcmds := rfl
@[simp] theorem setBin_ecmds (s : State) (key : Nat) (b : Bin) : (s.setBin key b).ecmds = s.ecmds := rfl
@[simp] theorem setBin_walks (s : State) (key : Nat) (b : Bin) : (s.setBin key b).walks = s.walks := rfl
@[simp] theorem setBin_claims (s : State) (key : Nat) (b : Bin) : (s.setBin key b).claims = s.claims := rfl
@[simp] theorem setBin_chans (s : State) (key : Nat) (b : Bin) : (s.setBin key b).chans = s.chans := rfl
@[simp] theorem setBin_orphans (s : State) (key : Nat) (b : Bin) : (s.setBin key b).orphans = s.orphans := rfl
@[simp] theorem setBin_barriers (s : State) (key : Nat) (b : Bin) : (s.setBin key b).barriers = s.barriers := rfl
@[simp] theorem setBin_pendings (s : State) (key : Nat) (b : Bin) : (s.setBin key b).pendings = s.pendings := rfl
@[simp] theorem setBin_insts (s : State) (key : Nat) (b : Bin) : (s.setBin key b).insts = s.insts := rfl
@[simp] theorem setBin_images (s : State) (key : Nat) (b : Bin) : (s.setBin key b).images = s.images := rfl
@[simp] theorem setBin_slots (s : State) (key : Nat) (b : Bin) : (s.setBin key b).slots = s.slots := rfl
@[simp] theorem setBin_tlb (s : State) (key : Nat) (b : Bin) : (s.setBin key b).tlb = s.tlb := rfl
@[simp] theorem setBin_lines (s : State) (key : Nat) (b : Bin) : (s.setBin key b).lines = s.lines := rfl
@[simp] theorem setBin_invals (s : State) (key : Nat) (b : Bin) : (s.setBin key b).invals = s.invals := rfl
@[simp] theorem setBin_roots (s : State) (key : Nat) (b : Bin) : (s.setBin key b).roots = s.roots := rfl
@[simp] theorem setBin_tvecs (s : State) (key : Nat) (b : Bin) : (s.setBin key b).tvecs = s.tvecs := rfl
@[simp] theorem setBin_faults (s : State) (key : Nat) (b : Bin) : (s.setBin key b).faults = s.faults := rfl
@[simp] theorem setBin_streams (s : State) (key : Nat) (b : Bin) : (s.setBin key b).streams = s.streams := rfl
@[simp] theorem setBin_extents (s : State) (key : Nat) (b : Bin) : (s.setBin key b).extents = s.extents := rfl
@[simp] theorem setBin_quotas (s : State) (key : Nat) (b : Bin) : (s.setBin key b).quotas = s.quotas := rfl
@[simp] theorem setBin_lost (s : State) (key : Nat) (b : Bin) : (s.setBin key b).lost = s.lost := rfl
@[simp] theorem setBin_device (s : State) (key : Nat) (b : Bin) : (s.setBin key b).device = s.device := rfl
@[simp] theorem setBin_present (s : State) (key : Nat) (b : Bin) : (s.setBin key b).present = s.present := rfl
@[simp] theorem setBin_unreachable (s : State) (key : Nat) (b : Bin) : (s.setBin key b).unreachable = s.unreachable := rfl
@[simp] theorem setBin_remote (s : State) (key : Nat) (b : Bin) : (s.setBin key b).remote = s.remote := rfl
@[simp] theorem setBin_links (s : State) (key : Nat) (b : Bin) : (s.setBin key b).links = s.links := rfl
@[simp] theorem setBin_portDups (s : State) (key : Nat) (b : Bin) : (s.setBin key b).portDups = s.portDups := rfl
@[simp] theorem setBin_host (s : State) (key : Nat) (b : Bin) : (s.setBin key b).host = s.host := rfl

/-! ### An engine command is replaced -/

@[simp] theorem putE_cur (s : State) (c : ECmd) : (s.putE c).cur = s.cur := rfl
@[simp] theorem putE_agenda (s : State) (c : ECmd) : (s.putE c).agenda = s.agenda := rfl
@[simp] theorem putE_scripted (s : State) (c : ECmd) : (s.putE c).scripted = s.scripted := rfl
@[simp] theorem putE_status (s : State) (c : ECmd) : (s.putE c).status = s.status := rfl
@[simp] theorem putE_next (s : State) (c : ECmd) : (s.putE c).next = s.next := rfl
@[simp] theorem putE_issueFrom (s : State) (c : ECmd) : (s.putE c).issueFrom = s.issueFrom := rfl
@[simp] theorem putE_header (s : State) (c : ECmd) : (s.putE c).header = s.header := rfl
@[simp] theorem putE_free (s : State) (c : ECmd) : (s.putE c).free = s.free := rfl
@[simp] theorem putE_ctxs (s : State) (c : ECmd) : (s.putE c).ctxs = s.ctxs := rfl
@[simp] theorem putE_holders (s : State) (c : ECmd) : (s.putE c).holders = s.holders := rfl
@[simp] theorem putE_mem (s : State) (c : ECmd) : (s.putE c).mem = s.mem := rfl
@[simp] theorem putE_tags (s : State) (c : ECmd) : (s.putE c).tags = s.tags := rfl
@[simp] theorem putE_tiles (s : State) (c : ECmd) : (s.putE c).tiles = s.tiles := rfl
@[simp] theorem putE_sems (s : State) (c : ECmd) : (s.putE c).sems = s.sems := rfl
@[simp] theorem putE_semTen (s : State) (c : ECmd) : (s.putE c).semTen = s.semTen := rfl
@[simp] theorem putE_bins (s : State) (c : ECmd) : (s.putE c).bins = s.bins := rfl
@[simp] theorem putE_toks (s : State) (c : ECmd) : (s.putE c).toks = s.toks := rfl
@[simp] theorem putE_mcmds (s : State) (c : ECmd) : (s.putE c).mcmds = s.mcmds := rfl
@[simp] theorem putE_walks (s : State) (c : ECmd) : (s.putE c).walks = s.walks := rfl
@[simp] theorem putE_claims (s : State) (c : ECmd) : (s.putE c).claims = s.claims := rfl
@[simp] theorem putE_chans (s : State) (c : ECmd) : (s.putE c).chans = s.chans := rfl
@[simp] theorem putE_orphans (s : State) (c : ECmd) : (s.putE c).orphans = s.orphans := rfl
@[simp] theorem putE_barriers (s : State) (c : ECmd) : (s.putE c).barriers = s.barriers := rfl
@[simp] theorem putE_pendings (s : State) (c : ECmd) : (s.putE c).pendings = s.pendings := rfl
@[simp] theorem putE_insts (s : State) (c : ECmd) : (s.putE c).insts = s.insts := rfl
@[simp] theorem putE_images (s : State) (c : ECmd) : (s.putE c).images = s.images := rfl
@[simp] theorem putE_slots (s : State) (c : ECmd) : (s.putE c).slots = s.slots := rfl
@[simp] theorem putE_tlb (s : State) (c : ECmd) : (s.putE c).tlb = s.tlb := rfl
@[simp] theorem putE_lines (s : State) (c : ECmd) : (s.putE c).lines = s.lines := rfl
@[simp] theorem putE_invals (s : State) (c : ECmd) : (s.putE c).invals = s.invals := rfl
@[simp] theorem putE_roots (s : State) (c : ECmd) : (s.putE c).roots = s.roots := rfl
@[simp] theorem putE_tvecs (s : State) (c : ECmd) : (s.putE c).tvecs = s.tvecs := rfl
@[simp] theorem putE_faults (s : State) (c : ECmd) : (s.putE c).faults = s.faults := rfl
@[simp] theorem putE_streams (s : State) (c : ECmd) : (s.putE c).streams = s.streams := rfl
@[simp] theorem putE_extents (s : State) (c : ECmd) : (s.putE c).extents = s.extents := rfl
@[simp] theorem putE_quotas (s : State) (c : ECmd) : (s.putE c).quotas = s.quotas := rfl
@[simp] theorem putE_lost (s : State) (c : ECmd) : (s.putE c).lost = s.lost := rfl
@[simp] theorem putE_device (s : State) (c : ECmd) : (s.putE c).device = s.device := rfl
@[simp] theorem putE_present (s : State) (c : ECmd) : (s.putE c).present = s.present := rfl
@[simp] theorem putE_unreachable (s : State) (c : ECmd) : (s.putE c).unreachable = s.unreachable := rfl
@[simp] theorem putE_remote (s : State) (c : ECmd) : (s.putE c).remote = s.remote := rfl
@[simp] theorem putE_links (s : State) (c : ECmd) : (s.putE c).links = s.links := rfl
@[simp] theorem putE_portDups (s : State) (c : ECmd) : (s.putE c).portDups = s.portDups := rfl
@[simp] theorem putE_host (s : State) (c : ECmd) : (s.putE c).host = s.host := rfl

/-! ### A matrix command is replaced -/

@[simp] theorem putM_cur (s : State) (c : MCmd) : (s.putM c).cur = s.cur := rfl
@[simp] theorem putM_agenda (s : State) (c : MCmd) : (s.putM c).agenda = s.agenda := rfl
@[simp] theorem putM_scripted (s : State) (c : MCmd) : (s.putM c).scripted = s.scripted := rfl
@[simp] theorem putM_status (s : State) (c : MCmd) : (s.putM c).status = s.status := rfl
@[simp] theorem putM_next (s : State) (c : MCmd) : (s.putM c).next = s.next := rfl
@[simp] theorem putM_issueFrom (s : State) (c : MCmd) : (s.putM c).issueFrom = s.issueFrom := rfl
@[simp] theorem putM_header (s : State) (c : MCmd) : (s.putM c).header = s.header := rfl
@[simp] theorem putM_free (s : State) (c : MCmd) : (s.putM c).free = s.free := rfl
@[simp] theorem putM_ctxs (s : State) (c : MCmd) : (s.putM c).ctxs = s.ctxs := rfl
@[simp] theorem putM_holders (s : State) (c : MCmd) : (s.putM c).holders = s.holders := rfl
@[simp] theorem putM_mem (s : State) (c : MCmd) : (s.putM c).mem = s.mem := rfl
@[simp] theorem putM_tags (s : State) (c : MCmd) : (s.putM c).tags = s.tags := rfl
@[simp] theorem putM_tiles (s : State) (c : MCmd) : (s.putM c).tiles = s.tiles := rfl
@[simp] theorem putM_sems (s : State) (c : MCmd) : (s.putM c).sems = s.sems := rfl
@[simp] theorem putM_semTen (s : State) (c : MCmd) : (s.putM c).semTen = s.semTen := rfl
@[simp] theorem putM_bins (s : State) (c : MCmd) : (s.putM c).bins = s.bins := rfl
@[simp] theorem putM_toks (s : State) (c : MCmd) : (s.putM c).toks = s.toks := rfl
@[simp] theorem putM_ecmds (s : State) (c : MCmd) : (s.putM c).ecmds = s.ecmds := rfl
@[simp] theorem putM_walks (s : State) (c : MCmd) : (s.putM c).walks = s.walks := rfl
@[simp] theorem putM_claims (s : State) (c : MCmd) : (s.putM c).claims = s.claims := rfl
@[simp] theorem putM_chans (s : State) (c : MCmd) : (s.putM c).chans = s.chans := rfl
@[simp] theorem putM_orphans (s : State) (c : MCmd) : (s.putM c).orphans = s.orphans := rfl
@[simp] theorem putM_barriers (s : State) (c : MCmd) : (s.putM c).barriers = s.barriers := rfl
@[simp] theorem putM_pendings (s : State) (c : MCmd) : (s.putM c).pendings = s.pendings := rfl
@[simp] theorem putM_insts (s : State) (c : MCmd) : (s.putM c).insts = s.insts := rfl
@[simp] theorem putM_images (s : State) (c : MCmd) : (s.putM c).images = s.images := rfl
@[simp] theorem putM_slots (s : State) (c : MCmd) : (s.putM c).slots = s.slots := rfl
@[simp] theorem putM_tlb (s : State) (c : MCmd) : (s.putM c).tlb = s.tlb := rfl
@[simp] theorem putM_lines (s : State) (c : MCmd) : (s.putM c).lines = s.lines := rfl
@[simp] theorem putM_invals (s : State) (c : MCmd) : (s.putM c).invals = s.invals := rfl
@[simp] theorem putM_roots (s : State) (c : MCmd) : (s.putM c).roots = s.roots := rfl
@[simp] theorem putM_tvecs (s : State) (c : MCmd) : (s.putM c).tvecs = s.tvecs := rfl
@[simp] theorem putM_faults (s : State) (c : MCmd) : (s.putM c).faults = s.faults := rfl
@[simp] theorem putM_streams (s : State) (c : MCmd) : (s.putM c).streams = s.streams := rfl
@[simp] theorem putM_extents (s : State) (c : MCmd) : (s.putM c).extents = s.extents := rfl
@[simp] theorem putM_quotas (s : State) (c : MCmd) : (s.putM c).quotas = s.quotas := rfl
@[simp] theorem putM_lost (s : State) (c : MCmd) : (s.putM c).lost = s.lost := rfl
@[simp] theorem putM_device (s : State) (c : MCmd) : (s.putM c).device = s.device := rfl
@[simp] theorem putM_present (s : State) (c : MCmd) : (s.putM c).present = s.present := rfl
@[simp] theorem putM_unreachable (s : State) (c : MCmd) : (s.putM c).unreachable = s.unreachable := rfl
@[simp] theorem putM_remote (s : State) (c : MCmd) : (s.putM c).remote = s.remote := rfl
@[simp] theorem putM_links (s : State) (c : MCmd) : (s.putM c).links = s.links := rfl
@[simp] theorem putM_portDups (s : State) (c : MCmd) : (s.putM c).portDups = s.portDups := rfl
@[simp] theorem putM_host (s : State) (c : MCmd) : (s.putM c).host = s.host := rfl

/-! ### A walk is replaced -/

@[simp] theorem putWalk_cur (s : State) (x : Walk) : (s.putWalk x).cur = s.cur := rfl
@[simp] theorem putWalk_agenda (s : State) (x : Walk) : (s.putWalk x).agenda = s.agenda := rfl
@[simp] theorem putWalk_scripted (s : State) (x : Walk) : (s.putWalk x).scripted = s.scripted := rfl
@[simp] theorem putWalk_status (s : State) (x : Walk) : (s.putWalk x).status = s.status := rfl
@[simp] theorem putWalk_next (s : State) (x : Walk) : (s.putWalk x).next = s.next := rfl
@[simp] theorem putWalk_issueFrom (s : State) (x : Walk) : (s.putWalk x).issueFrom = s.issueFrom := rfl
@[simp] theorem putWalk_header (s : State) (x : Walk) : (s.putWalk x).header = s.header := rfl
@[simp] theorem putWalk_free (s : State) (x : Walk) : (s.putWalk x).free = s.free := rfl
@[simp] theorem putWalk_ctxs (s : State) (x : Walk) : (s.putWalk x).ctxs = s.ctxs := rfl
@[simp] theorem putWalk_holders (s : State) (x : Walk) : (s.putWalk x).holders = s.holders := rfl
@[simp] theorem putWalk_mem (s : State) (x : Walk) : (s.putWalk x).mem = s.mem := rfl
@[simp] theorem putWalk_tags (s : State) (x : Walk) : (s.putWalk x).tags = s.tags := rfl
@[simp] theorem putWalk_tiles (s : State) (x : Walk) : (s.putWalk x).tiles = s.tiles := rfl
@[simp] theorem putWalk_sems (s : State) (x : Walk) : (s.putWalk x).sems = s.sems := rfl
@[simp] theorem putWalk_semTen (s : State) (x : Walk) : (s.putWalk x).semTen = s.semTen := rfl
@[simp] theorem putWalk_bins (s : State) (x : Walk) : (s.putWalk x).bins = s.bins := rfl
@[simp] theorem putWalk_toks (s : State) (x : Walk) : (s.putWalk x).toks = s.toks := rfl
@[simp] theorem putWalk_mcmds (s : State) (x : Walk) : (s.putWalk x).mcmds = s.mcmds := rfl
@[simp] theorem putWalk_ecmds (s : State) (x : Walk) : (s.putWalk x).ecmds = s.ecmds := rfl
@[simp] theorem putWalk_claims (s : State) (x : Walk) : (s.putWalk x).claims = s.claims := rfl
@[simp] theorem putWalk_chans (s : State) (x : Walk) : (s.putWalk x).chans = s.chans := rfl
@[simp] theorem putWalk_orphans (s : State) (x : Walk) : (s.putWalk x).orphans = s.orphans := rfl
@[simp] theorem putWalk_barriers (s : State) (x : Walk) : (s.putWalk x).barriers = s.barriers := rfl
@[simp] theorem putWalk_pendings (s : State) (x : Walk) : (s.putWalk x).pendings = s.pendings := rfl
@[simp] theorem putWalk_insts (s : State) (x : Walk) : (s.putWalk x).insts = s.insts := rfl
@[simp] theorem putWalk_images (s : State) (x : Walk) : (s.putWalk x).images = s.images := rfl
@[simp] theorem putWalk_slots (s : State) (x : Walk) : (s.putWalk x).slots = s.slots := rfl
@[simp] theorem putWalk_tlb (s : State) (x : Walk) : (s.putWalk x).tlb = s.tlb := rfl
@[simp] theorem putWalk_lines (s : State) (x : Walk) : (s.putWalk x).lines = s.lines := rfl
@[simp] theorem putWalk_invals (s : State) (x : Walk) : (s.putWalk x).invals = s.invals := rfl
@[simp] theorem putWalk_roots (s : State) (x : Walk) : (s.putWalk x).roots = s.roots := rfl
@[simp] theorem putWalk_tvecs (s : State) (x : Walk) : (s.putWalk x).tvecs = s.tvecs := rfl
@[simp] theorem putWalk_faults (s : State) (x : Walk) : (s.putWalk x).faults = s.faults := rfl
@[simp] theorem putWalk_streams (s : State) (x : Walk) : (s.putWalk x).streams = s.streams := rfl
@[simp] theorem putWalk_extents (s : State) (x : Walk) : (s.putWalk x).extents = s.extents := rfl
@[simp] theorem putWalk_quotas (s : State) (x : Walk) : (s.putWalk x).quotas = s.quotas := rfl
@[simp] theorem putWalk_lost (s : State) (x : Walk) : (s.putWalk x).lost = s.lost := rfl
@[simp] theorem putWalk_device (s : State) (x : Walk) : (s.putWalk x).device = s.device := rfl
@[simp] theorem putWalk_present (s : State) (x : Walk) : (s.putWalk x).present = s.present := rfl
@[simp] theorem putWalk_unreachable (s : State) (x : Walk) : (s.putWalk x).unreachable = s.unreachable := rfl
@[simp] theorem putWalk_remote (s : State) (x : Walk) : (s.putWalk x).remote = s.remote := rfl
@[simp] theorem putWalk_links (s : State) (x : Walk) : (s.putWalk x).links = s.links := rfl
@[simp] theorem putWalk_portDups (s : State) (x : Walk) : (s.putWalk x).portDups = s.portDups := rfl
@[simp] theorem putWalk_host (s : State) (x : Walk) : (s.putWalk x).host = s.host := rfl

/-! ### A store is performed -/

@[simp] theorem perform_cur (s : State) (core key : Nat) (bs : List Byte) : (s.perform core key bs).cur = s.cur := rfl
@[simp] theorem perform_agenda (s : State) (core key : Nat) (bs : List Byte) : (s.perform core key bs).agenda = s.agenda := rfl
@[simp] theorem perform_scripted (s : State) (core key : Nat) (bs : List Byte) : (s.perform core key bs).scripted = s.scripted := rfl
@[simp] theorem perform_status (s : State) (core key : Nat) (bs : List Byte) : (s.perform core key bs).status = s.status := rfl
@[simp] theorem perform_next (s : State) (core key : Nat) (bs : List Byte) : (s.perform core key bs).next = s.next := rfl
@[simp] theorem perform_issueFrom (s : State) (core key : Nat) (bs : List Byte) : (s.perform core key bs).issueFrom = s.issueFrom := rfl
@[simp] theorem perform_header (s : State) (core key : Nat) (bs : List Byte) : (s.perform core key bs).header = s.header := rfl
@[simp] theorem perform_free (s : State) (core key : Nat) (bs : List Byte) : (s.perform core key bs).free = s.free := rfl
@[simp] theorem perform_ctxs (s : State) (core key : Nat) (bs : List Byte) : (s.perform core key bs).ctxs = s.ctxs := rfl
@[simp] theorem perform_holders (s : State) (core key : Nat) (bs : List Byte) : (s.perform core key bs).holders = s.holders := rfl
@[simp] theorem perform_tags (s : State) (core key : Nat) (bs : List Byte) : (s.perform core key bs).tags = s.tags := rfl
@[simp] theorem perform_tiles (s : State) (core key : Nat) (bs : List Byte) : (s.perform core key bs).tiles = s.tiles := rfl
@[simp] theorem perform_sems (s : State) (core key : Nat) (bs : List Byte) : (s.perform core key bs).sems = s.sems := rfl
@[simp] theorem perform_semTen (s : State) (core key : Nat) (bs : List Byte) : (s.perform core key bs).semTen = s.semTen := rfl
@[simp] theorem perform_bins (s : State) (core key : Nat) (bs : List Byte) : (s.perform core key bs).bins = s.bins := rfl
@[simp] theorem perform_toks (s : State) (core key : Nat) (bs : List Byte) : (s.perform core key bs).toks = s.toks := rfl
@[simp] theorem perform_mcmds (s : State) (core key : Nat) (bs : List Byte) : (s.perform core key bs).mcmds = s.mcmds := rfl
@[simp] theorem perform_ecmds (s : State) (core key : Nat) (bs : List Byte) : (s.perform core key bs).ecmds = s.ecmds := rfl
@[simp] theorem perform_walks (s : State) (core key : Nat) (bs : List Byte) : (s.perform core key bs).walks = s.walks := rfl
@[simp] theorem perform_claims (s : State) (core key : Nat) (bs : List Byte) : (s.perform core key bs).claims = s.claims := rfl
@[simp] theorem perform_chans (s : State) (core key : Nat) (bs : List Byte) : (s.perform core key bs).chans = s.chans := rfl
@[simp] theorem perform_orphans (s : State) (core key : Nat) (bs : List Byte) : (s.perform core key bs).orphans = s.orphans := rfl
@[simp] theorem perform_barriers (s : State) (core key : Nat) (bs : List Byte) : (s.perform core key bs).barriers = s.barriers := rfl
@[simp] theorem perform_pendings (s : State) (core key : Nat) (bs : List Byte) : (s.perform core key bs).pendings = s.pendings := rfl
@[simp] theorem perform_insts (s : State) (core key : Nat) (bs : List Byte) : (s.perform core key bs).insts = s.insts := rfl
@[simp] theorem perform_images (s : State) (core key : Nat) (bs : List Byte) : (s.perform core key bs).images = s.images := rfl
@[simp] theorem perform_slots (s : State) (core key : Nat) (bs : List Byte) : (s.perform core key bs).slots = s.slots := rfl
@[simp] theorem perform_tlb (s : State) (core key : Nat) (bs : List Byte) : (s.perform core key bs).tlb = s.tlb := rfl
@[simp] theorem perform_invals (s : State) (core key : Nat) (bs : List Byte) : (s.perform core key bs).invals = s.invals := rfl
@[simp] theorem perform_roots (s : State) (core key : Nat) (bs : List Byte) : (s.perform core key bs).roots = s.roots := rfl
@[simp] theorem perform_tvecs (s : State) (core key : Nat) (bs : List Byte) : (s.perform core key bs).tvecs = s.tvecs := rfl
@[simp] theorem perform_faults (s : State) (core key : Nat) (bs : List Byte) : (s.perform core key bs).faults = s.faults := rfl
@[simp] theorem perform_streams (s : State) (core key : Nat) (bs : List Byte) : (s.perform core key bs).streams = s.streams := rfl
@[simp] theorem perform_extents (s : State) (core key : Nat) (bs : List Byte) : (s.perform core key bs).extents = s.extents := rfl
@[simp] theorem perform_quotas (s : State) (core key : Nat) (bs : List Byte) : (s.perform core key bs).quotas = s.quotas := rfl
@[simp] theorem perform_lost (s : State) (core key : Nat) (bs : List Byte) : (s.perform core key bs).lost = s.lost := rfl
@[simp] theorem perform_device (s : State) (core key : Nat) (bs : List Byte) : (s.perform core key bs).device = s.device := rfl
@[simp] theorem perform_present (s : State) (core key : Nat) (bs : List Byte) : (s.perform core key bs).present = s.present := rfl
@[simp] theorem perform_unreachable (s : State) (core key : Nat) (bs : List Byte) : (s.perform core key bs).unreachable = s.unreachable := rfl
@[simp] theorem perform_remote (s : State) (core key : Nat) (bs : List Byte) : (s.perform core key bs).remote = s.remote := rfl
@[simp] theorem perform_links (s : State) (core key : Nat) (bs : List Byte) : (s.perform core key bs).links = s.links := rfl
@[simp] theorem perform_portDups (s : State) (core key : Nat) (bs : List Byte) : (s.perform core key bs).portDups = s.portDups := rfl
@[simp] theorem perform_host (s : State) (core key : Nat) (bs : List Byte) : (s.perform core key bs).host = s.host := rfl

/-! ### Contexts by number -/

theorem ctx_setCtx (s : State) (c : Nat) (k : Ctx) : (s.setCtx c k).ctx c = k := by simp [State.ctx, State.setCtx, alGet_alSet]

theorem ctx_setCtx_ne (s : State) (c d : Nat) (k : Ctx) (h : d ≠ c) : (s.setCtx c k).ctx d = s.ctx d := by
  simp [State.ctx, State.setCtx, alGet_alSet_ne _ _ _ _ h]

@[simp] theorem here_setHere (s : State) (k : Ctx) : (s.setHere k).here = k := ctx_setCtx s s.cur k

theorem ctx_setHere_ne (s : State) (d : Nat) (k : Ctx) (h : d ≠ s.cur) : (s.setHere k).ctx d = s.ctx d := ctx_setCtx_ne s s.cur d k h

@[simp] theorem alSet_alSet {α : Type} (m : List (Nat × α)) (a : Nat) (u v : α) : alSet (alSet m a u) a v = alSet m a v := by
  induction m with
  | nil => simp [alSet]
  | cons p r ih =>
    obtain ⟨k, x⟩ := p
    by_cases h1 : a < k
    · simp [alSet, h1]
    · by_cases h2 : a = k
      · simp [alSet, h2]
      · simp [alSet, h1, h2, ih]

@[simp] theorem setHere_setHere (s : State) (k k1 : Ctx) : (s.setHere k).setHere k1 = s.setHere k1 := by simp [State.setHere, State.setCtx]

/-! ### A result is scheduled -/

@[simp] theorem addFlight_run (k : Ctx) (sc : Bool) (r : Result) (n : Nat) (el ex : Bool) (ev : Option FelEvent) (rd : Option Redo) :
    (k.addFlight sc r n el ex ev rd).run = k.run := by
  unfold Ctx.addFlight; split <;> rfl
@[simp] theorem addFlight_regs (k : Ctx) (sc : Bool) (r : Result) (n : Nat) (el ex : Bool) (ev : Option FelEvent) (rd : Option Redo) :
    (k.addFlight sc r n el ex ev rd).regs = k.regs := by
  unfold Ctx.addFlight; split <;> rfl
@[simp] theorem addFlight_sr (k : Ctx) (sc : Bool) (r : Result) (n : Nat) (el ex : Bool) (ev : Option FelEvent) (rd : Option Redo) :
    (k.addFlight sc r n el ex ev rd).sr = k.sr := by
  unfold Ctx.addFlight; split <;> rfl
@[simp] theorem addFlight_pc (k : Ctx) (sc : Bool) (r : Result) (n : Nat) (el ex : Bool) (ev : Option FelEvent) (rd : Option Redo) :
    (k.addFlight sc r n el ex ev rd).pc = k.pc := by
  unfold Ctx.addFlight; split <;> rfl
@[simp] theorem addFlight_branch (k : Ctx) (sc : Bool) (r : Result) (n : Nat) (el ex : Bool) (ev : Option FelEvent) (rd : Option Redo) :
    (k.addFlight sc r n el ex ev rd).branch = k.branch := by
  unfold Ctx.addFlight; split <;> rfl
@[simp] theorem addFlight_delay (k : Ctx) (sc : Bool) (r : Result) (n : Nat) (el ex : Bool) (ev : Option FelEvent) (rd : Option Redo) :
    (k.addFlight sc r n el ex ev rd).delay = k.delay := by
  unfold Ctx.addFlight; split <;> rfl
@[simp] theorem addFlight_group (k : Ctx) (sc : Bool) (r : Result) (n : Nat) (el ex : Bool) (ev : Option FelEvent) (rd : Option Redo) :
    (k.addFlight sc r n el ex ev rd).group = k.group := by
  unfold Ctx.addFlight; split <;> rfl
@[simp] theorem addFlight_boundary (k : Ctx) (sc : Bool) (r : Result) (n : Nat) (el ex : Bool) (ev : Option FelEvent) (rd : Option Redo) :
    (k.addFlight sc r n el ex ev rd).boundary = k.boundary := by
  unfold Ctx.addFlight; split <;> rfl
@[simp] theorem addFlight_shown (k : Ctx) (sc : Bool) (r : Result) (n : Nat) (el ex : Bool) (ev : Option FelEvent) (rd : Option Redo) :
    (k.addFlight sc r n el ex ev rd).shown = k.shown := by
  unfold Ctx.addFlight; split <;> rfl
@[simp] theorem addFlight_rep (k : Ctx) (sc : Bool) (r : Result) (n : Nat) (el ex : Bool) (ev : Option FelEvent) (rd : Option Redo) :
    (k.addFlight sc r n el ex ev rd).rep = k.rep := by
  unfold Ctx.addFlight; split <;> rfl
@[simp] theorem addFlight_q (k : Ctx) (sc : Bool) (r : Result) (n : Nat) (el ex : Bool) (ev : Option FelEvent) (rd : Option Redo) :
    (k.addFlight sc r n el ex ev rd).q = k.q := by
  unfold Ctx.addFlight; split <;> rfl
@[simp] theorem addFlight_f (k : Ctx) (sc : Bool) (r : Result) (n : Nat) (el ex : Bool) (ev : Option FelEvent) (rd : Option Redo) :
    (k.addFlight sc r n el ex ev rd).f = k.f := by
  unfold Ctx.addFlight; split <;> rfl
@[simp] theorem addFlight_sends (k : Ctx) (sc : Bool) (r : Result) (n : Nat) (el ex : Bool) (ev : Option FelEvent) (rd : Option Redo) :
    (k.addFlight sc r n el ex ev rd).sends = k.sends := by
  unfold Ctx.addFlight; split <;> rfl
@[simp] theorem addFlight_handler (k : Ctx) (sc : Bool) (r : Result) (n : Nat) (el ex : Bool) (ev : Option FelEvent) (rd : Option Redo) :
    (k.addFlight sc r n el ex ev rd).handler = k.handler := by
  unfold Ctx.addFlight; split <;> rfl
@[simp] theorem addFlight_inUi (k : Ctx) (sc : Bool) (r : Result) (n : Nat) (el ex : Bool) (ev : Option FelEvent) (rd : Option Redo) :
    (k.addFlight sc r n el ex ev rd).inUi = k.inUi := by
  unfold Ctx.addFlight; split <;> rfl
@[simp] theorem addFlight_trapShadow (k : Ctx) (sc : Bool) (r : Result) (n : Nat) (el ex : Bool) (ev : Option FelEvent) (rd : Option Redo) :
    (k.addFlight sc r n el ex ev rd).trapShadow = k.trapShadow := by
  unfold Ctx.addFlight; split <;> rfl
@[simp] theorem addFlight_uiShadow (k : Ctx) (sc : Bool) (r : Result) (n : Nat) (el ex : Bool) (ev : Option FelEvent) (rd : Option Redo) :
    (k.addFlight sc r n el ex ev rd).uiShadow = k.uiShadow := by
  unfold Ctx.addFlight; split <;> rfl
@[simp] theorem addFlight_trapRet (k : Ctx) (sc : Bool) (r : Result) (n : Nat) (el ex : Bool) (ev : Option FelEvent) (rd : Option Redo) :
    (k.addFlight sc r n el ex ev rd).trapRet = k.trapRet := by
  unfold Ctx.addFlight; split <;> rfl
@[simp] theorem addFlight_uiRet (k : Ctx) (sc : Bool) (r : Result) (n : Nat) (el ex : Bool) (ev : Option FelEvent) (rd : Option Redo) :
    (k.addFlight sc r n el ex ev rd).uiRet = k.uiRet := by
  unfold Ctx.addFlight; split <;> rfl
@[simp] theorem addFlight_due (k : Ctx) (sc : Bool) (r : Result) (n : Nat) (el ex : Bool) (ev : Option FelEvent) (rd : Option Redo) :
    (k.addFlight sc r n el ex ev rd).due = k.due := by
  unfold Ctx.addFlight; split <;> rfl
@[simp] theorem addFlight_arm (k : Ctx) (sc : Bool) (r : Result) (n : Nat) (el ex : Bool) (ev : Option FelEvent) (rd : Option Redo) :
    (k.addFlight sc r n el ex ev rd).arm = k.arm := by
  unfold Ctx.addFlight; split <;> rfl
@[simp] theorem addFlight_pend (k : Ctx) (sc : Bool) (r : Result) (n : Nat) (el ex : Bool) (ev : Option FelEvent) (rd : Option Redo) :
    (k.addFlight sc r n el ex ev rd).pend = k.pend := by
  unfold Ctx.addFlight; split <;> rfl
@[simp] theorem addFlight_rot (k : Ctx) (sc : Bool) (r : Result) (n : Nat) (el ex : Bool) (ev : Option FelEvent) (rd : Option Redo) :
    (k.addFlight sc r n el ex ev rd).rot = k.rot := by
  unfold Ctx.addFlight; split <;> rfl
@[simp] theorem addFlight_sign (k : Ctx) (sc : Bool) (r : Result) (n : Nat) (el ex : Bool) (ev : Option FelEvent) (rd : Option Redo) :
    (k.addFlight sc r n el ex ev rd).sign = k.sign := by
  unfold Ctx.addFlight; split <;> rfl
@[simp] theorem addFlight_dup (k : Ctx) (sc : Bool) (r : Result) (n : Nat) (el ex : Bool) (ev : Option FelEvent) (rd : Option Redo) :
    (k.addFlight sc r n el ex ev rd).dup = k.dup := by
  unfold Ctx.addFlight; split <;> rfl
@[simp] theorem addFlight_task (k : Ctx) (sc : Bool) (r : Result) (n : Nat) (el ex : Bool) (ev : Option FelEvent) (rd : Option Redo) :
    (k.addFlight sc r n el ex ev rd).task = k.task := by
  unfold Ctx.addFlight; split <;> rfl
@[simp] theorem addFlight_stream (k : Ctx) (sc : Bool) (r : Result) (n : Nat) (el ex : Bool) (ev : Option FelEvent) (rd : Option Redo) :
    (k.addFlight sc r n el ex ev rd).stream = k.stream := by
  unfold Ctx.addFlight; split <;> rfl
@[simp] theorem addFlight_spBase (k : Ctx) (sc : Bool) (r : Result) (n : Nat) (el ex : Bool) (ev : Option FelEvent) (rd : Option Redo) :
    (k.addFlight sc r n el ex ev rd).spBase = k.spBase := by
  unfold Ctx.addFlight; split <;> rfl
@[simp] theorem addFlight_spSize (k : Ctx) (sc : Bool) (r : Result) (n : Nat) (el ex : Bool) (ev : Option FelEvent) (rd : Option Redo) :
    (k.addFlight sc r n el ex ev rd).spSize = k.spSize := by
  unfold Ctx.addFlight; split <;> rfl
@[simp] theorem addFlight_acb (k : Ctx) (sc : Bool) (r : Result) (n : Nat) (el ex : Bool) (ev : Option FelEvent) (rd : Option Redo) :
    (k.addFlight sc r n el ex ev rd).acb = k.acb := by
  unfold Ctx.addFlight; split <;> rfl
@[simp] theorem addFlight_acn (k : Ctx) (sc : Bool) (r : Result) (n : Nat) (el ex : Bool) (ev : Option FelEvent) (rd : Option Redo) :
    (k.addFlight sc r n el ex ev rd).acn = k.acn := by
  unfold Ctx.addFlight; split <;> rfl
@[simp] theorem addFlight_cyc (k : Ctx) (sc : Bool) (r : Result) (n : Nat) (el ex : Bool) (ev : Option FelEvent) (rd : Option Redo) :
    (k.addFlight sc r n el ex ev rd).cyc = k.cyc := by
  unfold Ctx.addFlight; split <;> rfl
@[simp] theorem addFlight_tagWait (k : Ctx) (sc : Bool) (r : Result) (n : Nat) (el ex : Bool) (ev : Option FelEvent) (rd : Option Redo) :
    (k.addFlight sc r n el ex ev rd).tagWait = k.tagWait := by
  unfold Ctx.addFlight; split <;> rfl
@[simp] theorem addFlight_stores (k : Ctx) (sc : Bool) (r : Result) (n : Nat) (el ex : Bool) (ev : Option FelEvent) (rd : Option Redo) :
    (k.addFlight sc r n el ex ev rd).stores = k.stores := by
  unfold Ctx.addFlight; split <;> rfl
@[simp] theorem addFlight_retiring (k : Ctx) (sc : Bool) (r : Result) (n : Nat) (el ex : Bool) (ev : Option FelEvent) (rd : Option Redo) :
    (k.addFlight sc r n el ex ev rd).retiring = k.retiring := by
  unfold Ctx.addFlight; split <;> rfl
@[simp] theorem addFlight_barArrived (k : Ctx) (sc : Bool) (r : Result) (n : Nat) (el ex : Bool) (ev : Option FelEvent) (rd : Option Redo) :
    (k.addFlight sc r n el ex ev rd).barArrived = k.barArrived := by
  unfold Ctx.addFlight; split <;> rfl
@[simp] theorem addFlight_yielded (k : Ctx) (sc : Bool) (r : Result) (n : Nat) (el ex : Bool) (ev : Option FelEvent) (rd : Option Redo) :
    (k.addFlight sc r n el ex ev rd).yielded = k.yielded := by
  unfold Ctx.addFlight; split <;> rfl

end Sys2Proof.Machine
end

