-- ==== Sys2Proof/Laws/Exec.lean ====
section
/-!
SUPPORT. What the parts of a meaning do: the steps of `Exec` one by one, the checks, the reads of registers, and the
ways in which a slot ends.
-/

namespace Sys2Proof.Machine

/-! ### The steps of Exec -/

@[simp] theorem exec_pure {α : Type} (a : α) (s : State) : (pure a : Exec α) s = .ok (a, s) := rfl

@[simp] theorem exec_bind {α β : Type} (x : Exec α) (f : α → Exec β) (s : State) :
    (x >>= f) s = (match x s with
      | .ok (a, t) => f a t
      | .error e => .error e) := by
  show (StateT.bind x f) s = _
  unfold StateT.bind
  show Except.bind _ _ = _
  unfold Except.bind
  cases x s <;> rfl

@[simp] theorem exec_map {α β : Type} (f : α → β) (x : Exec α) (s : State) :
    (f <$> x) s = (match x s with
      | .ok (a, t) => .ok (f a, t)
      | .error e => .error e) := by
  show (StateT.map f x) s = _
  unfold StateT.map
  show Except.bind _ _ = _
  unfold Except.bind
  cases x s <;> rfl

@[simp] theorem exec_ite {α : Type} (p : Prop) [Decidable p] (x y : Exec α) (s : State) :
    (if p then x else y) s = if p then x s else y s := by split <;> rfl

@[simp] theorem exec_get (s : State) : (get : Exec State) s = .ok (s, s) := rfl

@[simp] theorem exec_set (t s : State) : (set t : Exec PUnit) s = .ok ((), t) := rfl

@[simp] theorem exec_modify (f : State → State) (s : State) : (modify f : Exec Unit) s = .ok ((), f s) := rfl

@[simp] theorem exec_stop {α : Type} (e : Stop) (s : State) : (stop e : Exec α) s = .error e := rfl

@[simp] theorem exec_raise {α : Type} (cls : Nat) (k : SlotKind) (info : Nat) (s : State) :
    (raise cls k info : Exec α) s = .error (.trap ⟨cls, k.code, BitVec.ofNat 64 info, false, none⟩) := rfl

/-- A check whose condition does not hold lets the slot go on. -/
@[simp] theorem raiseIf_apply (b : Bool) (cls : Nat) (k : SlotKind) (info : Nat) (s : State) :
    raiseIf b cls k info s =
      if b then .error (.trap ⟨cls, k.code, BitVec.ofNat 64 info, false, none⟩) else .ok ((), s) := by cases b <;> rfl

@[simp] theorem stopIf_apply (b : Bool) (e : Stop) (s : State) : stopIf b e s = if b then .error e else .ok ((), s) := by cases b <;> rfl

@[simp] theorem raiseSome_none (k : SlotKind) (s : State) : raiseSome k none s = .ok ((), s) := rfl

@[simp] theorem needReg_apply (k : SlotKind) (c : Cl) (a : BitVec 5) (r : Reg) (s : State) :
    needReg k c a r s =
      if r.poison then .error (.trap ⟨8, k.code, BitVec.ofNat 64 (poisonInfo c a), false, none⟩) else .ok ((), s) := by
  simp [needReg]

/-! ### Reads -/

@[simp] theorem getHere_apply (s : State) : getHere s = .ok (s.here, s) := rfl
@[simp] theorem setHere_apply (k : Ctx) (s : State) : setHere k s = .ok ((), s.setHere k) := rfl
@[simp] theorem readX_apply (a : BitVec 5) (s : State) : readX a s = .ok (s.here.regs.rx a, s) := rfl
@[simp] theorem readY_apply (a : BitVec 5) (s : State) : readY a s = .ok (s.here.regs.ry a, s) := rfl
@[simp] theorem readP_apply (a : BitVec 4) (s : State) : readP a s = .ok (s.here.regs.rp a, s) := rfl
@[simp] theorem readV_apply (a : BitVec 5) (s : State) : readV a s = .ok (s.here.regs.rv a, s) := rfl
@[simp] theorem readH_apply (a : BitVec 4) (s : State) : readH a s = .ok (s.here.regs.rh a, s) := rfl
@[simp] theorem readK_apply (a : BitVec 4) (s : State) : readK a s = .ok (s.here.regs.rk a, s) := rfl

/-- A y field that names no bound FIFO reads the register (R363). -/
theorem readYf_plain {k : SlotKind} {a : BitVec 5} {s : State} (h : s.here.fifoOf a = none) :
    readYf k a s = .ok (s.here.regs.ry a, s) := by
  simp [readYf, h]

/-- An access of a class that nothing comes before waits for nothing. -/
theorem classWait_ok {cls : BitVec 4} {s : State} (h : s.loadWaits cls = false) : classWait cls s = .ok ((), s) := by
  simp [classWait, h]

/-- A field that names a receive binding takes the word at its channel's head, with poison clear (R364), once the accesses of class
c0 before it are performed (R366). -/
theorem readYf_pop {k : SlotKind} {a : BitVec 5} {s : State} {n : Nat} {ch : BitVec 8} {w : W64} {ws : List W64}
    (hc : s.loadWaits 0 = false) (h : s.here.fifoOf a = some (n, .recv ch)) (hw : (alGet s.chans (clusterOf s.cur * 256 + ch.toNat)).getD [] = w :: ws) :
    readYf k a s = .ok (⟨w, false⟩, { s with chans := alSet s.chans (clusterOf s.cur * 256 + ch.toNat) ws }) := by
  have e : classWait 0#4 s = .ok ((), s) := classWait_ok hc
  simp [readYf, h, hw, e]

/-- A field that names no bound FIFO writes the register (R363). -/
theorem destY_plain {k : SlotKind} {d : BitVec 5} {r : Reg} {s : State} (h : s.here.fifoOf d = none) :
    destY k d r s = .ok (.y d r, s) := by
  simp [destY, h]

@[simp] theorem destT_x (d : BitVec 5) (r : Reg) (s : State) : destT .x d r s = .ok (.x d r, s) := rfl

/-! ### Results -/

@[simp] theorem schedule_apply (r : Result) (lat : Nat) (el : Bool) (ev : Option FelEvent) (s : State) :
    schedule r lat el ev s = .ok ((), s.setHere (s.here.addFlight s.scripted r lat el false ev none)) := rfl

@[simp] theorem exact_apply (r : Result) (lat : Nat) (s : State) :
    exact r lat s = .ok ((), s.setHere (s.here.addFlight s.scripted r lat false false none none)) := rfl

@[simp] theorem elasticRes_apply (r : Result) (lat : Nat) (s : State) :
    elasticRes r lat s = .ok ((), s.setHere (s.here.addFlight s.scripted r lat true false none none)) := rfl

@[simp] theorem exactExt_apply (r : Result) (lat : Nat) (s : State) :
    exactExt r lat s = .ok ((), s.setHere (s.here.addFlight s.scripted r lat false true none none)) := rfl

/-! ### How a slot ends -/

/-- A slot whose predicate disables it does nothing (R12, R36). -/
theorem runSlot_off {g : Guard} {s : State} (h : s.here.enabled g = false) (body : Exec Unit) : runSlot g body s = .next s := by
  simp [runSlot, h]

/-- An enabled slot whose body runs through leaves what the body leaves. -/
theorem runSlot_ok {g : Guard} {s t : State} {body : Exec Unit} (h : s.here.enabled g = true) (hb : body s = .ok ((), t)) :
    runSlot g body s = .next t := by
  simp [runSlot, runBody, h, hb]

/-- An enabled slot whose body finds a trap takes it (R53). -/
theorem runSlot_trap {g : Guard} {s : State} {body : Exec Unit} {r : TrapRec} (h : s.here.enabled g = true)
    (hb : body s = .error (.trap r)) : runSlot g body s = .next (s.takeTrap r) := by
  simp [runSlot, runBody, h, hb]

/-- Everything a slot can do: it answers a next state. -/
theorem runSlot_next (g : Guard) (body : Exec Unit) (s : State) : ∃ t, runSlot g body s = .next t := by
  unfold runSlot runBody
  split
  · split <;> exact ⟨_, rfl⟩
  · exact ⟨_, rfl⟩

end Sys2Proof.Machine
end

