-- ==== Sys2Proof/Laws/Access.lean ====
section
/-!
SUPPORT. What the shared accesses do when nothing stands in their way: reads and writes of plain scalar fields, and loads and stores
of an aligned range of the allotment.
-/

namespace Sys2Proof.Machine

/-- A source that names a plain register reads it. -/
theorem readR_plain {s : State} {c : Cl} {a : BitVec 5} (h : s.here.plain c a) : readR c a s = .ok (s.here.scalar c a, s) := by
  cases c
  · rfl
  · exact readYf_plain (h rfl)

/-- A destination that names a plain register puts one exact result in flight. -/
theorem writeR_plain {s : State} {c : Cl} {d : BitVec 5} (h : s.here.plain c d) (r : Reg) (lat : Nat) :
    writeR c d r lat s = .ok ((), s.exactly (.scalar c d r) lat) := by
  cases c
  · rfl
  · simp [writeR, destY_plain (h rfl), State.exactly, Result.scalar]

/-- The destination T of a load that names a plain register. -/
theorem destT_plain {s : State} {c : Cl} {d : BitVec 5} (h : s.here.plain c d) (r : Reg) : destT c d r s = .ok (.scalar c d r, s) := by
  cases c
  · rfl
  · simp [destT, destY_plain (h rfl), Result.scalar]

/-- The datum T of a store that names a plain register. -/
theorem readT_plain {s : State} {c : Cl} {d : BitVec 5} (h : s.here.plain c d) : readT c d s = .ok (s.here.scalar c d, s) := by
  cases c
  · rfl
  · simp [readT, readYf_plain (h rfl), Ctx.scalar]

/-- A slot of two plain sources and a plain destination. -/
theorem binop_plain {s : State} {g : Guard} {c : Cl} {d a b : BitVec 5} (he : s.here.enabled g = true) (hd : s.here.plain c d)
    (ha : s.here.plain c a) (hb : s.here.plain c b) (lat : Nat) (f : W64 → W64 → W64) :
    binop g c d a b lat f s = .next (s.exactly (.scalar c d ⟨f (s.here.scalar c a).val (s.here.scalar c b).val,
      (s.here.scalar c a).poison || (s.here.scalar c b).poison⟩) lat) := by
  unfold binop
  exact runSlot_ok he (by simp [readR_plain ha, readR_plain hb, writeR_plain hd])

/-- The checks on a range of the allotment pass. -/
theorem checkLocal_ok {s : State} {slot : SlotKind} {addr al n : Nat} (h : s.localOk addr al n) : checkLocal slot addr al n s = .ok ((), s) := by
  obtain ⟨h1, h2, h3, h4⟩ := h
  simp [checkLocal, checkAligned, h1, Ctx.allots, h2, h3, h4]

/-- No command of a quiet context has an access of a class. -/
theorem classCmds_quiet {s : State} (h : s.Quiet) (cls : BitVec 4) : s.classCmds s.cur cls = [] := by
  have e : (s.ecmds.filter fun c => c.ctx == s.cur && c.toAccess == some cls) = [] := by
    rw [List.filter_eq_nil_iff]
    intro c hc
    by_cases hx : c.ctx = s.cur
    · simp [h.ecmds c hc hx]
    · simp [hx]
  simp [State.classCmds, h.mcmds, e]

/-- Nothing that comes before keeps an access of a quiet context waiting. -/
theorem loadWaits_quiet {s : State} (h : s.Quiet) (cls : BitVec 4) : s.loadWaits cls = false := by
  simp [State.loadWaits, classCmds_quiet h, h.stores, h.loads, pendBlocks]

/-- A quiet context has no store that is half performed. -/
theorem tears_quiet {s : State} (h : s.Quiet) (key n : Nat) : s.tears s.cur key n = false := by
  have e : (s.ctx s.cur).stores = [] := h.stores
  simp [State.tears, e]

theorem wholeWait_quiet {s : State} (h : s.Quiet) (key n : Nat) : wholeWait key n s = .ok ((), s) := by
  simp [wholeWait, tears_quiet h]

/-- A load of the scratchpad brings the bytes that stand there. -/
theorem loadLocal_ok {s : State} (h : s.Quiet) (cls : BitVec 4) (addr n : Nat) : loadLocal cls addr n s = .ok (s.spadBytes addr n, s) := by
  simp [loadLocal, State.locked, h.mcmds, load, wholeWait_quiet h, classWait_ok (loadWaits_quiet h cls), State.spadBytes]

/-- No load of a quiet context, issued before, may yet be made again. -/
theorem openSpans_quiet {s : State} (h : s.Quiet) : s.openSpans s.cur = [] := by
  have lates (cls : BitVec 4) := h.loads cls
  simp only [Ctx.late, Bool.or_eq_false_iff, List.any_eq_false] at lates
  have fl : ∀ f ∈ s.here.flight, f.unfixed = true → f.redo.any (fun r => r.issuedAt s.here.sr.acyc.toNat) = false →
      f.redo.bind (s.redoSpan s.cur) = none := fun f hf hu ht => by
    cases hr : f.redo with
    | none => rfl
    | some r =>
      have key (cls : BitVec 4) := (lates cls).1.1 f hf
      simp only [hu, hr, Option.any_some, Redo.inClass, Bool.true_and] at key ht
      cases r <;> simp_all [State.redoSpan, Redo.ofClass]
  have cp : ∀ f ∈ s.here.captured, f.unfixed = true → f.redo.bind (s.redoSpan s.cur) = none := fun f hf hu => by
    cases hr : f.redo with
    | none => rfl
    | some r =>
      have key (cls : BitVec 4) := (lates cls).1.2 f hf
      simp only [hu, hr, Option.any_some, Bool.true_and] at key
      cases r <;> simp_all [State.redoSpan, Redo.ofClass]
  have en : ∀ l ∈ s.here.q.toList, ∀ e ∈ l, (e.unfixed && e.cyc != s.here.sr.acyc.toNat) = false := fun l hl e he => by
    have q := (lates e.cls).2 l hl
    simp only [List.any_eq_true, not_exists, not_and] at q
    simpa using q e he
  simp only [State.openSpans, List.append_eq_nil_iff, List.filterMap_eq_nil_iff, List.flatMap_eq_nil_iff, List.mem_filter]
  refine ⟨⟨fun f hf => ?_, fun f hf => cp f hf.1 hf.2⟩, fun l hl e he => by rw [show (s.ctx s.cur) = s.here from rfl, en l hl e he]; rfl⟩
  simp only [Bool.and_eq_true, Bool.not_eq_true'] at hf
  exact fl f hf.1 hf.2.1 hf.2.2

/-- A store of a quiet context waits for no load. -/
theorem storeWaits_quiet {s : State} (h : s.Quiet) (cls : BitVec 4) (ps : List Part) : s.storeWaits cls ps = false := by
  simp [State.storeWaits, State.overtakes, h.loads, openSpans_quiet h]

/-- A store is performed granule by granule. -/
theorem store_ok {s : State} (h : s.Quiet) (cls : BitVec 4) (ps : List Part) :
    store cls ps s = .ok ((), performParts s (coreOf s.cur) s.here.sr.tenant ps) := by
  simp [store, storeWaits_quiet h, h.stores, h.scripted, classCmds_quiet h]

/-- A store to the scratchpad is performed. -/
theorem storeLocal_ok {s : State} (h : s.Quiet) (cls : BitVec 4) (g addr : Nat) (bs : List Byte) :
    storeLocal cls g addr bs s = .ok ((), s.spadStored g addr bs) := by
  simp [storeLocal, State.locked, h.mcmds, store_ok h, State.spadStored]

end Sys2Proof.Machine
end

