-- ==== Sys2Proof/Laws/Bundle.lean ====
section
/-!
SUPPORT. What issuing a bundle does: a context reaching its next cycle, the step of a device whose next bundle has been fetched, and the slots of a bundle one after
another.
-/

namespace Sys2Proof.Machine

/-- A result that becomes visible leaves the place and the run state of its context. -/
theorem land_keeps (k : Ctx) (r : Result) : (k.land r).pc = k.pc ∧ (k.land r).rep = k.rep ∧ (k.land r).run = k.run ∧
    (k.land r).branch = k.branch ∧ (k.land r).group = k.group := by
  cases r with
  | f q n ord sl v =>
    simp only [Ctx.land]
    split <;> exact ⟨rfl, rfl, rfl, rfl, rfl⟩
  | _ => exact ⟨rfl, rfl, rfl, rfl, rfl⟩

theorem landAll_keeps (fs : List Flight) (k : Ctx) : (landAll k fs).pc = k.pc ∧ (landAll k fs).rep = k.rep ∧ (landAll k fs).run = k.run ∧
    (landAll k fs).branch = k.branch ∧ (landAll k fs).group = k.group := by
  induction fs generalizing k with
  | nil => exact ⟨rfl, rfl, rfl, rfl, rfl⟩
  | cons f fs ih =>
    unfold landAll
    split
    · exact ih k
    · obtain ⟨a, b, c, d, e⟩ := ih (k.land f.res)
      obtain ⟨a', b', c', d', e'⟩ := land_keeps k f.res
      exact ⟨a.trans a', b.trans b', c.trans c', d.trans d', e.trans e'⟩

/-- Reaching the next cycle leaves the place and the run state of a context. -/
theorem newCycle_keeps (k : Ctx) : k.newCycle.pc = k.pc ∧ k.newCycle.rep = k.rep ∧ k.newCycle.run = k.run ∧
    k.newCycle.branch = k.branch ∧ k.newCycle.group = k.group := by
  unfold Ctx.newCycle
  split
  · exact ⟨rfl, rfl, rfl, rfl, rfl⟩
  · exact landAll_keeps _ _

/-- The next cycle is reached once. -/
theorem newCycle_once (k : Ctx) : k.newCycle.newCycle = k.newCycle := by
  cases h : k.shown <;> simp [Ctx.newCycle, h]

/-- A context that nothing holds back issues the bundle at its place. -/
theorem issueHere_words {ex : Meaning} {s v : State} {a : Nat} {ws : List Nat} (due : s.here.due = none)
    (ui : s.userInterrupt s.cur = none) (wait : s.mustWait = false) (quiet : s.newCycle.here.due = none)
    (held : s.atIssue.codeHeld = false) (hw : s.atIssue.bundleWords = (.ok (a, ws), v)) :
    issueHere ex s = issueWords ex (v.atBundle a ws) ws := by
  have h1 : ¬ s.here.due.isSome = true := by rw [due]; decide
  have h2 : ¬ (s.userInterrupt s.cur).isSome = true := by rw [ui]; decide
  have h4 : ¬ s.mustWait = true := by rw [wait]; decide
  have h5 : ¬ s.atIssue.codeHeld = true := by rw [held]; decide
  refine (if_neg h1).trans ((if_neg h2).trans ((if_neg h4).trans ?_))
  have e : (s.setHere s.here.newCycle).here.due = none := quiet
  unfold issueNow
  rw [e]
  refine (if_neg h5).trans ?_
  exact congrArg (fun r : Except TrapRec (Nat × List Nat) × State => match r with
    | (.error e, t) => Host.Outcome.next (t.takeTrap e)
    | (.ok (a, ws), t) => issueWords ex (t.atBundle a ws) ws) hw

/-- The interrupts of a context do not depend on how the last slot ended. -/
theorem userInterrupt_status {s : State} {c : Nat} {x : Status} (h : s.userInterrupt c = none) :
    ({ s with status := x } : State).userInterrupt c = none := by
  have e : ({ s with status := x } : State).ctx c = s.ctx c := rfl
  simp only [State.userInterrupt] at h ⊢
  rw [e]
  split at h
  · rename_i ho
    rw [if_pos ho]
    simpa using h
  · rename_i ho
    rw [if_neg ho]

/-- Nothing wakes where no blocked context's condition is met. -/
theorem wake_none {ex : Meaning} {s : State} (h : s.woken ex = []) : s.wake ex = s := by
  unfold State.wake
  rw [h]

/-- The step of a device that issues a bundle next: the bundle, and then the next context's turn. -/
theorem step_issues {s u : State} {ws : List Nat} (h : s.Issues u ws) :
    step s = (match issueWords exec u ws with
      | .next t => .next (t.turnOver s.cur)
      | o => o) := by
  obtain ⟨ag, al, ru, wo, tu, du, ui, wa, qu, he, a, v, hw, rfl⟩ := h
  have e1 : (if s.scripted then none else s.nextEvent) = none := by rcases al with h | h <;> simp [h]
  have e2 : issueHere exec ({ s with status := .ok } : State) = issueWords exec (v.atBundle a ws) ws :=
    issueHere_words (s := { s with status := .ok }) du (userInterrupt_status ui) wa qu he hw
  unfold step stepWith
  simp only [wake_none wo]
  rw [ag]
  simp only [e1]
  rw [if_pos ru]
  unfold issueTurn
  rw [tu]
  exact congrArg (fun o : Host.Outcome State Fault Refusal => match o with
      | .next t => Host.Outcome.next (t.turnOver s.cur)
      | o => o) e2

/-- Slots that all run leave the bundle done. -/
theorem runSlots_done {s t : State} {is : List Instr} (h : RunsTo s is t) : runSlots exec s is = .done t := by
  induction h with
  | nil s => rfl
  | cons s t u i is ran ok rest ih => simp only [runSlots, ran, ok, ih]

/-- Slots that all run go before those that follow. -/
theorem runSlots_append {s t : State} {is js : List Instr} (h : RunsTo s is t) : runSlots exec s (is ++ js) = runSlots exec t js := by
  induction h with
  | nil s => rfl
  | cons s t u i is ran ok rest ih => simp only [List.cons_append, runSlots, ran, ok, ih]

/-- The fetch of words leaves the contexts as they are: it can only add translations. -/
theorem translate_ctxs (s : State) (d : Nat) (t : BitVec 16) (va : Nat) : (s.translate d t va).2.ctxs = s.ctxs := by
  unfold State.translate
  split
  · rfl
  · split
    · rfl
    · split
      · rfl
      · split <;> rfl

theorem fetchWord_ctxs (s : State) (va : Nat) : (s.fetchWord va).2.ctxs = s.ctxs := by
  have h := translate_ctxs s (dieOf s.cur) s.here.sr.tenant va
  unfold State.fetchWord
  simp only []
  split
  · rename_i heq; rw [heq] at h; exact h
  · rename_i heq
    rw [heq] at h
    split
    · exact h
    · split
      · split
        · exact h
        · split <;> exact h
      · exact h

/-- All that a freeze changes in the context that freezes. -/
theorem freeze_here (s : State) : s.freeze.here = { s.here with run := .frozen } := here_setHere s { s.here with run := .frozen }

/-- So does a freeze over loads. -/
theorem freezePast_here (s : State) (p : Passing) : (s.freezePast p).here = { s.here with run := .frozen } :=
  here_setHere s { s.here with run := .frozen }

end Sys2Proof.Machine
end

