-- ==== Sys2Proof/Laws/Commands.lean ====
section
/-!
SUPPORT. What the shared parts of the E slot do when nothing stops them: quad registers, tokens, and the issue of a command.
-/

namespace Sys2Proof.Machine

@[simp] theorem usesOf_eq (k : KE) : usesOf k = [k.ka, k.kb, k.kc] := rfl

@[simp] theorem consumed_apply (ks : List (BitVec 4)) (s : State) : consumed ks s = .ok (ks.map s.here.regs.rk, s) := rfl

/-- R340: a quad register is its value, or raises POISON_CONSUMED. -/
theorem needQuad_apply (q : BitVec 3) (i : Nat) (s : State) :
    needQuad q i s = if (s.here.regs.ry (quad q i)).poison then
        .error (.trap ⟨8, 5, BitVec.ofNat 64 (poisonInfo .y (quad q i)), false, none⟩)
      else .ok (s.quadVal q i, s) := by
  cases hp : (s.here.regs.ry (quad q i)).poison <;> simp [needQuad, readQuad, State.quadVal, SlotKind.code, hp]

theorem needQuad_ok {q : BitVec 3} {i : Nat} {s : State} (h : (s.here.regs.ry (quad q i)).poison = false) :
    needQuad q i s = .ok (s.quadVal q i, s) := by simp [needQuad_apply, h]

/-- R246, R256: nothing is awaited when every token is complete. -/
theorem awaitTokens_ok {ks : List (BitVec 4)} {s : State} (h : s.allComplete ks) : awaitTokens ks s = .ok ((), s) := by
  have : (ks.map s.here.regs.rk).all s.tokDone = true := by simpa [State.allComplete] using h
  simp only [awaitTokens, exec_bind, consumed_apply, exec_get, stopIf_apply, this, Bool.not_true]
  rfl

/-- R52, R246: the two results of a query. -/
@[simp] theorem putEY_apply (r : EYF) (v : W64) (hit : Bool) (s : State) : putEY r v hit s = .ok ((), s.replied r v hit) := rfl

/-- R52, R255: a token is made while fewer than 64 are incomplete. -/
theorem newToken_ok {s : State} (h : s.openTokens s.cur < Config.maxTokens) (kd : BitVec 4) :
    newToken kd s = .ok (s.next, s.withToken kd) := by
  have : ¬ Config.maxTokens ≤ s.openTokens s.cur := by omega
  simp [newToken, this, State.withToken, State.exactly]

/-- R253: a command is issued while the elastic buffer is empty and a token is to be had. -/
theorem issueE_ok {s : State} (h : s.takesCommand) (kd : BitVec 4) (ks : List (BitVec 4)) (eng : Engine) (op : EOp) (extra : List Nat) :
    issueE kd (ks.map s.here.regs.rk) eng op extra s = .ok (s.next, s.commanded kd ks eng op extra) := by
  have hb : (s.ecmds.any fun c => coreOf c.ctx == coreOf s.cur && c.stage == .buffer) = false := by
    rw [List.any_eq_false]
    intro c hc
    by_cases h1 : coreOf c.ctx = coreOf s.cur
    · simp [h.1 c hc h1]
    · simp [h1]
  simp [issueE, hb, newToken_ok h.2, State.commanded]

/-- A result in flight leaves what a command needs as it is. -/
theorem takesCommand_exactly {s : State} (h : s.takesCommand) (r : Result) (n : Nat) : (s.exactly r n).takesCommand := h

end Sys2Proof.Machine
end

