-- ==== Sys2Proof/Laws/Shared.lean ====
section
/-!
SUPPORT. What the shared operations behind loads that a later access passes, send queues, packets that are resent, arrivals at barriers and
events of lanes can do.
-/

namespace Sys2Proof.Machine

/-- A word that enters a send queue, or is poisoned, leaves the other entries in their places (R22, R364). -/
theorem push_others (e : SendQ) (ord : Nat) (r : Reg) :
    (e.push ord r).entries.filter (fun p => p.1 != ord) = e.entries.filter fun p => p.1 != ord := by
  obtain ⟨id, inst, addr, es, closed⟩ := e
  simp only [SendQ.push]
  by_cases hp : r.poison = true <;> simp only [hp, if_true, if_false, Bool.false_eq_true]
  all_goals
    induction es with
    | nil => rfl
    | cons p es ih => by_cases h : p.1 = ord <;> simp [h, ih]

/-- No entry changes its place when a word enters (R70). -/
theorem push_order (e : SendQ) (ord : Nat) (r : Reg) : ((e.push ord r).entries.map Prod.fst).Sublist (e.entries.map Prod.fst) := by
  obtain ⟨id, inst, addr, es, closed⟩ := e
  simp only [SendQ.push]
  by_cases hp : r.poison = true <;> simp only [hp, if_true, if_false, Bool.false_eq_true]
  all_goals
    induction es with
    | nil => exact .slnil
    | cons p es ih =>
      by_cases h : p.1 = ord
      · first | simpa [h] using ih.cons ord | simpa [h] using ih
      · simpa [h] using ih

/-- The packet that a channel's timer resends is one that awaits its answer (R360). -/
theorem toResend_mem {s : State} {peer chan : Nat} {p : Packet} (h : s.toResend peer chan = some p) : p ∈ s.packetsTo peer chan := by
  have head {q : Packet} (hq : (s.packetsTo peer chan).head? = some q) : q ∈ s.packetsTo peer chan := List.mem_of_head? hq
  simp only [State.toResend] at h
  split at h
  · split at h
    · cases h
      exact List.contains_iff_mem.mp ‹_›
    · exact head h
  · exact head h

/-- An arrival that starts has no earlier one of its context at its barrier that still waits to start (R370). -/
theorem barReady_first {s : State} {c e : ECmd} {d : W64} (h : s.barReady c d = true) (he : e ∈ s.ecmds) (hc : e.ctx = c.ctx)
    (ha : e.arrivesAt d = true) : c.id ≤ e.id := by
  have := List.all_eq_true.mp (Bool.and_eq_true_iff.mp h).1 e he
  simpa [hc, ha] using this

/-- A fill of L1 lines changes nothing but them. -/
theorem takeLines_keeps (s : State) (core key n : Nat) : (s.takeLines core key n).mem = s.mem ∧ (s.takeLines core key n).ctxs = s.ctxs := by
  simp only [State.takeLines]
  generalize linesOf key n = ls
  induction ls generalizing s with
  | nil => exact ⟨rfl, rfl⟩
  | cons l ls ih =>
    simp only [List.foldl_cons]
    refine ⟨(ih _).1.trans ?_, (ih _).2.trans ?_⟩ <;> split <;> rfl

/-- What a load leaves in the L1 is no memory and no context's. -/
theorem afterLoad_keeps (s : State) (c : Nat) (h : Handle) (o n : Nat) :
    (s.afterLoad c h o n).mem = s.mem ∧ (s.afterLoad c h o n).ctxs = s.ctxs := by
  simp only [State.afterLoad]
  split
  · exact ⟨rfl, rfl⟩
  · split
    · exact takeLines_keeps _ _ _ _
    · exact ⟨rfl, rfl⟩

/-- Fixing the value of a failed entry changes no memory (R221, log entry 103). -/
theorem pinEntry_mem (s : State) (c : Nat) (e : QEntry) : (s.pinEntry c e).mem = s.mem := by
  simp only [State.pinEntry]
  split
  · rfl
  · exact (afterLoad_keeps s c e.handle e.off _).1

/-- A context with nothing captured and no failed entry has nothing that a later access could fix. -/
theorem pin_nothing {s : State} {c : Nat} (hf : (s.ctx c).captured = []) (hq : ∀ l ∈ (s.ctx c).q.toList, ∀ e ∈ l, e.failed = none)
    (p : Passing) : s.pin c p = s := by
  have none_fails : (((s.ctx c).q.toList.flatMap fun l => l).filter fun e =>
      e.failed.isSome && e.unfixed && p.hits e.cls (s.loadSpan c e.handle e.off (2 ^ e.width.toNat))) = [] := by
    simp only [List.filter_eq_nil_iff, List.mem_flatMap]
    rintro e ⟨l, hl, he⟩
    simp [hq l hl e he]
  simp only [State.pin, hf, none_fails, List.filter_nil, List.foldl_nil]

/-- The event of lane results is that of the lowest enabled lane that has one (R128, R155). -/
theorem laneEvent_records (s : State) (m : W64) (f : Nat → Nat) : s.recordsLanes m f (laneEvent s.here m f) := by
  simp only [State.recordsLanes, laneEvent]
  split
  · refine .inl ⟨fun j hj hm => ?_, rfl⟩
    have := List.find?_eq_none.mp ‹_› j (List.mem_range.mpr hj)
    simpa [hm] using this
  · rename_i i hi
    obtain ⟨hp, as, bs, hl, hbefore⟩ := List.find?_eq_some_iff_append.mp hi
    simp only [Bool.and_eq_true, bne_iff_ne] at hp
    refine .inr ⟨i, List.mem_range.mp (List.mem_of_find?_eq_some hi), hp.1, hp.2, fun j hj hm => ?_, rfl⟩
    have hja : j ∈ as := by
      have sorted : (as ++ i :: bs).Pairwise (· < ·) := hl ▸ List.pairwise_lt_range
      have hmem : j ∈ as ++ i :: bs := hl ▸ List.mem_range.mpr (Nat.lt_trans hj (List.mem_range.mp (List.mem_of_find?_eq_some hi)))
      rcases List.mem_append.mp hmem with h | h
      · exact h
      · rcases List.mem_cons.mp h with h | h
        · omega
        · have := (List.pairwise_cons.mp (List.pairwise_append.mp sorted).2.1).1 j h
          omega
    have := hbefore j hja
    simpa [hm] using this

end Sys2Proof.Machine
end

