-- ==== Sys2Proof/Tests/Slice0.lean ====
section
/-!
SUPPORT. Tests of the model's own: ill-formed terms that the checks refuse, words of the spec's encodings, single steps with the
results that the spec's examples give, and for every statement a state and operands that meet its hypotheses.
-/

namespace Sys2Proof.Tests

open Sys2Proof Sys2Proof.Machine

set_option Elab.async false

/-! ### Small states -/

/-- No predicate: p0. -/
abbrev p0 : Guard := ⟨false, 0⟩

/-- A running context that holds its whole scratchpad and all 32 tiles. -/
def base : Ctx := { Ctx.reset with run := .running, spSize := 0x600000, acn := 32 }

/-- Context 0 of an otherwise reset device. -/
def dev (k : Ctx) : State := State.reset.setCtx 0 k

def withX (k : Ctx) (l : List (Nat × W64)) : Ctx :=
  l.foldl (fun k p => { k with regs := { k.regs with x := vset k.regs.x p.1 ⟨p.2, false⟩ } }) k

def withY (k : Ctx) (l : List (Nat × W64)) : Ctx :=
  l.foldl (fun k p => { k with regs := { k.regs with y := vset k.regs.y p.1 ⟨p.2, false⟩ } }) k

def withP (k : Ctx) (n : Nat) (v : W64) : Ctx := { k with regs := { k.regs with p := vset k.regs.p n v } }

def withV (k : Ctx) (n : Nat) (v : Lanes) : Ctx := { k with regs := { k.regs with v := vset k.regs.v n v } }

def withH (k : Ctx) (n : Nat) (h : Handle) : Ctx := { k with regs := { k.regs with h := vset k.regs.h n h } }

/-- The low lanes of a register, the others zero. -/
def lanesFrom (l : List W32) : Lanes := Vector.ofFn fun i : Fin 64 => l.getD i.val 0

/-- A page of HBM with every permission. -/
def page (size : BitVec 2) : Handle := { Handle.none with valid := true, size := size, lclass := 1, perm := 7 }

/-- What a next state holds; nothing for a fault or a refusal. -/
def look {α : Type} (o : Host.Outcome State Fault Refusal) (f : State → α) : Option α :=
  match o with
  | .next t => some (f t)
  | _ => none

/-- The results in flight of the running context. -/
def results (s : State) : List (Result × Nat) := s.here.flight.map fun f => (f.res, f.left)

/-- The first lanes of the vector result in flight. -/
def laneResults (n : Nat) (s : State) : List W32 :=
  match s.here.flight.map Flight.res with
  | [.v _ _ v] => (List.range n).map (lane v)
  | _ => []

/-- A pair by its first part. -/
theorem of_fst {α β : Type} {p : α × β} {a : α} (h : p.1 = a) : ∃ b, p = (a, b) := ⟨p.2, by cases p; simp_all⟩

/-! ### Ill-formed terms (R36, R38) -/

/-- p0 negated is no predicate (R36). -/
theorem smoke_guard : (Instr.add ⟨true, 0⟩ .x 1 2 3 3).wf = false ∧ (Instr.halt ⟨true, 0⟩).wf = false ∧ (Instr.kjoin ⟨true, 0⟩ ⟨1, 0, 0, 0⟩).wf = false := by
  decide

/-- Field values that the scalar entries do not accept. -/
theorem smoke_scalar :
    (Instr.lea p0 1 2 3 7).wf = false ∧ (Instr.shli p0 .x 1 2 64).wf = false ∧ (Instr.shri p0 .y 1 2 64).wf = false ∧
    (Instr.srai p0 .x 1 2 64).wf = false ∧ (Instr.bextX p0 1 2 32 32).wf = false ∧ (Instr.bextY p0 1 2 1 63).wf = false ∧
    (Instr.bins p0 1 2 63 1).wf = false ∧ (Instr.mfsr p0 1 0x0A).wf = false ∧ (Instr.mfsr p0 1 0x14).wf = false ∧
    (Instr.mtsr p0 1 0x02).wf = false ∧ (Instr.mtsr p0 1 0x11).wf = false ∧ (Instr.xlat p0 1 2 0).wf = false ∧
    (Instr.lset p0 1 3 2).wf = false ∧ (Instr.lget p0 1 3 2).wf = false := by decide

/-- Field values that the entries of the L slot do not accept. -/
theorem smoke_accesses :
    (Instr.ldf p0 .x 1 2 0 1 0).wf = false ∧ (Instr.ldfe p0 .x 1 2 0 1 0).wf = false ∧ (Instr.ste p0 .x 1 2 0 0 0).wf = false ∧
    (Instr.tset p0 .x 1 2 0 1 0).wf = false ∧ (Instr.tget p0 .x 1 2 0 0 0).wf = false ∧ (Instr.ldv p0 1 2 0 3 0).wf = false ∧
    (Instr.stv p0 1 2 0 3 0).wf = false ∧ (Instr.ldvh p0 1 2 3 0 3).wf = false ∧ (Instr.stvh p0 1 2 3 0 3).wf = false ∧
    (Instr.ldvg p0 1 2 3 0 3).wf = false ∧ (Instr.stvs p0 1 2 3 0 3).wf = false ∧ (Instr.ldvS p0 1 2 0 3 0).wf = false ∧
    (Instr.fenceC p0 0 5).wf = false ∧ (Instr.fenceC p0 1 11).wf = false ∧ (Instr.fenceBank p0 0 0).wf = false ∧
    (Instr.fenceBank p0 1 15).wf = false ∧ (Instr.stlink p0 1 2 3 0).wf = false ∧ (Instr.ldlink p0 7 2 3 0).wf = false := by decide

/-- Formats, roundings and modes that the entries of the V slot do not accept (R135). -/
theorem smoke_vector :
    (Instr.vadd p0 1 2 3 .int64 0).wf = false ∧ (Instr.vsub p0 1 2 3 .mxint8 0).wf = false ∧ (Instr.vmul p0 1 2 3 .int8 1).wf = false ∧
    (Instr.vfma p0 1 2 3 .int16 2).wf = false ∧ (Instr.vfms p0 1 2 3 .mxfp4 0).wf = false ∧ (Instr.vmin p0 1 2 3 .int64 true).wf = false ∧
    (Instr.vmax p0 1 2 3 .mxint4 false).wf = false ∧ (Instr.vabs p0 1 2 .fp32 4).wf = false ∧ (Instr.vneg p0 1 2 .int8 5).wf = false ∧
    (Instr.vshl p0 1 2 3 .fp32).wf = false ∧ (Instr.vshr p0 1 2 3 .bf16).wf = false ∧ (Instr.vsra p0 1 2 3 .e4m3).wf = false ∧
    (Instr.vcmp p0 1 2 3 .uo .int8).wf = false ∧ (Instr.vdiv p0 1 2 3 .e4m3 0).wf = false ∧ (Instr.vsqrt p0 1 2 .int32 0).wf = false ∧
    (Instr.vrsqrt p0 1 2 .e5m2 0).wf = false ∧ (Instr.vcvt p0 1 2 .bf16 .bf16 0).wf = false ∧ (Instr.vcvt p0 1 2 .int64 .fp32 0).wf = false ∧
    (Instr.vpack p0 1 2 .fp32 .mxint6 5 0).wf = false ∧ (Instr.vpack p0 1 2 .fp32 .int32 0 0).wf = false ∧
    (Instr.vunpk p0 1 2 .int8 .int32 4 0).wf = false ∧ (Instr.vredadd p0 1 2 .bf16 0 0).wf = false ∧
    (Instr.vredadd p0 1 2 .int32 0 1).wf = false ∧ (Instr.vredmax p0 1 2 .int8 0).wf = false ∧ (Instr.vredmin p0 1 2 .e4m3 0).wf = false ∧
    (Instr.vbcast p0 1 2 .mxint8).wf = false ∧ (Instr.vmerge p0 1 2 3 .fp32 2).wf = false ∧ (Instr.vmerge p0 1 2 3 .int8 3).wf = false ∧
    (Instr.vscan p0 1 2 3 .int32 1 0).wf = false ∧ (Instr.vext p0 1 2 3 .int64).wf = false ∧ (Instr.vins p0 1 2 3 .mxint4).wf = false ∧
    (Instr.vclz p0 1 2 .fp32).wf = false ∧ (Instr.vpopc p0 1 2 .bf16).wf = false := by decide

/-- Field values that the entries of the M and E slots do not accept. -/
theorem smoke_commands :
    (Instr.mma p0 1 2 3 .int32 false false 0).wf = false ∧ (Instr.mma p0 1 2 3 .int8 false false 1).wf = false ∧
    (Instr.mmaz p0 1 2 3 .mxfp4 false false 4).wf = false ∧ (Instr.mcon p0 1 2 3 4 .e4m3).wf = false ∧
    (Instr.mdrain p0 1 2 .int64 0 false 0).wf = false ∧ (Instr.mdrain p0 1 2 .int8 1 false 0).wf = false ∧
    (Instr.mdrain p0 1 2 .mxint8 8 false 0).wf = false ∧ (Instr.uiarm p0 0).wf = false ∧
    (Instr.launch p0 ⟨1, 0, 0, 0⟩ false 1 0).wf = false := by decide

/-! ### Words of the spec's encodings

Every constructor with an encoding, with words put together from the match value and the field places of its row of
spec/opcode_table.json and from the header of R31 and R32. -/

/-- Words of the X slot. -/
def wordsX0 : List (List W32 × Instr) :=
  [([0xC0000000, 0x02791900], .add ⟨true, 3⟩ .x 25 3 4 0),
   ([0xC0000000, 0x06E47970], .sub ⟨true, 7⟩ .x 4 15 5 3),
   ([0xC0000000, 0x088244B0], .and ⟨false, 4⟩ .x 2 8 18 3),
   ([0xC0000000, 0x0CC620D0], .or ⟨false, 6⟩ .x 6 4 3 1),
   ([0xC0000000, 0x12AF5BC0], .xor ⟨true, 5⟩ .x 15 11 15 0),
   ([0xC0000000, 0x145A5550], .andn ⟨false, 2⟩ .x 26 10 21 1),
   ([0xC0000000, 0x1B5FE900], .shl ⟨true, 10⟩ .x 31 29 4 0),
   ([0xC0000000, 0x1F98B070], .shr ⟨true, 12⟩ .x 24 22 1 3),
   ([0xC0000000, 0x226FCE70], .sra ⟨true, 3⟩ .x 15 25 25 3),
   ([0xC0000000, 0x27D1D5B0], .rol ⟨true, 14⟩ 17 26 22 3),
   ([0xC0000000, 0x28655A50], .mulX ⟨false, 3⟩ 5 11 9 1),
   ([0xC0000000, 0x2C7ABD10], .mulh ⟨false, 3⟩ 26 23 20 1 false),
   ([0xC0000000, 0x33F9CE70], .minX ⟨true, 15⟩ 25 25 25 3 false),
   ([0xC0000000, 0x3667A8C0], .maxX ⟨true, 3⟩ 7 21 3 0 false)]

def wordsX1 : List (List W32 × Instr) :=
  [([0xC0000000, 0x385FE830], .sextX ⟨false, 2⟩ 31 29 3),
   ([0xC0000000, 0x3F90F010], .zextX ⟨true, 12⟩ 16 30 1),
   ([0xC0000000, 0x73658020], .clzX ⟨true, 11⟩ 5 16 2),
   ([0xC0000000, 0x75AFC810], .ctz ⟨false, 13⟩ 15 25 1),
   ([0xC0000000, 0x793FB000], .popcX ⟨false, 9⟩ 31 22 0),
   ([0xC0000000, 0x8D96E020], .movxy ⟨false, 12⟩ 22 28 2),
   ([0xC0140000, 0x42956FB8], .addi ⟨true, 4⟩ .x 21 13 12216),
   ([0xC0040000, 0x450BDD51], .andi ⟨false, 8⟩ .x 11 27 3409),
   ([0xC0140000, 0x4829EA56], .ori ⟨false, 1⟩ .x 9 29 10838),
   ([0xC01C0000, 0x4DA646F0], .xori ⟨false, 13⟩ .x 6 8 16112),
   ([0xC0000000, 0x532FA02D], .shli ⟨true, 9⟩ .x 15 20 45),
   ([0xC0000000, 0x577A402D], .shri ⟨true, 11⟩ .x 26 8 45),
   ([0xC0000000, 0x5869F02D], .srai ⟨false, 3⟩ .x 9 30 45),
   ([0xC0140000, 0x5C911190], .muli ⟨false, 4⟩ 17 2 10640)]

def wordsX2 : List (List W32 × Instr) :=
  [([0xC0100000, 0x63212071], .liX ⟨true, 9⟩ 1 270449),
   ([0xC0140000, 0x672F84E9], .lihX ⟨true, 9⟩ 15 361705),
   ([0xC0040000, 0x68FCA289], .bextX ⟨false, 7⟩ 28 20 20 41),
   ([0xC0040000, 0x6E704289], .bins ⟨true, 3⟩ 16 8 20 41),
   ([0xC0000000, 0x80FEA746], .cmpX ⟨false, 7⟩ 15 10 14 .leu 3),
   ([0xC0140000, 0x873DC7C4], .cmpiX ⟨true, 9⟩ 14 28 .geu 1476),
   ([0xC0000000, 0x8A2B09A0], .plogX ⟨true, 1⟩ 5 8 4 13),
   ([0xC0000000, 0x7E2BD920], .selX ⟨true, 1⟩ 11 27 4 8),
   ([0xC0100000, 0x90A7C990], .br ⟨false, 5⟩ 8898960),
   ([0xC00C0000, 0x94DABC95], .call ⟨false, 6⟩ 8043669),
   ([0xC0000000, 0x982F3800], .jr ⟨false, 1⟩ 15 7),
   ([0xC0000000, 0x9CA00000], .ret ⟨false, 5⟩),
   ([0xC0000000, 0xA06C0013], .mfsr ⟨false, 3⟩ 12 19),
   ([0xC0000000, 0xA7206810], .mtsr ⟨true, 9⟩ 13 16)]

def wordsX3 : List (List W32 × Instr) :=
  [([0xC00C0000, 0xAB205C54], .setlc ⟨true, 9⟩ 11 7252),
   ([0xC0000000, 0xACA20000], .rdfel ⟨false, 5⟩ 2),
   ([0xC0000000, 0xB0200000], .clrfel ⟨false, 1⟩),
   ([0xC0000000, 0xB5200000], .yield ⟨false, 9⟩),
   ([0xC0000000, 0xBA800000], .halt ⟨true, 4⟩),
   ([0xC0180000, 0xBE4006EA], .trap ⟨true, 2⟩ 14058),
   ([0xC0000000, 0xC3200000], .eret ⟨true, 9⟩),
   ([0xC0000000, 0xC7200000], .uret ⟨true, 9⟩),
   ([0xC00C0000, 0xCB8D7589], .chk ⟨true, 12⟩ 13 226697)]

theorem test_decode_X : (wordsX0 ++ wordsX1 ++ wordsX2 ++ wordsX3).all (fun p => decide (decode p.1 = some p.2) && decide (encode p.2 = p.1)) = true := by decide +kernel

/-- Words of the Y slot. -/
def wordsY0 : List (List W32 × Instr) :=
  [([0xA0000000, 0x03436880], .add ⟨true, 10⟩ .y 3 13 2 0),
   ([0xA0000000, 0x05C770F0], .sub ⟨false, 14⟩ .y 7 14 3 3),
   ([0xA0000000, 0x09279AC0], .and ⟨false, 9⟩ .y 7 19 11 0),
   ([0xA0000000, 0x0F7BA770], .or ⟨true, 11⟩ .y 27 20 29 3),
   ([0xA0000000, 0x133FAF20], .xor ⟨true, 9⟩ .y 31 21 28 2),
   ([0xA0000000, 0x16E22520], .andn ⟨true, 7⟩ .y 2 4 20 2),
   ([0xA0000000, 0x1B041CF0], .shl ⟨true, 8⟩ .y 4 3 19 3),
   ([0xA0000000, 0x1E67F8D0], .shr ⟨true, 3⟩ .y 7 31 3 1),
   ([0xA0000000, 0x207CCC50], .sra ⟨false, 3⟩ .y 28 25 17 1),
   ([0xA0000000, 0x243F5C20], .mulY ⟨false, 1⟩ 31 11 16 2),
   ([0xA0000000, 0x2B791B00], .minY ⟨true, 11⟩ 25 3 12 0 false),
   ([0xA0000000, 0x2D26B840], .maxY ⟨false, 9⟩ 6 23 1 0 false),
   ([0xA0000000, 0x3270B5F6], .lea ⟨true, 3⟩ 16 22 23 6),
   ([0xA0000000, 0x3EA54800], .sextY ⟨true, 5⟩ 5 9 0)]

def wordsY1 : List (List W32 × Instr) :=
  [([0xA0000000, 0x7C974800], .zextY ⟨false, 4⟩ 23 9 0),
   ([0xA0000000, 0x34CEA810], .clzY ⟨false, 6⟩ 14 21 1),
   ([0xA0000000, 0x39B1F020], .popcY ⟨false, 13⟩ 17 30 2),
   ([0xA0000000, 0x7A4E3010], .movyx ⟨true, 2⟩ 14 6 1),
   ([0xA0020000, 0x411629EB], .addi ⟨false, 8⟩ .y 22 5 8683),
   ([0xA0010000, 0x47192A8A], .andi ⟨true, 8⟩ .y 25 5 4746),
   ([0xA0008000, 0x4B764A18], .ori ⟨true, 11⟩ .y 22 9 2584),
   ([0xA0010000, 0x4DCD0C07], .xori ⟨false, 14⟩ .y 13 1 5127),
   ([0xA0000000, 0x53C8182D], .shli ⟨true, 14⟩ .y 8 3 45),
   ([0xA0000000, 0x55DC582D], .shri ⟨false, 14⟩ .y 28 11 45),
   ([0xA0000000, 0x58DE302D], .srai ⟨false, 6⟩ .y 30 6 45),
   ([0xA0020000, 0x5F4C8DEB], .liY ⟨true, 10⟩ 12 298475),
   ([0xA0020000, 0x61DC4636], .lihY ⟨false, 14⟩ 28 280118),
   ([0xA0008000, 0x664D9A89], .bextY ⟨true, 2⟩ 13 19 20 41)]

def wordsY2 : List (List W32 × Instr) :=
  [([0xA0000000, 0x6AED6A14], .cmpY ⟨true, 7⟩ 6 22 20 .lt 2),
   ([0xA0018000, 0x6F247335], .cmpiY ⟨true, 9⟩ 2 7 .ge 821),
   ([0xA0000000, 0x72E9F440], .plogY ⟨true, 7⟩ 4 15 10 2),
   ([0xA0000000, 0x7565815C], .selY ⟨false, 11⟩ 5 16 5 7),
   ([0xA0000000, 0x81C99050], .xlat ⟨false, 14⟩ 4 25 5),
   ([0xA0000000, 0x85C80000], .hdrop ⟨false, 14⟩ 4),
   ([0xA0000000, 0x8850D000], .hmov ⟨false, 2⟩ 8 13),
   ([0xA0000000, 0x8C240C00], .hinfo ⟨false, 1⟩ 2 24),
   ([0xA0000000, 0xA3470800], .lset ⟨true, 10⟩ 3 2 2),
   ([0xA0000000, 0xA6657000], .lget ⟨true, 3⟩ 2 2 28),
   ([0xA0000000, 0xA8AA5400], .bset ⟨false, 5⟩ 5 21),
   ([0xA0000000, 0xAE804C00], .bget ⟨true, 4⟩ 0 19)]

theorem test_decode_Y : (wordsY0 ++ wordsY1 ++ wordsY2).all (fun p => decide (decode p.1 = some p.2) && decide (encode p.2 = p.1)) = true := by decide +kernel

/-- Words of the L slot. -/
def wordsL0 : List (List W32 × Instr) :=
  [([0x90003000, 0x00CB570F], .ld ⟨false, 6⟩ .x 11 21 12 0 63),
   ([0x90005000, 0x0480409C], .ldz ⟨false, 4⟩ .x 0 16 2 1 92),
   ([0x90006000, 0x08E1CDC4], .st ⟨false, 7⟩ .y 1 19 7 0 100),
   ([0x90007000, 0x0FB4A651], .ldS ⟨true, 13⟩ .y 20 9 9 1 113),
   ([0x90002000, 0x138838A1], .ldf ⟨true, 12⟩ .x 8 14 2 2 33),
   ([0x90003000, 0x16588C2F], .ldfe ⟨true, 2⟩ .y 24 3 0 2 63),
   ([0x90007000, 0x190413F2], .ste ⟨false, 8⟩ .x 4 4 15 3 114),
   ([0x90004000, 0x1E8D77F2], .tset ⟨true, 4⟩ .x 13 29 15 3 66),
   ([0x90006000, 0x23A21138], .tget ⟨true, 13⟩ .x 2 4 4 3 104),
   ([0x90006000, 0x274878FE], .ldh ⟨true, 10⟩ .x 8 15 3 15 2 6),
   ([0x90004000, 0x298DCCBB], .ldhz ⟨false, 12⟩ .y 13 9 18 14 3 4),
   ([0x90004000, 0x2DEC9782], .sth ⟨false, 15⟩ .y 12 2 30 0 2 4),
   ([0x90005000, 0x31DCE358], .ldhS ⟨false, 14⟩ .y 28 12 13 6 0 5),
   ([0x90000000, 0x3475A200], .ldq ⟨false, 3⟩ 2 11 8 8 0)]

def wordsL1 : List (List W32 × Instr) :=
  [([0x90000000, 0x3A9FE000], .qpop ⟨true, 4⟩ .y 31 3),
   ([0x90006000, 0x4060FF33], .ldv ⟨false, 3⟩ 0 31 14 1 211),
   ([0x90001000, 0x44F6C535], .stv ⟨false, 7⟩ 22 24 10 1 53),
   ([0x90000000, 0x4BB5C3B2], .ldvh ⟨true, 13⟩ 21 12 7 6 1),
   ([0x90000000, 0x4EB72CE2], .stvh ⟨true, 5⟩ 23 2 25 12 1),
   ([0x90000000, 0x53FB88E1], .ldvg ⟨true, 15⟩ 27 17 3 8 1),
   ([0x90000000, 0x55D24BE1], .stvs ⟨false, 14⟩ 18 9 15 8 1),
   ([0x90000000, 0x5A97D0E4], .ldvm ⟨true, 4⟩ 23 13 1 12),
   ([0x90006000, 0x5D851EA8], .ldvS ⟨false, 12⟩ 5 3 13 1 200),
   ([0x90000000, 0x63108434], .fenceC ⟨true, 8⟩ 33825 10),
   ([0x90000000, 0x65108434], .fenceBank ⟨false, 8⟩ 33825 10),
   ([0x90000000, 0x6AB68CB8], .stlink ⟨true, 5⟩ 22 8 25 7),
   ([0x90000000, 0x6F163528], .ldlink ⟨true, 8⟩ 22 3 10 5)]

theorem test_decode_L : (wordsL0 ++ wordsL1).all (fun p => decide (decode p.1 = some p.2) && decide (encode p.2 = p.1)) = true := by decide +kernel

/-- Words of the V slot. -/
def wordsV0 : List (List W32 × Instr) :=
  [([0x88000800, 0x009F771C], .vadd ⟨false, 4⟩ 31 14 28 .e5m2 4),
   ([0x88000A00, 0x052C7958], .vsub ⟨false, 9⟩ 12 15 5 .e4m3 5),
   ([0x88000C00, 0x08CFBC10], .vmul ⟨false, 6⟩ 15 23 16 .fp32 6),
   ([0x88000E00, 0x0EFA6E18], .vfma ⟨true, 7⟩ 26 13 24 .e4m3 7),
   ([0x88000600, 0x1111BA10], .vfms ⟨false, 8⟩ 17 23 8 .fp32 3),
   ([0x88000000, 0x14F9E6D4], .vmin ⟨false, 7⟩ 25 28 27 .bf16 false),
   ([0x88000000, 0x18FEF81D], .vmax ⟨false, 7⟩ 30 31 0 .e5m2 true),
   ([0x88000800, 0x1E867004], .vabs ⟨true, 4⟩ 6 14 .int16 4),
   ([0x88000800, 0x21DD2804], .vneg ⟨false, 14⟩ 29 5 .int16 4),
   ([0x88000000, 0x24829A08], .vand ⟨false, 4⟩ 2 19 8),
   ([0x88000000, 0x2B3B3988], .vor ⟨true, 9⟩ 27 7 6),
   ([0x88000000, 0x2CACC408], .vxor ⟨false, 5⟩ 12 24 16),
   ([0x88000000, 0x31A004C8], .vandn ⟨false, 13⟩ 0 0 19),
   ([0x88000000, 0x36B47F84], .vshl ⟨true, 5⟩ 20 15 30 .int16)]

def wordsV1 : List (List W32 × Instr) :=
  [([0x88000000, 0x383A98C4], .vshr ⟨false, 1⟩ 26 19 3 .int16),
   ([0x88000000, 0x3D1A2C04], .vsra ⟨false, 8⟩ 26 5 16 .int16),
   ([0x88000000, 0x43F6EF87], .vcmp ⟨true, 15⟩ 11 14 31 .eq .e5m2),
   ([0x88000000, 0x47796024], .vsel ⟨true, 11⟩ 25 12 0 9),
   ([0x88000400, 0x489F64D4], .vdiv ⟨false, 4⟩ 31 12 19 .bf16 2),
   ([0x88000A00, 0x4E909014], .vsqrt ⟨true, 4⟩ 16 18 .bf16 5),
   ([0x88000800, 0x534B7014], .vrsqrt ⟨true, 10⟩ 11 14 .bf16 4),
   ([0x88000000, 0x5549C810], .vexp2 ⟨false, 10⟩ 9 25),
   ([0x88000C00, 0x58814CA8], .vcvt ⟨false, 4⟩ 1 9 .mxint4 .bf16 6),
   ([0x88000400, 0x5C79E25A], .vpack ⟨false, 3⟩ 25 28 .fp32 .mxint8 2 2),
   ([0x88000E00, 0x628BED24], .vunpk ⟨true, 4⟩ 11 29 .mxint6 .fp32 4 7),
   ([0x88000200, 0x66DC5010], .vredadd ⟨true, 6⟩ 28 10 .fp32 0 1),
   ([0x88000000, 0x6A56D011], .vredmax ⟨true, 2⟩ 22 26 .fp32 1),
   ([0x88000000, 0x6ED3D810], .vredmin ⟨true, 6⟩ 19 27 .fp32 0)]

def wordsV2 : List (List W32 × Instr) :=
  [([0x88000000, 0x7297E308], .vperm ⟨true, 4⟩ 23 28 12),
   ([0x88000000, 0x76DE080A], .vbcast ⟨true, 6⟩ 30 1 .bf16),
   ([0x88000000, 0x7A381748], .vmerge ⟨true, 1⟩ 24 2 29 .int32 0),
   ([0x88000A00, 0x7E84ADD2], .vscan ⟨true, 4⟩ 4 21 23 .fp32 2 5),
   ([0x88000000, 0x80B48CC0], .agen ⟨false, 5⟩ 20 17 19 0),
   ([0x88000000, 0x842E378E], .vext ⟨false, 1⟩ 14 6 60 .e5m2),
   ([0x88000000, 0x8BFBFA0A], .vins ⟨true, 15⟩ 27 31 16 .bf16),
   ([0x88000000, 0x8DB34BC4], .viota ⟨false, 13⟩ 19 9 30),
   ([0x88000000, 0x93D4E808], .vmov ⟨true, 14⟩ 20 29),
   ([0x88000000, 0x97A56004], .vclz ⟨true, 13⟩ 5 12 .int16),
   ([0x88000000, 0x989A2004], .vpopc ⟨false, 4⟩ 26 4 .int16)]

theorem test_decode_V : (wordsV0 ++ wordsV1 ++ wordsV2).all (fun p => decide (decode p.1 = some p.2) && decide (encode p.2 = p.1)) = true := by decide +kernel

/-- Words of the M slot. -/
def wordsM0 : List (List W32 × Instr) :=
  [([0x840000C0, 0x033456E8], .mma ⟨true, 9⟩ 20 10 27 .mxint6 false false 3),
   ([0x840000C0, 0x074569AB], .mmaz ⟨true, 10⟩ 5 13 6 .mxint6 true true 3),
   ([0x84000000, 0x0A6E5BAA], .mcon ⟨true, 3⟩ 14 2 6 29 .bf16),
   ([0x84000000, 0x0DB204A0], .mrot ⟨false, 13⟩ 18 37),
   ([0x84000100, 0x1351BC38], .mdrain ⟨true, 10⟩ 17 23 .mxfp4 7 false 4),
   ([0x84000000, 0x146F0000], .mzero ⟨false, 3⟩ 15),
   ([0x84000000, 0x18726000], .mldac ⟨false, 3⟩ 18 12),
   ([0x84000000, 0x1E598000], .mstac ⟨true, 2⟩ 25 16),
   ([0x84000000, 0x21207180], .mhld ⟨false, 9⟩ 14 12),
   ([0x84000000, 0x26203000], .mdmap ⟨true, 1⟩ 6 0),
   ([0x84000000, 0x2BE00000], .mdclr ⟨true, 15⟩),
   ([0x84000000, 0x2DDC1440], .mord ⟨false, 14⟩ 28 5 2),
   ([0x84000000, 0x32871B18], .macv ⟨true, 4⟩ 7 3 12 24),
   ([0x84000000, 0x34CBE400], .mvac ⟨false, 6⟩ 11 28 16 0)]

def wordsM1 : List (List W32 × Instr) :=
  [([0x84000000, 0x39766800], .mcopy ⟨false, 11⟩ 22 13 false)]

theorem test_decode_M : (wordsM0 ++ wordsM1).all (fun p => decide (decode p.1 = some p.2) && decide (encode p.2 = p.1)) = true := by decide +kernel

/-- Words of the E slot. -/
def wordsE0 : List (List W32 × Instr) :=
  [([0x82000018, 0x03684B9D], .copy ⟨true, 11⟩ ⟨4, 2, 5, 12⟩ true 13 3),
   ([0x82000038, 0x06E337B0], .copyg ⟨true, 7⟩ ⟨1, 9, 11, 13⟩ true 0 7),
   ([0x82000010, 0x0B6D98CD], .copyx ⟨true, 11⟩ ⟨6, 12, 12, 6⟩ false 13 2),
   ([0x82000038, 0x0E45CBE0], .binacq ⟨true, 2⟩ ⟨5, 12, 11, 14⟩ 7),
   ([0x82000008, 0x10602980], .binrel ⟨false, 3⟩ ⟨0, 1, 4, 12⟩ 1),
   ([0x82000010, 0x178A4B90], .waitany ⟨true, 12⟩ ⟨10, 4, 11, 9⟩ 2),
   ([0x82000038, 0x19E43CF0], .binst ⟨false, 15⟩ ⟨4, 3, 12, 15⟩ 7),
   ([0x82000008, 0x1CA83F40], .binkill ⟨false, 5⟩ ⟨4, 1, 15, 10⟩ 1),
   ([0x82000000, 0x2240AF80], .kwait ⟨true, 2⟩ 5 7 12),
   ([0x82000000, 0x25DEAC20], .kjoin ⟨false, 14⟩ ⟨15, 5, 6, 1⟩),
   ([0x82000000, 0x2B2ACB00], .kpoll ⟨true, 9⟩ 10 12 11),
   ([0x82000000, 0x2C612000], .uiarm ⟨false, 3⟩ 9),
   ([0x82000000, 0x30202000], .uidis ⟨false, 1⟩ 1),
   ([0x82000020, 0x4259D3B3], .walk ⟨true, 2⟩ ⟨12, 14, 9, 13⟩ 2 3 4)]

def wordsE1 : List (List W32 × Instr) :=
  [([0x82000008, 0x4777EE50], .wnext ⟨true, 11⟩ ⟨23, 14, 14, 5⟩ 0 1),
   ([0x82000000, 0x4B0FDCA7], .wstop ⟨true, 8⟩ ⟨7, 14, 14, 5⟩ 7),
   ([0x82000008, 0x4E4497A5], .wsave ⟨true, 2⟩ ⟨2, 4, 11, 13⟩ 5 1),
   ([0x82000038, 0x53222845], .wrest ⟨true, 9⟩ ⟨1, 1, 4, 2⟩ 5 7),
   ([0x82000010, 0x54388041], .wbudget ⟨false, 1⟩ ⟨12, 4, 0, 2⟩ 1 2),
   ([0x82000028, 0x59FF2AE5], .chain ⟨false, 15⟩ ⟨15, 9, 5, 7⟩ 0 5 5),
   ([0x82000028, 0x62751C88], .bank ⟨true, 3⟩ ⟨10, 8, 14, 4⟩ 8 5),
   ([0x82000018, 0x6690000A], .fbind ⟨true, 4⟩ 8 false 10 3),
   ([0x82000000, 0x688A000C], .funbind ⟨false, 4⟩ 5 12),
   ([0x82000038, 0x6D7158B3], .xfer ⟨false, 11⟩ ⟨8, 10, 12, 5⟩ true 3 7),
   ([0x82000028, 0x7177E380], .lalloc ⟨false, 11⟩ ⟨23, 14, 3, 8⟩ 5),
   ([0x82000028, 0x77978CB0], .lallocM ⟨true, 12⟩ ⟨23, 8, 12, 11⟩ 5),
   ([0x82000010, 0x78D45CE0], .lfree ⟨false, 6⟩ ⟨10, 2, 14, 7⟩ 2),
   ([0x82000010, 0x7CB09A04], .latom ⟨false, 5⟩ ⟨16, 9, 10, 0⟩ false .cas 2)]

def wordsE2 : List (List W32 × Instr) :=
  [([0x82000010, 0x835BB620], .bar ⟨true, 10⟩ ⟨13, 13, 11, 1⟩ 2),
   ([0x82000028, 0x86820200], .barw ⟨true, 4⟩ ⟨1, 0, 1, 0⟩ 5),
   ([0x82000028, 0x8AA6B7D9], .semadd ⟨true, 5⟩ ⟨6, 11, 7, 13⟩ 9 5),
   ([0x82000038, 0x8C97F540], .semcas ⟨false, 4⟩ ⟨23, 15, 5, 4⟩ 0 7),
   ([0x82000020, 0x9189C648], .semwait ⟨false, 12⟩ ⟨4, 14, 3, 2⟩ false 8 4),
   ([0x82000010, 0x9623BEF7], .semrd ⟨true, 1⟩ ⟨3, 11, 14, 15⟩ 7 2),
   ([0x82000008, 0x982218B5], .launch ⟨false, 1⟩ ⟨1, 0, 12, 5⟩ true 5 1),
   ([0x82000000, 0x9C20C9A0], .retire ⟨false, 1⟩ 6 4 13)]

theorem test_decode_E : (wordsE0 ++ wordsE1 ++ wordsE2).all (fun p => decide (decode p.1 = some p.2) && decide (encode p.2 = p.1)) = true := by decide +kernel

/-- Words of the S slot. -/
def wordsS0 : List (List W32 × Instr) :=
  [([0x81000001, 0x02C82682], .sld ⟨true, 6⟩ 4 2 6 386),
   ([0x81000000, 0x05C15AB0], .sldh ⟨false, 14⟩ 0 10 26 11),
   ([0x81000000, 0x09524000], .sbc ⟨false, 10⟩ 9 4),
   ([0x81000001, 0x0C3FE2D0], .sst ⟨false, 1⟩ 15 30 2 464)]

theorem test_decode_S : (wordsS0).all (fun p => decide (decode p.1 = some p.2) && decide (encode p.2 = p.1)) = true := by decide +kernel
/-- The spec's malformed words (chapter 02): two reserved header bits, REP without an M slot, a LEND group of an absent slot, opcode 0x3F, p0
negated, and family R with lent bits. -/
theorem test_malformed :
    (match decodeBundle 0x00600000 [] with | .error e => e == .header | _ => false) = true ∧
    (match decodeBundle 0x80800000 [] with | .error e => e == .header | _ => false) = true ∧
    (match decodeBundle 0x40000007 [0] with | .error e => e == .header | _ => false) = true ∧
    (match decodeBundle 0xFFFFFFFF [] with | .error e => e == .header | _ => false) = true ∧
    (match decodeSlot .V 0xFC000000 0 with | .error e => e == .opcode .V | _ => false) = true ∧
    (match decodeSlot .X 0x02000000 0 with | .error e => e == .field .X | _ => false) = true ∧
    (match decodeSlot .X 0x000739B0 1 with | .error e => e == .field .X | _ => false) = true := by decide +kernel

/-- The loop's first bundle (chapter 02): X add.d x7, x7, x6 and L ld.b x4, [y1], with STOP, 12 bytes. -/
theorem test_bundle_of_two :
    (match decodeBundle 0xD0000000 [0x000739B0, 0x00040400] with
      | .ok b => b.stop && b.rep.isNone && b.size == 12 && decide (b.slots = [(.X, .add p0 .x 7 7 6 3), (.L, .ld p0 .x 4 1 0 0 0)])
      | _ => false) = true := by decide +kernel

/-- More of the spec's own words (chapters 04, 06, 14, 16, 20, 21, 22). -/
theorem test_spec_words :
    decode [0xC0000000, 0x60092000] = some (.liX p0 9 8192) ∧ decode [0xC0000000, 0x64090040] = some (.lihX p0 9 64) ∧
    decode [0xC0000000, 0x94000010] = some (.call p0 16) ∧ decode [0xC0000000, 0x68052064] = some (.bextX p0 5 4 3 4) ∧
    decode [0xC0000000, 0x9C000000] = some (.ret p0) ∧ decode [0xC0000000, 0x50062802] = some (.shli p0 .x 6 5 2) ∧
    decode [0x88000000, 0x0C044308] = some (.vfma p0 4 8 12 .int32 0) ∧ decode [0xC0000000, 0xC825000E] = some (.chk ⟨false, 1⟩ 5 14) ∧
    decode [0x90000000, 0x30050980] = some (.ldhS p0 .x 5 1 6 0 0 0) ∧ decode [0x90000000, 0x04082010] = some (.ldz p0 .x 8 8 0 1 0) ∧
    decode [0x90000000, 0x68082280] = some (.stlink p0 8 2 5 0) ∧ decode [0x82000000, 0x440C2000] = some (.wnext p0 ⟨12, 2, 0, 0⟩ 0 0) ∧
    decode [0xA0000000, 0xA8022400] = some (.bset p0 1 9) ∧ decode [0x82000010, 0x64060012] = some (.fbind p0 3 true 2 2) ∧
    decode [0x82000020, 0x84080000] = some (.barw p0 ⟨4, 0, 0, 0⟩ 4) ∧ decode [0x82000010, 0x70062000] = some (.lalloc p0 ⟨6, 2, 0, 0⟩ 2) ∧
    decode [0x82000010, 0x7C05300C] = some (.latom p0 ⟨5, 3, 0, 0⟩ true .cas 2) ∧
    decode [0x82000018, 0x64000010] = some (.fbind p0 0 true 0 3) ∧ decode [0x84000000, 0x10001900] = some (.mdrain p0 0 3 .int32 0 false 0) ∧
    decode [0x82000018, 0x00ACA011] = some (.copy ⟨false, 5⟩ ⟨6, 5, 0, 0⟩ true 1 3) := by decide +kernel

/-! ### Single steps, with results from the spec's examples -/

/-- The examples of R85 (chapter 04), with x4 = FFFFFFF0 and x5 = 4: add.w, shr.w, sra.w, zext.h, clz.d, mulh.w.u, and shl.b. -/
def scalars : State := dev (withX base [(4, 0xFFFFFFF0), (5, 4)])

theorem test_scalar_widths :
    look (exec (.add p0 .x 3 4 5 2) scalars) results = some [(.x 3 ⟨0xFFFFFFFFFFFFFFF4, false⟩, 1)] ∧
    look (exec (.shr p0 .x 3 4 5 2) scalars) results = some [(.x 3 ⟨0x0FFFFFFF, false⟩, 1)] ∧
    look (exec (.sra p0 .x 3 4 5 2) scalars) results = some [(.x 3 ⟨0xFFFFFFFFFFFFFFFF, false⟩, 1)] ∧
    look (exec (.zextX p0 3 4 1) scalars) results = some [(.x 3 ⟨0xFFF0, false⟩, 1)] ∧
    look (exec (.clzX p0 3 4 3) scalars) results = some [(.x 3 ⟨0x20, false⟩, 1)] ∧
    look (exec (.mulh p0 3 4 5 2 true) scalars) results = some [(.x 3 ⟨3, false⟩, 3)] ∧
    look (exec (.shl p0 .x 3 5 5 0) scalars) results = some [(.x 3 ⟨0x40, false⟩, 1)] := by decide +kernel

/-- A write of x0 is discarded (R40), and li and lih build 0x100000040 (chapter 04). -/
theorem test_constants :
    look (exec (.liX p0 0 5) scalars) results = some [] ∧
    look (exec (.liX p0 9 8192) scalars) results = some [(.x 9 ⟨8192, false⟩, 1)] ∧
    look (exec (.lihX p0 9 64) (dev (withX base [(9, 8192)]))) results = some [(.x 9 ⟨0x100000040, false⟩, 1)] := by decide +kernel

/-- Predicate logic (R42): 8 is AND and 3 is NOT of PA, bit by bit; a compare writes all 64 bits (R91). -/
theorem test_predicates :
    look (exec (.plogX p0 3 1 2 8) (dev (withP (withP base 1 0xF0F0) 2 0xFF00))) results = some [(.p 3 (BitVec.allOnes 64) 0xF000, 1)] ∧
    look (exec (.plogY p0 3 1 2 3) (dev (withP base 1 1))) results = some [(.p 3 (BitVec.allOnes 64) 0xFFFFFFFFFFFFFFFE, 1)] ∧
    look (exec (.cmpX p0 1 4 5 .ltu 3) scalars) results = some [(.p 1 (BitVec.allOnes 64) 0, 1)] ∧
    look (exec (.cmpX p0 1 4 5 .lt 2) scalars) results = some [(.p 1 (BitVec.allOnes 64) (BitVec.allOnes 64), 1)] := by decide +kernel

/-- A device whose page at 0 holds code: the words of an address on. -/
def coded (k : Ctx) (a : Nat) (ws : List Nat) : State :=
  let s := dev { k with pc := BitVec.ofNat 64 a }
  { s with tlb := [⟨0, 0, codeLeaf 0⟩], mem := writeCells s.mem (hbmKey a) (ws.flatMap (leBytes 4)), host := { s.host with mode := .running } }

/-- The call of chapter 04 at 0x40100: the target is 0x40200 and x30 gets 0x40120, past the delay bundles at 0x40108, 0x40110 and 0x40114. -/
def calls : State := coded base 0x40100 [0xC0000000, 0x94000010, 0xC0000000, 0x68052064, 0x80000000, 0x80000000, 0x80000000, 0x80000000]

theorem test_call : look (exec (.call p0 16) calls) (fun t => (results t, t.here.branch)) =
    some ([(.x 30 ⟨0x40120, false⟩, 1)], some (0x40200, 3)) := by decide +kernel

/-- The branch of chapter 02 at 0x40030 with OFF = -3 goes to 0x40000. -/
theorem test_branch_back : look (exec (.br p0 (-3)) (dev { base with pc := 0x40030 })) (fun t => t.here.branch) = some (some (0x40000, 3)) := by
  decide +kernel

/-- The rows of chapter 01: 03 FE 05 01 at 0x1000 read as bytes are 3, -2, 5 and 1. -/
def bytesAt : State :=
  let s := dev (withY base [(1, 0x1000), (3, 0x1001)])
  { s with mem := writeCells s.mem (spadKey 0 0x1000) [0x03, 0xFE, 0x05, 0x01] }

theorem test_loads :
    look (exec (.ld p0 .x 4 1 0 0 1) bytesAt) results = some [(.x 4 ⟨0xFFFFFFFFFFFFFFFE, false⟩, 5)] ∧
    look (exec (.ldz p0 .x 4 1 0 0 1) bytesAt) results = some [(.x 4 ⟨0xFE, false⟩, 5)] ∧
    look (exec (.ld p0 .y 4 1 0 2 0) bytesAt) results = some [(.y 4 ⟨0x0105FE03, false⟩, 5)] := by decide +kernel

/-- R28, R53: a word at 0x1001 is misaligned; the address stands in EINFO. -/
theorem test_misaligned :
    look (exec (.ld p0 .x 4 3 0 2 0) bytesAt) (fun t => t.status) = some (.trapped ⟨6, 2, 0x1001, false, none⟩) := by decide +kernel

/-- R108: a store writes the low bytes of its datum, little-endian. -/
theorem test_store :
    look (exec (.st p0 .y 1 1 0 1 1) bytesAt) (fun t => readCells t.mem (spadKey 0 0x1000) 4) = some [0x03, 0xFE, 0x00, 0x10] := by decide +kernel

/-- R224, R225: ldfe of an empty word blocks and leaves the tag it awaits, and ste fills it. -/
theorem test_tags :
    look (exec (.ldfe p0 .x 6 1 0 2 0) bytesAt) (fun t => t.status) = some (.blocked (.tags [(tagKey 0 0x1000, 0)])) ∧
    look (exec (.ste p0 .x 6 1 0 2 0) bytesAt) (fun t => cellAt t.tags (tagKey 0 0x1000)) = some 1 := by decide +kernel

/-- Integer lanes (R119, R136): int8 127 + 1 wraps to -128 and saturates to 127 under RND[2]. -/
def ints : State := dev (withV (withV base 1 (lanesFrom [127, 5, 0xFF])) 2 (lanesFrom [1, 3, 0xFF]))

theorem test_int_lanes :
    look (exec (.vadd p0 3 1 2 .int8 0) ints) (laneResults 3) = some [0xFFFFFF80, 8, 0xFFFFFFFE] ∧
    look (exec (.vadd p0 3 1 2 .int8 4) ints) (laneResults 3) = some [127, 8, 0xFFFFFFFE] ∧
    look (exec (.vshl p0 3 1 2 .int32) ints) (laneResults 2) = some [254, 40] := by decide +kernel

/-- The half-way cases of chapter 05: E4M3 464 rounds to 448, 0x7E; and FP32 1.5 + 2.0 is 3.5. -/
theorem test_float_lanes :
    look (exec (.vcvt p0 3 1 .fp32 .e4m3 0) (dev (withV base 1 (lanesFrom [0x43E80000])))) (laneResults 1) = some [0x7E] ∧
    look (exec (.vcvt p0 3 1 .fp32 .e5m2 0) (dev (withV base 1 (lanesFrom [0x47700000])))) (laneResults 1) = some [0x7C] ∧
    look (exec (.vcvt p0 3 1 .fp32 .e5m2 4) (dev (withV base 1 (lanesFrom [0x47700000])))) (laneResults 1) = some [0x7B] ∧
    look (exec (.vadd p0 3 1 2 .fp32 0) (dev (withV (withV base 1 (lanesFrom [0x3FC00000])) 2 (lanesFrom [0x40000000])))) (laneResults 1) =
      some [0x40600000] := by decide +kernel

/-- R125's two worked inputs, 0.5 and -1.25, and 128.0, which gives +inf. -/
theorem test_exp2 :
    (exp2 0x3F000000).1 = 0x3FB50000 ∧ (exp2 0xBFA00000).1 = 0x3ED74800 ∧ (exp2 0x43000000).1 = 0x7F800000 := by decide +kernel

/-- R246: semadd of 3 answers the old value and a predicate of whether the new one is zero. -/
theorem test_semadd :
    look (exec (.semadd p0 ⟨5, 3, 0, 0⟩ 2 2) { dev (withY base [(8, 0), (9, 3)]) with semTen := [(0, 0)] }) (fun t => (results t, t.sem 0)) =
      some ([(.y 5 ⟨0, false⟩, 4), (.p 3 (BitVec.allOnes 64) 0, 4)], 3) := by decide +kernel

/-- R255, R253: copy makes a token, which k1 holds in the next cycle, and a command of the copy engine. -/
theorem test_copy_issue :
    look (exec (.copy p0 ⟨1, 0, 0, 0⟩ false 1 2) (dev (withH (withY base [(8, 0), (9, 0x6000), (10, 32), (11, 0)]) 1 (page 0))))
      (fun t => (results t, t.ecmds.map fun c => (c.tok, c.eng))) = some ([(.k 1 (some 0), 1)], [(0, .copy)]) := by decide +kernel

/-- R11: the device after power-on stands in MODE 0; its first step is a start, which an empty flash fails. -/
theorem test_first_step : look (step State.reset) (fun t => (t.host.mode, t.host.fails)) = some (.starting, 1) := by decide +kernel

/-- A step fetches the words at the PC and runs them: add.d x3, x4, x5 with x4 and x5 zero leaves one cycle behind, and the PC past them. -/
theorem test_step_runs :
    look (step (State.reset.withFetchWord 32 0x00032170)) (fun t => (t.here.pc, t.here.sr.acyc, t.status)) = some (8, 1, .ok) := by decide +kernel


set_option maxRecDepth 100000 in
/-- FIPS 180-4's own example: the SHA-384 digest of the bytes of "abc" (log entry 59). -/
theorem test_sha384 : leNat (sha384 [0x61, 0x62, 0x63]).reverse =
    0xCB00753F45A35E8BB5A03D699AC65007272C32AB0EDED1631A8B605A43FF5BED8086072BA1E7CC2358BAECA134C825A7 := by decide +kernel

/-- R231: a bundle's own M command does not keep its S slot back: mma and sld.c0 issue together, one step. -/
theorem test_own_bundle :
    look (exec (.mma p0 0 2 1 .int8 false false 0) (dev (withY base [(1, 0x1000), (2, 0x180000), (3, 0x5FFF00)])).atIssue)
      (fun t => look (exec (.sld p0 7 3 0 0) t) fun u => (u.status, u.mcmds.length)) = some (some (.ok, 1)) := by decide +kernel

/-- R14: what a return shows at once it shows in issue order: the later of two results of x5 stays, though the earlier has a cycle to go. -/
theorem test_drain_order :
    (Ctx.drainFlight { base with flight := [⟨0, .x 5 ⟨1, false⟩, 3, 0, false, true, false, none, none, false, false⟩,
      ⟨1, .x 5 ⟨2, false⟩, 0, 0, true, true, false, none, none, false, false⟩] }).regs.rx 5 = ⟨2, false⟩ := by decide +kernel

/-- R22, R70, R364: of two entries reserved in order, the second's word enters first and waits for the first's. -/
theorem test_push_order :
    let q : SendQ := ⟨4, none, 3, [(1, none), (2, none)], false⟩
    let first : SendQ := q.push 2 ⟨8, false⟩
    first.entries = [(1, none), (2, some 8)] ∧ (first.push 1 ⟨7, false⟩).entries = [(1, some 7), (2, some 8)] ∧
      (first.push 1 ⟨7, true⟩).entries = [(2, some 8)] := by decide +kernel

/-- R21, R94: the bundle that eret goes to begins a group. -/
theorem test_eret_group :
    (Ctx.leaveTrap { base with handler := true, group := ⟨7, [3], [4]⟩, trapRet := some ⟨0, none, 0, [], none, true, none⟩ }).group = Group.fresh := by
  decide +kernel

/-- R225: a change of a tag that a blocked access awaits is seen, whether or not the access can go on. -/
theorem test_tag_change :
    State.tagChanged { dev { base with run := .blocked, tagWait := [(tagKey 0 0x1000, 0), (tagKey 0 0x1004, 0)] } with
      tags := [(tagKey 0 0x1004, 1)] } 0 = true ∧
    State.tagChanged (dev { base with run := .blocked, tagWait := [(tagKey 0 0x1000, 0)] }) 0 = false := by decide +kernel

/-- R126 to R128, R155: of an overflow in lane 1 and a NaN from two infinities in lane 2 the event of the lower lane is recorded. -/
theorem test_lane_event :
    look (exec (.vadd p0 3 1 2 .fp32 0) (dev (withV (withV base 1 (lanesFrom [0, 0x7F7FFFFF, 0x7F800000])) 2 (lanesFrom [0, 0x7F7FFFFF, 0xFF800000]))))
      (fun t => t.here.flight.map fun f => f.event.map fun e => (e.slot, e.lane, e.code)) = some [some (3, 1, 4)] := by decide +kernel
/-! ### For every statement, a state and operands that meet its hypotheses -/

theorem witness_ScalarTwoSources : ∃ (s : State) (g : Guard) (c : Cl) (d a b : BitVec 5), s.here.enabled g = true ∧ s.here.plain c d ∧
    s.here.plain c a ∧ s.here.plain c b :=
  ⟨dev base, p0, .y, 31, 16, 0, by unfold Ctx.plain; decide +kernel⟩

theorem witness_ScalarProductsAndExtremes : ∃ (s : State) (g : Guard) (d a b : BitVec 5) (pos len : BitVec 6), s.here.enabled g = true ∧
    pos.toNat + len.toNat + 1 ≤ 64 ∧ s.here.plain .y d ∧ s.here.plain .y a ∧ s.here.plain .y b :=
  ⟨dev base, p0, 31, 16, 0, 0, 63, by unfold Ctx.plain; decide +kernel⟩

theorem witness_ScalarOneSource : ∃ (s : State) (g : Guard) (c : Cl) (d a : BitVec 5) (pos len : BitVec 6), s.here.enabled g = true ∧
    s.here.plain c d ∧ s.here.plain c a ∧ pos.toNat + len.toNat + 1 ≤ 64 :=
  ⟨dev base, p0, .x, 31, 0, 63, 0, by unfold Ctx.plain; decide +kernel⟩

theorem witness_ScalarCounts : ∃ (s : State) (g : Guard) (c : Cl) (d a : BitVec 5), s.here.enabled g = true ∧ s.here.plain c d ∧ s.here.plain c a :=
  ⟨dev (withP base 1 0), ⟨true, 1⟩, .y, 17, 18, by unfold Ctx.plain; decide +kernel⟩

theorem witness_ComparesLogicSelect : ∃ (s : State) (g : Guard) (c : Cl) (d a b : BitVec 5), s.here.enabled g = true ∧ s.here.plain c d ∧
    s.here.plain c a ∧ s.here.plain c b ∧ (s.here.scalar c a).poison = false ∧ (s.here.scalar c b).poison = false :=
  ⟨dev base, p0, .y, 31, 30, 29, by unfold Ctx.plain; decide +kernel⟩

/-- Register f0 receives on channel 3, f1 sends through queue 5, f15 through queue 9, whose 16 entries are taken. -/
def bound : State :=
  let k := { base with f := ((Vector.replicate 16 Fifo.unbound).set 0 (.recv 3)).set 1 (.send 5) |>.set 15 (.send 9)
                       sends := [⟨5, none, 0, List.replicate 15 (0, some 7), false⟩, ⟨9, none, 0, (9, none) :: List.replicate 15 (0, some 7), false⟩] }
  { dev k with chans := [(3, [42, 43])] }

/-- A context with a load of a loft page in class 3, or c0, on its way, which an earlier bundle issued. -/
def waitsFor (k : Ctx) (cls : BitVec 4) : Ctx :=
  { k with sr := { k.sr with acyc := 1 }
           q := (Vector.replicate 4 []).set 3 [⟨0, cls, 0, 3, { page 0 with tgt := 1 }, 0, 5, false, false, none, false, false⟩] }

theorem witness_FifoFields :
    (∀ late : Bool, ∃ (s : State) (d a : BitVec 5) (n : Nat) (ch : BitVec 8) (w : W64) (ws : List W64), s.here.enabled p0 = true ∧ s.here.plain .y d ∧
      s.here.fifoOf a = some (n, .recv ch) ∧ alGet s.chans (clusterOf s.cur * 256 + ch.toNat) = some (w :: ws) ∧ s.loadWaits 0 = late) ∧
    (∃ (s : State) (a : BitVec 5) (n : Nat) (ch : BitVec 8), s.here.enabled p0 = true ∧ s.here.fifoOf a = some (n, .recv ch) ∧
      (alGet s.chans (clusterOf s.cur * 256 + ch.toNat)).getD [] = []) ∧
    (∃ (s : State) (a : BitVec 5) (n q : Nat), s.here.enabled p0 = true ∧ s.here.fifoOf a = some (n, .send q)) ∧
    (∀ late : Bool, ∃ (s : State) (d a : BitVec 5) (n q : Nat), s.here.enabled p0 = true ∧ s.here.plain .y a ∧ s.here.fifoOf d = some (n, .send q) ∧
      (∀ e ∈ s.here.sends, e.id = q → e.entries.length < 16) ∧ s.here.late 0 = late) ∧
    (∃ (s : State) (d a : BitVec 5) (n q : Nat), s.here.enabled p0 = true ∧ s.here.plain .y a ∧ s.here.fifoOf d = some (n, .send q) ∧
      ∃ e ∈ s.here.sends, e.id = q ∧ 16 ≤ e.entries.length) ∧
    (∃ (s : State) (d a : BitVec 5) (n : Nat) (ch : BitVec 8), s.here.enabled p0 = true ∧ s.here.plain .y a ∧ s.here.fifoOf d = some (n, .recv ch)) := by
  let held (late : Bool) : State := if late then bound.setCtx 0 (waitsFor bound.here 0) else bound
  refine ⟨fun late => ⟨held late, 15, 16, 0, 3, 42, [43], ?_⟩, ⟨{ bound with chans := [] }, 16, 0, 3, ?_⟩, ⟨bound, 17, 1, 5, ?_⟩,
    fun late => ⟨held late, 17, 1, 1, 5, ?_⟩, ⟨bound, 31, 1, 15, 9, ?_⟩, ⟨bound, 16, 1, 0, 3, ?_⟩⟩ <;>
    (try cases late) <;> (try unfold Ctx.plain) <;> decide +kernel

/-- Empty bundles stand at the PC, at 0x40100. -/
def atCode : State := coded (withX base [(30, 0x40200)]) 0x40100 []

theorem witness_Branches :
    (∃ (s : State) (g : Guard) (d a : BitVec 5) (r : Nat) (u : State), s.here.enabled g = true ∧ s.skipBundles s.here.pc.toNat 4 = (.ok r, u) ∧
      (s.here.regs.rx a).poison = false ∧ (s.here.regs.rx a).val.toNat % 16 = 0 ∧ a = 30 ∧ d ≠ 0) ∧
    (∃ (k : Ctx) (n : Nat), k.rep = none ∧ 2 ≤ n) := by
  have h : (atCode.skipBundles atCode.here.pc.toNat 4).1 = .ok 0x40110 := by decide +kernel
  obtain ⟨u, hu⟩ := of_fst h
  exact ⟨⟨atCode, p0, 31, 30, 0x40110, u, by decide +kernel, hu, by decide +kernel⟩, Ctx.reset, 2, rfl, le_rfl⟩

theorem witness_SpecialRegisters :
    (∃ (s : State) (g : Guard) (a : BitVec 5), s.here.enabled g = true ∧ s.here.handler = true ∧ (s.here.regs.rx a).poison = false ∧
      (s.here.regs.rx a).val.toNat % 16 = 0 ∧ (s.here.regs.rx a).val &&& 0x7CF000000000000F = 0 ∧ (s.here.regs.rx a).val.getLsbD 63 = true ∧
      (s.here.regs.rx a).val.extractLsb' 56 2 ≠ 0) ∧
    (∀ n : BitVec 14, n = 0x10 ∨ n = 0x13 → ∃ (s : State) (g : Guard) (a : BitVec 5), s.here.enabled g = true ∧ s.here.handler = false ∧
      0x10 ≤ n.toNat ∧ n.toNat ≤ 0x13 ∧ (s.here.regs.rx a).poison = false) ∧
    (∃ (s : State) (g : Guard) (a : BitVec 5), s.here.enabled g = true ∧ (s.here.regs.rx a).poison = true) ∧
    (∃ (s : State) (g : Guard) (a : BitVec 5), s.here.enabled g = true ∧ (s.here.regs.rx a).poison = false ∧ (s.here.regs.rx a).val.toNat % 16 ≠ 0) ∧
    (∃ (s : State) (g : Guard) (a : BitVec 5), s.here.enabled g = true ∧ (s.here.regs.rx a).poison = false ∧ s.here.handler = true ∧
      (s.here.regs.rx a).val.toNat % 4 ≠ 0) := by
  refine ⟨⟨dev { withX base [(1, 0x8300000000040120)] with handler := true }, p0, 1, by decide +kernel⟩,
    fun n h => ⟨dev base, p0, 1, by rcases h with rfl | rfl <;> decide +kernel⟩,
    ⟨dev { base with regs := { Regs.reset with x := vset Regs.reset.x 1 ⟨0, true⟩ } }, p0, 1, by decide +kernel⟩,
    ⟨dev (withX base [(1, 8)]), p0, 1, by decide +kernel⟩, ⟨dev { withX base [(1, 2)] with handler := true }, p0, 1, by decide +kernel⟩⟩

theorem witness_SystemInstructions :
    ∀ due : Option TrapRec, due = none ∨ due = some ⟨5, 2, 0, true, none⟩ ∨ due = some ⟨21, 2, 0, true, none⟩ →
      ∃ (s : State) (g : Guard), s.here.enabled g = true ∧ s.here.handler = false ∧ s.here.run ≠ .halted ∧ s.here.retiring = none ∧
        s.here.rep = none ∧ s.here.branch = none ∧ s.here.inUi = false ∧ s.tvec s.here.sr.tenant ≠ 0 ∧ s.here.due = due ∧
        (∀ q, s.here.due = some q → q.met = none) := by
  intro due hd
  let s : State := { atCode with tvecs := [(0, 0x50000)] }.setCtx 0 { atCode.here with due := due }
  have on : s.here.enabled p0 = true := by rcases hd with rfl | rfl | rfl <;> decide +kernel
  refine ⟨s, p0, on, rfl, nofun, rfl, rfl, rfl, rfl, (by decide +kernel : (0x50000 : W64) ≠ 0), rfl, ?_⟩
  rintro q (hq : due = some q)
  rcases hd with rfl | rfl | rfl <;> cases hq <;> rfl

def saved : Saved := ⟨0x40000, none, 0, [], none, true, none⟩

/-- A handler's result that has arrived. -/
def arrived : Flight := ⟨0, .x 1 ⟨5, false⟩, 1, 0, false, true, false, none, none, false, false⟩

theorem witness_ReturnsFromHandlers :
    (∃ (s : State) (g : Guard) (sv : Saved), s.here.enabled g = true ∧ s.here.handler = true ∧ (∀ f ∈ s.here.flight, f.arrived = true) ∧
      s.here.trapRet = some sv ∧ s.here.settled.sr.ebp.getLsbD 63 = true) ∧
    (∃ (s : State) (g : Guard) (sv : Saved), s.here.enabled g = true ∧ s.here.handler = true ∧ (∀ f ∈ s.here.flight, f.arrived = true) ∧
      s.here.trapRet = some sv ∧ s.here.settled.sr.ebp.getLsbD 63 = false) ∧
    (∃ (s : State) (g : Guard) (sv : Saved), s.here.enabled g = true ∧ s.here.handler = false ∧ s.here.inUi = true ∧
      (∀ f ∈ s.here.flight, f.arrived = true) ∧ s.here.uiRet = some sv ∧ ∀ i : Fin 16, s.here.pend[i] = none) ∧
    (∃ (s : State) (g : Guard), s.here.enabled g = true ∧ s.here.handler = false ∧ s.here.inUi = false) := by
  refine ⟨⟨dev { base with handler := true, flight := [arrived], trapRet := some saved, sr := { Srs.reset with ebp := 0x8100000000040000 } }, p0, saved, ?_⟩,
    ⟨dev { base with handler := true, flight := [arrived], trapRet := some saved }, p0, saved, ?_⟩,
    ⟨dev { base with inUi := true, flight := [arrived], uiRet := some saved }, p0, saved, ?_⟩, ⟨dev base, p0, ?_⟩⟩ <;> decide +kernel

theorem witness_XlatStarts : ∃ (s : State) (g : Guard) (a : BitVec 5), s.here.enabled g = true ∧ s.here.plain .y a ∧ (s.here.regs.ry a).poison = false :=
  ⟨dev base, p0, 31, by unfold Ctx.plain; decide +kernel⟩

theorem witness_HandleLayoutBond : ∃ (s : State) (g : Guard) (d y : BitVec 5) (part : BitVec 2), s.here.enabled g = true ∧ s.here.plain .y d ∧
    s.here.plain .y y ∧ part.toNat ≤ 2 ∧ (s.here.regs.ry y).poison = false :=
  ⟨dev base, p0, 31, 16, 2, by unfold Ctx.plain; decide +kernel⟩

/-- Nothing is on its way: no stores, no results, in the queues only entries of HBM pages, no commands. -/
def calm (s : State) : Bool :=
  s.here.stores.isEmpty && s.here.flight.isEmpty && (s.here.q.toList.all fun l => l.all fun e => e.handle.tgt == 0) && s.mcmds.isEmpty &&
    s.ecmds.isEmpty && !s.scripted && s.lines.isEmpty && s.here.captured.isEmpty

theorem calm_quiet {s : State} (h : calm s = true) : s.Quiet := by
  simp only [calm, Bool.and_eq_true, List.isEmpty_iff, List.all_eq_true, beq_iff_eq, Bool.not_eq_true'] at h
  obtain ⟨⟨⟨⟨⟨⟨⟨st, fl⟩, q⟩, m⟩, e⟩, sc⟩, ln⟩, cp⟩ := h
  refine ⟨st, fun cls => ?_, m, fun c hc => by simp [e] at hc, sc, ln⟩
  have idle : (s.here.q.toList.any fun l => l.any fun e => e.unfixed && e.cls == cls && e.cyc != s.here.sr.acyc.toNat) = false := by
    simp only [List.any_eq_false]
    intro l hl h
    obtain ⟨e, he, h⟩ := List.any_eq_true.mp h
    simp [QEntry.unfixed, q l hl e he] at h
  simp only [Ctx.late, fl, cp, List.any_nil, Bool.false_or]
  exact idle

/-- y1 holds the last word of the window, y2 its last byte, y3 its last 256 bytes, and v1 the same. -/
def edges : Ctx := withY base [(1, 0x5FFFF8), (2, 0x5FFFFF), (3, 0x5FFF00)]

theorem witness_LocalScalarAccesses : ∃ (s : State) (g : Guard) (cl : Cl) (t a : BitVec 5) (w : BitVec 2) (off : BitVec 7),
    s.here.enabled g = true ∧ s.Quiet ∧ s.here.plain cl t ∧ (s.here.regs.ry a).poison = false ∧
    s.localOk (localAddr (s.here.regs.ry a).val (2 ^ w.toNat) off) (2 ^ w.toNat) (2 ^ w.toNat) ∧ (s.here.scalar cl t).poison = false :=
  ⟨dev edges, p0, .y, 31, 1, 3, 0, by decide +kernel, calm_quiet rfl, fun _ => by decide +kernel, by decide +kernel,
    by unfold State.localOk; decide +kernel, by decide +kernel⟩

/-- y1 is poisoned. -/
def poisoned : Ctx := { base with regs := { Regs.reset with y := vset Regs.reset.y 1 ⟨0, true⟩ } }

theorem witness_AccessChecks :
    (∃ (s : State) (g : Guard) (a : BitVec 5) (w : BitVec 2) (off : BitVec 7), s.here.enabled g = true ∧ (s.here.regs.ry a).poison = false ∧
      localAddr (s.here.regs.ry a).val (2 ^ w.toNat) off % 2 ^ w.toNat ≠ 0) ∧
    (∃ (s : State) (g : Guard) (cl : Cl) (t a : BitVec 5) (w : BitVec 2) (off : BitVec 7), s.here.enabled g = true ∧
      (s.here.regs.ry a).poison = false ∧ localAddr (s.here.regs.ry a).val (2 ^ w.toNat) off % 2 ^ w.toNat = 0 ∧ s.here.plain cl t ∧
      ¬ s.localOk (localAddr (s.here.regs.ry a).val (2 ^ w.toNat) off) (2 ^ w.toNat) (2 ^ w.toNat)) ∧
    (∃ (s : State) (g : Guard) (cl : Cl) (t a : BitVec 5), s.here.enabled g = true ∧ s.here.plain cl t ∧ (s.here.regs.ry a).poison = true) ∧
    (∃ (s : State) (g : Guard) (cl : Cl) (t : BitVec 5) (hn : BitVec 4) (o : BitVec 5), s.here.enabled g = true ∧
      (s.here.regs.ry o).poison = false ∧ s.here.plain cl t ∧ (s.here.regs.rh hn).valid = false) ∧
    (∃ (s : State) (g : Guard) (cl : Cl) (t : BitVec 5) (hn : BitVec 4) (o : BitVec 5), s.here.enabled g = true ∧
      (s.here.regs.ry o).poison = false ∧ s.here.plain cl t ∧ (s.here.regs.rh hn).valid = true ∧ (s.here.regs.rh hn).lclass = 0) ∧
    (∃ (s : State) (g : Guard) (cl : Cl) (t : BitVec 5) (hn : BitVec 4) (o : BitVec 5) (w : BitVec 2) (disp : BitVec 3), s.here.enabled g = true ∧
      (s.here.regs.ry o).poison = false ∧ s.here.plain cl t ∧ (s.here.regs.rh hn).valid = true ∧ (s.here.regs.rh hn).perm.getLsbD 2 = true ∧
      (s.here.regs.rh hn).lclass ≠ 0 ∧ ((s.here.regs.ry o).val + disp.setWidth 64 * BitVec.ofNat 64 (2 ^ w.toNat)).toNat % 2 ^ w.toNat ≠ 0) ∧
    (∃ (s : State) (g : Guard) (cl : Cl) (t : BitVec 5) (hn : BitVec 4) (o : BitVec 5) (w : BitVec 2) (disp : BitVec 3), s.here.enabled g = true ∧
      (s.here.regs.ry o).poison = false ∧ s.here.plain cl t ∧ (s.here.regs.rh hn).valid = true ∧ (s.here.regs.rh hn).perm.getLsbD 2 = true ∧
      (s.here.regs.rh hn).lclass ≠ 0 ∧ ((s.here.regs.ry o).val + disp.setWidth 64 * BitVec.ofNat 64 (2 ^ w.toNat)).toNat % 2 ^ w.toNat = 0 ∧
      pageBytes (s.here.regs.rh hn).size < ((s.here.regs.ry o).val + disp.setWidth 64 * BitVec.ofNat 64 (2 ^ w.toNat)).toNat + 2 ^ w.toNat) := by
  refine ⟨⟨dev edges, p0, 2, 1, 0, ?_⟩, ⟨dev edges, p0, .y, 31, 1, 3, 1, ?_⟩, ⟨dev poisoned, p0, .y, 31, 1, ?_⟩, ⟨dev base, p0, .y, 31, 1, 0, ?_⟩,
    ⟨dev (withH base 1 { page 0 with lclass := 0 }), p0, .y, 31, 1, 0, ?_⟩, ⟨dev (withH (withY base [(1, 1)]) 1 (page 0)), p0, .y, 31, 1, 1, 1, 0, ?_⟩,
    ⟨dev (withH (withY base [(1, 65536)]) 1 (page 0)), p0, .y, 31, 1, 1, 0, 0, ?_⟩⟩ <;>
    (try unfold Ctx.plain) <;> (try unfold State.localOk) <;> decide +kernel

/-- The first n words of the last word pair of the window are full. -/
def full (n : Nat) : State := { dev edges with tags := setTags [] 0 0x5FFFF8 (List.replicate n true) }

theorem witness_TagAccesses :
    (∃ (s : State) (g : Guard) (cl : Cl) (t a : BitVec 5) (w : BitVec 2) (off : BitVec 7), s.here.enabled g = true ∧ s.Quiet ∧ s.here.plain cl t ∧
      (s.here.regs.ry a).poison = false ∧ 2 ≤ w.toNat ∧ s.localOk (localAddr (s.here.regs.ry a).val (2 ^ w.toNat) off) (2 ^ w.toNat) (2 ^ w.toNat) ∧
      (s.here.scalar cl t).poison = false ∧ ∀ j < 2 ^ w.toNat / 4, s.tagAt (localAddr (s.here.regs.ry a).val (2 ^ w.toNat) off) j = true) ∧
    (∃ (s : State) (g : Guard) (cl : Cl) (t a : BitVec 5) (w : BitVec 2) (off : BitVec 7), s.here.enabled g = true ∧ s.Quiet ∧ s.here.plain cl t ∧
      (s.here.regs.ry a).poison = false ∧ 2 ≤ w.toNat ∧ s.localOk (localAddr (s.here.regs.ry a).val (2 ^ w.toNat) off) (2 ^ w.toNat) (2 ^ w.toNat) ∧
      (s.here.scalar cl t).poison = false ∧ ∀ j < 2 ^ w.toNat / 4, s.tagAt (localAddr (s.here.regs.ry a).val (2 ^ w.toNat) off) j = false) ∧
    (∃ (s : State) (a : BitVec 5) (w : BitVec 2) (off : BitVec 7), s.Quiet ∧ w.toNat = 3 ∧
      s.localOk (localAddr (s.here.regs.ry a).val 8 off) 8 8 ∧ s.tagAt (localAddr (s.here.regs.ry a).val 8 off) 0 = true ∧
      s.tagAt (localAddr (s.here.regs.ry a).val 8 off) 1 = false) ∧
    (∃ (s : State) (g : Guard) (cl : Cl) (t a : BitVec 5) (w : BitVec 2) (off : BitVec 7), s.here.enabled g = true ∧ s.Quiet ∧ s.here.plain cl t ∧
      (s.here.regs.ry a).poison = false ∧ 2 ≤ w.toNat ∧ s.localOk (localAddr (s.here.regs.ry a).val (2 ^ w.toNat) off) (2 ^ w.toNat) (2 ^ w.toNat) ∧
      (s.here.scalar cl t).poison = true) ∧
    (∃ (s : State) (g : Guard), s.here.enabled g = false) ∧ (∃ (s : State) (g : Guard) (a : BitVec 5), s.here.enabled g = true ∧ (s.here.regs.ry a).poison = true) ∧
    (∃ (s : State) (g : Guard) (a : BitVec 5), s.here.enabled g = true ∧ (s.here.regs.ry a).poison = false ∧ localAddr (s.here.regs.ry a).val 8 (0 : BitVec 7) % 8 ≠ 0) ∧
    (∃ (s : State) (g : Guard) (a : BitVec 5), s.here.enabled g = true ∧ (s.here.regs.ry a).poison = false ∧
      localAddr (s.here.regs.ry a).val 8 (1 : BitVec 7) % 8 = 0 ∧ ¬ s.localOk (localAddr (s.here.regs.ry a).val 8 (1 : BitVec 7)) 8 8) ∧
    (∃ w : Nat, 4 ≤ w / 2 ^ 26 ∧ w / 2 ^ 26 ≤ 8 ∧ w / 2 ^ 4 % 4 < 2) := by
  refine ⟨⟨full 2, p0, .y, 31, 1, 3, 0, by decide +kernel, calm_quiet rfl, fun _ => by decide +kernel, by decide +kernel, by decide +kernel,
      by unfold State.localOk; decide +kernel, by decide +kernel, by decide +kernel⟩,
    ⟨full 0, p0, .x, 31, 1, 3, 0, by decide +kernel, calm_quiet rfl, nofun, by decide +kernel, by decide +kernel,
      by unfold State.localOk; decide +kernel, by decide +kernel, by decide +kernel⟩,
    ⟨full 1, 1, 3, 0, calm_quiet rfl, by decide +kernel, by unfold State.localOk; decide +kernel, by decide +kernel, by decide +kernel⟩,
    ⟨dev { edges with regs := { edges.regs with x := vset edges.regs.x 9 ⟨7, true⟩ } }, p0, .x, 9, 1, 3, 0, by decide +kernel, calm_quiet rfl, nofun,
      by decide +kernel, by decide +kernel, by unfold State.localOk; decide +kernel, by decide +kernel⟩,
    ⟨dev base, ⟨false, 1⟩, by decide +kernel⟩, ⟨dev poisoned, p0, 1, by decide +kernel⟩, ⟨dev edges, p0, 2, by decide +kernel⟩,
    ⟨dev edges, p0, 1, by decide +kernel, by decide +kernel, by decide +kernel, by unfold State.localOk; decide +kernel⟩, ⟨0x10000000, by decide⟩⟩

theorem witness_LocalVectorAccesses :
    (∃ (s : State) (g : Guard) (i a : BitVec 5) (ew : BitVec 2) (off : BitVec 8), s.here.enabled g = true ∧ s.Quiet ∧ (s.here.regs.ry a).poison = false ∧
      s.localOk (localAddr (s.here.regs.ry a).val 256 off) (2 ^ ew.toNat) 256 ∧
      ∀ j < 64, s.localOk ((s.here.regs.ry a).val + (lane (s.here.regs.rv i) j).setWidth 64).toNat (2 ^ ew.toNat) (2 ^ ew.toNat)) ∧
    (∃ (s : State) (g : Guard) (a : BitVec 5) (ew : BitVec 2) (off : BitVec 8), s.here.enabled g = true ∧ s.Quiet ∧ (s.here.regs.ry a).poison = false ∧
      ¬ s.localOk (localAddr (s.here.regs.ry a).val 256 off) (2 ^ ew.toNat) 256) :=
  ⟨⟨dev (withV edges 1 (Vector.ofFn fun j : Fin 64 => BitVec.ofNat 32 (4 * j.val))), p0, 1, 3, 2, 0, by decide +kernel, calm_quiet rfl, by decide +kernel,
      by unfold State.localOk; decide +kernel, by unfold State.localOk; decide +kernel⟩,
    ⟨dev edges, p0, 3, 0, 1, by decide +kernel, calm_quiet rfl, by decide +kernel, by unfold State.localOk; decide +kernel⟩⟩

theorem witness_ScaleAccesses : ∃ (s : State) (g : Guard) (a : BitVec 5) (off : BitVec 11), s.here.enabled g = true ∧ s.Quiet ∧
    (s.here.regs.ry a).poison = false ∧ s.localOk (localAddr (s.here.regs.ry a).val 256 off) 4 256 :=
  ⟨dev edges, p0, 3, 0, by decide +kernel, calm_quiet rfl, by decide +kernel, by unfold State.localOk; decide +kernel⟩

/-- y1 names the last 16 bytes of a small page, y2 its last 8 and y3 its last 256; h1 is a page of HBM, h2 a loft page with its extent, h3 a
host page, h4 an arena page. -/
def pages : State :=
  let k := withH (withH (withH (withH (withY base [(1, 65520), (2, 65528), (3, 65280)]) 1 (page 0)) 2 { page 0 with tgt := 1, plane := 3 }) 3
    { page 0 with tgt := 2 }) 4 { page 0 with kv := true }
  { dev k with extents := [⟨3, 0, 65536, 0, none⟩] }

theorem pages_quiet : pages.Quiet := calm_quiet rfl

theorem witness_HandleScalarAccesses : ∀ hn : BitVec 4, hn = 1 ∨ hn = 2 ∨ hn = 3 →
    ∃ (s : State) (g : Guard) (cl : Cl) (t o o0 : BitVec 5) (w : BitVec 2) (disp : BitVec 3), s.here.enabled g = true ∧ s.Quiet ∧ s.here.plain cl t ∧
      (s.here.regs.ry o).poison = false ∧
      s.pageOk (s.here.regs.rh hn) ((s.here.regs.ry o).val + disp.setWidth 64 * BitVec.ofNat 64 (2 ^ w.toNat)).toNat (2 ^ w.toNat) (2 ^ w.toNat) true ∧
      s.pageOk (s.here.regs.rh hn) ((s.here.regs.ry o).val + disp.setWidth 64 * BitVec.ofNat 64 (2 ^ w.toNat)).toNat (2 ^ w.toNat) (2 ^ w.toNat) false ∧
      (s.here.regs.rh hn).lclass ≠ 0 ∧ (s.here.scalar cl t).poison = false ∧
      s.pageOk (s.here.regs.rh hn) (s.here.regs.ry o0).val.toNat 16 16 true ∧ s.pageOk (s.here.regs.rh hn) (s.here.regs.ry o0).val.toNat 16 16 false ∧
      (hn ≠ 3 → (s.here.regs.rh hn).tgt ≠ 2) ∧ (s.here.regs.ry t).poison = false ∧ (s.here.regs.ry (t + 1)).poison = false := by
  intro hn h
  refine ⟨pages, p0, .y, 30, 2, 1, 3, 0, by decide +kernel, pages_quiet, fun _ => by decide +kernel, by decide +kernel, ?_⟩
  rcases h with rfl | rfl | rfl <;> unfold State.pageOk <;> decide +kernel

theorem pages_inv : pages.Inv := ⟨rfl, rfl, rfl, rfl⟩

theorem witness_HandleVectorAccesses :
    (∀ hn : BitVec 4, hn = 1 ∨ hn = 2 ∨ hn = 3 → ∃ (s : State) (g : Guard) (o : BitVec 5) (ew : BitVec 2), s.here.enabled g = true ∧ s.Quiet ∧
      (s.here.regs.ry o).poison = false ∧ s.pageOk (s.here.regs.rh hn) (s.here.regs.ry o).val.toNat 256 (2 ^ ew.toNat) true ∧
      s.pageOk (s.here.regs.rh hn) (s.here.regs.ry o).val.toNat 256 4 true ∧
      s.pageOk (s.here.regs.rh hn) (s.here.regs.ry o).val.toNat 256 (2 ^ ew.toNat) false ∧ (s.here.regs.rh hn).lclass ≠ 0) ∧
    (∃ (s : State) (g : Guard) (hn : BitVec 4) (o : BitVec 5), s.here.enabled g = true ∧ s.Quiet ∧ (s.here.regs.ry o).poison = false ∧ s.Inv ∧
      s.pageOk (s.here.regs.rh hn) 0 8 1 true ∧ (s.here.regs.rh hn).lclass ≠ 0 ∧ (s.here.regs.rh hn).kv = true ∧ (s.here.regs.rh hn).tgt = 0 ∧
      (s.here.regs.rh hn).cview = 0 ∧ (s.here.regs.rh hn).size = 0) := by
  refine ⟨fun hn h => ⟨pages, p0, 3, 2, by decide +kernel, pages_quiet, by decide +kernel, ?_⟩,
    pages, p0, 4, 0, by decide +kernel, pages_quiet, by decide +kernel, pages_inv, ?_⟩
  · rcases h with rfl | rfl | rfl <;> unfold State.pageOk <;> decide +kernel
  · unfold State.pageOk; decide +kernel

def entry : QEntry := ⟨0, 0, 0, 3, page 0, 0, 5, false, true, none, false, false⟩

theorem witness_QueuedLoads :
    (∃ (s : State) (g : Guard) (q : BitVec 2) (hn : BitVec 4) (o : BitVec 5) (w : BitVec 2), s.here.enabled g = true ∧ s.Quiet ∧
      (s.here.regs.ry o).poison = false ∧ s.pageOk (s.here.regs.rh hn) (s.here.regs.ry o).val.toNat (2 ^ w.toNat) (2 ^ w.toNat) true ∧
      (s.here.queue q).length < 16) ∧
    (∀ es : List QEntry, es = List.replicate 16 entry ∨ es = [] ∨ es = [entry] ∨ es = [{ entry with arrived := false }] ∨
        es = [{ entry with failed := some (5, 0) }] →
      ∃ (s : State) (g : Guard) (cl : Cl) (t : BitVec 5) (q : BitVec 2), s.here.enabled g = true ∧ s.Quiet ∧ s.here.plain cl t ∧ s.here.queue q = es) := by
  refine ⟨⟨{ pages with ctxs := [(0, { pages.here with q := (Vector.replicate 4 []).set 3 (List.replicate 15 entry) })] }, p0, 3, 1, 2, 3, ?_, calm_quiet rfl, ?_, ?_, ?_⟩,
    fun es h => ⟨dev { base with q := (Vector.replicate 4 []).set 3 es }, p0, .y, 31, 3, ?_, by rcases h with rfl | rfl | rfl | rfl | rfl <;> exact calm_quiet rfl, fun _ => ?_, ?_⟩⟩
  · decide +kernel
  · decide +kernel
  · unfold State.pageOk; decide +kernel
  · decide +kernel
  all_goals rcases h with rfl | rfl | rfl | rfl | rfl <;> decide +kernel

theorem witness_Fences :
    (∃ (s : State) (g : Guard) (mask : BitVec 16), s.here.enabled g = true ∧ ∃ n < 16, mask.getLsbD n = true ∧ s.here.late (BitVec.ofNat 4 n) = true) ∧
    (∃ (s : State) (g : Guard) (mask : BitVec 16), s.here.enabled g = true ∧ (∀ n < 16, mask.getLsbD n = true → s.here.late (BitVec.ofNat 4 n) = false) ∧
      s.here.stores ≠ []) :=
  ⟨⟨dev (waitsFor base 15), p0, 0x8000, by decide +kernel⟩, ⟨dev { waitsFor base 15 with stores := [.store 0 0 0 0 [1] none] }, p0, 0x7FFF, by decide +kernel⟩⟩

theorem witness_lanes : ∀ f : Fmt, ∃ (s : State) (g : Guard), s.here.laneMask g ≠ 0 ∧ (fmtIn f → fmtAr f) ∧ (f = .fp32 → fmtFl f ∧ fmtRed f) :=
  fun f => ⟨dev base, p0, by cases f <;> decide +kernel⟩

/-- Statements over lanes: an integer format, each floating format and one that conversions alone take. -/
theorem witness_VectorIntegerLanes : ∃ (s : State) (g : Guard) (f : Fmt), s.here.laneMask g ≠ 0 ∧ fmtIn f := ⟨dev base, p0, .int8, by decide +kernel⟩

theorem witness_VectorFloatLanes : ∃ (s : State) (g : Guard) (f : Fmt), s.here.laneMask g ≠ 0 ∧ (f = .fp32 ∨ f = .bf16 ∨ f = .e4m3 ∨ f = .e5m2) ∧ fmtFl f :=
  ⟨dev (withP base 1 1), ⟨false, 1⟩, .fp32, by decide +kernel⟩

theorem witness_VectorMoves :
    (∃ (s : State) (g : Guard) (y : BitVec 5) (f : Fmt) (ln : BitVec 6), s.here.laneMask g ≠ 0 ∧ fmtAr f ∧ (s.here.regs.ry y).poison = false ∧
      (s.here.laneMask g).getLsbD ln.toNat = true) ∧
    (∃ (s : State) (g : Guard) (y : BitVec 5) (f : Fmt) (ln : BitVec 6), s.here.laneMask g ≠ 0 ∧ fmtAr f ∧ (s.here.regs.ry y).poison = false ∧
      (s.here.laneMask g).getLsbD ln.toNat = false) :=
  ⟨⟨dev base, p0, 31, .e5m2, 63, by decide +kernel⟩, ⟨dev (withP base 1 1), ⟨false, 1⟩, 31, .int8, 63, by decide +kernel⟩⟩

theorem witness_VectorCompares :
    (∃ (s : State) (g : Guard) (f : Fmt), s.here.laneMask g ≠ 0 ∧ fmtAr f ∧ fmtIn f) ∧
    (∀ nan : Bool, ∃ (s : State) (g : Guard) (f : Fmt) (a b : BitVec 5), s.here.laneMask g ≠ 0 ∧ fmtAr f ∧ ¬ fmtIn f ∧
      (numLane f (s.here.regs.rv a) 0).isNan = nan ∧ (numLane f (s.here.regs.rv b) 0).isNan = false) :=
  ⟨⟨dev base, p0, .int32, by decide +kernel⟩,
    fun nan => ⟨dev (withV base 1 (lanesFrom [if nan then 0x7FC00000 else 0x80000000])), p0, .fp32, 1, 2, by cases nan <;> decide +kernel⟩⟩

theorem witness_VectorConversions :
    (∃ (s : State) (g : Guard) (src dst : Fmt), s.here.laneMask g ≠ 0 ∧ fmtArMx src ∧ fmtArMx dst) ∧
    (∃ (s : State) (g : Guard) (src dst : Fmt) (hs : BitVec 3), s.here.laneMask g ≠ 0 ∧ fmtPk src ∧ fmtArMx dst ∧ hs.toNat < src.parts) ∧
    (∃ (s : State) (g : Guard) (src dst : Fmt) (hs : BitVec 3), s.here.laneMask g ≠ 0 ∧ fmtArMx src ∧ fmtPk dst ∧ hs.toNat < dst.parts) :=
  ⟨⟨dev base, p0, .fp32, .mxfp4, by decide +kernel⟩, ⟨dev base, p0, .mxint6, .fp32, 4, by decide +kernel⟩,
    ⟨dev base, p0, .bf16, .mxint4, 7, by decide +kernel⟩⟩

theorem witness_VectorReductions : ∀ f : Fmt, f = .int32 ∨ f = .fp32 → ∃ (s : State) (g : Guard) (rnd : BitVec 3), s.here.laneMask g ≠ 0 ∧ fmtRed f ∧
    rnd.getLsbD 2 = false ∧ (s.here.laneMask g).getLsbD 63 = true :=
  fun _ h => ⟨dev base, p0, 0, by rcases h with rfl | rfl <;> decide +kernel⟩

theorem witness_VectorMerges : ∀ mode : BitVec 2, ∃ (s : State) (g : Guard) (m : BitVec 2), s.here.laneMask g ≠ 0 ∧ m = mode :=
  fun mode => ⟨dev base, p0, mode, by decide +kernel, rfl⟩

/-- y1 is operand A in bank group 0, y2 operand B in group 1, y3 misaligned, y4 at the window's end in the last group, y5 and y6 B and A with
pitch 9. -/
def operands : Ctx :=
  withY base [(1, 0x1000), (2, 0x180000), (3, 0x1080), (4, 0x5FC000), (5, 0x900180000), (6, 0x900001000)]

theorem dev_takesM {k : Ctx} (h : k.late 0 = false) : (dev k).takesM := ⟨fun _ h => (nomatch h), h⟩

theorem witness_Products :
    (∃ (s : State) (g : Guard) (ac a b : BitVec 5) (f : Fmt) (ca : Bool), s.here.enabled g = true ∧ s.takesM ∧
      (f.isMx = true → ∀ c ∈ s.mcmds, c.ctx = s.cur → c.op.scales = []) ∧ (s.here.regs.ry a).poison = false ∧ (s.here.regs.ry b).poison = false ∧
      s.opndOk (opndOf (s.here.regs.ry a).val) (imageBytes f ca) ∧ s.opndOk (opndOf (s.here.regs.ry b).val) (imageBytes f false) ∧
      bankGroup (opndOf (s.here.regs.ry a).val).base ≠ bankGroup (opndOf (s.here.regs.ry b).val).base ∧ s.here.hasTile ac.toNat = true) ∧
    (∃ (s : State) (g : Guard) (a b : BitVec 5), s.here.enabled g = true ∧ (s.here.regs.ry a).poison = false ∧ (s.here.regs.ry b).poison = false ∧
      (opndOf (s.here.regs.ry a).val).base % 256 ≠ 0) ∧
    (∃ (s : State) (g : Guard) (a b : BitVec 5) (f : Fmt) (ca : Bool), s.here.enabled g = true ∧ (s.here.regs.ry a).poison = false ∧
      (s.here.regs.ry b).poison = false ∧ s.opndOk (opndOf (s.here.regs.ry a).val) (imageBytes f ca) ∧
      s.opndOk (opndOf (s.here.regs.ry b).val) (imageBytes f false) ∧
      bankGroup (opndOf (s.here.regs.ry a).val).base = bankGroup (opndOf (s.here.regs.ry b).val).base) ∧
    (∃ (s : State) (g : Guard) (ac a b : BitVec 5) (f : Fmt) (ca : Bool), s.here.enabled g = true ∧ (s.here.regs.ry a).poison = false ∧
      (s.here.regs.ry b).poison = false ∧ s.opndOk (opndOf (s.here.regs.ry a).val) (imageBytes f ca) ∧
      s.opndOk (opndOf (s.here.regs.ry b).val) (imageBytes f false) ∧
      bankGroup (opndOf (s.here.regs.ry a).val).base ≠ bankGroup (opndOf (s.here.regs.ry b).val).base ∧ s.here.hasTile ac.toNat = false) := by
  refine ⟨⟨dev operands, p0, 31, 6, 4, .mxint8, true, by decide +kernel, dev_takesM rfl, fun _ _ h => (nomatch h), ?_⟩,
    ⟨dev operands, p0, 3, 2, ?_⟩, ⟨dev operands, p0, 1, 6, .int8, false, ?_⟩, ⟨dev { operands with acn := 31 }, p0, 31, 1, 5, .bf16, false, ?_⟩⟩ <;>
    (try unfold State.opndOk) <;> decide +kernel

theorem dev_inv (k : Ctx) : (dev k).Inv := ⟨rfl, rfl, rfl, rfl⟩

theorem witness_MatrixCommandsIssue : ∃ (s : State) (g : Guard) (ac src y : BitVec 5) (f : Fmt) (cmp : Bool), s.here.enabled g = true ∧ s.takesM ∧
    (s.here.regs.ry y).poison = false ∧ s.here.hasTile ac.toNat = true ∧ s.here.hasTile src.toNat = true ∧
    s.opndOk (opndOf (s.here.regs.ry y).val) (imageBytes f cmp) ∧ s.opndOk (opndOf (s.here.regs.ry y).val) 16384 ∧ s.Inv ∧
    s.writeBusy (coreOf s.cur) ac.toNat = false :=
  ⟨dev operands, p0, 31, 0, 4, .fp32, false, by decide +kernel, dev_takesM rfl, by decide +kernel, by decide +kernel, by decide +kernel,
    by unfold State.opndOk; decide +kernel, by unfold State.opndOk; decide +kernel, dev_inv _, by decide +kernel⟩

/-- A step record with M = 2, N = 3, S = 1 for mcon, or M = 0 for mord, at 0x1000; b1 is a boundary of 3 rows, capacity 1 and bond 4; w0 has
delivered from bin 8, which the context drains, and which holds a core of L = 4, M * N = 6, R = 5 in bf16. -/
def chains (op m : Nat) : State :=
  let w : Cursor := BitVec.ofNat 256 (2 * 2 ^ 252 + 1 * 2 ^ 248 + 1 * 2 ^ 245 + 1 * 2 ^ 240)
  let k := withY { base with regs := { Regs.reset with b := vset Regs.reset.b 1 (bWord 3 0 1 4), w := vset Regs.reset.w 0 w } } [(1, 0x1000)]
  let core : List Byte := leBytes 4 1 ++ leBytes 4 5 ++ leBytes 4 240 ++ leBytes 4 0 ++ leBytes 2 4 ++ leBytes 2 6 ++ leBytes 2 5 ++ List.replicate 10 0
  { dev k with
    bins := [(binKey 0 8, { Bin.free with state := 3, readers := 1, base := 0x2000, size := 1024, tenant := some 0 })]
    mem := writeCells (writeCells [] (spadKey 0 0x1000) (leBytes 8 (m + 3 * 2 ^ 16 + 1 * 2 ^ 32 + op * 2 ^ 48))) (spadKey 0 0x2040) core }

theorem witness_BoundaryCommandsIssue :
    (∃ (s : State) (g : Guard) (ac : BitVec 5) (bd : BitVec 3) (y : BitVec 5), s.here.enabled g = true ∧ s.Quiet ∧ (s.here.regs.ry y).poison = false ∧
      let at_ := (s.here.regs.ry y).val.toNat
      let r : W64 := BitVec.ofNat 64 (leNat (s.spadBytes at_ 8))
      let b := s.here.regs.rb bd
      s.localOk at_ 8 8 ∧ boundaryOk s.here ac.toNat b = true ∧ bRows b % (recN r * recS r) = 0 ∧ recordOk r 1 = true) ∧
    (∃ (s : State) (g : Guard) (ac : BitVec 5) (wc bd : BitVec 3) (y : BitVec 5) (f : Fmt), s.here.enabled g = true ∧ s.Quiet ∧
      (s.here.regs.ry y).poison = false ∧
      let at_ := (s.here.regs.ry y).val.toNat
      let r : W64 := BitVec.ofNat 64 (leNat (s.spadBytes at_ 8))
      let b := s.here.regs.rb bd
      let w := s.here.regs.rw wc
      let bin := s.bin (binKey (clusterOf s.cur) (w.bin (w.next + w.depth - 1)))
      let c := coreRec (s.spadBytes (bin.base.toNat + 64) 32)
      let dir := r.getLsbD 56
      s.localOk at_ 8 8 ∧ boundaryOk s.here ac.toNat b = true ∧ bRows b % (recN r * recS r) = 0 ∧ recordOk r 0 = true ∧ w.state = 2 ∧ bin.state = 3 ∧
      bin.tenant = some s.here.sr.tenant ∧ c.ok = true ∧ c.fmt = f.code ∧ c.md = recM r * recN r ∧ (if dir then c.rb else c.lb) = bBond b ∧
      bRows b / recN r * recM r ≤ 64 * bCap b) := by
  refine ⟨⟨chains 1 0, p0, 30, 1, 1, by decide +kernel, calm_quiet rfl, by decide +kernel, ?_⟩,
    ⟨chains 0 2, p0, 30, 0, 1, 1, .bf16, by decide +kernel, calm_quiet rfl, by decide +kernel, ?_⟩⟩ <;> unfold State.localOk <;> decide +kernel

/-- One matrix command of context 0. -/
def commandM (op : MOp) (st : Stage) : MCmd := { id := 0, ctx := 0, op := op, stage := st, seq := 0, addr := 0, lvl := 0, due := 0, after := [], live := true }

def withM (op : MOp) (st : Stage) : State := { dev base with mcmds := [commandM op st] }

/-- One of each kind of matrix command, with operands at the ends of their ranges. -/
def effectOps : List MOp :=
  let z := Lanes.zero
  let a : Opnd := ⟨0x1000, 1⟩
  let b : Opnd := ⟨0x180000, 9⟩
  [.mma true .int8 false none 0 a b z z z z, .mma false .bf16 true none 31 a b z z z z,
    .mma false .mxfp4 true (some (Vector.replicate 64 (some 63))) 0 a b z z z z, .mrot 31 (BitVec.allOnes 64), .mdrain 31 a .fp32 0 false 0,
    .mdrain 0 b .mxint8 7 true 3, .mldac 31 b, .mstac 31 a, .mcon .int8 0 0x100020001 false (bWord 4 0 1 64) (bWord 2 1 1 5) 64 2 5 0x1000,
    .mcon .e4m3 30 0x100020001 true (bWord 4 1 1 1) (bWord 2 0 1 64) 64 2 1 0x1000, .mord 30 0x100020001 (bWord 4 0 1 64), .mzero 31, .mcopy 31 0 true,
    .mvac 31 63 z, .mhld 63 5, .mdmap 63 7, .mdclr]

/-- Element (0, 0) of tile 0 is 1.0, and the rest of the block is zero. -/
def oneState : State := { withM (.mdrain 0 ⟨0x1000, 1⟩ .mxfp4 7 true 3) .started with tiles := [(0, 0x3F800000)] }

theorem oneState_sizes : ∀ k < 32, fp32 (oneState.tileElem 0 0 0 k).toNat = if k = 0 then .fin false 0x800000 (-23) else .fin false 0 (-149) := by
  decide +kernel

theorem witness_MatrixEffects :
    (∀ op ∈ effectOps, (withM op .started).Inv ∧ (withM op .started).findM 0 = some (commandM op .started)) ∧
    (∀ op ∈ effectOps, op.touches = true → ∀ d ∈ (withM op .started).mcmds, d.id < 0 → d.op.touches = false) ∧
    (∀ op ∈ effectOps, ∀ f ac rec dir old new lb md rb p, op = .mcon f ac rec dir old new lb md rb p → bSide new ≠ bSide old ∧ bBond old ≤ 64) ∧
    (∃ (s : State) (e : Int), s.Inv ∧ s.findM 0 = some (commandM (.mdrain 0 ⟨0x1000, 1⟩ .mxfp4 7 true 3) .started) ∧
      let v (k : Nat) : Machine.Num := fp32 (s.tileElem 0 0 0 k).toNat
      (∀ k < 32, (v k).isNan = false) ∧ (∃ k < 32, (v k).isZero = false) ∧
      ∀ n : Int, (∀ k < 32, (v k).size ≤ (((emax .mxfp4 : ℚ) * 2 ^ n : ℚ) : WithTop ℚ)) ↔ e ≤ n) := by
  refine ⟨fun op _ => ⟨⟨rfl, rfl, rfl, rfl⟩, rfl⟩, fun op _ _ d hd h => absurd h (by omega), ?_, oneState, -2, ⟨rfl, rfl, rfl, rfl⟩, rfl, by decide +kernel, ⟨0, by decide +kernel⟩, fun n => ?_⟩
  · intro op h f ac rec dir old new lb md rb p hop
    subst hop
    simp only [effectOps, List.mem_cons, reduceCtorEq, MOp.mcon.injEq, List.not_mem_nil, false_or, or_false] at h
    obtain ⟨-, -, -, -, rfl, rfl, -⟩ | ⟨-, -, -, -, rfl, rfl, -⟩ := h <;> decide +kernel
  · have pos : (0 : ℚ) < 2 ^ n := by positivity
    constructor
    · intro h
      have h0 := h 0 (by omega)
      simp only [oneState_sizes 0 (by omega)] at h0
      have h1 : ((0x800000 : Nat) * 2 ^ (-23 : Int) : ℚ) ≤ (6 : Nat) * 2 ^ n := WithTop.coe_le_coe.mp h0
      by_contra hn
      have : (2 : ℚ) ^ n ≤ 2 ^ (-3 : Int) := zpow_le_zpow_right₀ (by norm_num) (by omega)
      norm_num at h1 this
      linarith
    · intro h k hk
      have : (2 : ℚ) ^ (-2 : Int) ≤ 2 ^ n := zpow_le_zpow_right₀ (by norm_num) h
      simp only [oneState_sizes k hk]
      split
      · refine WithTop.coe_le_coe.mpr (?_ : ((0x800000 : Nat) * 2 ^ (-23 : Int) : ℚ) ≤ (6 : Nat) * 2 ^ n)
        norm_num at this ⊢
        linarith
      · refine WithTop.coe_le_coe.mpr (?_ : ((0 : Nat) * 2 ^ (-149 : Int) : ℚ) ≤ (6 : Nat) * 2 ^ n)
        simp only [Nat.cast_zero, zero_mul]
        positivity

theorem witness_MatrixCommandSteps :
    (∃ (s : State) (c : MCmd), s.findM c.id = some c ∧ c.stage = .buffer ∧ mRoom s (coreOf c.ctx) c.op = true) ∧
    (∃ (s : State) (c : MCmd), s.findM c.id = some c ∧ c.stage = .queued ∧ c.waitsFor s = false ∧
      (∀ d ∈ s.mcmds, coreOf d.ctx = coreOf c.ctx → d.op.drain = c.op.drain → d.stage ≠ .started ∧ (d.stage = .queued → c.id ≤ d.id)) ∧
      ∀ i ∈ c.after, i ∉ s.outstanding c.ctx) ∧
    (∃ (s : State) (c : MCmd), s.findM c.id = some c ∧ c.stage = .started) :=
  ⟨⟨withM (.mzero 0) .buffer, commandM (.mzero 0) .buffer, by decide +kernel⟩, ⟨withM (.mzero 0) .queued, commandM (.mzero 0) .queued, by decide +kernel⟩,
    ⟨withM (.mzero 0) .started, commandM (.mzero 0) .started, by decide +kernel⟩⟩

theorem dev_takesCommand (k : Ctx) : (dev k).takesCommand := ⟨fun _ h => (nomatch h), show 0 < 64 by decide⟩

/-- The quad of y8 to y11. -/
def quadOf (a b c d : W64) : Ctx := withY base [(8, a), (9, b), (10, c), (11, d)]

theorem witness_TransfersIssue :
    (∀ st ctl, (st, ctl) = (true, 0) ∨ (st, ctl) = (false, 0x8005000000000402) ∨ (st, ctl) = (false, 0x8005000000000001) →
      ∃ (s : State) (g : Guard) (hn : BitVec 4) (q : BitVec 3), s.here.enabled g = true ∧ s.takesCommand ∧ s.quadClean q [0, 1, 2, 3] ∧
        s.quadVal q 3 = ctl ∧ (s.here.regs.rh hn).grants st ∧ s.optionsOk st ctl ∧ (s.quadVal q 0).toNat % 32 = 0 ∧
        (s.quadVal q 2).toNat % 32 = 0 ∧ 32 ≤ (s.quadVal q 2).toNat ∧ (s.quadVal q 2).toNat ≤ 1048576 ∧
        (ctlExp ctl = true → (s.quadVal q 2).toNat % (512 * ctlWidth ctl) = 0) ∧
        (s.quadVal q 0).toNat + pageSpan ctl (s.quadVal q 2).toNat ≤ pageBytes (s.here.regs.rh hn).size ∧
        lwKind (s.quadVal q 1) = 0 ∧ lwAddr (s.quadVal q 1) % 32 = 0 ∧ s.here.allots (lwAddr (s.quadVal q 1)) (s.quadVal q 2).toNat = true) ∧
    (∃ (s : State) (g : Guard) (hn : BitVec 4) (q : BitVec 3), s.here.enabled g = true ∧ s.takesCommand ∧ s.quadClean q [0, 1, 2, 3] ∧
      (s.here.regs.rh hn).grants true ∧ s.optionsOk true (s.quadVal q 3) ∧ lwKind (s.quadVal q 1) = 1 ∧ (s.quadVal q 2).toNat = 16384 ∧
      ctlBin (s.quadVal q 3) = false ∧ ctlExp (s.quadVal q 3) = false ∧ ctlFull (s.quadVal q 3) = false ∧ lwAddr (s.quadVal q 1) / 32 = 0 ∧
      s.here.hasTile (lwAddr (s.quadVal q 1)) = true ∧
      (s.quadVal q 0).toNat + pageSpan (s.quadVal q 3) 16384 ≤ pageBytes (s.here.regs.rh hn).size) ∧
    (∃ (s : State) (g : Guard) (hn : BitVec 4) (q : BitVec 3), s.here.enabled g = true ∧ s.takesCommand ∧ s.quadClean q [0, 1, 2, 3] ∧
      (s.here.regs.rh hn).grants false ∧ s.optionsOk false (s.quadVal q 3) ∧
      let cnt := (s.quadVal q 2).toNat % 2 ^ 32
      let row := (s.quadVal q 2).toNat / 2 ^ 32
      row % 32 = 0 ∧ 32 ≤ row ∧ row ≤ 4096 ∧ 1 ≤ cnt ∧ cnt ≤ 4096 ∧ cnt * row ≤ 1048576 ∧ lwKind (s.quadVal q 1) = 0 ∧
      lwAddr (s.quadVal q 1) % 32 = 0 ∧ s.here.allots (lwAddr (s.quadVal q 1)) (cnt * row) = true ∧ (s.quadVal q 0).toNat % 4 = 0 ∧
      s.here.allots (s.quadVal q 0).toNat (4 * cnt) = true) ∧
    (∃ (s : State) (g : Guard) (hn : BitVec 4) (q : BitVec 3), s.here.enabled g = true ∧ s.takesCommand ∧ s.quadClean q [0, 1, 3] ∧
      (s.here.regs.rh hn).grants false ∧ s.optionsOk false (s.quadVal q 3) ∧ lwKind (s.quadVal q 1) = 0 ∧ lwAddr (s.quadVal q 1) % 32 = 0 ∧
      let l := s.here.regs.rl ((s.quadVal q 0).setWidth 3)
      l.toNat % 2 ^ 23 % 32 = 0 ∧ s.here.allots (l.toNat % 2 ^ 23) 32 = true) ∧
    (∃ (s : State) (g : Guard) (hn : BitVec 4) (q : BitVec 3), s.here.enabled g = true ∧ s.takesCommand ∧ s.quadClean q [0, 1, 2, 3] ∧
      (s.here.regs.rh hn).grants false ∧
      let h := s.here.regs.rh hn
      let m := (s.quadVal q 3).toNat % 2 ^ 16
      let kk := (s.quadVal q 3).toNat / 2 ^ 16 % 2 ^ 16
      let w := if h.bankl = 1 then 1 else 2
      (h.bankl = 1 ∨ h.bankl = 2) ∧ (s.quadVal q 0).toNat % 256 = 0 ∧ (s.quadVal q 1).toNat % 32 = 0 ∧ (s.quadVal q 2).toNat % 32 = 0 ∧ 1 ≤ m ∧ m ≤ 4096 ∧
      64 ≤ kk ∧ kk ≤ 16384 ∧ kk % 64 = 0 ∧ (s.quadVal q 0).toNat + m * kk * w ≤ pageBytes h.size ∧ s.here.allots (s.quadVal q 1).toNat (kk * w) = true ∧
      s.here.allots (s.quadVal q 2).toNat (4 * m) = true) ∧
    (∃ (s : State) (g : Guard) (hn : BitVec 4) (q : BitVec 3), s.here.enabled g = true ∧ s.takesCommand ∧ s.quadClean q [0, 1, 2, 3] ∧
      (s.here.regs.rh hn).grants true ∧ (s.quadVal q 0).toNat % 32 = 0 ∧ (s.quadVal q 3).toNat % 32 = 0 ∧ 32 ≤ (s.quadVal q 3).toNat ∧
      (s.quadVal q 3).toNat ≤ 16777216 ∧ (s.quadVal q 0).toNat + (s.quadVal q 3).toNat ≤ pageBytes (s.here.regs.rh hn).size) := by
  refine ⟨fun st ctl h => ⟨dev (withH (quadOf 0 0x500000 1048576 ctl) 1 (page 1)), p0, 1, 2, ?_, dev_takesCommand _, ?_⟩,
    ⟨dev (withH (quadOf 49152 0x400000000000001F 16384 0) 1 (page 0)), p0, 1, 2, by decide +kernel, dev_takesCommand _, ?_⟩,
    ⟨dev (withH (quadOf 0x100000 0x200000 0x0000100000000100 0) 1 (page 0)), p0, 1, 2, by decide +kernel, dev_takesCommand _, ?_⟩,
    ⟨dev (withH (quadOf 7 0x200000 0 0) 1 (page 0)), p0, 1, 2, by decide +kernel, dev_takesCommand _, ?_⟩,
    ⟨dev (withH (quadOf 0 0x100000 0x200000 (1 + 16384 * 2 ^ 16)) 1 { page 0 with bankl := 2 }), p0, 1, 2, by decide +kernel, dev_takesCommand _, ?_⟩,
    ⟨dev (withH (quadOf 0 0 0 16777216) 1 (page 2)), p0, 1, 2, by decide +kernel, dev_takesCommand _, ?_⟩⟩
  · obtain h | h | h := h <;> cases h <;> rfl
  · obtain h | h | h := h <;> cases h <;> unfold State.quadClean State.optionsOk State.binMine Handle.grants <;> decide +kernel
  all_goals
    (try unfold State.optionsOk State.binMine); unfold State.quadClean Handle.grants; decide +kernel

theorem witness_UnitCommandsIssue :
    (∀ late : Bool, ∃ (s : State) (g : Guard) (q : BitVec 3) (cls : BitVec 4), s.here.enabled g = true ∧ s.takesCommand ∧ s.quadClean q [0, 1] ∧
      s.binMine ((s.quadVal q 0).toNat / 2 ^ 48 % 2 ^ 8) ∧ s.semOk s.cur (s.quadVal q 0) = true ∧ s.here.late cls = late) ∧
    (∀ z : W64, z = 1 ∨ z = 257 → ∃ (s : State) (g : Guard) (wc q : BitVec 3), s.here.enabled g = true ∧ s.takesCommand ∧ s.quadClean q [0, 1, 2, 3] ∧
      let land := (s.quadVal q 2).toNat % 2 ^ 23
      let n := (s.quadVal q 2).toNat / 2 ^ 32 % 2 ^ 16
      let d := (s.quadVal q 3).toNat / 2 ^ 16 % 8 + 1
      let grp := (s.quadVal q 3).toNat / 2 ^ 24 % 32
      n = z.toNat ∧ ((s.here.regs.rw wc).state = 0 ∨ (s.here.regs.rw wc).state = 3 ∨ (s.here.regs.rw wc).state = 4) ∧ land % 128 = 0 ∧ 1 ≤ n ∧
      n ≤ 257 ∧ s.here.allots land (256 * n * d) = true ∧ ∀ i < d, s.binMine (8 * grp + i)) ∧
    (∃ (s : State) (g : Guard) (wc q : BitVec 3), s.here.enabled g = true ∧ s.takesCommand ∧ s.quadClean q [0] ∧ (s.quadVal q 0).toNat % 32 = 0 ∧
      s.here.allots (s.quadVal q 0).toNat 32 = true ∧ s.here.late 0 = false ∧ (s.here.regs.rw wc).state ∉ [1, 2, 5]) := by
  refine ⟨fun late => ⟨{ dev (waitsFor (quadOf 0 0 0 0) 5) with semTen := [(0, 0)] }, p0, 2, if late then 5 else 6, rfl,
      ⟨fun _ h => (nomatch h), show 0 < 64 by decide⟩, ?_⟩,
    fun z h => ⟨dev (quadOf 0 0 (z <<< 32 + 0x80) 0x1F070000), p0, 0, 2, ?_, dev_takesCommand _, ?_⟩,
    ⟨dev (quadOf 0x5FFFE0 0 0 0), p0, 0, 2, by decide +kernel, dev_takesCommand _, ?_⟩⟩
  · cases late <;> unfold State.quadClean State.binMine <;> decide +kernel
  · rcases h with rfl | rfl <;> decide +kernel
  · rcases h with rfl | rfl <;> unfold State.quadClean State.binMine <;> decide +kernel
  · unfold State.quadClean; decide +kernel

theorem witness_TaskAndFabricCommandsIssue :
    (∃ (s : State) (g : Guard) (q : BitVec 3), s.here.enabled g = true ∧ s.takesCommand ∧ s.quadClean q [0] ∧ descOk (s.quadVal q 0) = true) ∧
    (∀ hf : Bool, ∃ (s : State) (g : Guard) (hn : BitVec 4) (q : BitVec 3), s.here.enabled g = true ∧ s.takesCommand ∧ s.quadClean q [0, 1] ∧
      (s.quadVal q 0).toNat % 128 = 0 ∧ (if hf then (s.here.regs.rh hn).valid = true ∧ (s.here.regs.rh hn).r = true ∧
        (s.quadVal q 0).toNat + 128 ≤ pageBytes (s.here.regs.rh hn).size else s.here.allots (s.quadVal q 0).toNat 128 = true)) ∧
    (∃ (s : State) (g : Guard) (n : BitVec 4) (q : BitVec 3), s.here.enabled g = true ∧ s.takesCommand ∧ s.quadClean q [0] ∧
      vget s.here.f n.toNat .unbound = .unbound ∧ (s.quadVal q 0).toNat / 2 ^ 37 % 32 < 24 ∧ (s.quadVal q 0).toNat / 2 ^ 52 = s.device.toNat / 256 ∧
      alGet s.claims (clusterOf s.cur * 256 + (s.quadVal q 0).toNat % 256) = none) ∧
    (∃ (s : State) (g : Guard) (n : BitVec 4) (ch : BitVec 8), s.here.enabled g = true ∧ s.takesCommand ∧ vget s.here.f n.toNat .unbound = .recv ch) ∧
    (∃ (s : State) (g : Guard) (n : BitVec 4) (i : Nat), s.here.enabled g = true ∧ s.takesCommand ∧ vget s.here.f n.toNat .unbound = .send i) := by
  refine ⟨⟨dev (quadOf 0x9040010900020000 0 0 0), p0, 2, by decide +kernel, dev_takesCommand _, ?_⟩,
    fun hf => ⟨dev (withH (quadOf 65408 0 0 0) 1 (page 0)), p0, 1, 2, by decide +kernel, dev_takesCommand _, ?_⟩,
    ⟨dev (quadOf (BitVec.ofNat 64 (23 * 2 ^ 37 + 255)) 0 0 0), p0, 15, 2, by decide +kernel, dev_takesCommand _, ?_⟩,
    ⟨bound, p0, 0, 3, by decide +kernel, ⟨fun _ h => (nomatch h), by decide +kernel⟩, by decide +kernel⟩,
    ⟨bound, p0, 15, 9, by decide +kernel, ⟨fun _ h => (nomatch h), by decide +kernel⟩, by decide +kernel⟩⟩
  · unfold State.quadClean; decide +kernel
  · cases hf <;> unfold State.quadClean <;> decide +kernel
  · unfold State.quadClean; decide +kernel

/-- A bin of cluster 0. -/
def withBins (k : Ctx) (l : List (Nat × Bin)) : State := { dev k with bins := l.map fun p => (binKey 0 p.1, p.2) }

def fullBin : Bin := ⟨2, false, 0, 256, 0x2000, some 0⟩

theorem witness_QueriesAnswer :
    (∃ (s : State) (g : Guard) (ka kb kc : BitVec 4), s.here.enabled g = true ∧ s.allComplete [ka, kb, kc]) ∧
    (∃ (s : State) (g : Guard) (q : BitVec 3), s.here.enabled g = true ∧ s.allComplete [0, 0] ∧ s.quadClean q [0] ∧
      let b := s.myBin ((s.quadVal q 0).toNat / 2 ^ 48 % 2 ^ 8)
      b.tenant = some s.here.sr.tenant ∧ b.poison = false ∧ b.state = 2) ∧
    (∃ (s : State) (g : Guard) (q : BitVec 3), s.here.enabled g = true ∧ s.allComplete [0, 0] ∧ s.quadClean q [0] ∧
      let b := s.myBin ((s.quadVal q 0).toNat / 2 ^ 48 % 2 ^ 8)
      b.tenant = some s.here.sr.tenant ∧ b.poison = false ∧ b.state = 3 ∧ b.readers < 255) ∧
    (∃ (s : State) (g : Guard) (q : BitVec 3) (j : Nat), s.here.enabled g = true ∧ s.allComplete [0, 0] ∧ s.quadClean q [0] ∧ j < 8 ∧
      let v := s.quadVal q
      let place (e : Nat) := (s.here.rot.toNat + e) % 8
      let at_ (e : Nat) := 8 * ((v 0).toNat / 2 ^ 51 % 32) + place e
      let wanted (e : Nat) : Prop := (v 0).getLsbD (place e) = true ∧ (s.myBin (at_ e)).tenant = some s.here.sr.tenant
      wanted j ∧ (s.myBin (at_ j)).poison = false ∧ (s.myBin (at_ j)).state = 2 ∧
        ∀ e < j, wanted e → (s.myBin (at_ e)).poison = false ∧ (s.myBin (at_ e)).state ≠ 2) ∧
    (∃ (s : State) (g : Guard) (q : BitVec 3), s.here.enabled g = true ∧ s.Quiet ∧ s.allComplete [0, 0] ∧ s.semOk s.cur (s.quadVal q 0) = true ∧
      s.quadClean q [0, 1] ∧ s.quadClean q [2]) := by
  refine ⟨⟨dev base, p0, 0, 0, 0, ?_⟩, ⟨withBins (quadOf 0x00FF000000000000 0 0 0) [(255, fullBin)], p0, 2, ?_⟩,
    ⟨withBins (quadOf 0x00FF000000000000 0 0 0) [(255, { fullBin with state := 3, readers := 254 })], p0, 2, ?_⟩,
    ⟨withBins (quadOf 0x00F80000000000FF 0 0 0) [(248, { fullBin with state := 1 }), (255, fullBin)], p0, 2, 7, ?_⟩,
    ⟨{ dev (quadOf 0 0 0 0) with semTen := [(0, 0)] }, p0, 2, by decide +kernel, calm_quiet rfl, ?_⟩⟩ <;>
    (try unfold State.quadClean) <;> unfold State.allComplete <;> decide +kernel

/-- A walk of context 0 that has landed a sheaf in bin 8, which is full, or that has ended or stopped where wnext stands. -/
def walking (landed : List Landed) (armed : Bool) (endAt : Option Nat) (reason : Option (Nat × Nat × BitVec 128)) : State :=
  let w : Cursor := BitVec.ofNat 256 (1 * 2 ^ 252 + 1 * 2 ^ 240)
  { withBins { base with regs := { Regs.reset with w := vset Regs.reset.w 7 w } } [(8, fullBin)] with
    walks := [⟨0, 0, 7, 0, 1, 0, 1, false, false, false, 0, none, landed, 0, armed, endAt, reason, false⟩] }

def landed : State := walking [⟨0, 8, 0⟩] false (some 1) none

def cursors (st : Nat) : State :=
  dev { base with regs := { Regs.reset with w := vset Regs.reset.w 0 (BitVec.ofNat 256 (st * 2 ^ 252)) } }

theorem witness_WaitsAnswer :
    (∀ st, st = 3 ∨ st = 4 → ∃ (s : State) (g : Guard) (wc : BitVec 3), s.here.enabled g = true ∧ s.allComplete [0, 0] ∧
      (s.here.regs.rw wc).state = st ∧ (s.here.regs.rw wc).reason = 0) ∧
    (∃ (s : State) (g : Guard) (wc : BitVec 3) (x : Walk), s.here.enabled g = true ∧ s.allComplete [0, 0] ∧ (s.here.regs.rw wc).state = 1 ∧
      s.walkOf s.cur wc.toNat = some x ∧ x.endAt = some x.delivered) ∧
    (∀ n armed, (n, armed) ∈ [(1, false), (6, true), (7, false), (8, true), (10, true)] →
      ∃ (s : State) (g : Guard) (wc : BitVec 3) (x : Walk) (link : BitVec 128), s.here.enabled g = true ∧ s.allComplete [0, 0] ∧
        (s.here.regs.rw wc).state = 1 ∧ s.walkOf s.cur wc.toNat = some x ∧ x.endAt ≠ some x.delivered ∧ x.reason = some (x.delivered, n, link) ∧
        x.armed = armed ∧ ((s.here.regs.rw wc).budget = 0)) ∧
    (∃ (s : State) (g : Guard) (wc : BitVec 3) (x : Walk) (l : Landed) (ls : List Landed), s.here.enabled g = true ∧ s.allComplete [0, 0] ∧
      (s.here.regs.rw wc).state = 1 ∧ s.walkOf s.cur wc.toNat = some x ∧ x.endAt ≠ some x.delivered ∧ x.reason = none ∧ x.landed = l :: ls ∧
      (s.myBin ((s.here.regs.rw wc).bin (s.here.regs.rw wc).next)).state = 2 ∧ (s.myBin ((s.here.regs.rw wc).bin (s.here.regs.rw wc).next)).poison = false) ∧
    (∃ (s : State) (g : Guard) (q : BitVec 3), s.here.enabled g = true ∧ s.allComplete [0, 0] ∧ s.quadClean q [0, 1] ∧
      let size := (s.quadVal q 0).toNat
      let p := (s.quadVal q 1).toNat % 32
      let m := (s.quadVal q 1).toNat / 2 ^ 8 % 32
      size % 65536 = 0 ∧ 65536 ≤ size ∧ size ≤ 2 ^ 39 ∧ p < 24 ∧ p ∉ s.lost ∧ m < 24 ∧ p ≠ m ∧ m ∉ s.lost) ∧
    (∀ wide : Bool, ∃ (s : State) (g : Guard) (q : BitVec 3), s.here.enabled g = true ∧ s.allComplete [0, 0] ∧ s.Quiet ∧ s.quadClean q [0, 1, 3] ∧
      s.quadClean q [2] ∧
      let h := s.here.regs.rh (BitVec.ofNat 4 ((s.quadVal q 3).toNat / 2 ^ 8))
      let o := (s.quadVal q 0).toNat
      let n := if wide then 8 else 4
      s.pageOk h o n n true ∧ h.perm.getLsbD 1 = true ∧ h.lclass ≠ 0 ∧ h.tgt = 1 ∧ s.lostPlane h o n s.here.sr.tenant false = none) ∧
    (∃ (s : State) (g : Guard) (t : Nat), s.here.enabled g = true ∧ alGet s.here.barArrived s.here.pc.toNat = some t ∧ s.tokDone (some t) = true) ∧
    (∃ (s : State) (g : Guard) (q : BitVec 3), s.here.enabled g = true ∧ alGet s.here.barArrived s.here.pc.toNat = none ∧ s.takesCommand ∧
      s.quadClean q [0] ∧ descOk (s.quadVal q 0) = true) := by
  refine ⟨fun st h => ⟨cursors st, p0, 0, ?_⟩, ⟨walking [] false (some 0) none, p0, 7, _, rfl, ?_, by decide +kernel, rfl, rfl⟩,
    fun n armed h => ⟨walking [] armed none (some (0, n, 5)), p0, 7, _, 5, ?_, ?_, ?_, rfl, nofun, rfl, rfl, ?_⟩, ⟨landed, p0, 7, _, ⟨0, 8, 0⟩, [], by decide +kernel, by unfold State.allComplete; decide +kernel, by decide +kernel, rfl, ?_⟩,
    ⟨dev (quadOf (2 ^ 39) (22 * 256 + 23) 0 0), p0, 2, ?_⟩,
    fun wide => ⟨{ dev (withH (quadOf (if wide then 65528 else 65532) 0 0 0x200) 2 { page 0 with tgt := 1, plane := 3 }) with extents := [⟨3, 0, 65536, 0, none⟩] },
      p0, 2, ?_, ?_, by cases wide <;> exact calm_quiet rfl, ?_⟩,
    ⟨{ dev { base with barArrived := [(0, 4)] } with toks := [(4, ⟨0, some 0⟩)] }, p0, 4, by decide +kernel⟩,
    ⟨dev (quadOf 0x9040010900020000 0 0 0), p0, 2, by decide +kernel, by decide +kernel, dev_takesCommand _, ?_⟩⟩
  · rcases h with rfl | rfl <;> unfold State.allComplete <;> decide +kernel
  · unfold State.allComplete; decide +kernel
  · exact (by decide +kernel : (walking [] false none none).here.enabled p0 = true)
  · exact (by unfold State.allComplete; decide +kernel : (walking [] false none none).allComplete [0, 0])
  · exact (by decide +kernel : ((walking [] false none none).here.regs.rw 7).state = 1)
  · exact (by decide +kernel : ((walking [] false none none).here.regs.rw 7).budget = 0)
  · exact ⟨nofun, rfl, rfl, by decide +kernel⟩
  · unfold State.allComplete State.quadClean; decide +kernel
  · cases wide <;> decide +kernel
  · cases wide <;> unfold State.allComplete <;> decide +kernel
  · cases wide <;> unfold State.quadClean State.pageOk <;> decide +kernel
  · unfold State.quadClean; decide +kernel

/-- One result of context 0 in flight. -/
def inFlight (f : Flight) : State := dev { base with flight := [f] }

/-- A result of x5 that has not arrived and is overdue. -/
def waiting (el : Bool) (r : Option Redo) : Flight := ⟨0, .x 5 ⟨9, false⟩, 0, 0, el, false, false, none, r, false, false⟩

theorem witness_CyclesPass :
    (∃ s : State, s.here.rep = none ∧ s.here.branch = none) ∧ (∃ s : State, s.here.rep = none ∧ s.here.branch = some (0x40000, 1)) ∧
    (∃ s : State, s.here.rep = none ∧ s.here.branch = some (0x40000, 0 + 2)) ∧
    (∃ (k : Ctx) (d : BitVec 5) (r : Reg), k.shown = false ∧ d ≠ 0 ∧ ∃ f ∈ k.flight, f.res = .x d r ∧ f.left = 1 ∧ f.arrived = true ∧
      f.landed = false ∧ ∀ e ∈ k.flight, ∀ v, e.res = .x d v → e = f) ∧
    (∃ (k : Ctx) (d : BitVec 5), k.shown = false ∧ ∃ e ∈ k.flight, e.res = .x d ⟨9, false⟩ ∧
      ∀ e ∈ k.flight, ∀ v, e.res = .x d v → 2 ≤ e.left ∨ e.arrived = false ∨ e.landed = true) := by
  refine ⟨⟨dev base, by decide +kernel⟩, ⟨dev { base with branch := some (0x40000, 1) }, by decide +kernel⟩,
    ⟨dev { base with branch := some (0x40000, 2) }, by decide +kernel⟩,
    ⟨{ base with flight := [arrived] }, 1, ⟨5, false⟩, rfl, by decide +kernel, arrived, List.mem_singleton.mpr rfl, rfl, rfl, rfl, rfl, ?_⟩,
    ⟨{ base with flight := [waiting true none] }, 5, rfl, waiting true none, List.mem_singleton.mpr rfl, rfl, ?_⟩⟩
  · intro e he v _
    exact List.mem_singleton.mp he
  · intro e he v _
    rw [List.mem_singleton.mp he]
    exact Or.inr (Or.inl rfl)

/-- The repeat head rep(1) mma.i8 ac0, y2, y1 at 0x40100, with a body of one empty bundle. -/
def heads (lc : W64) (mw : Nat) : State :=
  { coded { operands with sr := { Srs.reset with lc := lc, rsta := 4096, rstb := 4096 } } 0x40100 [0x84800000, mw, 0x80000000] with header := 0x84800000 }

theorem witness_RepeatIssues :
    (∀ mw : Nat, mw = 0x00001040 ∨ mw = 0x04001040 ∨ mw = 0x18002000 ∨ mw = 0x10002100 ∨ mw = 0x00201040 → ∃ (s : State) (body : List (Nat × List W32)) (after : Nat)
      (v : State), s.status = .ok ∧ s.headCheck s.header.toNat 0 (BitVec.ofNat 32 mw) = (.ok (body, after), v) ∧ s.here.sr.lc ≠ 0 ∧ s.takesM ∧
      (s.here.startRep (BitVec.ofNat 32 mw) body after).on = (mw != 0x00201040)) ∧
    (∃ s : State, s.status = .ok ∧ s.here.sr.lc = 0) ∧
    (∃ (s : State) (p : Rep) (ac a b : BitVec 5), s.status = .ok ∧ s.here.rep = some p ∧ p.on = true ∧ s.takesM ∧
      repeatInstr p.mword = some (.mma p0 ac a b .int8 false false 0) ∧ (s.here.regs.ry a).poison = false ∧ (s.here.regs.ry b).poison = false ∧
      s.here.hasTile ac.toNat = true ∧ s.opndOk (opndOf (s.here.regs.ry a).val) (imageBytes .int8 false) ∧
      s.opndOk (opndOf (s.here.regs.ry b).val) (imageBytes .int8 false) ∧
      bankGroup (opndOf (s.here.regs.ry a).val).base ≠ bankGroup (opndOf (s.here.regs.ry b).val).base) ∧
    (∃ (s : State) (p : Rep) (ac y : BitVec 5), s.status = .ok ∧ s.here.rep = some p ∧ p.on = true ∧ s.takesM ∧
      repeatInstr p.mword = some (.mldac p0 ac y) ∧ (s.here.regs.ry y).poison = false ∧ s.here.hasTile ac.toNat = true ∧
      s.opndOk (opndOf (s.here.regs.ry y).val) 16384) ∧
    (∃ (s : State) (p : Rep), s.status = .ok ∧ s.here.rep = some p ∧ p.on = false) := by
  let rep (mw : W32) (on : Bool) : Rep := ⟨0, 1, 1, mw, [(0, [0x80000000])], 4, on, 4096, 4096⟩
  refine ⟨fun mw h => ?_, ⟨dev base, by decide +kernel⟩,
    ⟨dev { operands with rep := some (rep 0x1040 true) }, rep 0x1040 true, 0, 2, 1, rfl, rfl, rfl, dev_takesM rfl, ?_⟩,
    ⟨dev { operands with rep := some (rep 0x18002000 true) }, rep 0x18002000 true, 0, 4, rfl, rfl, rfl, dev_takesM rfl, ?_⟩,
    ⟨dev { operands with rep := some (rep 0 false) }, rep 0 false, rfl, rfl, rfl⟩⟩
  · have h2 : ((heads 4 mw).headCheck 0x84800000 0 (BitVec.ofNat 32 mw)).1 = .ok ([(0x40108, [0x80000000])], 0x4010C) := by
      rcases h with rfl | rfl | rfl | rfl | rfl <;> decide +kernel
    obtain ⟨v, hv⟩ := of_fst h2
    refine ⟨heads 4 mw, _, _, v, rfl, hv, ?_, ⟨fun _ h => (nomatch h), rfl⟩, ?_⟩ <;> rcases h with rfl | rfl | rfl | rfl | rfl <;> decide +kernel
  all_goals unfold State.opndOk; decide +kernel

def someTrap : TrapRec := ⟨6, 2, 0x1001, false, none⟩

/-- An instance of one context, on context 0. -/
def inst : Inst := ⟨7, 3, [], 0, 0, 0, 0, [0], [], 0, false⟩

theorem witness_TrapEntry :
    (∃ (s : State) (c : Nat) (r : TrapRec), (s.ctx c).due = some r ∧ ((s.ctx c).run = .halted → (s.ctx c).retiring ≠ none) ∧ (s.ctx c).handler = false ∧
      (s.ctx c).retiring = none ∧ s.tvec (s.ctx c).sr.tenant ≠ 0) ∧
    (∃ (s : State) (c : Nat) (r : TrapRec), (s.ctx c).due = some r ∧ ((s.ctx c).run = .halted → (s.ctx c).retiring ≠ none) ∧ (s.ctx c).handler = true ∧
      (s.ctx c).task = none) ∧
    (∃ (s : State) (c : Nat) (r : TrapRec) (i n : Nat) (x : Inst), (s.ctx c).due = some r ∧ ((s.ctx c).run = .halted → (s.ctx c).retiring ≠ none) ∧
      s.tvec (s.ctx c).sr.tenant = 0 ∧ (s.ctx c).task = some (i, n) ∧ s.insts.find? (fun y => y.id == i) = some x) ∧
    (∀ run : Run, run = .blocked ∨ run = .running ∨ run = .frozen → ∃ (s : State) (c i : Nat) (code : BitVec 8), (s.ctx c).handler = false ∧ (s.ctx c).inUi = false ∧
      ((s.ctx c).run = .blocked ∨ (((s.ctx c).run = .running ∨ (s.ctx c).run = .frozen) ∧ (s.ctx c).boundary = true)) ∧ (s.ctx c).run = run ∧
      (s.ctx c).sr.uiv ≠ 0 ∧ i < 16 ∧ vget (s.ctx c).pend i none = some code ∧ ∀ j < i, vget (s.ctx c).pend j none = none) := by
  refine ⟨⟨{ dev { base with due := some someTrap } with tvecs := [(0, 0x50000)] }, 0, someTrap, by decide +kernel⟩,
    ⟨dev { base with due := some someTrap, handler := true }, 0, someTrap, by decide +kernel⟩,
    ⟨{ dev { base with due := some someTrap, task := some (7, 0) } with insts := [inst] }, 0, someTrap, 7, 0, inst, by decide +kernel⟩, fun run h => ?_⟩
  rcases h with rfl | rfl | rfl
  · exact ⟨dev { base with run := .blocked, sr := { Srs.reset with uiv := 16 }, pend := vset (Vector.replicate 16 none) 15 (some 5) }, 0, 15, 5, by decide +kernel⟩
  · exact ⟨dev { base with boundary := true, sr := { Srs.reset with uiv := 16 }, pend := vset (Vector.replicate 16 none) 0 (some 5) }, 0, 0, 5, by decide +kernel⟩
  · exact ⟨dev { base with run := .frozen, boundary := true, sr := { Srs.reset with uiv := 16 }, pend := vset (Vector.replicate 16 none) 0 (some 0) },
      0, 0, 0, by decide +kernel⟩

def loftPage : Handle := { page 0 with tgt := 1, plane := 3 }

/-- A load of a page on its way, with its page and its form, or one that a freeze trap has marked. -/
def bringing (h : Handle) (form : LoadForm) (again : Bool) : Flight := { waiting true (some (.load 1 0 h 0 8 0 form)) with again := again }

/-- The switch of plane 3 serves context 0's tenant the first 64 KiB, with a mirror on plane 23 or without one. -/
def served (f : Flight) (lost : List Nat) : State := { inFlight f with extents := [⟨3, 0, 65536, 0, none⟩], lost := lost }

theorem witness_ResultEvents :
    (∀ el : Bool, ∃ (s : State) (c i : Nat) (f : Flight) (d : BitVec 5) (r : Reg), (s.ctx c).flightOf i = some f ∧ (s.ctx c).trapped f = false ∧ f.redo = none ∧
      f.elastic = el ∧ (s.ctx c).flight = [f] ∧ f.res = .x d r ∧ f.left ≤ 1 ∧ f.landed = false ∧ (s.ctx c).shown = false ∧ (s.ctx c).run ≠ .halted) ∧
    (∀ (t : BitVec 2) (form : LoadForm) (again : Bool), t = 0 ∨ t = 1 ∨ t = 2 → form = .sext ∨ form = .link →
      ∃ (s : State) (c i : Nat) (f : Flight) (h : Handle), (s.ctx c).flightOf i = some f ∧ (s.ctx c).trapped f = false ∧
        f.redo = some (.load 1 0 h 0 8 0 form) ∧ f.elastic = true ∧ f.again = again ∧ h.tgt = t ∧
        (h.tgt = 1 → s.lostPlane h 0 8 (s.ctx c).sr.tenant true = none ∧ s.refuses c h 0 8 = false)) ∧
    (∃ (s : State) (c i : Nat) (f : Flight) (h : Handle), (s.ctx c).flightOf i = some f ∧ (s.ctx c).trapped f = false ∧
      f.redo = some (.load 1 0 h 0 8 0 .sext) ∧ f.elastic = true ∧ h.tgt = 1 ∧ s.lostPlane h 0 8 (s.ctx c).sr.tenant true = some 3) ∧
    (∃ (s : State) (c i : Nat) (f : Flight) (h : Handle), (s.ctx c).flightOf i = some f ∧ (s.ctx c).trapped f = false ∧
      f.redo = some (.load 1 0 h 0 8 0 .sext) ∧ h.tgt = 1 ∧ s.refuses c h 0 8 = true) ∧
    (∃ (s t : State) (c i : Nat) (f : Flight) (va : W64) (perm : BitVec 3) (d : BitVec 4) (x : Handle), (s.ctx c).flightOf i = some f ∧ (s.ctx c).trapped f = false ∧
      f.redo = some (.xlat va perm) ∧ f.res = .h d x ∧ s.translate (dieOf c) (s.ctx c).sr.tenant va.toNat = (none, t)) ∧
    (∃ (s t : State) (c i : Nat) (f : Flight) (va : W64) (perm : BitVec 3) (d : BitVec 4) (x h : Handle), (s.ctx c).flightOf i = some f ∧ (s.ctx c).trapped f = false ∧
      f.redo = some (.xlat va perm) ∧ f.res = .h d x ∧ s.translate (dieOf c) (s.ctx c).sr.tenant va.toNat = (some h, t) ∧ perm &&& ~~~h.perm = 0) ∧
    (∀ el : Bool, ∃ (s : State) (c : Nat), (s.ctx c).run = .running ∧ (s.ctx c).due = none ∧ ∃ f ∈ (s.ctx c).nextFlight,
      f.left = 0 ∧ f.win = 0 ∧ f.arrived = false ∧ f.landed = false ∧ f.elastic = el) ∧
    (∀ t : BitVec 2, t = 0 ∨ t = 1 → ∃ (s : State) (c i q : Nat) (e : QEntry), (s.ctx c).entryOf i = some e ∧ e ∈ vget (s.ctx c).q q [] ∧ e.again = false ∧
      e.handle.tgt ≠ 2 ∧ e.handle.tgt = t ∧ (e.handle.tgt = 1 → s.lostPlane e.handle e.off (2 ^ e.width.toNat) (s.ctx c).sr.tenant true = none ∧
        s.refuses c e.handle e.off (2 ^ e.width.toNat) = false)) ∧
    (∀ loft : Bool, ∃ (s : State) (c i acc key : Nat) (cls : BitVec 4) (bs : List Byte) (lo : Option (Handle × Nat)) (pre post : List Pend), s.Inv ∧
      (s.ctx c).stores = pre ++ .store i acc cls key bs lo :: post ∧ (∀ a x y z u, Pend.store i a x y z u ∉ pre) ∧
      pendBlocks cls 0 (pre.filter fun p => !(⟨acc, cls, key, bs, lo⟩ : Granule).beside p) = false ∧ (∀ j ∈ s.classCmds c cls, i ≤ j) ∧
      (if loft then ∃ h o, lo = some (h, o) ∧ s.lostPlane h o bs.length (s.ctx c).sr.tenant false = none ∧ s.refuses c h o bs.length = true
        else lo = none)) := by
  let xl : Flight := { waiting false (some (.xlat 0x40000 5)) with res := .h 1 Handle.none }
  have hx : ((inFlight xl).translate 0 0 0x40000).1 = none := by decide +kernel
  obtain ⟨t1, ht1⟩ := of_fst hx
  have hy : ({ inFlight xl with tlb := [⟨0, 0, codeLeaf 0⟩] }.translate 0 0 0x40000).1 = some (codeLeaf 0) := by decide +kernel
  obtain ⟨t2, ht2⟩ := of_fst hy
  let pages (t : BitVec 2) : Handle := { page 0 with tgt := t, plane := 3 }
  let queued (t : BitVec 2) : QEntry := { entry with arrived := false, handle := pages t }
  let lo (loft : Bool) : Option (Handle × Nat) := if loft then some (loftPage, 0) else none
  refine ⟨fun el => ⟨inFlight (waiting el none), 0, 0, waiting el none, 5, ⟨9, false⟩, rfl, rfl, rfl, rfl, rfl, rfl, Nat.zero_le 1, rfl, rfl, nofun⟩,
    fun t form again ht hf => ⟨served (bringing (pages t) form again) [], 0, 0, bringing (pages t) form again, pages t, rfl, ?_, rfl, rfl, rfl, rfl, ?_⟩,
    ⟨served (bringing loftPage .sext false) [3], 0, 0, bringing loftPage .sext false, loftPage, rfl, rfl, rfl, rfl, rfl, by decide +kernel⟩,
    ⟨inFlight (bringing loftPage .sext false), 0, 0, bringing loftPage .sext false, loftPage, rfl, rfl, rfl, rfl, by decide +kernel⟩,
    ⟨inFlight xl, t1, 0, 0, xl, 0x40000, 5, 1, Handle.none, rfl, rfl, rfl, rfl, ht1⟩,
    ⟨{ inFlight xl with tlb := [⟨0, 0, codeLeaf 0⟩] }, t2, 0, 0, xl, 0x40000, 5, 1, Handle.none, codeLeaf 0, rfl, rfl, rfl, rfl, ht2, by decide +kernel⟩,
    fun el => ⟨inFlight (waiting el none), 0, rfl, rfl, waiting el none, List.mem_singleton.mpr rfl, rfl, rfl, rfl, rfl, rfl⟩,
    fun t ht => ⟨{ dev { base with q := (Vector.replicate 4 []).set 3 [queued t] } with extents := [⟨3, 0, 65536, 0, none⟩] }, 0, 0, 3, queued t, ?_⟩,
    fun loft => ⟨dev { base with stores := [.store 0 0 9 8 [1, 2] none, .store 1 2 8 10 [3] none, .store 3 2 8 64 [4] (lo loft)] }, 0, 3, 2, 64, 8, [4], lo loft,
      [.store 0 0 9 8 [1, 2] none, .store 1 2 8 10 [3] none], [], ⟨rfl, rfl, rfl, rfl⟩, rfl, ?_, ?_, ?_, ?_⟩⟩
  · rcases ht with rfl | rfl | rfl <;> rcases hf with rfl | rfl <;> cases again <;> rfl
  · rcases ht with rfl | rfl | rfl <;> rcases hf with rfl | rfl <;> cases again <;> decide +kernel
  · rcases ht with rfl | rfl <;> decide +kernel
  · intro a x y z u h
    simp at h
  · cases loft <;> rfl
  · nofun
  · cases loft
    · rfl
    · exact ⟨loftPage, 0, rfl, by decide +kernel⟩

/-- An allocation of 64 KiB on plane 3, and a mirrored one on planes 3 and 23, on its way. -/
def allocs (m : Bool) : Flight := { waiting false (some (.lalloc m 65536 (3 + 23 * 256))) with res := .y 6 Reg.zero }

def loftState (m : Bool) (quota : Nat) (es : List Extent) : State := { inFlight (allocs m) with quotas := [(3, quota), (23, quota)], extents := es }

theorem witness_LoftAllocation :
    (∀ (m : Bool) (quota : Nat) (es : List Extent), (loftState m quota es).Inv ∧ ((loftState m quota es).ctx 0).flightOf 0 = some (allocs m) ∧
      (allocs m).elastic = false ∧ ((loftState m quota es).ctx 0).trapped (allocs m) = false ∧ (allocs m).redo = some (.lalloc m 65536 (3 + 23 * 256)) ∧
      (loftState m quota es).lost = [] ∧ (loftState m quota es).extents = es) ∧
    (∀ m : Bool, ((loftState m 65536 []).extents.filter fun e => e.mirror.isSome).length < 256 ∧ (loftState m 65536 []).quotaOf 0 3 = 65536 ∧
      (loftState m 65536 []).quotaOf 0 23 = 65536) ∧
    (∀ o : Nat, ¬ (o + 65536 ≤ Config.loftSize ∧ ∀ e ∈ (loftState false 65536 [⟨3, 0, Config.loftSize, 1, none⟩]).extents,
      (∃ x ∈ [3], e.plane = x ∨ e.mirror = some x) → o + 65536 ≤ e.start ∨ e.start + e.size ≤ o)) ∧
    (loftState false 65535 []).quotaOf 0 3 = 65535 := by
  refine ⟨fun m quota es => ⟨⟨rfl, rfl, rfl, rfl⟩, rfl, rfl, rfl, rfl, rfl, rfl⟩, fun m => ⟨(by decide : 0 < 256), rfl, rfl⟩, fun o ⟨h, all⟩ => ?_, rfl⟩
  rcases all _ (List.mem_singleton.mpr rfl) ⟨3, List.mem_singleton.mpr rfl, .inl rfl⟩ with h' | h'
  · have : o + 65536 ≤ 0 := h'
    omega
  · have : 0 + Config.loftSize ≤ o := h'
    omega

/-- One engine command of context 0. -/
def commandE (eng : Engine) (op : EOp) (st : Stage) : ECmd :=
  { id := 0, ctx := 0, tok := 4, waits := [], after := [], lvl := 0, due := 0, tenant := 0, live := true, eng := eng, op := op, stage := st, rows := [] }

def withE (c : ECmd) : State := { dev base with ecmds := [c], toks := [(4, ⟨0, none⟩)] }

/-- Engine commands of each kind with the engine they go to. -/
def engineOps : List (Engine × EOp) :=
  let h := page 0
  [(.token, .kjoin [none]), (.token, .semwait 0 1 true 0 false), (.bank, .bank h 0 0x1000 0x2000 1 64), (.copy, .xfer true h 0 0 0 32),
    (.launch, .launch false Handle.none 0x500000 0 false none), (.copy, .copy true h 0 0x1000 32 0),
    (.copy, .copy false h 0 0x1000 1024 0x80FF000000000401), (.copy, .copyg true h 0x4000 0x1000 0x2000000001 0),
    (.copy, .copyg true h 0x4004 0x1000 0x2000000001 0), (.copy, .copyx false h (0x4100 + 1 * 2 ^ 128 + 1 * 2 ^ 160) 0x1000 0),
    (.copy, .copyx false h (0x4200 + 1 * 2 ^ 128 + 1 * 2 ^ 160) 0x1000 0), (.buffer, .binrel 5), (.buffer, .binkill 5), (.loft, .lfree 0xFF18000000000)]

/-- The device with a command of context 0 in a queue; 0x4000 holds the row indices 64 and 31, 0x4100 the layout of one row of 32 bytes. -/
def queueing (eng : Engine) (op : EOp) : State :=
  { withE (commandE eng op .queued) with
    ctxs := [(0, base)], mem := writeCells (writeCells [] (spadKey 0 0x4000) (leBytes 4 64 ++ leBytes 4 31)) (spadKey 0 0x4100) (leBytes 4 32 ++ leBytes 4 1 ++ leBytes 4 1) }

theorem witness_EngineCommandsStart :
    ((withE (commandE .token (.kjoin [none]) .buffer)).findE 0 = some (commandE .token (.kjoin [none]) .buffer) ∧
      eRoom (withE (commandE .token (.kjoin [none]) .buffer)) 0 .token = true) ∧
    (∀ p ∈ engineOps, (queueing p.1 p.2).findE 0 = some (commandE p.1 p.2 .queued) ∧ (commandE p.1 p.2 .queued).waits = [] ∧
      (commandE p.1 p.2 .queued).after = []) ∧
    (∀ p ∈ engineOps, (commandE p.1 p.2 .queued).waitsFor (queueing p.1 p.2) = false ∧ (queueing p.1 p.2).fillReady (commandE p.1 p.2 .queued) = true) ∧
    (∀ list, list = 0x4000 ∨ list = 0x4004 →
      let s := queueing .copy (.copyg true (page 0) list 0x1000 0x2000000001 0)
      let i := leNat (readCells s.mem (spadKey 0 list) 4)
      (i % 32 = 0 ∧ i + 32 ≤ 65536) ↔ list = 0x4000) ∧
    (∀ l, l = 0x4100 ∨ l = 0x4200 →
      let s := queueing .copy (.copyx false (page 0) (BitVec.ofNat 192 l) 0x1000 0)
      let f (i : Nat) : Nat := leNat (readCells s.mem (spadKey 0 (l + 4 * i)) 4)
      (f 0 % 32 = 0 ∧ 32 ≤ f 0 ∧ 1 ≤ f 1 ∧ 1 ≤ f 2 ∧ f 3 = 0 ∧ f 4 = 0 ∧ f 5 = 0 ∧ f 6 = 0 ∧ f 7 = 0) ↔ l = 0x4100) ∧
    (∃ (s : State) (c : ECmd) (n : Nat), s.findE c.id = some c ∧ c.stage = .queued ∧ c.waitsFor s = false ∧ c.op = .binkill n ∧
      (s.bin (binKey (clusterOf c.ctx) n)).state ≠ 0 ∧
      (∀ d ∈ s.ecmds, d.stage = .started → clusterOf d.ctx = clusterOf c.ctx → d.op.fillBin ≠ some n) ∧
      ∀ w ∈ s.walks, clusterOf w.ctx = clusterOf c.ctx → w.filling = false) ∧
    (∃ (s : State) (c : ECmd), s.findE c.id = some c ∧ c.stage = .started ∧ c.op = .semwait 0 1 true 0 false) := by
  refine ⟨⟨rfl, by decide +kernel⟩, fun p _ => ⟨rfl, rfl, rfl⟩, by decide +kernel, ?_, ?_,
    ⟨{ withE (commandE .buffer (.binkill 5) .queued) with bins := [(5, fullBin)] }, commandE .buffer (.binkill 5) .queued, 5, by decide +kernel⟩,
    ⟨withE (commandE .token (.semwait 0 1 true 0 false) .started), commandE .token (.semwait 0 1 true 0 false) .started, rfl, rfl, rfl⟩⟩
  · rintro list (rfl | rfl) <;> decide +kernel
  · rintro l (rfl | rfl) <;> decide +kernel

/-- A started command with its rows. -/
def moving (eng : Engine) (op : EOp) (rows : List (Nat × Nat × Nat)) : ECmd := { commandE eng op .started with rows := rows }

theorem witness_TransfersComplete :
    (∃ (s : State) (h : Handle) (e : Extent), s.Inv ∧ h.tgt = 1 ∧ e ∈ s.extents ∧ e.tenant = 0 ∧ e.plane = h.plane.toNat ∧ e.mirror = some 23 ∧
      (∀ x ∈ s.extents, x.tenant = 0 → (x.plane = e.plane ∨ x.mirror = some e.plane) → x = e) ∧ e.plane ∉ s.lost ∧
      let at_ := h.ppn.toNat * 65536 + 65472
      e.start ≤ at_ ∧ at_ + 64 ≤ e.start + e.size ∧ e.start + e.size ≤ Config.loftSize) ∧
    (∀ (dir : Bool) (n : Nat), n < 3 →
      let op : EOp := if n = 0 then .copy dir (page 0) 0 0x1000 32 0 else if n = 1 then .copyg dir (page 0) 0 0x1000 0x2000000001 0
        else .copyx dir (page 0) 0 0x1000 0
      ∃ (s : State) (c : ECmd), s.findE c.id = some c ∧ c.stage = .started ∧ c.op = op ∧ c.op.copyParts = some (dir, page 0, 0x1000, 0) ∧
        lwKind 0x1000 ≠ 1 ∧ ∀ r ∈ c.rows, s.pageFails (page 0) r.1 (if dir then r.2.2 else pageSpan 0 r.2.2) c.tenant (!dir) = false) ∧
    (∀ dir : Bool, ∃ (s : State) (c : ECmd), s.findE c.id = some c ∧ c.stage = .started ∧ c.op = .copy dir (page 0) 0 0x400000000000001F 16384 0 ∧
      c.rows = [(0, lwAddr 0x400000000000001F, 16384)] ∧ lwKind 0x400000000000001F = 1 ∧ (page 0).tgt ≠ 1 ∧ ctlExp 0 = false ∧ ctlBin 0 = false ∧ s.Inv) ∧
    (∀ bankl : BitVec 2, ∃ (s : State) (c : ECmd) (h : Handle), s.findE c.id = some c ∧ c.stage = .started ∧ c.op = .bank h 0 0x1000 0x2000 4096 64 ∧
      h.tgt = 0 ∧ h.bankl = bankl ∧ s.Inv ∧ s.pageFails h 0 (4096 * 64 * (if h.bankl = 1 then 1 else 2)) c.tenant true = false) ∧
    (∀ get : Bool, ∃ (s : State) (c : ECmd) (h : Handle), s.findE c.id = some c ∧ c.stage = .started ∧ c.op = .xfer get h 0 1 0 32 ∧ h.tgt ≠ 1 ∧
      (1 : Nat) ≠ s.device.toNat ∧ 1 ∈ s.present ∧ 1 ∉ s.unreachable) ∧
    (∃ (s : State) (c : ECmd) (h : Handle), s.findE c.id = some c ∧ c.stage = .started ∧ c.op = .xfer true h 0 1 0 32 ∧ h.tgt ≠ 1 ∧
      (1 : Nat) ≠ s.device.toNat ∧ 1 ∉ s.present) ∧
    (∃ (s : State) (c : ECmd) (h p : Handle) (t : State), s.findE c.id = some c ∧ c.stage = .started ∧ c.op = .xfer true h 0 0 0 32 ∧ h.tgt ≠ 1 ∧
      (0 : Nat) = s.device.toNat ∧ s.translate (dieOf c.ctx) c.tenant 0 = (some p, t) ∧ p.tgt ≠ 1) ∧
    (∃ (s : State) (c : ECmd) (h : Handle) (t : State), s.findE c.id = some c ∧ c.stage = .started ∧ c.op = .xfer true h 0 0 0 32 ∧ h.tgt ≠ 1 ∧
      (0 : Nat) = s.device.toNat ∧ s.translate (dieOf c.ctx) c.tenant 0 = (none, t)) := by
  let x (get : Bool) (dev : Nat) : ECmd := moving .copy (.xfer get (page 0) 0 dev 0 32) []
  have h1 : ({ withE (x true 0) with tlb := [⟨0, 0, codeLeaf 0⟩] }.translate (dieOf (x true 0).ctx) (x true 0).tenant 0).1 = some (codeLeaf 0) := by decide +kernel
  have h2 : ((withE (x true 0)).translate (dieOf (x true 0).ctx) (x true 0).tenant 0).1 = none := by decide +kernel
  obtain ⟨t1, ht1⟩ := of_fst h1
  obtain ⟨t2, ht2⟩ := of_fst h2
  let row : List (Nat × Nat × Nat) := [(0, 0x1000, 32)]
  let tile (dir : Bool) : ECmd := moving .copy (.copy dir (page 0) 0 0x400000000000001F 16384 0) [(0, lwAddr 0x400000000000001F, 16384)]
  let bank (b : BitVec 2) : ECmd := moving .bank (.bank { page 1 with bankl := b } 0 0x1000 0x2000 4096 64) []
  refine ⟨⟨{ dev base with extents := [⟨3, 0, 65536, 0, some 23⟩] }, { page 0 with tgt := 1, plane := 3 }, ⟨3, 0, 65536, 0, some 23⟩, ⟨rfl, rfl, rfl, rfl⟩, rfl,
      List.mem_singleton.mpr rfl, rfl, rfl, rfl, fun x h _ _ => List.mem_singleton.mp h, nofun, by decide +kernel⟩, fun dir n h => ?_,
    fun dir => ⟨withE (tile dir), tile dir, rfl, rfl, rfl, rfl, by decide, nofun, by decide, by decide, ⟨rfl, rfl, rfl, rfl⟩⟩,
    fun b => ⟨withE (bank b), bank b, { page 1 with bankl := b }, rfl, rfl, rfl, rfl, rfl, ⟨rfl, rfl, rfl, rfl⟩, rfl⟩,
    fun get => ⟨{ withE (x get 1) with present := [1] }, x get 1, page 0, rfl, rfl, rfl, nofun, show (1 : Nat) ≠ 0 by decide, List.mem_singleton.mpr rfl, nofun⟩,
    ⟨withE (x true 1), x true 1, page 0, rfl, rfl, rfl, nofun, show (1 : Nat) ≠ 0 by decide, nofun⟩,
    ⟨{ withE (x true 0) with tlb := [⟨0, 0, codeLeaf 0⟩] }, x true 0, page 0, codeLeaf 0, t1, rfl, rfl, rfl, nofun, rfl, ht1, nofun⟩,
    ⟨withE (x true 0), x true 0, page 0, t2, rfl, rfl, rfl, nofun, rfl, ht2⟩⟩
  match n, h with
  | 0, _ => exact ⟨withE (moving .copy _ row), moving .copy _ row, rfl, rfl, rfl, rfl, by decide, fun _ _ => rfl⟩
  | 1, _ => exact ⟨withE (moving .copy _ row), moving .copy _ row, rfl, rfl, rfl, rfl, by decide, fun _ _ => rfl⟩
  | 2, _ => exact ⟨withE (moving .copy _ row), moving .copy _ row, rfl, rfl, rfl, rfl, by decide, fun _ _ => rfl⟩

/-- A walk of context 0 through cursor 0: Z = 1, LAND 0x2000, one bin of group 1, with the link it follows next. -/
def walker (later : Bool) (link : BitVec 128) (budget : Nat) : State × Walk :=
  let cu : Cursor := BitVec.ofNat 256 (1 * 2 ^ 252 + 1 * 2 ^ 240 + budget * 2 ^ 176 + 1 * 2 ^ 160 + 0x2000 * 2 ^ 128)
  let w : Walk := ⟨0, 0, 0, 4, if later then 1 else 0, link, 0, false, false, false, 0, none, [], 0, false, none, none, false⟩
  ({ dev { base with regs := { Regs.reset with w := vset Regs.reset.w 0 cu } } with walks := [w], toks := [(4, ⟨0, none⟩)], tlb := [⟨0, 0, codeLeaf 0⟩] }, w)

/-- A link to a sheaf at 0x1000 of this package (KIND 01). -/
def near : BitVec 128 := BitVec.ofNat 128 (2 ^ 126 + 0x1000)

/-- Links to 0x1000 of package 1 and of plane 5 (KIND 10 and 11). -/
def farLink : BitVec 128 := BitVec.ofNat 128 (2 * 2 ^ 126 + 1 * 2 ^ 104 + 0x1000)
def loftLink : BitVec 128 := BitVec.ofNat 128 (3 * 2 ^ 126 + 5 * 2 ^ 104 + 0x1000)

/-- A walk that is landing its first sheaf, in bin 8. -/
def landing (l : BitVec 128) : Walk := ⟨0, 0, 0, 4, 0, l, 0, false, false, true, 0x1000, none, [⟨0, 8, l⟩], 0, false, none, none, false⟩

theorem witness_GleanerHops :
    (∀ l : BitVec 128, l ∈ [0, 128, near + 1, BitVec.ofNat 128 (2 ^ 126 + 1 * 2 ^ 104), BitVec.ofNat 128 (2 * 2 ^ 126), BitVec.ofNat 128 (3 * 2 ^ 126 + 24 * 2 ^ 104)] →
      ∃ (s : State) (w : Walk), s.walks.find? (fun x => x.id == w.id) = some w ∧ w.filling = false ∧ w.reason = none ∧ w.endAt = none ∧ w.reread = false ∧
        w.link = l) ∧
    (∃ (s : State) (w : Walk), s.walks.find? (fun x => x.id == w.id) = some w ∧ w.filling = false ∧ w.reason = none ∧ w.endAt = none ∧ w.reread = false ∧
      w.link = near ∧ w.later = true ∧ Cursor.budget (vget (s.ctx w.ctx).regs.w w.wc 0) = 0) ∧
    (∀ l : BitVec 128, l = farLink ∨ l = loftLink → ∃ (s : State) (w : Walk), s.walks.find? (fun x => x.id == w.id) = some w ∧ w.filling = false ∧
      w.reason = none ∧ w.endAt = none ∧ w.reread = false ∧ w.link = l ∧ w.later = false ∧ 1 ∉ s.present ∧ (0x1000 : Nat) % 128 = 0 ∧
      5 ∈ s.lost ∧ (1 : Nat) ≠ s.device.toNat) ∧
    (∃ (s : State) (w : Walk) (t : State), s.walks.find? (fun x => x.id == w.id) = some w ∧ w.filling = false ∧ w.reason = none ∧ w.endAt = none ∧
      w.reread = false ∧ w.link = near ∧ w.later = false ∧ s.translate (dieOf w.ctx) (s.ctx w.ctx).sr.tenant 0x1000 = (none, t)) ∧
    (∀ later : Bool, ∃ (s : State) (w : Walk) (p : Handle) (t : State), s.walks.find? (fun x => x.id == w.id) = some w ∧ w.filling = false ∧ w.reason = none ∧ w.endAt = none ∧
      w.reread = false ∧ w.link = near ∧ w.later = later ∧ Cursor.budget (vget (s.ctx w.ctx).regs.w w.wc 0) ≠ 0 ∧
      s.translate (dieOf w.ctx) (s.ctx w.ctx).sr.tenant 0x1000 = (some p, t) ∧ p.r = true ∧ p.cview = 0 ∧ p.tgt = 0 ∧ s.Inv ∧
      let cu := vget (s.ctx w.ctx).regs.w w.wc 0
      let pa := p.ppn.toNat * 65536 + 0x1000 % pageBytes p.size
      let head := readCells s.mem (hbmKey pa) 128
      let size := 128 + leNat ((head.drop 72).take 4)
      (s.bin (binKey (clusterOf w.ctx) (cu.bin w.next))).state = 0 ∧
      (∀ m ∈ s.mcmds, m.id < w.id ∨ m.stage = .started →
        m.locks (coreOf w.ctx) (cu.land + 256 * cu.z * (cu.bin w.next - 8 * cu.group)) (256 * cu.z) true = false) ∧ leNat ((head.drop 64).take 4) = 0 ∧
      size ≤ 65536 + 128 ∧ size ≤ 256 * cu.z ∧ size ≤ pageBytes p.size - 0x1000 % pageBytes p.size ∧ cu.core = false) ∧
    (∃ (s : State) (w : Walk) (e : Landed), s.walks.find? (fun x => x.id == w.id) = some w ∧ w.filling = true ∧ w.landed.getLast? = some e ∧ s.Inv ∧
      s.readFails w.ctx e.link w.src (s.bin (binKey (clusterOf w.ctx) e.bin)).size.toNat = none ∧
      leNat (readCells s.mem (w.src + 64) 4) = e.link.toNat / 2 ^ 64 % 2 ^ 32) ∧
    (∃ (s : State) (w : Walk) (e : Landed), s.walks.find? (fun x => x.id == w.id) = some w ∧ w.filling = true ∧ w.landed.getLast? = some e ∧ s.Inv ∧
      s.readFails w.ctx e.link w.src (s.bin (binKey (clusterOf w.ctx) e.bin)).size.toNat = some 8) := by
  have ht : ∀ later, ((walker later near 5).1.translate (dieOf (walker later near 5).2.ctx)
      ((walker later near 5).1.ctx (walker later near 5).2.ctx).sr.tenant 0x1000).1 = some (codeLeaf 0) := by intro later; cases later <;> decide +kernel
  have hn : ({ (walker false near 5).1 with tlb := [] }.translate 0 0 0x1000).1 = none := by decide +kernel
  obtain ⟨tn, hn⟩ := of_fst hn
  refine ⟨fun l _ => ⟨(walker false l 5).1, (walker false l 5).2, rfl, rfl, rfl, rfl, rfl, rfl⟩, ⟨(walker true near 0).1, (walker true near 0).2, by decide +kernel⟩,
    fun l _ => ⟨{ (walker false l 0).1 with lost := [5] }, (walker false l 0).2, rfl, rfl, rfl, rfl, rfl, rfl, rfl, nofun, rfl, List.mem_singleton.mpr rfl,
      show (1 : Nat) ≠ 0 by decide⟩,
    ⟨{ (walker false near 5).1 with tlb := [] }, (walker false near 5).2, tn, rfl, rfl, rfl, rfl, rfl, rfl, rfl, hn⟩, fun later => ?_,
    ⟨{ dev base with walks := [landing near] }, landing near, ⟨0, 8, near⟩, rfl, rfl, rfl, ⟨rfl, rfl, rfl, rfl⟩, by decide +kernel⟩,
    ⟨{ dev base with walks := [landing farLink] }, landing farLink, ⟨0, 8, farLink⟩, rfl, rfl, rfl, ⟨rfl, rfl, rfl, rfl⟩, by decide +kernel⟩⟩
  obtain ⟨t, h⟩ := of_fst (ht later)
  refine ⟨(walker later near 5).1, (walker later near 5).2, codeLeaf 0, t, rfl, rfl, rfl, rfl, rfl, rfl, ?_, ?_, h, by decide +kernel, by decide +kernel, by decide +kernel,
    ⟨rfl, rfl, rfl, rfl⟩, ?_⟩ <;> cases later <;> decide +kernel
/-- A record of one context: CODE 0x40000, SPBASE 0x1000, SPSIZE 0x1000, one tile, CTL, tenant 7. -/
def recordOf (code : Nat) (ctl : Byte) : List Byte :=
  leBytes 8 code ++ leBytes 8 0 ++ leBytes 4 0x1000 ++ leBytes 4 0x1000 ++ [0, 1, 1, ctl] ++ leBytes 2 0 ++ leBytes 2 7 ++ List.replicate 96 0

def launching (code : Nat) (ctl : Byte) (again : Bool) (snap : Option (List Byte)) : State :=
  let s := withE (commandE .launch (.launch false Handle.none 0x500000 0 again snap) .started)
  { s with mem := writeCells [] (spadKey 0 0x500000) (recordOf code ctl) }.setCtx 0 { base with stream := true }

/-- A record in the pending set of die 0. -/
def pend (r : List Byte) : Pending := ⟨5, 4, 0, r, 0, 9, 0, false⟩

def pendState (r : List Byte) : State := { State.reset with pendings := [pend r], toks := [(4, ⟨0, none⟩)] }

theorem witness_LaunchesAndPlacement :
    (∀ p ∈ ([(0x40000, 0, false, none), (0x40000, 128, false, none), (0x40000, 128, true, none), (0x40004, 0, false, none),
        (0x40000, 0, false, some (recordOf 0x40000 0))] : List (Nat × Byte × Bool × Option (List Byte))),
      let s := launching p.1 p.2.1 p.2.2.1 p.2.2.2
      let c := commandE .launch (.launch false Handle.none 0x500000 0 p.2.2.1 p.2.2.2) .started
      let r := readCells s.mem (spadKey (clusterOf c.ctx) 0x500000) 128
      s.findE c.id = some c ∧ s.liveFrom (launchKey c.ctx false Handle.none 0x500000) = false ∧
        s.refusal r c.tenant (s.ctx c.ctx).stream = (if p.1 = 0x40004 then 1 else 0) ∧
        (s.pendings.filter fun q => q.home / 32 == (s.homeOf c.ctx r).1 / 32).length < Config.pendingMax) ∧
    (∃ (s : State) (c : ECmd), s.findE c.id = some c ∧ c.op = .launch false Handle.none 0x500000 0 false none ∧ c.stage = .started ∧
      s.liveFrom (launchKey c.ctx false Handle.none 0x500000) = true ∧ recSingle (readCells s.mem (spadKey (clusterOf c.ctx) 0x500000) 128) = true ∧
      s.refusal (readCells s.mem (spadKey (clusterOf c.ctx) 0x500000) 128) c.tenant (s.ctx c.ctx).stream = 0) ∧
    (let s := { launching 0x40000 0 false none with pendings := List.replicate 256 (pend (recordOf 0x40000 0)) }
     (s.pendings.filter fun q => q.home / 32 == (s.homeOf 0 (recordOf 0x40000 0)).1 / 32).length = Config.pendingMax) ∧
    (∃ (s t : State) (p : Pending) (core : Nat) (cs : List Nat) (es : List (Nat × Nat)), s.pendings.find? (fun x => x.id == p.id) = some p ∧
      s.recordBefore p = false ∧ s.imageBefore (p.home / 32) p.level = false ∧ s.placeFor p = (some (.on core cs es), t) ∧ cs.Nodup ∧ s.Inv) ∧
    (∃ (s t : State) (p : Pending), s.pendings.find? (fun x => x.id == p.id) = some p ∧ s.recordBefore p = false ∧
      s.imageBefore (p.home / 32) p.level = false ∧ s.placeFor p = (some .drop, t) ∧ p.level < 3) ∧
    (∃ (s : State) (p : Pending), s.pendings.find? (fun x => x.id == p.id) = some p ∧ p.anyDie = false ∧ s.waitsHold p.record = true ∧ s.homeRoom p = none) := by
  have h1 : ((pendState (recordOf 0x40000 0)).placeFor (pend (recordOf 0x40000 0))).1 = some (.on 0 [1] []) := by decide +kernel
  let slotted : List Byte := (recordOf 0x40000 0).set 34 1
  have h2 : ((pendState slotted).placeFor (pend slotted)).1 = some .drop := by decide +kernel
  obtain ⟨t1, ht1⟩ := of_fst h1
  obtain ⟨t2, ht2⟩ := of_fst h2
  exact ⟨by decide +kernel,
    ⟨{ launching 0x40000 128 false none with insts := [{ inst with key := launchKey 0 false Handle.none 0x500000 }] },
      commandE .launch (.launch false Handle.none 0x500000 0 false none) .started, by decide +kernel⟩, by decide +kernel,
    ⟨pendState (recordOf 0x40000 0), t1, pend (recordOf 0x40000 0), 0, [1], [], rfl, by decide +kernel, by decide +kernel, ht1, by decide +kernel,
      ⟨rfl, rfl, rfl, rfl⟩⟩,
    ⟨pendState slotted, t2, pend slotted, rfl, by decide +kernel, by decide +kernel, ht2, by decide +kernel⟩,
    ⟨pendState ((recordOf 0x40000 0).set 26 5), pend ((recordOf 0x40000 0).set 26 5), by decide +kernel⟩⟩

/-- The instance of a record, running on context 0. -/
def instOf (ended : List (Nat × Nat)) (stopping : Bool) : Inst := ⟨7, 4, recordOf 0x40000 0, 0, 0, 7, 0, [0], ended, 0, stopping⟩

/-- A saved image of the instance, whose resume has been asked for. -/
def image : Image := ⟨instOf [] false, [(0, 4096)], [], List.replicate 0x1000 0, List.replicate 0x1000 0, List.replicate 4096 0, 0, [], true, 0⟩

theorem witness_InstancesEnd :
    (∃ (s : State) (c : Nat) (ks : List (Option Nat)), (s.ctx c).retiring = some ks ∧ (s.ctx c).task = none) ∧
    (∃ (s : State) (c : Nat) (ks : List (Option Nat)) (i j : Nat) (x : Inst), (s.ctx c).retiring = some ks ∧ (s.ctx c).task = some (i, j) ∧
      s.insts.find? (fun y => y.id == i) = some x ∧ (∀ t ∈ ks, s.tokDone t = true) ∧ (s.ctx c).stores = [] ∧ (s.ctx c).due = none ∧
      (∀ m ∈ s.mcmds, m.ctx ≠ c) ∧ (∀ e ∈ s.ecmds, e.ctx ≠ c) ∧ (∀ w ∈ s.walks, w.ctx ≠ c) ∧ (s.ctx c).flight = []) ∧
    (∃ (s : State) (i : Inst), s.insts.find? (fun y => y.id == i.id) = some i ∧ i.ctxs.length ≤ i.ended.length ∧ alGet s.toks i.tok = some ⟨0, none⟩ ∧
      (∀ e ∈ s.ecmds, e.tok ≠ i.tok) ∧ s.Inv ∧ refOn (recRef i.record 3) = false) ∧
    (∃ (s : State) (v : Inval), s.invals.find? (fun x => x.id == v.id) = some v ∧ s.settledFor v.tenant v.va v.len = true) ∧
    (∃ (s : State) (i : Inst), s.insts.find? (fun y => y.id == i.id) = some i ∧ i.stopping = true ∧ (∀ c ∈ i.live, s.quiet c = true) ∧ ∀ c ∈ i.ctxs, c < 4096) ∧
    (∃ (s : State) (m : Image) (core : Nat) (cs : List Nat), s.images.find? (fun y => y.inst.id == m.inst.id) = some m ∧ m.resuming = true ∧
      s.imageRoom m = some (core, cs) ∧ (∀ x ∈ s.images, x.resuming = true → x.core / 256 = m.core / 256 →
        (m.level < x.level ∨ (x.level = m.level ∧ x.inst.id < m.inst.id)) → s.imageRoom x = none) ∧
      (∀ x ∈ s.pendings, x.home / 32 = m.core / 256 → m.level < x.level → (s.placeFor x).1 = none) ∧ s.Inv) := by
  refine ⟨⟨dev { base with retiring := some [] }, 0, [], by decide +kernel⟩,
    ⟨{ dev { base with retiring := some [none], task := some (7, 0) } with insts := [instOf [] false] }, 0, [none], 7, 0, instOf [] false, rfl, rfl, rfl,
      by decide +kernel, rfl, rfl, by decide +kernel⟩,
    ⟨{ dev base with insts := [instOf [(0, 4096)] false], toks := [(4, ⟨0, none⟩)] }, instOf [(0, 4096)] false, by decide +kernel, by decide +kernel, by decide +kernel,
      fun _ h => (nomatch h), ⟨rfl, rfl, rfl, rfl⟩, by decide +kernel⟩,
    ⟨{ dev base with invals := [⟨5, 0, 0, 65536, .host⟩] }, ⟨5, 0, 0, 65536, .host⟩, by decide +kernel⟩,
    ⟨{ dev { base with task := some (7, 0) } with insts := [instOf [] true] }, instOf [] true, by decide +kernel⟩,
    ⟨{ State.reset with images := [image] }, image, 0, [1], rfl, rfl, by decide +kernel, ?_, fun _ h => (nomatch h), ⟨rfl, rfl, rfl, rfl⟩⟩⟩
  intro x hx _ _ h
  rw [List.mem_singleton.mp hx] at h
  exact absurd h (by decide +kernel)

/-- Port 5 brings packets of channels 0 and 6 from package 5, which expects packet 65535; channel 3 of cluster 0 is claimed. -/
def linked : State :=
  { dev base with links := [(5 * 8, ⟨0, none, 0, 65535, []⟩), (5 * 8 + 6, ⟨0, none, 0, 65535, []⟩)], claims := [(3, (0, 0))], present := [5] }

/-- A barrier of the cluster and one of the die. -/
def barrier (scope : Nat) (arr : List (Nat × Nat)) : Barrier := ⟨6, scope, 1, 0, 0x2040010900000000, 0, arr, [], [], []⟩

/-- A send queue of context 0 with two words, to channel 3 of cluster 0 of a package. -/
def sender (dev : Nat) : SendQ := ⟨9, none, BitVec.ofNat 64 (dev * 2 ^ 44 + 3), [(5, some 41), (6, some 42)], true⟩

theorem witness_PacketsAndBarriers :
    (∀ seq, seq = 65535 ∨ seq = 62 → linked.portOk 5 5 0 = true ∧ payloadFits (.fifoWord 0 0 3 8) 0 = true ∧ (linked.link 5 0).held = [] ∧
      (linked.link 5 0).rxNext = 65535 ∧ linked.ecmds = [] ∧ (alGet linked.claims 3).isSome = true ∧
      ((alGet linked.chans 3).getD []).length + linked.heldWords 3 < 16 ∧ (seq ≠ 65535 → (seq + 65536 - 65535) % 65536 < 64)) ∧
    (∃ (s : State) (seq : Nat), seq < 65536 ∧ s.portOk 5 5 0 = true ∧ ∃ p ∈ (s.link 5 0).held, p.1 = seq) ∧
    (∃ (s : State) (d : ECmd), s.portOk 5 5 0 = true ∧ (s.link 5 0).held = [] ∧ (s.link 5 0).rxNext = 65535 ∧ d ∈ s.ecmds ∧ d.drains 3 = true ∧
      s.findE d.id = some d ∧ d.op = .funbindRecv 3 false ∧ d.stage = .started ∧ s.sendOf d.id = none) ∧
    (linked.portOk 5 5 6 = true ∧ payloadFits (.mirrorAdd 0 3 0 65536 23) 6 = true ∧ (linked.link 5 6).held = [] ∧ (linked.link 5 6).rxNext = 65535 ∧
      (linked.extents.filter fun e => e.mirror.isSome).length + linked.heldMirrors < 256) ∧
    (∀ tries chan, tries = 6 ∨ tries = 7 → chan = 2 ∨ chan = 4 →
      ∃ (s : State) (peer : Nat) (p : Packet), p ∈ s.packetsTo peer chan ∧ (s.link peer chan).resent = some p ∧ (s.link peer chan).tries = tries) ∧
    (∃ (s : State) (p : Packet), s.packetsTo 5 2 = [p] ∧ (s.link 5 2).resent = some (.command 77) ∧ (s.link 5 2).tries = 7) ∧
    (linked.packetsTo 5 2 = []) ∧
    (∃ (s : State) (e : SendQ), s.sendOf 9 = some e ∧ e.entries = [(5, none), (6, some 42)] ∧ s.findE 9 = none) ∧
    (∀ d, d = 0 ∨ d = 5 → ∃ (s : State) (id ord : Nat) (e : SendQ) (w : W64) (ws : List (Nat × Option W64)), s.sendOf id = some e ∧ e.entries = (ord, some w) :: ws ∧
      s.sendWaits id ord = false ∧ e.addr.toNat / 2 ^ 44 = d ∧ (s.device.toNat = 0 ∧ 5 ∈ s.present ∧ 5 ∉ s.unreachable) ∧
      let key := (e.addr.toNat / 2 ^ 42 % 4 * 32 + e.addr.toNat / 2 ^ 37 % 32) * 256 + e.addr.toNat % 256
      (alGet s.claims key).isSome = true ∧ ((alGet s.chans key).getD []).length + s.heldWords key < 16) ∧
    (∃ (s : State) (b : Barrier) (cl : Nat), s.barriers.find? (fun x => x.id == b.id) = some b ∧ b.clusterDue = some cl) ∧
    (∃ (s : State) (b : Barrier) (d : Nat), s.barriers.find? (fun x => x.id == b.id) = some b ∧ b.clusterDue = none ∧ b.dieDue = some d) ∧
    (∃ (s : State) (b : Barrier), s.barriers.find? (fun x => x.id == b.id) = some b ∧ b.scope = 2 ∧ b.arrivals.length = descCtx b.desc) ∧
    (∃ (s : State) (c e : ECmd) (d : W64), s.findE c.id = some c ∧ c.op = .bar d ∧ c.stage = .queued ∧ e ∈ s.ecmds ∧ e.ctx = c.ctx ∧ e.id < c.id ∧
      e.op = .bar d) ∧
    (∃ (s : State) (c : ECmd) (d : W64) (b : Barrier), s.findE c.id = some c ∧ c.op = .bar d ∧ c.stage = .queued ∧
      s.barrierOf (descScope d) (descBar d) (descPlace d c.ctx) = some b ∧ ∃ a ∈ b.arrivals, (alGet s.toks a.1).map Tok.owner = some c.ctx) ∧
    (∃ (s : State) (c : ECmd) (d : W64), s.findE c.id = some c ∧ c.op = .bar d ∧ c.stage = .queued ∧ (∀ e ∈ s.ecmds, e.ctx = c.ctx → c.id ≤ e.id) ∧
      (∀ t ∈ c.waits, s.tokDone (some t) = true) ∧
      (∀ i ∈ c.after, i ∉ s.outstanding c.ctx) ∧ c.waitsFor s = false ∧ s.barrierOf (descScope d) (descBar d) (descPlace d c.ctx) = none) ∧
    (∃ (s : State) (c : ECmd) (d : W64) (b : Barrier), s.findE c.id = some c ∧ c.op = .bar d ∧ c.stage = .queued ∧ (∀ t ∈ c.waits, s.tokDone (some t) = true) ∧
      (∀ i ∈ c.after, i ∉ s.outstanding c.ctx) ∧ c.waitsFor s = false ∧ s.barrierOf (descScope d) (descBar d) (descPlace d c.ctx) = some b ∧
      (∀ a ∈ b.arrivals, (alGet s.toks a.1).map Tok.owner ≠ some c.ctx) ∧ descCounts b.desc = descCounts d ∧ b.tenant = c.tenant) := by
  let away : ECmd := commandE .copy (.xfer true (page 0) 0 5 0 32) .started
  let arrive : ECmd := commandE .barrier (.bar 0x2040010900000000) .queued
  let drain : ECmd := commandE .fabric (.funbindRecv 3 false) .started
  refine ⟨?_, ⟨{ linked with links := [(5 * 8, ⟨0, none, 0, 7, [(9, .empty)]⟩)] }, 9, by decide +kernel⟩,
    ⟨{ linked with ecmds := [drain] }, drain, by decide +kernel⟩, by decide +kernel, fun tries chan ht hc => ?_,
    ⟨{ withE away with links := [(5 * 8 + 2, ⟨0, some (.command 77), 7, 0, []⟩)] }, .command 0, by decide +kernel⟩, by decide +kernel,
    ⟨dev { base with sends := [⟨9, none, 0, [(5, none), (6, some 42)], false⟩] }, _, rfl, rfl, rfl⟩, fun d hd => ?_,
    ⟨{ dev base with barriers := [barrier 3 [(4, 0)]] }, barrier 3 [(4, 0)], 0, by decide +kernel⟩,
    ⟨{ dev base with barriers := [{ barrier 5 [(4, 0)] with desc := 0x5040010900000000, clusters := [0] }] },
      { barrier 5 [(4, 0)] with desc := 0x5040010900000000, clusters := [0] }, 0, by decide +kernel⟩,
    ⟨{ dev base with barriers := [barrier 2 [(4, 0)]] }, barrier 2 [(4, 0)], by decide +kernel⟩,
    ⟨{ withE arrive with ecmds := [arrive, { arrive with id := 3 }] }, { arrive with id := 3 }, arrive, 0x2040010900000000, by decide +kernel⟩,
    ⟨{ withE arrive with barriers := [barrier 2 [(8, 0)]], toks := [(4, ⟨0, none⟩), (8, ⟨0, none⟩)] }, arrive, 0x2040010900000000, barrier 2 [(8, 0)],
      by decide +kernel⟩,
    ⟨withE arrive, arrive, 0x2040010900000000, by decide +kernel⟩,
    ⟨{ withE arrive with barriers := [barrier 2 [(8, 0)]], toks := [(4, ⟨0, none⟩), (8, ⟨4, none⟩)] }, arrive, 0x2040010900000000, barrier 2 [(8, 0)], by decide +kernel⟩⟩
  · rintro seq (rfl | rfl) <;> decide +kernel
  · rcases hc with rfl | rfl
    · exact ⟨{ withE away with links := [(5 * 8 + 2, ⟨0, some (.command 0), tries, 0, []⟩)] }, 5, .command 0, by rcases ht with rfl | rfl <;> decide +kernel⟩
    · exact ⟨{ served (bringing loftPage .sext false) [] with links := [(3 * 8 + 4, ⟨0, some (.result 0 0), tries, 0, []⟩)] }, 3, .result 0 0,
        by rcases ht with rfl | rfl <;> decide +kernel⟩
  · refine ⟨{ dev { base with sends := [sender d] } with claims := [(3, (0, 0))], present := [5] }, 9, 5, sender d, 41, [(6, some 42)], ?_⟩
    rcases hd with rfl | rfl <;> decide +kernel

/-- A start whose image passes rests on values of Config that no proof can see (log entry 59): of the verdict, the failing case is shown. -/
theorem witness_ResetsStartsAndPower :
    (∃ s : State, s.host.mode = .shutDown ∧ s.host.startReq = true ∧ s.host.heat.toNat < 95) ∧
    (∃ s : State, s.host.mode ≠ .shutDown ∧ s.host.startReq = true ∧ (imageVerdict s.host.flash).1 ≠ 0) ∧
    (∃ s : State, s.host.writing = some []) ∧
    (∃ (s : State) (w : BitVec 12) (x : BitVec 8), s.host.mode ≠ .shutDown ∧ s.host.watts.toNat < w.toNat ∧ x.toNat < 110) ∧
    (∃ (s : State) (w : BitVec 12) (x : BitVec 8), s.host.mode ≠ .shutDown ∧ 95 ≤ x.toNat ∧ x.toNat < 110 ∧ w = s.host.watts) ∧
    (∃ (s : State) (w : BitVec 12) (x : BitVec 8), s.host.mode ≠ .shutDown ∧ w.toNat < s.host.watts.toNat ∧ x.toNat < 95) :=
  ⟨⟨{ State.reset with host := { HostIf.reset with mode := .shutDown, heat := 94 } }, by decide +kernel⟩,
    ⟨State.reset, nofun, rfl, by
      have h : State.reset.host.flash.length ≠ 4096 + imageField State.reset.host.flash 12 4 := by decide +kernel
      unfold imageVerdict
      rw [if_pos (Or.inl h)]
      decide⟩,
    ⟨{ State.reset with host := { HostIf.reset with writing := some [] } }, rfl⟩,
    ⟨State.reset, 2601, 109, by decide +kernel⟩, ⟨State.reset, 2600, 95, by decide +kernel⟩, ⟨State.reset, 2599, 94, by decide +kernel⟩⟩

/-- The device runs. -/
def running : State := { dev base with host := { HostIf.reset with mode := .running } }

theorem witness_HostAccesses :
    (∃ (s : State) (off : Nat) (die : Nat), die < 4 ∧ s.host.mode = .running ∧ off % 8 = 0 ∧ off + 8 = Config.windowSize ∧
      ∀ j < 8 / 4, (cellAt s.tags (tagKey (clusterOf (s.streamCtx die)) (off + 4 * j)) == 0) = true) ∧
    (∃ (s : State) (off : Nat) (die : Nat), die < 4 ∧ s.host.mode = .running ∧ off % 8 = 0 ∧ off + 8 ≤ Config.windowSize ∧
      ∃ j < 8 / 4, (cellAt s.tags (tagKey (clusterOf (s.streamCtx die)) (off + 4 * j)) == 0) = false) ∧
    (∀ p ∈ [(0, 2), (4, 8), (0x600000, 4), (0xE00000, 4)], p.1 < 2 ^ 24 ∧ ((p.2 ≠ 4 ∧ p.2 ≠ 8) ∨ p.1 % p.2 ≠ 0 ∨
      (Config.windowSize < p.1 + p.2 ∧ p.1 < 0x800000) ∨ 0x800000 + Config.windowSize < p.1 + p.2)) ∧
    State.reset.host.fails ≤ 3 := by
  exact ⟨⟨running, 0x5FFFF8, 3, by decide +kernel⟩, ⟨{ running with tags := setTags [] 96 0x5FFFF8 [false, true] }, 0x5FFFF8, 3, by decide +kernel⟩, by decide, Nat.zero_le 3⟩

/-- The host's mailbox holds a command. -/
def mailed (cmd : BitVec 8) (a b c d : W64) : State :=
  { dev base with host := { HostIf.reset with mode := .running, mbBusy := true, mbCmd := cmd, mbArg := #v[a, b, c, d] } }

theorem witness_MailboxCommands :
    (∀ (cmd : BitVec 8) (a b c d : W64), ∃ s : State, s.host.mode = .running ∧ s.host.mbBusy = true ∧ s.host.writing = none ∧ (∀ i ∈ s.invals, i.rq ≠ .host) ∧
      s.host.mbArg = #v[a, b, c, d] ∧ s.host.mbCmd = cmd) ∧
    (∀ cmd : BitVec 8, cmd = 0x07 ∨ cmd = 0x09 → ∃ (s : State) (i : Inst), s.host.mode = .running ∧ s.host.mbBusy = true ∧ s.host.mbCmd = cmd ∧
      s.host.mbArg = #v[0, 0, 0, 0] ∧ s.runningNamed 0 = some (.inl i)) ∧
    (∃ (s : State) (m : Image), s.host.mode = .running ∧ s.host.mbBusy = true ∧ s.host.mbCmd = 0x08 ∧ s.host.mbArg = #v[0, 0, 0, 0] ∧
      s.savedNamed 0 = some (.inr m)) := by
  refine ⟨fun cmd a b c d => ⟨mailed cmd a b c d, rfl, rfl, rfl, fun _ h => (nomatch h), rfl, rfl⟩,
    fun cmd _ => ⟨{ mailed cmd 0 0 0 0 with insts := [instOf [] false] }, instOf [] false, rfl, rfl, rfl, rfl, rfl⟩,
    ⟨{ mailed 0x08 0 0 0 0 with images := [image] }, image, rfl, rfl, rfl, rfl, rfl⟩⟩

/-- Nothing comes before the bundle of context 0. -/
def clear (s : State) : Bool :=
  s.nextEvent.isNone && (s.woken exec).isEmpty && s.offered (coreOf s.cur) == some s.cur && s.here.due.isNone && (s.userInterrupt s.cur).isNone &&
    !s.mustWait && s.newCycle.here.due.isNone && !State.codeHeld { s.newCycle.setHere { s.newCycle.here with run := .running } with status := .ok }

/-- A running device whose context 0 has words at its PC. -/
theorem issues_of {k : Ctx} {ws : List Nat} {a : Nat} (h : clear (coded k 0x40000 ws) = true)
    (hw : (State.bundleWords { (coded k 0x40000 ws).newCycle.setHere { (coded k 0x40000 ws).newCycle.here with run := .running }
      with status := .ok }).1 = .ok (a, ws)) :
    ∃ u, (coded k 0x40000 ws).Issues u ws := by
  obtain ⟨v, hv⟩ := of_fst hw
  simp only [clear, Bool.and_eq_true, Option.isNone_iff_eq_none, List.isEmpty_iff, beq_iff_eq, Bool.not_eq_true'] at h
  obtain ⟨⟨⟨⟨⟨⟨⟨ev, wo⟩, tu⟩, du⟩, ui⟩, wa⟩, qu⟩, he⟩ := h
  exact ⟨_, rfl, .inr ev, rfl, wo, tu, du, ui, wa, qu, he, a, v, hv, rfl⟩

/-- add.d x3, x4, x5 with STOP issues; so do an empty bundle, a bundle of a malformed word, and one with a trap. -/
theorem witness_StepRunsDecoded :
    (∃ (s u : State) (ws : List Nat) (b : Bundle), s.Issues u ws ∧ s.here.rep = none ∧ decodeBundle (ws.headD 0) ws.tail = .ok b ∧ b.rep = none ∧
      b.slots = [(.X, .add p0 .x 3 4 5 3)] ∧ isTrap (.add p0 .x 3 4 5 3) = false) ∧
    (∃ (s u : State) (ws : List Nat) (b : Bundle), s.Issues u ws ∧ s.here.rep = none ∧ decodeBundle (ws.headD 0) ws.tail = .ok b ∧ b.rep = none ∧ b.slots = []) := by
  obtain ⟨u1, h1⟩ := issues_of (k := base) (ws := [0xC0000000, 0x00032170]) (a := 0x40000) (by decide +kernel) (by decide +kernel)
  obtain ⟨u2, h2⟩ := issues_of (k := base) (ws := [0x80000000]) (a := 0x40000) (by decide +kernel) (by decide +kernel)
  exact ⟨⟨_, u1, _, _, h1, rfl, rfl, rfl, rfl, rfl⟩, ⟨_, u2, _, _, h2, rfl, rfl, rfl, rfl⟩⟩

theorem witness_BundlesRunOrStop :
    (∀ ws : List Nat, ws = [0x80600000] ∨ ws = [0xC0000000, 0xBC000005] ∨ ws = [0xC0000000, 0xC0000000] ∨ ws = [0x84800000, 0x1040] →
      ∃ (k : Ctx) (u : State), (coded k 0x40000 ws).Issues u ws) ∧
    (∃ s t : State, RunsTo s [.add p0 .x 3 4 5 3, .liX p0 6 1] t ∧ t.here.flight.length ≤ 64) ∧
    (∃ (k : Ctx) (s t : State), s = dev k ∧ RunsTo s [.liX p0 6 1] t ∧ 64 < t.here.flight.length) := by
  refine ⟨fun ws h => ?_, ⟨dev base, _, .cons _ _ _ _ _ rfl (by decide +kernel) (.cons _ _ _ _ _ rfl (by decide +kernel) (.nil _)), by decide +kernel⟩,
    ⟨{ base with flight := List.replicate 64 arrived }, _, _, rfl, .cons _ _ _ _ _ rfl (by decide +kernel) (.nil _), by decide +kernel⟩⟩
  have issue (a : List Nat) (ha : ws = a) (h : ∃ u, (coded base 0x40000 a).Issues u a) : ∃ (k : Ctx) (u : State), (coded k 0x40000 ws).Issues u ws := by
    subst ha
    exact ⟨base, h⟩
  rcases h with h | h | h | h <;> refine issue _ h (issues_of (a := 0x40000) ?_ ?_) <;> decide +kernel

theorem witness_IssueLeavesTheRest :
    (∃ (s t : State) (i : Instr), (slotWord i).isSome = true ∧ exec i s = .next t ∧ t.status = .ok ∧ isWnext i = false ∧ isBranch i = false ∧
      storesBytes i = false ∧ changesTags i = false ∧ changesSems i = false) ∧
    (∃ (s : State) (i : Instr) (g : Guard), guardOf i = some g ∧ s.here.enabled g = false ∧ exec i s = .next s) ∧
    (∃ (s t : State) (i : Instr) (g : Guard) (w l : Nat), guardOf i = some g ∧ slotWord i = some (.V, w, l) ∧ s.here.laneMask g = 0 ∧ exec i s = .next t ∧
      t.status = .ok) :=
  ⟨⟨dev base, _, .add p0 .x 3 4 5 3, by decide +kernel, rfl, by decide +kernel⟩, ⟨dev base, .add ⟨false, 1⟩ .x 3 4 5 3, ⟨false, 1⟩, rfl, by decide +kernel, rfl⟩,
    ⟨dev base, dev base, .vadd ⟨false, 1⟩ 1 2 3 .fp32 0, ⟨false, 1⟩, _, _, rfl, rfl, by decide +kernel, rfl, rfl⟩⟩

theorem witness_DecodeUndoesEncode : ∃ (i : Instr) (k : SlotKind) (w l : Nat), i.wf = true ∧ slotWord i = some (k, w, l) :=
  ⟨.addi p0 .y 3 3 (-1), .Y, 0x40031FFF, 7, by decide +kernel⟩

theorem witness_ReservedEncodingsRefused :
    (∀ _k : SlotKind, ∃ w : Nat, w < 2 ^ 32 ∧ w / 2 ^ 26 = 0x3F) ∧ (∃ w : Nat, w < 2 ^ 32 ∧ w / 2 ^ 26 = 0 ∧ w.testBit 25 = true ∧ w / 2 ^ 21 % 16 = 0) ∧
    (∃ (k : SlotKind) (w l : Nat) (i : Instr), decodeSlot k w l = .ok i) ∧ (∃ h : Nat, h.testBit 22 = true ∧ h.testBit 21 = false) ∧
    (∃ (h : Nat) (k : SlotKind), h.testBit (30 - k.code) = false ∧ h / 2 ^ (18 - 3 * k.code) % 8 ≠ 0) ∧
    (∃ h : Nat, h.testBit 23 = true ∧ h.testBit 26 = false) ∧
    (∃ (h : Nat) (ws : List Nat) (m : Nat), h.testBit 23 = true ∧ ws[(List.range 4).countP fun j => h.testBit (30 - j)]? = some m ∧
      m / 2 ^ 26 % 2 ^ 6 ∉ [0, 1, 4, 6, 7]) :=
  ⟨fun _ => ⟨0xFC000000, by decide⟩, ⟨0x02000000, by decide⟩, ⟨.X, 0x000739B0, 0, .add p0 .x 7 7 6 3, by decide +kernel⟩, ⟨0x00400000, by decide⟩,
    ⟨0x40000007, .S, by decide⟩, ⟨0x00800000, by decide⟩, ⟨0x84800000, [0x08000000], 0x08000000, by decide⟩⟩

theorem witness_StepKeepsInvariant : ∃ s t : State, s.Inv ∧ step s = .next t := by
  have h : (look (step State.reset) fun _ => ()) = some () := by decide +kernel
  rcases e : step State.reset with t | f | r
  · exact ⟨State.reset, t, ⟨rfl, rfl, rfl, rfl⟩, e⟩
  · rw [e] at h; cases h
  · rw [e] at h; cases h

/-! ### Clauses of their own -/

/-- Every x and y register but register 0 is poisoned. -/
def allPoisoned : Ctx := { base with regs := { Regs.reset with x := Vector.replicate 32 ⟨8, true⟩, y := Vector.replicate 32 ⟨8, true⟩ } }

theorem witness_ComparesLogicSelect_poison : ∀ c : Cl,
    (∃ (s : State) (a b : BitVec 5), s.here.enabled p0 = true ∧ s.here.plain c a ∧ s.here.plain c b ∧ (s.here.scalar c a).poison = true) ∧
    (∃ (s : State) (a b : BitVec 5), s.here.enabled p0 = true ∧ s.here.plain c a ∧ s.here.plain c b ∧ (s.here.scalar c a).poison = false ∧
      (s.here.scalar c b).poison = true) := by
  intro c
  refine ⟨⟨dev allPoisoned, 31, 0, ?_⟩, ⟨dev allPoisoned, 0, 31, ?_⟩⟩ <;> cases c <;> unfold Ctx.plain <;> decide +kernel

theorem witness_Branches_targets :
    (∃ (s : State) (a : BitVec 5), s.here.enabled p0 = true ∧ (s.here.regs.rx a).poison = true ∧ a = 30) ∧
    (∃ (s : State) (a : BitVec 5), s.here.enabled p0 = true ∧ (s.here.regs.rx a).poison = false ∧ (s.here.regs.rx a).val.toNat % 16 ≠ 0 ∧ a = 30) :=
  ⟨⟨dev allPoisoned, 30, by decide +kernel⟩, ⟨dev (withX base [(30, 15)]), 30, by decide +kernel⟩⟩

theorem witness_SpecialRegisters_ebp : ∀ v : W64, v = 1 ∨ v = 0x0400000000000000 ∨ v = 0x8000000000000000 →
    ∃ (s : State) (a : BitVec 5) (k : SlotKind) (w l : Nat), s.here.enabled p0 = true ∧ s.here.handler = true ∧ (s.here.regs.rx a).poison = false ∧
      (s.here.regs.rx a).val = v ∧ (v &&& 0x7CF000000000000F ≠ 0 ∨ (v.getLsbD 63 = true ∧ v.extractLsb' 56 2 = 0)) ∧
      slotWord (.mtsr p0 a 0x13) = some (k, w, l) := by
  intro v h
  refine ⟨dev { withX base [(1, v)] with handler := true }, 1, .X, _, _, ?_, rfl, ?_, ?_, ?_, rfl⟩ <;> rcases h with rfl | rfl | rfl <;> decide +kernel

/-- The tables of tenant 0 at 0x100000, 0x108000, 0x10A000 and 0x10A200 map its first small page to physical page 7, readable and in class 1. -/
def mapped : State :=
  let entry (a : Nat) (e : Nat) : List (Nat × List Byte) := [(hbmKey a, leBytes 16 e)]
  let table (a : Nat) : Nat := 2 * 2 ^ 62 + a
  let leaf : Nat := 3 * 2 ^ 62 + 1 * 2 ^ 57 + 4 * 2 ^ 54 + 7 * 2 ^ 16
  { dev base with
    roots := [(0, 0x100000)]
    mem := (entry 0x100000 (table 0x108000) ++ entry 0x108000 (table 0x10A000) ++ entry 0x10A000 (table 0x10A200) ++ entry 0x10A200 leaf).foldl
      (fun m p => writeCells m p.1 p.2) [] }

theorem witness_XlatStarts_walks :
    (∃ (s : State) (e : Tlb), e ∈ s.tlb ∧ e.die = 0 ∧ e.tenant = 0 ∧ e.leaf.covers 0xFFFF = true) ∧
    (∃ s : State, s.tlb = [] ∧ alGet s.roots 0 = none) ∧
    (∃ (s : State) (root : BitVec 64) (h : Handle), s.tlb = [] ∧ alGet s.roots 0 = some root ∧ (s.translate 0 0 0xFFFF).1 = some h ∧ h.ppn = 7) ∧
    (∃ (s : State) (root : BitVec 64), s.tlb = [] ∧ alGet s.roots 0 = some root ∧ (s.translate 0 0 0x10000).1 = none) :=
  ⟨⟨{ dev base with tlb := [⟨0, 0, codeLeaf 0⟩] }, ⟨0, 0, codeLeaf 0⟩, by decide +kernel⟩, ⟨dev base, rfl, rfl⟩,
    ⟨mapped, _, _, rfl, rfl, (by decide +kernel : (mapped.translate 0 0 0xFFFF).1 = some { Handle.none with valid := true, lclass := 1, perm := 4, ppn := 7 }), rfl⟩,
    ⟨mapped, _, rfl, rfl, by decide +kernel⟩⟩

/-- y1 is misaligned, y2 is the window's end, and lane 63 of v1 is 1, that of v2 the window's size. -/
def outside : Ctx :=
  withV (withV (withY base [(1, 1), (2, 0x600000)]) 1 (Vector.ofFn fun j : Fin 64 => if j.val = 63 then 1 else 0)) 2
    (Vector.ofFn fun j : Fin 64 => if j.val = 63 then 0x600000 else 0)

theorem witness_AccessChecks_local :
    (∃ (s : State) (a : BitVec 5), s.here.enabled p0 = true ∧ (s.here.regs.ry a).poison = true) ∧
    (∃ (s : State) (a : BitVec 5), s.here.enabled p0 = true ∧ (s.here.regs.ry a).poison = false ∧
      localAddr (s.here.regs.ry a).val 256 (-1 : BitVec 8) % 2 ^ (1 : BitVec 2).toNat ≠ 0) ∧
    (∃ (s : State) (a : BitVec 5), s.here.enabled p0 = true ∧ (s.here.regs.ry a).poison = false ∧ localAddr (s.here.regs.ry a).val 256 (0 : BitVec 11) % 4 = 0 ∧
      ¬ s.localOk (localAddr (s.here.regs.ry a).val 256 (0 : BitVec 11)) 4 256) ∧
    (∃ (s : State) (i a : BitVec 5), s.here.enabled p0 = true ∧ (s.here.regs.ry a).poison = false ∧
      let at_ (j : Nat) : Nat := ((s.here.regs.ry a).val + (lane (s.here.regs.rv i) j).setWidth 64).toNat
      at_ 63 % 4 ≠ 0 ∧ ∀ m < 63, at_ m % 4 = 0) ∧
    (∃ (s : State) (i a : BitVec 5), s.here.enabled p0 = true ∧ (s.here.regs.ry a).poison = false ∧
      let at_ (j : Nat) : Nat := ((s.here.regs.ry a).val + (lane (s.here.regs.rv i) j).setWidth 64).toNat
      (∀ m < 64, at_ m % 4 = 0) ∧ ¬ s.localOk (at_ 63) 4 4 ∧ ∀ m < 63, s.localOk (at_ m) 4 4) ∧
    (∃ (s : State) (t a : BitVec 5), s.here.enabled p0 = true ∧ s.here.plain .x t ∧ (s.here.regs.ry a).poison = false ∧
      s.localOk (localAddr (s.here.regs.ry a).val 8 (0 : BitVec 7)) 8 8 ∧ (s.here.scalar .x t).poison = true) := by
  refine ⟨⟨dev poisoned, 1, ?_⟩, ⟨dev outside, 1, ?_⟩, ⟨dev outside, 2, ?_⟩, ⟨dev outside, 1, 0, ?_⟩, ⟨dev outside, 2, 0, ?_⟩,
    ⟨dev { base with regs := { Regs.reset with x := vset Regs.reset.x 9 ⟨7, true⟩ } }, 9, 0, ?_⟩⟩ <;>
    (try unfold State.localOk) <;> (try unfold Ctx.plain) <;> decide +kernel

theorem witness_AccessChecks_pages :
    (∃ (s : State) (o : BitVec 5), s.here.enabled p0 = true ∧ (s.here.regs.ry o).poison = true) ∧
    (∃ (s : State) (hn : BitVec 4), s.here.enabled p0 = true ∧ (s.here.regs.rh hn).valid = false) ∧
    (∀ h : Handle, h = { page 0 with perm := 3 } ∨ h = { page 0 with lclass := 0 } →
      h.valid = true ∧ ¬ (h.perm.getLsbD 2 = true ∧ h.lclass ≠ 0)) ∧
    ({ page 0 with perm := 5 }.valid = true ∧ { page 0 with perm := 5 }.perm.getLsbD 1 = false) ∧
    (∀ n, n = 16 ∨ n = 256 → ∃ o : Nat, (page 0).valid = true ∧ (page 0).perm = 7 ∧ (page 0).lclass ≠ 0 ∧ o % 16 = 0 ∧ pageBytes (page 0).size < o + n) ∧
    (∃ (s : State) (hn : BitVec 4) (o : BitVec 5), s.here.enabled p0 = true ∧ (s.here.regs.ry o).poison = false ∧ s.pageOk (s.here.regs.rh hn) 0 8 1 true ∧
      (s.here.regs.rh hn).lclass ≠ 0 ∧ (s.here.regs.rh hn).kv = false) ∧
    (∃ (s : State) (hn : BitVec 4) (o : BitVec 5), s.here.enabled p0 = true ∧ (s.here.regs.ry o).poison = false ∧
      s.pageOk (s.here.regs.rh hn) (s.here.regs.ry o).val.toNat 16 16 true ∧ s.pageOk (s.here.regs.rh hn) (s.here.regs.ry o).val.toNat 16 16 false ∧
      (s.here.regs.rh hn).lclass ≠ 0 ∧ (s.here.regs.rh hn).tgt = 2) ∧
    (∀ t : BitVec 5, t = 8 ∨ t = 9 → ∃ (s : State) (hn : BitVec 4) (o : BitVec 5), s.here.enabled p0 = true ∧ (s.here.regs.ry o).poison = false ∧
      s.pageOk (s.here.regs.rh hn) (s.here.regs.ry o).val.toNat 16 16 false ∧ (s.here.regs.rh hn).tgt ≠ 2 ∧ s.here.plain .y 9 ∧
      (s.here.scalar .y 9).poison = true ∧ ((s.here.regs.ry t).poison = true ∨ (s.here.regs.ry (t + 1)).poison = true)) := by
  refine ⟨⟨dev poisoned, 1, by decide +kernel⟩, ⟨dev base, 0, by decide +kernel⟩, ?_, by decide +kernel, ?_, ⟨pages, 1, 1, ?_⟩, ⟨pages, 3, 1, ?_⟩, ?_⟩
  · rintro h (rfl | rfl) <;> decide +kernel
  · rintro n (rfl | rfl)
    · exact ⟨65536, by decide +kernel⟩
    · exact ⟨65296, by decide +kernel⟩
  · unfold State.pageOk; decide +kernel
  · unfold State.pageOk; decide +kernel
  · intro t h
    refine ⟨dev (withH { base with regs := { Regs.reset with y := vset Regs.reset.y 9 ⟨7, true⟩ } } 1 (page 0)), 1, 0, ?_⟩
    rcases h with rfl | rfl <;> unfold State.pageOk Ctx.plain <;> decide +kernel

theorem witness_VectorFloatLanes_exp2 :
    fp32 0x7FC00000 = .nan ∧ (∀ neg : Bool, fp32 (if neg then 0xFF800000 else 0x7F800000) = .inf neg) ∧ fp32 0xC2FE0000 = .fin true 0xFE0000 (-17) ∧
    fp32 0x42FFFFFF = .fin false 0xFFFFFF (-17) := by
  refine ⟨by decide, ?_, by decide, by decide⟩
  intro neg
  cases neg <;> decide

theorem witness_VectorConversions_codes :
    (∀ f : Fmt, f = .e4m3 ∨ f = .mxfp4 ∨ f = .e5m2 → f.isFloat = true) ∧
    (∃ c : Nat, c < 2 ^ Fmt.e5m2.width ∧ numOf .e5m2 c = .nan) ∧ (∃ c : Nat, c < 2 ^ Fmt.e5m2.width ∧ numOf .e5m2 c = .inf true) ∧
    (∃ (c m : Nat) (e : Int), c < 2 ^ Fmt.e5m2.width ∧ numOf .e5m2 c = .fin true m e) ∧
    (Fmt.int8.isFloat = false ∧ Fmt.int32.isFloat = false ∧ Fmt.int8.width < Fmt.int32.width ∧ Fmt.int8.isMx = false ∧ Fmt.mxint8.isMx = true) :=
  ⟨by rintro f (rfl | rfl | rfl) <;> rfl, ⟨0x7F, by decide⟩, ⟨0xFC, by decide⟩, ⟨0xC1, 5, -1, by decide⟩, by decide⟩

/-- A list with one index of its own, one of both and then SENT. -/
def indices (own : W32) : Lanes :=
  Vector.ofFn fun i : Fin 64 => if i.val = 0 then own else if i.val = 1 then 9 else 0xFFFFFFFF

theorem witness_VectorMerges_sorted : ∃ (s : State) (a b : BitVec 5), s.here.laneMask p0 ≠ 0 ∧
    (∀ v : BitVec 5, v = a ∨ v = b → ∀ j < 64, ∀ i < j, (lane (s.here.regs.rv v) i).toNat < (lane (s.here.regs.rv v) j).toNat ∨
      (lane (s.here.regs.rv v) j).toNat = 0xFFFFFFFF) ∧
    (lane (s.here.regs.rv a) 0).toNat < (lane (s.here.regs.rv b) 0).toNat ∧ lane (s.here.regs.rv a) 1 = lane (s.here.regs.rv b) 1 ∧
    lane (s.here.regs.rv a) 2 = 0xFFFFFFFF ∧ lane (s.here.regs.rv b) 2 = 0xFFFFFFFF :=
  ⟨dev (withV (withV base 1 (indices 3)) 2 (indices 5)), 1, 2, by decide +kernel, by rintro v (rfl | rfl) <;> decide +kernel, by decide +kernel⟩

theorem witness_TransfersIssue_late : ∀ late : Bool, ∃ (s : State) (hn : BitVec 4) (q : BitVec 3), s.here.enabled p0 = true ∧ s.takesCommand ∧
    s.quadClean q [0, 1, 2, 3] ∧ (s.here.regs.rh hn).grants false ∧ s.here.late 0 = late := by
  intro late
  refine ⟨dev (waitsFor (withH (quadOf 0x100000 0x200000 0x0000100000000100 0) 1 (page 0)) (if late then 0 else 1)), 1, 2, ?_, ⟨fun _ h => (nomatch h), show 0 < 64 by decide⟩, ?_⟩ <;>
    cases late <;> (try unfold State.quadClean Handle.grants) <;> decide +kernel

theorem witness_UnitCommandsIssue_late :
    (∀ late : Bool, ∃ (s : State) (q : BitVec 3), s.here.enabled p0 = true ∧ s.takesCommand ∧ s.quadClean q [0] ∧
      s.binMine ((s.quadVal q 0).toNat / 2 ^ 48 % 2 ^ 8) ∧
      (if late then ∃ n < 16, s.here.late (BitVec.ofNat 4 n) = true else ∀ n < 16, s.here.late (BitVec.ofNat 4 n) = false)) ∧
    (∃ (s : State) (wc q : BitVec 3), s.here.enabled p0 = true ∧ s.takesCommand ∧ s.quadClean q [0] ∧ (s.quadVal q 0).toNat % 32 = 0 ∧
      s.here.allots (s.quadVal q 0).toNat 32 = true ∧ s.here.late 0 = true ∧ (s.here.regs.rw wc).state ∉ [1, 2, 5]) := by
  refine ⟨fun late => ⟨if late then dev (waitsFor (quadOf 0 0 0 0) 15) else dev (quadOf 0 0 0 0), 2, ?_⟩,
    ⟨dev (waitsFor (quadOf 0x5FFFE0 0 0 0) 0), 0, 2, by decide +kernel, ⟨fun _ h => (nomatch h), show 0 < 64 by decide⟩, ?_⟩⟩
  · cases late <;> refine ⟨by decide +kernel, ⟨fun _ h => (nomatch h), show 0 < 64 by decide⟩, ?_⟩ <;> unfold State.quadClean State.binMine <;> decide +kernel
  · unfold State.quadClean; decide +kernel

/-- A result of each kind, due in the next cycle. -/
def arriving : Ctx :=
  let f (i : Nat) (r : Result) : Flight := ⟨i, r, 1, 0, false, true, false, none, none, false, false⟩
  { base with
    sends := [⟨4, none, 0, [(3, none), (4, none)], false⟩]
    flight := [f 0 (.x 31 ⟨1, false⟩), f 1 (.y 31 ⟨1, false⟩), f 2 (.yPoison 31), f 3 (.p 15 1 1), f 4 (.v 31 (1 <<< 63) (Vector.replicate 64 7)),
      f 5 (.sc 15 (Vector.replicate 64 7)), f 6 (.h 15 (page 0)), f 7 (.k 15 (some 3)), f 8 (.l 7 5), f 9 (.b 7 5), f 10 (.w 7 5), f 11 (.sr 0x13 5),
      { f 12 (.v 30 1 (Vector.replicate 64 7)) with event := some ⟨0, 0, 0, 0, 0⟩ }, f 13 .clrFel, f 14 (.f 4 1 3 .Y ⟨8, false⟩), f 15 (.f 4 1 4 .Y ⟨8, true⟩)] }

theorem witness_CyclesPass_results : arriving.shown = false ∧ arriving.dueNext.map Flight.id = List.range 16 ∧
    arriving.reaching (fun r => match r with | .x e v => if e = 31 then some v else none | _ => none) = [⟨1, false⟩] ∧
    arriving.newCycle.regs.ry 31 = ⟨1, true⟩ ∧ arriving.newCycle.sr.ebp = 5 ∧ (arriving.newCycle.due.map TrapRec.cls) = some 8 ∧
    arriving.newCycle.sends.map SendQ.entries = [[(3, some 8)]] := by decide +kernel

/-- A repeat head with its body's words: rep(1) mma.i8 ac0, y2, y1. -/
def headOf (k : Ctx) (ws : List Nat) : State :=
  { coded { k with sr := { Srs.reset with lc := 4, rsta := 4096, rstb := 4096 } } 0x40100 ([0x84800000, 0x1040] ++ ws) with header := 0x84800000 }

/-- A body with an M slot, one with a REP bit, one with a branch, and one that writes y1: `addi y1, y1, -1`. -/
theorem witness_RepeatIssues_refused :
    (∀ k : Ctx, k = { base with handler := true } ∨ k = { base with branch := some (0x40000, 3) } ∨ k = { base with delay := 1 } →
      ∃ (s : State), (s.here.handler = true ∨ s.here.branch ≠ none ∨ s.here.delay ≠ 0)) ∧
    (∀ ws : List Nat, ws = [0x84000000, 0x2C000000] ∨ ws = [0x80800000] ∨ ws = [0xC0000000, 0x903FFFFD] ∨ ws = [0xA0038000, 0x40010FFF] →
      ∃ (s : State) (body : List (Nat × List W32)) (after : Nat) (v : State),
        s.readBody (s.here.pc.toNat + bundleSize s.header.toNat) 1 = (.ok (body, after), v) ∧ s.here.handler = false ∧ s.here.branch = none ∧
        s.here.delay = 0 ∧ body.map (fun p => p.2.map BitVec.toNat) = [ws] ∧
        (ws = [0xA0038000, 0x40010FFF] → decodeBundle 0xA0038000 [0x40010FFF] = .ok ⟨true, none, [(.Y, .addi p0 .y 1 1 (-1))], 0, 8⟩)) := by
  refine ⟨fun k h => ?_, fun ws h => ?_⟩
  · exact ⟨headOf k [], by rcases h with rfl | rfl | rfl <;> decide +kernel⟩
  · have hb : ((headOf base ws).readBody ((headOf base ws).here.pc.toNat + bundleSize (headOf base ws).header.toNat) 1).1 = .ok ([(0x40108, ws.map (BitVec.ofNat 32))], 0x40108 + 4 * ws.length) := by
      rcases h with rfl | rfl | rfl | rfl <;> decide +kernel
    obtain ⟨v, hv⟩ := of_fst hb
    refine ⟨headOf base ws, _, _, v, hv, rfl, rfl, rfl, ?_, ?_⟩ <;> rcases h with rfl | rfl | rfl | rfl <;> decide +kernel

/-- An elastic result of x1 that has arrived and whose latency has elapsed, and a poisoned word for a send queue. -/
theorem witness_TrapEntry_capture :
    let visible (f : Flight) : Prop :=
      f.left = 0 ∧ f.arrived = true ∧ f.landed = false ∧ ∀ q n ord slot v, f.res = .f q n ord slot v → v.poison = false
    let f : Flight := { waiting true none with res := .x 1 ⟨9, false⟩, arrived := true }
    visible f ∧ (∀ e ∈ [f], visible e → ∀ v, e.res = .x 1 v → e = f) ∧ ¬ visible { f with res := .f 4 1 3 .Y ⟨8, true⟩ } ∧
      ¬ visible { f with arrived := false } := by
  refine ⟨⟨rfl, rfl, rfl, nofun⟩, fun e he _ _ _ => List.mem_singleton.mp he, fun h => ?_, fun h => by cases h.2.1⟩
  have := h.2.2.2 4 1 3 .Y ⟨8, true⟩ rfl
  cases this

/-- A load that is made again, whose bytes lie across a store of which a granule is performed, or that no such store touches. -/
theorem witness_ResultEvents_torn : ∀ torn : Bool, ∃ (s : State) (f : Flight) (h : Handle), (s.ctx 0).flightOf 0 = some f ∧
    (s.ctx 0).trapped f = false ∧ f.redo = some (.load 1 0 h 0 8 0 .sext) ∧ f.elastic = true ∧ f.again = true ∧ h.tgt = 0 ∧
    s.tearsLoad 0 h 0 8 = torn := by
  intro torn
  let h : Handle := page 0
  let f : Flight := bringing h .sext true
  let k : Ctx := { base with flight := [f], torn := if torn then [7] else [], stores := [.store 3 7 2 (hbmKey 0) [4] none] }
  exact ⟨dev k, f, h, rfl, by cases torn <;> decide +kernel, rfl, rfl, rfl, rfl, by cases torn <;> decide +kernel⟩

theorem witness_InstancesEnd_ended : ∃ (s : State) (i : Inst), s.insts.find? (fun y => y.id == i.id) = some i ∧ i.stopping = true ∧
    i.ended = [(0, 4097)] ∧ ∀ c ∈ i.live ++ i.ended.map Prod.snd, s.quiet c = true :=
  ⟨{ dev { base with task := some (7, 0) } with insts := [instOf [(0, 4097)] true] }, instOf [(0, 4097)] true, by decide +kernel⟩

theorem witness_PacketsAndBarriers_ends :
    (∀ chan, chan = 0 ∨ chan = 6 → chan ∉ [2, 3, 4, 5] ∧ (256 : Nat) / 256 ≠ State.reset.device.toNat / 256) ∧
    (∃ (s : State) (e : SendQ) (c : ECmd), s.sendOf 9 = some e ∧ e.entries = [] ∧ e.closed = true ∧
      s.ecmds.find? (fun d => d.op == .funbindSend e.id) = some c ∧ (∀ d ∈ s.ecmds, d.op = .funbindSend e.id → d.stage = .started)) := by
  refine ⟨by rintro chan (rfl | rfl) <;> decide +kernel, ?_⟩
  let c : ECmd := commandE .fabric (.funbindSend 9) .started
  exact ⟨{ withE c with ctxs := [(0, { base with sends := [⟨9, none, 0, [], true⟩] })] }, ⟨9, none, 0, [], true⟩, c, by decide +kernel⟩

theorem witness_ResetsStartsAndPower_clock :
    (∃ s : State, s.host.mode ≠ .shutDown ∧ s.host.lowering = true ∧ s.host.watts = 2600) ∧
    (∃ (s : State) (w : BitVec 12) (x : BitVec 8), s.host.mode ≠ .shutDown ∧ x.toNat < 110 ∧
      ¬ (s.host.watts.toNat < w.toNat ∨ 95 ≤ x.toNat ∨ (s.host.lowering = true ∧ s.host.watts.toNat ≤ w.toNat)) ∧ w = s.host.watts) ∧
    (∃ (s : State) (w : BitVec 12) (x : BitVec 8), s.host.mode = .shutDown ∧ x.toNat < 110 ∧ 95 ≤ x.toNat ∧ ¬ w.toNat < s.host.watts.toNat) ∧
    (∃ (s : State) (w : BitVec 12) (x : BitVec 8), s.host.mode = .shutDown ∧ w.toNat < s.host.watts.toNat ∧ x.toNat < 95) :=
  ⟨⟨{ State.reset with host := { HostIf.reset with lowering := true } }, nofun, rfl, rfl⟩, ⟨State.reset, 2600, 94, by decide +kernel⟩,
    ⟨{ State.reset with host := { HostIf.reset with mode := .shutDown } }, 2600, 109, by decide +kernel⟩,
    ⟨{ State.reset with host := { HostIf.reset with mode := .shutDown } }, 2599, 94, by decide +kernel⟩⟩

/-- add.d x3, x4, x5, and what reads x3 or writes it. -/
def addX3 : SlotKind × Instr := (.X, .add p0 .x 3 4 5 3)

theorem witness_BundlesRunOrStop_groups :
    (∃ k : Ctx, 8 ≤ k.group.count) ∧
    (∃ k : Ctx, k.group.count < 8 ∧ k.branch ≠ none ∧ isBranch (.ret p0) = true) ∧
    (∃ k : Ctx, k.group.count = 7 ∧ 67 ∈ k.group.writes ∧ 67 ∈ (wordUses k (.movyx p0 4 3 3)).reads) ∧
    (∃ k : Ctx, k.group.count < 8 ∧ 641 ∈ k.group.writes) ∧
    (∃ k : Ctx, k.group.count < 8 ∧ k.branch = none ∧ k.delay = 0 ∧ 3 ∈ (wordUses k addX3.2).writes ∧ 3 ∈ (wordUses k (.movxy p0 6 3 3)).reads) ∧
    (∃ k : Ctx, k.group.count < 8 ∧ k.branch = none ∧ k.delay = 0 ∧ ¬ ∃ n ∈ k.group.writes, n ∈ (wordUses k addX3.2).reads) :=
  ⟨⟨{ base with group := ⟨8, [], []⟩ }, by decide⟩, ⟨{ base with branch := some (0x40000, 1) }, by decide⟩,
    ⟨{ base with group := ⟨7, [], [67]⟩ }, by decide⟩, ⟨{ base with group := ⟨1, [], [641]⟩ }, by decide⟩, ⟨base, by decide⟩, ⟨base, by decide⟩⟩

/-- A repeat head in a trap handler issues, and its checks refuse it. -/
theorem witness_BundlesRunOrStop_head :
    let s := coded { base with handler := true } 0x40000 [0x84800000, 0x1040]
    (∃ u, s.Issues u [0x84800000, 0x1040]) ∧ (s.atIssue.headCheck 0x84800000 0 0x1040).1 = .error ⟨3, 7, 0x84800000, false, none⟩ :=
  ⟨issues_of (a := 0x40000) (by decide +kernel) (by decide +kernel), by decide +kernel⟩

/-- A store to the scratchpad and one to a page change the bytes at the places that their operands give, and no others. -/
theorem witness_IssueLeavesTheRest_stores :
    (∃ (s t : State) (i : Instr) (key : Nat), s.Inv ∧ (slotWord i).isSome = true ∧ exec i s = .next t ∧ t.status = .ok ∧ storesBytes i = true ∧
      cellAt t.mem key ≠ cellAt s.mem key ∧ s.spadPlace 0x1000 2 key) ∧
    (∃ (s t : State) (i : Instr) (key : Nat), s.Inv ∧ (slotWord i).isSome = true ∧ exec i s = .next t ∧ t.status = .ok ∧ storesBytes i = true ∧
      cellAt t.mem key ≠ cellAt s.mem key ∧ s.pagePlace (page 0) 65534 2 key) := by
  let s1 : State := dev (withY base [(1, 0x1000)])
  let i1 : Instr := .st p0 .y 1 1 0 1 0
  have h1 : look (exec i1 s1) (fun t => (t.status, cellAt t.mem (spadKey 0 0x1001))) = some (.ok, 0x10) := by decide +kernel
  let s2 : State := dev (withH (withY base [(1, 65534)]) 1 (page 0))
  let i2 : Instr := .sth p0 .y 1 1 1 0 1 0
  have h2 : look (exec i2 s2) (fun t => (t.status, cellAt t.mem (hbmKey 65535))) = some (.ok, 0xFF) := by decide +kernel
  constructor
  · rcases e : exec i1 s1 with t | f | r <;> rw [e] at h1 <;> simp only [look, Option.some.injEq, Prod.mk.injEq, reduceCtorEq] at h1
    exact ⟨s1, t, i1, spadKey 0 0x1001, ⟨rfl, rfl, rfl, rfl⟩, by decide +kernel, e, h1.1, rfl, by rw [h1.2]; decide +kernel, by unfold State.spadPlace; decide +kernel⟩
  · rcases e : exec i2 s2 with t | f | r <;> rw [e] at h2 <;> simp only [look, Option.some.injEq, Prod.mk.injEq, reduceCtorEq] at h2
    exact ⟨s2, t, i2, hbmKey 65535, ⟨rfl, rfl, rfl, rfl⟩, by decide +kernel, e, h2.1, rfl, by rw [h2.2]; decide +kernel, by rw [State.pagePlace, if_neg (by decide)]; decide +kernel⟩


/-! ### Boundary cases of the statements' clauses -/

/-- Results with cycles to go, and one whose latency has run and which has not arrived. -/
theorem witness_CyclesPass_ages : ∃ k : Ctx, k.shown = false ∧ (∃ f ∈ k.flight, f.left = 2) ∧
    ∀ left < 2, ∃ f ∈ k.flight, f.left = left ∧ f.arrived = false ∧ f.landed = false :=
  ⟨{ base with flight := [{ arrived with left := 2 }, waiting true none, { waiting true none with left := 1 }] }, by decide +kernel⟩

/-- A trap of the running context's bundle: with a vector, at handler level with and without an instance, at a failed entry of a load queue, and
at a stop and a pause of a walk. -/
theorem witness_TrapEntry_bundle :
    (∃ (s : State) (r : TrapRec), r.met = none ∧ s.here.handler = false ∧ s.here.retiring = none ∧ s.tvec s.here.sr.tenant ≠ 0) ∧
    (∀ task, task = none ∨ task = some (7, 0) → ∃ (s : State) (r : TrapRec), r.met = none ∧ s.here.handler = true ∧ s.here.task = task) ∧
    (∃ (s : State) (r : TrapRec), r.met = none ∧ s.here.handler = false ∧ s.tvec s.here.sr.tenant = 0) ∧
    (∃ r : TrapRec, r.met = some (.entry 0)) ∧
    (∀ n, n = 1 ∨ n = 6 ∨ n = 10 → ∃ (s : State) (r : TrapRec) (x : Walk), r.met = some (.walk 7) ∧ s.walkOf s.cur 7 = some x ∧
      x.reason = some (1, n, near) ∧ ∃ l ∈ x.landed, (s.bin (binKey 0 l.bin)).state = 2) := by
  refine ⟨⟨{ dev base with tvecs := [(0, 0x50000)] }, someTrap, by decide +kernel⟩,
    fun task _ => ⟨dev { base with handler := true, task := task }, someTrap, rfl, rfl, rfl⟩, ⟨dev base, someTrap, by decide +kernel⟩,
    ⟨{ someTrap with met := some (.entry 0) }, rfl⟩, fun n h => ?_⟩
  let s (n : Nat) := walking [⟨0, 8, 0⟩] false none (some (1, n, near))
  exact ⟨s n, { someTrap with met := some (.walk 7) }, (s n).walks.headD ⟨0, 0, 0, 0, 0, 0, 0, false, false, false, 0, none, [], 0, false, none, none, false⟩,
    by rcases h with rfl | rfl | rfl <;> decide +kernel⟩

/-- An instance on context 0 with a queued command, a started one, a fill and a walk that fills bin 8, and a launch token. -/
def stopped : State :=
  let e (i : Nat) (op : EOp) (st : Stage) : ECmd := { commandE .copy op st with id := i, tok := 10 + i }
  { dev { base with task := some (7, 0) } with
    insts := [inst], walks := [{ landing near with id := 4, tok := 14 }], bins := [(8, ⟨1, false, 0, 256, 0x2000, some 0⟩), (5, ⟨1, false, 0, 256, 0x2000, some 0⟩)]
    ecmds := [e 1 (.xfer true (page 0) 0 1 0 32) .queued, e 2 (.xfer true (page 0) 0 1 0 32) .started,
      e 3 (.copy false (page 0) 0 0x1000 32 0x8005000000000000) .started]
    toks := [(3, ⟨4, none⟩), (11, ⟨0, none⟩), (12, ⟨0, none⟩), (13, ⟨0, none⟩), (14, ⟨0, none⟩)] }

theorem witness_TrapEntry_stops : stopped.insts.find? (fun y => y.id == inst.id) = some inst ∧ (∀ e ∈ stopped.ecmds, e.tok ≠ inst.tok) ∧
    (∀ w ∈ stopped.walks, w.tok ≠ inst.tok) ∧ alGet stopped.toks inst.tok = some ⟨4, none⟩ ∧
    (stopped.ecmds.map (ECmd.drops [0])) = [true, false, true] ∧ (∃ w ∈ stopped.walks, w.filling = true ∧ ∃ l, w.landed.getLast? = some l) := by
  refine ⟨by decide +kernel, by decide +kernel, by decide +kernel, by decide +kernel, by decide +kernel, ?_⟩
  exact ⟨_, List.mem_singleton.mpr rfl, rfl, _, rfl⟩

/-- A command of context 0 in its queue, with a cursor, walks and the bytes of an image at 0x4000. -/
def cursorCommand (op : EOp) (cu image : Nat) (ws : List Walk) : State :=
  { withE (commandE .gleaner op .queued) with
    ctxs := [(0, { base with regs := { Regs.reset with w := vset Regs.reset.w 7 (BitVec.ofNat 256 cu) } })]
    mem := writeCells [] (spadKey 0 0x4000) (leBytes 32 image), walks := ws, toks := [(4, ⟨0, none⟩), (8, ⟨0, none⟩)], bins := [(8, fullBin)] }

/-- A live walk that has delivered bin 8 in part, and the cursor or image of one, with DEPTH 1, GROUP 1 and Z 1. -/
def liveWalk : Walk := { landing near with id := 5, wc := 7, tok := 8, filling := false }
def cursorOf (state : Nat) : Nat := state * 2 ^ 252 + 1 * 2 ^ 240 + 9 * 2 ^ 176 + 1 * 2 ^ 160 + 0x2000 * 2 ^ 128 + 2 ^ 126 + 0x1000

theorem witness_EngineCommandsStart_walks :
    (∀ op : EOp, op ∈ [.walk 7 near 0x2000 0, .wstop 7, .wbudget 7 0, .wbudget 7 5, .wsave 7 0x4000, .wrest 7 0x4000] → ∀ live : Bool, ∀ image < 6,
      let s := cursorCommand op (cursorOf (if live then 1 else 4)) (cursorOf image) (if live then [liveWalk] else [])
      let c := commandE .gleaner op .queued
      s.findE c.id = some c ∧ c.waits = [] ∧ c.after = [] ∧ c.waitsFor s = false ∧ s.here.cursorDue 7 = false ∧
        (s.walks.filter fun w => clusterOf w.ctx == 0).length < 64 ∧ alGet s.toks 4 = some ⟨0, none⟩ ∧
        Cursor.state (vget s.here.regs.w 7 0) = (if live then 1 else 4) ∧ s.walkOf 0 7 = (if live then some liveWalk else none)) ∧
    (∀ state < 6,
      let s := cursorCommand (.wrest 7 0x4000) (cursorOf 4) (cursorOf state) []
      let v : Cursor := BitVec.ofNat 256 (leNat (readCells s.mem (spadKey 0 0x4000) 32))
      (1 ≤ v.state ∧ v.state ≤ 4 ∧ v.extractLsb' 192 39 = 0 ∧ v.extractLsb' 169 7 = 0 ∧ v.extractLsb' 151 9 = 0 ∧ v.extractLsb' 96 8 = 0 ∧
        v.extractLsb' 52 12 = 0 ∧ 1 ≤ v.z ∧ v.z ≤ 257 ∧ v.land % 128 = 0 ∧
        ∀ i < v.depth, let b := s.bin (binKey 0 (8 * v.group + i)); b.state = 0 ∨ b.tenant = some 0) ↔ 1 ≤ state ∧ state ≤ 4) := by
  refine ⟨?_, by decide +kernel⟩
  simp only [List.mem_cons, List.not_mem_nil, or_false]
  rintro op (rfl | rfl | rfl | rfl | rfl | rfl) live <;> cases live <;> decide +kernel

/-- A receive side that drains a channel with a word or without, and send queues to this package, to one that is there, and to one that is not. -/
theorem witness_EngineCommandsStart_funbind :
    (∀ ws : List W64, ws = [] ∨ ws = [7] → ∃ (s : State) (c : ECmd), s.findE c.id = some c ∧ c.stage = .queued ∧ c.waits = [] ∧ c.after = [] ∧
      c.waitsFor s = false ∧ c.op = .funbindRecv 3 false ∧ (alGet s.chans 3).getD [] = ws) ∧
    (∀ (dev : Nat) (ws : List (Nat × Option W64)), dev < 3 → ws = [] ∨ ws = [(5, some 41)] → ∃ (s : State) (c : ECmd) (e : SendQ), s.findE c.id = some c ∧
      c.stage = .queued ∧ c.waitsFor s = false ∧ c.op = .funbindSend 9 ∧ s.sendOf 9 = some e ∧ e.addr.toNat / 2 ^ 44 = dev ∧ e.entries = ws ∧
      e.closed = true ∧ (s.device = 0 ∧ s.present = [1] ∧ s.unreachable = []) ∧
      s.ecmds.find? (fun d => d.op == .funbindSend e.id) = some c) ∧
    (∃ (s : State) (c : ECmd), s.findE c.id = some c ∧ c.stage = .queued ∧ c.waitsFor s = false ∧ c.op = .funbindSend 9 ∧ s.sendOf 9 = none) := by
  let r : ECmd := commandE .fabric (.funbindRecv 3 false) .queued
  let c : ECmd := commandE .fabric (.funbindSend 9) .queued
  refine ⟨fun ws h => ⟨{ withE r with chans := [(3, ws)], claims := [(3, (0, 0))] }, r, by rcases h with rfl | rfl <;> decide +kernel⟩, fun dev ws hd hw => ?_,
    ⟨withE c, c, by decide +kernel⟩⟩
  refine ⟨{ withE c with ctxs := [(0, { base with sends := [⟨9, none, BitVec.ofNat 64 (dev * 2 ^ 44 + 3), ws, true⟩] })], present := [1] }, c,
    ⟨9, none, BitVec.ofNat 64 (dev * 2 ^ 44 + 3), ws, true⟩, ?_⟩
  interval_cases dev <;> rcases hw with rfl | rfl <;> decide +kernel

/-- The walk of `walker` with a sheaf's header at the page's 0x1000: GEN, the size of the payload, the core's format and first dimensions, and its
cursor's GEN and core check. -/
def headed (fmt size gen link : Nat) (chain chk : Bool) : State × Walk :=
  let p := walker false (near + BitVec.ofNat 128 (link * 2 ^ 64)) 5
  let cu : Cursor := BitVec.ofNat 256 ((vget p.1.here.regs.w 0 0).toNat + (if chain then 2 ^ 231 else 0) + (if chk then 2 ^ 251 else 0))
  let head := leBytes 64 0 ++ leBytes 4 gen ++ leBytes 4 fmt ++ leBytes 8 size ++ leBytes 2 1 ++ leBytes 2 1 ++ leBytes 2 1 ++ leBytes 42 0
  ({ p.1.setCtx 0 { p.1.here with regs := { p.1.here.regs with w := vset p.1.here.regs.w 0 cu } } with mem := writeCells [] (hbmKey 0x1000) head }, p.2)

/-- A page that grants no read; a stale GEN; a sheaf larger than its slot; a chain's core with a format of its own, and one that is well formed. -/
theorem witness_GleanerHops_headers :
    (∃ (s : State) (w : Walk) (p : Handle) (t : State), s.walks.find? (fun x => x.id == w.id) = some w ∧ w.filling = false ∧ w.reason = none ∧
      w.endAt = none ∧ w.reread = false ∧ w.link = near ∧ s.translate 0 0 0x1000 = (some p, t) ∧ p.r = false) ∧
    (∀ q ∈ ([(0, 1, 7, 6, false, true), (0, 129, 6, 6, false, true), (1, 1, 6, 6, true, true), (0, 1, 6, 6, true, true), (5, 2, 7, 6, true, false)] :
        List (Nat × Nat × Nat × Nat × Bool × Bool)),
      let sw := headed q.1 q.2.1 q.2.2.1 q.2.2.2.1 q.2.2.2.2.1 q.2.2.2.2.2
      let cu := vget sw.1.here.regs.w 0 0
      let head := readCells sw.1.mem (hbmKey 0x1000) 128
      sw.1.walks.find? (fun x => x.id == sw.2.id) = some sw.2 ∧ (sw.1.translate 0 0 0x1000).1 = some (codeLeaf 0) ∧
        ((codeLeaf 0).r = true ∧ (codeLeaf 0).cview = 0 ∧ (codeLeaf 0).tgt = 0) ∧ sw.2.filling = false ∧ sw.2.reason = none ∧ sw.2.endAt = none ∧
        sw.2.reread = false ∧ cu.chk = q.2.2.2.2.2 ∧ cu.core = q.2.2.2.2.1 ∧ leNat ((head.drop 64).take 4) = q.2.2.1 ∧
        sw.2.link.toNat / 2 ^ 64 % 2 ^ 32 = q.2.2.2.1 ∧ leNat ((head.drop 72).take 4) = q.2.1 ∧ leNat ((head.drop 68).take 4) = q.1 ∧
        (sw.1.bin (binKey 0 (cu.bin sw.2.next))).state = 0 ∧ sw.1.mcmds = []) := by
  have h : ({ (walker false near 5).1 with tlb := [⟨0, 0, { codeLeaf 0 with perm := 3 }⟩] }.translate 0 0 0x1000).1 =
    some { codeLeaf 0 with perm := 3 } := by decide +kernel
  obtain ⟨t, ht⟩ := of_fst h
  exact ⟨⟨_, (walker false near 5).2, _, t, rfl, rfl, rfl, rfl, rfl, rfl, ht, by decide +kernel⟩, by decide +kernel⟩

/-- A walk that wrest restarted, whose cursor names a sheaf of plane 3, or of a page with that GEN or another or of none; and the end of a fill
whose GEN is stale. -/
theorem witness_GleanerHops_again :
    (∃ (s : State) (w : Walk), s.walks.find? (fun x => x.id == w.id) = some w ∧ w.filling = false ∧ w.reason = none ∧ w.endAt = none ∧ w.reread = true ∧
      (vget s.here.regs.w 0 0).kind = 3 ∧ (vget s.here.regs.w 0 0).device % 32 ∈ s.lost) ∧
    (∀ gen, gen = 6 ∨ gen = 7 → ∃ (s : State) (w : Walk) (p : Handle) (t : State), s.walks.find? (fun x => x.id == w.id) = some w ∧ w.filling = false ∧
      w.reason = none ∧ w.endAt = none ∧ w.reread = true ∧ (vget s.here.regs.w 0 0).kind = 1 ∧ (vget s.here.regs.w 0 0).gen = 6 ∧
      (vget s.here.regs.w 0 0).addr = 0x1000 ∧ s.translate 0 0 0x1000 = (some p, t) ∧ p.r = true ∧ p.cview = 0 ∧ p.tgt = 0 ∧
      leNat (((readCells s.mem (hbmKey (p.ppn.toNat * 65536 + 0x1000 % pageBytes p.size)) 128).drop 64).take 4) = gen) ∧
    (∃ (s : State) (w : Walk) (t : State), s.walks.find? (fun x => x.id == w.id) = some w ∧ w.reread = true ∧ (vget s.here.regs.w 0 0).kind = 1 ∧
      (vget s.here.regs.w 0 0).addr = 0x1000 ∧ s.translate 0 0 0x1000 = (none, t)) ∧
    (∃ (s : State) (w : Walk) (e : Landed), s.walks.find? (fun x => x.id == w.id) = some w ∧ w.filling = true ∧ w.landed.getLast? = some e ∧ s.Inv ∧
      1 ≤ w.hop ∧ leNat (readCells s.mem (w.src + 64) 4) ≠ e.link.toNat / 2 ^ 64 % 2 ^ 32 ∧
      s.readFails w.ctx e.link w.src (s.bin (binKey 0 e.bin)).size.toNat = none) := by
  let again (kind gen : Nat) : State :=
    let s := (headed 0 1 gen 0 false false).1
    let cu : Cursor := BitVec.ofNat 256 ((vget s.here.regs.w 0 0).toNat + kind * 2 ^ 126 + 3 * 2 ^ 104 * (kind / 3) + 6 * 2 ^ 64 + 0x1000)
    { s.setCtx 0 { s.here with regs := { s.here.regs with w := vset s.here.regs.w 0 cu } } with
      walks := [{ (walker false near 5).2 with restart := true, reread := true }], lost := [3] }
  let w : Walk := { (walker false near 5).2 with restart := true, reread := true }
  have h : ∀ gen, gen = 6 ∨ gen = 7 → ((again 1 gen).translate 0 0 0x1000).1 = some (codeLeaf 0) := by rintro gen (rfl | rfl) <;> decide +kernel
  have hn : ({ again 1 6 with tlb := [] }.translate 0 0 0x1000).1 = none := by decide +kernel
  obtain ⟨tn, htn⟩ := of_fst hn
  refine ⟨⟨again 3 6, w, by decide +kernel⟩, fun gen hg => ?_, ⟨{ again 1 6 with tlb := [] }, w, tn, rfl, rfl, by decide +kernel, by decide +kernel, htn⟩,
    ⟨{ dev base with walks := [{ landing (near + BitVec.ofNat 128 (6 * 2 ^ 64)) with hop := 1 }] }, { landing (near + BitVec.ofNat 128 (6 * 2 ^ 64)) with hop := 1 },
      ⟨0, 8, near + BitVec.ofNat 128 (6 * 2 ^ 64)⟩, rfl, rfl, rfl, ⟨rfl, rfl, rfl, rfl⟩, by decide +kernel⟩⟩
  obtain ⟨t, ht⟩ := of_fst (h gen hg)
  refine ⟨again 1 gen, w, codeLeaf 0, t, rfl, rfl, rfl, rfl, rfl, ?_, ?_, ?_, ht, ?_⟩ <;> rcases hg with rfl | rfl <;> decide +kernel

/-- Records that fail each check in turn, from a command stream or a task whose tenant is 0; and one that a store has half written. -/
theorem witness_LaunchesAndPlacement_codes :
    (∀ q ∈ ([(recordOf 0x40004 0, true, 1), ((recordOf 0x40000 0).set 25 33, true, 2), (recordOf 0x40000 0, false, 3),
        ((recordOf 0x40000 0).set 41 0x98, true, 4), ((recordOf 0x40000 0).set 48 1, true, 4),
        ((recordOf 0x40000 0).set 30 0 |>.set 41 0x83, false, 6), ((recordOf 0x40000 0).set 30 0, false, 0)] : List (List Byte × Bool × Nat)),
      { dev base with semTen := [(3, 9)] }.refusal q.1 0 q.2.1 = q.2.2) ∧
    (∃ (s : State) (c : ECmd), s.findE c.id = some c ∧ c.op = .launch false Handle.none 0x500000 0 false none ∧
      s.recordTorn c false Handle.none 0x500000 = true) := by
  refine ⟨by decide +kernel, ?_⟩
  let s := launching 0x40000 0 false none
  exact ⟨s.setCtx 1 { base with torn := [7], stores := [.store 3 7 2 (spadKey 0 0x500008) [4] none] },
    commandE .launch (.launch false Handle.none 0x500000 0 false none) .started, by decide +kernel⟩

/-- AFFINITY zero, of no page, of a page of HBM and of one of a loft; a WAIT that holds and one that does not; a home die with room, and one
whose contexts are all taken, where another die has room. -/
theorem witness_LaunchesAndPlacement_homes :
    (∀ aff : Nat, aff < 2 → ∃ r : List Byte, leNat ((r.drop 8).take 8) = aff ∧ leNat ((r.drop 30).take 2) = 7) ∧
    (∃ (s t : State), s.translate 0 7 1 = (none, t)) ∧
    (∀ tgt : BitVec 2, tgt = 0 ∨ tgt = 1 → ∃ (s t : State) (h : Handle), s.translate 0 7 1 = (some h, t) ∧ h.tgt = tgt) ∧
    (∀ v : Byte, v = 0 ∨ v = 1 → ∃ (s : State) (r : List Byte), (leNat ((r.drop 40).take 8)).testBit 15 = true ∧
      ((BitVec.ofNat 48 (leNat ((r.drop 40).take 8) / 2 ^ 16)).toInt ≤ (s.sem (leNat ((r.drop 40).take 8) % 2 ^ 15)).toInt ↔ v = 0)) ∧
    (∀ full : Bool, ∃ (s : State) (p : Pending), p.anyDie = true ∧ p.home % 32 < 24 ∧ p.home / 32 < 4 ∧ s.waitsHold p.record = true ∧
      (s.homeRoom p).isSome = !full ∧ (s.awayRoom p).isSome = true) := by
  have h0 : (State.reset.translate 0 7 1).1 = none := by decide +kernel
  obtain ⟨t0, h0⟩ := of_fst h0
  refine ⟨fun aff h => ⟨(recordOf 0x40000 0).set 8 (BitVec.ofNat 8 aff), ?_⟩, ⟨_, t0, h0⟩, fun tgt h => ?_, fun v h => ?_, fun full => ?_⟩
  · interval_cases aff <;> decide +kernel
  · have h1 : ({ State.reset with tlb := [⟨0, 7, { codeLeaf 0 with tgt := tgt }⟩] }.translate 0 7 1).1 = some { codeLeaf 0 with tgt := tgt } := by
      rcases h with rfl | rfl <;> decide +kernel
    obtain ⟨t1, h1⟩ := of_fst h1
    exact ⟨_, t1, _, h1, rfl⟩
  · exact ⟨dev base, ((recordOf 0x40000 0).set 41 0x80).set 42 v, by rcases h with rfl | rfl <;> decide +kernel⟩
  · let i : Inst := { inst with record := (recordOf 0x40000 0).set 20 0 |>.set 21 0 |>.set 22 0x60 |>.set 16 0 |>.set 17 0 }
    exact ⟨{ State.reset with insts := if full then (List.range 24).map fun c => { i with core := c * 8 } else [] },
      { pend (recordOf 0x40000 0) with anyDie := true }, by cases full <;> decide +kernel⟩

/-- A packet of a transfer whose whole range lies in one page with W, in a page without it, across the end of a page, and in none; barriers
complete at each scope above the cluster; and an arrival with other counts, or of another tenant. -/
theorem witness_PacketsAndBarriers_ranges :
    (∀ p : BitVec 3 × Nat, p ∈ [(7, 0x1000), (5, 0x1000), (7, 65535)] → ∃ (s t : State) (h : Handle), s.portOk 5 5 2 = true ∧ (s.link 5 2).held = [] ∧
      (s.link 5 2).rxNext = 0 ∧ payloadFits (.xferBytes 0 p.2 2 1 [9]) 2 = true ∧ s.translate 0 0 p.2 = (some h, t) ∧ h.perm = p.1 ∧ h.tgt ≠ 1 ∧ h.size = 0 ∧ s.Inv) ∧
    (∃ (s t : State), s.portOk 5 5 2 = true ∧ s.translate 0 0 0 = (none, t)) ∧
    (∀ d : W64, d ∈ [0x3000010900000000, 0x5000010900000000, 0x9000010900010000] → ∃ (s : State) (b : Barrier), s.barriers.find? (fun x => x.id == b.id) = some b ∧
      b.desc = d ∧ ((b.scope = 3 ∧ descCl b.desc ≤ b.clusters.length) ∨ (b.scope = 5 ∧ descDie b.desc ≤ b.dies.length) ∨
        (b.scope = 9 ∧ descPkg b.desc ≤ b.packages.length ∧ s.device.toNat ∈ b.packages)) ∧ b.arrivals = [(4, 0)] ∧
      (∀ a ∈ b.arrivals, a.2 ∈ b.clusters ∧ (5 ≤ b.scope → a.2 / 32 ∈ b.dies) ∧
        (b.arrivals.filter fun x => x.2 == a.2).length ≤ descCtx b.desc)) ∧
    (∀ other : Bool, ∃ (s : State) (c : ECmd) (d : W64) (b : Barrier), s.findE c.id = some c ∧ c.op = .bar d ∧ c.stage = .queued ∧ c.waits = [] ∧ c.after = [] ∧
      c.waitsFor s = false ∧ s.barrierOf (descScope d) (descBar d) (descPlace d c.ctx) = some b ∧ b.arrivals ≠ [] ∧
      (∀ a ∈ b.arrivals, (alGet s.toks a.1).map Tok.owner ≠ some c.ctx) ∧
      (if other then b.tenant ≠ c.tenant else descCounts b.desc ≠ descCounts d)) := by
  let leaf (perm : BitVec 3) : Handle := { codeLeaf 0 with perm := perm, size := 0 }
  have h : ∀ p ∈ ([(7, 0x1000), (5, 0x1000), (7, 65535)] : List (BitVec 3 × Nat)),
      ({ linked with tlb := [⟨0, 0, leaf p.1⟩] }.translate 0 0 p.2).1 = some (leaf p.1) := by decide +kernel
  have hn : (linked.translate 0 0 0).1 = none := by decide +kernel
  obtain ⟨tn, hn⟩ := of_fst hn
  refine ⟨fun p hp => ?_, ⟨linked, tn, rfl, hn⟩, fun d hd => ?_, fun other => ?_⟩
  · obtain ⟨t, ht⟩ := of_fst (h p hp)
    exact ⟨_, t, leaf p.1, rfl, rfl, rfl, rfl, ht, rfl, show (codeLeaf 0).tgt ≠ 1 by decide +kernel, rfl, ⟨rfl, rfl, rfl, rfl⟩⟩
  · let b (scope : Nat) : Barrier := { barrier scope [(4, 0)] with desc := d, clusters := [0], dies := [0], packages := [0] }
    simp only [List.mem_cons, List.not_mem_nil, or_false] at hd
    rcases hd with rfl | rfl | rfl
    · exact ⟨{ dev base with barriers := [b 3] }, b 3, by decide +kernel⟩
    · exact ⟨{ dev base with barriers := [b 5] }, b 5, by decide +kernel⟩
    · exact ⟨{ dev base with barriers := [b 9] }, b 9, by decide +kernel⟩
  · let c : ECmd := { commandE .barrier (.bar 0x2040020900000000) .queued with tenant := if other then 3 else 0 }
    let b : Barrier := { barrier 2 [(8, 0)] with desc := if other then 0x2040020900000000 else 0x2040010900000000 }
    exact ⟨{ withE c with barriers := [b], toks := [(4, ⟨0, none⟩), (8, ⟨4, none⟩)] }, c, 0x2040020900000000, b, by cases other <;> decide +kernel⟩

/-- A handle of plane 3's first page, and an extent of it, alone or mirrored on plane 23, with plane 3 lost. -/
def lostState (k : Ctx) (m : Option Nat) : State :=
  { dev (withH (withY k [(8, 0), (9, 0), (10, 65536), (11, 3)]) 1 loftPage) with extents := [⟨3, 0, 65536, 0, m⟩], lost := [3] }

theorem witness_MailboxCommands_planes :
    (∃ (s : State) (x : Nat), x ∉ s.lost ∧ s.here.run ≠ .halted ∧ s.here.sr.uiv ≠ 0 ∧ ∃ e ∈ s.extents, e.tenant = s.here.sr.tenant ∧ e.mirror = some x) ∧
    (∃ (s : State) (e : Extent), 3 ∈ s.lost ∧ s.extentOf 3 0 8 0 = some e ∧ e.plane = 3 ∧ e.mirror = some 23 ∧ 23 ∉ s.lost) ∧
    (∃ (s : State) (e : Extent) (hn : BitVec 4) (y : BitVec 5), 3 ∈ s.lost ∧ s.extentOf 3 0 8 0 = some e ∧ e.plane = 3 ∧ e.mirror = none ∧
      s.here.regs.rh hn = loftPage ∧ loftPage.tgt = 1 ∧ loftPage.plane.toNat = 3 ∧ loftPage.ppn = 0 ∧ loftPage.valid = true ∧ loftPage.perm = 7 ∧
      loftPage.lclass ≠ 0 ∧ (s.here.regs.ry y).poison = false ∧ ((s.here.regs.ry y).val + (0 : BitVec 3).setWidth 64 * 8).toNat = 0) ∧
    (∃ (s : State) (q : BitVec 3), s.allComplete [0, 0] ∧ s.quadClean q [0, 1] ∧ (s.quadVal q 0).toNat = 65536 ∧ (s.quadVal q 1).toNat % 32 = 3 ∧ 3 ∈ s.lost) ∧
    (∃ (s : State) (f : Flight), (s.ctx 0).flightOf 0 = some f ∧ (s.ctx 0).trapped f = false ∧ f.elastic = true ∧
      f.redo = some (.load 1 0 loftPage 0 8 0 .sext) ∧ 3 ∈ s.lost ∧ (s.extentOf 3 0 8 0).isSome = true) ∧
    (∃ (s : State) (y : QEntry), (s.ctx 0).entryOf 0 = some y ∧ y ∈ vget (s.ctx 0).q 3 [] ∧ y.handle = loftPage ∧ y.off = 0 ∧ y.width = 3 ∧
      3 ∈ s.lost ∧ (s.extentOf 3 0 8 0).isSome = true) ∧
    (∃ (s : State), (s.ctx 0).stores = [.store 1 1 2 (loftKey 3 0) [9] (some (loftPage, 0))] ∧ (∀ j ∈ s.classCmds 0 2, 1 ≤ j) ∧ 3 ∈ s.lost ∧
      (s.extentOf 3 0 1 0).isSome = true) := by
  have none_of {s : State} (h : s.here.regs.rk 0 = none) : s.allComplete [0, 0] := by
    intro k hk
    have : k = 0 := by simpa using hk
    rw [this, h]
    rfl
  refine ⟨⟨{ lostState { base with sr := { Srs.reset with uiv := 16 } } (some 5) with lost := [] }, 5, by decide +kernel⟩,
    ⟨lostState base (some 23), ⟨3, 0, 65536, 0, some 23⟩, by decide +kernel⟩,
    ⟨lostState base none, ⟨3, 0, 65536, 0, none⟩, 1, 8, by decide +kernel⟩,
    ⟨{ dev (quadOf 65536 3 0 0) with lost := [3] }, 2, none_of rfl, ?_, by decide +kernel⟩,
    ⟨served (bringing loftPage .sext false) [3], bringing loftPage .sext false, rfl, rfl, rfl, rfl, by decide +kernel⟩,
    ⟨lostState { base with q := (Vector.replicate 4 []).set 3 [{ entry with handle := loftPage, arrived := false }] } none,
      { entry with handle := loftPage, arrived := false }, by decide +kernel⟩,
    ⟨lostState { base with stores := [.store 1 1 2 (loftKey 3 0) [9] (some (loftPage, 0))] } none, rfl, by decide +kernel⟩⟩
  unfold State.quadClean
  decide +kernel
/-! ### Clauses of the last review -/

/-- A poisoned address register with an aligned value, and with a misaligned one. -/
theorem witness_AccessChecks_poisoned : ∀ bent : Bool, ∃ (s : State) (cl : Cl) (t a : BitVec 5) (off : BitVec 7), s.here.enabled p0 = true ∧
    s.here.plain cl t ∧ (s.here.regs.ry a).poison = true ∧ (localAddr (s.here.regs.ry a).val 8 off % 8 ≠ 0 ↔ bent = true) := by
  intro bent
  exact ⟨dev { base with regs := { Regs.reset with y := vset Regs.reset.y 1 ⟨if bent then 4 else 8, true⟩ } }, .x, 5, 1, 0, by cases bent <;> decide +kernel, nofun,
    by cases bent <;> decide +kernel, by cases bent <;> decide +kernel⟩

/-- A failed entry of a loft page, of class 3, in the last queue, and a load of that page that a handler has captured. -/
def failedEntry : QEntry := ⟨0, 3, 9, 3, loftPage, 0, 5, false, true, some (5, 0), false, false⟩

def pinned (es : List QEntry) (ret : Option Saved) (ext : List Extent) : State :=
  { dev { base with q := (Vector.replicate 4 []).set 3 es, trapRet := ret } with extents := ext }

theorem witness_QueuedLoads_pin :
    (∀ (p : Passing) (ext : List Extent), p = ⟨8, []⟩ ∨ p = ⟨0, [(loftKey 3 7, 1)]⟩ ∨ p = ⟨7, [(loftKey 3 8, 1)]⟩ → ext = [] ∨ ext = [⟨3, 0, 65536, 0, none⟩] →
      ∃ (s : State) (e : QEntry), s.scripted = false ∧ s.here.captured = [] ∧ s.here.q = (Vector.replicate 4 []).set 3 [e] ∧ e.failed ≠ none ∧
        e.handle.tgt ≠ 0 ∧ e.fixed = false ∧ s.tearsLoad 0 e.handle e.off 8 = false ∧
        ((p.mask.getLsbD e.cls.toNat = true ∨ ∃ b ∈ p.spans, b.1 < (s.loadSpan 0 e.handle e.off 8).1 + (s.loadSpan 0 e.handle e.off 8).2 ∧
          (s.loadSpan 0 e.handle e.off 8).1 < b.1 + b.2) ↔ p ≠ ⟨7, [(loftKey 3 8, 1)]⟩) ∧
        (s.refuses 0 e.handle e.off 8 = true ↔ ext = [])) ∧
    (∀ again : Bool, ∃ (s : State) (f : Flight) (sv : Saved), s.scripted = false ∧ s.here.uiRet = none ∧ s.here.trapRet = some sv ∧ sv.flight = [f] ∧
      f.redo = some (.load 1 0 loftPage 0 8 0 .sext) ∧ f.arrived = false ∧ f.fixed = false ∧ f.again = again ∧ s.tearsLoad 0 loftPage 0 8 = false ∧
      s.refuses 0 loftPage 0 8 = false) := by
  refine ⟨fun p ext hp he => ⟨pinned [failedEntry] none ext, failedEntry, rfl, rfl, rfl, nofun, ?_⟩, fun again => ?_⟩
  · rcases hp with rfl | rfl | rfl <;> rcases he with rfl | rfl <;> decide +kernel
  · exact ⟨pinned [] (some { saved with flight := [bringing loftPage .sext again] }) [⟨3, 0, 65536, 0, none⟩], bringing loftPage .sext again, _, rfl, rfl, rfl,
      rfl, rfl, rfl, rfl, by cases again <;> rfl, by cases again <;> decide +kernel, by cases again <;> decide +kernel⟩

/-- An entry of a load queue on its way, read afresh or fixed, of each kind of page, served, refused or on a lost plane. -/
theorem witness_ResultEvents_entries :
    (∀ (t : BitVec 2) (again fixed : Bool), t < 3 → ∃ (s : State) (e : QEntry), (s.ctx 0).entryOf 0 = some e ∧ e ∈ vget (s.ctx 0).q 3 [] ∧
      e.handle.tgt = t ∧ e.again = again ∧ e.fixed = fixed ∧ s.tearsLoad 0 e.handle e.off 8 = false ∧ (s.ctx 0).flightOf 0 = none ∧
      s.lostPlane e.handle e.off 8 0 true = none ∧ s.refuses 0 e.handle e.off 8 = false) ∧
    (∃ (s : State) (e : QEntry), (s.ctx 0).entryOf 0 = some e ∧ e.handle.tgt = 1 ∧ s.lostPlane e.handle e.off 8 0 true = some 3) ∧
    (∃ (s : State) (e : QEntry), (s.ctx 0).entryOf 0 = some e ∧ e.handle.tgt = 1 ∧ (s.ctx 0).flightOf 0 = none ∧ s.refuses 0 e.handle e.off 8 = true) := by
  let away (h : Handle) (again fixed : Bool) : QEntry := { failedEntry with handle := h, arrived := false, failed := none, again := again, fixed := fixed }
  let whole : List Extent := [⟨3, 0, 65536, 0, none⟩]
  refine ⟨fun t again fixed ht => ?_, ⟨{ pinned [away loftPage false false] none whole with lost := [3] }, away loftPage false false, by decide +kernel⟩,
    ⟨pinned [away loftPage false false] none [], away loftPage false false, by decide +kernel⟩⟩
  refine ⟨pinned [away { loftPage with tgt := t } again fixed] none whole, away { loftPage with tgt := t } again fixed, ?_⟩
  have : t = 0 ∨ t = 1 ∨ t = 2 := by decide +revert
  rcases this with rfl | rfl | rfl <;> cases again <;> cases fixed <;> decide +kernel

/-- A captured load that a later access has fixed, and one that is read afresh. -/
theorem witness_ResultEvents_fixed : ∀ fixed : Bool, ∃ (s : State) (f : Flight), (s.ctx 0).flightOf 0 = some f ∧ (s.ctx 0).trapped f = false ∧
    f.redo = some (.load 1 0 loftPage 0 8 0 .sext) ∧ f.again = true ∧ f.fixed = fixed ∧ s.refuses 0 loftPage 0 8 = false := by
  intro fixed
  exact ⟨served { bringing loftPage .sext true with fixed := fixed } [], _, rfl, by cases fixed <;> decide +kernel, rfl, rfl, rfl, by cases fixed <;> decide +kernel⟩

/-- A fence of class c3 over a failed entry of that class freezes, and the freeze fixes the entry. -/
theorem witness_BundlesRunOrStop_freezes : ∃ (s t : State) (p : Passing), s.here.enabled p0 = true ∧ exec (.fenceC p0 8 0) s = .next t ∧
    t.status = .frozenPast p ∧ t.pin 0 p ≠ t := by
  refine ⟨pinned [failedEntry] none [], (pinned [failedEntry] none []).freezePast ⟨8, []⟩, ⟨8, []⟩, by decide +kernel, ?_, rfl, by decide +kernel⟩
  have h : look (exec (.fenceC p0 8 0) (pinned [failedEntry] none [])) (fun t => decide (t = (pinned [failedEntry] none []).freezePast ⟨8, []⟩)) = some true := by
    decide +kernel
  rcases e : exec (.fenceC p0 8 0) (pinned [failedEntry] none []) with t | f | r <;> rw [e] at h
  · exact congrArg _ (of_decide_eq_true (Option.some.inj h))
  · cases h
  · cases h
end Sys2Proof.Tests
end

section
/-!
O58. What no slot and no header may hold is refused: the checks of `decodeSlot`, the header checks of `headerOk` one by one, and
the place of the M slot's word among the words of a bundle.
-/

namespace Sys2Proof.Machine

/-! ### Bits of a word -/

theorem bitAt_eq_testBit (x i : Nat) : bitAt x i = x.testBit i := by
  rw [Nat.testBit_eq_decide_div_mod_eq]
  rfl

theorem bits_ne_zero_of_testBit {x lo n i : Nat} (hi : i < n) (h : x.testBit (lo + i) = true) : bits x lo n ≠ 0 := by
  intro hz
  have hbit : (bits x lo n).testBit i = true := by
    simp [bits, Nat.testBit_mod_two_pow, Nat.testBit_div_two_pow, hi, Nat.add_comm i lo, h]
  simp [hz] at hbit

/-! ### Slot words (R36 to R38) -/

theorem decodeSlot_of_unassigned {k : SlotKind} {w : Nat} (lend : Nat) (h : opAssigned k (bits w 26 6) = false) :
    decodeSlot k w lend = .error (.opcode k) := by
  simp [decodeSlot, h]

/-- R36: p0 negated. -/
theorem guardDec_not_ok {w : Nat} (hn : w.testBit 25 = true) (hp : w / 2 ^ 21 % 16 = 0) : (Guard.dec w).ok = false := by
  have hb : bitAt w 25 = true := (bitAt_eq_testBit w 25).trans hn
  have hf : fld w 21 4 = 0 := congrArg (BitVec.ofNat 4) hp
  simp [Guard.ok, Guard.dec, hb, hf]

theorem decodeSlot_of_guard_not_ok {k : SlotKind} {w : Nat} (lend : Nat) (ha : opAssigned k (bits w 26 6) = true)
    (hg : (Guard.dec w).ok = false) : decodeSlot k w lend = .error (.field k) := by
  simp [decodeSlot, ha, hg]

/-- R38: a slot word is read only as an instruction that it encodes. -/
theorem slotWord_of_decodeSlot_ok {k : SlotKind} {w lend : Nat} {i : Instr} (h : decodeSlot k w lend = .ok i) :
    slotWord i = some (k, w, lend) ∧ i.wf = true := by
  unfold decodeSlot at h
  split at h
  · cases h
  · split at h
    · cases h
    · split at h
      · cases h
      · split at h
        · rename_i hi
          cases h
          exact hi
        · cases h

/-- R37, R59 to R65: the opcodes that the grid of each slot kind leaves unassigned. -/
def reservedOpcode (k : SlotKind) (op : Nat) : Prop :=
  match k with
  | .X => 0x32 < op
  | .Y => (0x23 < op ∧ op < 0x28) ∨ 0x2B < op
  | .L => op = 0x0F ∨ 0x1B < op
  | .V => 0x26 < op
  | .M => 0x0E < op
  | .E => (0x0C < op ∧ op < 0x10) ∨ op = 0x17 ∨ 0x27 < op
  | .S => 3 < op

theorem reservedOpcode_iff_opAssigned (k : SlotKind) (op : Nat) : reservedOpcode k op ↔ opAssigned k op = false := by
  cases k <;> simp [reservedOpcode, opAssigned] <;> omega

/-- The opcode field of a slot word is its topmost six bits (R35). -/
theorem bits_opcode {w : Nat} (h : w < 2 ^ 32) : bits w 26 6 = w / 2 ^ 26 :=
  Nat.mod_eq_of_lt (by omega)

/-! ### The M slot's word (R30, R32) -/

/-- The M slot's word stands behind one word for each slot kind before it. -/
theorem mWordOf_append {ks rest : List SlotKind} {ws : List Nat} {m : Nat} (hk : .M ∉ ks) (hm : ws[ks.length]? = some m) :
    mWordOf (ks ++ .M :: rest) ws = m := by
  induction ks generalizing ws with
  | nil =>
    cases ws with
    | nil => cases hm
    | cons w ws => simpa [mWordOf] using hm
  | cons k ks ih =>
    obtain ⟨hne, hk⟩ := List.ne_and_not_mem_of_not_mem_cons hk
    cases ws with
    | nil => cases hm
    | cons w ws => simpa [mWordOf, hne.symm] using ih hk (by simpa using hm)

/-- The slots of a header whose M slot is present: those before it, the M slot, and those behind it. -/
theorem headerSlots_of_M {h : Nat} (hM : h.testBit 26 = true) :
    headerSlots h = [SlotKind.X, .Y, .L, .V].filter (fun k => h.testBit (maskBit k)) ++
      .M :: [SlotKind.E, .S].filter fun k => h.testBit (maskBit k) := by
  simp only [headerSlots, bitAt_eq_testBit, ← List.filter_cons_of_pos (p := fun k => h.testBit (maskBit k)) (a := .M) hM,
    ← List.filter_append]
  rfl

/-- Where the M slot is present, its word stands behind those of the slots X, Y, L and V that are. -/
theorem mWordOf_headerSlots {h : Nat} {ws : List Nat} {m : Nat} (hM : h.testBit 26 = true)
    (hm : ws[(List.range 4).countP fun j => h.testBit (30 - j)]? = some m) : mWordOf (headerSlots h) ws = m := by
  have hlen : (List.range 4).countP (fun j => h.testBit (30 - j)) =
      ([SlotKind.X, .Y, .L, .V].filter fun k => h.testBit (maskBit k)).length := by
    rw [← List.countP_eq_length_filter, show List.range 4 = [SlotKind.X, .Y, .L, .V].map SlotKind.code from rfl, List.countP_map]
    rfl
  rw [headerSlots_of_M hM]
  exact mWordOf_append (by simp) (hlen ▸ hm)

/-! ### Headers (R34) -/

theorem decodeBundle_of_not_headerOk {h : Nat} {ws : List Nat} (hh : ¬ headerOk h (mWordOf (headerSlots h) ws) = true) :
    decodeBundle h ws = .error .header := by
  simp [decodeBundle, hh]

theorem repOpcode_iff (op : Nat) : repOpcode op = true ↔ op ∈ [0, 1, 4, 6, 7] := by
  simp [repOpcode, or_assoc]

/-- The checks of R34, in its order: reserved bits, LEND groups of absent slots, a repeat head's M slot and its opcode. -/
theorem headerOk_iff (h mw : Nat) :
    headerOk h mw = true ↔
      bits h 21 2 = 0 ∧ (∀ k : SlotKind, h.testBit (maskBit k) = false → bits h (lendLo k) 3 = 0) ∧
        (h.testBit 23 = true → h.testBit (maskBit .M) = true ∧ bits mw 26 6 ∈ [0, 1, 4, 6, 7]) := by
  have all (k : SlotKind) : k ∈ slotKinds := by cases k <;> decide
  simp [headerOk, List.all_eq_true, bitAt_eq_testBit, all, repOpcode_iff, and_assoc, or_iff_not_imp_left]

/-! ### The statement -/

/-- Settles O58: the branches of `decodeSlot` for the slot words, the checks of `headerOk` for the headers. -/
theorem reservedEncodingsRefused : Obligations.ReservedEncodingsRefused := by
  unfold Obligations.ReservedEncodingsRefused
  refine ⟨fun k w lend hw => ?_, fun h ws => ?_, fun ws k => ⟨rfl, rfl, rfl⟩⟩
  · have hop := bits_opcode hw
    have hres : reservedOpcode k (w / 2 ^ 26) ↔ opAssigned k (bits w 26 6) = false := hop ▸ reservedOpcode_iff_opAssigned k _
    refine ⟨fun hu => decodeSlot_of_unassigned lend (hres.1 hu), fun hu hn hp => ?_, fun i => slotWord_of_decodeSlot_ok⟩
    have ha : opAssigned k (bits w 26 6) = true := by simpa using mt hres.2 hu
    exact decodeSlot_of_guard_not_ok lend ha (guardDec_not_ok hn hp)
  · refine ⟨fun hr => ?_, fun k hm hl => ?_, fun hr hm => ?_, fun m hr hm hd => ?_⟩ <;>
      refine decodeBundle_of_not_headerOk fun hok => ?_ <;>
      obtain ⟨hres, hlend, hrep⟩ := (headerOk_iff h _).1 hok
    · rcases hr with hr | hr
      · exact bits_ne_zero_of_testBit (i := 1) (by decide) hr hres
      · exact bits_ne_zero_of_testBit (i := 0) (by decide) hr hres
    · exact hl (hlend k hm)
    · exact Bool.false_ne_true (hm.symm.trans (hrep hr).1)
    · obtain ⟨hM, hdagger⟩ := hrep hr
      rw [mWordOf_headerSlots hM hm] at hdagger
      exact hd hdagger

end Sys2Proof.Machine
end

section
/-!
O24. The moves of the V slot: what a body that schedules lane results leaves, the machine's numbers for elements and address parts
as bit vectors, and the statement instruction by instruction.
-/

namespace Sys2Proof.Machine

/-! ### The meanings of the moves (R139, R141, R146, R147, R150) -/

section Arms

variable (g : Guard) (d a b y : BitVec 5) (f : Fmt) (ps : BitVec 4) (ln : BitVec 6) (s : State)

theorem exec_vand : exec (.vand g d a b) s = vlogic g d a b (fun x y => x &&& y) s := rfl
theorem exec_vor : exec (.vor g d a b) s = vlogic g d a b (fun x y => x ||| y) s := rfl
theorem exec_vxor : exec (.vxor g d a b) s = vlogic g d a b (fun x y => x ^^^ y) s := rfl
theorem exec_vandn : exec (.vandn g d a b) s = vlogic g d a b (fun x y => x &&& ~~~y) s := rfl
theorem exec_vmov : exec (.vmov g d a) s = vlogic g d a a (fun x _ => x) s := rfl
theorem exec_vsel : exec (.vsel g d a b ps) s = execVsel g d a b ps s := rfl
theorem exec_vperm : exec (.vperm g d a b) s = execVperm g d a b s := rfl
theorem exec_vbcast : exec (.vbcast g d y f) s = execVbcast g d y f s := rfl
theorem exec_viota : exec (.viota g d y ln) s = execViota g d y ln s := rfl
theorem exec_agen : exec (.agen g d a b y) s = execAgen g d a b y s := rfl
theorem exec_vins : exec (.vins g d y ln f) s = execVins g d y ln f s := rfl
theorem exec_vext : exec (.vext g d y ln f) s = execVext g d y ln f s := rfl

end Arms

/-! ### Lane results (R128, R132, R134) -/

/-- A V slot with an enabled lane whose body runs through leaves what the body leaves. -/
theorem exec_runV_ok {g : Guard} {i : Instr} {s t : State} {body : W64 → Exec Unit} (hm : s.here.laneMask g ≠ 0)
    (hi : exec i s = runV g body s) (hb : body (s.here.laneMask g) s = .ok ((), t)) : exec i s = .next t := by
  rw [hi]
  simp only [runV, runBody, if_neg hm, hb]

theorem readYV_ok {k : SlotKind} {y : BitVec 5} {s : State} (h : (s.here.regs.ry y).poison = false) :
    readYV k y s = .ok ((s.here.regs.ry y).val, s) := by
  simp [readYV, h]

/-- Only the codes of the enabled lanes matter to the event that is recorded. -/
theorem recordsLanes_congr {s : State} {m : W64} {f f' : Nat → Nat} {ev : Option FelEvent}
    (hf : ∀ j < 64, m.getLsbD j = true → f j = f' j) (h : s.recordsLanes m f ev) : s.recordsLanes m f' ev := by
  rcases h with ⟨h0, hev⟩ | ⟨j, hj, hm, hne, hlow, hev⟩
  · exact .inl ⟨fun j hj hm => hf j hj hm ▸ h0 j hj hm, hev⟩
  · exact .inr ⟨j, hj, hm, hf j hj hm ▸ hne, fun i hi him => hf i (hi.trans hj) him ▸ hlow i hi him, hf j hj hm ▸ hev⟩

/-- Lanes without codes record no event. -/
theorem recordsLanes_zero {s : State} {m : W64} {ev : Option FelEvent} (h : s.recordsLanes m (fun _ => 0) ev) : ev = none := by
  rcases h with ⟨-, hev⟩ | ⟨_, _, _, hne, _⟩
  · exact hev
  · exact absurd rfl hne

/-- Scheduled lane results have the enabled lanes' values and the event of their codes. -/
theorem putLanes_gives (d : BitVec 5) (m : W64) (lat : Nat) (f : Nat → W32 × Nat) (s : State) :
    ∃ r ev, putLanes d m lat f s = .ok ((), s.lanesGiven d m lat r ev) ∧ s.recordsLanes m (fun j => (f j).2) ev ∧
      ∀ j < 64, m.getLsbD j = true → lane r j = (f j).1 := by
  refine ⟨_, _, rfl, recordsLanes_congr (fun j hj hm => ?_) (laneEvent_records s m _), fun j hj hm => ?_⟩
  · simp [vget, hj, hm]
  · simp [lane, vget, hj, hm]

/-- A V slot whose body schedules lane results completes with their values and codes. -/
theorem yieldsLanes_of_putLanes {s : State} {g : Guard} {i : Instr} {d : BitVec 5} {lat : Nat} {body : W64 → Exec Unit}
    {f : Nat → W32} {c : Nat → Nat} (hm : s.here.laneMask g ≠ 0) (hi : exec i s = runV g body s)
    (hb : body (s.here.laneMask g) s = putLanes d (s.here.laneMask g) lat (fun j => (f j, c j)) s) : s.yieldsLanes g i d lat f c := by
  obtain ⟨r, ev, hput, hev, hr⟩ := putLanes_gives d (s.here.laneMask g) lat (fun j => (f j, c j)) s
  exact ⟨r, ev, exec_runV_ok hm hi (hb.trans hput), hev, hr⟩

/-- The same for results without events (R155). -/
theorem writesLanes_of_putPlain {s : State} {g : Guard} {i : Instr} {d : BitVec 5} {lat : Nat} {body : W64 → Exec Unit}
    {f : Nat → W32} (hm : s.here.laneMask g ≠ 0) (hi : exec i s = runV g body s)
    (hb : body (s.here.laneMask g) s = putPlain d (s.here.laneMask g) lat f s) : s.writesLanes g i d lat f :=
  yieldsLanes_of_putLanes hm hi hb

/-! ### Elements of a format (R111, R130) -/

theorem signedOf_eq_toInt (n x : Nat) : signedOf n x = (BitVec.ofNat n x).toInt := by
  cases n with
  | zero => simp [signedOf, Nat.mod_one, BitVec.of_length_zero]
  | succ n =>
    simp only [signedOf, BitVec.toInt_eq_toNat_cond, BitVec.toNat_ofNat, Nat.add_sub_cancel, pow_succ]
    grind

theorem ofNat_wrapTo (n : Nat) (z : Int) : BitVec.ofNat n (wrapTo n z) = BitVec.ofInt n z := by
  apply BitVec.eq_of_toNat_eq
  have hlt : z % 2 ^ n < 2 ^ n := Int.emod_lt_of_pos z (pow_pos two_pos n)
  have hnat : (z % 2 ^ n).toNat < 2 ^ n := (Int.toNat_lt (Int.emod_nonneg z (by positivity))).2 (by exact_mod_cast hlt)
  simp [wrapTo, Nat.mod_eq_of_lt hnat]

/-- A sign extension of the low bits is that of the element in them. -/
theorem sext64_eq_narrow (n : Nat) (v : W64) : sext64 n v = narrow n v :=
  congrArg (BitVec.ofInt 64) ((signedOf_eq_toInt n v.toNat).trans (by rw [BitVec.ofNat_toNat]))

theorem isFloat_eq_not_isInt {f : Fmt} (hf : fmtAr f) : f.isFloat = !f.isInt := by
  rcases hf with rfl | rfl | rfl | rfl | rfl | rfl | rfl <;> rfl

theorem width_le_of_fmtAr {f : Fmt} (hf : fmtAr f) : f.width ≤ 32 := by
  rcases hf with rfl | rfl | rfl | rfl | rfl | rfl | rfl <;> decide

/-- The element in the low n bits of a word, zero-extended or cut to k bits. -/
theorem ofNat_toNat_mod {w : Nat} (k n : Nat) (v : BitVec w) : BitVec.ofNat k (v.toNat % 2 ^ n) = (v.setWidth n).setWidth k := by
  rw [← BitVec.toNat_setWidth, BitVec.ofNat_toNat]

/-- R130: the element in a word's low bits as a lane holds it, sign-extended in an integer format and zero-extended in a floating one. -/
theorem laneOf_mod {f : Fmt} (hf : fmtAr f) (v : W64) : laneOf f (v.toNat % 2 ^ f.width) =
    if f.isInt then ((v.setWidth 32).setWidth f.width).signExtend 32 else ((v.setWidth 32).setWidth f.width).setWidth 32 := by
  rw [BitVec.setWidth_setWidth_of_le v (width_le_of_fmtAr hf), laneOf, isFloat_eq_not_isInt hf]
  cases f.isInt with
  | true =>
    show BitVec.ofNat 32 (wrapTo 32 (signedOf f.width _)) = BitVec.ofInt 32 _
    rw [ofNat_wrapTo, signedOf_eq_toInt, ofNat_toNat_mod, BitVec.setWidth_eq]
  | false =>
    show BitVec.ofNat 32 (_ % _ % _) = _
    rw [Nat.mod_mod, ofNat_toNat_mod]
    rfl

/-- R147: the element of a lane's low bits as vext moves it to a y register. -/
theorem extend_mod {n : Nat} (hn : n ≤ 64) (c : W32) : extend n (c.toNat % 2 ^ n) = (c.setWidth n).signExtend 64 := by
  rw [extend, sext64_eq_narrow, narrow, BitVec.setWidth_ofNat_of_le hn, ofNat_toNat_mod, BitVec.setWidth_eq]

/-! ### Arena addresses (R150) -/

/-- The limit of R150 is the upper half of Y. -/
theorem beyond_iff (v : W64) (c : W32) : (bits v.toNat 32 32 ≠ 0 ∧ bits v.toNat 32 32 ≤ c.toNat) ↔
    v.extractLsb' 32 32 ≠ 0 ∧ v.extractLsb' 32 32 ≤ c := by
  have h : bits v.toNat 32 32 = (v.extractLsb' 32 32).toNat := by simp [bits, Nat.shiftRight_eq_div_pow]
  rw [h, BitVec.le_def, ← BitVec.toNat_ne_iff_ne]
  rfl

/-- R150: an address below the limit is taken modulo 2^32. -/
theorem ofNat_address (x c : W32) (v : W64) : BitVec.ofNat 32 (x.toNat + c.toNat * bits v.toNat 0 32) = x + c * v.setWidth 32 := by
  have h : bits v.toNat 0 32 = (v.setWidth 32).toNat := by simp [bits]
  rw [h, BitVec.ofNat_add, BitVec.ofNat_mul, BitVec.ofNat_toNat, BitVec.ofNat_toNat, BitVec.ofNat_toNat]
  simp

/-- R150: the address of a lane with its event. -/
theorem agen_lane (va vb : Lanes) (v : W64) (j : Nat) :
    (if bits v.toNat 32 32 ≠ 0 ∧ bits v.toNat 32 32 ≤ code vb j then (BitVec.ofNat 32 sent, 5)
      else (BitVec.ofNat 32 (code va j + code vb j * bits v.toNat 0 32), 0)) =
    ((if v.extractLsb' 32 32 ≠ 0 ∧ v.extractLsb' 32 32 ≤ lane vb j then 0xFFFFFFFF else lane va j + lane vb j * v.setWidth 32 : W32),
      if v.extractLsb' 32 32 ≠ 0 ∧ v.extractLsb' 32 32 ≤ lane vb j then 5 else 0) := by
  simp only [code, beyond_iff, ofNat_address]
  split
  · rfl
  · rfl

/-! ### One lane of a register (R147) -/

/-- R147: vins writes only its lane, and only where that lane is enabled. -/
theorem exec_vins_of_enabled {s : State} {g : Guard} {d y : BitVec 5} {ln : BitVec 6} {f : Fmt} (hm : s.here.laneMask g ≠ 0)
    (hy : (s.here.regs.ry y).poison = false) (hl : (s.here.laneMask g).getLsbD ln.toNat = true) :
    ∃ r, exec (.vins g d y ln f) s = .next (s.lanesGiven d (1 <<< ln.toNat) 2 r none) ∧
      lane r ln.toNat = laneOf f ((s.here.regs.ry y).val.toNat % 2 ^ f.width) := by
  have hbit : ((1 <<< ln.toNat : Nat) : W64) = BitVec.ofNat 64 (2 ^ ln.toNat) := congrArg (BitVec.ofNat 64) (Nat.one_shiftLeft _)
  have hon : (BitVec.ofNat 64 (2 ^ ln.toNat)).getLsbD ln.toNat = true := by
    rw [BitVec.getLsbD_ofNat, Nat.testBit_two_pow_self, decide_eq_true ln.isLt]
    rfl
  obtain ⟨r, ev, hput, hev, hr⟩ := putLanes_gives d (BitVec.ofNat 64 (2 ^ ln.toNat)) 2
    (fun _ => (laneOf f ((s.here.regs.ry y).val.toNat % 2 ^ f.width), 0)) s
  rw [recordsLanes_zero hev] at hput
  rw [hbit]
  refine ⟨r, exec_runV_ok hm (exec_vins ..) ?_, hr _ ln.isLt hon⟩
  simp only [exec_bind, readYV_ok hy, hl, if_true]
  exact hput

theorem exec_vins_of_disabled {s : State} {g : Guard} {d y : BitVec 5} {ln : BitVec 6} {f : Fmt} (hm : s.here.laneMask g ≠ 0)
    (hy : (s.here.regs.ry y).poison = false) (hl : (s.here.laneMask g).getLsbD ln.toNat = false) :
    exec (.vins g d y ln f) s = .next s :=
  exec_runV_ok hm (exec_vins ..) (by simp [readYV_ok hy, hl])

/-- R147: vext moves its lane of D where that lane is enabled. -/
theorem exec_vext_of_enabled {s : State} {g : Guard} {d y : BitVec 5} {ln : BitVec 6} {f : Fmt} (hm : s.here.laneMask g ≠ 0)
    (hl : (s.here.laneMask g).getLsbD ln.toNat = true) :
    let c := code (s.here.regs.rv d) ln.toNat % 2 ^ f.width
    exec (.vext g d y ln f) s = .next (s.elastically (.y y ⟨if f.isInt then extend f.width c else BitVec.ofNat 64 c, false⟩) 2) :=
  exec_runV_ok hm (exec_vext ..) (by simp [hl, State.elastically])

theorem exec_vext_of_disabled {s : State} {g : Guard} {d y : BitVec 5} {ln : BitVec 6} {f : Fmt} (hm : s.here.laneMask g ≠ 0)
    (hl : (s.here.laneMask g).getLsbD ln.toNat = false) : exec (.vext g d y ln f) s = .next s :=
  exec_runV_ok hm (exec_vext ..) (by simp [hl])

/-! ### The statement -/

/-- Lane logic and moves act lane by lane (R139). -/
theorem vlogic_writes {s : State} {g : Guard} {i : Instr} {d a b : BitVec 5} {f : W32 → W32 → W32} (hm : s.here.laneMask g ≠ 0)
    (hi : exec i s = vlogic g d a b f s) :
    s.writesLanes g i d 2 fun j => f (lane (s.here.regs.rv a) j) (lane (s.here.regs.rv b) j) :=
  writesLanes_of_putPlain hm hi rfl

/-- Settles O24: each body schedules its lanes once (`putLanes_gives`), and vins and vext are split by whether their lane is enabled. -/
theorem vectorMoves : Obligations.VectorMoves := by
  unfold Obligations.VectorMoves
  intro s g d a b y f ps ln hm hf hy
  refine ⟨vlogic_writes hm (exec_vand ..), vlogic_writes hm (exec_vor ..), vlogic_writes hm (exec_vxor ..),
    vlogic_writes hm (exec_vandn ..), vlogic_writes hm (exec_vmov ..), ?vsel, ?vperm, ?vbcast, ?viota, ?agen,
    fun hl => ⟨?vins, ?vext⟩, fun hl => ⟨exec_vins_of_disabled hm hy hl, exec_vext_of_disabled hm hl⟩⟩
  case vsel => exact writesLanes_of_putPlain hm (exec_vsel ..) rfl
  case vperm => exact writesLanes_of_putPlain hm (exec_vperm ..) rfl
  case vbcast =>
    refine writesLanes_of_putPlain hm (exec_vbcast ..) ?_
    simp only [exec_bind, readYV_ok hy, laneOf_mod hf]
  case viota =>
    refine writesLanes_of_putPlain hm (exec_viota ..) ?_
    simp only [exec_bind, readYV_ok hy, BitVec.ofNat_add, BitVec.ofNat_toNat]
  case agen =>
    refine yieldsLanes_of_putLanes hm (exec_agen ..) ?_
    simp only [exec_bind, readYV_ok hy, readV_apply, agen_lane]
  case vins =>
    obtain ⟨r, hrun, hlane⟩ := exec_vins_of_enabled hm hy hl
    exact ⟨r, hrun, hlane.trans (laneOf_mod hf _)⟩
  case vext =>
    rw [exec_vext_of_enabled hm hl, code, extend_mod ((width_le_of_fmtAr hf).trans (by decide)), ofNat_toNat_mod]

end Sys2Proof.Machine
end

section
/-!
O12. Handles, layout and bond registers: the description of a handle as its fields in a row, the parts of a layout register as
slices of its 192 bits, and what each instruction of the Y slot leaves.
-/

namespace Sys2Proof.Machine

/-! ### The meanings of the instructions (R215, R262, R309) -/

section Arms

variable (g : Guard) (h src : BitVec 4) (d y : BitVec 5) (n : BitVec 3) (part : BitVec 2) (s : State)

theorem exec_hdrop : exec (.hdrop g h) s = execHdrop g h s := rfl
theorem exec_hmov : exec (.hmov g h src) s = execHmov g h src s := rfl
theorem exec_hinfo : exec (.hinfo g h d) s = execHinfo g h d s := rfl
theorem exec_lset : exec (.lset g n part y) s = execLset g n part y s := rfl
theorem exec_lget : exec (.lget g n part d) s = execLget g n part d s := rfl
theorem exec_bset : exec (.bset g n y) s = execBset g n y s := rfl
theorem exec_bget : exec (.bget g n d) s = execBget g n d s := rfl

end Arms

/-! ### The shared forms of their bodies -/

/-- A y operand that names a plain register without poison is its value. -/
theorem needY_plain {s : State} {y : BitVec 5} (hy : s.here.plain .y y) (hp : (s.here.regs.ry y).poison = false) :
    needY y s = .ok ((s.here.regs.ry y).val, s) := by
  simp [needY, readYf_plain (hy rfl), hp]

/-- An enabled slot whose body writes one word without poison into a plain y register, at latency 1. -/
theorem runSlot_writeY {s : State} {g : Guard} {d : BitVec 5} {body : Exec Unit} {w : W64} (hg : s.here.enabled g = true)
    (hd : s.here.plain .y d) (hb : body s = writeR .y d ⟨w, false⟩ 1 s) :
    runSlot g body s = .next (s.exactly (.y d ⟨w, false⟩) 1) :=
  runSlot_ok hg (hb.trans (writeR_plain hd _ 1))

/-- An enabled slot whose body puts one exact result made from a plain y operand without poison in flight. -/
theorem runSlot_needY_exact {s : State} {g : Guard} {y : BitVec 5} {r : Ctx → W64 → Result} (hg : s.here.enabled g = true)
    (hy : s.here.plain .y y) (hp : (s.here.regs.ry y).poison = false) :
    runSlot g (do let v ← needY y; exact (r (← getHere) v) 1) s = .next (s.exactly (r s.here (s.here.regs.ry y).val) 1) :=
  runSlot_ok hg (by simp [needY_plain hy hp, State.exactly])

/-! ### The description of a handle (R216) -/

/-- Bit vectors in a row, as a number. -/
theorem toNat_append_eq_add {m n : Nat} (x : BitVec m) (y : BitVec n) : (x ++ y).toNat = x.toNat * 2 ^ n + y.toNat := by
  rw [BitVec.toNat_append, ← Nat.shiftLeft_add_eq_or_of_lt y.isLt, Nat.shiftLeft_eq]

/-- R216: the fields of the description stand in a row, and the physical page is none of them. -/
theorem hinfoWord_eq_append (q : Handle) :
    hinfoWord q = BitVec.ofNat 1 q.valid.toNat ++ q.lclass ++ q.size ++ q.tgt ++ q.perm ++ BitVec.ofNat 1 q.kv.toNat ++ q.vpage ++
      q.cview ++ q.bankl ++ q.plane ++ q.tstride ++ q.afmt := by
  have flag (b : Bool) : (BitVec.ofNat 1 b.toNat).toNat = b.toNat := by cases b <;> rfl
  apply BitVec.eq_of_toNat_eq
  rw [hinfoWord, BitVec.toNat_ofNat]
  simp only [toNat_append_eq_add, flag]
  have valid := Bool.toNat_lt q.valid
  have kv := Bool.toNat_lt q.kv
  omega

/-! ### The parts of a layout register (R261) -/

theorem ofNat_bits_eq_extractLsb' {m : Nat} (x : BitVec m) (lo n : Nat) : BitVec.ofNat n (bits x.toNat lo n) = x.extractLsb' lo n := by
  apply BitVec.eq_of_toNat_eq
  simp [bits, Nat.shiftRight_eq_div_pow]

/-- A number with one field replaced: what stands above the field, the new field, and what stands below it. -/
theorem sub_bits_add_eq (x u lo n : Nat) :
    x - bits x lo n * 2 ^ lo + u * 2 ^ lo = 2 ^ lo * (2 ^ n * (x / 2 ^ (lo + n)) + u) + x % 2 ^ lo := by
  have hx : 2 ^ lo * (2 ^ n * (x / 2 ^ (lo + n)) + bits x lo n) + x % 2 ^ lo = x := by
    rw [pow_add, ← Nat.div_div_eq_div_mul, bits, Nat.div_add_mod, Nat.div_add_mod]
  rw [mul_add] at hx ⊢
  rw [mul_comm _ (2 ^ lo), mul_comm u]
  omega

/-- Replacing a field changes no bit beside it. -/
theorem testBit_sub_bits_add {u n : Nat} (x lo j : Nat) (hu : u < 2 ^ n) :
    (x - bits x lo n * 2 ^ lo + u * 2 ^ lo).testBit j =
      if j < lo then x.testBit j else if j < lo + n then u.testBit (j - lo) else x.testBit j := by
  have hlow : x % 2 ^ lo < 2 ^ lo := Nat.mod_lt _ (by positivity)
  rw [sub_bits_add_eq, Nat.testBit_two_pow_mul_add _ hlow, Nat.testBit_two_pow_mul_add _ hu]
  by_cases hj : j < lo
  · simp [hj]
  · by_cases hf : j < lo + n
    · simp [hj, hf, show j - lo < n by omega]
    · simp [hj, hf, show ¬ j - lo < n by omega, Nat.testBit_div_two_pow, show j - lo - n + (lo + n) = j by omega]

/-- R261: the word that a part takes on; the reserved bits of part 0 are zero. -/
def partWord (part : Nat) (v : W64) : W64 := if part = 0 then v &&& 0x7FFFFF else v

theorem toNat_partWord (part : Nat) (v : W64) : (partWord part v).toNat = if part = 0 then v.toNat % 2 ^ 23 else v.toNat := by
  unfold partWord
  split
  · exact Nat.and_two_pow_sub_one_eq_mod v.toNat 23
  · rfl

theorem getLsbD_setPart (l : BitVec 192) (part : Nat) (v : W64) {j : Nat} (hj : j < 192) :
    (setPart l part v).getLsbD j =
      if 64 * part ≤ j ∧ j < 64 * part + 64 then (partWord part v).getLsbD (j - 64 * part) else l.getLsbD j := by
  rw [setPart, ← toNat_partWord, BitVec.getLsbD_ofNat, testBit_sub_bits_add _ _ _ (partWord part v).isLt]
  simp only [hj, decide_true, Bool.true_and]
  by_cases hlo : j < 64 * part
  · simp [hlo, BitVec.getLsbD, show ¬ 64 * part ≤ j by omega]
  · simp [hlo, BitVec.getLsbD, show 64 * part ≤ j by omega]

/-- R262: lset replaces one part and keeps the others. -/
theorem extractLsb'_setPart (l : BitVec 192) (part : Nat) (v : W64) {i : Nat} (hi : i < 3) :
    (setPart l part v).extractLsb' (64 * i) 64 = if i = part then partWord i v else l.extractLsb' (64 * i) 64 := by
  ext j hj
  rw [← BitVec.getLsbD_eq_getElem, BitVec.getLsbD_extractLsb', getLsbD_setPart l part v (by omega)]
  by_cases h : i = part
  · simp [h, hj]
  · simp [h, hj, show ¬ (64 * part ≤ 64 * i + j ∧ 64 * i + j < 64 * part + 64) by omega]

/-! ### The statement -/

/-- Settles O12: each body runs in one of three forms (an exact result alone, a word written to y, a result made from a y operand);
`hinfoWord_eq_append` and `extractLsb'_setPart` say what the words are. -/
theorem handleLayoutBond : Obligations.HandleLayoutBond := by
  unfold Obligations.HandleLayoutBond
  intro s g h src d y n part hg hd hy _
  refine ⟨?hdrop, ?hmov, ⟨hinfoWord (s.here.regs.rh h), ?hinfo, hinfoWord_eq_append _⟩, ?lget, ?bget, fun hp => ⟨?bset,
    setPart (s.here.regs.rl n) part.toNat (s.here.regs.ry y).val, ?lset, fun i hi => extractLsb'_setPart _ _ _ hi⟩⟩
  case hdrop => exact (exec_hdrop ..).trans (runSlot_ok hg rfl)
  case hmov => exact (exec_hmov ..).trans (runSlot_ok hg rfl)
  case hinfo => exact (exec_hinfo ..).trans (runSlot_writeY hg hd rfl)
  case lget => exact ofNat_bits_eq_extractLsb' .. ▸ (exec_lget ..).trans (runSlot_writeY hg hd rfl)
  case bget => exact (exec_bget ..).trans (runSlot_writeY hg hd rfl)
  case bset => exact (exec_bset ..).trans (runSlot_needY_exact (r := fun _ v => .b n (bondMask v)) hg hy hp)
  case lset => exact (exec_lset ..).trans (runSlot_needY_exact (r := fun k v => .l n (setPart (k.regs.rl n) part.toNat v)) hg hy hp)

end Sys2Proof.Machine
end

section
/-!
O57. Decoding undoes encoding: each operand field is read back from its place in the slot word, so that the grids give back the
instruction; and the header of a one-slot bundle announces that slot and its LEND group alone.
-/

namespace Sys2Proof.Machine

/-! ### Sums of fields

The operand fields of a slot word stand from the top downwards: what is read at a place is not touched by the fields above, and the
fields below are smaller than its unit. -/

theorem fields_cons (x : Nat) (fs : List Nat) : (x :: fs).sum = x + fs.sum := by rw [List.sum_cons]
theorem fields_nil : ([] : List Nat).sum = 0 := by rw [List.sum_nil]

theorem bits_below {v k r lo n : Nat} (h : lo + n ≤ k) : bits (v * 2 ^ k + r) lo n = bits r lo n := by
  obtain ⟨j, rfl⟩ : ∃ j, k = lo + n + j := ⟨k - (lo + n), by omega⟩
  have e : v * 2 ^ (lo + n + j) = 2 ^ lo * (2 ^ n * (v * 2 ^ j)) := by ring
  rw [bits, bits, e, Nat.mul_add_div (Nat.two_pow_pos lo), Nat.mul_add_mod]

theorem fld_below {v k r lo n : Nat} (h : lo + n ≤ k) : fld (v * 2 ^ k + r) lo n = fld r lo n := by
  rw [fld, fld, bits_below h]

theorem bitAt_below {v k r lo : Nat} (h : lo + 1 ≤ k) : bitAt (v * 2 ^ k + r) lo = bitAt r lo :=
  congrArg (· == 1) (bits_below h)

theorem bits_same {v r lo n : Nat} (hv : v < 2 ^ n) (hr : r < 2 ^ lo) : bits (v * 2 ^ lo + r) lo n = v := by
  rw [bits, Nat.mul_comm, Nat.mul_add_div (Nat.two_pow_pos lo), Nat.div_eq_of_lt hr, Nat.add_zero, Nat.mod_eq_of_lt hv]

theorem fld_same {n lo r : Nat} (x : BitVec n) (hr : r < 2 ^ lo) : fld (x.toNat * 2 ^ lo + r) lo n = x := by
  rw [fld, bits_same x.isLt hr, BitVec.ofNat_toNat, BitVec.setWidth_eq]

theorem bitAt_same {v lo r : Nat} (hr : r < 2 ^ lo) : bitAt (v % 2 * 2 ^ lo + r) lo = (v % 2 == 1) :=
  congrArg (· == 1) (bits_same (n := 1) (Nat.mod_lt v (by decide)) hr)

/-- R38: an immediate is the part in the slot word with the part in its LEND group. -/
theorem imm_joined {m : Nat} (x : BitVec m) (n : Nat) : BitVec.ofNat m (bits (x.toNat % 2 ^ n + 0) 0 n + x.toNat / 2 ^ n * 2 ^ n) = x := by
  rw [bits, Nat.add_zero, Nat.pow_zero, Nat.div_one, Nat.mod_mod, Nat.mul_comm, Nat.mod_add_div, BitVec.ofNat_toNat, BitVec.setWidth_eq]

/-! ### Codes (R41, R45, R378)

Each code is written as its own remainder, so that its size shows. -/

theorem putNat_cl (c : Cl) (lo : Nat) : putNat c.code lo = c.code % 2 * 2 ^ lo := by cases c <;> rfl
theorem putNat_fmt (f : Fmt) (lo : Nat) : putNat f.code lo = f.code % 2 ^ 4 * 2 ^ lo := by cases f <;> rfl
theorem putNat_cond (c : Cond) (lo : Nat) : putNat c.code lo = c.code % 2 ^ 4 * 2 ^ lo := by cases c <;> rfl
theorem putNat_vcond (c : VCond) (lo : Nat) : putNat c.code lo = c.code % 2 ^ 3 * 2 ^ lo := by cases c <;> rfl
theorem putNat_latomOp (o : LatomOp) (lo : Nat) : putNat o.code lo = o.code % 2 ^ 3 * 2 ^ lo := by cases o <;> rfl
theorem putNat_ofNat (v lo : Nat) [v.AtLeastTwo] : putNat ofNat(v) lo = ofNat(v) * 2 ^ lo := rfl
theorem putBit_eq (b : Bool) (lo : Nat) : putBit b lo = b.toNat % 2 * 2 ^ lo := by cases b <;> rfl

theorem Cl.ofBit_code (c : Cl) : Cl.ofBit (c.code % 2 == 1) = c := by cases c <;> rfl
theorem Fmt.ofCode_code (f : Fmt) : Fmt.ofCode (f.code % 2 ^ 4) = some f := by cases f <;> rfl
theorem Cond.ofCode_code (c : Cond) : Cond.ofCode (c.code % 2 ^ 4) = some c := by cases c <;> rfl
theorem VCond.ofCode_code (c : VCond) : VCond.ofCode (c.code % 2 ^ 3) = some c := by cases c <;> rfl
theorem LatomOp.ofCode_code (o : LatomOp) : LatomOp.ofCode (o.code % 2 ^ 3) = some o := by cases o <;> rfl
theorem toNat_mod_two_beq_one (b : Bool) : (b.toNat % 2 == 1) = b := by cases b <;> rfl

/-! ### Fields that the encoder lists out of order -/

/-- CL stands below T (R43). -/
theorem cl_add_t (c t r : Nat) : c * 2 ^ 15 + (t * 2 ^ 16 + r) = t * 2 ^ 16 + (c * 2 ^ 15 + r) := Nat.add_left_comm ..

/-- The field at bit 0 stands below every other one. -/
theorem lowest_add (v u k r : Nat) : v * 2 ^ 0 + (u * 2 ^ k + r) = u * 2 ^ k + (v * 2 ^ 0 + r) := Nat.add_left_comm ..

/-! ### The predicate fields and the opcode (R35) -/

theorem slotBits_eq (op : Nat) (g : Guard) (x : Nat) :
    slotBits op g x = op * 2 ^ 26 + (g.pn.toNat % 2 * 2 ^ 25 + (g.pred.toNat * 2 ^ 21 + x)) := by
  simp only [slotBits, Nat.mod_eq_of_lt g.pn.toNat_lt, Nat.add_assoc]

theorem fld_slotBits {op x lo n : Nat} (g : Guard) (h : lo + n ≤ 21) : fld (slotBits op g x) lo n = fld x lo n := by
  rw [slotBits_eq, fld_below (by omega), fld_below (by omega), fld_below h]

theorem bits_slotBits {op x lo n : Nat} (g : Guard) (h : lo + n ≤ 21) : bits (slotBits op g x) lo n = bits x lo n := by
  rw [slotBits_eq, bits_below (by omega), bits_below (by omega), bits_below h]

theorem bitAt_slotBits {op x lo : Nat} (g : Guard) (h : lo + 1 ≤ 21) : bitAt (slotBits op g x) lo = bitAt x lo :=
  congrArg (· == 1) (bits_slotBits g h)

theorem bits_opcode_slotBits {op x : Nat} (g : Guard) (ho : op < 2 ^ 6) (hx : x < 2 ^ 21) : bits (slotBits op g x) 26 6 = op := by
  rw [slotBits_eq, bits_same ho (by omega)]

theorem guardDec_slotBits {op x : Nat} (g : Guard) (hx : x < 2 ^ 21) : Guard.dec (slotBits op g x) = g := by
  rw [Guard.dec, slotBits_eq, bitAt_below (by decide), bitAt_same (by omega), toNat_mod_two_beq_one, fld_below (by decide),
    fld_below (by decide), fld_same _ hx]

/-! ### The grids give back the instruction -/

/-- A word and a LEND group that the grid of a slot kind reads as an instruction; with p0 negated (R36) the instruction is not well formed. -/
def ReadsAs (grid : Guard → Nat → Nat → Nat → Option Instr) (i : Instr) (k : SlotKind) (w l : Nat) : Prop :=
  ∃ op g x, w = slotBits op g x ∧ (x < 2 ^ 21 ∧ l < 2 ^ 3) ∧ (g = ⟨true, 0⟩ → i.wf = false) ∧ opAssigned k op = true ∧
    grid g op w l = some i

theorem readsAs_of_slotWord_X {i : Instr} {w l : Nat} (h : slotWord i = some (.X, w, l)) : ReadsAs parseX i .X w l := by
  cases i
  case' add c d a b w | sub c d a b w | and c d a b w | or c d a b w | xor c d a b w | andn c d a b w | shl c d a b w | shr c d a b w
    | sra c d a b w | addi c d a imm | andi c d a imm | ori c d a imm | xori c d a imm | shli c d a imm | shri c d a imm
    | srai c d a imm => cases c
  all_goals cases h
  all_goals
    refine ⟨_, _, _, rfl, ?_, ?_, rfl, ?_⟩
    · simp only [fields_cons, fields_nil, putBits, putBit_eq, lowPart, highPart, putNat_cond]
      omega
    · rintro rfl; rfl
    · dsimp only [parseX]
      simp (disch := omega) only [fields_cons, fields_nil, putNat_cond, fld_slotBits, bits_slotBits, bitAt_slotBits, putBits, putBit_eq,
        lowPart, highPart, fld_below, fld_same, bits_below, bits_same, bitAt_below, bitAt_same, toNat_mod_two_beq_one, imm_joined,
        Cond.ofCode_code, Option.map_some, -Nat.reducePow]

theorem readsAs_of_slotWord_Y {i : Instr} {w l : Nat} (h : slotWord i = some (.Y, w, l)) : ReadsAs parseY i .Y w l := by
  cases i
  case' add c d a b w | sub c d a b w | and c d a b w | or c d a b w | xor c d a b w | andn c d a b w | shl c d a b w | shr c d a b w
    | sra c d a b w | addi c d a imm | andi c d a imm | ori c d a imm | xori c d a imm | shli c d a imm | shri c d a imm
    | srai c d a imm => cases c
  all_goals cases h
  all_goals
    refine ⟨_, _, _, rfl, ?_, ?_, rfl, ?_⟩
    · simp only [fields_cons, fields_nil, putBits, putBit_eq, lowPart, highPart, putNat_cond, putNat_ofNat]
      omega
    · rintro rfl; rfl
    · dsimp only [parseY]
      simp (disch := omega) only [fields_cons, fields_nil, putNat_cond, putNat_ofNat, fld_slotBits, bits_slotBits, bitAt_slotBits,
        putBits, putBit_eq, lowPart, highPart, fld_below, fld_same, bits_below, bits_same, bitAt_below, bitAt_same,
        toNat_mod_two_beq_one, imm_joined, lowest_add, Cond.ofCode_code, Option.map_some, -Nat.reducePow]

theorem readsAs_of_slotWord_L {i : Instr} {w l : Nat} (h : slotWord i = some (.L, w, l)) : ReadsAs parseL i .L w l := by
  cases i
  case' add c d a b w | sub c d a b w | and c d a b w | or c d a b w | xor c d a b w | andn c d a b w | shl c d a b w | shr c d a b w
    | sra c d a b w | addi c d a imm | andi c d a imm | ori c d a imm | xori c d a imm | shli c d a imm | shri c d a imm
    | srai c d a imm => cases c
  all_goals cases h
  all_goals
    refine ⟨_, _, _, rfl, ?_, ?_, rfl, ?_⟩
    · simp only [fields_cons, fields_nil, putBits, lowPart, highPart, putNat_cl, putNat_ofNat]
      omega
    · rintro rfl; rfl
    · dsimp only [parseL]
      simp (disch := omega) only [fields_cons, fields_nil, putNat_cl, putNat_ofNat, fld_slotBits, bits_slotBits, bitAt_slotBits, putBits,
        lowPart, highPart, fld_below, fld_same, bits_below, bitAt_below, bitAt_same, imm_joined, BitVec.ofNat_toNat, BitVec.setWidth_eq,
        cl_add_t, Cl.ofBit_code, -Nat.reducePow]

theorem readsAs_of_slotWord_V {i : Instr} {w l : Nat} (h : slotWord i = some (.V, w, l)) : ReadsAs parseV i .V w l := by
  cases i
  case' add c d a b w | sub c d a b w | and c d a b w | or c d a b w | xor c d a b w | andn c d a b w | shl c d a b w | shr c d a b w
    | sra c d a b w | addi c d a imm | andi c d a imm | ori c d a imm | xori c d a imm | shli c d a imm | shri c d a imm
    | srai c d a imm => cases c
  all_goals cases h
  all_goals
    refine ⟨_, _, _, rfl, ?_, ?_, rfl, ?_⟩
    · simp only [fields_cons, fields_nil, putBits, putBit_eq, putNat_fmt, putNat_vcond, putNat_ofNat]
      omega
    · rintro rfl; rfl
    · dsimp only [parseV]
      simp (disch := omega) only [fields_cons, fields_nil, putNat_fmt, putNat_vcond, putNat_ofNat, fld_slotBits, bits_slotBits,
        bitAt_slotBits, putBits, putBit_eq, fld_below, fld_same, bits_below, bits_same, bitAt_below, bitAt_same, toNat_mod_two_beq_one,
        BitVec.ofNat_toNat, BitVec.setWidth_eq, Fmt.ofCode_code, VCond.ofCode_code, Option.map_some, Option.bind_some, -Nat.reducePow]

theorem readsAs_of_slotWord_M {i : Instr} {w l : Nat} (h : slotWord i = some (.M, w, l)) : ReadsAs parseM i .M w l := by
  cases i
  case' add c d a b w | sub c d a b w | and c d a b w | or c d a b w | xor c d a b w | andn c d a b w | shl c d a b w | shr c d a b w
    | sra c d a b w | addi c d a imm | andi c d a imm | ori c d a imm | xori c d a imm | shli c d a imm | shri c d a imm
    | srai c d a imm => cases c
  all_goals cases h
  all_goals
    refine ⟨_, _, _, rfl, ?_, ?_, rfl, ?_⟩
    · simp only [fields_cons, fields_nil, putBits, putBit_eq, putNat_fmt]
      omega
    · rintro rfl; rfl
    · dsimp only [parseM]
      simp (disch := omega) only [fields_cons, fields_nil, putNat_fmt, fld_slotBits, bits_slotBits, bitAt_slotBits, putBits, putBit_eq,
        fld_below, fld_same, bits_below, bits_same, bitAt_below, bitAt_same, toNat_mod_two_beq_one, BitVec.ofNat_toNat,
        BitVec.setWidth_eq, lowest_add, Fmt.ofCode_code, Option.map_some, -Nat.reducePow]

theorem readsAs_of_slotWord_E {i : Instr} {w l : Nat} (h : slotWord i = some (.E, w, l)) : ReadsAs parseE i .E w l := by
  cases i
  case' add c d a b w | sub c d a b w | and c d a b w | or c d a b w | xor c d a b w | andn c d a b w | shl c d a b w | shr c d a b w
    | sra c d a b w | addi c d a imm | andi c d a imm | ori c d a imm | xori c d a imm | shli c d a imm | shri c d a imm
    | srai c d a imm => cases c
  all_goals cases h
  all_goals
    refine ⟨_, _, _, rfl, ?_, ?_, rfl, ?_⟩
    · simp only [fields_cons, fields_nil, putBits, putBit_eq, KE.enc, EYF.enc, putNat_latomOp]
      omega
    · rintro rfl; rfl
    · dsimp only [parseE]
      simp (disch := omega) only [fields_cons, fields_nil, KE.enc, EYF.enc, putNat_latomOp, fld_slotBits, bits_slotBits, bitAt_slotBits,
        putBits, putBit_eq, Nat.add_assoc, fld_below, fld_same, bits_below, bits_same, bitAt_below, bitAt_same, toNat_mod_two_beq_one,
        BitVec.ofNat_toNat, BitVec.setWidth_eq, KE.dec, EYF.dec, LatomOp.ofCode_code, Option.map_some, -Nat.reducePow]

theorem readsAs_of_slotWord_S {i : Instr} {w l : Nat} (h : slotWord i = some (.S, w, l)) : ReadsAs parseS i .S w l := by
  cases i
  case' add c d a b w | sub c d a b w | and c d a b w | or c d a b w | xor c d a b w | andn c d a b w | shl c d a b w | shr c d a b w
    | sra c d a b w | addi c d a imm | andi c d a imm | ori c d a imm | xori c d a imm | shli c d a imm | shri c d a imm
    | srai c d a imm => cases c
  all_goals cases h
  all_goals
    refine ⟨_, _, _, rfl, ?_, ?_, rfl, ?_⟩
    · simp only [fields_cons, fields_nil, putBits, lowPart, highPart]
      omega
    · rintro rfl; rfl
    · dsimp only [parseS]
      simp (disch := omega) only [fields_cons, fields_nil, fld_slotBits, bits_slotBits, putBits, lowPart, highPart, fld_below, fld_same,
        bits_below, imm_joined, -Nat.reducePow]

theorem readsAs_of_slotWord {i : Instr} {k : SlotKind} {w l : Nat} (h : slotWord i = some (k, w, l)) : ReadsAs (parseSlot k) i k w l := by
  cases k with
  | X => exact readsAs_of_slotWord_X h
  | Y => exact readsAs_of_slotWord_Y h
  | L => exact readsAs_of_slotWord_L h
  | V => exact readsAs_of_slotWord_V h
  | M => exact readsAs_of_slotWord_M h
  | E => exact readsAs_of_slotWord_E h
  | S => exact readsAs_of_slotWord_S h

/-! ### Slot words and bundles -/

theorem opcode_lt_of_opAssigned {k : SlotKind} {op : Nat} (h : opAssigned k op = true) : op < 2 ^ 6 := by
  cases k <;> simp [opAssigned] at h <;> omega

theorem eq_of_guard_not_ok {g : Guard} (h : g.ok = false) : g = ⟨true, 0⟩ := by
  obtain ⟨pn, pred⟩ := g
  simpa [Guard.ok] using h

theorem decodeSlot_slotWord {i : Instr} {k : SlotKind} {w l : Nat} (hi : i.wf = true) (h : slotWord i = some (k, w, l)) :
    decodeSlot k w l = .ok i := by
  obtain ⟨op, g, x, rfl, ⟨hx, -⟩, hbad, ha, hp⟩ := readsAs_of_slotWord h
  have hg : g.ok = true := by
    by_contra hn
    exact Bool.false_ne_true ((hbad (eq_of_guard_not_ok (Bool.eq_false_of_not_eq_true hn))).symm.trans hi)
  simp [decodeSlot, bits_opcode_slotBits g (opcode_lt_of_opAssigned ha) hx, guardDec_slotBits g hx, ha, hg, hp, h, hi]

theorem slotBits_lt {op x : Nat} (g : Guard) (ho : op < 2 ^ 6) (hx : x < 2 ^ 21) : slotBits op g x < 2 ^ 32 := by
  rw [slotBits_eq]
  omega

/-- The header of a one-slot bundle announces that slot, with its LEND group, and nothing else (R32, R34). -/
theorem headerWord_fields (k : SlotKind) (l : Fin 8) : headerWord k l < 2 ^ 32 ∧ headerSlots (headerWord k l) = [k] ∧
    bits (headerWord k l) (lendLo k) 3 = l ∧ bitAt (headerWord k l) 23 = false ∧ bits (headerWord k l) 21 2 = 0 ∧
    slotKinds.all (fun j => bitAt (headerWord k l) (maskBit j) || bits (headerWord k l) (lendLo j) 3 == 0) = true := by
  cases k <;> revert l <;> decide

theorem decode_encode_slot {i : Instr} {k : SlotKind} {w l : Nat} (hi : i.wf = true) (h : slotWord i = some (k, w, l)) :
    decode (encode i) = some i := by
  have hd := decodeSlot_slotWord hi h
  obtain ⟨op, g, x, rfl, ⟨hx, hl⟩, -, ha, -⟩ := readsAs_of_slotWord h
  obtain ⟨hh, hslots, hlend, hrep, hres, hall⟩ := headerWord_fields k ⟨l, hl⟩
  have hw : slotBits op g x % 2 ^ 32 = slotBits op g x := Nat.mod_eq_of_lt (slotBits_lt g (opcode_lt_of_opAssigned ha) hx)
  have hb : headerWord k l % 2 ^ 32 = headerWord k l := Nat.mod_eq_of_lt hh
  simp only [encode, h, decode, List.map_cons, List.map_nil, BitVec.toNat_ofNat, hw, hb, decodeBundle, headerOk, hslots, hres, hall, hrep,
    decodeSlots, hlend, bundleInstrs]
  simp [hd]

/-! ### The statement -/

/-- Settles O57: each grid gives back what the encoder writes (`readsAs_of_slotWord`), behind a header that announces that slot alone. -/
theorem decodeUndoesEncode : Obligations.DecodeUndoesEncode := by
  unfold Obligations.DecodeUndoesEncode
  refine ⟨fun i hi k w l h => ⟨decodeSlot_slotWord hi h, decode_encode_slot hi h⟩, fun stop => ?_⟩
  cases stop <;> decide

end Sys2Proof.Machine
end

section
/-!
O1, O2, O3. The machine's numbers for scalar operations (R85 to R90) as bit vectors of the operation width.
-/

namespace Sys2Proof.Machine

/-! ### Widths and extension (R85) -/

theorem widthOf_le (w : BitVec 2) : widthOf w ≤ 64 :=
  Nat.mul_le_mul_left 8 (Nat.pow_le_pow_right (n := 2) (by decide) (Nat.le_of_lt_succ w.isLt))

theorem widthOf_pos (w : BitVec 2) : 0 < widthOf w := Nat.mul_pos (by decide) (Nat.two_pow_pos _)

/-- A number that is extended at a width counts for its low bits only. -/
theorem extend_eq_signExtend {n : Nat} (hn : n ≤ 64) (x : Nat) : extend n x = (BitVec.ofNat n x).signExtend 64 := by
  rw [extend, sext64_eq_narrow, narrow, BitVec.setWidth_ofNat_of_le hn]

/-- R85: a result at a width is the bit vector of that width that its number names, sign-extended. -/
theorem atWidth_eq {w : BitVec 2} {f : Nat → Nat → Nat → Nat} {x y : W64} {v : BitVec (widthOf w)}
    (h : BitVec.ofNat (widthOf w) (f (widthOf w) x.toNat y.toNat) = v) : atWidth w f x y = v.signExtend 64 := by
  rw [atWidth, extend_eq_signExtend (widthOf_le w), h]

/-! ### Two sources (R86) -/

section Operations

variable {n : Nat} (x y : W64)

theorem ofNat_add_toNat (hn : n ≤ 64) : BitVec.ofNat n (x.toNat + y.toNat) = (x + y).setWidth n := by
  rw [BitVec.setWidth_add _ _ hn, BitVec.ofNat_add, BitVec.ofNat_toNat, BitVec.ofNat_toNat]

theorem ofNat_mul_toNat (hn : n ≤ 64) : BitVec.ofNat n (x.toNat * y.toNat) = (x * y).setWidth n := by
  rw [BitVec.setWidth_mul _ _ hn, BitVec.ofNat_mul, BitVec.ofNat_toNat, BitVec.ofNat_toNat]

theorem ofNat_sub_toNat (hn : n ≤ 64) : BitVec.ofNat n (x.toNat % 2 ^ n + 2 ^ n - y.toNat % 2 ^ n) = (x - y).setWidth n := by
  have cut : (x - y).setWidth n = x.setWidth n - y.setWidth n :=
    eq_sub_of_add_eq (by rw [← BitVec.setWidth_add _ _ hn, BitVec.sub_add_cancel])
  have hy := Nat.mod_lt y.toNat (Nat.two_pow_pos n)
  rw [cut]
  apply BitVec.eq_of_toNat_eq
  rw [BitVec.toNat_sub, BitVec.toNat_ofNat, BitVec.toNat_setWidth, BitVec.toNat_setWidth]
  congr 1
  omega

theorem ofNat_shlW (hn : n ≤ 64) (k : Nat) : BitVec.ofNat n (shlW n x.toNat k) = (x <<< k).setWidth n := by
  apply BitVec.eq_of_toNat_eq
  rw [BitVec.toNat_ofNat, BitVec.toNat_setWidth, BitVec.toNat_shiftLeft, Nat.shiftLeft_eq, Nat.mod_mod_of_dvd _ (Nat.pow_dvd_pow 2 hn), shlW]
  split
  · rename_i hk
    rw [Nat.zero_mod, Nat.mod_eq_zero_of_dvd ((Nat.pow_dvd_pow 2 hk).mul_left _)]
  · rw [Nat.mod_mod]

theorem ofNat_shrW (k : Nat) : BitVec.ofNat n (shrW n x.toNat k) = x.setWidth n >>> k := by
  have hx := Nat.mod_lt x.toNat (Nat.two_pow_pos n)
  apply BitVec.eq_of_toNat_eq
  rw [BitVec.toNat_ofNat, BitVec.toNat_ushiftRight, BitVec.toNat_setWidth, Nat.shiftRight_eq_div_pow, shrW]
  split
  · rename_i hk
    rw [Nat.zero_mod, Nat.div_eq_of_lt (Nat.lt_of_lt_of_le hx (Nat.pow_le_pow_right (by decide) hk))]
  · exact Nat.mod_eq_of_lt (Nat.lt_of_le_of_lt (Nat.div_le_self ..) hx)

/-- A shift to the right by the width or more leaves the sign, and so does one by the width less one. -/
theorem toInt_shiftRight_min (v : BitVec n) (k : Nat) : v.toInt / 2 ^ min k (n - 1) = v.toInt >>> k := by
  rw [Int.shiftRight_eq_div_pow]
  rcases Nat.le_total k (n - 1) with h | h
  · rw [Nat.min_eq_left h]; push_cast; rfl
  · rw [Nat.min_eq_right h]
    have hlo := BitVec.le_toInt v
    have hhi := BitVec.toInt_lt (x := v)
    have hp : (2 : Int) ^ (n - 1) ≤ 2 ^ k := pow_le_pow_right₀ (by decide) h
    have hpos : (0 : Int) < 2 ^ (n - 1) := by positivity
    push_cast
    rcases Int.lt_or_le v.toInt 0 with hs | hs
    · have quot {m : Int} (hm : (2 : Int) ^ (n - 1) ≤ m) : v.toInt / m = -1 :=
        (Int.ediv_eq_iff_of_pos (by omega)).2 ⟨by omega, by omega⟩
      rw [quot le_rfl, quot hp]
    · rw [Int.ediv_eq_zero_of_lt hs hhi, Int.ediv_eq_zero_of_lt hs (by omega)]

theorem ofNat_sraW (k : Nat) : BitVec.ofNat n (sraW n x.toNat k) = (x.setWidth n).sshiftRight k := by
  rw [sraW, ofNat_wrapTo, signedOf_eq_toInt, BitVec.ofNat_toNat, toInt_shiftRight_min, BitVec.sshiftRight_eq]

/-- The two parts of a rotation stand side by side. -/
theorem ofNat_rolW (hn : 0 < n) (k : Nat) : BitVec.ofNat n (rolW n x.toNat k) = (x.setWidth n).rotateLeft k := by
  have hx := Nat.mod_lt x.toNat (Nat.two_pow_pos n)
  obtain ⟨m, hm⟩ : ∃ m, n = m + k % n := ⟨n - k % n, by have := Nat.mod_lt k hn; omega⟩
  have hsub : n - k % n = m := by omega
  have hpow : 2 ^ n = 2 ^ m * 2 ^ (k % n) := by rw [← Nat.pow_add, ← hm]
  have hlow : x.toNat % 2 ^ n / 2 ^ m < 2 ^ (k % n) := Nat.div_lt_of_lt_mul (by rw [← hpow]; exact hx)
  have hhigh : x.toNat % 2 ^ n * 2 ^ (k % n) % 2 ^ n = (x.toNat % 2 ^ n % 2 ^ m) <<< (k % n) := by
    rw [Nat.shiftLeft_eq, hpow, Nat.mul_mod_mul_right]
  apply BitVec.eq_of_toNat_eq
  rw [BitVec.toNat_ofNat, BitVec.toNat_rotateLeft, BitVec.toNat_setWidth, Nat.shiftRight_eq_div_pow, Nat.shiftLeft_eq, rolW, hsub, hhigh,
    Nat.shiftLeft_add_eq_or_of_lt hlow]
  refine Nat.mod_eq_of_lt (Nat.or_lt_two_pow ?_ (Nat.lt_of_le_of_lt (Nat.div_le_self ..) hx))
  rw [← hhigh]
  exact Nat.mod_lt _ (Nat.two_pow_pos n)

theorem ofNat_mulhW_signed : BitVec.ofNat n (mulhW n x.toNat y.toNat false) =
    BitVec.ofInt n ((x.setWidth n).toInt * (y.setWidth n).toInt / 2 ^ n) := by
  rw [mulhW, if_neg Bool.false_ne_true, ofNat_wrapTo, signedOf_eq_toInt, signedOf_eq_toInt, BitVec.ofNat_toNat, BitVec.ofNat_toNat]

theorem ofNat_mulhW_unsigned : BitVec.ofNat n (mulhW n x.toNat y.toNat true) =
    BitVec.ofNat n ((x.setWidth n).toNat * (y.setWidth n).toNat / 2 ^ n) := by
  apply BitVec.eq_of_toNat_eq
  rw [mulhW, if_pos rfl, BitVec.toNat_ofNat, BitVec.toNat_ofNat, Nat.mod_mod, BitVec.toNat_setWidth, BitVec.toNat_setWidth]

theorem extend_toNat (hn : n ≤ 64) : extend n x.toNat = narrow n x := by
  rw [extend_eq_signExtend hn, BitVec.ofNat_toNat, narrow]

theorem extend_minW_signed (hn : n ≤ 64) : extend n (minW n x.toNat y.toNat false) =
    if (x.setWidth n).toInt ≤ (y.setWidth n).toInt then narrow n x else narrow n y := by
  simp only [minW, signedOf_eq_toInt, BitVec.ofNat_toNat, Bool.false_eq_true, if_false, decide_eq_true_eq, apply_ite (extend n), extend_toNat _ hn]

theorem extend_minW_unsigned (hn : n ≤ 64) : extend n (minW n x.toNat y.toNat true) =
    if x.setWidth n ≤ y.setWidth n then narrow n x else narrow n y := by
  simp only [minW, BitVec.le_def, BitVec.toNat_setWidth, if_true, decide_eq_true_eq, apply_ite (extend n), extend_toNat _ hn]

/-- Where two sources are equal at the width, it does not matter which one is taken. -/
theorem extend_maxW_signed (hn : n ≤ 64) : extend n (maxW n x.toNat y.toNat false) =
    if (x.setWidth n).toInt ≤ (y.setWidth n).toInt then narrow n y else narrow n x := by
  simp only [maxW, signedOf_eq_toInt, BitVec.ofNat_toNat, Bool.false_eq_true, if_false, decide_eq_true_eq, apply_ite (extend n), extend_toNat _ hn]
  rcases lt_trichotomy (x.setWidth n).toInt (y.setWidth n).toInt with h | h | h
  · rw [if_neg h.not_ge, if_pos h.le]
  · rw [if_pos h.ge, if_pos h.le, narrow, narrow, BitVec.toInt_inj.mp h]
  · rw [if_pos h.le, if_neg h.not_ge]

theorem extend_maxW_unsigned (hn : n ≤ 64) : extend n (maxW n x.toNat y.toNat true) =
    if x.setWidth n ≤ y.setWidth n then narrow n y else narrow n x := by
  simp only [maxW, BitVec.le_def, BitVec.toNat_setWidth, if_true, decide_eq_true_eq, apply_ite (extend n), extend_toNat _ hn]
  rcases lt_trichotomy (x.toNat % 2 ^ n) (y.toNat % 2 ^ n) with h | h | h
  · rw [if_neg h.not_ge, if_pos h.le]
  · rw [if_pos h.ge, if_pos h.le, narrow, narrow, BitVec.eq_of_toNat_eq (x := x.setWidth n) (y := y.setWidth n) (by simpa using h)]
  · rw [if_pos h.le, if_neg h.not_ge]

end Operations

/-! ### Bit fields (R90) -/

/-- The mask of a field of len + 1 bits at pos. -/
theorem getLsbD_fieldMask (pos len : BitVec 6) {i : Nat} (hi : i < 64) :
    ((BitVec.ofNat 64 (2 ^ (len.toNat + 1) - 1)) <<< pos.toNat : W64).getLsbD i =
      decide (pos.toNat ≤ i ∧ i ≤ pos.toNat + len.toNat) := by
  have : ¬ i < pos.toNat → (i - pos.toNat < 64) := by omega
  simp only [BitVec.getLsbD_shiftLeft, BitVec.getLsbD_ofNat, Nat.testBit_two_pow_sub_one, hi, decide_true, Bool.true_and]
  by_cases h : i < pos.toNat
  · simp [h, show ¬ pos.toNat ≤ i by omega]
  · simp only [h, decide_false, Bool.not_false, this h, decide_true, Bool.true_and, decide_eq_decide]
    omega

theorem getLsbD_binsVal (pos len : BitVec 6) (a d : W64) {i : Nat} (hi : i < 64) :
    (binsVal pos len a d).getLsbD i =
      if pos.toNat ≤ i ∧ i ≤ pos.toNat + len.toNat then a.getLsbD (i - pos.toNat) else d.getLsbD i := by
  simp only [binsVal, BitVec.getLsbD_or, BitVec.getLsbD_and, BitVec.getLsbD_not, getLsbD_fieldMask pos len hi, BitVec.getLsbD_shiftLeft, hi,
    decide_true, Bool.true_and]
  by_cases h : pos.toNat ≤ i ∧ i ≤ pos.toNat + len.toNat
  · simp [h, show ¬ i < pos.toNat by omega]
  · simp [h]

theorem zext64_eq_setWidth (n : Nat) (v : W64) : zext64 n v = (v.setWidth n).setWidth 64 := ofNat_toNat_mod 64 n v

theorem bextVal_eq (pos len : BitVec 6) (x : W64) : bextVal pos len x = (x.extractLsb' pos.toNat (len.toNat + 1)).setWidth 64 := by
  have field : (x >>> pos.toNat).setWidth (len.toNat + 1) = x.extractLsb' pos.toNat (len.toNat + 1) := by
    apply BitVec.eq_of_toNat_eq
    rw [BitVec.toNat_setWidth, BitVec.toNat_ushiftRight, BitVec.extractLsb'_toNat]
  rw [bextVal, zext64_eq_setWidth, field]

/-! ### The meanings (R86 to R90) -/

section Arms

variable (g : Guard) (c : Cl) (d a b : BitVec 5) (w : BitVec 2) (u : Bool) (f : BitVec 4) (pos len : BitVec 6)
  (i : BitVec 14) (j : BitVec 19) (s : State)

theorem exec_add : exec (.add g c d a b w) s = binop g c d a b 1 (atWidth w fun _ x y => x + y) s := rfl
theorem exec_sub : exec (.sub g c d a b w) s = binop g c d a b 1 (atWidth w fun n x y => x % 2 ^ n + 2 ^ n - y % 2 ^ n) s := rfl
theorem exec_and : exec (.and g c d a b w) s = binop g c d a b 1 (atWidth w fun _ x y => x &&& y) s := rfl
theorem exec_or : exec (.or g c d a b w) s = binop g c d a b 1 (atWidth w fun _ x y => x ||| y) s := rfl
theorem exec_xor : exec (.xor g c d a b w) s = binop g c d a b 1 (atWidth w fun _ x y => x ^^^ y) s := rfl
theorem exec_andn : exec (.andn g c d a b w) s = binop g c d a b 1 (fun x y => extend (widthOf w) (x &&& ~~~y).toNat) s := rfl
theorem exec_shl : exec (.shl g c d a b w) s = binop g c d a b 1 (atWidth w shlW) s := rfl
theorem exec_shr : exec (.shr g c d a b w) s = binop g c d a b 1 (atWidth w shrW) s := rfl
theorem exec_sra : exec (.sra g c d a b w) s = binop g c d a b 1 (atWidth w sraW) s := rfl

theorem exec_rol : exec (.rol g d a b w) s = binop g .x d a b 1 (atWidth w rolW) s := rfl
theorem exec_mulX : exec (.mulX g d a b w) s = binop g .x d a b 3 (atWidth w fun _ x y => x * y) s := rfl
theorem exec_mulY : exec (.mulY g d a b w) s = binop g .y d a b 3 (atWidth w fun _ x y => x * y) s := rfl
theorem exec_mulh : exec (.mulh g d a b w u) s = binop g .x d a b 3 (atWidth w fun n x y => mulhW n x y u) s := rfl
theorem exec_minX : exec (.minX g d a b w u) s = binop g .x d a b 1 (atWidth w fun n x y => minW n x y u) s := rfl
theorem exec_minY : exec (.minY g d a b w u) s = binop g .y d a b 1 (atWidth w fun n x y => minW n x y u) s := rfl
theorem exec_maxX : exec (.maxX g d a b w u) s = binop g .x d a b 1 (atWidth w fun n x y => maxW n x y u) s := rfl
theorem exec_maxY : exec (.maxY g d a b w u) s = binop g .y d a b 1 (atWidth w fun n x y => maxW n x y u) s := rfl
theorem exec_lea : exec (.lea g d a b f) s = binop g .y d a b 1 (fun x y => x + y <<< f.toNat) s := rfl
theorem exec_addi : exec (.addi g c d a i) s = unop g c d a 1 (fun x => x + simm i) s := rfl
theorem exec_andi : exec (.andi g c d a i) s = unop g c d a 1 (fun x => x &&& simm i) s := rfl
theorem exec_ori : exec (.ori g c d a i) s = unop g c d a 1 (fun x => x ||| simm i) s := rfl
theorem exec_xori : exec (.xori g c d a i) s = unop g c d a 1 (fun x => x ^^^ simm i) s := rfl
theorem exec_shli : exec (.shli g c d a i) s = unop g c d a 1 (fun x => x <<< i.toNat) s := rfl
theorem exec_shri : exec (.shri g c d a i) s = unop g c d a 1 (fun x => x >>> i.toNat) s := rfl
theorem exec_srai : exec (.srai g c d a i) s = unop g c d a 1 (fun x => x.sshiftRight i.toNat) s := rfl
theorem exec_muli : exec (.muli g d a i) s = unop g .x d a 3 (fun x => x * simm i) s := rfl
theorem exec_sext : exec (match c with | .x => .sextX g d a w | .y => .sextY g d a w) s = unop g c d a 1 (sext64 (widthOf w)) s := by
  cases c <;> rfl
theorem exec_zext : exec (match c with | .x => .zextX g d a w | .y => .zextY g d a w) s = unop g c d a 1 (zext64 (widthOf w)) s := by
  cases c <;> rfl
theorem exec_bext : exec (match c with | .x => .bextX g d a pos len | .y => .bextY g d a pos len) s = unop g c d a 1 (bextVal pos len) s := by
  cases c <;> rfl
theorem exec_li : exec (match c with | .x => .liX g d j | .y => .liY g d j) s = loadImm g c d j s := by cases c <;> rfl
theorem exec_lih : exec (match c with | .x => .lihX g d j | .y => .lihY g d j) s =
    unop g c d d 1 (fun x => x <<< 19 ||| BitVec.ofNat 64 j.toNat) s := by cases c <;> rfl
theorem exec_clz : exec (match c with | .x => .clzX g d a w | .y => .clzY g d a w) s =
    unop g c d a 1 (fun x => BitVec.ofNat 64 (clzW (widthOf w) x.toNat)) s := by cases c <;> rfl
theorem exec_ctz : exec (.ctz g d a w) s = unop g .x d a 1 (fun x => BitVec.ofNat 64 (ctzW (widthOf w) x.toNat)) s := rfl
theorem exec_popc : exec (match c with | .x => .popcX g d a w | .y => .popcY g d a w) s =
    unop g c d a 1 (fun x => BitVec.ofNat 64 (popW (widthOf w) x.toNat)) s := by cases c <;> rfl
theorem exec_movxy : exec (.movxy g d a w) s = execMovxy g d a w s := rfl
theorem exec_movyx : exec (.movyx g d a w) s = execMovyx g d a w s := rfl
theorem exec_bins : exec (.bins g d a pos len) s = binop g .x d a d 1 (binsVal pos len) s := rfl

end Arms

/-- An instruction of two sources in plain fields, with its value as the statement writes it. -/
theorem exec_binop_plain {s : State} {g : Guard} {c : Cl} {d a b : BitVec 5} (hg : s.here.enabled g = true) (hd : s.here.plain c d)
    (ha : s.here.plain c a) (hb : s.here.plain c b) {i : Instr} {lat : Nat} {f : W64 → W64 → W64} {v : W64}
    (hi : exec i s = binop g c d a b lat f s) (hv : f (s.here.scalar c a).val (s.here.scalar c b).val = v) :
    exec i s = .next (s.exactly (.scalar c d ⟨v, (s.here.scalar c a).poison || (s.here.scalar c b).poison⟩) lat) :=
  hv ▸ hi.trans (binop_plain hg hd ha hb lat f)

/-- The fields of an X slot always name registers (R363). -/
theorem plain_x (k : Ctx) (a : BitVec 5) : k.plain .x a := fun h => nomatch h

/-- Settles O1: every instruction is `binop` on plain fields, and its number at the width is the bit vector of that width. -/
theorem scalarTwoSources : Obligations.ScalarTwoSources := by
  unfold Obligations.ScalarTwoSources
  intro s g c d a b w hg hd ha hb
  have run {i : Instr} {lat : Nat} {f : W64 → W64 → W64} {v : W64} (hi : exec i s = binop g c d a b lat f s)
      (hv : f (s.here.scalar c a).val (s.here.scalar c b).val = v) := exec_binop_plain hg hd ha hb hi hv
  have hn := widthOf_le w
  refine ⟨run (exec_add ..) (atWidth_eq (ofNat_add_toNat _ _ hn)), run (exec_sub ..) (atWidth_eq (ofNat_sub_toNat _ _ hn)),
    run (exec_and ..) (atWidth_eq ?_), run (exec_or ..) (atWidth_eq ?_), run (exec_xor ..) (atWidth_eq ?_), run (exec_andn ..) ?_,
    run (exec_shl ..) (atWidth_eq (ofNat_shlW _ hn _)), run (exec_shr ..) (atWidth_eq (ofNat_shrW _ _)),
    run (exec_sra ..) (atWidth_eq (ofNat_sraW _ _))⟩
  · rw [← BitVec.toNat_and, BitVec.ofNat_toNat]; rfl
  · rw [← BitVec.toNat_or, BitVec.ofNat_toNat]; rfl
  · rw [← BitVec.toNat_xor, BitVec.ofNat_toNat]; rfl
  · rw [extend_eq_signExtend hn, BitVec.ofNat_toNat]; rfl

/-- Settles O2: each is `binop` in its cluster; the smaller and the larger agree with the orders of bit vectors. -/
theorem scalarProductsAndExtremes : Obligations.ScalarProductsAndExtremes := by
  unfold Obligations.ScalarProductsAndExtremes
  intro s g d a b w f pos len hg
  have hn := widthOf_le w
  have runX {i : Instr} {lat : Nat} {f : W64 → W64 → W64} {v : W64} :=
    exec_binop_plain (i := i) (lat := lat) (f := f) (v := v) hg (plain_x _ d) (plain_x _ a) (plain_x _ b)
  refine ⟨⟨runX (exec_rol ..) (atWidth_eq (ofNat_rolW _ (widthOf_pos w) _)), runX (exec_mulX ..) (atWidth_eq (ofNat_mul_toNat _ _ hn)),
    runX (exec_mulh ..) (atWidth_eq (ofNat_mulhW_signed _ _)), runX (exec_mulh ..) (atWidth_eq (ofNat_mulhW_unsigned _ _)),
    runX (exec_minX ..) (extend_minW_signed _ _ hn), runX (exec_minX ..) (extend_minW_unsigned _ _ hn),
    runX (exec_maxX ..) (extend_maxW_signed _ _ hn), runX (exec_maxX ..) (extend_maxW_unsigned _ _ hn),
    fun _ => ⟨_, exec_binop_plain hg (plain_x _ d) (plain_x _ a) (plain_x _ d) (exec_bins ..) rfl, fun i hi => getLsbD_binsVal pos len _ _ hi⟩⟩,
    fun hd ha hb => ?_⟩
  have runY {i : Instr} {lat : Nat} {f : W64 → W64 → W64} {v : W64} :=
    exec_binop_plain (i := i) (lat := lat) (f := f) (v := v) hg hd ha hb
  exact ⟨runY (exec_mulY ..) (atWidth_eq (ofNat_mul_toNat _ _ hn)), runY (exec_minY ..) (extend_minW_signed _ _ hn),
    runY (exec_minY ..) (extend_minW_unsigned _ _ hn), runY (exec_maxY ..) (extend_maxW_signed _ _ hn),
    runY (exec_maxY ..) (extend_maxW_unsigned _ _ hn), runY (exec_lea ..) rfl⟩

/-- An instruction of one source in plain fields, with its value as the statement writes it. -/
theorem exec_unop_plain {s : State} {g : Guard} {c : Cl} {d a : BitVec 5} (hg : s.here.enabled g = true) (hd : s.here.plain c d)
    (ha : s.here.plain c a) {i : Instr} {lat : Nat} {f : W64 → W64} {v : W64}
    (hi : exec i s = unop g c d a lat f s) (hv : f (s.here.scalar c a).val = v) :
    exec i s = .next (s.exactly (.scalar c d ⟨v, (s.here.scalar c a).poison⟩) lat) := by
  rw [hi, unop, ← hv]
  exact runSlot_ok hg (by simp [readR_plain ha, writeR_plain hd])

/-- A move to the other cluster, whose destination never names a FIFO. -/
theorem exec_movxy_plain {s : State} {g : Guard} (hg : s.here.enabled g = true) (d a : BitVec 5) (w : BitVec 2) :
    exec (.movxy g d a w) s = .next (s.exactly (.y d ⟨narrow (widthOf w) (s.here.regs.rx a).val, (s.here.regs.rx a).poison⟩) 2) := by
  rw [exec_movxy, execMovxy, ← sext64_eq_narrow]
  exact runSlot_ok hg (by simp [State.exactly])

theorem exec_movyx_plain {s : State} {g : Guard} (hg : s.here.enabled g = true) (d : BitVec 5) {a : BitVec 5} (ha : s.here.plain .y a)
    (w : BitVec 2) :
    exec (.movyx g d a w) s = .next (s.exactly (.x d ⟨narrow (widthOf w) (s.here.regs.ry a).val, (s.here.regs.ry a).poison⟩) 2) := by
  rw [exec_movyx, execMovyx, ← sext64_eq_narrow]
  exact runSlot_ok hg (by simp [readYf_plain (ha rfl), State.exactly])

/-- Settles O3: all but li and the moves between the clusters are `unop`, whose values are those of the statement up to `zext64`,
`sext64` and `bextVal`. -/
theorem scalarOneSource : Obligations.ScalarOneSource := by
  unfold Obligations.ScalarOneSource
  intro s g c d a w i j pos len hg hd ha _
  have run {i : Instr} {lat : Nat} {f : W64 → W64} {v : W64} := exec_unop_plain (i := i) (lat := lat) (f := f) (v := v) hg hd ha
  refine ⟨run (exec_addi ..) rfl, run (exec_andi ..) rfl, run (exec_ori ..) rfl, run (exec_xori ..) rfl, run (exec_shli ..) rfl,
    run (exec_shri ..) rfl, run (exec_srai ..) rfl, run (exec_sext ..) (sext64_eq_narrow ..), run (exec_zext ..) (zext64_eq_setWidth ..),
    run (exec_bext ..) (bextVal_eq ..), (exec_li ..).trans (runSlot_ok hg (writeR_plain hd _ _)),
    exec_unop_plain hg hd hd (exec_lih ..) (by rw [BitVec.ofNat_toNat]), ?_, ?_, ?_⟩
  · rintro rfl
    exact run (exec_muli ..) rfl
  · rintro rfl
    exact exec_movxy_plain hg d a w
  · rintro rfl
    exact exec_movyx_plain hg d ha w

end Sys2Proof.Machine
end

section
/-!
O4, O5, O6. Counts of bits, compares, predicate logic and select, and the fields of a Y slot that name a bound FIFO.
-/

namespace Sys2Proof.Machine

/-! ### Counts (R86) -/

theorem bitAt_toNat (x : W64) (i : Nat) : bitAt x.toNat i = x.getLsbD i := bitAt_eq_testBit x.toNat i

/-- The highest bit of a number other than zero is set, and none is above it. -/
theorem clzW_zero {n a : Nat} (h : a % 2 ^ n = 0) : clzW n a = n := if_pos h

theorem clzW_ne_zero {n a : Nat} (h : a % 2 ^ n ≠ 0) : clzW n a = n - 1 - Nat.log2 (a % 2 ^ n) := if_neg h

theorem getLsbD_mod_two_pow {n i : Nat} (x : W64) (hi : i < n) : x.getLsbD i = (x.toNat % 2 ^ n).testBit i := by
  rw [Nat.testBit_mod_two_pow, decide_eq_true hi, Bool.true_and]; rfl

theorem clzW_le {n a : Nat} : clzW n a ≤ n := by
  by_cases h : a % 2 ^ n = 0
  · exact (clzW_zero h).le
  · rw [clzW_ne_zero h]; omega

theorem clzW_above {n i : Nat} (x : W64) (hi : i < n) (hk : n - clzW n x.toNat ≤ i) : x.getLsbD i = false := by
  rw [getLsbD_mod_two_pow x hi]
  by_cases h : x.toNat % 2 ^ n = 0
  · rw [h, Nat.zero_testBit]
  · have hlog : Nat.log2 (x.toNat % 2 ^ n) < n := (Nat.log2_lt h).2 (Nat.mod_lt _ (Nat.two_pow_pos n))
    rw [clzW_ne_zero h] at hk
    have above : Nat.log2 (x.toNat % 2 ^ n) < i := by omega
    exact Nat.testBit_lt_two_pow ((Nat.log2_lt h).1 above)

theorem clzW_highest {n : Nat} (x : W64) (hk : clzW n x.toNat < n) : x.getLsbD (n - 1 - clzW n x.toNat) = true := by
  have h : x.toNat % 2 ^ n ≠ 0 := fun h => by rw [clzW_zero h] at hk; exact lt_irrefl n hk
  have hlog : Nat.log2 (x.toNat % 2 ^ n) < n := (Nat.log2_lt h).2 (Nat.mod_lt _ (Nat.two_pow_pos n))
  have place : n - 1 - clzW n x.toNat = Nat.log2 (x.toNat % 2 ^ n) := by rw [clzW_ne_zero h]; omega
  rw [place, getLsbD_mod_two_pow x hlog]
  exact Nat.testBit_log2 h

/-- Trailing zeros are counted up to the lowest bit that is set. -/
theorem ctzW_eq_findIdx (n : Nat) (x : W64) : ctzW n x.toNat = (List.range n).findIdx x.getLsbD := by
  rw [ctzW, List.takeWhile_eq_take_findIdx_not, List.length_take, Nat.min_eq_left List.findIdx_le_length]
  simp only [bitAt_toNat, Bool.not_not]

theorem ctzW_le (n : Nat) (x : W64) : ctzW n x.toNat ≤ n := by
  rw [ctzW_eq_findIdx]
  exact List.findIdx_le_length.trans_eq List.length_range

theorem ctzW_below {n i : Nat} (x : W64) (hi : i < ctzW n x.toNat) : x.getLsbD i = false := by
  rw [ctzW_eq_findIdx] at hi
  simpa using List.not_of_lt_findIdx hi

theorem ctzW_lowest {n : Nat} (x : W64) (hk : ctzW n x.toNat < n) : x.getLsbD (ctzW n x.toNat) = true := by
  rw [ctzW_eq_findIdx] at hk ⊢
  simpa using List.findIdx_getElem (w := hk.trans_eq List.length_range.symm)

theorem popW_eq_card (n : Nat) (x : W64) : popW n x.toNat = ((Finset.range n).filter fun i => x.getLsbD i = true).card := by
  simp only [popW, bitAt_toNat, Finset.card, Finset.filter_val, Finset.range_val, Multiset.range, Multiset.filter_coe, Multiset.coe_card,
    Bool.decide_eq_true]

/-- Settles O4: the counts are those of the low bits of the source. -/
theorem scalarCounts : Obligations.ScalarCounts := by
  unfold Obligations.ScalarCounts
  intro s g c d a w hg hd ha
  have run {i : Instr} {f : W64 → W64} {v : W64} := exec_unop_plain (i := i) (lat := 1) (f := f) (v := v) hg hd ha
  refine ⟨⟨_, clzW_le, run (exec_clz ..) rfl, fun i hi hk => clzW_above _ hi hk, clzW_highest _⟩, ?_, run (exec_popc ..) ?_⟩
  · rintro rfl
    exact ⟨_, ctzW_le _ _, run (exec_ctz ..) rfl, fun i hi => ctzW_below _ hi, ctzW_lowest _⟩
  · rw [popW_eq_card]
    rfl

/-! ### Compares, predicate logic and select (R42, R91, R92) -/

/-- A condition on the numbers of two sources is that on their low bits as bit vectors. -/
theorem condHolds_eq (cc : Cond) (n : Nat) (x y : W64) : condHolds cc n x.toNat y.toNat =
    (let p := x.setWidth n
     let q := y.setWidth n
     match cc with
     | .eq => p == q
     | .ne => p != q
     | .lt => p.slt q
     | .ge => q.sle p
     | .le => p.sle q
     | .gt => q.slt p
     | .ltu => p.ult q
     | .geu => q.ule p
     | .leu => p.ule q
     | .gtu => q.ult p) := by
  have same : (x.toNat % 2 ^ n == y.toNat % 2 ^ n) = (x.setWidth n == y.setWidth n) := by
    rw [Bool.eq_iff_iff, beq_iff_eq, beq_iff_eq, ← BitVec.toNat_inj, BitVec.toNat_setWidth, BitVec.toNat_setWidth]
  cases cc
  case eq => exact same
  case ne => exact congrArg Bool.not same
  all_goals
    simp only [condHolds, signedOf_eq_toInt, BitVec.ofNat_toNat, BitVec.slt, BitVec.sle, BitVec.ult, BitVec.ule, BitVec.toNat_setWidth]

/-- R42: a bit of predicate logic is read in the truth table. -/
theorem getLsbD_plogic (fn : BitVec 4) (a b : W64) {k : Nat} (hk : k < 64) :
    (plogic fn a b).getLsbD k = fn.getLsbD (2 * (a.getLsbD k).toNat + (b.getLsbD k).toNat) := by
  have pick (t : Bool) (v : W64) : (if t = true then v else 0).getLsbD k = (t && v.getLsbD k) := by cases t <;> simp
  simp only [plogic, BitVec.getLsbD_or, pick, BitVec.getLsbD_and, BitVec.getLsbD_not, hk, decide_true, Bool.true_and]
  cases a.getLsbD k <;> cases b.getLsbD k <;> simp

section

variable (g : Guard) (c : Cl) (d a b : BitVec 5) (pd pa pb fn ps : BitVec 4) (w : BitVec 2) (cc : Cond) (i : BitVec 11) (s : State)

theorem exec_cmp : exec (match c with | .x => .cmpX g pd a b cc w | .y => .cmpY g pd a b cc w) s =
    comparison g c pd a (cmpReg c b) cc (widthOf w) s := by cases c <;> rfl

theorem exec_cmpi : exec (match c with | .x => .cmpiX g pd a cc i | .y => .cmpiY g pd a cc i) s =
    comparison g c pd a (pure (simm i, none)) cc 64 s := by cases c <;> rfl

theorem exec_plog : exec (match c with | .x => .plogX g pd pa pb fn | .y => .plogY g pd pa pb fn) s = predLogic g pd pa pb fn s := by
  cases c <;> rfl

theorem exec_sel : exec (match c with | .x => .selX g d a b ps | .y => .selY g d a b ps) s = select g c d a b ps s := by cases c <;> rfl

end

/-- The trap of a poisoned scalar source (R340, R333). -/
def poisonTrap (c : Cl) (r : BitVec 5) : TrapRec := ⟨8, c.kind.code, BitVec.ofNat 64 (poisonInfo c r), false, none⟩

theorem poisonTrap_eq (c : Cl) (r : BitVec 5) :
    (match c with | .x => bundleTrap 8 .X r.toNat | .y => bundleTrap 8 .Y (32 + r.toNat)) = poisonTrap c r := by
  cases c <;> simp [bundleTrap, poisonTrap, poisonInfo, Cl.kind, Cl.code]

theorem cmpReg_plain {s : State} {c : Cl} {b : BitVec 5} (hb : s.here.plain c b) :
    cmpReg c b s = .ok (((s.here.scalar c b).val, some (b, (s.here.scalar c b).poison)), s) := by
  simp [cmpReg, readR_plain hb]

section Comparison

variable {s : State} {g : Guard} {c : Cl} {a : BitVec 5} (hg : s.here.enabled g = true) (ha : s.here.plain c a) (pd : BitVec 4) (cc : Cond)
  (n : Nat) {y : Exec (W64 × Option (BitVec 5 × Bool))} {v : W64}

include hg ha

/-- R340: a poisoned first source. -/
theorem comparison_poison {o : Option (BitVec 5 × Bool)} (hy : y s = .ok ((v, o), s)) (hp : (s.here.scalar c a).poison = true) :
    comparison g c pd a y cc n s = .next (s.takeTrap (poisonTrap c a)) :=
  runSlot_trap hg (by simp [readR_plain ha, hy, hp, poisonTrap])

/-- R340: a poisoned second source, when the first is none. -/
theorem comparison_poison_second {b : BitVec 5} (hy : y s = .ok ((v, some (b, true)), s)) (hp : (s.here.scalar c a).poison = false) :
    comparison g c pd a y cc n s = .next (s.takeTrap (poisonTrap c b)) :=
  runSlot_trap hg (by simp [readR_plain ha, hy, hp, poisonTrap])

/-- R91: a compare writes every bit of PD. -/
theorem comparison_sets {o : Option (BitVec 5 × Bool)} (hy : y s = .ok ((v, o), s)) (ho : ∀ r, o ≠ some (r, true))
    (hp : (s.here.scalar c a).poison = false) : comparison g c pd a y cc n s =
      .next (s.exactly (.p pd (BitVec.allOnes 64) (allOnes (condHolds cc n (s.here.scalar c a).val.toNat v.toNat))) 1) := by
  refine runSlot_ok hg ?_
  simp only [exec_bind, readR_plain ha, hy, raiseIf_apply, hp, Bool.false_eq_true, if_false]
  rcases o with _ | ⟨r, p⟩
  · rfl
  · cases p
    · rfl
    · exact absurd rfl (ho r)

end Comparison

/-- Settles O5: the conditions are those of bit vectors, the truth table is read bit by bit. -/
theorem comparesLogicSelect : Obligations.ComparesLogicSelect := by
  unfold Obligations.ComparesLogicSelect
  intro s g c d a b pd pa pb fn ps w cc i hg hd ha hb
  have imm : (pure (simm i, none) : Exec (W64 × Option (BitVec 5 × Bool))) s = .ok ((i.signExtend 64, none), s) := rfl
  have reg := cmpReg_plain hb
  have consumed (r : BitVec 5) := congrArg (fun t => (Host.Outcome.next (s.takeTrap t) : Host.Outcome State Fault Refusal)) (poisonTrap_eq c r).symm
  refine ⟨fun hx => ?_, fun hx hy => ?_, fun hx hy => ?_, fun hx => ?_, ⟨_, (exec_plog ..).trans (runSlot_ok hg rfl), fun k hk => getLsbD_plogic fn _ _ hk⟩, ?_⟩
  · exact ⟨((exec_cmp ..).trans (comparison_poison hg ha pd cc _ reg hx)).trans (consumed a),
      ((exec_cmpi ..).trans (comparison_poison hg ha pd cc _ imm hx)).trans (consumed a)⟩
  · rw [hy] at reg
    exact ((exec_cmp ..).trans (comparison_poison_second hg ha pd cc _ reg hx)).trans (consumed b)
  · rw [hy] at reg
    refine ((exec_cmp ..).trans (comparison_sets hg ha pd cc _ reg (by simp) hx)).trans ?_
    rw [condHolds_eq] <;> rfl
  · refine ((exec_cmpi ..).trans (comparison_sets hg ha pd cc _ imm (by simp) hx)).trans ?_
    rw [condHolds_eq, BitVec.setWidth_eq, BitVec.setWidth_eq] <;> rfl
  · refine (exec_sel ..).trans (runSlot_ok hg ?_)
    simp [readR_plain ha, readR_plain hb, writeR_plain hd]

/-! ### Fields that name a bound FIFO (R363 to R366) -/

section Fifo

variable {k : SlotKind} {a d : BitVec 5} {s : State} {n : Nat} {r : Reg}

/-- A pop waits for the accesses of class c0 before it (R366). -/
theorem readYf_waits {ch : BitVec 8} {w : W64} {ws : List W64} (hc : s.loadWaits 0 = true) (h : s.here.fifoOf a = some (n, .recv ch))
    (hw : (alGet s.chans (clusterOf s.cur * 256 + ch.toNat)).getD [] = w :: ws) :
    readYf k a s = .error (.freezePast (.ofClass 0)) := by
  have wait : classWait 0#4 s = .error (.freezePast (.ofClass 0)) := by
    simp only [classWait, exec_bind, exec_get, stopIf_apply]
    exact if_pos hc
  simp [readYf, h, hw, wait]

/-- A pop of a channel that holds no word blocks (R364). -/
theorem readYf_empty {ch : BitVec 8} (h : s.here.fifoOf a = some (n, .recv ch))
    (hw : (alGet s.chans (clusterOf s.cur * 256 + ch.toNat)).getD [] = []) : readYf k a s = .error .block := by
  simp [readYf, h, hw]

/-- A source may not name a send binding (R364). -/
theorem readYf_send {q : Nat} (h : s.here.fifoOf a = some (n, .send q)) : readYf k a s = .error (.trap (bundleTrap 5 k 0)) := by
  simp [readYf, h, bundleTrap]

/-- A destination may not name a receive binding (R364). -/
theorem destY_recv {ch : BitVec 8} (h : s.here.fifoOf d = some (n, .recv ch)) : destY k d r s = .error (.trap (bundleTrap 5 k 0)) := by
  simp [destY, h, bundleTrap]

/-- Whether a send queue has all its 16 entries taken (R364). -/
theorem sends_full_iff (k : Ctx) (q : Nat) : ((k.sends.filter fun e => e.id == q).any fun e => decide (e.entries.length ≥ 16)) = true ↔
    ∃ e ∈ k.sends, e.id = q ∧ 16 ≤ e.entries.length := by
  simp

theorem destY_full {q : Nat} (h : s.here.fifoOf d = some (n, .send q)) (hf : ∃ e ∈ s.here.sends, e.id = q ∧ 16 ≤ e.entries.length) :
    destY k d r s = .error .block := by
  have full := (sends_full_iff _ _).2 hf
  simp only [destY, exec_bind, getHere_apply, h, stopIf_apply, full, if_true]

section Room

variable {q : Nat} (h : s.here.fifoOf d = some (n, .send q)) (hr : ∀ e ∈ s.here.sends, e.id = q → e.entries.length < 16)

include h hr

theorem destY_waits (hl : s.here.late 0 = true) : destY k d r s = .error (.freezePast (.ofClass 0)) := by
  have room := mt (sends_full_iff s.here q).1 (fun ⟨e, he, hq, hn⟩ => absurd (hr e he hq) hn.not_gt)
  simp only [destY, exec_bind, getHere_apply, h, stopIf_apply, if_neg room, hl, if_true]

/-- A push reserves an entry of its queue, in the place of its issue (R364). -/
theorem destY_send (hl : s.here.late 0 = false) : destY k d r s = .ok (.f q (BitVec.ofNat 4 n) s.next k r,
    { s.setHere { s.here with sends := s.here.sends.map fun e => if e.id = q then { e with entries := e.entries ++ [(s.next, none)] } else e }
      with next := s.next + 1 }) := by
  have room := mt (sends_full_iff s.here q).1 (fun ⟨e, he, hq, hn⟩ => absurd (hr e he hq) hn.not_gt)
  simp only [destY, exec_bind, getHere_apply, h, stopIf_apply, if_neg room, hl, Bool.false_eq_true, if_false, exec_get, exec_set, exec_pure]

end Room

end Fifo

/-- What a slot that stops leaves behind (R17, R53, R180). -/
def State.stoppedBy (s : State) : Stop → State
  | .trap r => s.takeTrap r
  | .blockWith a => s.block a
  | .freeze => s.freeze
  | .freezePast p => s.freezePast p

/-- An enabled slot whose body stops. -/
theorem runSlot_stop {g : Guard} {s : State} {body : Exec Unit} {e : Stop} (h : s.here.enabled g = true) (hb : body s = .error e) :
    runSlot g body s = .next (s.stoppedBy e) := by
  cases e <;> simp [runSlot, runBody, h, hb, State.stoppedBy]

section Addi

variable {s : State} {g : Guard} (hg : s.here.enabled g = true) {d a : BitVec 5} (i : BitVec 14)

include hg

theorem addi_source_stops {e : Stop} (h : readYf .Y a s = .error e) : exec (.addi g .y d a i) s = .next (s.stoppedBy e) := by
  rw [exec_addi, unop]
  exact runSlot_stop hg (by simp [readR, h])

/-- A word that is popped, and a plain destination. -/
theorem addi_pops {t : State} {r : Reg} (ha : readYf .Y a s = .ok (r, t)) (hd : t.here.fifoOf d = none) :
    exec (.addi g .y d a i) s = .next (t.exactly (.y d ⟨r.val + simm i, r.poison⟩) 1) := by
  rw [exec_addi, unop]
  exact runSlot_ok hg (by simp [readR, ha, writeR, destY_plain hd, State.exactly])

theorem addi_dest_stops (ha : s.here.fifoOf a = none) {e : Stop}
    (h : destY .Y d ⟨(s.here.regs.ry a).val + simm i, (s.here.regs.ry a).poison⟩ s = .error e) :
    exec (.addi g .y d a i) s = .next (s.stoppedBy e) := by
  rw [exec_addi, unop]
  exact runSlot_stop hg (by simp [readR, readYf_plain ha, writeR, h])

theorem addi_pushes (ha : s.here.fifoOf a = none) {t : State} {res : Result}
    (h : destY .Y d ⟨(s.here.regs.ry a).val + simm i, (s.here.regs.ry a).poison⟩ s = .ok (res, t)) :
    exec (.addi g .y d a i) s = .next (t.exactly res 1) := by
  rw [exec_addi, unop]
  exact runSlot_ok hg (by simp [readR, readYf_plain ha, writeR, h, State.exactly])

end Addi

/-- Settles O6: the source field pops, waits, blocks or traps, and so does the destination field. -/
theorem fifoFields : Obligations.FifoFields := by
  unfold Obligations.FifoFields
  intro s g d a i n hg
  refine ⟨fun ch w ws hd ha hw => ?_, fun ch ha hw => ?_, fun q ha => ?_, fun q ha hd hr => ?_, fun q ha hd hf => ?_, fun ch ha hd => ?_⟩
  · have head : (alGet s.chans (clusterOf s.cur * 256 + ch.toNat)).getD [] = w :: ws := by rw [hw]; rfl
    exact ⟨fun hc => addi_pops hg i (readYf_pop hc ha head) (hd rfl), fun hc => addi_source_stops hg i (readYf_waits hc ha head)⟩
  · exact addi_source_stops hg i (readYf_empty ha hw)
  · exact addi_source_stops hg i (readYf_send ha)
  · exact ⟨fun hl => addi_dest_stops hg i (ha rfl) (destY_waits hd hr hl), fun hl => addi_pushes hg i (ha rfl) (destY_send hd hr hl)⟩
  · exact addi_dest_stops hg i (ha rfl) (destY_full hd hf)
  · exact addi_dest_stops hg i (ha rfl) (destY_recv hd)

end Sys2Proof.Machine
end

section
/-!
O7, O8, O9, O10. Control transfer, special registers, and the instructions that enter and leave handlers.
-/

namespace Sys2Proof.Machine

/-! ### Branches (R24, R56, R57, R93, R341) -/

/-- An address rounded down to a multiple of 16. -/
theorem ofNat_div_mul_sixteen (pc : W64) : BitVec.ofNat 64 (pc.toNat / 16 * 16) = pc &&& ~~~(15 : W64) := by
  have low (i : Nat) (hi : i < 64) : (15 : W64).getLsbD i = decide (i < 4) := by
    rw [show (15 : W64) = BitVec.ofNat 64 (2 ^ 4 - 1) from rfl, BitVec.getLsbD_ofNat, Nat.testBit_two_pow_sub_one, decide_eq_true hi,
      Bool.true_and]
  apply BitVec.eq_of_getLsbD_eq
  intro i hi
  rw [BitVec.getLsbD_and, BitVec.getLsbD_not, low i hi, BitVec.getLsbD_ofNat, show (16 : Nat) = 2 ^ 4 from rfl, Nat.testBit_mul_two_pow,
    Nat.testBit_div_two_pow]
  rcases Nat.lt_or_ge i 4 with h | h
  · simp [hi, h, show ¬ 4 ≤ i by omega]
  · simp [hi, h, show ¬ i < 4 by omega, Nat.sub_add_cancel h, BitVec.getLsbD]

theorem branchTarget_eq {n : Nat} (pc : W64) (off : BitVec n) : branchTarget pc off = offsetTarget pc (off.signExtend 64) := by
  have scaled : BitVec.ofInt 64 (off.toInt * 16) = off.signExtend 64 <<< 4 := by
    rw [BitVec.ofInt_mul, BitVec.shiftLeft_eq_mul_twoPow]; rfl
  rw [branchTarget, offsetTarget, ofNat_div_mul_sixteen, scaled]

theorem takeBranch_apply (t : W64) (s : State) : takeBranch t s = .ok ((), s.branched t) := rfl

theorem roundUp16_eq (a : Nat) : roundUp16 a = (a + 15) / 16 * 16 := rfl

theorem retAddr_ok {s u : State} {r : Nat} (h : s.skipBundles s.here.pc.toNat 4 = (.ok r, u)) :
    retAddr s = .ok (BitVec.ofNat 64 ((r + 15) / 16 * 16), u) := by
  simp [retAddr, h, roundUp16_eq]

section Targets

variable {s : State} {a : BitVec 5}

/-- A poisoned register target (R340). -/
theorem registerTarget_poison (h : (s.here.regs.rx a).poison = true) : registerTarget a s = .error (.trap (bundleTrap 8 .X a.toNat)) := by
  simp [registerTarget, h, bundleTrap, poisonInfo, Cl.code]

/-- A misaligned one (R25). -/
theorem registerTarget_misaligned (h : (s.here.regs.rx a).poison = false) (ha : (s.here.regs.rx a).val.toNat % 16 ≠ 0) :
    registerTarget a s = .error (.trap (bundleTrap 6 .X ((s.here.regs.rx a).val.toNat % 2 ^ 52))) := by
  simp [registerTarget, h, ha, bundleTrap]

theorem registerTarget_ok (h : (s.here.regs.rx a).poison = false) (ha : (s.here.regs.rx a).val.toNat % 16 = 0) :
    registerTarget a s = .ok ((s.here.regs.rx a).val, s) := by
  simp [registerTarget, h, ha]

end Targets

/-- What follows a bundle outside a repeat (R54). -/
theorem follow_of_no_rep {k : Ctx} (h : k.rep = none) (size : Nat) : k.follow size = (none, k.pc.toNat + size) := by
  rw [Ctx.follow, h]

theorem endBundle_none_pc {k : Ctx} (h : k.rep = none) (size : Nat) (slot : Bool) (grp : Group) :
    (k.endBundle none size slot grp).pc = BitVec.ofNat 64 (k.pc.toNat + size) := by
  rw [Ctx.endBundle, follow_of_no_rep h]

/-- A delay bundle before the last one (R24). -/
theorem endBundle_pending {k : Ctx} (h : k.rep = none) (t : W64) {n : Nat} (hn : 2 ≤ n) (size : Nat) (slot : Bool) (grp : Group) :
    (k.endBundle (some (t, n)) size slot grp).pc = BitVec.ofNat 64 (k.pc.toNat + size) ∧
      (k.endBundle (some (t, n)) size slot grp).branch = some (t, n - 1) := by
  obtain ⟨m, rfl⟩ := Nat.exists_eq_add_of_le' hn
  unfold Ctx.endBundle
  rw [follow_of_no_rep h]
  exact ⟨rfl, rfl⟩

section Arms

variable (g : Guard) (off : BitVec 24) (o : BitVec 19) (d a : BitVec 5) (n : BitVec 14) (s : State)

theorem exec_br : exec (.br g off) s = execBr g off s := rfl
theorem exec_chk : exec (.chk g a o) s = execChk g a o s := rfl
theorem exec_call : exec (.call g off) s = execCall g off s := rfl
theorem exec_jr : exec (.jr g d a) s = execJr g d a s := rfl
theorem exec_ret : exec (.ret g) s = execRet g s := rfl
theorem exec_mfsr : exec (.mfsr g d n) s = execMfsr g d n s := rfl
theorem exec_mtsr : exec (.mtsr g a n) s = execMtsr g a n s := rfl
theorem exec_setlc : exec (.setlc g a n) s = execSetlc g a n s := rfl
theorem exec_rdfel : exec (.rdfel g d) s = execRdfel g d s := rfl
theorem exec_clrfel : exec (.clrfel g) s = execClrfel g s := rfl
theorem exec_yield : exec (.yield g) s = execYield g s := rfl
theorem exec_halt : exec (.halt g) s = execHalt g s := rfl
theorem exec_trap : exec (.trap g n) s = execTrap g n s := rfl
theorem exec_eret : exec (.eret g) s = execEret g s := rfl
theorem exec_uret : exec (.uret g) s = execUret g s := rfl

end Arms

section JumpTargets

variable {s : State} {g : Guard} (hg : s.here.enabled g = true) {a : BitVec 5}

include hg

/-- jr and ret whose target register stops them. -/
theorem jr_stops (d : BitVec 5) {r : TrapRec} (h : registerTarget a s = .error (.trap r)) : exec (.jr g d a) s = .next (s.takeTrap r) := by
  rw [exec_jr, execJr]
  exact runSlot_trap hg (by simp [h])

theorem ret_stops {r : TrapRec} (h : registerTarget 30 s = .error (.trap r)) : exec (.ret g) s = .next (s.takeTrap r) := by
  rw [exec_ret, execRet]
  exact runSlot_trap hg (by rw [exec_bind, h])

theorem ret_branches {t : W64} (h : registerTarget 30 s = .ok (t, s)) : exec (.ret g) s = .next (s.branched t) := by
  rw [exec_ret, execRet]
  exact runSlot_ok hg (by rw [exec_bind, h]; rfl)

/-- A jr without a destination keeps no return address. -/
theorem jr_branches {t : W64} (h : registerTarget a s = .ok (t, s)) : exec (.jr g 0 a) s = .next (s.branched t) := by
  rw [exec_jr, execJr]
  exact runSlot_ok hg (by simp [h, takeBranch_apply])

theorem jr_links {d : BitVec 5} (hd : d ≠ 0) {t : W64} (h : registerTarget a s = .ok (t, s)) {u : State} {r : W64} (hr : retAddr s = .ok (r, u)) :
    exec (.jr g d a) s = .next ((u.exactly (.x d ⟨r, false⟩) 1).branched t) := by
  rw [exec_jr, execJr]
  exact runSlot_ok hg (by simp only [exec_bind, h, if_pos hd, hr, exact_apply, takeBranch_apply, State.exactly])

theorem call_links (off : BitVec 24) {u : State} {r : W64} (hr : retAddr s = .ok (r, u)) :
    exec (.call g off) s = .next ((u.exactly (.x 30 ⟨r, false⟩) 1).branched (branchTarget s.here.pc off)) := by
  rw [exec_call, execCall]
  exact runSlot_ok hg (by simp [hr, takeBranch_apply, State.exactly])

end JumpTargets

/-- Settles O7: the targets are the model's, and a bundle's end counts a pending branch down. -/
theorem branches : Obligations.Branches := by
  unfold Obligations.Branches
  refine ⟨fun s g off o d a hg => ⟨?_, ?_, fun r u hr => ?_, fun hp => ⟨jr_stops hg d (registerTarget_poison hp), ?_⟩,
    fun hp hm => ⟨jr_stops hg d (registerTarget_misaligned hp hm), ?_⟩,
    fun hp hm => ⟨jr_branches hg (registerTarget_ok hp hm), ?_, fun r u hd hr => jr_links hg hd (registerTarget_ok hp hm) (retAddr_ok hr)⟩⟩,
    fun k t size grp hk => ?_⟩
  · rw [exec_br, execBr, branchTarget_eq]
    exact runSlot_ok hg rfl
  · rw [exec_chk, execChk, branchTarget_eq]
    exact runSlot_ok hg (by cases hp : (s.here.regs.rx a).poison <;> simp [hp, takeBranch_apply])
  · rw [← branchTarget_eq]
    exact call_links hg off (retAddr_ok hr)
  · rintro rfl
    exact ret_stops hg (registerTarget_poison hp)
  · rintro rfl
    exact ret_stops hg (registerTarget_misaligned hp hm)
  · rintro rfl
    exact ret_branches hg (registerTarget_ok hp hm)
  · exact ⟨endBundle_none_pc hk _ _ _, fun n hn => endBundle_pending hk t hn _ _ _, rfl, rfl, rfl⟩

/-! ### Special registers (R95 to R104, R334) -/

section SpecialRegisters

variable {s : State} {g : Guard} (hg : s.here.enabled g = true)

/-- A register of R95 that the level permits. -/
theorem checkLevel_ok {n : Nat} (h : srHandlerOnly n = false ∨ s.here.handler = true) : checkLevel n s = .ok ((), s) := by
  rcases h with h | h <;> simp [checkLevel, h]

theorem checkLevel_user {n : Nat} (h : srHandlerOnly n = true) (hu : s.here.handler = false) :
    checkLevel n s = .error (.trap (bundleTrap 5 .X 0)) := by
  simp [checkLevel, h, hu, bundleTrap]

include hg

theorem mfsr_reads (d : BitVec 5) {n : BitVec 14} (h : srHandlerOnly n.toNat = false ∨ s.here.handler = true) {v : W64}
    (hv : srRead s.cur s.here.sr n.toNat = v) : exec (.mfsr g d n) s = .next (s.exactly (.x d ⟨v, false⟩) 1) := by
  rw [exec_mfsr, execMfsr, ← hv]
  exact runSlot_ok hg (by simp only [exec_bind, checkLevel_ok h, exact_apply, State.exactly])

theorem mfsr_user (d : BitVec 5) {n : BitVec 14} (h : srHandlerOnly n.toNat = true) (hu : s.here.handler = false) :
    exec (.mfsr g d n) s = .next (s.takeTrap (bundleTrap 5 .X 0)) := by
  rw [exec_mfsr, execMfsr]
  exact runSlot_trap hg (by simp only [exec_bind, checkLevel_user h hu])

variable {a : BitVec 5}

theorem mtsr_poison (n : BitVec 14) (hp : (s.here.regs.rx a).poison = true) :
    exec (.mtsr g a n) s = .next (s.takeTrap (bundleTrap 8 .X a.toNat)) := by
  rw [exec_mtsr, execMtsr]
  exact runSlot_trap hg (by simp [hp, bundleTrap, poisonInfo, Cl.code])

variable (hp : (s.here.regs.rx a).poison = false) {n : BitVec 14}

include hp

theorem mtsr_user (h : srHandlerOnly n.toNat = true) (hu : s.here.handler = false) :
    exec (.mtsr g a n) s = .next (s.takeTrap (bundleTrap 5 .X 0)) := by
  rw [exec_mtsr, execMtsr]
  exact runSlot_trap hg (by simp only [exec_bind, readX_apply, raiseIf_apply, hp, Bool.false_eq_true, if_false, checkLevel_user h hu])

variable (hl : srHandlerOnly n.toNat = false ∨ s.here.handler = true)

include hl

theorem mtsr_misaligned
    (hm : ((n.toNat == 3 && (s.here.regs.rx a).val.toNat % 16 != 0) || (n.toNat == 0x10 && (s.here.regs.rx a).val.toNat % 4 != 0)) = true) :
    exec (.mtsr g a n) s = .next (s.takeTrap (bundleTrap 6 .X ((s.here.regs.rx a).val.toNat % 2 ^ 52))) := by
  rw [exec_mtsr, execMtsr]
  exact runSlot_trap hg (by
    simp only [exec_bind, readX_apply, raiseIf_apply, hp, Bool.false_eq_true, if_false, checkLevel_ok hl, hm, if_true, bundleTrap])

variable
    (hm : ((n.toNat == 3 && (s.here.regs.rx a).val.toNat % 16 != 0) || (n.toNat == 0x10 && (s.here.regs.rx a).val.toNat % 4 != 0)) = false)

include hm

theorem mtsr_ebp_bad (hb : (n.toNat == 0x13 && ebpBad (s.here.regs.rx a).val) = true) :
    exec (.mtsr g a n) s = .next (s.takeTrap (bundleTrap 2 .X (slotInfo (.mtsr g a n)))) := by
  rw [exec_mtsr, execMtsr]
  exact runSlot_trap hg (by
    simp only [exec_bind, readX_apply, raiseIf_apply, hp, Bool.false_eq_true, if_false, checkLevel_ok hl, hm, hb, if_true, bundleTrap])

theorem mtsr_writes (hb : (n.toNat == 0x13 && ebpBad (s.here.regs.rx a).val) = false) {v : W64}
    (hv : srMask n.toNat (s.here.regs.rx a).val = v) : exec (.mtsr g a n) s = .next (s.exactly (.sr n.toNat v) 1) := by
  rw [exec_mtsr, execMtsr, ← hv]
  exact runSlot_ok hg (by
    simp only [exec_bind, readX_apply, raiseIf_apply, hp, Bool.false_eq_true, if_false, checkLevel_ok hl, hm, hb, exact_apply, State.exactly])

end SpecialRegisters

/-- The registers of R95 that only a handler reaches. -/
theorem srHandlerOnly_iff (n : Nat) : srHandlerOnly n = true ↔ 0x10 ≤ n ∧ n ≤ 0x13 := by simp [srHandlerOnly]

/-- The two bits of EBP's count. -/
theorem bits_toNat (v : W64) (lo w : Nat) : bits v.toNat lo w = (v.extractLsb' lo w).toNat := by
  rw [BitVec.extractLsb'_toNat, Nat.shiftRight_eq_div_pow]; rfl

/-- R334: what EBP may not hold. -/
theorem ebpBad_iff (v : W64) : ebpBad v = true ↔ v &&& 0x7CF000000000000F ≠ 0 ∨ (v.getLsbD 63 = true ∧ v.extractLsb' 56 2 = 0) := by
  rw [ebpBad, Bool.or_eq_true, Bool.and_eq_true, bne_iff_ne, beq_iff_eq, bits_toNat, ← BitVec.toNat_inj]
  rfl

/-- R102: an aligned address has its low bits clear. -/
theorem and_aligned_mask {v : W64} (h : v.toNat % 16 = 0) : v &&& 0xFFFFFFFFFFFF0 = v &&& 0xFFFFFFFFFFFFF := by
  have clear : v &&& ~~~(15 : W64) = v := by
    rw [← ofNat_div_mul_sixteen, Nat.div_mul_cancel (Nat.dvd_of_mod_eq_zero h), BitVec.ofNat_toNat, BitVec.setWidth_eq]
  calc v &&& 0xFFFFFFFFFFFF0 = v &&& ~~~(15 : W64) &&& 0xFFFFFFFFFFFFF := by rw [BitVec.and_assoc]; rfl
    _ = v &&& 0xFFFFFFFFFFFFF := by rw [clear]

/-- Settles O8: each register by its number, and the checks of mtsr in their order. -/
theorem specialRegisters : Obligations.SpecialRegisters := by
  unfold Obligations.SpecialRegisters
  refine ⟨fun s g d a i hg => ?_, fun s g d a n hg => ⟨fun h0 h1 hu => ?_, mtsr_poison hg n, ?_, ?_, ?_⟩⟩
  · have low {n : BitVec 14} (h : srHandlerOnly n.toNat = false) : srHandlerOnly n.toNat = false ∨ s.here.handler = true := .inl h
    have reads {n : BitVec 14} {v : W64} (h : srHandlerOnly n.toNat = false) (hv : srRead s.cur s.here.sr n.toNat = v) :=
      mfsr_reads hg d (low h) hv
    refine ⟨reads rfl rfl, reads rfl rfl, reads rfl rfl, reads rfl rfl, reads rfl rfl, reads rfl rfl, reads rfl rfl, reads rfl rfl,
      reads rfl rfl, reads rfl rfl, fun hh => ⟨mfsr_reads hg d (.inr hh) rfl, mfsr_reads hg d (.inr hh) rfl, mfsr_reads hg d (.inr hh) rfl,
        mfsr_reads hg d (.inr hh) rfl⟩, fun hp => ⟨mtsr_writes hg hp (low rfl) rfl rfl rfl, mtsr_writes hg hp (low rfl) rfl rfl rfl,
          fun hm => mtsr_writes hg hp (low rfl) ?_ rfl (and_aligned_mask hm), mtsr_writes hg hp (low rfl) rfl rfl rfl,
          mtsr_writes hg hp (low rfl) rfl rfl rfl, mtsr_writes hg hp (low rfl) rfl rfl rfl,
          fun hh hm => mtsr_writes hg hp (.inr hh) ?_ rfl rfl, fun hh h0 h1 => mtsr_writes hg hp (.inr hh) rfl ?_ rfl, ?_⟩, ?_, ?_⟩
    · simp [hm]
    · simp [hm]
    · have : ¬ ebpBad (s.here.regs.rx a).val = true := fun h => by
        rcases (ebpBad_iff _).1 h with h | ⟨h, hz⟩
        · exact h h0
        · exact h1 h hz
      simpa using this
    · rw [exec_setlc, execSetlc]
      exact runSlot_ok hg (by simp [hp, State.exactly, simm, BitVec.signExtend])
    · rw [exec_rdfel, execRdfel]
      exact runSlot_ok hg rfl
    · rw [exec_clrfel, execClrfel]
      exact runSlot_ok hg rfl
  · have only := (srHandlerOnly_iff n.toNat).2 ⟨h0, h1⟩
    exact ⟨mfsr_user hg d only hu, fun hp => mtsr_user hg hp only hu⟩
  · rintro hp rfl hm
    exact mtsr_misaligned hg hp (.inl rfl) (by simp [hm])
  · rintro hp rfl hh hm
    exact mtsr_misaligned hg hp (.inr hh) (by simp [hm])
  · rintro hp rfl hh hb k w l hw
    have refused := mtsr_ebp_bad hg hp (.inr hh) (n := 0x13) rfl (by rw [(ebpBad_iff _).2 hb]; rfl)
    rw [slotInfo, hw] at refused
    exact refused

/-! ### Landing leaves the trap state of a context -/

theorem write_acyc (r : Srs) (n : Nat) (v : W64) : (r.write n v).acyc = r.acyc := by
  unfold Srs.write; split <;> rfl

/-- What of a context's trap state no result changes as it becomes visible: its levels, its pending interrupts, the shadows, the captured
results but for the events of the present cycle (R104), and the cycles counted. -/
structure Ctx.SameTrapState (k j : Ctx) : Prop where
  handler : j.handler = k.handler
  inUi : j.inUi = k.inUi
  pend : j.pend = k.pend
  acyc : j.sr.acyc = k.sr.acyc
  task : j.task = k.task
  retiring : j.retiring = k.retiring
  trapShadow : j.trapShadow = k.trapShadow
  uiShadow : j.uiShadow = k.uiShadow
  trapRet : j.trapRet.map (fun sv => { sv with felNew := none }) = k.trapRet.map fun sv => { sv with felNew := none }
  uiRet : j.uiRet.map (fun sv => { sv with felNew := none }) = k.uiRet.map fun sv => { sv with felNew := none }

theorem Ctx.SameTrapState.refl (k : Ctx) : k.SameTrapState k := ⟨rfl, rfl, rfl, rfl, rfl, rfl, rfl, rfl, rfl, rfl⟩

theorem Ctx.SameTrapState.trans {k j i : Ctx} (h : k.SameTrapState j) (h' : j.SameTrapState i) : k.SameTrapState i :=
  ⟨h'.handler.trans h.handler, h'.inUi.trans h.inUi, h'.pend.trans h.pend, h'.acyc.trans h.acyc, h'.task.trans h.task,
    h'.retiring.trans h.retiring, h'.trapShadow.trans h.trapShadow, h'.uiShadow.trans h.uiShadow, h'.trapRet.trans h.trapRet, h'.uiRet.trans h.uiRet⟩

theorem land_sameTrapState (k : Ctx) (r : Result) : k.SameTrapState (k.land r) := by
  cases r with
  | f q n ord slot v => unfold Ctx.land; dsimp only; split <;> exact ⟨rfl, rfl, rfl, rfl, rfl, rfl, rfl, rfl, rfl, rfl⟩
  | sr n v => exact ⟨rfl, rfl, rfl, write_acyc k.sr n v, rfl, rfl, rfl, rfl, rfl, rfl⟩
  | clrFel => exact ⟨rfl, rfl, rfl, rfl, rfl, rfl, rfl, rfl, by simp [Ctx.land, Function.comp_def], by simp [Ctx.land, Function.comp_def]⟩
  | _ => exact ⟨rfl, rfl, rfl, rfl, rfl, rfl, rfl, rfl, rfl, rfl⟩

theorem landAll_sameTrapState (fs : List Flight) (k : Ctx) : k.SameTrapState (landAll k fs) := by
  induction fs generalizing k with
  | nil => exact .refl k
  | cons f fs ih =>
    unfold landAll
    split
    · exact ih k
    · exact (land_sameTrapState k f.res).trans (ih _)

/-- A capture leaves the place, the branch and the trap state (R337). -/
theorem capture_sameTrapState (k : Ctx) : k.SameTrapState k.capture := by
  obtain ⟨a, b, c, d, e, f, g, h, i, j⟩ := landAll_sameTrapState (k.flight.filter fun f => f.ready && !f.badPush) k
  exact ⟨a, b, c, d, e, f, g, h, i, j⟩

theorem capture_keeps (k : Ctx) : k.capture.pc = k.pc ∧ k.capture.rep = k.rep ∧ k.capture.branch = k.branch := by
  obtain ⟨hpc, hrep, _, hbr, _⟩ := landAll_keeps (k.flight.filter fun f => f.ready && !f.badPush) k
  exact ⟨hpc, hrep, hbr⟩

theorem drainFlight_sameTrapState (k : Ctx) : k.SameTrapState k.drainFlight := by
  obtain ⟨a, b, c, d, e, f, g, h, i, j⟩ := landAll_sameTrapState (k.flight.filter fun f => !f.landed) { k with flight := [] }
  exact ⟨a, b, c, d, e, f, g, h, i, j⟩

/-- What a captured state is, but for its events. -/
theorem saved_of_same {o : Option Saved} {sv : Saved}
    (h : o.map (fun sv => { sv with felNew := none }) = (some sv).map fun sv => { sv with felNew := none }) :
    ∃ u, o = some u ∧ u.pc = sv.pc ∧ u.branch = sv.branch ∧ u.delay = sv.delay ∧ u.flight = sv.flight ∧ u.rep = sv.rep ∧ u.shown = sv.shown := by
  cases o with
  | none => exact absurd h (by simp)
  | some u =>
    obtain ⟨hpc, hbr, hde, hfl, hre, hsh⟩ : u.pc = sv.pc ∧ u.branch = sv.branch ∧ u.delay = sv.delay ∧ u.flight = sv.flight ∧
      u.rep = sv.rep ∧ u.shown = sv.shown := by simpa using h
    exact ⟨u, rfl, hpc, hbr, hde, hfl, hre, hsh⟩

/-! ### System instructions (R105, R199, R327 to R336) -/

/-- A context at user level whose tenant has a vector goes to its handler (R329). -/
theorem trapCtx_enters {s : State} {c : Nat} (r : TrapRec) (hh : (s.ctx c).handler = false) (hv : s.tvec (s.ctx c).sr.tenant ≠ 0)
    (hr : (s.ctx c).retiring = none) :
    s.trapCtx c r = s.setCtx c ((s.ctx c).enterTrap r (s.tvec (s.ctx c).sr.tenant)) := by
  have stays : ((s.ctx c).handler || s.tvec (s.ctx c).sr.tenant == 0 || (s.ctx c).retiring.isSome) = false := by
    rw [hh, hr, beq_false_of_ne hv]; rfl
  simp only [State.trapCtx, stays, Bool.false_eq_true, if_false]

/-- What the running context's trap leaves, when its trap meets nothing in a queue or a walk. -/
theorem takeTrap_enters {s : State} {r : TrapRec} (hm : r.met = none) (hh : s.here.handler = false) (hv : s.tvec s.here.sr.tenant ≠ 0)
    (hr : s.here.retiring = none) :
    s.takeTrap r = { s.setHere (s.here.enterTrap r (s.tvec s.here.sr.tenant)) with status := .trapped r } := by
  rw [State.takeTrap, hm]
  dsimp only
  rw [trapCtx_enters r hh hv hr]
  rfl

/-- What is left of it that the statements speak of. -/
theorem takeTrap_leaves {s : State} {r : TrapRec} (hm : r.met = none) (hh : s.here.handler = false) (hv : s.tvec s.here.sr.tenant ≠ 0)
    (hr : s.here.retiring = none) :
    ∃ t, s.takeTrap r = t ∧ t.status = .trapped r ∧ t.here = s.here.enterTrap r (s.tvec s.here.sr.tenant) ∧ t.mem = s.mem :=
  ⟨_, takeTrap_enters hm hh hv hr, rfl, here_setHere .., rfl⟩

/-- The trap record of a context (R329, R332 to R334). -/
theorem enterTrap_record (k : Ctx) (r : TrapRec) (tv : W64) :
    (k.enterTrap r tv).sr.epc = BitVec.ofNat 64 (k.pc.toNat % 2 ^ 52) ∧ (k.enterTrap r tv).sr.ecause = ecauseWord k r ∧
      (k.enterTrap r tv).sr.einfo = r.info ∧ (k.enterTrap r tv).sr.ebp = ebpWord k.branch ∧ (k.enterTrap r tv).sr.acyc = k.sr.acyc := by
  obtain ⟨hpc, hrep, hbr⟩ := capture_keeps k
  have same := capture_sameTrapState k
  refine ⟨?_, ?_, rfl, congrArg ebpWord hbr, same.acyc⟩
  · exact congrArg (fun p : W64 => BitVec.ofNat 64 (p.toNat % 2 ^ 52)) hpc
  · show ecauseWord k.capture r = ecauseWord k r
    rw [ecauseWord, ecauseWord, hrep, same.inUi]

/-- A context past a bundle that ends its group, outside a repeat and with no branch pending. -/
def Ctx.past (k : Ctx) (size : Nat) : Ctx :=
  { k.tick with pc := BitVec.ofNat 64 (k.pc.toNat + size), rep := none, delay := k.delay - 1, group := Group.fresh,
                boundary := Group.fresh.ended }

theorem endBundle_past {k : Ctx} (hr : k.rep = none) (hh : k.run ≠ .halted) (size : Nat) :
    k.endBundle none size false Group.fresh = k.past size := by
  unfold Ctx.endBundle
  rw [follow_of_no_rep hr, if_neg hh]
  rfl

theorem trap_apply {s : State} {g : Guard} (hg : s.here.enabled g = true) (n : BitVec 14) (hr : s.here.rep = none) (hh : s.here.run ≠ .halted)
    (hb : s.here.branch = none) {u : Ctx} (hu : s.here.past (bundleSize s.header.toNat) = u) :
    exec (.trap g n) s = .next ((s.setHere u).takeTrap (u.firstTrap ⟨20, 0, n.setWidth 64, false, none⟩)) := by
  rw [exec_trap, execTrap, if_pos hg]
  dsimp only
  rw [hb, endBundle_past hr hh, hu]

/-- ECAUSE of a trap of a bundle outside a repeat and an interrupt handler (R332). -/
theorem ecauseWord_plain {k : Ctx} (hr : k.rep = none) (hu : k.inUi = false) (cls slot : Nat) (info : W64) :
    ecauseWord k ⟨cls, slot, info, false, none⟩ = BitVec.ofNat 64 (slot % 8 * 2 ^ 10 + cls % 256) := by
  simp [ecauseWord, hr, hu]

/-- Of a found trap and one that awaits the context, the one with the lower number (R328); neither has met a queue's entry or a walk. -/
theorem firstTrap_met {k : Ctx} {r : TrapRec} (hr : r.met = none) (hd : ∀ q, k.due = some q → q.met = none) : (k.firstTrap r).met = none := by
  unfold Ctx.firstTrap
  split
  · exact hr
  · split
    · exact hd _ ‹_›
    · exact hr

/-- Settles O9: trap ends its bundle and its context enters the handler from there. -/
theorem systemInstructions : Obligations.SystemInstructions := by
  unfold Obligations.SystemInstructions
  refine ⟨fun s g hg => ⟨(exec_yield ..).trans (runSlot_ok hg rfl), (exec_halt ..).trans (runSlot_ok hg rfl)⟩,
    fun s g n hg hh hrun hret hrep hbr hui htv hmet => ?_⟩
  obtain ⟨u, hu⟩ : ∃ u, s.here.past (bundleSize s.header.toNat) = u := ⟨_, rfl⟩
  have hdue : u.due = s.here.due := by rw [← hu]; rfl
  have hten : u.sr.tenant = s.here.sr.tenant := by rw [← hu]; rfl
  have met : (u.firstTrap ⟨20, 0, n.setWidth 64, false, none⟩).met = none := firstTrap_met rfl (by rw [hdue]; exact hmet)
  have first : u.firstTrap ⟨20, 0, n.setWidth 64, false, none⟩ =
      (match s.here.due with
       | none => ⟨20, 0, n.setWidth 64, false, none⟩
       | some q => if q.cls < 20 then q else ⟨20, 0, n.setWidth 64, false, none⟩) := by
    rw [Ctx.firstTrap, hdue] <;> rfl
  obtain ⟨t, ht, hst, hhere, hmem⟩ := takeTrap_leaves (s := s.setHere u) met (by rw [here_setHere, ← hu]; exact hh)
    (by rw [here_setHere, hten]; exact htv) (by rw [here_setHere, ← hu]; exact hret)
  rw [here_setHere] at hhere
  obtain ⟨hepc, hcause, hinfo, hebp, hacyc⟩ := enterTrap_record u (u.firstTrap ⟨20, 0, n.setWidth 64, false, none⟩) ((s.setHere u).tvec u.sr.tenant)
  rw [← hhere] at hepc hcause hinfo hebp hacyc
  refine ⟨t, (trap_apply hg n hrep hrun hbr hu).trans (congrArg _ ht), hst.trans (congrArg _ first), congrArg Ctx.handler hhere,
    (congrArg Ctx.pc hhere).trans (congrArg s.tvec hten), hinfo.trans (congrArg TrapRec.info first), congrArg Ctx.due hhere, fun hd => ?_, ?_, ?_,
    congrArg Ctx.flight hhere, ?_, hmem⟩
  · rw [hcause, Ctx.firstTrap, hdue, hd]
    exact ecauseWord_plain (by rw [← hu]; rfl) (by rw [← hu]; exact hui) _ _ _
  · rw [hebp, ← hu]
    exact congrArg ebpWord hbr
  · rw [hepc, ← hu]
    rfl
  · rw [hacyc, ← hu]
    rfl

/-! ### Returns from handlers (R282, R335, R336) -/

/-- A handler's return once its results have arrived. -/
theorem returnWith_ok {s : State} (h : ∀ f ∈ s.here.flight, f.arrived = true) (leave : Ctx → Ctx) :
    returnWith leave s = .ok ((), { s.setHere (leave s.here.count) with status := .redirected }) := by
  have all : (s.here.flight.any fun f => !f.arrived) = false := by
    rw [List.any_eq_false]
    intro f hf
    simp [h f hf]
  simp only [returnWith, exec_bind, exec_get, stopIf_apply, all, Bool.false_eq_true, if_false, exec_set]

/-- EBP names a branch with its target, a multiple of 16, and its count (R334). -/
theorem ebpBranch_some {v : W64} (h : v.getLsbD 63 = true) : ebpBranch v = some (v &&& 0xFFFFFFFFFFFF0, (v.extractLsb' 56 2).toNat) := by
  have target : BitVec.ofNat 64 (v.toNat % 2 ^ 52 / 16 * 16) = v &&& 0xFFFFFFFFFFFF0 := by
    have low : (v &&& 0xFFFFFFFFFFFFF).toNat = v.toNat % 2 ^ 52 := by
      rw [BitVec.toNat_and, show (0xFFFFFFFFFFFFF : W64).toNat = 2 ^ 52 - 1 from rfl, Nat.and_two_pow_sub_one_eq_mod]
    rw [← low, ofNat_div_mul_sixteen, BitVec.and_assoc]
    rfl
  rw [ebpBranch, if_pos h, target, bits_toNat]

theorem ebpBranch_none {v : W64} (h : v.getLsbD 63 = false) : ebpBranch v = none := by
  rw [ebpBranch, if_neg (by rw [h]; decide)]

/-- A return from the trap handler with captured results (R335). -/
theorem leaveTrap_returns {k : Ctx} {sv : Saved} (h : k.trapRet = some sv) :
    ∃ j, k.leaveTrap = j ∧ j.handler = false ∧ j.pc = k.drainFlight.sr.epc ∧ j.group = Group.fresh ∧ j.flight = sv.flight ∧ j.shown = sv.shown ∧
      j.trapRet = none ∧ j.trapShadow = shadowOut k.drainFlight ∧ j.regs = shadowIn k.drainFlight.regs k.drainFlight.trapShadow ∧
      j.branch = ebpBranch k.drainFlight.sr.ebp := by
  have kept := (drainFlight_sameTrapState k).trapRet
  rw [h] at kept
  obtain ⟨u, hu, -, -, -, hfl, -, hsh⟩ := saved_of_same kept
  refine ⟨_, rfl, ?_⟩
  have swapped : k.drainFlight.swapTrap.trapRet = some u := hu
  unfold Ctx.leaveTrap
  dsimp only
  rw [swapped]
  exact ⟨rfl, rfl, rfl, hfl, hsh, rfl, rfl, rfl, rfl⟩

/-- A return from the interrupt handler (R282), when no further interrupt is pending. -/
theorem uretTo_returns {k : Ctx} {sv : Saved} (h : k.uiRet = some sv) (hp : ∀ i : Fin 16, k.pend[i] = none) :
    ∃ j, k.uretTo = j ∧ j.inUi = false ∧ j.pc = sv.pc ∧ j.branch = sv.branch ∧ j.group = Group.fresh ∧ j.flight = sv.flight ∧
      j.shown = sv.shown ∧ j.uiRet = none ∧ j.uiShadow = shadowOut k.drainFlight ∧
      j.regs = shadowIn k.drainFlight.regs k.drainFlight.uiShadow := by
  have same := drainFlight_sameTrapState k
  have kept := same.uiRet
  rw [h] at kept
  obtain ⟨u, hu, hpc, hbr, -, hfl, -, hsh⟩ := saved_of_same kept
  have swapped : k.drainFlight.swapUi.uiRet = some u := hu
  have left : ∃ j, k.leaveUi = j ∧ j.pend = k.pend ∧ j.inUi = false ∧ j.pc = sv.pc ∧ j.branch = sv.branch ∧ j.group = Group.fresh ∧
      j.flight = sv.flight ∧ j.shown = sv.shown ∧ j.uiRet = none ∧ j.uiShadow = shadowOut k.drainFlight ∧
      j.regs = shadowIn k.drainFlight.regs k.drainFlight.uiShadow := by
    refine ⟨_, rfl, ?_⟩
    unfold Ctx.leaveUi
    dsimp only
    rw [swapped]
    exact ⟨same.pend, rfl, hpc, hbr, rfl, hfl, hsh, rfl, rfl, rfl⟩
  obtain ⟨j, hj, hpend, rest⟩ := left
  have none_pending : j.pendingUi = none := by
    rw [Ctx.pendingUi, List.findSome?_eq_none_iff]
    intro i hi
    have hi := List.mem_range.mp hi
    rw [hpend, vget, Vector.getElem?_eq_getElem hi, show k.pend[i] = none from hp ⟨i, hi⟩]
    rfl
  refine ⟨j, ?_, rest⟩
  rw [Ctx.uretTo, hj, Ctx.takeUi, none_pending]
  rfl

/-- Settles O10. -/
theorem returnsFromHandlers : Obligations.ReturnsFromHandlers := by
  unfold Obligations.ReturnsFromHandlers
  refine ⟨fun s g sv hg hh hf hsv => ?_, fun s g sv hg hh hui hf hsv hp => ?_, fun s g hg => ⟨fun hh => ?_, fun hh => ?_⟩⟩
  · obtain ⟨j, hj, h1, h2, h3, h4, h5, h6, h7, h8, h9⟩ := leaveTrap_returns (k := s.here.count) hsv
    have ran : exec (.eret g) s = .next { s.setHere j with status := .redirected } := by
      rw [exec_eret, execEret]
      exact runSlot_ok hg (by simp only [exec_bind, raiseIf_apply, hh, Bool.not_true, Bool.false_eq_true, if_false, returnWith_ok hf, hj])
    have here : ({ s.setHere j with status := .redirected } : State).here = j := here_setHere s j
    refine ⟨_, ran, rfl, ?_⟩
    rw [here]
    exact ⟨h1, h2, h3, h4, h5, h6, h7, h8, rfl, fun hb => h9.trans (ebpBranch_none hb), fun hb => h9.trans (ebpBranch_some hb)⟩
  · obtain ⟨j, hj, h1, h2, h3, h4, h5, h6, h7, h8, h9⟩ := uretTo_returns (k := s.here.count) hsv hp
    have ran : exec (.uret g) s = .next { s.setHere j with status := .redirected } := by
      rw [exec_uret, execUret]
      exact runSlot_ok hg (by
        simp only [exec_bind, raiseIf_apply, hh, hui, Bool.not_false, Bool.and_true, Bool.not_true, Bool.false_eq_true, if_false,
          returnWith_ok hf, hj])
    have here : ({ s.setHere j with status := .redirected } : State).here = j := here_setHere s j
    refine ⟨_, ran, rfl, ?_⟩
    rw [here]
    exact ⟨h1, h2, h3, h4, h5, h6, h7, h8, h9, rfl⟩
  · rw [exec_eret, execEret]
    exact runSlot_trap hg (by simp [hh, bundleTrap])
  · rw [exec_uret, execUret]
    exact runSlot_trap hg (by rcases hh with hh | hh <;> simp [hh, bundleTrap])

end Sys2Proof.Machine
end

section
/-!
O11. The walk of the translation tables, entry by entry, and the die's TLB.
-/

namespace Sys2Proof.Machine

/-! ### Bytes and entries (R3, R209, R210) -/

theorem leNat_append (a b : List Byte) : leNat (a ++ b) = leNat a + 256 ^ a.length * leNat b := by
  induction a with
  | nil => simp [leNat]
  | cons x a ih => simp only [List.cons_append, leNat, ih, List.length_cons, Nat.pow_succ]; ring

theorem leNat_lt (a : List Byte) : leNat a < 256 ^ a.length := by
  induction a with
  | nil => simp [leNat]
  | cons x a ih =>
    have := x.isLt
    simp only [leNat, List.length_cons, Nat.pow_succ]
    omega

/-- The two words of a table's entry (R209). -/
theorem tableEntry_words (s : State) (base i : Nat) :
    leNat ((readCells s.mem (hbmKey (base + 16 * i)) 16).take 8) = (s.tableEntry base i).toNat % 2 ^ 64 ∧
      leNat ((readCells s.mem (hbmKey (base + 16 * i)) 16).drop 8) = (s.tableEntry base i).toNat / 2 ^ 64 := by
  rw [State.tableEntry]
  generalize hbs : readCells s.mem (hbmKey (base + 16 * i)) 16 = bs
  have hlen : bs.length = 16 := by rw [← hbs, length_readCells]
  have hlow := leNat_lt (bs.take 8)
  have hhigh := leNat_lt (bs.drop 8)
  have split : leNat bs = leNat (bs.take 8) + 2 ^ 64 * leNat (bs.drop 8) := by
    have := leNat_append (bs.take 8) (bs.drop 8)
    rwa [List.take_append_drop, List.length_take, hlen] at this
  rw [List.length_take, hlen, show 256 ^ min 8 16 = 2 ^ 64 from rfl] at hlow
  rw [List.length_drop, hlen, show 256 ^ (16 - 8) = 2 ^ 64 from rfl] at hhigh
  rw [BitVec.toNat_ofNat, split]
  omega

/-! The rules of a leaf, condition by condition (R211). -/

theorem or_eq_true_iff_of_false (p q : Bool) : (p || q) = true ↔ (p = false → q = true) := by cases p <;> simp

theorem ite_eq_true_distrib (p : Prop) [Decidable p] (a b : Bool) : (if p then a else b) = true ↔ if p then a = true else b = true := by
  split <;> rfl

theorem limits_iff (tgt : BitVec 2) (p q : Prop) [Decidable p] [Decidable q] :
    (if tgt = 0 then p else if tgt = 1 then q else True) ↔ (tgt = 0 → p) ∧ (tgt = 1 → q) := by
  by_cases h0 : tgt = 0
  · subst h0
    exact ⟨fun h => ⟨fun _ => h, fun h => absurd h (by decide)⟩, fun h => h.1 rfl⟩
  · by_cases h1 : tgt = 1
    · subst h1
      exact ⟨fun h => ⟨fun h => absurd h (by decide), fun _ => h⟩, fun h => h.2 rfl⟩
    · rw [if_neg h0, if_neg h1]
      exact ⟨fun _ => ⟨fun h => absurd h h0, fun h => absurd h h1⟩, fun _ => trivial⟩

theorem view_iff (c : BitVec 2) (p q : Prop) : (if c = 0 then p else q) ↔ (c.toNat = 0 → p) ∧ (c.toNat ≠ 0 → q) := by
  have zero : c.toNat = 0 ↔ c = 0 := BitVec.toNat_inj (y := 0)
  rw [ne_eq, zero]
  by_cases h : c = 0
  · rw [if_pos h]
    exact ⟨fun hp => ⟨fun _ => hp, fun hc => absurd h hc⟩, fun hp => hp.1 h⟩
  · rw [if_neg h]
    exact ⟨fun hq => ⟨fun hc => absurd hc h, fun _ => hq⟩, fun hq => hq.2 h⟩

section Entry

variable (e : BitVec 128)

/-- A field of an entry's first word. -/
theorem bits_low (lo n : Nat) (h : lo + n ≤ 64) : bits (e.toNat % 2 ^ 64) lo n = (e.extractLsb' lo n).toNat := by
  rw [BitVec.extractLsb'_toNat, Nat.shiftRight_eq_div_pow, bits, show 2 ^ 64 = 2 ^ lo * 2 ^ (64 - lo) by rw [← Nat.pow_add]; congr 1; omega,
    Nat.mod_mul_right_div_self, Nat.mod_mod_of_dvd _ (Nat.pow_dvd_pow 2 (by omega))]

theorem ofNat_bits_low (lo n : Nat) (h : lo + n ≤ 64) : BitVec.ofNat n (bits (e.toNat % 2 ^ 64) lo n) = e.extractLsb' lo n := by
  rw [bits_low e lo n h, BitVec.ofNat_toNat, BitVec.setWidth_eq]

theorem bitAt_low (i : Nat) (h : i < 64) : bitAt (e.toNat % 2 ^ 64) i = e.getLsbD i := by
  rw [bitAt_eq_testBit, Nat.testBit_mod_two_pow, decide_eq_true h, Bool.true_and]
  rfl

/-- V and LEAF of an entry (R210). -/
theorem kind_eq (v : BitVec 2) : e.extractLsb' 62 2 = v ↔ 2 * (e.getLsbD 63).toNat + (e.getLsbD 62).toNat = v.toNat := by
  have bit (i : Nat) : (e.getLsbD i).toNat = e.toNat / 2 ^ i % 2 := by
    rw [BitVec.getLsbD, Nat.toNat_testBit]
  rw [← BitVec.toNat_inj, BitVec.extractLsb'_toNat, Nat.shiftRight_eq_div_pow, bit, bit]
  omega

/-- An entry that names a table: V set, LEAF clear, and the rules of `nodeOk` (R210, R211). -/
theorem namesTable_iff (size : Nat) : namesTable e size ↔
    e.getLsbD 63 = true ∧ e.getLsbD 62 = false ∧ nodeOk (e.toNat % 2 ^ 64) (e.toNat / 2 ^ 64) size = true := by
  have kind : e.extractLsb' 62 2 = 2 ↔ e.getLsbD 63 = true ∧ e.getLsbD 62 = false := by
    rw [kind_eq]
    cases e.getLsbD 63 <;> cases e.getLsbD 62 <;> decide
  have high : e.toNat / 2 ^ 64 = 0 ↔ e.extractLsb' 64 64 = 0 := by
    rw [← BitVec.toNat_inj, BitVec.extractLsb'_toNat, Nat.shiftRight_eq_div_pow, Nat.mod_eq_of_lt (by have := e.isLt; omega)]
    rfl
  have field (lo n : Nat) (h : lo + n ≤ 64) : bits (e.toNat % 2 ^ 64) lo n = 0 ↔ e.extractLsb' lo n = 0 := by
    rw [bits_low e lo n h, ← BitVec.toNat_inj]
    rfl
  simp only [namesTable, nodeOk, kind, Bool.and_eq_true, beq_iff_eq, decide_eq_true_eq, high, field 48 14 (by decide), field 0 9 (by decide),
    bits_low e 9 39 (by decide), nextTable, and_assoc]

/-- The fields of a leaf's handle are those of its entry (R210, R213). -/
theorem leafHandle_fields (va : Nat) (size : BitVec 2) (h : Handle) : h = leafHandle (e.toNat % 2 ^ 64) va size ↔
    h.valid = true ∧ h.size = size ∧ h.vpage = BitVec.ofNat 36 (va % 2 ^ 52 / pageBytes size * (pageBytes size / 65536)) ∧
      h.tgt = e.extractLsb' 60 2 ∧ h.lclass = e.extractLsb' 57 3 ∧ h.perm = e.extractLsb' 54 3 ∧ h.cview = e.extractLsb' 52 2 ∧
      h.afmt = e.extractLsb' 48 4 ∧ h.ppn = e.extractLsb' 16 32 ∧ h.bankl = e.extractLsb' 14 2 ∧ h.kv = e.getLsbD 13 ∧
      h.tstride = e.extractLsb' 10 3 ∧ h.plane = e.extractLsb' 5 5 := by
  obtain ⟨valid, vpage, sz, tgt, ppn, lclass, cview, afmt, bankl, kv, tstride, plane, perm⟩ := h
  simp only [leafHandle, Handle.mk.injEq, ofNat_bits_low e _ _ (by decide : 60 + 2 ≤ 64), ofNat_bits_low e _ _ (by decide : 57 + 3 ≤ 64),
    ofNat_bits_low e _ _ (by decide : 54 + 3 ≤ 64), ofNat_bits_low e _ _ (by decide : 52 + 2 ≤ 64), ofNat_bits_low e _ _ (by decide : 48 + 4 ≤ 64),
    ofNat_bits_low e _ _ (by decide : 16 + 32 ≤ 64), ofNat_bits_low e _ _ (by decide : 14 + 2 ≤ 64), bitAt_low e _ (by decide : 13 < 64),
    ofNat_bits_low e _ _ (by decide : 10 + 3 ≤ 64), ofNat_bits_low e _ _ (by decide : 5 + 5 ≤ 64)]
  tauto

theorem pageBytes_div (size : BitVec 2) : pageBytes size / 65536 * 65536 = pageBytes size := by
  unfold pageBytes; split
  · rfl
  · split <;> rfl

theorem pageBytes_pos (size : BitVec 2) : 0 < pageBytes size := by
  unfold pageBytes; split
  · decide
  · split <;> decide

/-- R213: a leaf's handle is the one that describes its page. -/
theorem describes_iff {va : Nat} (hva : va < 2 ^ 52) (size : BitVec 2) (h : Handle) :
    describes h e size va ↔ h = leafHandle (e.toNat % 2 ^ 64) va size := by
  have small : va / pageBytes size * (pageBytes size / 65536) < 2 ^ 36 := by
    have hdiv := pageBytes_div size
    have hle : va / pageBytes size * (pageBytes size / 65536) * 65536 ≤ va := by
      rw [Nat.mul_assoc, hdiv]; exact Nat.div_mul_le_self va _
    omega
  have page : h.vpage = BitVec.ofNat 36 (va % 2 ^ 52 / pageBytes size * (pageBytes size / 65536)) ↔
      h.vpage.toNat = va / pageBytes size * (pageBytes size / 65536) := by
    rw [← BitVec.toNat_inj, BitVec.toNat_ofNat, Nat.mod_eq_of_lt hva, Nat.mod_eq_of_lt small]
  rw [leafHandle_fields, page]
  unfold describes
  rfl

/-- An entry that maps a page: V and LEAF set, and the rules of `leafOk` (R210, R211). -/
theorem mapsPage_iff (size : BitVec 2) (tenant : BitVec 16) : mapsPage e size tenant ↔
    e.getLsbD 63 = true ∧ e.getLsbD 62 = true ∧ leafOk (e.toNat % 2 ^ 64) (e.toNat / 2 ^ 64) size tenant = true := by
  have kind : e.extractLsb' 62 2 = 3 ↔ e.getLsbD 63 = true ∧ e.getLsbD 62 = true := by
    rw [kind_eq]
    cases e.getLsbD 63 <;> cases e.getLsbD 62 <;> decide
  have owner : e.toNat / 2 ^ 64 = tenant.toNat ↔ e.extractLsb' 80 48 = 0 ∧ e.extractLsb' 64 16 = tenant := by
    have := e.isLt
    have := tenant.isLt
    rw [← BitVec.toNat_inj, ← BitVec.toNat_inj, BitVec.extractLsb'_toNat, BitVec.extractLsb'_toNat, Nat.shiftRight_eq_div_pow,
      Nat.shiftRight_eq_div_pow, show (0 : BitVec 48).toNat = 0 from rfl]
    omega
  have zero : bits (e.toNat % 2 ^ 64) 0 5 = 0 ↔ e.extractLsb' 0 5 = 0 := by
    rw [bits_low e 0 5 (by decide), ← BitVec.toNat_inj]
    rfl
  obtain ⟨-, -, -, htgt, hcl, hperm, hview, hfmt, hppn, -, hkv, hts, hpl⟩ := (leafHandle_fields e 0 size _).1 rfl
  have permW : (leafHandle (e.toNat % 2 ^ 64) 0 size).w = e.getLsbD 55 := by
    rw [Handle.w, hperm, BitVec.getLsbD_extractLsb']; rfl
  have permX : (leafHandle (e.toNat % 2 ^ 64) 0 size).x = e.getLsbD 54 := by
    rw [Handle.x, hperm, BitVec.getLsbD_extractLsb']; rfl
  have plain (f : BitVec 4) : f = 0 ↔ f.toNat = 0 := (BitVec.toNat_inj (y := 0)).symm
  have small (p : BitVec 5) : p.toNat ≤ 23 ↔ p.toNat < 24 := Nat.lt_succ_iff.symm
  have sized (kv : Bool) : (kv = false ∨ size ≠ 2) ↔ (kv = true → size ≠ 2) := by cases kv <;> simp
  simp only [mapsPage, leafOk, kind, permW, permX, htgt, hcl, hview, hfmt, hppn, hkv, hts, hpl, Bool.and_eq_true, beq_iff_eq, bne_iff_ne, owner,
    zero, or_eq_true_iff_of_false, ite_eq_true_distrib, limits_iff, plain, small, sized, Bool.not_eq_true', decide_eq_true_eq,
    Bool.and_eq_false_iff, beq_eq_false_iff_ne]
  simp only [view_iff, and_assoc]
  constructor
  · rintro ⟨v, l, o, o', z, t, c, st, pl, ba, l0, l1, kv, v0, v1⟩
    exact ⟨v, l, o, o', z, t, c, st, pl, ba, l0, l1, v0, v1, kv⟩
  · rintro ⟨v, l, o, o', z, t, c, st, pl, ba, l0, l1, v0, v1, kv⟩
    exact ⟨v, l, o, o', z, t, c, st, pl, ba, l0, l1, kv, v0, v1⟩

end Entry

/-! ### The walk (R209) -/

section Walk

variable (s : State) (tenant : BitVec 16) {va : Nat} (lo n sz : Nat) (leaf : Option (BitVec 2))
  (rest : List (Nat × Nat × Nat × Option (BitVec 2))) (base : Nat)

/-- One level of the walk, by the entry it reads. -/
theorem walkTables_entry {e : BitVec 128} (he : s.tableEntry base (bits va lo n) = e) :
    walkTables s.mem tenant va ((lo, n, sz, leaf) :: rest) base =
      if e.getLsbD 63 = false then none
      else if e.getLsbD 62 = true then
        leaf.bind fun size =>
          if leafOk (e.toNat % 2 ^ 64) (e.toNat / 2 ^ 64) size tenant = true then some (leafHandle (e.toNat % 2 ^ 64) va size) else none
      else rest.head?.bind fun next =>
          if nodeOk (e.toNat % 2 ^ 64) (e.toNat / 2 ^ 64) next.2.2.1 = true then walkTables s.mem tenant va rest (nextTable e) else none := by
  obtain ⟨low, high⟩ := tableEntry_words s base (bits va lo n)
  rw [he] at low high
  rw [walkTables.eq_def]
  simp only [low, high, bitAt_low e 63 (by decide), bitAt_low e 62 (by decide), bits_low e 9 39 (by decide), Bool.not_eq_true']
  cases leaf <;> cases rest <;> rfl

/-- Its entry maps the page, where a leaf may stand at this level, or names the next table. -/
theorem walkTables_cons (hva : va < 2 ^ 52) (h : Handle) :
    let e := s.tableEntry base (bits va lo n)
    walkTables s.mem tenant va ((lo, n, sz, leaf) :: rest) base = some h ↔
      (∃ size, leaf = some size ∧ mapsPage e size tenant ∧ describes h e size va) ∨
      (∃ next, rest.head? = some next ∧ namesTable e next.2.2.1 ∧ walkTables s.mem tenant va rest (nextTable e) = some h) := by
  intro e
  rw [walkTables_entry s tenant lo n sz leaf rest base (e := e) rfl]
  simp only [mapsPage_iff, namesTable_iff, describes_iff e hva]
  generalize e = e
  cases hv : e.getLsbD 63
  · simp
  · cases hl : e.getLsbD 62
    · simp [Option.bind_eq_some_iff]
    · simp [Option.bind_eq_some_iff, eq_comm (a := h)]

end Walk

/-- R209: the walk answers the handle of the leaf that the tables reach. -/
theorem walkTables_iff (s : State) (tenant : BitVec 16) {va : Nat} (hva : va < 2 ^ 52) (root : Nat) (h : Handle) :
    walkTables s.mem tenant va levels root = some h ↔ s.walksTo root tenant va h := by
  have nothing (base : Nat) : walkTables s.mem tenant va [] base ≠ some h := by simp [walkTables]
  simp only [levels, walkTables_cons (hva := hva), List.head?_cons, List.head?_nil, Option.some.injEq, exists_eq_left', reduceCtorEq, false_and,
    exists_false, false_or, or_false, State.walksTo, bits, Nat.reducePow]

/-! ### The TLB (R212) -/

theorem mem_of_mem_keepFirst {α : Type} (p : α → Bool) {n : Nat} {l : List α} {a : α} (h : a ∈ keepFirst p n l) : a ∈ l := by
  induction l generalizing n with
  | nil => simp [keepFirst] at h
  | cons b l ih =>
    unfold keepFirst at h
    split at h
    · split at h
      · exact List.mem_cons_of_mem _ (ih h)
      · rcases List.mem_cons.1 h with h | h
        · exact h ▸ List.mem_cons_self
        · exact List.mem_cons_of_mem _ (ih h)
    · rcases List.mem_cons.1 h with h | h
      · exact h ▸ List.mem_cons_self
      · exact List.mem_cons_of_mem _ (ih h)

/-- At most n members of the kind stay. -/
theorem length_filter_keepFirst {α : Type} (p : α → Bool) (n : Nat) (l : List α) : ((keepFirst p n l).filter p).length ≤ n := by
  induction l generalizing n with
  | nil => simp [keepFirst]
  | cons b l ih =>
    unfold keepFirst
    split
    · split
      · exact ih 0
      · rename_i hp _ m
        simpa [hp] using ih m
    · rename_i hp
      simpa [hp] using ih n

/-- The first member of a list stays when any of its kind may. -/
theorem head_mem_keepFirst {α : Type} (p : α → Bool) {n : Nat} (hn : 0 < n) (a : α) (l : List α) : a ∈ keepFirst p n (a :: l) := by
  obtain ⟨m, rfl⟩ := Nat.exists_eq_succ_of_ne_zero hn.ne'
  unfold keepFirst
  split <;> exact List.mem_cons_self

theorem tlbFind_none {t : List Tlb} {die : Nat} {tenant : BitVec 16} {va : Nat}
    (h : ∀ e ∈ t, ¬ (e.die = die ∧ e.tenant = tenant ∧ e.leaf.covers va = true)) : tlbFind t die tenant va = none := by
  rw [tlbFind, List.find?_eq_none.2, Option.map_none]
  intro e he
  simpa [and_assoc] using h e he

theorem tlbFind_some {t : List Tlb} {die : Nat} {tenant : BitVec 16} {va : Nat}
    (h : ∃ e ∈ t, e.die = die ∧ e.tenant = tenant ∧ e.leaf.covers va = true) :
    ∃ e ∈ t, (e.die = die ∧ e.tenant = tenant ∧ e.leaf.covers va = true) ∧ tlbFind t die tenant va = some e.leaf := by
  cases hf : t.find? fun e => e.die == die && e.tenant == tenant && e.leaf.covers va with
  | none =>
    obtain ⟨e, he, held⟩ := h
    exact absurd held (by simpa [and_assoc] using List.find?_eq_none.1 hf e he)
  | some e =>
    have held := List.find?_some hf
    exact ⟨e, List.mem_of_find?_eq_some hf, by simpa [and_assoc] using held, by rw [tlbFind, hf]; rfl⟩

theorem exec_xlat (g : Guard) (h : BitVec 4) (a : BitVec 5) (perm : BitVec 3) (s : State) : exec (.xlat g h a perm) s = execXlat g h a perm s := rfl

/-- Settles O11: the walk is that of the tables' entries, and a leaf that it finds enters the TLB. -/
theorem xlatStarts : Obligations.XlatStarts := by
  unfold Obligations.XlatStarts
  refine ⟨fun s g h a perm hg ha hp => ?_, fun s die tenant va => ⟨fun hva => ?_, fun hva held => ?_, fun hva missed => ⟨fun hr => ?_, fun root hr => ?_⟩⟩⟩
  · rw [exec_xlat, execXlat]
    exact runSlot_ok hg (by simp only [exec_bind, needY_plain ha hp, getHere_apply, setHere_apply])
  · rw [State.translate, if_pos hva]
  · obtain ⟨e, he, hheld, hfind⟩ := tlbFind_some held
    simp only [State.translate, if_neg hva.not_ge, hfind]
    exact ⟨trivial, e, he, hheld, rfl⟩
  · simp only [State.translate, if_neg hva.not_ge, tlbFind_none missed, hr]
  · simp only [State.translate, if_neg hva.not_ge, tlbFind_none missed, hr]
    cases hw : walkTables s.mem tenant va levels root.toNat with
    | none =>
      have no_walk (h : Handle) : ¬ s.walksTo root.toNat tenant va h := fun hh => by
        rw [← walkTables_iff s tenant hva, hw] at hh
        cases hh
      exact ⟨fun h => ⟨fun hh => (by cases hh), fun hh => absurd hh (no_walk h)⟩, fun _ => rfl, fun h hh => by cases hh⟩
    | some leaf =>
      dsimp only
      refine ⟨fun h => ?_, fun hh => (by cases hh), fun h hh => ?_⟩
      · rw [← walkTables_iff s tenant hva, hw]
      · cases hh
        have enters : (⟨die, tenant, leaf⟩ : Tlb) ∈ keepFirst (fun e => e.die == die) Config.tlbSize (⟨die, tenant, leaf⟩ :: s.tlb) :=
          head_mem_keepFirst _ (by decide) _ _
        refine ⟨rfl, enters, length_filter_keepFirst _ _ _, fun e he => ?_⟩
        rcases List.mem_cons.1 (mem_of_mem_keepFirst _ he) with h | h
        · exact .inr h
        · exact .inl h

end Sys2Proof.Machine
end

section
/-!
O13, O15, O16, O17. The accesses of the local window: addresses, checks, loads, stores and tags.
-/

namespace Sys2Proof.Machine

/-! ### Addresses and data (R107, R151, R168) -/

theorem addrOff_eq {n : Nat} (y : W64) (scale : Nat) (off : BitVec n) : addrOff y scale off = localAddr y scale off := by
  rw [addrOff, localAddr, BitVec.ofInt_mul, BitVec.ofInt_natCast]
  rfl

theorem lsAddr_eq (y : W64) (w : BitVec 2) (off : BitVec 7) : lsAddr y w off = localAddr y (2 ^ w.toNat) off := addrOff_eq ..

theorem loaded_true (bs : List Byte) : loaded true bs = narrow (8 * bs.length) (BitVec.ofNat 64 (leNat bs)) := sext64_eq_narrow ..

theorem loaded_false (bs : List Byte) : loaded false bs = BitVec.ofNat 64 (leNat bs) := rfl

@[simp] theorem length_spadBytes (s : State) (addr n : Nat) : (s.spadBytes addr n).length = n := length_readCells ..

theorem length_leBytes (n x : Nat) : (leBytes n x).length = n := by
  induction n generalizing x with
  | zero => rfl
  | succ n ih => rw [leBytes, List.length_cons, ih]

/-! ### The checks of R28 -/

theorem allots_iff {s : State} {addr al n : Nat} (ha : addr % al = 0) : s.here.allots addr n = true ↔ s.localOk addr al n := by
  simp [Ctx.allots, State.localOk, ha, and_assoc]

theorem allots_of_not_localOk {s : State} {addr al n : Nat} (ha : addr % al = 0) (h : ¬ s.localOk addr al n) : s.here.allots addr n = false :=
  Bool.eq_false_iff.2 (mt (allots_iff ha).1 h)

theorem checkAligned_apply (slot : SlotKind) (addr al : Nat) (s : State) :
    checkAligned slot addr al s = if addr % al = 0 then .ok ((), s) else .error (.trap (bundleTrap 6 slot (addr % 2 ^ 52))) := by
  by_cases h : addr % al = 0 <;> simp [checkAligned, h, bundleTrap]

theorem checkLocal_misaligned {slot : SlotKind} {addr al : Nat} (h : addr % al ≠ 0) (n : Nat) (s : State) :
    checkLocal slot addr al n s = .error (.trap (bundleTrap 6 slot (addr % 2 ^ 52))) := by
  simp only [checkLocal, exec_bind, checkAligned_apply, if_neg h]

theorem checkLocal_outside {slot : SlotKind} {addr al n : Nat} {s : State} (ha : addr % al = 0) (h : ¬ s.localOk addr al n) :
    checkLocal slot addr al n s = .error (.trap (bundleTrap 5 slot (addr % 2 ^ 52))) := by
  simp [checkLocal, checkAligned_apply, ha, allots_of_not_localOk ha h, bundleTrap]

/-! ### A store falls apart and is performed (R233, R240) -/

/-- A granule of the scratchpad is one write. -/
theorem performParts_local (s : State) (core : Nat) (tenant : BitVec 16) (key : Nat) (bs : List Byte) (ps : List Part) :
    performParts s core tenant (⟨key, bs, none⟩ :: ps) = performParts (s.perform core key bs) core tenant ps := rfl

/-- Granule i of some bytes from a key on. -/
def granule (g key : Nat) (bs : List Byte) (i : Nat) : Part := ⟨key + g * i, (bs.drop (g * i)).take g, none⟩

theorem partsOf_local (g key : Nat) (bs : List Byte) :
    partsOf g key none bs = (List.range ((bs.length + g - 1) / g)).map (granule g key bs) := rfl

/-- Whichever granules of some bytes are performed, and in whatever order, each place that one of them covers has its byte. -/
theorem cellAt_performParts_granules (core : Nat) (tenant : BitVec 16) (g key : Nat) (bs : List Byte) (is : List Nat) {s : State}
    (hw : Memory.wf s.mem = true) (a : Nat) : cellAt (performParts s core tenant (is.map (granule g key bs))).mem a =
      if ∃ i ∈ is, key + g * i ≤ a ∧ a < key + g * i + g ∧ a < key + bs.length then (bs[a - key]?).getD 0 else cellAt s.mem a := by
  induction is generalizing s with
  | nil => simp [performParts]
  | cons i is ih =>
    have covered : (key + g * i ≤ a ∧ a < key + g * i + ((bs.drop (g * i)).take g).length) ↔
        (key + g * i ≤ a ∧ a < key + g * i + g ∧ a < key + bs.length) := by
      rw [List.length_take, List.length_drop]
      omega
    rw [List.map_cons, granule, performParts_local, ih (wf_writeCells hw _ _)]
    by_cases later : ∃ j ∈ is, key + g * j ≤ a ∧ a < key + g * j + g ∧ a < key + bs.length
    · obtain ⟨j, hj, hcov⟩ := later
      rw [if_pos ⟨j, hj, hcov⟩, if_pos ⟨j, List.mem_cons_of_mem _ hj, hcov⟩]
    · rw [if_neg later]
      refine (cellAt_writeCells hw _ _ a).trans ?_
      by_cases now : key + g * i ≤ a ∧ a < key + g * i + g ∧ a < key + bs.length
      · rw [if_pos (covered.2 now), if_pos ⟨i, List.mem_cons_self, now⟩, List.getElem?_take_of_lt (by omega), List.getElem?_drop,
          show g * i + (a - (key + g * i)) = a - key by omega]
      · rw [if_neg (mt covered.1 now), if_neg]
        rintro ⟨j, hj, hcov⟩
        rcases List.mem_cons.1 hj with rfl | hj
        · exact now hcov
        · exact later ⟨j, hj, hcov⟩

/-- A store's bytes stand in their places when all its granules are performed (R29, R240). -/
theorem cellAt_performParts_partsOf (core : Nat) (tenant : BitVec 16) {g : Nat} (hg : 0 < g) (key : Nat) (bs : List Byte) {s : State}
    (hw : Memory.wf s.mem = true) (a : Nat) : cellAt (performParts s core tenant (partsOf g key none bs)).mem a =
      if key ≤ a ∧ a < key + bs.length then (bs[a - key]?).getD 0 else cellAt s.mem a := by
  rw [partsOf_local, cellAt_performParts_granules _ _ _ _ _ _ hw]
  refine if_congr ⟨?_, ?_⟩ rfl rfl
  · rintro ⟨i, -, h0, -, h1⟩
    exact ⟨by omega, h1⟩
  · rintro ⟨h0, h1⟩
    have hmod := Nat.div_add_mod (a - key) g
    have hlt := Nat.mod_lt (a - key) hg
    refine ⟨(a - key) / g, List.mem_range.2 ((Nat.lt_div_iff_mul_lt hg).2 ?_), ?_, ?_, h1⟩
    · have := Nat.div_mul_le_self (a - key) g
      omega
    · omega
    · omega

/-! ### Scalar loads and stores (R107, R339) -/

section Arms

variable (g : Guard) (cl : Cl) (t a v i : BitVec 5) (cls sc : BitVec 4) (w ew : BitVec 2) (off : BitVec 7) (voff : BitVec 8) (soff : BitVec 11)
  (s : State)

theorem exec_ld : exec (.ld g cl t a cls w off) s = localLoad g cl t a cls w off true s := rfl
theorem exec_ldz : exec (.ldz g cl t a cls w off) s = localLoad g cl t a cls w off false s := rfl
theorem exec_ldS : exec (.ldS g cl t a cls w off) s = execLdS g cl t a cls w off s := rfl
theorem exec_st : exec (.st g cl t a cls w off) s = execSt g cl t a cls w off s := rfl
theorem exec_ldf : exec (.ldf g cl t a cls w off) s = loadFull g cl t a cls w off false s := rfl
theorem exec_ldfe : exec (.ldfe g cl t a cls w off) s = loadFull g cl t a cls w off true s := rfl
theorem exec_ste : exec (.ste g cl t a cls w off) s = execSte g cl t a cls w off s := rfl
theorem exec_tset : exec (.tset g cl t a cls w off) s = execTset g cl t a cls w off s := rfl
theorem exec_tget : exec (.tget g cl t a cls w off) s = execTget g cl t a cls w off s := rfl
theorem exec_ldv : exec (.ldv g v a cls ew voff) s = execLdv g v a cls ew voff s := rfl
theorem exec_ldvS : exec (.ldvS g v a cls ew voff) s = execLdvS g v a cls ew voff s := rfl
theorem exec_stv : exec (.stv g v a cls ew voff) s = execStv g v a cls ew voff s := rfl
theorem exec_ldvg : exec (.ldvg g v i a cls ew) s = execLdvg g v i a cls ew s := rfl
theorem exec_stvs : exec (.stvs g v i a cls ew) s = execStvs g v i a cls ew s := rfl
theorem exec_sld : exec (.sld g sc a cls soff) s = execSld g sc a cls soff s := rfl
theorem exec_sst : exec (.sst g sc a cls soff) s = execSst g sc a cls soff s := rfl
theorem exec_sbc : exec (.sbc g sc a) s = execSbc g sc a s := rfl

end Arms

section Scalar

variable {s : State} {g : Guard} (hg : s.here.enabled g = true) (hq : s.Quiet) {cl : Cl} {t a : BitVec 5} (ht : s.here.plain cl t)
  (cls : BitVec 4) {w : BitVec 2} {off : BitVec 7} (hp : (s.here.regs.ry a).poison = false)
  (hok : s.localOk (localAddr (s.here.regs.ry a).val (2 ^ w.toNat) off) (2 ^ w.toNat) (2 ^ w.toNat))

include hg hq ht hp hok

theorem localLoad_ok (signed : Bool) : localLoad g cl t a cls w off signed s = .next (s.elastically (.scalar cl t
    ⟨loaded signed (s.spadBytes (localAddr (s.here.regs.ry a).val (2 ^ w.toNat) off) (2 ^ w.toNat)), false⟩) 5) :=
  runSlot_ok hg (by
    simp only [exec_bind, readY_apply, lsAddr_eq, checkAligned_apply, if_pos hok.1, hp, Bool.false_eq_true, if_false, checkLocal_ok hok,
      loadLocal_ok hq, destT_plain ht, elasticRes_apply, State.elastically])

theorem ldS_ok : execLdS g cl t a cls w off s = .next (s.elastically (.scalar cl t
    ⟨loaded true (s.spadBytes (localAddr (s.here.regs.ry a).val (2 ^ w.toNat) off) (2 ^ w.toNat)), false⟩) 5) :=
  runSlot_ok hg (by
    simp [lsAddr_eq, hok.1, hp, (allots_iff hok.1).2 hok, loadLocal_ok hq, destT_plain ht, State.elastically])

theorem st_ok (hd : (s.here.scalar cl t).poison = false) : execSt g cl t a cls w off s =
    .next (s.spadStored (2 ^ w.toNat) (localAddr (s.here.regs.ry a).val (2 ^ w.toNat) off)
      (leBytes (2 ^ w.toNat) (s.here.scalar cl t).val.toNat)) :=
  runSlot_ok hg (by
    simp only [exec_bind, readY_apply, needReg_apply, hp, Bool.false_eq_true, if_false, lsAddr_eq, checkLocal_ok hok, readT_plain ht, hd,
      storeLocal_ok hq])

end Scalar

/-- Settles O13: nothing keeps a quiet context's access waiting, and a store's granules make up its range. -/
theorem localScalarAccesses : Obligations.LocalScalarAccesses := by
  unfold Obligations.LocalScalarAccesses
  refine ⟨fun s g cl t a cls w off hg hq ht hp hok => ⟨?_, ?_, ?_, fun hd => ?_⟩,
    fun s g addr bs inv hg a => cellAt_performParts_partsOf _ _ hg _ bs inv.mem a⟩
  · rw [exec_ld, localLoad_ok hg hq ht cls hp hok, loaded_true, length_spadBytes]
  · rw [exec_ldz, localLoad_ok hg hq ht cls hp hok, loaded_false]
  · rw [exec_ldS, ldS_ok hg hq ht cls hp hok, loaded_true, length_spadBytes]
  · rw [exec_st, st_ok hg hq ht cls hp hok hd]

/-! ### Full/empty tags (R223 to R225) -/

/-- R224: the words of a tag access. -/
theorem tagWords_eq {w : BitVec 2} (h : 2 ≤ w.toNat) : tagWords w = 2 ^ w.toNat / 4 := by
  have := w.isLt
  rcases (show w.toNat = 2 ∨ w.toNat = 3 by omega) with h | h
  · obtain rfl : w = 2 := BitVec.eq_of_toNat_eq h
    rfl
  · obtain rfl : w = 3 := BitVec.eq_of_toNat_eq h
    rfl

theorem allTags_iff (s : State) (addr n : Nat) (full : Bool) : allTags s addr n full = true ↔ ∀ j < n, s.tagAt addr j = full := by
  simp [allTags]

/-- R224: the value of tget. -/
theorem tget_value (s : State) (addr : Nat) {w : BitVec 2} (h : 2 ≤ w.toNat) :
    (s.tagAt addr 0).toNat + (if w = 3 then 2 * (s.tagAt addr 1).toNat else 0) =
      ((List.range (2 ^ w.toNat / 4)).map fun j => (s.tagAt addr j).toNat * 2 ^ j).sum := by
  have := w.isLt
  rcases (show w.toNat = 2 ∨ w.toNat = 3 by omega) with h | h
  · obtain rfl : w = 2 := BitVec.eq_of_toNat_eq h
    simp [List.range_succ]
  · obtain rfl : w = 3 := BitVec.eq_of_toNat_eq h
    simp [List.range_succ, Nat.mul_comm]

/-- A store of one granule is one write. -/
theorem spadStored_one (s : State) {n : Nat} (hn : 0 < n) (addr : Nat) {bs : List Byte} (hb : bs.length = n) :
    s.spadStored n addr bs = s.perform (coreOf s.cur) (spadKey (clusterOf s.cur) addr) bs := by
  have one : (bs.length + n - 1) / n = 1 := by
    rw [hb, show n + n - 1 = n - 1 + n by omega, Nat.add_div_right _ hn, Nat.div_eq_of_lt (by omega)]
  rw [State.spadStored, partsOf_local, one]
  simp only [List.range_one, List.map_cons, List.map_nil, granule, Nat.mul_zero, Nat.add_zero, List.drop_zero, List.take_of_length_le hb.le]
  rfl

section TagChecks

variable {s : State} {a : BitVec 5} {w : BitVec 2} {off : BitVec 7}

theorem tagAddr_poison (hp : (s.here.regs.ry a).poison = true) : tagAddr a w off s = .error (.trap (bundleTrap 8 .L (32 + a.toNat))) := by
  simp [tagAddr, hp, bundleTrap, poisonInfo, Cl.code]

theorem tagAddr_misaligned (hp : (s.here.regs.ry a).poison = false)
    (h : localAddr (s.here.regs.ry a).val (2 ^ w.toNat) off % 2 ^ w.toNat ≠ 0) :
    tagAddr a w off s = .error (.trap (bundleTrap 6 .L (localAddr (s.here.regs.ry a).val (2 ^ w.toNat) off % 2 ^ 52))) := by
  simp only [tagAddr, exec_bind, readY_apply, needReg_apply, hp, Bool.false_eq_true, if_false, lsAddr_eq, checkLocal_misaligned h]

theorem tagAddr_outside (hp : (s.here.regs.ry a).poison = false)
    (ha : localAddr (s.here.regs.ry a).val (2 ^ w.toNat) off % 2 ^ w.toNat = 0)
    (h : ¬ s.localOk (localAddr (s.here.regs.ry a).val (2 ^ w.toNat) off) (2 ^ w.toNat) (2 ^ w.toNat)) :
    tagAddr a w off s = .error (.trap (bundleTrap 5 .L (localAddr (s.here.regs.ry a).val (2 ^ w.toNat) off % 2 ^ 52))) := by
  simp only [tagAddr, exec_bind, readY_apply, needReg_apply, hp, Bool.false_eq_true, if_false, lsAddr_eq, checkLocal_outside ha h]

theorem tagAddr_ok (hp : (s.here.regs.ry a).poison = false)
    (h : s.localOk (localAddr (s.here.regs.ry a).val (2 ^ w.toNat) off) (2 ^ w.toNat) (2 ^ w.toNat)) :
    tagAddr a w off s = .ok (localAddr (s.here.regs.ry a).val (2 ^ w.toNat) off, s) := by
  simp only [tagAddr, exec_bind, readY_apply, needReg_apply, hp, Bool.false_eq_true, if_false, lsAddr_eq, checkLocal_ok h, exec_pure]

/-- A tag instruction whose address stops it. -/
theorem tag_stops {g : Guard} (hg : s.here.enabled g = true) (cl : Cl) (t : BitVec 5) (cls : BitVec 4) {r : TrapRec}
    (h : tagAddr a w off s = .error (.trap r)) :
    exec (.ldf g cl t a cls w off) s = .next (s.takeTrap r) ∧ exec (.ldfe g cl t a cls w off) s = .next (s.takeTrap r) ∧
      exec (.ste g cl t a cls w off) s = .next (s.takeTrap r) ∧ exec (.tset g cl t a cls w off) s = .next (s.takeTrap r) ∧
      exec (.tget g cl t a cls w off) s = .next (s.takeTrap r) := by
  refine ⟨?_, ?_, ?_, ?_, ?_⟩
  · exact (exec_ldf ..).trans (runSlot_trap hg (by rw [exec_bind, h]))
  · exact (exec_ldfe ..).trans (runSlot_trap hg (by rw [exec_bind, h]))
  · exact (exec_ste ..).trans (runSlot_trap hg (by rw [exec_bind, h]))
  · exact (exec_tset ..).trans (runSlot_trap hg (by rw [exec_bind, h]))
  · exact (exec_tget ..).trans (runSlot_trap hg (by rw [exec_bind, h]))

end TagChecks

/-- The poison of a tag store's datum (R224, R340). -/
theorem tagDatum_poison {s : State} {cl : Cl} {t : BitVec 5} (ht : s.here.plain cl t) (hp : (s.here.scalar cl t).poison = true) :
    tagDatum cl t s = .error (.trap (bundleTrap 8 .L (poisonInfo cl t))) := by
  simp [tagDatum, readT_plain ht, hp, bundleTrap]

/-- A register's number for EINFO, cluster by cluster (R333). -/
theorem poisonInfo_eq (cl : Cl) (t : BitVec 5) : poisonInfo cl t = (match cl with | .x => 0 | .y => 32) + t.toNat := by
  cases cl <;> simp [poisonInfo, Cl.code]

theorem tagDatum_ok {s : State} {cl : Cl} {t : BitVec 5} (ht : s.here.plain cl t) (hp : (s.here.scalar cl t).poison = false) :
    tagDatum cl t s = .ok ((s.here.scalar cl t).val, s) := by
  simp [tagDatum, readT_plain ht, hp]

/-- An enabled slot whose body blocks (R180). -/
theorem runSlot_block {g : Guard} {s : State} {body : Exec Unit} {act : OnBlock} (h : s.here.enabled g = true)
    (hb : body s = .error (.blockWith act)) : runSlot g body s = .next (s.block act) := runSlot_stop h hb

section TagWaits

variable {s : State} {g : Guard} (hg : s.here.enabled g = true) (hq : s.Quiet) {cl : Cl} {t a : BitVec 5} (ht : s.here.plain cl t)
  (cls : BitVec 4) {w : BitVec 2} {off : BitVec 7} {addr : Nat} (ha : tagAddr a w off s = .ok (addr, s))

/-- No matrix command of a quiet context's core locks a tag's words. -/
theorem tagLock_quiet {s : State} (hq : s.Quiet) (addr : Nat) (w : BitVec 2) (isStore : Bool) : tagLock addr w isStore s = .ok ((), s) := by
  simp [tagLock, State.locked, hq.mcmds]

include hg hq ha

theorem loadFull_blocks (take : Bool) (h : allTags s addr (tagWords w) true = false) :
    loadFull g cl t a cls w off take s = .next (s.block (.tags (s.tagsNow addr (tagWords w)))) :=
  runSlot_block hg (by simp only [exec_bind, ha, tagLock_quiet hq, exec_get, stopIf_apply, h, Bool.not_false, if_true])

theorem ste_blocks (hd : tagDatum cl t s = .ok ((s.here.scalar cl t).val, s)) (h : allTags s addr (tagWords w) false = false) :
    execSte g cl t a cls w off s = .next (s.block (.tags (s.tagsNow addr (tagWords w)))) :=
  runSlot_block hg (by simp only [exec_bind, ha, hd, tagLock_quiet hq, exec_get, stopIf_apply, h, Bool.not_false, if_true])

theorem ste_stores (hd : tagDatum cl t s = .ok ((s.here.scalar cl t).val, s)) (h : allTags s addr (tagWords w) false = true) :
    execSte g cl t a cls w off s =
      (let u := s.perform (coreOf s.cur) (spadKey (clusterOf s.cur) addr) (leBytes (2 ^ w.toNat) (s.here.scalar cl t).val.toNat)
       .next { u with tags := setTags u.tags (clusterOf u.cur) addr (List.replicate (tagWords w) true) }) :=
  runSlot_ok hg (by
    simp only [exec_bind, ha, hd, tagLock_quiet hq, exec_get, stopIf_apply, h, Bool.not_true, Bool.false_eq_true, if_false,
      classWait_ok (loadWaits_quiet hq cls), exec_modify, perform_cur])

theorem tset_sets (hd : tagDatum cl t s = .ok ((s.here.scalar cl t).val, s)) : execTset g cl t a cls w off s =
    .next { s with tags := setTags s.tags (clusterOf s.cur) addr ((List.range (tagWords w)).map (s.here.scalar cl t).val.getLsbD) } :=
  runSlot_ok hg (by
    simp only [exec_bind, ha, hd, tagLock_quiet hq, classWait_ok (loadWaits_quiet hq cls), exec_modify])

include ht

theorem tget_reads : execTget g cl t a cls w off s = .next (s.elastically (.scalar cl t ⟨BitVec.ofNat 64
    ((s.tagAt addr 0).toNat + (if w = 3 then 2 * (s.tagAt addr 1).toNat else 0)), false⟩) 5) :=
  runSlot_ok hg (by
    simp only [exec_bind, ha, tagLock_quiet hq, classWait_ok (loadWaits_quiet hq cls), exec_get, destT_plain ht, elasticRes_apply,
      State.elastically])

theorem ldf_loads (h : allTags s addr (tagWords w) true = true) : loadFull g cl t a cls w off false s =
    .next (s.elastically (.scalar cl t ⟨loaded true (s.spadBytes addr (2 ^ w.toNat)), false⟩) 5) :=
  runSlot_ok hg (by
    simp [ha, tagLock_quiet hq, h, loadLocal_ok hq, destT_plain ht, State.elastically])

theorem ldfe_takes (h : allTags s addr (tagWords w) true = true) : loadFull g cl t a cls w off true s =
    (let u := s.elastically (.scalar cl t ⟨loaded true (s.spadBytes addr (2 ^ w.toNat)), false⟩) 5
     .next { u with tags := setTags u.tags (clusterOf u.cur) addr (List.replicate (tagWords w) false) }) :=
  runSlot_ok hg (by
    simp [ha, tagLock_quiet hq, h, loadLocal_ok hq, destT_plain ht, State.elastically])

end TagWaits

/-- A word whose fields make an instruction that is not well formed is refused (R38). -/
theorem decodeSlot_of_not_wf {k : SlotKind} {w lend : Nat} {i : Instr} (ha : opAssigned k (bits w 26 6) = true)
    (hp : parseSlot k (Guard.dec w) (bits w 26 6) w lend = some i) (hw : i.wf = false) : decodeSlot k w lend = .error (.field k) := by
  simp only [decodeSlot, ha, hp, hw, Bool.not_true, Bool.false_eq_true, if_false, and_false, ite_self]

/-- R224: a width below one word is no encoding of a tag instruction. -/
theorem decodeSlot_narrow_tag {w : Nat} (lend : Nat) (h0 : 4 ≤ w / 2 ^ 26) (h1 : w / 2 ^ 26 ≤ 8) (hw : w / 2 ^ 4 % 4 < 2) :
    decodeSlot .L w lend = .error (.field .L) := by
  have hop : bits w 26 6 = w / 2 ^ 26 := Nat.mod_eq_of_lt (Nat.lt_of_le_of_lt h1 (by decide))
  have narrow_width : decide ((fld w 4 2).toNat ≥ 2) = false := by
    rw [fld, BitVec.toNat_ofNat, bits]
    exact decide_eq_false (by omega)
  have refused {i : Instr} {op : Nat} (hi : w / 2 ^ 26 = op) (ha : opAssigned .L op = true) (hp : parseSlot .L (Guard.dec w) op w lend = some i)
      (hwf : i.wf = ((Guard.dec w).ok && decide ((fld w 4 2).toNat ≥ 2))) : decodeSlot .L w lend = .error (.field .L) :=
    decodeSlot_of_not_wf (by rw [hop, hi, ha]) (by rw [hop, hi, hp]) (by rw [hwf, narrow_width, Bool.and_false])
  rcases (show w / 2 ^ 26 = 4 ∨ w / 2 ^ 26 = 5 ∨ w / 2 ^ 26 = 6 ∨ w / 2 ^ 26 = 7 ∨ w / 2 ^ 26 = 8 by omega) with h | h | h | h | h
  · exact refused h rfl rfl rfl
  · exact refused h rfl rfl rfl
  · exact refused h rfl rfl rfl
  · exact refused h rfl rfl rfl
  · exact refused h rfl rfl rfl

/-- Settles O15. -/
theorem tagAccesses : Obligations.TagAccesses := by
  unfold Obligations.TagAccesses
  refine ⟨fun s g cl t a cls w off hg hq ht hp hw hok => ?_, fun s g cl t a cls w off => ⟨fun hg => ?_, fun hg => ⟨fun hp => ?_, fun hp hm => ?_,
    fun hp ha hn => ?_⟩⟩, fun w l h0 h1 hw => decodeSlot_narrow_tag l h0 h1 hw⟩
  · have ha := tagAddr_ok hp hok
    have words := tagWords_eq hw
    generalize haddr : localAddr (s.here.regs.ry a).val (2 ^ w.toNat) off = addr at ha hok
    have full (b : Bool) (h : ∀ j < tagWords w, s.tagAt addr j = b) : allTags s addr (tagWords w) b = true := (allTags_iff s addr _ b).2 h
    have not_full (b : Bool) (h : ∃ j < tagWords w, s.tagAt addr j = !b) : allTags s addr (tagWords w) b = false := by
      obtain ⟨j, hj, hb⟩ := h
      refine Bool.eq_false_iff.2 fun all => ?_
      rw [(allTags_iff s addr _ b).1 all j hj] at hb
      cases b <;> cases hb
    have waits : s.tagsNow addr (tagWords w) = (List.range (2 ^ w.toNat / 4)).map fun j =>
        (spadKey (clusterOf s.cur) ((addr + 4 * j) / 4 * 4), cellAt s.tags (spadKey (clusterOf s.cur) ((addr + 4 * j) / 4 * 4))) := by
      rw [words]
      rfl
    have datum : loaded true (s.spadBytes addr (2 ^ w.toNat)) = narrow (8 * 2 ^ w.toNat) (BitVec.ofNat 64 (leNat (s.spadBytes addr (2 ^ w.toNat)))) := by
      rw [loaded_true, length_spadBytes]
    have consumed (k : SlotKind) := congrArg (fun n => (Host.Outcome.next (s.takeTrap (bundleTrap 8 k n)) : Host.Outcome State Fault Refusal))
      (poisonInfo_eq cl t)
    dsimp only
    rw [← waits, ← datum, ← words]
    refine ⟨fun h => ⟨(exec_ldf ..).trans (ldf_loads hg hq ht cls ha (full true h)),
        (exec_ldfe ..).trans (ldfe_takes hg hq ht cls ha (full true h))⟩,
      fun h => ⟨(exec_ldf ..).trans (loadFull_blocks hg hq cls ha false (not_full true h)),
        (exec_ldfe ..).trans (loadFull_blocks hg hq cls ha true (not_full true h))⟩,
      fun hd => ⟨fun h => ?_, fun h => (exec_ste ..).trans (ste_blocks hg hq cls ha (tagDatum_ok ht hd) (not_full false h)),
        (exec_tset ..).trans (tset_sets hg hq cls ha (tagDatum_ok ht hd))⟩,
      fun hd => ⟨(exec_ste ..).trans ((runSlot_trap hg ?_).trans (consumed _)), (exec_tset ..).trans ((runSlot_trap hg ?_).trans (consumed _))⟩,
      (exec_tget ..).trans ((tget_reads hg hq ht cls ha).trans ?_)⟩
    · rw [spadStored_one s (Nat.two_pow_pos _) addr (length_leBytes _ _)]
      exact (exec_ste ..).trans (ste_stores hg hq cls ha (tagDatum_ok ht hd) (full false h))
    · simp only [exec_bind, ha, tagDatum_poison ht hd]
    · simp only [exec_bind, ha, tagDatum_poison ht hd]
    · rw [tget_value s addr hw, ← words]
  · exact ⟨runSlot_off hg _, runSlot_off hg _, runSlot_off hg _, runSlot_off hg _, runSlot_off hg _⟩
  · exact tag_stops hg cl t cls (tagAddr_poison hp)
  · exact tag_stops hg cl t cls (tagAddr_misaligned hp hm)
  · exact tag_stops hg cl t cls (tagAddr_outside hp ha hn)

/-! ### Vector accesses of the local window (R151, R152, R339) -/

theorem readYV_poison {k : SlotKind} {y : BitVec 5} {s : State} (h : (s.here.regs.ry y).poison = true) :
    readYV k y s = .error (.trap (bundleTrap 8 k (32 + y.toNat))) := by
  simp [readYV, h, bundleTrap, poisonInfo, Cl.code]

/-- R152: the address of a lane of a gather or scatter. -/
theorem laneAddrs_eq (y : W64) (i : Lanes) : laneAddrs y i = (List.range 64).map fun j => (y + (lane i j).setWidth 64).toNat := rfl

theorem checkLanes_ok {s : State} {addrs : List Nat} {n : Nat} (h : ∀ a ∈ addrs, s.localOk a n n) : checkLanes addrs n s = .ok ((), s) := by
  have aligned : (addrs.find? fun a => a % n != 0) = none := by
    rw [List.find?_eq_none]
    intro a ha
    simp [(h a ha).1]
  have inside : (addrs.find? fun a => !s.here.allots a n) = none := by
    rw [List.find?_eq_none]
    intro a ha
    simp [(allots_iff (h a ha).1).2 (h a ha)]
  simp [checkLanes, aligned, inside]

theorem laneAddrs_all {y : W64} {i : Lanes} {p : Nat → Prop} (h : ∀ j < 64, p (y + (lane i j).setWidth 64).toNat) : ∀ x ∈ laneAddrs y i, p x := by
  intro x hx
  rw [laneAddrs_eq, List.mem_map] at hx
  obtain ⟨j, hj, rfl⟩ := hx
  exact h j (List.mem_range.1 hj)

theorem gather_quiet {s : State} (hq : s.Quiet) (cls : BitVec 4) (n : Nat) (addrs : List Nat) :
    gather cls n addrs s = .ok (addrs.map fun a => leNat (s.spadBytes a n), s) := by
  induction addrs with
  | nil => rfl
  | cons a as ih => simp only [gather, exec_bind, loadLocal_ok hq, ih, exec_pure, List.map_cons]

/-- A scatter's granules are its lanes' stores, one after another (R152, R240). -/
theorem foldl_spadStored {n : Nat} (hn : 0 < n) (addr : Nat → Nat) (bs : Nat → List Byte) (hb : ∀ j, (bs j).length = n) (tenant : BitVec 16)
    (js : List Nat) (s : State) : js.foldl (fun t j => t.spadStored n (addr j) (bs j)) s =
      performParts s (coreOf s.cur) tenant (js.map fun j => ⟨spadKey (clusterOf s.cur) (addr j), bs j, none⟩) := by
  induction js generalizing s with
  | nil => rfl
  | cons j js ih =>
    rw [List.foldl_cons, List.map_cons, performParts_local, spadStored_one s hn (addr j) (hb j)]
    exact ih _

theorem lanePartsOf_eq (cluster n : Nat) (v : Lanes) (addr : Nat → Nat) : lanePartsOf cluster n v ((List.range 64).map addr) =
    (List.range 64).map fun j => ⟨spadKey cluster (addr j), leBytes n (lane v j).toNat, none⟩ := by
  have places : ((List.range 64).map addr).zipIdx = (List.range 64).map fun j => (addr j, j) := by
    apply List.ext_getElem <;> simp
  rw [lanePartsOf, places, List.map_map]
  rfl

section Vector

variable {s : State} {g : Guard} (hg : s.here.enabled g = true) (hq : s.Quiet) {a : BitVec 5} (hp : (s.here.regs.ry a).poison = false)
  (v i : BitVec 5) (cls : BitVec 4) {ew : BitVec 2} {off : BitVec 8}

include hg hq hp

theorem ldv_loads (hok : s.localOk (localAddr (s.here.regs.ry a).val 256 off) (2 ^ ew.toNat) 256) :
    exec (.ldv g v a cls ew off) s =
      .next (s.elastically (.v v (BitVec.allOnes 64) (lanesOf (s.spadBytes (localAddr (s.here.regs.ry a).val 256 off) 256))) 5) :=
  (exec_ldv ..).trans (runSlot_ok hg (by
    simp only [exec_bind, readYV_ok hp, addrOff_eq, checkLocal_ok hok, loadLocal_ok hq, elasticRes_apply, State.elastically]))

theorem ldvS_loads (hok : s.localOk (localAddr (s.here.regs.ry a).val 256 off) (2 ^ ew.toNat) 256) :
    exec (.ldvS g v a cls ew off) s =
      .next (s.elastically (.v v (BitVec.allOnes 64) (lanesOf (s.spadBytes (localAddr (s.here.regs.ry a).val 256 off) 256))) 5) :=
  (exec_ldvS ..).trans (runSlot_ok hg (by
    simp [hp, addrOff_eq, hok.1, (allots_iff hok.1).2 hok, loadLocal_ok hq, State.elastically]))

theorem stv_stores (hok : s.localOk (localAddr (s.here.regs.ry a).val 256 off) (2 ^ ew.toNat) 256) :
    exec (.stv g v a cls ew off) s =
      .next (s.spadStored (2 ^ ew.toNat) (localAddr (s.here.regs.ry a).val 256 off) (bytesOf (s.here.regs.rv v))) :=
  (exec_stv ..).trans (runSlot_ok hg (by
    simp only [exec_bind, readYV_ok hp, addrOff_eq, checkLocal_ok hok, readV_apply, storeLocal_ok hq]))

variable (hok : ∀ j < 64, s.localOk ((s.here.regs.ry a).val + (lane (s.here.regs.rv i) j).setWidth 64).toNat (2 ^ ew.toNat) (2 ^ ew.toNat))

include hok

theorem ldvg_loads : exec (.ldvg g v i a cls ew) s = .next (s.elastically (.v v (BitVec.allOnes 64) (Vector.ofFn fun j : Fin 64 =>
    BitVec.ofNat 32 (leNat (s.spadBytes ((s.here.regs.ry a).val + (lane (s.here.regs.rv i) j.val).setWidth 64).toNat (2 ^ ew.toNat))))) 5) := by
  have each := checkLanes_ok (laneAddrs_all hok)
  refine (exec_ldvg ..).trans (runSlot_ok hg ?_)
  simp only [exec_bind, readYV_ok hp, readV_apply, each, gather_quiet hq, elasticRes_apply, State.elastically]
  congr 7
  funext j
  simp [laneAddrs_eq]

theorem stvs_stores : exec (.stvs g v i a cls ew) s = .next ((List.range 64).foldl (fun t j =>
    t.spadStored (2 ^ ew.toNat) ((s.here.regs.ry a).val + (lane (s.here.regs.rv i) j).setWidth 64).toNat
      (leBytes (2 ^ ew.toNat) (lane (s.here.regs.rv v) j).toNat)) s) := by
  have each := checkLanes_ok (laneAddrs_all hok)
  have unlocked (as : List Nat) : (as.any fun x => s.locked (coreOf s.cur) s.issueFrom x (2 ^ ew.toNat) true) = false := by
    simp [State.locked, hq.mcmds]
  rw [foldl_spadStored (Nat.two_pow_pos _) _ _ (fun j => length_leBytes _ _) s.here.sr.tenant]
  refine (exec_stvs ..).trans (runSlot_ok hg ?_)
  simp only [exec_bind, readYV_ok hp, readV_apply, each, exec_get, stopIf_apply, unlocked, Bool.false_eq_true, if_false, store_ok hq]
  rw [laneAddrs_eq, lanePartsOf_eq]

end Vector

/-- Settles O16. -/
theorem localVectorAccesses : Obligations.LocalVectorAccesses := by
  unfold Obligations.LocalVectorAccesses
  intro s g v i a cls ew off hg hq hp
  refine ⟨fun hok => ⟨ldv_loads hg hq hp v cls hok, ldvS_loads hg hq hp v cls hok, stv_stores hg hq hp v cls hok⟩, fun hno => ?_,
    fun hok => ⟨ldvg_loads hg hq hp v i cls hok, stvs_stores hg hq hp v i cls hok⟩⟩
  refine (exec_ldvS ..).trans (runSlot_ok hg ?_)
  by_cases ha : localAddr (s.here.regs.ry a).val 256 off % 2 ^ ew.toNat = 0
  · simp [hp, addrOff_eq, ha, allots_of_not_localOk ha hno, State.elastically]
  · simp [hp, addrOff_eq, ha, State.elastically]

/-! ### Scale accesses (R168) -/

/-- No mdrain of a quiet context still writes a scale register. -/
theorem scaleWait_quiet {s : State} (hq : s.Quiet) (sc : Nat) : scaleWait sc s = .ok ((), s) := by
  simp [scaleWait, hq.mcmds]

theorem scaleAddr_ok {s : State} {a : BitVec 5} {off : BitVec 11} (hp : (s.here.regs.ry a).poison = false)
    (hok : s.localOk (localAddr (s.here.regs.ry a).val 256 off) 4 256) :
    scaleAddr a off s = .ok (localAddr (s.here.regs.ry a).val 256 off, s) := by
  simp only [scaleAddr, exec_bind, readYV_ok hp, addrOff_eq, checkLocal_ok hok, exec_pure]

/-- Settles O17. -/
theorem scaleAccesses : Obligations.ScaleAccesses := by
  unfold Obligations.ScaleAccesses
  refine fun s g sc a cls off hg hq hp => ⟨(exec_sbc ..).trans (runSlot_ok hg ?_), fun hok => ⟨(exec_sld ..).trans (runSlot_ok hg ?_),
    (exec_sst ..).trans (runSlot_ok hg ?_)⟩⟩
  · simp only [exec_bind, readYV_ok hp, scaleWait_quiet hq, elasticRes_apply, State.elastically]
  · simp only [exec_bind, scaleAddr_ok hp hok, scaleWait_quiet hq, loadLocal_ok hq, elasticRes_apply, State.elastically]
  · simp only [exec_bind, scaleAddr_ok hp hok, scaleWait_quiet hq, getHere_apply, storeLocal_ok hq]

end Sys2Proof.Machine
end

section
/-!
O14, O18, O19. The accesses through a handle, and what the checks of all accesses answer.
-/

namespace Sys2Proof.Machine

/-! ### The checks of R217 -/

section Checks

variable {h : Handle} {hn : BitVec 4} {o n a : Nat}

/-- Whatever `checkHandle` answers is the first check that fails, with its class and detail. -/
theorem fails_of_checkHandle {isLoad : Bool} {raises : Nat → Nat → Prop}
    (hr : ∀ c info, checkHandle hn.toNat h o n a isLoad (!isLoad) false = some (c, info) → raises c info) :
    h.fails hn o n a isLoad raises := by
  have w_iff : h.perm.getLsbD 1 = true ↔ h.w = true := Iff.rfl
  have r_iff : h.perm.getLsbD 2 = true ↔ h.r = true := Iff.rfl
  have c_iff : (h.lclass == 0) = true ↔ ¬ h.lclass ≠ 0 := by simp
  refine ⟨fun hv => hr _ _ ?_, fun hv hp => hr _ _ ?_, fun hv hp ha => hr _ _ ?_, fun hv hp ha hs => hr _ _ ?_⟩
  · simp [checkHandle, hv]
  · cases isLoad
    · simp only [Bool.false_eq_true, if_false, w_iff, Bool.not_eq_true] at hp
      simp [checkHandle, hv, hp]
    · simp only [if_true, r_iff, not_and, ← c_iff] at hp
      cases hread : h.r with
      | false => simp [checkHandle, hv, hread]
      | true =>
        have hc : h.lclass = 0#3 := by simpa using hp hread
        simp [checkHandle, hv, hread, hc]
  · cases isLoad
    · simp only [Bool.false_eq_true, if_false, w_iff] at hp
      simp [checkHandle, hv, hp, ha]
    · simp only [if_true, r_iff] at hp
      have hc : ¬ h.lclass = 0#3 := hp.2
      simp [checkHandle, hv, hp.1, hc, ha]
  · cases isLoad
    · simp only [Bool.false_eq_true, if_false, w_iff] at hp
      simp [checkHandle, hv, hp, ha, hs]
    · simp only [if_true, r_iff] at hp
      have hc : ¬ h.lclass = 0#3 := hp.2
      simp [checkHandle, hv, hp.1, hc, ha, hs]

theorem checkHandle_load {s : State} (hok : s.pageOk h o n a true) (hc : h.lclass ≠ 0) (k : Nat) : checkHandle k h o n a true false false = none := by
  obtain ⟨hv, hp, ha, hs, -⟩ := hok
  have hread : h.r = true := hp
  have hc : ¬ h.lclass = 0#3 := hc
  simp [checkHandle, hv, hread, hc, ha, Nat.not_lt.2 hs]

theorem checkHandle_store {s : State} (hok : s.pageOk h o n a false) (k : Nat) : checkHandle k h o n a false true false = none := by
  obtain ⟨hv, hp, ha, hs, -⟩ := hok
  have hwrite : h.w = true := hp
  simp [checkHandle, hv, hwrite, ha, Nat.not_lt.2 hs]

theorem raiseSome_some (k : SlotKind) (c info : Nat) (s : State) : raiseSome k (some (c, info)) s = .error (.trap (bundleTrap c k info)) := rfl

/-- The plane of an access that passes the checks is not lost (R379). -/
theorem checkLoft_ok {s : State} {isLoad : Bool} (hok : s.pageOk h o n a isLoad) (k : SlotKind) : checkLoft k h o n isLoad s = .ok ((), s) := by
  obtain ⟨-, -, -, -, hl⟩ := hok
  simp only [checkLoft, exec_bind, exec_get]
  by_cases ht : h.tgt = 1
  · rw [if_pos ht, (hl ht).1]
    rfl
  · rw [if_neg ht]
    rfl

/-- Nor does its switch refuse it (R374). -/
theorem refuses_false {s : State} {isLoad : Bool} (hok : s.pageOk h o n a isLoad) : s.refuses s.cur h o n = false := by
  obtain ⟨-, -, -, -, hl⟩ := hok
  by_cases ht : h.tgt = 1
  · have inside : (s.extentOf h.plane.toNat (h.ppn.toNat * 65536 + o) n (s.ctx s.cur).sr.tenant).isNone = false := by
      rw [Option.isNone_eq_false_iff]
      exact (hl ht).2
    rw [State.refuses, inside, Bool.and_false]
  · rw [State.refuses, beq_false_of_ne ht, Bool.false_and]

end Checks

/-- R217, R219: the result of a load that its switch does not refuse goes in flight. -/
theorem addLoad_bringing (s : State) (r : Result) (h : Handle) (redo : Redo) :
    addLoad r h (h.tgt == 2) redo s = .ok ((), s.bringing r h redo) := by
  simp only [addLoad, exec_bind, exec_get]
  unfold State.bringing Handle.latency
  by_cases h0 : h.tgt = 0
  · rw [h0]
    rfl
  · by_cases h2 : h.tgt = 2
    · rw [h2]
      rfl
    · rw [if_neg h0, if_neg h2, if_neg h0, if_neg (by simpa using h2)]
      rfl

/-! ### Loads and stores of a quiet context (R108, R217, R222, R240) -/

section Quiet

variable {s : State} (hq : s.Quiet)

include hq

theorem tearsLoad_quiet (h : Handle) (o n : Nat) : s.tearsLoad s.cur h o n = false := tears_quiet hq _ _

/-- With no line in the L1 a core sees what memory holds. -/
theorem loadBytes_quiet (h : Handle) (o n : Nat) : s.loadBytes s.cur h o n = s.pageHolds h o n := by
  unfold State.loadBytes State.pageHolds
  split
  · rfl
  · split
    · rename_i hc
      have plain : h.cview = 0 := by
        simp only [Handle.cached, Bool.and_eq_true, beq_iff_eq] at hc
        exact hc.1.2
      rw [State.l1Bytes, hq.lines, Handle.read, if_pos plain]
      rfl
    · rfl

theorem afterLoad_quiet (h : Handle) (o n : Nat) : s.afterLoad s.cur h o n = s := by
  rw [State.afterLoad, hq.scripted]
  rfl

theorem loadHandle_quiet (cls : BitVec 4) (h : Handle) (o n : Nat) : loadHandle cls h o n s = .ok (s.pageHolds h o n, s) := by
  simp [loadHandle, classWait_ok (loadWaits_quiet hq cls), tearsLoad_quiet hq, afterLoad_quiet hq, loadBytes_quiet hq]

theorem deliver_loading (cls : BitVec 4) (r : Result) (form : LoadForm) {h : Handle} {o n p : Nat} (hr : s.refuses s.cur h o n = false) :
    deliver cls r form h o n p s = .ok ((), s.loading cls (r.fill form h p (s.pageHolds h o n)) h o n p form) := by
  simp only [deliver, exec_bind, loadHandle_quiet hq, exec_get, hr, Bool.or_false, addLoad_bringing]
  rfl

theorem deliverLink_bringing (cls : BitVec 4) (r0 r1 : Result) {h : Handle} {o : Nat} (hr : s.refuses s.cur h o 16 = false) :
    deliverLink cls r0 r1 h o s = .ok ((), (s.bringing (r0.linkHalf h o 0 (s.pageHolds h o 16)) h
      (.load cls s.here.sr.acyc.toNat h o 16 o .link)).bringing (r1.linkHalf h o 1 (s.pageHolds h o 16)) h .paired) := by
  simp only [deliverLink, exec_bind, loadHandle_quiet hq, exec_get, hr, Bool.or_false, addLoad_bringing]

/-- R374: a store whose bytes lie in an extent of its tenant is performed. -/
theorem storeHandle_stored (cls : BitVec 4) (g : Nat) {h : Handle} {o a : Nat} {bs : List Byte} (hok : s.pageOk h o bs.length a false) :
    storeHandle cls g h o bs s = .ok ((), s.pageStored g h o bs) := by
  obtain ⟨-, -, -, -, hl⟩ := hok
  have kept : ¬ (h.tgt = 1 ∧ s.storeKeys h o bs.length s.here.sr.tenant = []) := by
    rintro ⟨ht, hk⟩
    obtain ⟨e, he⟩ := Option.isSome_iff_exists.1 (hl ht).2
    rw [State.storeKeys, if_pos ht] at hk
    simp only [he] at hk
    cases hm : e.mirror <;> simp [hm] at hk
  simp only [storeHandle, exec_bind, exec_get, if_neg kept, exec_ite, store_ok hq, State.pageStored]

end Quiet

/-! ### What a page holds -/

theorem length_viewBytes (m : List Host.Cell) (h : Handle) (o n : Nat) : (viewBytes m h o n).length = n := by
  induction n generalizing o with
  | zero => rfl
  | succ n ih => rw [viewBytes, List.length_cons, ih]

@[simp] theorem length_pageHolds (s : State) (h : Handle) (o n : Nat) : (s.pageHolds h o n).length = n := by
  unfold State.pageHolds Handle.read
  split
  · exact length_readCells ..
  · split
    · exact length_readCells ..
    · exact length_viewBytes ..

theorem lhOffset_eq (y : W64) (w : BitVec 2) (disp : BitVec 3) :
    lhOffset y w disp = (y + disp.setWidth 64 * BitVec.ofNat 64 (2 ^ w.toNat)).toNat := by
  rw [lhOffset, BitVec.ofNat_mul, BitVec.ofNat_toNat]

theorem fill_scalar (cl : Cl) (t : BitVec 5) (r : Reg) (form : LoadForm) (h : Handle) (o : Nat) (bs : List Byte) :
    (Result.scalar cl t r).fill form h o bs = .scalar cl t ⟨loaded (form == .sext) bs, false⟩ := by
  cases cl <;> rfl

section Arms

variable (g : Guard) (cl : Cl) (t v o : BitVec 5) (sc hn cls : BitVec 4) (w ew : BitVec 2) (disp : BitVec 3) (s : State)

theorem exec_ldh : exec (.ldh g cl t hn o cls w disp) s = handleLoad g cl t hn o cls w disp .sext s := rfl
theorem exec_ldhz : exec (.ldhz g cl t hn o cls w disp) s = handleLoad g cl t hn o cls w disp .zext s := rfl
theorem exec_ldhS : exec (.ldhS g cl t hn o cls w disp) s = execLdhS g cl t hn o cls w disp s := rfl
theorem exec_sth : exec (.sth g cl t hn o cls w disp) s = execSth g cl t hn o cls w disp s := rfl
theorem exec_ldlink : exec (.ldlink g t hn o cls) s = execLdlink g t hn o cls s := rfl
theorem exec_stlink : exec (.stlink g t hn o cls) s = execStlink g t hn o cls s := rfl
theorem exec_ldvh : exec (.ldvh g v hn o cls ew) s = execLdvh g v hn o cls ew s := rfl
theorem exec_stvh : exec (.stvh g v hn o cls ew) s = execStvh g v hn o cls ew s := rfl
theorem exec_ldvm : exec (.ldvm g v hn o cls) s = execLdvm g v hn o cls s := rfl
theorem exec_sldh : exec (.sldh g sc hn o cls) s = execSldh g sc hn o cls s := rfl

end Arms

/-! ### Scalar and link accesses (R217, R218, R290) -/

section Scalar

variable {s : State} {g : Guard} (hg : s.here.enabled g = true) (hq : s.Quiet) {cl : Cl} {t o : BitVec 5} {hn : BitVec 4} (cls : BitVec 4)
  {w : BitVec 2} {disp : BitVec 3} (hp : (s.here.regs.ry o).poison = false) {off : Nat}
  (hoff : ((s.here.regs.ry o).val + disp.setWidth 64 * BitVec.ofNat 64 (2 ^ w.toNat)).toNat = off)

include hg hq hp

section Plain

variable (ht : s.here.plain cl t)

include hoff ht

theorem handleLoad_loads (hok : s.pageOk (s.here.regs.rh hn) off (2 ^ w.toNat) (2 ^ w.toNat) true) (hc : (s.here.regs.rh hn).lclass ≠ 0)
    (form : LoadForm) : handleLoad g cl t hn o cls w disp form s = .next (s.loading cls (.scalar cl t
      ⟨loaded (form == .sext) (s.pageHolds (s.here.regs.rh hn) off (2 ^ w.toNat)), false⟩) (s.here.regs.rh hn) off (2 ^ w.toNat) off form) :=
  runSlot_ok hg (by
    simp only [exec_bind, readY_apply, readH_apply, raiseIf_apply, hok.1, Bool.not_true, Bool.false_eq_true, if_false, hp, lhOffset_eq, hoff,
      checkHandle_load hok hc, raiseSome_none, checkLoft_ok hok, destT_plain ht, deliver_loading hq cls _ _ (refuses_false hok), fill_scalar])

theorem ldhS_loads (hok : s.pageOk (s.here.regs.rh hn) off (2 ^ w.toNat) (2 ^ w.toNat) true) (hc : (s.here.regs.rh hn).lclass ≠ 0) :
    execLdhS g cl t hn o cls w disp s = .next (s.loading cls (.scalar cl t
      ⟨loaded true (s.pageHolds (s.here.regs.rh hn) off (2 ^ w.toNat)), false⟩) (s.here.regs.rh hn) off (2 ^ w.toNat) off .sext) :=
  runSlot_ok hg (by
    simp only [exec_bind, readY_apply, readH_apply, Bool.false_eq_true, if_false, hp, lhOffset_eq, hoff,
      checkHandle_load hok hc, checkLoft_ok hok, destT_plain ht, deliver_loading hq cls _ _ (refuses_false hok), fill_scalar]
    rfl)

theorem sth_stores (hok : s.pageOk (s.here.regs.rh hn) off (2 ^ w.toNat) (2 ^ w.toNat) false) (hd : (s.here.scalar cl t).poison = false) :
    execSth g cl t hn o cls w disp s =
      .next (s.pageStored (2 ^ w.toNat) (s.here.regs.rh hn) off (leBytes (2 ^ w.toNat) (s.here.scalar cl t).val.toNat)) := by
  have stored : storeHandle cls (2 ^ w.toNat) (s.here.regs.rh hn) off (leBytes (2 ^ w.toNat) (s.here.scalar cl t).val.toNat) s = _ :=
    storeHandle_stored hq cls _ (by rw [length_leBytes]; exact hok)
  exact runSlot_ok hg (by
    simp only [exec_bind, readY_apply, needReg_apply, hp, Bool.false_eq_true, if_false, readH_apply, lhOffset_eq, hoff,
      checkHandle_store hok, raiseSome_none, checkLoft_ok hok, readT_plain ht, hd, stored])

end Plain

theorem ldlink_loads (hok : s.pageOk (s.here.regs.rh hn) (s.here.regs.ry o).val.toNat 16 16 true) (hc : (s.here.regs.rh hn).lclass ≠ 0)
    (ht : (s.here.regs.rh hn).tgt ≠ 2) : execLdlink g t hn o cls s =
      (let h := s.here.regs.rh hn
       let off := (s.here.regs.ry o).val.toNat
       .next ((s.bringing (.y t ⟨loaded false (((s.pageHolds h off 16).drop (8 * 0)).take 8), false⟩) h
        (.load cls s.here.sr.acyc.toNat h off 16 off .link)).bringing
        (.y (t + 1) ⟨loaded false (((s.pageHolds h off 16).drop (8 * 1)).take 8), false⟩) h .paired)) :=
  runSlot_ok hg (by
    simp only [exec_bind, readY_apply, readH_apply, raiseIf_apply, hok.1, Bool.not_true, Bool.false_eq_true, if_false, hp,
      checkHandle_load hok hc, raiseSome_none, beq_false_of_ne ht, checkLoft_ok hok, deliverLink_bringing hq cls _ _ (refuses_false hok)]
    rfl)

theorem stlink_stores (hok : s.pageOk (s.here.regs.rh hn) (s.here.regs.ry o).val.toNat 16 16 false) (ht : (s.here.regs.rh hn).tgt ≠ 2)
    (h0 : (s.here.regs.ry t).poison = false) (h1 : (s.here.regs.ry (t + 1)).poison = false) : execStlink g t hn o cls s =
      .next (s.pageStored 16 (s.here.regs.rh hn) (s.here.regs.ry o).val.toNat
        (leBytes 8 (s.here.regs.ry t).val.toNat ++ leBytes 8 (s.here.regs.ry (t + 1)).val.toNat)) := by
  have stored : storeHandle cls 16 (s.here.regs.rh hn) (s.here.regs.ry o).val.toNat
      (leBytes 8 (s.here.regs.ry t).val.toNat ++ leBytes 8 (s.here.regs.ry (t + 1)).val.toNat) s = _ :=
    storeHandle_stored hq cls _ (by rw [List.length_append, length_leBytes, length_leBytes]; exact hok)
  exact runSlot_ok hg (by
    simp only [exec_bind, readY_apply, needReg_apply, hp, Bool.false_eq_true, if_false, readH_apply, checkHandle_store hok, raiseSome_none,
      raiseIf_apply, beq_false_of_ne ht, checkLoft_ok hok, pairNext, h0, h1, stored])

end Scalar

/-- A store through a handle leaves its bytes in the page, which is no loft page here (R217, R240). -/
theorem cellAt_pageStored {s : State} (hw : Memory.wf s.mem = true) {h : Handle} (ht : h.tgt ≠ 1) {g : Nat} (hg : 0 < g) (o : Nat)
    (bs : List Byte) (a : Nat) : cellAt (s.pageStored g h o bs).mem a =
      if h.key o ≤ a ∧ a < h.key o + bs.length then (bs[a - h.key o]?).getD 0 else cellAt s.mem a := by
  rw [State.pageStored, if_neg ht]
  exact cellAt_performParts_partsOf _ _ hg _ _ hw a

/-- Settles O18. -/
theorem handleScalarAccesses : Obligations.HandleScalarAccesses := by
  unfold Obligations.HandleScalarAccesses
  intro s g cl t hn o cls w disp hg hq ht hp
  refine ⟨fun hok hc => ⟨(exec_ldh ..).trans ?_, (exec_ldhz ..).trans (handleLoad_loads hg hq cls hp rfl ht hok hc .zext), (exec_ldhS ..).trans ?_⟩,
    fun hok hd => (exec_sth ..).trans (sth_stores hg hq cls hp rfl ht hok hd),
    fun hok hc h2 => (exec_ldlink ..).trans (ldlink_loads hg hq cls hp hok hc h2),
    fun hok h2 h0 h1 => (exec_stlink ..).trans (stlink_stores hg hq cls hp hok h2 h0 h1),
    fun inv ht g o bs hg a => cellAt_pageStored inv.mem ht hg o bs a⟩
  · rw [handleLoad_loads hg hq cls hp rfl ht hok hc, show (LoadForm.sext == LoadForm.sext) = true from rfl, loaded_true, length_pageHolds]
  · rw [ldhS_loads hg hq cls hp rfl ht hok hc, loaded_true, length_pageHolds]

/-! ### Vector, scale and mask accesses (R153, R168, R228) -/

section Vector

variable {s : State} {g : Guard} (hg : s.here.enabled g = true) (hq : s.Quiet) {o : BitVec 5} {hn : BitVec 4} (v : BitVec 5)
  (cls : BitVec 4) {ew : BitVec 2} (hp : (s.here.regs.ry o).poison = false)

include hg hq hp

theorem ldvh_loads (hok : s.pageOk (s.here.regs.rh hn) (s.here.regs.ry o).val.toNat 256 (2 ^ ew.toNat) true) (hc : (s.here.regs.rh hn).lclass ≠ 0) :
    execLdvh g v hn o cls ew s = .next (s.loading cls (.v v (BitVec.allOnes 64) (lanesOf (s.pageHolds (s.here.regs.rh hn) (s.here.regs.ry o).val.toNat 256)))
      (s.here.regs.rh hn) (s.here.regs.ry o).val.toNat 256 (s.here.regs.ry o).val.toNat .lanes) :=
  runSlot_ok hg (by
    simp only [exec_bind, readYV_ok hp, readH_apply, checkHandle_load hok hc, raiseSome_none, checkLoft_ok hok,
      deliver_loading hq cls _ _ (refuses_false hok)]
    rfl)

theorem sldh_loads (sc : BitVec 4) (hok : s.pageOk (s.here.regs.rh hn) (s.here.regs.ry o).val.toNat 256 4 true)
    (hc : (s.here.regs.rh hn).lclass ≠ 0) :
    execSldh g sc hn o cls s = .next (s.loading cls (.sc sc (lanesOf (s.pageHolds (s.here.regs.rh hn) (s.here.regs.ry o).val.toNat 256)))
      (s.here.regs.rh hn) (s.here.regs.ry o).val.toNat 256 (s.here.regs.ry o).val.toNat .lanes) :=
  runSlot_ok hg (by
    simp only [exec_bind, readYV_ok hp, readH_apply, checkHandle_load hok hc, raiseSome_none, checkLoft_ok hok, scaleWait_quiet hq,
      deliver_loading hq cls _ _ (refuses_false hok)]
    rfl)

theorem stvh_stores (hok : s.pageOk (s.here.regs.rh hn) (s.here.regs.ry o).val.toNat 256 (2 ^ ew.toNat) false) :
    execStvh g v hn o cls ew s =
      .next (s.pageStored (2 ^ ew.toNat) (s.here.regs.rh hn) (s.here.regs.ry o).val.toNat (bytesOf (s.here.regs.rv v))) := by
  have len : (bytesOf (s.here.regs.rv v)).length = 256 := by simp [bytesOf, length_leBytes]
  have stored : storeHandle cls (2 ^ ew.toNat) (s.here.regs.rh hn) (s.here.regs.ry o).val.toNat (bytesOf (s.here.regs.rv v)) s = _ :=
    storeHandle_stored hq cls _ (by rw [len]; exact hok)
  exact runSlot_ok hg (by
    simp only [exec_bind, readYV_ok hp, readH_apply, checkHandle_store hok, raiseSome_none, checkLoft_ok hok, readV_apply, stored])

/-- The mask of a page in HBM (R228). -/
theorem ldvm_loads (hok : s.pageOk (s.here.regs.rh hn) 0 8 1 true) (hc : (s.here.regs.rh hn).lclass ≠ 0) (hkv : (s.here.regs.rh hn).kv = true)
    (ht : (s.here.regs.rh hn).tgt = 0) : execLdvm g v hn o cls s =
      (let h := s.here.regs.rh hn
       let off := (s.here.regs.ry o).val.toNat
       .next (s.elastically (.v v (BitVec.allOnes 64) (maskLanes h off fun p =>
        (((s.pageHolds h (maskSpan off).1 (maskSpan off).2)[p / 8 - (maskSpan off).1]?).getD 0).getLsbD (p % 8))) (Config.bound h.lclass.toNat))) := by
  have loft : checkLoft .L (s.here.regs.rh hn) (maskSpan (s.here.regs.ry o).val.toNat).1 (maskSpan (s.here.regs.ry o).val.toNat).2 true s = .ok ((), s) := by
    simp [checkLoft, ht]
  have kept : s.refuses s.cur (s.here.regs.rh hn) (maskSpan (s.here.regs.ry o).val.toNat).1 (maskSpan (s.here.regs.ry o).val.toNat).2 = false := by
    simp [State.refuses, ht]
  refine runSlot_ok hg ?_
  simp only [exec_bind, readYV_ok hp, readH_apply, checkHandle_load hok hc, raiseSome_none, raiseIf_apply, hkv, Bool.not_true, Bool.false_eq_true,
    if_false, loft, deliver_loading hq cls _ _ kept, State.loading, State.bringing, if_pos ht]
  rfl

end Vector

/-- Positions of the mask lie in the first 4 KiB of their page (R228). -/
theorem maskSpan_covers {o p count : Nat} (hp : o ≤ p) (hlast : p < o + 64) (hcount : count ≤ 32768) (hin : p < count) :
    (maskSpan o).1 ≤ p / 8 ∧ p / 8 - (maskSpan o).1 < (maskSpan o).2 := by
  simp only [maskSpan]
  omega

/-- A byte of a plain page in HBM, read alone or in a longer range. -/
theorem getElem?_pageHolds {s : State} (hw : Memory.wf s.mem = true) {h : Handle} (ht : h.tgt = 0) (hv : h.cview = 0) {o n i : Nat} (hi : i < n) :
    ((s.pageHolds h o n)[i]?).getD 0 = (s.pageHolds h (o + i) 1).headD 0 := by
  have key : h.key (o + i) = h.key o + i := by
    rw [Handle.key, Handle.key, if_pos ht, if_pos ht, hbmKey, hbmKey, Nat.add_assoc]
  have plain (o n : Nat) : s.pageHolds h o n = readCells s.mem (h.key o) n := by
    rw [State.pageHolds, if_neg (by rw [ht]; decide), Handle.read, if_pos hv]
  rw [plain, plain, key, readCells_eq hw, readCells_eq hw]
  simp [hi]

/-- The tokens of an arena page's token area (R228). -/
theorem tokens_le {size : BitVec 2} (hs : size = 0 ∨ size = 1) (t : BitVec 3) : (pageBytes size - 4096) / (64 * 2 ^ t.toNat) ≤ 32768 := by
  have pos := Nat.two_pow_pos t.toNat
  have bytes : pageBytes size ≤ 0x200000 := by rcases hs with rfl | rfl <;> decide
  exact (Nat.div_le_div_left (Nat.le_mul_of_pos_right 64 pos) (by decide)).trans (Nat.div_le_of_le_mul (by omega))

/-- Settles O19. -/
theorem handleVectorAccesses : Obligations.HandleVectorAccesses := by
  unfold Obligations.HandleVectorAccesses
  intro s g v sc hn o cls ew hg hq hp
  refine ⟨fun hok hc => (exec_ldvh ..).trans (ldvh_loads hg hq v cls hp hok hc), fun hok hc => (exec_sldh ..).trans (sldh_loads hg hq cls hp sc hok hc),
    fun hok => (exec_stvh ..).trans (stvh_stores hg hq v cls hp hok), fun inv hok hc hkv ht hview hs =>
      ⟨_, (exec_ldvm ..).trans (ldvm_loads hg hq v cls hp hok hc hkv ht), fun i hi => ?_⟩⟩
  have at_lane (f : Fin 64 → W32) : lane (Vector.ofFn f) i = f ⟨i, hi⟩ := by simp [lane, vget, hi]
  rw [maskLanes, at_lane]
  have count := tokens_le hs (s.here.regs.rh hn).tstride
  by_cases hin : (s.here.regs.ry o).val.toNat + i <
      (pageBytes (s.here.regs.rh hn).size - 4096) / (64 * 2 ^ (s.here.regs.rh hn).tstride.toNat)
  · obtain ⟨hlo, hlt⟩ := maskSpan_covers (Nat.le_add_right _ i) (Nat.add_lt_add_left hi _) count hin
    rw [getElem?_pageHolds inv.mem ht hview hlt, Nat.add_sub_cancel' hlo]
  · simp [hin]

end Sys2Proof.Machine
end

section

/-! ## What the checks of the accesses answer (R28, R107, R217, R339) -/

namespace Sys2Proof.Machine

section LocalChecks

variable {s : State} {g : Guard} (hg : s.here.enabled g = true) {cl : Cl} {t a : BitVec 5} (cls : BitVec 4) {w : BitVec 2} {off : BitVec 7}

/-- A poisoned result that an access brings at once (R339). -/
theorem poisonedLoad_apply (ht : s.here.plain cl t) (lat : Nat) : poisonedLoad cl t lat s =
    .ok ((), { s with free := s.free + 1 }.elastically (.scalar cl t ⟨Config.freeValue s.free, true⟩) lat) := by
  have plain : ({ s with free := s.free + 1 } : State).here.plain cl t := ht
  have fresh : freshValue s = .ok (Config.freeValue s.free, { s with free := s.free + 1 }) := rfl
  simp only [poisonedLoad, exec_bind, fresh, destT_plain plain, elasticRes_apply, State.elastically]

include hg

/-- The address of an access of a poisoned register is checked for alignment alone (R107, log entry 93). -/
theorem localLoad_poison (hp : (s.here.regs.ry a).poison = true) (ht : s.here.plain cl t)
    (ha : localAddr (s.here.regs.ry a).val (2 ^ w.toNat) off % 2 ^ w.toNat = 0) (signed : Bool) : localLoad g cl t a cls w off signed s =
      .next ({ s with free := s.free + 1 }.elastically (.scalar cl t ⟨Config.freeValue s.free, true⟩) 5) :=
  runSlot_ok hg (by
    simp only [exec_bind, readY_apply, lsAddr_eq, checkAligned_apply, if_pos ha, hp, if_true, poisonedLoad_apply ht])

theorem localLoad_misaligned (ha : localAddr (s.here.regs.ry a).val (2 ^ w.toNat) off % 2 ^ w.toNat ≠ 0) (signed : Bool) :
    localLoad g cl t a cls w off signed s =
      .next (s.takeTrap (bundleTrap 6 .L (localAddr (s.here.regs.ry a).val (2 ^ w.toNat) off % 2 ^ 52))) :=
  runSlot_trap hg (by simp only [exec_bind, readY_apply, lsAddr_eq, checkAligned_apply, if_neg ha])

theorem localLoad_outside (hp : (s.here.regs.ry a).poison = false)
    (ha : localAddr (s.here.regs.ry a).val (2 ^ w.toNat) off % 2 ^ w.toNat = 0)
    (hn : ¬ s.localOk (localAddr (s.here.regs.ry a).val (2 ^ w.toNat) off) (2 ^ w.toNat) (2 ^ w.toNat)) (signed : Bool) :
    localLoad g cl t a cls w off signed s =
      .next (s.takeTrap (bundleTrap 5 .L (localAddr (s.here.regs.ry a).val (2 ^ w.toNat) off % 2 ^ 52))) :=
  runSlot_trap hg (by
    simp only [exec_bind, readY_apply, lsAddr_eq, checkAligned_apply, if_pos ha, hp, Bool.false_eq_true, if_false, checkLocal_outside ha hn])

theorem ldS_fails (ht : s.here.plain cl t) (h : localAddr (s.here.regs.ry a).val (2 ^ w.toNat) off % 2 ^ w.toNat ≠ 0 ∨
      ((s.here.regs.ry a).poison = false ∧ ¬ s.localOk (localAddr (s.here.regs.ry a).val (2 ^ w.toNat) off) (2 ^ w.toNat) (2 ^ w.toNat))) :
    execLdS g cl t a cls w off s = .next (s.elastically (.scalar cl t ⟨0, true⟩) 5) := by
  refine runSlot_ok hg ?_
  by_cases ha : localAddr (s.here.regs.ry a).val (2 ^ w.toNat) off % 2 ^ w.toNat = 0
  · obtain ⟨hp, hn⟩ := h.resolve_left (not_not.2 ha)
    simp [lsAddr_eq, ha, hp, allots_of_not_localOk ha hn, destT_plain ht, State.elastically]
  · simp [lsAddr_eq, ha, destT_plain ht, State.elastically]

theorem ldS_poison (hp : (s.here.regs.ry a).poison = true) (ht : s.here.plain cl t)
    (ha : localAddr (s.here.regs.ry a).val (2 ^ w.toNat) off % 2 ^ w.toNat = 0) : execLdS g cl t a cls w off s =
      .next ({ s with free := s.free + 1 }.elastically (.scalar cl t ⟨Config.freeValue s.free, true⟩) 5) :=
  runSlot_ok hg (by simp [lsAddr_eq, ha, hp, poisonedLoad_apply ht])

theorem st_poison (hp : (s.here.regs.ry a).poison = true) : execSt g cl t a cls w off s = .next (s.takeTrap (bundleTrap 8 .L (32 + a.toNat))) :=
  runSlot_trap hg (by simp [hp, bundleTrap, poisonInfo, Cl.code])

/-- The range of a store that fails the checks. -/
theorem st_range_fails (hp : (s.here.regs.ry a).poison = false) {r : TrapRec}
    (h : checkLocal .L (localAddr (s.here.regs.ry a).val (2 ^ w.toNat) off) (2 ^ w.toNat) (2 ^ w.toNat) s = .error (.trap r)) :
    execSt g cl t a cls w off s = .next (s.takeTrap r) :=
  runSlot_trap hg (by simp only [exec_bind, readY_apply, needReg_apply, hp, Bool.false_eq_true, if_false, lsAddr_eq, h])

theorem st_datum_poison (hp : (s.here.regs.ry a).poison = false) (ht : s.here.plain cl t) (hd : (s.here.scalar cl t).poison = true)
    (hok : s.localOk (localAddr (s.here.regs.ry a).val (2 ^ w.toNat) off) (2 ^ w.toNat) (2 ^ w.toNat)) :
    execSt g cl t a cls w off s = .next (s.takeTrap (bundleTrap 8 .L (poisonInfo cl t))) :=
  runSlot_trap hg (by
    simp only [exec_bind, readY_apply, needReg_apply, hp, Bool.false_eq_true, if_false, lsAddr_eq, checkLocal_ok hok, readT_plain ht, hd, if_true,
      bundleTrap])

end LocalChecks

/-- A poisoned datum by its register's number (R333). -/
theorem datum_number (cl : Cl) (t : BitVec 5) : poisonInfo cl t = (match cl with | .x => t.toNat | .y => 32 + t.toNat) := by
  cases cl <;> simp [poisonInfo, Cl.code]

/-- R28, R107, R339: the first two parts of O14. -/
theorem localScalarChecks (s : State) (g : Guard) (cl : Cl) (t a : BitVec 5) (cls : BitVec 4) (w : BitVec 2) (off : BitVec 7)
    (hg : s.here.enabled g = true) (hp : (s.here.regs.ry a).poison = false) :
    let n := 2 ^ w.toNat
    let addr := localAddr (s.here.regs.ry a).val n off
    (addr % n ≠ 0 →
      exec (.ld g cl t a cls w off) s = .next (s.takeTrap (bundleTrap 6 .L (addr % 2 ^ 52))) ∧
      exec (.st g cl t a cls w off) s = .next (s.takeTrap (bundleTrap 6 .L (addr % 2 ^ 52)))) ∧
    (addr % n = 0 → ¬ s.localOk addr n n →
      exec (.ld g cl t a cls w off) s = .next (s.takeTrap (bundleTrap 5 .L (addr % 2 ^ 52))) ∧
      exec (.st g cl t a cls w off) s = .next (s.takeTrap (bundleTrap 5 .L (addr % 2 ^ 52)))) :=
  ⟨fun ha => ⟨(exec_ld ..).trans (localLoad_misaligned hg cls ha true), (exec_st ..).trans (st_range_fails hg cls hp (checkLocal_misaligned ha _ s))⟩,
    fun ha hn => ⟨(exec_ld ..).trans (localLoad_outside hg cls hp ha hn true), (exec_st ..).trans (st_range_fails hg cls hp (checkLocal_outside ha hn))⟩⟩

section HandleChecks

variable {s : State} {g : Guard} (hg : s.here.enabled g = true) {cl : Cl} {t v o : BitVec 5} {sc hn : BitVec 4} (cls : BitVec 4)
  {w ew : BitVec 2} {disp : BitVec 3} (hp : (s.here.regs.ry o).poison = false)

/-- Why R217 refuses an access of the handle. -/
def State.deniedBy (s : State) (hn : BitVec 4) (o n a : Nat) (isLoad : Bool) (c info : Nat) : Prop :=
  checkHandle hn.toNat (s.here.regs.rh hn) o n a isLoad (!isLoad) false = some (c, info)

include hg hp

theorem handleLoad_fails {off c info : Nat} (hoff : lhOffset (s.here.regs.ry o).val w disp = off)
    (h : s.deniedBy hn off (2 ^ w.toNat) (2 ^ w.toNat) true c info) (form : LoadForm) :
    handleLoad g cl t hn o cls w disp form s = .next (s.takeTrap (bundleTrap c .L info)) := by
  refine runSlot_trap hg ?_
  have h : checkHandle hn.toNat (s.here.regs.rh hn) off (2 ^ w.toNat) (2 ^ w.toNat) true false false = some (c, info) := h
  cases hv : (s.here.regs.rh hn).valid with
  | false =>
    have first : (7, hn.toNat) = (c, info) := by simpa [checkHandle, hv] using h
    obtain ⟨rfl, rfl⟩ := Prod.mk.inj first
    simp [hv, bundleTrap]
  | true => simp only [exec_bind, readY_apply, readH_apply, raiseIf_apply, hv, Bool.not_true, Bool.false_eq_true, if_false, hp, hoff, h, raiseSome_some]

theorem ldhS_fails (ht : s.here.plain cl t) {off c info : Nat} (hoff : lhOffset (s.here.regs.ry o).val w disp = off)
    (h : s.deniedBy hn off (2 ^ w.toNat) (2 ^ w.toNat) true c info) :
    execLdhS g cl t hn o cls w disp s = .next (s.elastically (.scalar cl t ⟨0, true⟩) (s.here.regs.rh hn).poisonLatency) := by
  have h : checkHandle hn.toNat (s.here.regs.rh hn) off (2 ^ w.toNat) (2 ^ w.toNat) true false false = some (c, info) := h
  exact runSlot_ok hg (by
    simp only [exec_bind, readY_apply, readH_apply, Bool.false_eq_true, if_false, hp, hoff, h, destT_plain ht, elasticRes_apply, State.elastically])

end HandleChecks

/-- R53, R217: the third part of O14. -/
theorem handleScalarChecks (s : State) (g : Guard) (cl : Cl) (t : BitVec 5) (hn : BitVec 4) (o : BitVec 5) (cls : BitVec 4) (w : BitVec 2)
    (disp : BitVec 3) (hg : s.here.enabled g = true) (hp : (s.here.regs.ry o).poison = false) (ht : s.here.plain cl t) :
    (s.here.regs.rh hn).fails hn (lhOffset (s.here.regs.ry o).val w disp) (2 ^ w.toNat) (2 ^ w.toNat) true fun c info =>
      exec (.ldh g cl t hn o cls w disp) s = .next (s.takeTrap (bundleTrap c .L info)) ∧
      ∃ lat, exec (.ldhS g cl t hn o cls w disp) s = .next (s.elastically (.scalar cl t ⟨0, true⟩) lat) :=
  fails_of_checkHandle fun _ _ h => ⟨(exec_ldh ..).trans (handleLoad_fails hg cls hp rfl h .sext), _, (exec_ldhS ..).trans (ldhS_fails hg cls hp ht rfl h)⟩

section VectorChecks

variable {s : State} {g : Guard} (hg : s.here.enabled g = true) {k : SlotKind} {a : BitVec 5}

include hg

/-- A slot that begins with a y register that may not be poisoned (R341). -/
theorem runSlot_readYV_poison (hp : (s.here.regs.ry a).poison = true) (f : W64 → Exec Unit) :
    runSlot g (readYV k a >>= f) s = .next (s.takeTrap (bundleTrap 8 k (32 + a.toNat))) :=
  runSlot_trap hg (by simp only [exec_bind, readYV_poison hp])

/-- The checks of an access of 256 bytes of the local window, in their order (R28, R53, R341). -/
theorem runSlot_checkLocal (al : Nat) {n : Nat} (off : BitVec n) (f : W64 → Exec Unit) {body : Exec Unit}
    (hb : body = (readYV k a >>= fun y => checkLocal k (addrOff y 256 off) al 256 >>= fun _ => f y)) :
    ((s.here.regs.ry a).poison = true → runSlot g body s = .next (s.takeTrap (bundleTrap 8 k (32 + a.toNat)))) ∧
    ((s.here.regs.ry a).poison = false → localAddr (s.here.regs.ry a).val 256 off % al ≠ 0 →
      runSlot g body s = .next (s.takeTrap (bundleTrap 6 k (localAddr (s.here.regs.ry a).val 256 off % 2 ^ 52)))) ∧
    ((s.here.regs.ry a).poison = false → localAddr (s.here.regs.ry a).val 256 off % al = 0 →
      ¬ s.localOk (localAddr (s.here.regs.ry a).val 256 off) al 256 →
      runSlot g body s = .next (s.takeTrap (bundleTrap 5 k (localAddr (s.here.regs.ry a).val 256 off % 2 ^ 52)))) := by
  subst hb
  refine ⟨fun hp => runSlot_readYV_poison hg hp _, fun hp ha => runSlot_trap hg ?_, fun hp ha hn => runSlot_trap hg ?_⟩
  · simp only [exec_bind, readYV_ok hp, addrOff_eq, checkLocal_misaligned ha]
  · simp only [exec_bind, readYV_ok hp, addrOff_eq, checkLocal_outside ha hn]

/-- The checks of a V- or S-slot access through a handle, the poison of its offset first (R217, R341, log entry 119). -/
theorem runSlot_checkHandle {o : BitVec 5} {hn : BitVec 4} (at_ : W64 → Nat) (n al : Nat) (isLoad : Bool) (f : W64 → Handle → Exec Unit) {body : Exec Unit}
    (hb : body = (readYV k o >>= fun y => readH hn >>= fun h =>
      raiseSome k (checkHandle hn.toNat h (at_ y) n al isLoad (!isLoad) false) >>= fun _ => f y h)) :
    ((s.here.regs.ry o).poison = true → runSlot g body s = .next (s.takeTrap (bundleTrap 8 k (32 + o.toNat)))) ∧
    ((s.here.regs.ry o).poison = false → (s.here.regs.rh hn).fails hn (at_ (s.here.regs.ry o).val) n al isLoad fun c info =>
      runSlot g body s = .next (s.takeTrap (bundleTrap c k info))) := by
  subst hb
  refine ⟨fun hp => runSlot_readYV_poison hg hp _, fun hp => fails_of_checkHandle fun c info h => runSlot_trap hg ?_⟩
  simp only [exec_bind, readYV_ok hp, readH_apply, h, raiseSome_some]

end VectorChecks

/-! ### Gathers and scatters -/

/-- The address of lane j of a gather or scatter (R152). -/
def laneAt (y : W64) (i : Lanes) (j : Nat) : Nat := (y + (lane i j).setWidth 64).toNat

theorem find_laneAddrs {y : W64} {i : Lanes} {p : Nat → Bool} {j : Nat} (hj : j < 64) (h : p (laneAt y i j) = true)
    (before : ∀ m < j, p (laneAt y i m) = false) : (laneAddrs y i).find? p = some (laneAt y i j) := by
  have first : (List.range 64).find? (p ∘ laneAt y i) = some j :=
    List.find?_range_eq_some.2 ⟨h, List.mem_range.2 hj, fun m hm => by simp [before m hm]⟩
  rw [laneAddrs_eq, ← show laneAt y i = fun j => (y + (lane i j).setWidth 64).toNat from rfl, List.find?_map, first, Option.map_some]

theorem find_laneAddrs_none {y : W64} {i : Lanes} {p : Nat → Bool} (h : ∀ m < 64, p (laneAt y i m) = false) : (laneAddrs y i).find? p = none :=
  List.find?_eq_none.2 (laneAddrs_all fun m hm => by simpa [laneAt] using h m hm)

section Lanes

variable {s : State} {y : W64} {i : Lanes} {n j : Nat} (hj : j < 64)

include hj

theorem checkLanes_misaligned (h : laneAt y i j % n ≠ 0) (before : ∀ m < j, laneAt y i m % n = 0) :
    checkLanes (laneAddrs y i) n s = .error (.trap (bundleTrap 6 .L (laneAt y i j % 2 ^ 52))) := by
  have first := find_laneAddrs (p := fun a => a % n != 0) hj (by simpa using h) fun m hm => by simp [before m hm]
  simp [checkLanes, first, bundleTrap]

theorem checkLanes_outside (ha : ∀ m < 64, laneAt y i m % n = 0) (h : ¬ s.localOk (laneAt y i j) n n)
    (before : ∀ m < j, s.localOk (laneAt y i m) n n) :
    checkLanes (laneAddrs y i) n s = .error (.trap (bundleTrap 5 .L (laneAt y i j % 2 ^ 52))) := by
  have aligned : (laneAddrs y i).find? (fun a => a % n != 0) = none := find_laneAddrs_none fun m hm => by simp [ha m hm]
  have first : (laneAddrs y i).find? (fun a => !s.here.allots a n) = some (laneAt y i j) := find_laneAddrs hj (by simp [allots_of_not_localOk (ha j hj) h]) fun m hm => by
    simp [(allots_iff (ha m (hm.trans hj))).2 (before m hm)]
  simp [checkLanes, aligned, first, bundleTrap]

end Lanes

section GatherChecks

variable {s : State} {g : Guard} (hg : s.here.enabled g = true) {v i a : BitVec 5} {cls : BitVec 4} {ew : BitVec 2} {y : W64}

/-- The checks of a gather or a scatter, of all lanes' alignment before the allotment of any (R152, log entry 94). -/
def LaneChecks (s : State) (a : BitVec 5) (at_ : Nat → Nat) (n : Nat) (traps : Nat → Nat → Prop) : Prop :=
  ((s.here.regs.ry a).poison = true → traps 8 (32 + a.toNat)) ∧
  (∀ j < 64, (s.here.regs.ry a).poison = false → at_ j % n ≠ 0 → (∀ m < j, at_ m % n = 0) → traps 6 (at_ j % 2 ^ 52)) ∧
  (∀ j < 64, (s.here.regs.ry a).poison = false → (∀ m < 64, at_ m % n = 0) → ¬ s.localOk (at_ j) n n → (∀ m < j, s.localOk (at_ m) n n) →
    traps 5 (at_ j % 2 ^ 52))

include hg

theorem runSlot_checkLanes (n : Nat) (f : W64 → Lanes → Exec Unit) {body : Exec Unit}
    (hb : body = (readYV .L a >>= fun y => readV i >>= fun r => checkLanes (laneAddrs y r) n >>= fun _ => f y r)) :
    LaneChecks s a (laneAt (s.here.regs.ry a).val (s.here.regs.rv i)) n fun c info => runSlot g body s = .next (s.takeTrap (bundleTrap c .L info)) := by
  subst hb
  refine ⟨fun hp => runSlot_readYV_poison hg hp _, fun j hj hp ha before => runSlot_trap hg ?_,
    fun j hj hp ha hn before => runSlot_trap hg ?_⟩
  · simp only [exec_bind, readYV_ok hp, readV_apply, checkLanes_misaligned hj ha before]
  · simp only [exec_bind, readYV_ok hp, readV_apply, checkLanes_outside hj ha hn before]

end GatherChecks

section LinkChecks

variable {s : State} {g : Guard} (hg : s.here.enabled g = true) {cl : Cl} {t o : BitVec 5} {hn : BitVec 4} (cls : BitVec 4) {w : BitVec 2} {disp : BitVec 3}

/-- A store through a handle whose offset is not poisoned (R218, R290). -/
theorem raises_store {body : Exec Unit} (hg : s.here.enabled g = true) (hp : (s.here.regs.ry o).poison = false) (at_ : W64 → Nat) (n al : Nat)
    (f : Reg → Handle → Exec Unit)
    (hb : body = (readY o >>= fun y => needReg .L .y o y >>= fun _ => readH hn >>= fun h =>
      raiseSome .L (checkHandle hn.toNat h (at_ y.val) n al false true false) >>= fun _ => f y h)) :
    (s.here.regs.rh hn).fails hn (at_ (s.here.regs.ry o).val) n al false fun c info =>
      runSlot g body s = .next (s.takeTrap (bundleTrap c .L info)) := by
  subst hb
  refine fails_of_checkHandle fun c info h => runSlot_trap hg ?_
  have h : checkHandle hn.toNat (s.here.regs.rh hn) (at_ (s.here.regs.ry o).val) n al false true false = some (c, info) := h
  simp only [exec_bind, readY_apply, needReg_apply, hp, Bool.false_eq_true, if_false, readH_apply, h, raiseSome_some]

include hg

theorem sth_poison (hp : (s.here.regs.ry o).poison = true) : execSth g cl t hn o cls w disp s = .next (s.takeTrap (bundleTrap 8 .L (32 + o.toNat))) :=
  runSlot_trap hg (by simp [hp, bundleTrap, poisonInfo, Cl.code])

theorem stlink_poison (hp : (s.here.regs.ry o).poison = true) : execStlink g t hn o cls s = .next (s.takeTrap (bundleTrap 8 .L (32 + o.toNat))) :=
  runSlot_trap hg (by simp [hp, bundleTrap, poisonInfo, Cl.code])

theorem ldlink_invalid (hv : (s.here.regs.rh hn).valid = false) : execLdlink g t hn o cls s = .next (s.takeTrap (bundleTrap 7 .L hn.toNat)) :=
  runSlot_trap hg (by simp [hv, bundleTrap])

section Unpoisoned

variable (hp : (s.here.regs.ry o).poison = false)

include hp

theorem sth_datum_poison (hok : s.pageOk (s.here.regs.rh hn) (lhOffset (s.here.regs.ry o).val w disp) (2 ^ w.toNat) (2 ^ w.toNat) false)
    (ht : s.here.plain cl t) (hd : (s.here.scalar cl t).poison = true) :
    execSth g cl t hn o cls w disp s = .next (s.takeTrap (bundleTrap 8 .L (poisonInfo cl t))) :=
  runSlot_trap hg (by
    simp only [exec_bind, readY_apply, needReg_apply, hp, Bool.false_eq_true, if_false, readH_apply, checkHandle_store hok, raiseSome_none,
      checkLoft_ok hok, readT_plain ht, hd, if_true, bundleTrap])

theorem ldlink_fails : (s.here.regs.rh hn).fails hn (s.here.regs.ry o).val.toNat 16 16 true fun c info =>
    execLdlink g t hn o cls s = .next (s.takeTrap (bundleTrap c .L info)) := by
  refine fails_of_checkHandle fun c info h => ?_
  have h : checkHandle hn.toNat (s.here.regs.rh hn) (s.here.regs.ry o).val.toNat 16 16 true false false = some (c, info) := h
  cases hv : (s.here.regs.rh hn).valid with
  | false =>
    have first : (7, hn.toNat) = (c, info) := by simpa [checkHandle, hv] using h
    obtain ⟨rfl, rfl⟩ := Prod.mk.inj first
    exact ldlink_invalid hg cls hv
  | true =>
    refine runSlot_trap hg ?_
    simp only [exec_bind, readY_apply, readH_apply, raiseIf_apply, hv, Bool.not_true, Bool.false_eq_true, if_false, hp, h, raiseSome_some]

/-- A link is not loaded from a host page (R290). -/
theorem ldlink_far (hok : s.pageOk (s.here.regs.rh hn) (s.here.regs.ry o).val.toNat 16 16 true) (hc : (s.here.regs.rh hn).lclass ≠ 0)
    (ht : (s.here.regs.rh hn).tgt = 2) :
    execLdlink g t hn o cls s = .next (s.takeTrap (bundleTrap 5 .L ((s.here.regs.ry o).val.toNat % 2 ^ 52))) :=
  runSlot_trap hg (by
    simp only [exec_bind, readY_apply, readH_apply, raiseIf_apply, hok.1, Bool.not_true, Bool.false_eq_true, if_false, hp,
      checkHandle_load hok hc, raiseSome_none, beq_iff_eq, ht, if_true, bundleTrap])

/-- Nor stored there. -/
theorem stlink_far (hok : s.pageOk (s.here.regs.rh hn) (s.here.regs.ry o).val.toNat 16 16 false) (ht : (s.here.regs.rh hn).tgt = 2) :
    execStlink g t hn o cls s = .next (s.takeTrap (bundleTrap 5 .L ((s.here.regs.ry o).val.toNat % 2 ^ 52))) :=
  runSlot_trap hg (by
    simp only [exec_bind, readY_apply, needReg_apply, hp, Bool.false_eq_true, if_false, readH_apply, checkHandle_store hok, raiseSome_none,
      raiseIf_apply, beq_iff_eq, ht, if_true, bundleTrap])

/-- The first poisoned register of a link's pair (R290, R340). -/
theorem stlink_datum_poison {u : BitVec 5} (hok : s.pageOk (s.here.regs.rh hn) (s.here.regs.ry o).val.toNat 16 16 false)
    (ht : (s.here.regs.rh hn).tgt ≠ 2) (hu : (u = t ∧ (s.here.regs.ry t).poison = true) ∨
      (u = t + 1 ∧ (s.here.regs.ry t).poison = false ∧ (s.here.regs.ry (t + 1)).poison = true)) :
    execStlink g t hn o cls s = .next (s.takeTrap (bundleTrap 8 .L (32 + u.toNat))) := by
  refine runSlot_trap hg ?_
  simp only [exec_bind, readY_apply, needReg_apply, hp, Bool.false_eq_true, if_false, readH_apply, checkHandle_store hok, raiseSome_none,
    raiseIf_apply, beq_false_of_ne ht, checkLoft_ok hok, pairNext]
  rcases hu with ⟨rfl, h0⟩ | ⟨rfl, h0, h1⟩
  · simp [h0, bundleTrap, poisonInfo, Cl.code]
  · simp only [h0, h1, Bool.false_eq_true, if_false, if_true, bundleTrap, poisonInfo, Cl.code, Nat.one_mul]

/-- A page without KV has no mask (R228). -/
theorem ldvm_plain_page (v : BitVec 5) (hok : s.pageOk (s.here.regs.rh hn) 0 8 1 true) (hc : (s.here.regs.rh hn).lclass ≠ 0)
    (hkv : (s.here.regs.rh hn).kv = false) :
    execLdvm g v hn o cls s = .next (s.takeTrap (bundleTrap 5 .L ((s.here.regs.ry o).val.toNat % 2 ^ 52))) :=
  runSlot_trap hg (by
    simp only [exec_bind, readYV_ok hp, readH_apply, checkHandle_load hok hc, raiseSome_none, raiseIf_apply, hkv, Bool.not_false, if_true, bundleTrap])

end Unpoisoned

end LinkChecks

/-! ### O14, part by part -/

/-- A scale access begins with the checks of its address (R168). -/
theorem scaleAddr_bind (a : BitVec 5) (off : BitVec 11) (f : Nat → Exec Unit) : (scaleAddr a off >>= f) =
    (readYV .S a >>= fun y => checkLocal .S (addrOff y 256 off) 4 256 >>= fun _ => f (addrOff y 256 off)) := by
  simp [scaleAddr]

/-- R107, R339, R340: what poison does to the scalar accesses of the local window. -/
theorem localScalarPoison (s : State) (g : Guard) (cl : Cl) (t a : BitVec 5) (cls : BitVec 4) (w : BitVec 2) (off : BitVec 7)
    (hg : s.here.enabled g = true) (ht : s.here.plain cl t) :
    let n := 2 ^ w.toNat
    let addr := localAddr (s.here.regs.ry a).val n off
    let unstated : Host.Outcome State Fault Refusal :=
      .next ({ s with free := s.free + 1 }.elastically (.scalar cl t ⟨Config.freeValue s.free, true⟩) 5)
    ((s.here.regs.ry a).poison = false → ¬ s.localOk addr n n →
      exec (.ldS g cl t a cls w off) s = .next (s.elastically (.scalar cl t ⟨0, true⟩) 5)) ∧
    ((s.here.regs.ry a).poison = true →
      let crooked : Host.Outcome State Fault Refusal := .next (s.takeTrap (bundleTrap 6 .L (addr % 2 ^ 52)))
      (addr % n = 0 →
        exec (.ld g cl t a cls w off) s = unstated ∧ exec (.ldz g cl t a cls w off) s = unstated ∧ exec (.ldS g cl t a cls w off) s = unstated) ∧
      (addr % n ≠ 0 →
        exec (.ld g cl t a cls w off) s = crooked ∧ exec (.ldz g cl t a cls w off) s = crooked ∧
        exec (.ldS g cl t a cls w off) s = .next (s.elastically (.scalar cl t ⟨0, true⟩) 5)) ∧
      exec (.st g cl t a cls w off) s = .next (s.takeTrap (bundleTrap 8 .L (32 + a.toNat)))) := by
  refine ⟨fun hp hn => (exec_ldS ..).trans (ldS_fails hg cls ht (.inr ⟨hp, hn⟩)), fun hp => ⟨fun ha => ?_, fun ha => ?_,
    (exec_st ..).trans (st_poison hg cls hp)⟩⟩
  · exact ⟨(exec_ld ..).trans (localLoad_poison hg cls hp ht ha true), (exec_ldz ..).trans (localLoad_poison hg cls hp ht ha false),
      (exec_ldS ..).trans (ldS_poison hg cls hp ht ha)⟩
  · exact ⟨(exec_ld ..).trans (localLoad_misaligned hg cls ha true), (exec_ldz ..).trans (localLoad_misaligned hg cls ha false),
      (exec_ldS ..).trans (ldS_fails hg cls ht (.inl ha))⟩

/-- Settles O14. -/
theorem accessChecks : Obligations.AccessChecks := by
  unfold Obligations.AccessChecks
  refine ⟨⟨localScalarChecks, localScalarPoison⟩, fun s g cl t hn o cls w disp hg hp ht => ?_, fun s g cl t v i a sc cls w ew off voff soff hg => ?_,
    fun s g cl t v sc hn o cls w ew disp hg => ?_⟩
  · obtain ⟨invalid, denied, misaligned, beyond⟩ := handleScalarChecks s g cl t hn o cls w disp hg hp ht
    rw [lhOffset_eq] at denied misaligned beyond
    refine ⟨invalid, fun hv h => denied hv ?_, fun hv hr hc => ⟨misaligned hv ⟨hr, hc⟩, beyond hv ⟨hr, hc⟩⟩⟩
    rintro ⟨hr, hc⟩
    exact h.elim (fun h => Bool.false_ne_true (h.symm.trans hr)) hc
  · refine ⟨runSlot_checkLocal hg _ voff _ rfl, runSlot_checkLocal hg _ voff _ rfl, ?_, ?_, fun hp => runSlot_readYV_poison hg hp _,
      runSlot_checkLanes hg _ _ rfl, runSlot_checkLanes hg _ _ rfl, fun ht hp hok hd => ?_⟩
    · exact runSlot_checkLocal hg 4 soff _ (scaleAddr_bind ..)
    · exact runSlot_checkLocal hg 4 soff _ (scaleAddr_bind ..)
    · have stop := (exec_st ..).trans (st_datum_poison hg cls hp ht hd hok)
      rw [datum_number] at stop
      exact stop
  · refine ⟨runSlot_checkHandle hg BitVec.toNat 256 _ true _ rfl, runSlot_checkHandle hg BitVec.toNat 256 _ false _ rfl,
      runSlot_checkHandle hg BitVec.toNat 256 4 true _ rfl, ⟨sth_poison hg cls, fun hp => ?_⟩,
      ⟨stlink_poison hg cls, fun hp => raises_store hg hp BitVec.toNat 16 16 _ rfl⟩, runSlot_checkHandle hg (fun _ => 0) 8 1 true _ rfl,
      fun hp hok hc hkv => ldvm_plain_page hg cls hp v hok hc hkv, ldlink_invalid hg cls, ldlink_fails hg cls,
      fun hp hok hc ht => ldlink_far hg cls hp hok hc ht, fun hp hok ht => stlink_far hg cls hp hok ht, fun hp hok ht hd => ?_,
      fun hp hok ht => ⟨fun h0 => stlink_datum_poison hg cls hp hok ht (.inl ⟨rfl, h0⟩),
        fun h0 h1 => stlink_datum_poison hg cls hp hok ht (.inr ⟨rfl, h0, h1⟩)⟩⟩
    · rw [← lhOffset_eq]
      exact raises_store hg hp (fun y => lhOffset y w disp) _ _ _ rfl
    · have stop := sth_datum_poison hg cls hp (by rwa [lhOffset_eq]) ht hd
      rw [datum_number] at stop
      exact stop

end Sys2Proof.Machine
end

section
/-!
O20, O21. Queued loads, the loads that a later access passes, and the fences.
-/

namespace Sys2Proof.Machine

/-! ### ldq and qpop (R221) -/

theorem vset_eq_set {α : Type} {n : Nat} (v : Vector α n) {i : Nat} (h : i < n) (a : α) : vset v i a = v.set i a h := by
  ext1
  simp [vset, Vector.getElem_setIfInBounds, Vector.getElem_set]

section QueuedArms

variable (s : State) (g : Guard) (cl : Cl) (t : BitVec 5) (q w : BitVec 2) (hn cls : BitVec 4) (o : BitVec 5) (mask : BitVec 16) (scope : BitVec 4)

theorem exec_ldq : exec (.ldq g q hn o cls w) s = execLdq g q hn o cls w s := rfl
theorem exec_qpop : exec (.qpop g cl t q) s = execQpop g cl t q s := rfl
theorem exec_fenceC : exec (.fenceC g mask scope) s = fence g mask scope false s := rfl
theorem exec_fenceBank : exec (.fenceBank g mask scope) s = fence g mask scope true s := rfl

end QueuedArms

section Queued

variable {s : State} {g : Guard} (hg : s.here.enabled g = true) {cl : Cl} {t o : BitVec 5} {q w : BitVec 2} {hn : BitVec 4} (cls : BitVec 4)

/-- A queued load makes the checks of R217 but for its class (R221). -/
theorem checkHandle_queued {h : Handle} {off n a : Nat} (hok : s.pageOk h off n a true) (k : Nat) : checkHandle k h off n a true false true = none := by
  obtain ⟨hv, hp, ha, hs, -⟩ := hok
  have hread : h.r = true := hp
  simp [checkHandle, hv, hread, ha, Nat.not_lt.2 hs]

theorem unanswered_iff (s : State) (c : Nat) (h : Handle) (o n : Nat) :
    s.unanswered c h o n = true ↔ s.refuses c h o n = true ∨ (h.tgt = 1 ∧ s.lostPlane h o n (s.ctx c).sr.tenant true ≠ none) := by
  simp [State.unanswered, Option.isSome_iff_ne_none]

theorem unanswered_false {h : Handle} {off n a : Nat} (hok : s.pageOk h off n a true) : s.unanswered s.cur h off n = false := by
  rw [Bool.eq_false_iff, ne_eq, unanswered_iff, refuses_false hok]
  obtain ⟨-, -, -, -, hl⟩ := hok
  rintro (h | ⟨ht, h⟩)
  · cases h
  · exact h (hl ht).1

include hg

theorem ldq_appends (hq : s.Quiet) (hp : (s.here.regs.ry o).poison = false)
    (hok : s.pageOk (s.here.regs.rh hn) (s.here.regs.ry o).val.toNat (2 ^ w.toNat) (2 ^ w.toNat) true) (hl : (s.here.queue q).length < 16) :
    execLdq g q hn o cls w s = .next (s.setHere { s.here with
      q := s.here.q.set q.toNat (s.here.queue q ++ [⟨s.here.nextId, cls, s.here.sr.acyc.toNat, w, s.here.regs.rh hn, (s.here.regs.ry o).val.toNat,
        loaded true (s.pageHolds (s.here.regs.rh hn) (s.here.regs.ry o).val.toNat (2 ^ w.toNat)), false, false, none, false, false⟩]) q.isLt
      nextId := s.here.nextId + 1 }) :=
  runSlot_ok hg (by
    simp only [exec_bind, getHere_apply, stopIf_apply, decide_eq_true_eq, if_neg (Nat.not_le.2 hl), readY_apply, readH_apply, hp, Bool.false_eq_true,
      if_false, checkHandle_queued hok, raiseSome_none, loadHandle_quiet hq, exec_get, unanswered_false hok, exec_pure, setHere_apply,
      vset_eq_set _ q.isLt])

theorem ldq_full (hl : 16 ≤ (s.here.queue q).length) : execLdq g q hn o cls w s = .next (s.block .nothing) :=
  runSlot_block hg (by simp only [exec_bind, getHere_apply, stopIf_apply, ge_iff_le, hl, decide_true, if_true])

theorem qpop_empty (hl : s.here.queue q = []) : execQpop g cl t q s = .next (s.takeTrap (bundleTrap 19 .L 1)) :=
  runSlot_trap hg (by simp [hl, bundleTrap])

variable {e : QEntry} {es : List QEntry} (hl : s.here.queue q = e :: es)

include hl

theorem qpop_takes (ht : s.here.plain cl t) (ha : e.arrived = true) (hf : e.failed = none) :
    execQpop g cl t q s = .next ((s.exactly (.scalar cl t ⟨e.val, e.poison⟩) 1).setHere
      { (s.exactly (.scalar cl t ⟨e.val, e.poison⟩) 1).here with q := s.here.q.set q.toNat es q.isLt }) := by
  have kept : (s.exactly (.scalar cl t ⟨e.val, e.poison⟩) 1).here.q = s.here.q := by simp [State.exactly]
  rw [← kept, ← vset_eq_set _ q.isLt]
  refine runSlot_ok hg ?_
  simp only [exec_bind, getHere_apply, hl, stopIf_apply, ha, Bool.not_true, Bool.false_eq_true, if_false, hf, destT_plain ht, exact_apply,
    setHere_apply, State.exactly]

theorem qpop_waits (ha : e.arrived = false) : execQpop g cl t q s = .next (s.block .nothing) :=
  runSlot_block hg (by simp only [exec_bind, getHere_apply, hl, stopIf_apply, ha, Bool.not_false, if_true])

theorem qpop_fails {c : Nat} {info : W64} (ha : e.arrived = true) (hf : e.failed = some (c, info)) :
    execQpop g cl t q s = .next (s.takeTrap { bundleTrap c .L info.toNat with met := some (.entry e.id) }) :=
  runSlot_trap hg (by simp [hl, ha, hf, bundleTrap])

end Queued

/-! ### What a later access fixes (R231, R318) -/

section Passed

variable {s : State} {c : Nat} {p : Passing}

/-- Whether the access passes a load of these bytes (R231, R236). -/
theorem hits_iff {cls : BitVec 4} {r : Nat × Nat} :
    p.hits cls r = true ↔ p.mask.getLsbD cls.toNat = true ∨ ∃ b ∈ p.spans, b.1 < r.1 + r.2 ∧ r.1 < b.1 + b.2 := by
  simp [Passing.hits, spanMeets]

theorem afterLoad_unscripted (hs : s.scripted = false) (h : Handle) (o n : Nat) : s.afterLoad c h o n = s := by
  simp [State.afterLoad, hs]

theorem bytesNow_eq (s : State) (c : Nat) (h : Handle) (o n : Nat) : s.bytesNow c h o n =
    if s.refuses c h o n = true ∨ (h.tgt = 1 ∧ s.lostPlane h o n (s.ctx c).sr.tenant true ≠ none) then List.replicate n 0
    else s.loadBytes c h o n := by
  simp only [State.bytesNow, unanswered_iff]

/-- The queues of a context of which one alone holds something. -/
theorem entries_single {q : Vector (List QEntry) 4} {e : QEntry} {i : Fin 4} (h : ∀ l : Fin 4, q[l] = if l = i then [e] else []) :
    (q.toList.flatMap fun l => l) = [e] := by
  have listed : q.toList = (List.finRange 4).map fun l => q[l] := by
    apply List.ext_getElem <;> simp
  rw [listed, List.map_congr_left fun l _ => h l]
  fin_cases i <;> rfl

theorem setEntry_single {k : Ctx} {e : QEntry} {i : Fin 4} (h : ∀ l : Fin 4, k.q[l] = if l = i then [e] else []) (f : QEntry → QEntry) :
    k.setEntry e.id f = { k with q := k.q.set i [f e] } := by
  have queues : (k.q.map fun l => l.map fun x => if x.id = e.id then f x else x) = k.q.set i [f e] := by
    ext1 j hj
    have at_j := h ⟨j, hj⟩
    rw [Fin.getElem_fin] at at_j
    rw [Vector.getElem_map, Vector.getElem_set, at_j]
    by_cases hi : i.val = j
    · simp [Fin.ext_iff, hi]
    · simp [Fin.ext_iff, hi, Ne.symm hi]
  rw [Ctx.setEntry, queues]

theorem pin_entry {e : QEntry} {i : Fin 4} (hs : s.scripted = false) (hc : (s.ctx c).captured = [])
    (hq : ∀ l : Fin 4, (s.ctx c).q[l] = if l = i then [e] else []) :
    let n := 2 ^ e.width.toNat
    let passed : Prop := e.failed ≠ none ∧ e.handle.tgt ≠ 0 ∧ e.fixed = false ∧ p.hits e.cls (s.loadSpan c e.handle e.off n) = true
    (¬ passed → s.pin c p = s) ∧
    (passed → s.tearsLoad c e.handle e.off n = false → s.pin c p = s.setCtx c { s.ctx c with
      q := (s.ctx c).q.set i [{ e with val := loaded true (s.bytesNow c e.handle e.off n), fixed := true }] }) := by
  intro n passed
  have listed : s.pin c p = ([e].filter fun e => e.failed.isSome && e.unfixed && p.hits e.cls (s.loadSpan c e.handle e.off (2 ^ e.width.toNat))).foldl
      (fun t e => t.pinEntry c e) s := by
    simp only [State.pin, hc, List.filter_nil, List.foldl_nil, entries_single hq]
  have test : (e.failed.isSome && e.unfixed && p.hits e.cls (s.loadSpan c e.handle e.off (2 ^ e.width.toNat))) = true ↔ passed := by
    simp only [passed, QEntry.unfixed, Bool.and_eq_true, Option.isSome_iff_ne_none, bne_iff_ne, Bool.not_eq_true', Bool.or_eq_true]
    tauto
  refine ⟨fun h => ?_, fun h ht => ?_⟩
  · rw [listed, List.filter_singleton, Bool.eq_false_iff.2 (mt test.1 h)]
    rfl
  · have ht : s.tearsLoad c e.handle e.off (2 ^ e.width.toNat) = false := ht
    rw [listed, List.filter_singleton, test.2 h]
    simp only [cond_true, List.foldl_cons, List.foldl_nil, State.pinEntry, if_neg (Bool.eq_false_iff.1 ht), afterLoad_unscripted hs]
    rw [setEntry_single hq]

/-- The results that a trap has captured, where no interrupt has. -/
theorem mapCaptured_trap {k : Ctx} {sv : Saved} (ht : k.trapRet = some sv) (hu : k.uiRet = none) (g : Flight → Flight) :
    k.mapCaptured g = { k with trapRet := some { sv with flight := sv.flight.map g } } := by
  cases k
  dsimp only at ht hu
  subst ht hu
  rfl

theorem pin_flight {f : Flight} {sv : Saved} {cls : BitVec 4} {cyc o n q : Nat} {h : Handle} {form : LoadForm} (hs : s.scripted = false)
    (hq : ∀ l : Fin 4, (s.ctx c).q[l] = []) (hu : (s.ctx c).uiRet = none) (htr : (s.ctx c).trapRet = some sv) (hfl : sv.flight = [f])
    (hr : f.redo = some (.load cls cyc h o n q form)) (hform : form ≠ .link) :
    let passed : Prop := f.arrived = false ∧ f.fixed = false ∧ p.hits cls (s.loadSpan c h o n) = true
    (¬ passed → s.pin c p = s) ∧
    (passed → s.tearsLoad c h o n = false → s.pin c p = s.setCtx c { s.ctx c with trapRet := some { sv with flight := [{ f with
      res := if f.again = true ∨ s.unanswered c h o n = true then f.res.fill form h q (s.bytesNow c h o n) else f.res, fixed := true }] } }) := by
  intro passed
  have captured : (s.ctx c).captured = [f] := by simp [Ctx.captured, htr, hu, hfl]
  have entries : ((s.ctx c).q.toList.flatMap fun l => l) = [] := by
    rw [List.flatMap_eq_nil_iff]
    intro l hl
    obtain ⟨j, hj, rfl⟩ := List.getElem_of_mem hl
    exact hq ⟨j, by simpa using hj⟩
  have listed : s.pin c p = ([f].filter fun f => f.unfixed && f.redo.any fun r => (s.redoSpan c r).any (p.hits r.cls)).foldl
      (fun t f => t.pinFlight c f) s := by
    simp only [State.pin, captured, entries, List.filter_nil, List.foldl_nil]
  have test : (f.unfixed && f.redo.any fun r => (s.redoSpan c r).any (p.hits r.cls)) = true ↔ passed := by
    simp [passed, Flight.unfixed, hr, State.redoSpan, Redo.cls, and_assoc]
  refine ⟨fun h => ?_, fun h ht => ?_⟩
  · rw [listed, List.filter_singleton, Bool.eq_false_iff.2 (mt test.1 h)]
    rfl
  · rw [listed, List.filter_singleton, test.2 h]
    simp only [cond_true, List.foldl_cons, List.foldl_nil, State.pinFlight, hr, if_neg (Bool.eq_false_iff.1 ht), afterLoad_unscripted hs, ite_self]
    rw [mapCaptured_trap htr hu, hfl]
    simp [Flight.fixBy, LoadForm.results, LoadForm.bring, hform, hr]

end Passed

/-- Settles O20. -/
theorem queuedLoads : Obligations.QueuedLoads := by
  unfold Obligations.QueuedLoads
  refine ⟨fun s g cl t q hn o cls w hg hq => ⟨fun hp hok hl => ⟨_, (exec_ldq ..).trans (ldq_appends hg cls hq hp hok hl), ?_, rfl, rfl, rfl, rfl⟩,
      fun hl => (exec_ldq ..).trans (ldq_full hg cls hl), fun hl => (exec_qpop ..).trans (qpop_empty hg hl),
      fun e es hl ht => ⟨fun ha hf => (exec_qpop ..).trans (qpop_takes hg hl ht ha hf), fun ha => (exec_qpop ..).trans (qpop_waits hg hl ha),
        fun c info ha hf => (exec_qpop ..).trans (qpop_fails hg hl ha hf)⟩⟩,
    fun s c p hs => ⟨fun e i hc hq => ?_, fun f sv cls cyc h o n q form hq hu htr hfl hr hform => ?_⟩⟩
  · simp only [loaded_true, length_pageHolds]
  · obtain ⟨kept, fixed⟩ := pin_entry (p := p) hs hc hq
    rw [hits_iff] at kept fixed
    rw [bytesNow_eq] at fixed
    exact ⟨kept, fixed⟩
  · obtain ⟨kept, fixed⟩ := pin_flight (p := p) hs hq hu htr hfl hr hform
    rw [hits_iff] at kept fixed
    simp only [bytesNow_eq, unanswered_iff] at fixed
    exact ⟨kept, fixed⟩

/-! ### Fences (R234, R235, R285) -/

theorem lateIn_iff (k : Ctx) (mask : BitVec 16) : k.lateIn mask = true ↔ ∃ n < 16, mask.getLsbD n = true ∧ k.late (BitVec.ofNat 4 n) = true := by
  simp [Ctx.lateIn]

/-- The commands of a class: in class 0 also the M commands with operands in the scratchpad (R239, R243). -/
theorem mem_classCmds (s : State) (c : Nat) (cls : BitVec 4) (i : Nat) : i ∈ s.classCmds c cls ↔
    (cls = 0 ∧ ∃ m ∈ s.mcmds, m.ctx = c ∧ m.op.touches = true ∧ m.id = i) ∨ ∃ e ∈ s.ecmds, e.ctx = c ∧ e.toAccess = some cls ∧ e.id = i := by
  by_cases h : cls = 0#4 <;> simp [State.classCmds, h, and_assoc]

/-- The commands that a fence waits for (R239, R243, R285). -/
theorem mem_fenceCmds (s : State) (mask : BitVec 16) (bank : Bool) (i : Nat) : i ∈ s.fenceCmds mask bank ↔
    ((mask.getLsbD 0 = true ∧ ∃ c ∈ s.mcmds, c.ctx = s.cur ∧ c.op.touches = true ∧ c.id = i) ∨
      (∃ n < 16, mask.getLsbD n = true ∧ ∃ c ∈ s.ecmds, c.ctx = s.cur ∧ c.toAccess = some (BitVec.ofNat 4 n) ∧ c.id = i)) ∨
    (bank = true ∧ ∃ c ∈ s.ecmds, c.ctx = s.cur ∧ c.eng = .bank ∧ c.id = i) := by
  have class0 (n : Nat) (hn : n < 16) : BitVec.ofNat 4 n = 0 ↔ n = 0 := by
    rw [← BitVec.toNat_inj, BitVec.toNat_ofNat, Nat.mod_eq_of_lt hn]
    rfl
  have classes : i ∈ ((List.range 16).filter mask.getLsbD).flatMap (fun n => s.classCmds s.cur (BitVec.ofNat 4 n)) ↔
      (mask.getLsbD 0 = true ∧ ∃ c ∈ s.mcmds, c.ctx = s.cur ∧ c.op.touches = true ∧ c.id = i) ∨
      (∃ n < 16, mask.getLsbD n = true ∧ ∃ c ∈ s.ecmds, c.ctx = s.cur ∧ c.toAccess = some (BitVec.ofNat 4 n) ∧ c.id = i) := by
    simp only [List.mem_flatMap, List.mem_filter, List.mem_range, mem_classCmds]
    constructor
    · rintro ⟨n, ⟨hn, hm⟩, ⟨h0, hc⟩ | hc⟩
      · rw [class0 n hn] at h0
        exact .inl ⟨h0 ▸ hm, hc⟩
      · exact .inr ⟨n, hn, hm, hc⟩
    · rintro (⟨hm, hc⟩ | ⟨n, hn, hm, hc⟩)
      · exact ⟨0, ⟨by decide, hm⟩, .inl ⟨rfl, hc⟩⟩
      · exact ⟨n, ⟨hn, hm⟩, .inr hc⟩
  have banks : i ∈ (if bank then (s.ecmds.filter fun c => c.ctx == s.cur && c.eng == .bank).map ECmd.id else []) ↔
      bank = true ∧ ∃ c ∈ s.ecmds, c.ctx = s.cur ∧ c.eng = .bank ∧ c.id = i := by
    cases bank <;> simp [and_assoc]
  rw [State.fenceCmds, List.mem_append, classes, banks]

/-- The device with a fence behind the context's outstanding stores, where anything is outstanding. -/
def State.fenced (s : State) (mask : BitVec 16) (scope : BitVec 4) (cs : List Nat) : State :=
  if s.here.stores = [] ∧ cs = [] then s else s.setHere { s.here with stores := s.here.stores ++ [.fence mask scope cs] }

section Fence

variable {s : State} {g : Guard} (hg : s.here.enabled g = true) {mask : BitVec 16} (scope : BitVec 4) (bank : Bool)

include hg

theorem fence_waits (h : ∃ n < 16, mask.getLsbD n = true ∧ s.here.late (BitVec.ofNat 4 n) = true) :
    fence g mask scope bank s = .next (s.freezePast ⟨mask, []⟩) :=
  runSlot_stop (e := .freezePast ⟨mask, []⟩) hg (by simp only [exec_bind, getHere_apply, stopIf_apply, (lateIn_iff _ mask).2 h, if_true])

theorem fence_stands (h : ∀ n < 16, mask.getLsbD n = true → s.here.late (BitVec.ofNat 4 n) = false) :
    fence g mask scope bank s = .next (let t := s.fenced mask scope (s.fenceCmds mask bank)
      if 2 ≤ scope.toNat then { t with lines := t.lines.filter fun p => p.1 != coreOf s.cur } else t) := by
  have idle : s.here.lateIn mask = false := by
    rw [Bool.eq_false_iff, ne_eq, lateIn_iff]
    rintro ⟨n, hn, hm, hl⟩
    rw [h n hn hm] at hl
    cases hl
  refine runSlot_ok hg ?_
  simp only [exec_bind, getHere_apply, stopIf_apply, idle, Bool.false_eq_true, if_false, exec_modify, State.fenced, Bool.and_eq_true,
    List.isEmpty_iff, State.dropCore]

end Fence

/-- Settles O21. -/
theorem fences : Obligations.Fences := by
  unfold Obligations.Fences
  intro s g mask scope hg
  refine ⟨fun h => ⟨(exec_fenceC ..).trans (fence_waits hg scope false h), (exec_fenceBank ..).trans (fence_waits hg scope true h)⟩,
    fun h => ⟨⟨s.fenceCmds mask false, (exec_fenceC ..).trans (fence_stands hg scope false h), fun i => ?_⟩,
      ⟨s.fenceCmds mask true, (exec_fenceBank ..).trans (fence_stands hg scope true h), fun i => ?_⟩⟩⟩
  · simp [mem_fenceCmds]
  · simp [mem_fenceCmds]

end Sys2Proof.Machine
end

section
/-!
O22, O25. Lane arithmetic on the integer formats, and the compares.
-/

namespace Sys2Proof.Machine

/-! ### The meanings of the lane arithmetic -/

section LaneArms

variable (g : Guard) (d a b : BitVec 5) (pd : BitVec 4) (cc : VCond) (f : Fmt) (rnd : BitVec 3) (sub : Bool) (s : State)

theorem exec_vadd : exec (.vadd g d a b f rnd) s = execVadd g d a b f rnd s := rfl
theorem exec_vsub : exec (.vsub g d a b f rnd) s = execVsub g d a b f rnd s := rfl
theorem exec_vmul : exec (.vmul g d a b f rnd) s = execVmul g d a b f rnd s := rfl
theorem exec_vfma : exec (.vfma g d a b f rnd) s = execVfma g d a b f rnd s := rfl
theorem exec_vfms : exec (.vfms g d a b f rnd) s = execVfms g d a b f rnd s := rfl
theorem exec_vabs : exec (.vabs g d a f rnd) s = execVabs g d a f rnd s := rfl
theorem exec_vneg : exec (.vneg g d a f rnd) s = execVneg g d a f rnd s := rfl
theorem exec_vmin : exec (.vmin g d a b f sub) s = execVmin g d a b f sub s := rfl
theorem exec_vmax : exec (.vmax g d a b f sub) s = execVmax g d a b f sub s := rfl
theorem exec_vshl : exec (.vshl g d a b f) s = execVshl g d a b f s := rfl
theorem exec_vshr : exec (.vshr g d a b f) s = execVshr g d a b f s := rfl
theorem exec_vsra : exec (.vsra g d a b f) s = execVsra g d a b f s := rfl
theorem exec_vclz : exec (.vclz g d a f) s = execVclz g d a f s := rfl
theorem exec_vpopc : exec (.vpopc g d a f) s = execVpopc g d a f s := rfl
theorem exec_vcmp : exec (.vcmp g pd a b cc f) s = execVcmp g pd a b cc f s := rfl

end LaneArms

/-! ### Elements of an integer format (R111, R130) -/

section IntegerFormats

variable {f : Fmt} (hf : fmtIn f)

include hf

theorem isInt_of_fmtIn : f.isInt = true := by rcases hf with rfl | rfl | rfl <;> rfl

theorem isFloat_of_fmtIn : f.isFloat = false := by rcases hf with rfl | rfl | rfl <;> rfl

theorem width_pos_of_fmtIn : 0 < f.width := by rcases hf with rfl | rfl | rfl <;> decide

theorem width_le_of_fmtIn : f.width ≤ 32 := by rcases hf with rfl | rfl | rfl <;> decide

/-- R130: a code in lane form is sign-extended. -/
theorem laneOf_int (c : Nat) : laneOf f c = (BitVec.ofNat f.width c).signExtend 32 := by
  rw [laneOf, isFloat_of_fmtIn hf, if_neg Bool.false_ne_true, ofNat_wrapTo, signedOf_eq_toInt]
  rfl

end IntegerFormats

theorem ofNat_lane (n : Nat) (v : Lanes) (j : Nat) : BitVec.ofNat n (code v j) = (lane v j).setWidth n := BitVec.ofNat_toNat ..

theorem signedOf_code (n : Nat) (v : Lanes) (j : Nat) : signedOf n (code v j) = intLane n v j := by
  rw [signedOf_eq_toInt, ofNat_lane, intLane]

theorem ofNat_mod_two_pow (n c : Nat) : BitVec.ofNat n (c % 2 ^ n) = BitVec.ofNat n c :=
  BitVec.eq_of_toNat_eq (by simp)

/-! ### Results that are wrapped or clamped (R119, R136) -/

/-- What stands between the bounds of n bits is its own code. -/
theorem toInt_wrapTo {n : Nat} (hn : 0 < n) {v : Int} (hlo : -(2 ^ (n - 1)) ≤ v) (hhi : v < 2 ^ (n - 1)) : (BitVec.ofNat n (wrapTo n v)).toInt = v := by
  rw [ofNat_wrapTo, BitVec.toInt_ofInt_eq_self hn hlo hhi]

theorem toInt_intResult {n : Nat} (hn : 0 < n) (rnd : BitVec 3) (v : Int) : (BitVec.ofNat n (intResult n rnd v).1).toInt = fitInt n rnd v := by
  have pos : (0 : Int) < 2 ^ (n - 1) := by positivity
  unfold intResult fitInt
  cases rnd.getLsbD 2 with
  | false => simp [ofNat_wrapTo]
  | true =>
    simp only [if_true, clampInt]
    split
    case isTrue h => rw [toInt_wrapTo hn (le_refl _) (by omega)]; omega
    case isFalse h =>
      split
      case isTrue h' => rw [toInt_wrapTo hn (by omega) (by omega)]; omega
      case isFalse h' => rw [toInt_wrapTo hn (by omega) (by omega)]; omega

theorem event_intResult (n : Nat) (rnd : BitVec 3) (v : Int) : (intResult n rnd v).2 = fitEvent n rnd v := by
  unfold intResult fitEvent
  cases rnd.getLsbD 2 with
  | false => simp
  | true =>
    simp only [if_true, clampInt, true_and]
    split
    case isTrue h => exact (if_pos (.inl h)).symm
    case isFalse h =>
      split
      case isTrue h' => exact (if_pos (.inr (Int.sub_one_lt_iff.1 h'))).symm
      case isFalse h' => exact (if_neg (not_or.2 ⟨h, fun h'' => h' (Int.sub_one_lt_iff.2 h'')⟩)).symm

theorem inLane_intResult {f : Fmt} (hf : fmtIn f) (rnd : BitVec 3) (v : Int) :
    inLane f (intResult f.width rnd v) = (BitVec.ofInt 32 (fitInt f.width rnd v), fitEvent f.width rnd v) := by
  rw [inLane, laneOf_int hf, event_intResult, BitVec.signExtend, toInt_intResult (width_pos_of_fmtIn hf)]

theorem arith_int {f : Fmt} (hf : fmtIn f) (rnd : BitVec 3) (v : Int) (vf : Num) (fresh : Bool) :
    arith f rnd v vf fresh = (BitVec.ofInt 32 (fitInt f.width rnd v), fitEvent f.width rnd v) := by
  rw [arith, isInt_of_fmtIn hf, if_pos rfl, inLane_intResult hf]

/-! ### The smaller and the larger (R137) -/

/-- The choice between two by which of them is the lower. -/
theorem pick_extreme {α : Type} [LinearOrder α] (big : Bool) (a b : α) [Decidable (a ≤ b)] :
    (if (decide (a ≤ b) == big) = true then b else a) = if big then max a b else min a b := by
  by_cases h : a ≤ b
  · cases big <;> simp [h]
  · cases big <;> simp [h, le_of_not_ge h]

section Extremes

variable {f : Fmt} (hf : fmtIn f) (va vb : Lanes) (j : Nat)

include hf

theorem laneOf_minMax_signed (big : Bool) : laneOf f (minMax f big false (code va j) (code vb j)) =
    BitVec.ofInt 32 (if big then max (intLane f.width va j) (intLane f.width vb j) else min (intLane f.width va j) (intLane f.width vb j)) := by
  have chosen (v : Lanes) : laneOf f (code v j % 2 ^ f.width) = BitVec.ofInt 32 (intLane f.width v j) := by
    rw [laneOf_int hf, ofNat_mod_two_pow, ofNat_lane]
    rfl
  have value (v : Lanes) : signedOf f.width (code v j % 2 ^ f.width) = intLane f.width v j := by
    rw [signedOf_eq_toInt, ofNat_mod_two_pow, ofNat_lane, intLane]
  simp only [minMax, isInt_of_fmtIn hf, if_true, Bool.false_eq_true, if_false, value, apply_ite (laneOf f), chosen]
  rw [← pick_extreme, apply_ite (BitVec.ofInt 32)]

theorem laneOf_minMax_unsigned (big : Bool) : laneOf f (minMax f big true (code va j) (code vb j)) =
    (BitVec.ofNat f.width (if big then max ((lane va j).setWidth f.width).toNat ((lane vb j).setWidth f.width).toNat
      else min ((lane va j).setWidth f.width).toNat ((lane vb j).setWidth f.width).toNat)).signExtend 32 := by
  have value (v : Lanes) : code v j % 2 ^ f.width = ((lane v j).setWidth f.width).toNat := (BitVec.toNat_setWidth ..).symm
  simp only [minMax, isInt_of_fmtIn hf, if_true, value, laneOf_int hf, pick_extreme]

end Extremes

/-! ### Shifts and counts (R139) -/

section Shifts

variable (n : Nat)

theorem ofNat_laneShl (a c : Nat) : BitVec.ofNat n (laneShl n a c) = BitVec.ofNat n a <<< c := by
  apply BitVec.eq_of_toNat_eq
  rw [laneShl]
  split
  case isTrue h => simp [BitVec.shiftLeft_eq_zero h]
  case isFalse h => simp [Nat.shiftLeft_eq, Nat.mul_mod]

theorem ofNat_laneShr (a c : Nat) : BitVec.ofNat n (laneShr n a c) = BitVec.ofNat n a >>> c := by
  apply BitVec.eq_of_toNat_eq
  rw [laneShr]
  split
  case isTrue h =>
    have small : a % 2 ^ n < 2 ^ c := (Nat.mod_lt _ (Nat.two_pow_pos n)).trans_le (Nat.pow_le_pow_right two_pos h)
    simp [Nat.shiftRight_eq_div_pow, Nat.div_eq_of_lt small]
  case isFalse h =>
    have small : a % 2 ^ n / 2 ^ c < 2 ^ n := (Nat.div_le_self _ _).trans_lt (Nat.mod_lt _ (Nat.two_pow_pos n))
    simp [Nat.shiftRight_eq_div_pow, Nat.mod_eq_of_lt small]

/-- Beyond the width a right shift of a signed number leaves the sign alone. -/
theorem div_two_pow_min {v : Int} (hlo : -(2 ^ (n - 1)) ≤ v) (hhi : v < 2 ^ (n - 1)) (c : Nat) : v / 2 ^ min c (n - 1) = v >>> c := by
  rw [Int.shiftRight_eq_div_pow]
  rcases le_total c (n - 1) with h | h
  · rw [min_eq_left h]
    rfl
  · rw [min_eq_right h]
    have grow : (2 : Int) ^ (n - 1) ≤ 2 ^ c := pow_le_pow_right₀ (by decide) h
    rcases le_or_gt 0 v with hv | hv
    · rw [Int.ediv_eq_zero_of_lt hv hhi]
      exact (Int.ediv_eq_zero_of_lt hv (hhi.trans_le (by exact_mod_cast grow))).symm
    · have minus_one {m : Int} (hm : 0 < m) (hv' : -m ≤ v) : v / m = -1 := by
        rw [Int.ediv_eq_iff_of_pos hm]
        omega
      rw [minus_one (by positivity) hlo]
      exact (minus_one (by positivity) ((neg_le_neg (by exact_mod_cast grow)).trans hlo)).symm

theorem ofNat_laneSra (a c : Nat) : BitVec.ofNat n (laneSra n a c) = (BitVec.ofNat n a).sshiftRight c := by
  have hlo := BitVec.le_toInt (BitVec.ofNat n a)
  have hhi := BitVec.toInt_lt (x := BitVec.ofNat n a)
  rw [laneSra, ofNat_wrapTo, signedOf_eq_toInt, div_two_pow_min n (by exact_mod_cast hlo) (by exact_mod_cast hhi), ← BitVec.toInt_sshiftRight,
    BitVec.ofInt_toInt]

theorem ofNat_laneClz (hn : 0 < n) (x : BitVec n) : BitVec.ofNat n (laneClz n x.toNat) = x.clz := by
  rw [laneClz, Nat.mod_eq_of_lt x.isLt]
  by_cases hx : x = 0#n
  · rw [if_pos (by simp [hx]), BitVec.clz_eq_iff_eq_zero.2 hx, BitVec.natCast_eq_ofNat]
  · have pos : x.toNat ≠ 0 := fun h => hx (BitVec.eq_of_toNat_eq (by simpa using h))
    have upper := BitVec.toNat_lt_two_pow_sub_clz (x := x)
    have lower := BitVec.two_pow_sub_clz_le_toNat_of_ne_zero hn hx
    have below := BitVec.clz_lt_iff_ne_zero.2 hx
    have small : x.clz.toNat < n := by
      have := BitVec.lt_def.1 below
      rwa [BitVec.natCast_eq_ofNat, BitVec.toNat_ofNat, Nat.mod_eq_of_lt Nat.lt_two_pow_self] at this
    have log : Nat.log2 x.toNat = n - x.clz.toNat - 1 := (Nat.log2_eq_iff pos).2 ⟨by rwa [Nat.sub_right_comm] at lower, by
      rwa [Nat.sub_add_cancel (by omega)]⟩
    rw [if_neg pos, log]
    apply BitVec.eq_of_toNat_eq
    rw [BitVec.toNat_ofNat, show n - 1 - (n - x.clz.toNat - 1) = x.clz.toNat by omega, Nat.mod_eq_of_lt x.clz.isLt]

theorem length_filter_range_bitAt (x : BitVec n) (k : Nat) (hk : k ≤ n) :
    ((List.range k).filter fun i => bitAt x.toNat i).length = x.cpopNatRec k 0 := by
  induction k with
  | zero => rfl
  | succ k ih =>
    rw [List.range_succ, List.filter_append, List.length_append, ih (by omega), BitVec.cpopNatRec_succ, BitVec.cpopNatRec_eq (0 + _)]
    have bit : bitAt x.toNat k = x.getLsbD k := by rw [bitAt_eq_testBit, BitVec.testBit_toNat]
    rw [List.filter_singleton, bit]
    cases x.getLsbD k <;> simp

theorem ofNat_lanePop (x : BitVec n) : BitVec.ofNat n (lanePop n x.toNat) = x.cpop := by
  rw [lanePop, length_filter_range_bitAt n x n le_rfl]
  rfl

end Shifts

/-! ### The instructions, by their shared forms -/

section Forms

variable {s : State} {g : Guard} {i : Instr} {d a b : BitVec 5} {f : Fmt} {rnd : BitVec 3} (hm : s.here.laneMask g ≠ 0) (hf : fmtIn f)

/-- An instruction yields integers fitted into the format. -/
def State.yieldsFit (s : State) (g : Guard) (i : Instr) (d : BitVec 5) (f : Fmt) (rnd : BitVec 3) (lat : Nat) (v : Nat → Int) : Prop :=
  s.yieldsLanes g i d lat (fun j => BitVec.ofInt 32 (fitInt f.width rnd (v j))) fun j => fitEvent f.width rnd (v j)

include hm hf

theorem vbin_fits {lat : Nat} {vi : Int → Int → Int} {vf : Num → Num → Num} (hi : exec i s = vbin g d a b f rnd lat vi vf s) :
    s.yieldsFit g i d f rnd lat fun j => vi (intLane f.width (s.here.regs.rv a) j) (intLane f.width (s.here.regs.rv b) j) :=
  yieldsLanes_of_putLanes hm hi (by simp only [exec_bind, readV_apply, arith_int hf, signedOf_code])

theorem vfused_fits {vi : Int → Int → Int → Int} {vf : Num → Num → Num → Num} (hi : exec i s = vfused g d a b f rnd vi vf s) :
    s.yieldsFit g i d f rnd 4 fun j =>
      vi (intLane f.width (s.here.regs.rv a) j) (intLane f.width (s.here.regs.rv b) j) (intLane f.width (s.here.regs.rv d) j) :=
  yieldsLanes_of_putLanes hm hi (by simp only [exec_bind, readV_apply, arith_int hf, signedOf_code])

theorem signOp_fits {neg : Bool} {op : Int → Int} (hop : ∀ v, (if neg then -v else |v|) = op v) (hi : exec i s = signOp g d a f rnd neg s) :
    s.yieldsFit g i d f rnd 2 fun j => op (intLane f.width (s.here.regs.rv a) j) := by
  refine yieldsLanes_of_putLanes hm hi ?_
  have element (v : Lanes) (j : Nat) : signedOf f.width (code v j % 2 ^ f.width) = intLane f.width v j := by
    rw [signedOf_eq_toInt, ofNat_mod_two_pow, ofNat_lane, intLane]
  simp only [exec_bind, readV_apply, isInt_of_fmtIn hf, if_true, element, Int.natCast_natAbs, inLane_intResult hf, hop]

theorem vminmax_signed {big : Bool} {op : Int → Int → Int} (hop : ∀ x y, (if big then max x y else min x y) = op x y)
    (hi : exec i s = vminmax g d a b f big false s) : s.writesLanes g i d 2 fun j =>
      BitVec.ofInt 32 (op (intLane f.width (s.here.regs.rv a) j) (intLane f.width (s.here.regs.rv b) j)) :=
  writesLanes_of_putPlain hm hi (by simp only [exec_bind, readV_apply, laneOf_minMax_signed hf, hop])

theorem vminmax_unsigned {big : Bool} {op : Nat → Nat → Nat} (hop : ∀ x y, (if big then max x y else min x y) = op x y)
    (hi : exec i s = vminmax g d a b f big true s) : s.writesLanes g i d 2 fun j => (BitVec.ofNat f.width
      (op ((lane (s.here.regs.rv a) j).setWidth f.width).toNat ((lane (s.here.regs.rv b) j).setWidth f.width).toNat)).signExtend 32 :=
  writesLanes_of_putPlain hm hi (by simp only [exec_bind, readV_apply, laneOf_minMax_unsigned hf, hop])

theorem vshift_writes {op : Nat → Nat → Nat → Nat} {r : BitVec f.width → Nat → BitVec f.width} (hi : exec i s = vshift g d a b f op s)
    (hr : ∀ (x : BitVec f.width) c, BitVec.ofNat f.width (op f.width x.toNat c) = r x c) : s.writesLanes g i d 2 fun j =>
      (r ((lane (s.here.regs.rv a) j).setWidth f.width) (lane (s.here.regs.rv b) j).toNat).signExtend 32 := by
  have element (v : Lanes) (j : Nat) : code v j % 2 ^ f.width = ((lane v j).setWidth f.width).toNat := (BitVec.toNat_setWidth ..).symm
  refine writesLanes_of_putPlain hm hi ?_
  simp only [exec_bind, readV_apply, element, laneOf_int hf, hr]
  rfl

end Forms

/-- Settles O22. -/
theorem vectorIntegerLanes : Obligations.VectorIntegerLanes := by
  unfold Obligations.VectorIntegerLanes
  intro s g d a b f rnd hm hf
  have smaller {α : Type} [LinearOrder α] (x y : α) : (if false = true then max x y else min x y) = min x y := if_neg Bool.false_ne_true
  have larger {α : Type} [LinearOrder α] (x y : α) : (if true = true then max x y else min x y) = max x y := if_pos rfl
  exact ⟨vbin_fits hm hf (exec_vadd ..), vbin_fits hm hf (exec_vsub ..), vbin_fits hm hf (exec_vmul ..), vfused_fits (vi := fun x y z => x * y + z) hm hf (exec_vfma ..),
    vfused_fits (vi := fun x y z => z - x * y) hm hf (exec_vfms ..), signOp_fits (op := abs) hm hf (fun v => if_neg Bool.false_ne_true) (exec_vabs ..),
    signOp_fits (op := Neg.neg) hm hf (fun v => if_pos rfl) (exec_vneg ..), vminmax_signed hm hf smaller (exec_vmin ..),
    vminmax_signed hm hf larger (exec_vmax ..), vminmax_unsigned hm hf smaller (exec_vmin ..), vminmax_unsigned hm hf larger (exec_vmax ..),
    vshift_writes hm hf (exec_vshl ..) fun x c => by rw [ofNat_laneShl, BitVec.ofNat_toNat, BitVec.setWidth_eq],
    vshift_writes hm hf (exec_vshr ..) fun x c => by rw [ofNat_laneShr, BitVec.ofNat_toNat, BitVec.setWidth_eq],
    vshift_writes hm hf (exec_vsra ..) fun x c => by rw [ofNat_laneSra, BitVec.ofNat_toNat, BitVec.setWidth_eq],
    vshift_writes (r := fun x _ => x.clz) hm hf (exec_vclz ..) fun x _ => ofNat_laneClz _ (width_pos_of_fmtIn hf) x,
    vshift_writes (r := fun x _ => x.cpop) hm hf (exec_vpopc ..) fun x _ => ofNat_lanePop _ x⟩

/-! ### Where numbers stand (R112, R137, R140) -/

/-- A signed magnitude in units of 2^q is the number's value. -/
theorem signedAt_value (neg : Bool) (m : Nat) {e q : Int} (h : q ≤ e) :
    (signedAt neg m e q : ℚ) * 2 ^ q = (if neg then -1 else 1) * m * 2 ^ e := by
  have scale : (2 : ℚ) ^ (e - q).toNat * 2 ^ q = 2 ^ e := by
    rw [← zpow_natCast, Int.toNat_of_nonneg (sub_nonneg.2 h), ← zpow_add₀ two_ne_zero, sub_add_cancel]
  rw [← scale]
  cases neg <;> simp [signedAt, mul_assoc]

theorem place_fin (neg : Bool) (m : Nat) (e : Int) :
    (Num.fin neg m e).place = (((Num.fin neg m e).value : WithTop ℚ) : WithBot (WithTop ℚ)) := rfl

section Pair

variable (s t : Bool) (m n : Nat) (e g : Int)

/-- Two finite numbers in units of the finer one's power of two. -/
theorem signedAt_lt_iff : signedAt s m e (min e g) < signedAt t n g (min e g) ↔ (Num.fin s m e).value < (Num.fin t n g).value := by
  have pos : (0 : ℚ) < 2 ^ min e g := by positivity
  rw [Num.value, Num.value, ← signedAt_value s m (min_le_left e g), ← signedAt_value t n (min_le_right e g), mul_lt_mul_iff_left₀ pos, Int.cast_lt]

theorem signedAt_eq_iff : signedAt s m e (min e g) = signedAt t n g (min e g) ↔ (Num.fin s m e).value = (Num.fin t n g).value := by
  have pos : (0 : ℚ) < 2 ^ min e g := by positivity
  rw [Num.value, Num.value, ← signedAt_value s m (min_le_left e g), ← signedAt_value t n (min_le_right e g), mul_left_inj' pos.ne', Int.cast_inj]

end Pair

theorem value_fin_eq_zero (s : Bool) (m : Nat) (e : Int) : (Num.fin s m e).value = 0 ↔ m = 0 := by
  have pos : (2 : ℚ) ^ e ≠ 0 := zpow_ne_zero e two_ne_zero
  cases s <;> simp [Num.value, pos]

theorem value_fin_nonpos (m : Nat) (e : Int) : (Num.fin true m e).value ≤ 0 := by
  have : (0 : ℚ) ≤ m * 2 ^ e := by positivity
  simpa [Num.value] using this

theorem value_fin_nonneg (m : Nat) (e : Int) : 0 ≤ (Num.fin false m e).value := by
  have : (0 : ℚ) ≤ m * 2 ^ e := by positivity
  simpa [Num.value] using this

/-- R140: equality of numbers that are no NaN is that of their places. -/
theorem eq_iff_place {p q : Num} (hp : p.isNan = false) (hq : q.isNan = false) : p.eq q = true ↔ p.place = q.place := by
  cases p with
  | nan => cases hp
  | inf s =>
    cases q with
    | nan => cases hq
    | inf t => cases s <;> cases t <;> simp [Num.eq, Num.place]
    | fin t n g => cases s <;> simp [Num.eq, Num.place]
  | fin s m e =>
    cases q with
    | nan => cases hq
    | inf t => cases t <;> simp [Num.eq, Num.place]
    | fin t n g => rw [place_fin, place_fin, WithBot.coe_inj, WithTop.coe_inj, ← signedAt_eq_iff, Num.eq, beq_iff_eq]

/-- R137: the order of numbers that are no NaN, with −0 below +0. -/
theorem lt_eq_under {p q : Num} (hp : p.isNan = false) (hq : q.isNan = false) : p.lt q = p.under q := by
  cases p with
  | nan => cases hp
  | inf s =>
    cases q with
    | nan => cases hq
    | inf t => cases s <;> cases t <;> simp [Num.lt, Num.under, Num.place, Num.neg?]
    | fin t n g => cases s <;> simp [Num.lt, Num.under, Num.place, Num.neg?]
  | fin s m e =>
    cases q with
    | nan => cases hq
    | inf t =>
      have top : (Num.fin s m e).place < (⊤ : WithBot (WithTop ℚ)) := WithBot.coe_lt_coe.2 (WithTop.coe_lt_top _)
      cases t with
      | false => simp [Num.lt, Num.under, Num.place.eq_2, top]
      | true => simp [Num.lt, Num.under, Num.place, Num.neg?]
    | fin t n g =>
      have zero : (Num.fin s m e).value = (Num.fin t n g).value → s = true → t = false → m = 0 := by
        rintro h rfl rfl
        rw [← value_fin_eq_zero true m e]
        exact le_antisymm (value_fin_nonpos m e) (h ▸ value_fin_nonneg n g)
      rw [Bool.eq_iff_iff]
      simp only [Num.lt, Num.under, Num.neg?, place_fin, WithBot.coe_lt_coe, WithBot.coe_inj, WithTop.coe_lt_coe, WithTop.coe_inj, Bool.or_eq_true,
        Bool.and_eq_true, Bool.not_eq_true', decide_eq_true_eq, beq_iff_eq, signedAt_lt_iff, signedAt_eq_iff]
      tauto

theorem place_lt_iff {p q : Num} (hp : p.isNan = false) (hq : q.isNan = false) : (p.lt q && !p.eq q) = true ↔ p.place < q.place := by
  rw [lt_eq_under hp hq, Bool.and_eq_true, Bool.not_eq_true', ← Bool.not_eq_true, eq_iff_place hp hq, Num.under]
  simp only [Bool.or_eq_true, Bool.and_eq_true, decide_eq_true_eq]
  constructor
  · rintro ⟨h | h, hne⟩
    · exact h
    · exact absurd h.1.1 hne
  · exact fun h => ⟨.inl h, h.ne⟩

theorem place_gt_iff {p q : Num} (hp : p.isNan = false) (hq : q.isNan = false) : (q.lt p && !p.eq q) = true ↔ q.place < p.place := by
  have comm : p.eq q = q.eq p := by rw [Bool.eq_iff_iff, eq_iff_place hp hq, eq_iff_place hq hp, eq_comm]
  rw [comm, place_lt_iff hq hp]

/-! ### Compares (R140) -/

/-- The number with the bits of a function, lowest first. -/
def bitSum (f : Nat → Bool) (n : Nat) : Nat := (List.range n).foldr (fun i acc => (f i).toNat * 2 ^ i + acc) 0

theorem foldr_double (f : Nat → Bool) (l : List Nat) :
    l.foldr (fun i acc => (f i).toNat * 2 ^ (i + 1) + acc) 0 = 2 * l.foldr (fun i acc => (f i).toNat * 2 ^ i + acc) 0 := by
  induction l with
  | nil => rfl
  | cons i l ih => rw [List.foldr_cons, List.foldr_cons, ih, pow_succ]; ring

theorem bitSum_succ (f : Nat → Bool) (n : Nat) : bitSum f (n + 1) = (f 0).toNat + 2 * bitSum (fun i => f (i + 1)) n := by
  rw [bitSum, bitSum, List.range_succ_eq_map, List.foldr_cons, List.foldr_map, pow_zero, mul_one, ← foldr_double]

theorem testBit_bitSum (n : Nat) : ∀ (f : Nat → Bool) (j : Nat), j < n → (bitSum f n).testBit j = f j := by
  induction n with
  | zero => intro f j hj; omega
  | succ n ih =>
    intro f j hj
    rw [bitSum_succ]
    cases j with
    | zero => cases h : f 0 <;> simp [Nat.testBit_zero]
    | succ j =>
      have half : ((f 0).toNat + 2 * bitSum (fun i => f (i + 1)) n) / 2 = bitSum (fun i => f (i + 1)) n := by
        have := Bool.toNat_le (f 0)
        omega
      rw [Nat.testBit_succ, half, ih _ j (by omega)]

theorem getLsbD_laneBits (f : Nat → Bool) {j : Nat} (hj : j < 64) : (laneBits f).getLsbD j = f j := by
  rw [laneBits, BitVec.getLsbD_ofNat, decide_eq_true hj, Bool.true_and]
  exact testBit_bitSum 64 f j hj

/-- What a vector condition says of two numbers, by their places. -/
theorem vcondHolds_numbers {cc : VCond} {f : Fmt} {a b : Nat} (hf : f.isFloat = true) (hp : (numOf f a).isNan = false)
    (hq : (numOf f b).isNan = false) : vcondHolds cc f a b = true ↔
      match cc with
      | .eq => (numOf f a).place = (numOf f b).place
      | .ne => (numOf f a).place ≠ (numOf f b).place
      | .lt => (numOf f a).place < (numOf f b).place
      | .le => (numOf f a).place ≤ (numOf f b).place
      | .gt => (numOf f b).place < (numOf f a).place
      | .ge => (numOf f b).place ≤ (numOf f a).place
      | .uo => False
      | .ord => True := by
  have eq := eq_iff_place hp hq
  have lt := place_lt_iff hp hq
  have gt := place_gt_iff hp hq
  cases cc <;> simp only [vcondHolds, hf, if_true, hp, hq, Bool.or_self, Bool.not_false, Bool.true_and, eq, lt, gt, Bool.not_eq_true', ← Bool.not_eq_true,
    not_lt, ne_eq, Bool.false_eq_true]

theorem vcondHolds_nan {cc : VCond} {f : Fmt} {a b : Nat} (hf : f.isFloat = true) (h : (numOf f a).isNan = true ∨ (numOf f b).isNan = true) :
    vcondHolds cc f a b = (cc == .ne || cc == .uo) := by
  have un : ((numOf f a).isNan || (numOf f b).isNan) = true := by rwa [Bool.or_eq_true]
  have relations : (numOf f a).eq (numOf f b) = false ∧ (numOf f a).lt (numOf f b) = false ∧ (numOf f b).lt (numOf f a) = false := by
    rcases h with h | h
    · cases hn : numOf f a with
      | nan => cases numOf f b <;> exact ⟨rfl, rfl, rfl⟩
      | inf s => rw [hn] at h; cases h
      | fin s m e => rw [hn] at h; cases h
    · cases hn : numOf f b with
      | nan => cases numOf f a <;> exact ⟨rfl, rfl, rfl⟩
      | inf s => rw [hn] at h; cases h
      | fin s m e => rw [hn] at h; cases h
  obtain ⟨heq, hlt, hgt⟩ := relations
  cases cc <;> simp [vcondHolds, hf, un, heq, hlt, hgt]

theorem isFloat_of_not_fmtIn {f : Fmt} (hf : fmtAr f) (hi : ¬ fmtIn f) : f.isFloat = true := by
  rcases hf with h | h | h | hf
  · exact absurd (.inl h) hi
  · exact absurd (.inr (.inl h)) hi
  · exact absurd (.inr (.inr h)) hi
  · rcases hf with rfl | rfl | rfl | rfl <;> rfl

/-- Settles O25. -/
theorem vectorCompares : Obligations.VectorCompares := by
  unfold Obligations.VectorCompares
  intro s g pd a b cc f hm hf
  refine ⟨_, exec_runV_ok hm (exec_vcmp ..) rfl, fun j hj => ⟨fun hi => ?_, fun hi hn => ?_, fun hi hp hq => ?_⟩⟩
  · cases cc <;> simp only [getLsbD_laneBits _ hj, vcondHolds, isFloat_of_fmtIn hi, Bool.false_eq_true, if_false, signedOf_code]
  · rw [getLsbD_laneBits _ hj]
    exact vcondHolds_nan (isFloat_of_not_fmtIn hf hi) hn
  · rw [getLsbD_laneBits _ hj]
    exact vcondHolds_numbers (isFloat_of_not_fmtIn hf hi) hp hq

end Sys2Proof.Machine
end

section
/-!
The rounding step of R117 and R118: a magnitude between two neighbours of a format, the code of a magnitude, and what a code stands for.
-/

namespace Sys2Proof.Machine

/-! ### A magnitude between two neighbours (R117) -/

/-- A magnitude of which only the rationals at or below it and at or above it are known: x stands where it stands among the multiples of u / 4. -/
structure Cut (lo hi : ℚ → Prop) (u x : ℚ) : Prop where
  down : ∀ {p q : ℚ}, 0 ≤ p → p ≤ q → lo q → lo p
  up : ∀ {p q : ℚ}, 0 ≤ p → p ≤ q → hi p → hi q
  lo_iff : ∀ k : Nat, lo (k * (u / 4)) ↔ k * (u / 4) ≤ x
  hi_iff : ∀ k : Nat, hi (k * (u / 4)) ↔ x ≤ k * (u / 4)

/-- A number that stands for itself. -/
theorem Cut.exact (u x : ℚ) : Cut (· ≤ x) (x ≤ ·) u x :=
  ⟨fun _ h h' => h.trans h', fun _ h h' => h'.trans h, fun _ => Iff.rfl, fun _ => Iff.rfl⟩

/-- The numbers that may be had around x: the multiples N and N + 1 of u, and nothing nearer than half of u below them and u above them. -/
structure Cell (may : Set ℚ) (u : ℚ) (N : Nat) (x : ℚ) : Prop where
  pos : 0 < u
  le : N * u ≤ x
  lt : x < (N + 1) * u
  floor_mem : N * u ∈ may
  ceil_mem : (N + 1) * u ∈ may
  nonneg : ∀ a ∈ may, 0 ≤ a
  apart : ∀ a ∈ may, a ≤ N * u - u / 2 ∨ a = N * u ∨ a = (N + 1) * u ∨ (N + 2) * u ≤ a

/-- Whether a direction rounds x away from its lower neighbour. -/
def RoundsAway (dir : Nat) (neg : Bool) (N : Nat) (u x : ℚ) : Prop :=
  x ≠ N * u ∧
  match dir with
  | 0 => (N + 1 / 2) * u < x ∨ (x = (N + 1 / 2) * u ∧ N % 2 = 1)
  | 1 => False
  | 2 => neg = true
  | _ => neg = false

section Neighbours

variable {may : Set ℚ} {u x : ℚ} {N : Nat} {lo hi : ℚ → Prop} (cell : Cell may u N x) (cut : Cut lo hi u x)

include cell cut

theorem lo_floor : lo (N * u) := by
  have h := cut.lo_iff (4 * N)
  rw [show ((4 * N : Nat) : ℚ) * (u / 4) = N * u by push_cast; ring] at h
  exact h.2 cell.le

theorem not_lo_ceil : ¬ lo ((N + 1) * u) := by
  have h := cut.lo_iff (4 * N + 4)
  rw [show ((4 * N + 4 : Nat) : ℚ) * (u / 4) = (N + 1) * u by push_cast; ring] at h
  exact fun hl => absurd (h.1 hl) (not_le.2 cell.lt)

theorem hi_ceil : hi ((N + 1) * u) := by
  have h := cut.hi_iff (4 * N + 4)
  rw [show ((4 * N + 4 : Nat) : ℚ) * (u / 4) = (N + 1) * u by push_cast; ring] at h
  exact h.2 cell.lt.le

theorem hi_floor_iff : hi (N * u) ↔ x = N * u := by
  have h := cut.hi_iff (4 * N)
  rw [show ((4 * N : Nat) : ℚ) * (u / 4) = N * u by push_cast; ring] at h
  exact h.trans ⟨fun hx => le_antisymm hx cell.le, fun hx => hx.le⟩

omit cell in
/-- The midpoint of the two neighbours. -/
theorem lo_mid_iff : lo ((N + 1 / 2) * u) ↔ (N + 1 / 2) * u ≤ x := by
  have h := cut.lo_iff (4 * N + 2)
  rwa [show ((4 * N + 2 : Nat) : ℚ) * (u / 4) = (N + 1 / 2) * u by push_cast; ring] at h

omit cell in
theorem hi_mid_iff : hi ((N + 1 / 2) * u) ↔ x ≤ (N + 1 / 2) * u := by
  have h := cut.hi_iff (4 * N + 2)
  rwa [show ((4 * N + 2 : Nat) : ℚ) * (u / 4) = (N + 1 / 2) * u by push_cast; ring] at h

/-- Nothing of a magnitude is below its lower neighbour, not by a quarter of their distance. -/
theorem not_hi_below {p : ℚ} (hp : 0 ≤ p) (h : p ≤ N * u - u / 4) : ¬ hi p := by
  have pos := cell.pos
  have one : 1 ≤ 4 * N := by
    by_contra hN
    have zero : N = 0 := by omega
    rw [zero, Nat.cast_zero] at h
    linarith
  have grid := cut.hi_iff (4 * N - 1)
  rw [show ((4 * N - 1 : Nat) : ℚ) * (u / 4) = N * u - u / 4 by rw [Nat.cast_sub one]; push_cast; ring] at grid
  intro hh
  have := grid.1 (cut.up hp h hh)
  have := cell.le
  linarith

/-- A number other than the two neighbours is beyond one of them. -/
theorem lo_imp_le_floor {a : ℚ} (ha : a ∈ may) (h : lo a) : a ≤ N * u := by
  have pos := cell.pos
  rcases cell.apart a ha with h' | h' | h' | h'
  · linarith
  · exact h'.le
  · exact absurd (h' ▸ h) (not_lo_ceil cell cut)
  · refine absurd (cut.down ?_ ?_ h) (not_lo_ceil cell cut)
    · positivity
    · linarith

theorem hi_imp_ceil_le {a : ℚ} (ha : a ∈ may) (h : hi a) (hx : x ≠ N * u) : (N + 1) * u ≤ a := by
  have pos := cell.pos
  have zero := cell.nonneg a ha
  rcases cell.apart a ha with h' | h' | h' | h'
  · exact absurd h (not_hi_below cell cut zero (by linarith))
  · exact absurd ((hi_floor_iff cell cut).1 (h' ▸ h)) hx
  · exact h'.ge
  · linarith

/-- The upper neighbour is the one above, and the lower one the one below. -/
theorem floor_below : lo (N * u) ∧ ∀ q ∈ may, lo q → q ≤ N * u := ⟨lo_floor cell cut, fun _ hq h => lo_imp_le_floor cell cut hq h⟩

theorem ceil_above (hx : x ≠ N * u) : hi ((N + 1) * u) ∧ ∀ q ∈ may, hi q → (N + 1) * u ≤ q :=
  ⟨hi_ceil cell cut, fun _ hq h => hi_imp_ceil_le cell cut hq h hx⟩

/-- What stands for itself in the grid is its own neighbour above as well. -/
theorem floor_above (hx : x = N * u) : hi (N * u) ∧ ∀ q ∈ may, hi q → N * u ≤ q := by
  have pos := cell.pos
  refine ⟨(hi_floor_iff cell cut).2 hx, fun q hq h => ?_⟩
  rcases cell.apart q hq with h' | h' | h' | h'
  · exact absurd h (not_hi_below cell cut (cell.nonneg q hq) (by linarith))
  · exact h'.ge
  · linarith
  · linarith

/-- To the nearest: the lower neighbour, when x is not beyond the midpoint. -/
theorem floor_nearest {neg : Bool} (h : ¬ RoundsAway 0 neg N u x) : ∀ q ∈ may, (q < N * u → lo ((q + N * u) / 2)) ∧ (N * u < q → hi ((q + N * u) / 2)) ∧
    (q ≠ N * u → lo ((q + N * u) / 2) → hi ((q + N * u) / 2) → ∃ n : Nat, N * u = 2 * n * |q - N * u|) := by
  have pos := cell.pos
  have floor := cell.le
  have zero : 0 ≤ N * u := cell.nonneg _ cell.floor_mem
  have mid : x ≤ (N + 1 / 2) * u ∧ (x = (N + 1 / 2) * u → N % 2 = 0) := by
    by_cases hx : x = N * u
    · exact ⟨by linarith, fun h' => by linarith⟩
    · simp only [RoundsAway, hx, not_and, not_or, ne_eq, not_false_eq_true, forall_const, not_lt] at h
      exact ⟨h.1, fun h' => by have := h.2 h'; omega⟩
  intro q hq
  have qzero := cell.nonneg q hq
  have above (hlt : N * u < q) : (N + 1) * u ≤ q := by
    rcases cell.apart q hq with h' | h' | h' | h' <;> linarith
  refine ⟨fun hlt => cut.down (by linarith) (by linarith) (lo_floor cell cut), fun hlt => ?_, fun hne hlo hhi => ?_⟩
  · have := above hlt
    exact cut.up (by positivity) (by linarith) ((hi_mid_iff cut).2 mid.1)
  · rcases lt_or_gt_of_ne hne with hlt | hlt
    · refine absurd hhi (not_hi_below cell cut (by linarith) ?_)
      rcases cell.apart q hq with h' | h' | h' | h' <;> linarith
    · have hge := above hlt
      have at_mid : x = (N + 1 / 2) * u :=
        le_antisymm mid.1 ((lo_mid_iff cut).1 (cut.down (by positivity) (by linarith) hlo))
      have near : q = (N + 1) * u := by
        rcases cell.apart q hq with h' | h' | h' | h'
        · linarith
        · linarith
        · exact h'
        · exact absurd (cut.down (by positivity) (by linarith) hlo) (not_lo_ceil cell cut)
      refine ⟨N / 2, ?_⟩
      have even : ((N / 2 : Nat) : ℚ) * 2 = N := by exact_mod_cast Nat.div_mul_cancel (Nat.dvd_of_mod_eq_zero (mid.2 at_mid))
      rw [near, show ((N : ℚ) + 1) * u - N * u = u by ring, abs_of_pos pos, ← even]
      ring

/-- The upper neighbour, when x is beyond the midpoint, or at it and the lower one is odd. -/
theorem ceil_nearest {neg : Bool} (h : RoundsAway 0 neg N u x) : ∀ q ∈ may, (q < (N + 1) * u → lo ((q + (N + 1) * u) / 2)) ∧
    ((N + 1) * u < q → hi ((q + (N + 1) * u) / 2)) ∧
    (q ≠ (N + 1) * u → lo ((q + (N + 1) * u) / 2) → hi ((q + (N + 1) * u) / 2) → ∃ n : Nat, (N + 1) * u = 2 * n * |q - (N + 1) * u|) := by
  have pos := cell.pos
  have ceil := cell.lt
  have zero : 0 ≤ N * u := cell.nonneg _ cell.floor_mem
  have mid : (N + 1 / 2) * u ≤ x ∧ (x = (N + 1 / 2) * u → N % 2 = 1) := by
    rcases h.2 with h' | h'
    · exact ⟨h'.le, fun h'' => by linarith⟩
    · exact ⟨h'.1.ge, fun _ => h'.2⟩
  intro q hq
  have qzero := cell.nonneg q hq
  have below (hlt : q < (N + 1) * u) : q ≤ N * u := by
    rcases cell.apart q hq with h' | h' | h' | h' <;> linarith
  refine ⟨fun hlt => ?_, fun hlt => cut.up (by linarith) (by linarith) (hi_ceil cell cut), fun hne hlo hhi => ?_⟩
  · have := below hlt
    exact cut.down (by linarith) (by linarith) ((lo_mid_iff cut).2 mid.1)
  · rcases lt_or_gt_of_ne hne with hlt | hlt
    · have hle := below hlt
      have at_mid : x = (N + 1 / 2) * u :=
        le_antisymm ((hi_mid_iff cut).1 (cut.up (by linarith) (by linarith) hhi)) mid.1
      have near : q = N * u := by
        rcases cell.apart q hq with h' | h' | h' | h'
        · have grid := cut.hi_iff (4 * N + 1)
          rw [show ((4 * N + 1 : Nat) : ℚ) * (u / 4) = (N + 1 / 4) * u by push_cast; ring] at grid
          have := grid.1 (cut.up (by linarith) (by linarith) hhi)
          linarith
        · exact h'
        · exact absurd h' hne
        · linarith
      refine ⟨(N + 1) / 2, ?_⟩
      have even : (((N + 1) / 2 : Nat) : ℚ) * 2 = N + 1 := by
        have odd := mid.2 at_mid
        exact_mod_cast Nat.div_mul_cancel (Nat.dvd_of_mod_eq_zero (by omega : (N + 1) % 2 = 0))
      rw [near, show N * u - ((N : ℚ) + 1) * u = -u by ring, abs_neg, abs_of_pos pos, ← even]
      ring
    · exact absurd (cut.down (by linarith) (by linarith) hlo) (not_lo_ceil cell cut)

/-- R117: the magnitude is rounded to its lower neighbour unless the direction rounds it away from that. -/
theorem roundsCut_floor {dir : Nat} {neg : Bool} (h : ¬ RoundsAway dir neg N u x) : roundsCut dir neg may lo hi (N * u) := by
  refine ⟨cell.floor_mem, ?_⟩
  match dir, h with
  | 0, h => exact floor_nearest cell cut h
  | 1, _ => exact floor_below cell cut
  | 2, h =>
    cases neg with
    | false => exact floor_below cell cut
    | true => exact floor_above cell cut (by_contra fun hx => h ⟨hx, rfl⟩)
  | _ + 3, h =>
    cases neg with
    | false => exact floor_above cell cut (by_contra fun hx => h ⟨hx, rfl⟩)
    | true => exact floor_below cell cut

theorem roundsCut_ceil {dir : Nat} {neg : Bool} (h : RoundsAway dir neg N u x) : roundsCut dir neg may lo hi ((N + 1) * u) := by
  refine ⟨cell.ceil_mem, ?_⟩
  match dir, h with
  | 0, h => exact ceil_nearest cell cut h
  | 1, h => exact absurd h.2 id
  | 2, h =>
    have hneg : neg = true := h.2
    rw [hneg]
    exact ceil_above cell cut h.1
  | _ + 3, h =>
    have hneg : neg = false := h.2
    rw [hneg]
    exact ceil_above cell cut h.1

end Neighbours

/-! ### The machine's rounding to a multiple (R117) -/

/-- The lower neighbour of m × 2^e among the multiples of 2^q. -/
def floorAt (m : Nat) (e q : Int) : Nat := if q ≤ e then m * 2 ^ (e - q).toNat else m / 2 ^ (q - e).toNat

section FloorAt

variable (m : Nat) {e q : Int}

theorem two_zpow_split (h : q ≤ e) : (2 : ℚ) ^ e = 2 ^ (e - q).toNat * 2 ^ q := by
  rw [← zpow_natCast, Int.toNat_of_nonneg (sub_nonneg.2 h), ← zpow_add₀ two_ne_zero, sub_add_cancel]

/-- Where q is above e, m × 2^e is its quotient's multiple of 2^q and the remainder's part of it. -/
theorem value_split (h : e ≤ q) : (m : ℚ) * 2 ^ e = (m / 2 ^ (q - e).toNat : Nat) * 2 ^ q + (m % 2 ^ (q - e).toNat : Nat) * 2 ^ e := by
  have parts : (m : ℚ) = (2 ^ (q - e).toNat : Nat) * (m / 2 ^ (q - e).toNat : Nat) + (m % 2 ^ (q - e).toNat : Nat) := by
    exact_mod_cast (Nat.div_add_mod m _).symm
  rw [two_zpow_split h]
  push_cast at parts ⊢
  linear_combination 2 ^ e * parts

theorem floorAt_le (e q : Int) : (floorAt m e q : ℚ) * 2 ^ q ≤ m * 2 ^ e := by
  unfold floorAt
  split
  case isTrue h =>
    rw [two_zpow_split h]
    push_cast
    linarith
  case isFalse h =>
    rw [value_split m (not_le.1 h).le]
    have : (0 : ℚ) ≤ (m % 2 ^ (q - e).toNat : Nat) * 2 ^ e := by positivity
    linarith

theorem lt_floorAt (e q : Int) : (m : ℚ) * 2 ^ e < (floorAt m e q + 1) * 2 ^ q := by
  unfold floorAt
  split
  case isTrue h =>
    have : (0 : ℚ) < 2 ^ q := by positivity
    rw [two_zpow_split h]
    push_cast
    linarith
  case isFalse h =>
    have pos : (0 : ℚ) < 2 ^ e := by positivity
    have small : ((m % 2 ^ (q - e).toNat : Nat) : ℚ) < 2 ^ (q - e).toNat := by exact_mod_cast Nat.mod_lt m (Nat.two_pow_pos _)
    rw [value_split m (not_le.1 h).le, add_mul, one_mul, two_zpow_split (not_le.1 h).le]
    linarith [mul_lt_mul_of_pos_right small pos]

/-- The machine rounds up where the direction rounds away from the lower neighbour. -/
theorem roundsUp_iff {d : Nat} {u : ℚ} {N rem : Nat} (hu : 0 < u) (dir : Nat) (neg : Bool) :
    roundsUp dir neg N rem d = true ↔ RoundsAway dir neg N u (N * u + rem * (u / 2 ^ d)) := by
  have pow : (0 : ℚ) < 2 ^ d := by positivity
  have whole : (N : ℚ) * u + rem * (u / 2 ^ d) = N * u ↔ rem = 0 := by
    simp [hu.ne', pow.ne']
  have mid : ((N : ℚ) + 1 / 2) * u = N * u + 2 ^ d * (u / 2 ^ d) / 2 := by
    field_simp
  have unit : 0 < u / 2 ^ d := by positivity
  have above : ((N : ℚ) + 1 / 2) * u < N * u + rem * (u / 2 ^ d) ↔ 2 ^ d < 2 * rem := by
    rw [mid, add_lt_add_iff_left, mul_div_right_comm, mul_lt_mul_iff_left₀ unit, div_lt_iff₀ two_pos, mul_comm (rem : ℚ)]
    exact_mod_cast Iff.rfl
  have level : (N : ℚ) * u + rem * (u / 2 ^ d) = (N + 1 / 2) * u ↔ 2 * rem = 2 ^ d := by
    rw [mid, add_left_cancel_iff, mul_div_right_comm, mul_left_inj' unit.ne', eq_div_iff two_ne_zero, mul_comm (rem : ℚ)]
    exact_mod_cast Iff.rfl
  unfold roundsUp RoundsAway
  rw [ne_eq, whole]
  by_cases h : rem = 0
  · simp [h]
  · rw [if_neg h]
    match dir with
    | 0 => simp only [h, not_false_eq_true, true_and, above, level, Bool.or_eq_true, Bool.and_eq_true, decide_eq_true_eq, beq_iff_eq]
    | 1 => simp
    | 2 => simp [h]
    | _ + 3 => simp [h]

theorem roundAt_eq (dir : Nat) (neg : Bool) (e q : Int) [Decidable (RoundsAway dir neg (floorAt m e q) (2 ^ q) (m * 2 ^ e))] :
    roundAt dir neg m e q = if RoundsAway dir neg (floorAt m e q) (2 ^ q) (m * 2 ^ e) then floorAt m e q + 1 else floorAt m e q := by
  unfold roundAt
  by_cases h : q ≤ e
  · have whole : (m : ℚ) * 2 ^ e = (floorAt m e q : Nat) * 2 ^ q := by
      rw [floorAt, if_pos h, two_zpow_split h]
      push_cast
      ring
    rw [if_pos h, if_neg fun h' => h'.1 whole, floorAt, if_pos h]
  · have pow : (0 : ℚ) < 2 ^ (q - e).toNat := by positivity
    have unit : (2 : ℚ) ^ e = 2 ^ q / 2 ^ (q - e).toNat := by
      rw [two_zpow_split (not_le.1 h).le, mul_div_cancel_left₀ _ pow.ne']
    have floor : floorAt m e q = m / 2 ^ (q - e).toNat := if_neg h
    have up := roundsUp_iff (u := 2 ^ q) (N := m / 2 ^ (q - e).toNat) (rem := m % 2 ^ (q - e).toNat) (d := (q - e).toNat) (by positivity) dir neg
    rw [← unit, ← value_split m (not_le.1 h).le, ← floor] at up
    simp only [if_neg h, ← floor]
    by_cases away : RoundsAway dir neg (floorAt m e q) (2 ^ q) (m * 2 ^ e)
    · rw [if_pos away, if_pos (up.2 away)]
    · rw [if_neg away, if_neg (mt up.1 away)]

end FloorAt

/-- R117: what the machine rounds to, where the two neighbours may be had. -/
theorem roundAt_rounds {may : Set ℚ} {lo hi : ℚ → Prop} {m : Nat} {e q : Int} (dir : Nat) (neg : Bool)
    (cell : Cell may (2 ^ q) (floorAt m e q) (m * 2 ^ e)) (cut : Cut lo hi (2 ^ q) (m * 2 ^ e)) :
    roundsCut dir neg may lo hi (roundAt dir neg m e q * 2 ^ q) := by
  classical
  rw [roundAt_eq]
  split
  case isTrue h =>
    push_cast
    exact roundsCut_ceil cell cut h
  case isFalse h => exact roundsCut_floor cell cut h

theorem roundAt_le (dir : Nat) (neg : Bool) (m : Nat) (e q : Int) :
    floorAt m e q ≤ roundAt dir neg m e q ∧ roundAt dir neg m e q ≤ floorAt m e q + 1 := by
  classical
  rw [roundAt_eq]
  split <;> omega

/-! ### The magnitudes of a format (R112, R117) -/

section Magnitudes

variable {f : Fmt} {q : Int} {n : Nat}

theorem mul_two_zpow_mem (hq : f.emin ≤ q) (hn : n ≤ 2 ^ (f.frac + 1)) : (n : ℚ) * 2 ^ q ∈ magnitudes f := by
  have step (r : Int) (h : f.emin ≤ r) : r = f.emin + ((r - f.emin).toNat : Int) := by omega
  rcases hn.lt_or_eq with h | h
  · exact ⟨n, (q - f.emin).toNat, h, by rw [← step q hq]⟩
  · refine ⟨2 ^ f.frac, (q + 1 - f.emin).toNat, Nat.pow_lt_pow_right (by decide) (Nat.lt_succ_self _), ?_⟩
    rw [← step (q + 1) (by omega), h, zpow_add_one₀ two_ne_zero]
    push_cast
    ring

/-- Around a magnitude of the exponent q, or above the smallest one, the format's magnitudes are the multiples of 2^q. -/
theorem magnitudes_cell {x : ℚ} {N : Nat} (hq : f.emin ≤ q) (hN : N < 2 ^ (f.frac + 1)) (hlow : q = f.emin ∨ 2 ^ f.frac ≤ N)
    (hle : N * 2 ^ q ≤ x) (hlt : x < (N + 1) * 2 ^ q) : Cell (magnitudes f) (2 ^ q) N x := by
  have unit : (0 : ℚ) < 2 ^ q := by positivity
  refine ⟨unit, hle, hlt, mul_two_zpow_mem hq hN.le, ?_, ?_, ?_⟩
  · have := mul_two_zpow_mem (n := N + 1) hq hN
    push_cast at this
    exact this
  · rintro a ⟨n, k, -, rfl⟩
    positivity
  · rintro a ⟨n, k, hn, rfl⟩
    by_cases h : q ≤ f.emin + k
    · obtain ⟨j, hj⟩ : ∃ j : Nat, (n : ℚ) * 2 ^ (f.emin + k) = j * 2 ^ q :=
        ⟨n * 2 ^ (f.emin + k - q).toNat, by rw [two_zpow_split h]; push_cast; ring⟩
      rw [hj]
      rcases lt_trichotomy j N with h | h | h
      · have : (j : ℚ) + 1 ≤ N := by exact_mod_cast h
        exact .inl (by linarith [mul_le_mul_of_nonneg_right this unit.le])
      · exact .inr (.inl (by rw [h]))
      · rcases (Nat.succ_le_of_lt h).eq_or_lt with h' | h'
        · exact .inr (.inr (.inl (by rw [← h']; push_cast; ring)))
        · have : (N : ℚ) + 2 ≤ j := by exact_mod_cast h'
          exact .inr (.inr (.inr (mul_le_mul_of_nonneg_right this unit.le)))
    · left
      have hN' : (2 : ℚ) ^ f.frac ≤ N := by exact_mod_cast hlow.resolve_left (by omega)
      have hn' : (n : ℚ) + 1 ≤ 2 ^ (f.frac + 1) := by exact_mod_cast hn
      have half : (2 : ℚ) ^ (f.emin + (k : Int)) ≤ 2 ^ q / 2 := by
        rw [div_eq_mul_inv, ← zpow_sub_one₀ two_ne_zero]
        exact zpow_le_zpow_right₀ one_le_two (by omega)
      calc (n : ℚ) * 2 ^ (f.emin + (k : Int)) ≤ (2 ^ (f.frac + 1) - 1) * (2 ^ q / 2) :=
            mul_le_mul (by linarith) half (by positivity) (by linarith [Nat.cast_nonneg (α := ℚ) n])
        _ ≤ N * 2 ^ q - 2 ^ q / 2 := by
            rw [pow_succ]
            linarith [mul_le_mul_of_nonneg_right hN' unit.le]

/-- What a code without its sign stands for (R112). -/
def magValue (f : Fmt) (g : Nat) : ℚ :=
  if g / 2 ^ f.frac = 0 then (g : ℚ) * 2 ^ f.emin
  else (g % 2 ^ f.frac + 2 ^ f.frac : Nat) * 2 ^ (f.emin + (g / 2 ^ f.frac : Nat) - 1)

theorem magValue_subnormal {g : Nat} (h : g < 2 ^ f.frac) : magValue f g = g * 2 ^ f.emin := if_pos (Nat.div_eq_of_lt h)

theorem magValue_normal (k : Nat) (hlo : 2 ^ f.frac ≤ n) (hhi : n < 2 * 2 ^ f.frac) : magValue f (k * 2 ^ f.frac + n) = n * 2 ^ (f.emin + k) := by
  have pos := Nat.two_pow_pos f.frac
  obtain ⟨r, rfl⟩ := Nat.exists_eq_add_of_le hlo
  have whole : k * 2 ^ f.frac + (2 ^ f.frac + r) = r + 2 ^ f.frac * (k + 1) := by ring
  have div : (k * 2 ^ f.frac + (2 ^ f.frac + r)) / 2 ^ f.frac = k + 1 := by
    rw [whole, Nat.add_mul_div_left _ _ pos, Nat.div_eq_of_lt (by omega), zero_add]
  have mod : (k * 2 ^ f.frac + (2 ^ f.frac + r)) % 2 ^ f.frac = r := by
    rw [whole, Nat.add_mul_mod_self_left, Nat.mod_eq_of_lt (by omega)]
  rw [magValue, if_neg (by rw [div]; omega), div, mod, add_comm r]
  congr 2
  push_cast
  ring

/-- The code of a multiple of 2^q (R112). -/
theorem magValue_code (hq : f.emin ≤ q) (hn : n ≤ 2 ^ (f.frac + 1)) (hlow : q = f.emin ∨ 2 ^ f.frac ≤ n) :
    magValue f ((q - f.emin).toNat * 2 ^ f.frac + n) = n * 2 ^ q := by
  have up : f.emin + ((q - f.emin).toNat : Int) = q := by omega
  rw [pow_succ] at hn
  by_cases hlo : 2 ^ f.frac ≤ n
  · rcases hn.lt_or_eq with h | h
    · rw [magValue_normal _ hlo (by omega), up]
    · have carry : (q - f.emin).toNat * 2 ^ f.frac + n = ((q - f.emin).toNat + 1) * 2 ^ f.frac + 2 ^ f.frac := by
        rw [h]
        ring
      rw [carry, magValue_normal _ le_rfl (by have := Nat.two_pow_pos f.frac; omega), h]
      push_cast
      rw [← add_assoc, up, zpow_add_one₀ two_ne_zero]
      ring
  · have least : q = f.emin := hlow.resolve_right hlo
    rw [least, sub_self, Int.toNat_zero, zero_mul, zero_add, magValue_subnormal (not_le.1 hlo)]

theorem magValue_lt_succ (f : Fmt) (g : Nat) : magValue f g < magValue f (g + 1) := by
  have step {q : Int} {n : Nat} (hq : f.emin ≤ q) (hn : n + 1 ≤ 2 ^ (f.frac + 1)) (hlow : q = f.emin ∨ 2 ^ f.frac ≤ n) :
      magValue f ((q - f.emin).toNat * 2 ^ f.frac + n) < magValue f ((q - f.emin).toNat * 2 ^ f.frac + n + 1) := by
    have unit : (0 : ℚ) < 2 ^ q := by positivity
    rw [add_assoc, magValue_code hq (by omega) hlow, magValue_code hq hn (hlow.imp_right (by omega))]
    exact mul_lt_mul_of_pos_right (by push_cast; linarith) unit
  have pos := Nat.two_pow_pos f.frac
  rcases lt_or_ge g (2 ^ f.frac) with h | h
  · have := step (q := f.emin) (n := g) le_rfl (by rw [pow_succ]; omega) (.inl rfl)
    simpa using this
  · have parts := Nat.div_add_mod' g (2 ^ f.frac)
    have mod := Nat.mod_lt g pos
    have one : 1 ≤ g / 2 ^ f.frac := (Nat.one_le_div_iff pos).2 h
    have := step (q := f.emin + (g / 2 ^ f.frac - 1 : Nat)) (n := 2 ^ f.frac + g % 2 ^ f.frac) (by omega) (by rw [pow_succ]; omega) (.inr (by omega))
    have back : (g / 2 ^ f.frac - 1) * 2 ^ f.frac + (2 ^ f.frac + g % 2 ^ f.frac) = g := by
      rw [← add_assoc, ← Nat.succ_mul, Nat.succ_eq_add_one, Nat.sub_add_cancel one, parts]
    rwa [add_sub_cancel_left, Int.toNat_natCast, back] at this

theorem magValue_strictMono (f : Fmt) : StrictMono (magValue f) := strictMono_nat_of_lt_succ (magValue_lt_succ f)

end Magnitudes

/-! ### What a code stands for (R112, R118) -/

section Codes

variable {f : Fmt} (hf : f.isFloat = true)

include hf

theorem maxCode_lt_signBit : f.maxCode < f.signBit := by
  revert hf
  cases f <;> decide

theorem signBit_mul_two : f.signBit * 2 = 2 ^ f.width := by
  revert hf
  cases f <;> decide

/-- A code whose magnitude is at most the largest finite one stands for a finite number (R112). -/
theorem decodeNum_finite {c : Nat} (hc : c % f.signBit ≤ f.maxCode) : decodeNum f c =
    if c % f.signBit / 2 ^ f.frac = 0 then .fin (bitAt c (f.width - 1)) (c % f.signBit % 2 ^ f.frac) f.emin
    else .fin (bitAt c (f.width - 1)) (c % f.signBit % 2 ^ f.frac + 2 ^ f.frac) (f.emin + (c % f.signBit / 2 ^ f.frac : Nat) - 1) := by
  generalize hg : c % f.signBit = g at hc
  unfold decodeNum
  rw [hg]
  cases f with
  | int8 | int16 | int32 | int64 | mxint4 | mxint6 | mxint8 => cases hf
  | mxfp4 => rfl
  | fp32 =>
    have finite : g / 2 ^ 23 ≠ 255 := by have : g ≤ 0x7F7FFFFF := hc; omega
    exact if_neg (mt beq_iff_eq.1 finite)
  | bf16 =>
    have finite : g / 2 ^ 7 ≠ 255 := by have : g ≤ 0x7F7F := hc; omega
    exact if_neg (mt beq_iff_eq.1 finite)
  | e5m2 =>
    have finite : g / 2 ^ 2 ≠ 31 := by have : g ≤ 0x7B := hc; omega
    exact if_neg (mt beq_iff_eq.1 finite)
  | e4m3 =>
    have finite : ¬ (g / 2 ^ 3 = 15 ∧ g % 2 ^ 3 = 7) := by have : g ≤ 0x7E := hc; omega
    refine if_neg (mt (fun h => ?_) finite)
    exact (Bool.and_eq_true_iff.1 h).imp beq_iff_eq.1 beq_iff_eq.1

/-- A code by its sign and its magnitude. -/
theorem numOf_signed (neg : Bool) {g : Nat} (hg : g ≤ f.maxCode) : numOf f (neg.toNat * f.signBit + g) =
    if g / 2 ^ f.frac = 0 then .fin neg (g % 2 ^ f.frac) f.emin
    else .fin neg (g % 2 ^ f.frac + 2 ^ f.frac) (f.emin + (g / 2 ^ f.frac : Nat) - 1) := by
  have small := hg.trans_lt (maxCode_lt_signBit hf)
  have whole : neg.toNat * f.signBit + g < 2 ^ f.width := by
    rw [← signBit_mul_two hf]
    cases neg <;> simp <;> omega
  have sign : bitAt (neg.toNat * f.signBit + g) (f.width - 1) = neg := by
    have pos : 0 < f.signBit := by omega
    rw [bitAt, ← Fmt.signBit]
    cases neg <;> simp [Nat.div_eq_of_lt small, Nat.add_div_left _ pos]
  have mag : (neg.toNat * f.signBit + g) % f.signBit = g := by rw [Nat.mul_add_mod', Nat.mod_eq_of_lt small]
  rw [numOf, hf, if_pos rfl, Nat.mod_eq_of_lt whole, decodeNum_finite hf (by rwa [mag]), sign, mag]

theorem signed_lt_two_pow (neg : Bool) {g : Nat} (hg : g ≤ f.maxCode) : neg.toNat * f.signBit + g < 2 ^ f.width := by
  have small := hg.trans_lt (maxCode_lt_signBit hf)
  rw [← signBit_mul_two hf]
  cases neg <;> simp <;> omega

theorem neg_numOf_signed (neg : Bool) {g : Nat} (hg : g ≤ f.maxCode) : (numOf f (neg.toNat * f.signBit + g)).neg? = neg := by
  rw [numOf_signed hf neg hg]
  split <;> rfl

theorem size_numOf_signed (neg : Bool) {g : Nat} (hg : g ≤ f.maxCode) :
    (numOf f (neg.toNat * f.signBit + g)).size = (magValue f g : WithTop ℚ) := by
  rw [numOf_signed hf neg hg, magValue]
  split
  case isTrue h =>
    rw [Nat.mod_eq_of_lt (Nat.lt_of_div_eq_zero (Nat.two_pow_pos _) h)]
    rfl
  case isFalse h => rfl

theorem maxF_eq : maxF f = magValue f f.maxCode := by
  have code := numOf_signed hf false (le_refl f.maxCode)
  rw [Bool.toNat_false, zero_mul, zero_add] at code
  rw [maxF, code, magValue]
  split
  case isTrue h =>
    rw [Nat.mod_eq_of_lt (Nat.lt_of_div_eq_zero (Nat.two_pow_pos _) h)]
    simp [Num.value]
  case isFalse h => simp [Num.value]

/-- The code of an infinity, in a format that has it (R112). -/
theorem numOf_infCode (h : f ≠ .e4m3 ∧ f ≠ .mxfp4) (neg : Bool) : numOf f (infCode f neg) = .inf neg := by
  obtain ⟨h4, hx⟩ := h
  cases f with
  | int8 | int16 | int32 | int64 | mxint4 | mxint6 | mxint8 => cases hf
  | e4m3 => exact absurd rfl h4
  | mxfp4 => exact absurd rfl hx
  | fp32 | bf16 | e5m2 => cases neg <;> decide

theorem infCode_lt (h : f ≠ .e4m3 ∧ f ≠ .mxfp4) (neg : Bool) : infCode f neg < 2 ^ f.width := by
  obtain ⟨h4, hx⟩ := h
  cases f with
  | int8 | int16 | int32 | int64 | mxint4 | mxint6 | mxint8 => cases hf
  | e4m3 => exact absurd rfl h4
  | mxfp4 => exact absurd rfl hx
  | fp32 | bf16 | e5m2 => cases neg <;> decide

theorem nanCode_lt : f.nanCode < 2 ^ f.width := by
  revert hf
  cases f <;> decide

omit hf in
/-- R118: the code of a magnitude beyond the largest finite one. -/
theorem overflow_code (rnd : Nat) (neg : Bool) :
    let most : Bool := decide (f = .mxfp4) || bitAt rnd 2 || rnd % 4 == 1 || (rnd % 4 == 2 && !neg) || (rnd % 4 == 3 && neg)
    overflow f rnd neg = (if most then neg.toNat * f.signBit + f.maxCode else if f = .e4m3 then f.nanCode else infCode f neg,
      if f = .mxfp4 ∨ bitAt rnd 2 = true then 5 else 4) := by
  have dir : rnd % 4 = 0 ∨ rnd % 4 = 1 ∨ rnd % 4 = 2 ∨ rnd % 4 = 3 := by omega
  unfold overflow
  by_cases hx : f = .mxfp4
  · simp [hx]
  · cases bitAt rnd 2 with
    | true => simp
    | false =>
      rcases dir with h | h | h | h
      · by_cases h4 : f = .e4m3 <;> simp [hx, h, h4]
      · simp [hx, h]
      · cases neg with
        | false => simp [hx, h]
        | true => by_cases h4 : f = .e4m3 <;> simp [hx, h, h4]
      · cases neg with
        | true => simp [hx, h]
        | false => by_cases h4 : f = .e4m3 <;> simp [hx, h, h4]

/-! ### The rounding step (R117, R118) -/

/-- The exponent of the unit to which m × 2^e is rounded (R117). -/
def unitOf (f : Fmt) (m : Nat) (e : Int) : Int := if m = 0 then f.emin else max ((Nat.log2 m : Int) + e - f.frac) f.emin

omit hf in
theorem emin_le_unitOf (m : Nat) (e : Int) : f.emin ≤ unitOf f m e := by
  unfold unitOf
  split
  · exact le_rfl
  · exact le_max_right ..

omit hf in
/-- The unit suits the number: its lower neighbour has the format's bits. -/
theorem floorAt_unitOf (m : Nat) (e : Int) : floorAt m e (unitOf f m e) < 2 ^ (f.frac + 1) ∧
    (unitOf f m e = f.emin ∨ 2 ^ f.frac ≤ floorAt m e (unitOf f m e)) := by
  have lower := floorAt_le m e (unitOf f m e)
  have upper := lt_floorAt m e (unitOf f m e)
  have unit : (0 : ℚ) < 2 ^ unitOf f m e := by positivity
  by_cases hm : m = 0
  · have zero : floorAt m e (unitOf f m e) = 0 := by simp [floorAt, hm]
    exact ⟨by rw [zero]; positivity, .inl (if_pos hm)⟩
  · have hq : unitOf f m e = max ((Nat.log2 m : Int) + e - f.frac) f.emin := if_neg hm
    have lo : (2 : ℚ) ^ ((Nat.log2 m : Int) + e) ≤ m * 2 ^ e := by
      rw [zpow_add₀ two_ne_zero, zpow_natCast]
      exact mul_le_mul_of_nonneg_right (by exact_mod_cast Nat.log2_self_le hm) (by positivity)
    have hi : (m : ℚ) * 2 ^ e < 2 ^ ((Nat.log2 m : Int) + e + 1) := by
      rw [add_right_comm, zpow_add₀ two_ne_zero, zpow_add_one₀ two_ne_zero, zpow_natCast, ← pow_succ]
      exact mul_lt_mul_of_pos_right (by exact_mod_cast Nat.lt_log2_self) (by positivity)
    refine ⟨?_, ?_⟩
    · have bound : (floorAt m e (unitOf f m e) : ℚ) * 2 ^ unitOf f m e < 2 ^ (f.frac + 1) * 2 ^ unitOf f m e := by
        refine (lower.trans_lt hi).trans_le ?_
        rw [← zpow_natCast, ← zpow_add₀ two_ne_zero]
        exact zpow_le_zpow_right₀ one_le_two (by push_cast; omega)
      exact_mod_cast lt_of_mul_lt_mul_right bound unit.le
    · rcases le_total ((Nat.log2 m : Int) + e - f.frac) f.emin with h | h
      · exact .inl (hq.trans (max_eq_right h))
      · right
        have hq : unitOf f m e = (Nat.log2 m : Int) + e - f.frac := hq.trans (max_eq_left h)
        have bound : (2 : ℚ) ^ f.frac * 2 ^ unitOf f m e < (floorAt m e (unitOf f m e) + 1) * 2 ^ unitOf f m e := by
          refine lt_of_eq_of_lt ?_ (lo.trans_lt upper)
          rw [← zpow_natCast, ← zpow_add₀ two_ne_zero, hq]
          congr 1
          ring
        have := lt_of_mul_lt_mul_right bound unit.le
        exact Nat.lt_succ_iff.1 (by exact_mod_cast this)

/-- R117, R118: what the machine answers for a magnitude that m × 2^e stands for: its neighbour's code, or, beyond the largest finite one, the
overflow's. -/
theorem roundFin_rounds {lo hi : ℚ → Prop} (rnd : Nat) (neg : Bool) {m : Nat} {e : Int} (cut : Cut lo hi (2 ^ unitOf f m e) (m * 2 ^ e)) :
    ∃ r : ℚ, roundsCut (rnd % 4) neg (magnitudes f) lo hi r ∧
      (r ≤ maxF f → ∃ g ≤ f.maxCode, roundFin f rnd neg m e = (neg.toNat * f.signBit + g, 0) ∧ magValue f g = r) ∧
      (maxF f < r → roundFin f rnd neg m e = overflow f rnd neg) := by
  obtain ⟨small, low⟩ := floorAt_unitOf (f := f) m e
  have least := emin_le_unitOf (f := f) m e
  obtain ⟨below, above⟩ := roundAt_le (rnd % 4) neg m e (unitOf f m e)
  refine ⟨_, roundAt_rounds (rnd % 4) neg (magnitudes_cell least small low (floorAt_le ..) (lt_floorAt ..)) cut, ?_⟩
  rw [← magValue_code least (by omega) (low.imp_right (by omega)), maxF_eq hf, (magValue_strictMono f).le_iff_le, (magValue_strictMono f).lt_iff_lt]
  by_cases hm : m = 0
  · have zero : roundAt (rnd % 4) neg m e (unitOf f m e) = 0 := by simp [roundAt, hm, roundsUp]
    have unit : unitOf f m e = f.emin := if_pos hm
    rw [zero, unit, sub_self, Int.toNat_zero, zero_mul]
    exact ⟨fun h => ⟨0, h, by rw [roundFin, if_pos hm, add_zero], rfl⟩, fun h => absurd h (Nat.not_lt_zero _)⟩
  · have unit : unitOf f m e = max ((Nat.log2 m : Int) + e - f.frac) f.emin := if_neg hm
    rw [unit]
    refine ⟨fun h => ⟨_, h, ?_, rfl⟩, fun h => ?_⟩
    · rw [roundFin, if_neg hm]
      exact if_neg (not_lt.2 h)
    · rw [roundFin, if_neg hm]
      exact if_pos h

end Codes

/-- The rounding of a rational magnitude, by distances. -/
theorem roundsTo_of_cut {dir : Nat} {neg : Bool} {may : Set ℚ} {x r : ℚ} (h : roundsCut dir neg may (· ≤ x) (x ≤ ·) r) : roundsTo dir neg may x r := by
  obtain ⟨hr, h⟩ := h
  refine ⟨hr, ?_⟩
  match dir, h with
  | 0, h =>
    intro q hq
    obtain ⟨below, above, tie⟩ := h q hq
    rcases lt_trichotomy q r with hlt | rfl | hlt
    · have mid : (q + r) / 2 ≤ x := below hlt
      have far : |q - x| = x - q := by rw [abs_sub_comm, abs_of_nonneg (by linarith)]
      rw [far]
      refine ⟨abs_le.2 ⟨by linarith, by linarith⟩, fun heq hne => tie hne mid (?_ : x ≤ (q + r) / 2)⟩
      have near : x ≤ r := by
        by_contra hx
        rw [abs_of_neg (by linarith)] at heq
        linarith
      rw [abs_of_nonneg (by linarith)] at heq
      linarith
    · exact ⟨le_rfl, fun _ hne => absurd rfl hne⟩
    · have mid : x ≤ (q + r) / 2 := above hlt
      have far : |q - x| = q - x := abs_of_nonneg (by linarith)
      rw [far]
      refine ⟨abs_le.2 ⟨by linarith, by linarith⟩, fun heq hne => tie hne (?_ : (q + r) / 2 ≤ x) mid⟩
      have near : r ≤ x := by
        by_contra hx
        rw [abs_of_pos (by linarith)] at heq
        linarith
      rw [abs_of_nonpos (by linarith)] at heq
      linarith
  | 1, h => exact h
  | 2, h => exact h
  | _ + 3, h => exact h

/-- The integers as what may be had (R121). -/
theorem naturals_cell (m : Nat) (e : Int) : Cell { r | ∃ i : Nat, r = i } (2 ^ (0 : Int)) (floorAt m e 0) (m * 2 ^ e) := by
  refine ⟨by norm_num, floorAt_le .., lt_floorAt .., ⟨floorAt m e 0, by simp⟩, ⟨floorAt m e 0 + 1, by push_cast; simp⟩, ?_, ?_⟩
  · rintro a ⟨i, rfl⟩
    positivity
  · rintro a ⟨i, rfl⟩
    rw [zpow_zero, mul_one, mul_one, mul_one]
    rcases lt_trichotomy i (floorAt m e 0) with h | h | h
    · have : (i : ℚ) + 1 ≤ floorAt m e 0 := by exact_mod_cast h
      exact .inl (by linarith)
    · exact .inr (.inl (by rw [h]))
    · rcases (Nat.succ_le_of_lt h).eq_or_lt with h' | h'
      · exact .inr (.inr (.inl (by rw [← h']; push_cast; ring)))
      · exact .inr (.inr (.inr (by exact_mod_cast h')))

theorem roundAt_integer (dir : Nat) (neg : Bool) (m : Nat) (e : Int) :
    roundsTo dir neg { r | ∃ i : Nat, r = i } (m * 2 ^ e) (roundAt dir neg m e 0 : Nat) := by
  have h := roundsTo_of_cut (roundAt_rounds dir neg (naturals_cell m e) (Cut.exact _ _))
  rwa [zpow_zero, mul_one] at h

end Sys2Proof.Machine
end

section
/-!
O26. What rounding and conversion answer and record, and the conversions of the V slot.
-/

namespace Sys2Proof.Machine

/-! ### Conversions to integers and between them (R121) -/

/-- The bounds of a signed number of n bits. -/
theorem signedOf_bounds (n c : Nat) : -(2 ^ (n - 1)) ≤ signedOf n c ∧ signedOf n c < 2 ^ (n - 1) := by
  have hlo := BitVec.le_toInt (BitVec.ofNat n c)
  have hhi := BitVec.toInt_lt (x := BitVec.ofNat n c)
  rw [← signedOf_eq_toInt] at hlo hhi
  exact ⟨by exact_mod_cast hlo, by exact_mod_cast hhi⟩

section Clamped

variable {n : Nat} (hn : 0 < n) (v : Int)

theorem event_clampInt : (if (clampInt n v).2 then 5 else 0) = if v < -(2 ^ (n - 1)) ∨ 2 ^ (n - 1) ≤ v then 5 else 0 := by
  have event := event_intResult n 4 v
  simpa [intResult, fitEvent] using event

include hn

theorem toInt_clampInt : (BitVec.ofNat n (clampInt n v).1).toInt = max (-(2 ^ (n - 1))) (min (2 ^ (n - 1) - 1) v) := by
  have value := toInt_intResult hn 4 v
  simpa [intResult, fitInt] using value

end Clamped

theorem width_pos (f : Fmt) : 0 < f.width := by cases f <;> decide

section Convert

variable {src dst : Fmt} (rnd : BitVec 3) {c : Nat}

theorem convert_floats (hs : src.isFloat = true) (hd : dst.isFloat = true) (hc : c < 2 ^ src.width) :
    convert src dst rnd.toNat c = roundFmt dst rnd.toNat false (numOf src c) := by
  rw [convert, numOf, if_pos hs, if_pos hs, Nat.mod_eq_of_lt hc]
  exact if_pos hd

theorem convert_toInt (hs : src.isFloat = true) (hd : dst.isFloat = false) (hc : c < 2 ^ src.width) :
    convert src dst rnd.toNat c = toIntCode dst.width rnd.toNat (numOf src c) := by
  rw [convert, numOf, if_pos hs, if_pos hs, Nat.mod_eq_of_lt hc]
  exact if_neg (Bool.eq_false_iff.1 hd)

theorem convert_fromInt (hs : src.isFloat = false) (hd : dst.isFloat = true) :
    convert src dst rnd.toNat c = roundFmt dst rnd.toNat true (numOfInt (signedOf src.width c)) := by
  rw [convert, if_neg (Bool.eq_false_iff.1 hs)]
  exact if_pos hd

theorem convert_ints (hs : src.isFloat = false) (hd : dst.isFloat = false) : convert src dst rnd.toNat c =
    if src.width ≤ dst.width then (wrapTo dst.width (signedOf src.width c), 0)
    else if rnd.getLsbD 2 || dst.isMx then
      ((clampInt dst.width (signedOf src.width c)).1, if (clampInt dst.width (signedOf src.width c)).2 then 5 else 0)
    else (wrapTo dst.width (signedOf src.width c), 0) := by
  have bit : bitAt rnd.toNat 2 = rnd.getLsbD 2 := by rw [bitAt_eq_testBit, BitVec.testBit_toNat]
  rw [convert, if_neg (Bool.eq_false_iff.1 hs), bit]
  exact if_neg (Bool.eq_false_iff.1 hd)

end Convert

/-- R121: a floating operand as an integer of n bits. -/
theorem toIntCode_fin {n : Nat} (hn : 0 < n) (rnd : Nat) (neg : Bool) (m : Nat) (e : Int) :
    ∃ k : Nat, roundsTo (rnd % 4) neg { r | ∃ i : Nat, r = i } (m * 2 ^ e) k ∧
      (BitVec.ofNat n (toIntCode n rnd (.fin neg m e)).1).toInt = max (-(2 ^ (n - 1))) (min (2 ^ (n - 1) - 1) (if neg then -(k : Int) else k)) ∧
      (toIntCode n rnd (.fin neg m e)).2 =
        if (if neg then -(k : Int) else k) < -(2 ^ (n - 1)) ∨ 2 ^ (n - 1) ≤ (if neg then -(k : Int) else k) then 5 else 0 :=
  ⟨_, roundAt_integer (rnd % 4) neg m e, toInt_clampInt hn _, event_clampInt _⟩

/-- An infinity is beyond every integer of n bits. -/
theorem toIntCode_inf {n : Nat} (hn : 0 < n) (rnd : Nat) (neg : Bool) :
    (BitVec.ofNat n (toIntCode n rnd (.inf neg)).1).toInt =
      max (-(2 ^ (n - 1))) (min (2 ^ (n - 1) - 1) (if neg then -(2 ^ (n - 1) : Int) - 1 else 2 ^ (n - 1))) ∧
    (toIntCode n rnd (.inf neg)).2 =
      if (if neg then -(2 ^ (n - 1) : Int) - 1 else 2 ^ (n - 1)) < -(2 ^ (n - 1)) ∨
        2 ^ (n - 1) ≤ (if neg then -(2 ^ (n - 1) : Int) - 1 else 2 ^ (n - 1)) then 5 else 0 := by
  have half : (2 : Int) ^ n = 2 * 2 ^ (n - 1) := by rw [← pow_succ', Nat.sub_add_cancel hn]
  have pos : (0 : Int) < 2 ^ (n - 1) := by positivity
  have code : (toIntCode n rnd (.inf neg)).1 = (clampInt n (if neg then -(2 ^ n : Int) else 2 ^ n)).1 := rfl
  have event : (toIntCode n rnd (.inf neg)).2 = 5 := rfl
  rw [code, toInt_clampInt hn, event, half]
  cases neg with
  | true => exact ⟨by simp only [if_true]; omega, (if_pos (.inl (by simp only [if_true]; omega))).symm⟩
  | false => exact ⟨by simp only [Bool.false_eq_true, if_false]; omega, (if_pos (.inr le_rfl)).symm⟩

/-- An integer that its format's width holds is not clamped. -/
theorem clamp_of_bounds {n : Nat} {v : Int} (hlo : -(2 ^ (n - 1)) ≤ v) (hhi : v < 2 ^ (n - 1)) :
    max (-(2 ^ (n - 1))) (min (2 ^ (n - 1) - 1) v) = v ∧ (if v < -(2 ^ (n - 1)) ∨ 2 ^ (n - 1) ≤ v then 5 else 0) = 0 :=
  ⟨by omega, if_neg (by omega)⟩

/-- Narrowing keeps the low bits. -/
theorem wrapTo_signedOf_mod {m n : Nat} (h : n ≤ m) (c : Nat) : wrapTo n (signedOf m c) % 2 ^ n = c % 2 ^ n := by
  have low : BitVec.ofNat n (wrapTo n (signedOf m c)) = BitVec.ofNat n c := by
    rw [ofNat_wrapTo, signedOf_eq_toInt, ← BitVec.setWidth_ofNat_of_le h, ← BitVec.signExtend_eq_setWidth_of_le _ h, BitVec.signExtend]
  simpa using congrArg BitVec.toNat low

/-! ### What rounding answers (R117, R118) -/

section Rounded

variable {f : Fmt} (hf : f.isFloat = true) (rnd : BitVec 3) (neg : Bool)

theorem bitAt_rnd : bitAt rnd.toNat 2 = rnd.getLsbD 2 := by rw [bitAt_eq_testBit, BitVec.testBit_toNat]

include hf

/-- R118: a magnitude beyond the largest finite one. -/
theorem overflow_answers : (overflow f rnd.toNat neg).1 < 2 ^ f.width ∧
    (overflow f rnd.toNat neg).2 = (if f = .mxfp4 ∨ rnd.getLsbD 2 = true then 5 else 4) ∧
    if f = .mxfp4 ∨ rnd.getLsbD 2 = true ∨ rnd.toNat % 4 = 1 ∨ (rnd.toNat % 4 = 2 ∧ neg = false) ∨ (rnd.toNat % 4 = 3 ∧ neg = true) then
      (numOf f (overflow f rnd.toNat neg).1).neg? = neg ∧ (numOf f (overflow f rnd.toNat neg).1).size = (maxF f : WithTop ℚ)
    else if f = .e4m3 then (overflow f rnd.toNat neg).1 = f.nanCode else numOf f (overflow f rnd.toNat neg).1 = .inf neg := by
  rw [overflow_code, bitAt_rnd]
  have test : (decide (f = .mxfp4) || rnd.getLsbD 2 || rnd.toNat % 4 == 1 || (rnd.toNat % 4 == 2 && !neg) || (rnd.toNat % 4 == 3 && neg)) = true ↔
      f = .mxfp4 ∨ rnd.getLsbD 2 = true ∨ rnd.toNat % 4 = 1 ∨ (rnd.toNat % 4 = 2 ∧ neg = false) ∨ (rnd.toNat % 4 = 3 ∧ neg = true) := by
    simp [or_assoc]
  simp only [test]
  by_cases most : f = .mxfp4 ∨ rnd.getLsbD 2 = true ∨ rnd.toNat % 4 = 1 ∨ (rnd.toNat % 4 = 2 ∧ neg = false) ∨ (rnd.toNat % 4 = 3 ∧ neg = true)
  · simp only [if_pos most]
    exact ⟨signed_lt_two_pow hf neg le_rfl, trivial, neg_numOf_signed hf neg le_rfl, by rw [size_numOf_signed hf neg le_rfl, maxF_eq hf]⟩
  · simp only [if_neg most]
    by_cases h4 : f = .e4m3
    · simp only [if_pos h4]
      exact ⟨nanCode_lt hf, trivial, trivial⟩
    · simp only [if_neg h4]
      have inf : f ≠ .e4m3 ∧ f ≠ .mxfp4 := ⟨h4, fun h => most (.inl h)⟩
      exact ⟨infCode_lt hf inf neg, trivial, numOf_infCode hf inf neg⟩

/-- R117, R118: the code and the event of a finite magnitude that m × 2^e stands for. -/
theorem roundFin_answers {lo hi : ℚ → Prop} {m : Nat} {e : Int} (cut : Cut lo hi (2 ^ unitOf f m e) (m * 2 ^ e)) :
    (roundFin f rnd.toNat neg m e).1 < 2 ^ f.width ∧
    ∃ r : ℚ, roundsCut (rnd.toNat % 4) neg (magnitudes f) lo hi r ∧
      (r ≤ maxF f → (roundFin f rnd.toNat neg m e).2 = 0 ∧ (numOf f (roundFin f rnd.toNat neg m e).1).neg? = neg ∧
        (numOf f (roundFin f rnd.toNat neg m e).1).size = (r : WithTop ℚ)) ∧
      (maxF f < r → roundFin f rnd.toNat neg m e = overflow f rnd.toNat neg) := by
  obtain ⟨r, hr, within, beyond⟩ := roundFin_rounds hf rnd.toNat neg cut
  have answer (h : r ≤ maxF f) : (roundFin f rnd.toNat neg m e).1 < 2 ^ f.width ∧ (roundFin f rnd.toNat neg m e).2 = 0 ∧
      (numOf f (roundFin f rnd.toNat neg m e).1).neg? = neg ∧ (numOf f (roundFin f rnd.toNat neg m e).1).size = (r : WithTop ℚ) := by
    obtain ⟨g, hg, hcode, hval⟩ := within h
    rw [hcode, ← hval]
    exact ⟨signed_lt_two_pow hf neg hg, rfl, neg_numOf_signed hf neg hg, size_numOf_signed hf neg hg⟩
  refine ⟨?_, r, hr, fun h => (answer h).2, beyond⟩
  rcases le_or_gt r (maxF f) with h | h
  · exact (answer h).1
  · rw [beyond h]
    exact (overflow_answers hf rnd neg).1

/-- R118: an infinity in each format. -/
theorem roundFmt_inf :
    (if f = .mxfp4 ∨ (f = .e4m3 ∧ rnd.getLsbD 2 = true) then (numOf f (roundFmt f rnd.toNat true (.inf neg)).1).neg? = neg ∧
        (numOf f (roundFmt f rnd.toNat true (.inf neg)).1).size = (maxF f : WithTop ℚ)
      else if f = .e4m3 then (roundFmt f rnd.toNat true (.inf neg)).1 = f.nanCode
      else numOf f (roundFmt f rnd.toNat true (.inf neg)).1 = .inf neg) ∧
    (roundFmt f rnd.toNat true (.inf neg)).2 = if f = .mxfp4 ∨ (f = .e4m3 ∧ rnd.getLsbD 2 = true) then 5 else if f = .e4m3 then 3 else 0 := by
  have most : (numOf f (neg.toNat * f.signBit + f.maxCode)).neg? = neg ∧
      (numOf f (neg.toNat * f.signBit + f.maxCode)).size = (maxF f : WithTop ℚ) :=
    ⟨neg_numOf_signed hf neg le_rfl, by rw [size_numOf_signed hf neg le_rfl, maxF_eq hf]⟩
  cases f with
  | int8 | int16 | int32 | int64 | mxint4 | mxint6 | mxint8 => cases hf
  | mxfp4 => exact ⟨by rw [if_pos (.inl rfl)]; exact most, rfl⟩
  | e4m3 =>
    rw [roundFmt, bitAt_rnd]
    cases rnd.getLsbD 2 with
    | true => exact ⟨by rw [if_pos (.inr ⟨rfl, rfl⟩)]; exact most, rfl⟩
    | false => exact ⟨by rw [if_neg (by decide)]; rfl, rfl⟩
  | fp32 | bf16 | e5m2 => exact ⟨by rw [if_neg (by simp)]; exact numOf_infCode hf (by decide) neg, by rw [if_neg (by simp)]; rfl⟩

end Rounded

/-! ### Packed registers (R131, R143) -/

theorem testBit_bits (x lo n j : Nat) : (bits x lo n).testBit j = (decide (j < n) && x.testBit (lo + j)) := by
  rw [bits, Nat.testBit_mod_two_pow, Nat.testBit_div_two_pow, add_comm]

/-- A number by its words of 32 bits, lowest first. -/
def wordSum (g : Nat → W32) (n : Nat) : Nat := (List.range n).foldr (fun i acc => (g i).toNat + 2 ^ 32 * acc) 0

theorem wordSum_succ (g : Nat → W32) (n : Nat) : wordSum g (n + 1) = 2 ^ 32 * wordSum (fun i => g (i + 1)) n + (g 0).toNat := by
  rw [wordSum, wordSum, List.range_succ_eq_map, List.foldr_cons, List.foldr_map, add_comm]

theorem testBit_wordSum (n : Nat) : ∀ (g : Nat → W32) (j : Nat), j < 32 * n → (wordSum g n).testBit j = (g (j / 32)).getLsbD (j % 32) := by
  induction n with
  | zero => intro g j hj; omega
  | succ n ih =>
    intro g j hj
    rw [wordSum_succ, Nat.testBit_two_pow_mul_add _ (g 0).isLt]
    by_cases h : j < 32
    · rw [if_pos h, Nat.div_eq_of_lt h, Nat.mod_eq_of_lt h, BitVec.testBit_toNat]
    · rw [if_neg h, ih _ (j - 32) (by omega), show (j - 32) / 32 + 1 = j / 32 by omega, show (j - 32) % 32 = j % 32 by omega]

theorem testBit_stringOf (v : Lanes) {j : Nat} (hj : j < 2048) : (stringOf v).testBit j = (lane v (j / 32)).getLsbD (j % 32) :=
  testBit_wordSum 64 (lane v) j hj

/-- The register that holds a string. -/
theorem testBit_stringOf_bits (w : Nat) {j : Nat} (hj : j < 2048) :
    (stringOf (Vector.ofFn fun i : Fin 64 => BitVec.ofNat 32 (bits w (32 * i.val) 32))).testBit j = w.testBit j := by
  have hlane : j / 32 < 64 := by omega
  have hmod : j % 32 < 32 := Nat.mod_lt _ (by decide)
  rw [testBit_stringOf _ hj, lane, vget, Vector.getElem?_ofFn, dif_pos hlane, Option.getD_some, BitVec.getLsbD_ofNat, testBit_bits, Nat.div_add_mod]
  simp [hmod]

theorem packedElem_stringOf_bits (w : Nat) {n e : Nat} (h : n * e + n ≤ 2048) :
    packedElem (stringOf (Vector.ofFn fun i : Fin 64 => BitVec.ofNat 32 (bits w (32 * i.val) 32))) n e = packedElem w n e := by
  apply Nat.eq_of_testBit_eq
  intro j
  rw [packedElem, packedElem, testBit_bits, testBit_bits]
  by_cases hj : j < n
  · rw [testBit_stringOf_bits w (by omega)]
  · simp [hj]

/-- Putting an element changes no other. -/
theorem packedElem_putElem (v n e c i : Nat) : packedElem (putElem v n e c) n i = if i = e then c % 2 ^ n else packedElem v n i := by
  apply Nat.eq_of_testBit_eq
  intro j
  rw [packedElem, testBit_bits]
  by_cases hj : j < n
  · rw [putElem, testBit_sub_bits_add _ _ _ (Nat.mod_lt c (Nat.two_pow_pos n))]
    rcases lt_trichotomy i e with h | h | h
    · have below : n * i + j < n * e := calc
        n * i + j < n * (i + 1) := by rw [mul_add, mul_one]; omega
        _ ≤ n * e := Nat.mul_le_mul_left n h
      rw [if_pos below, if_neg h.ne, packedElem, testBit_bits]
    · subst h
      rw [if_neg (by omega), if_pos (by omega), if_pos rfl, show n * i + j - n * i = j by omega]
      simp [hj]
    · have above : n * e + n ≤ n * i + j := calc
        n * e + n = n * (e + 1) := by ring
        _ ≤ n * i := Nat.mul_le_mul_left n h
        _ ≤ n * i + j := Nat.le_add_right ..
      rw [if_neg (by omega), if_neg (by omega), if_neg h.ne', packedElem, testBit_bits]
  · rw [decide_eq_false hj, Bool.false_and]
    split
    · rw [Nat.testBit_mod_two_pow, decide_eq_false hj, Bool.false_and]
    · rw [packedElem, testBit_bits, decide_eq_false hj, Bool.false_and]

/-- The elements of one part after the enabled lanes have been put there (R143). -/
theorem packedElem_foldl (m : W64) (r : Nat → Nat) (n base vd e : Nat) (k : Nat) :
    packedElem ((List.range k).foldl (fun acc i => if m.getLsbD i then putElem acc n (base + i) (r i) else acc) vd) n e =
      if base ≤ e ∧ e < base + k ∧ m.getLsbD (e - base) = true then r (e - base) % 2 ^ n else packedElem vd n e := by
  induction k with
  | zero => rw [if_neg (by omega)]; rfl
  | succ k ih =>
    rw [List.range_succ, List.foldl_append, List.foldl_cons, List.foldl_nil]
    by_cases hm : m.getLsbD k = true
    · rw [if_pos hm, packedElem_putElem, ih]
      by_cases he : e = base + k
      · subst he
        rw [if_pos rfl, if_pos ⟨by omega, by omega, by rwa [Nat.add_sub_cancel_left]⟩, Nat.add_sub_cancel_left]
      · rw [if_neg he]
        exact if_congr (by constructor <;> rintro ⟨h1, h2, h3⟩ <;> exact ⟨h1, by omega, h3⟩) rfl rfl
    · rw [if_neg hm, ih]
      refine if_congr ⟨fun ⟨h1, h2, h3⟩ => ⟨h1, by omega, h3⟩, fun ⟨h1, h2, h3⟩ => ⟨h1, ?_, h3⟩⟩ rfl rfl
      by_contra h
      have last : e - base = k := by omega
      exact hm (last ▸ h3)

theorem width_mul_parts (f : Fmt) (hf : fmtPk f) : f.width * f.parts ≤ 32 := by
  revert hf
  cases f <;> decide

section ConvertArms

variable (s : State) (g : Guard) (d a : BitVec 5) (src dst : Fmt) (hs rnd : BitVec 3)

theorem exec_vcvt : exec (.vcvt g d a src dst rnd) s = execVcvt g d a src dst rnd s := rfl
theorem exec_vunpk : exec (.vunpk g d a src dst hs rnd) s = execVunpk g d a src dst hs rnd s := rfl
theorem exec_vpack : exec (.vpack g d a src dst hs rnd) s = execVpack g d a src dst hs rnd s := rfl

end ConvertArms

/-- R143: vpack replaces the elements of the enabled lanes. -/
theorem vpack_packs {s : State} {g : Guard} (d a : BitVec 5) {src dst : Fmt} {hs : BitVec 3} (rnd : BitVec 3) (hm : s.here.laneMask g ≠ 0)
    (hd : fmtPk dst) :
    ∃ r ev, exec (.vpack g d a src dst hs rnd) s = .next (s.lanesGiven d (BitVec.allOnes 64) 3 r ev) ∧
      s.recordsLanes (s.here.laneMask g) (fun j => (convert src dst rnd.toNat ((lane (s.here.regs.rv a) j).toNat % 2 ^ src.width)).2) ev ∧
      ∀ e < 64 * dst.parts, packedElem (stringOf r) dst.width e =
        if 64 * hs.toNat ≤ e ∧ e < 64 * hs.toNat + 64 ∧ (s.here.laneMask g).getLsbD (e - 64 * hs.toNat) = true then
          (convert src dst rnd.toNat ((lane (s.here.regs.rv a) (e - 64 * hs.toNat)).toNat % 2 ^ src.width)).1 % 2 ^ dst.width
        else packedElem (stringOf (s.here.regs.rv d)) dst.width e := by
  refine ⟨_, _, exec_runV_ok hm (exec_vpack ..) rfl, laneEvent_records s _ _, fun e he => ?_⟩
  have room : dst.width * e + dst.width ≤ 2048 := calc
    dst.width * e + dst.width = dst.width * (e + 1) := by ring
    _ ≤ dst.width * (64 * dst.parts) := Nat.mul_le_mul_left _ he
    _ = 64 * (dst.width * dst.parts) := by ring
    _ ≤ 2048 := Nat.mul_le_mul_left 64 (width_mul_parts dst hd)
  rw [packedElem_stringOf_bits _ room, packedElem_foldl]
  rfl

/-- Settles O26. -/
theorem vectorConversions : Obligations.VectorConversions := by
  unfold Obligations.VectorConversions
  refine ⟨fun f rnd neg m e hf => ?_, fun src dst rnd c hc => ⟨fun hs hd => convert_floats rnd hs hd hc, fun hs hd => ?_,
    fun hs hd => convert_fromInt rnd hs hd, fun hs hd => ?_⟩, fun s g d a src dst hs rnd hm => ⟨fun _ _ => ?_, fun _ _ _ => ?_,
    fun _ hd _ => vpack_packs d a rnd hm hd⟩⟩
  · obtain ⟨small, r, hr, within, beyond⟩ := roundFin_answers hf rnd neg (Cut.exact (2 ^ unitOf f m e) (m * 2 ^ e))
    obtain ⟨-, event, code⟩ := overflow_answers hf rnd neg
    obtain ⟨infCode, infEvent⟩ := roundFmt_inf hf rnd neg
    refine ⟨small, ⟨r, roundsTo_of_cut hr, within, fun h => ?_⟩, infCode, infEvent, ?_, ?_, ?_, ?_⟩
    · have answer : roundFmt f rnd.toNat true (.fin neg m e) = overflow f rnd.toNat neg := beyond h
      dsimp only
      rw [answer]
      exact ⟨event, code⟩
    · by_cases hx : f = .mxfp4 <;> simp [roundFmt, hx]
    · by_cases hx : f = .mxfp4 <;> simp [roundFmt, hx]
    · by_cases hx : f = .mxfp4 <;> simp [roundFmt, hx]
    · intro x hx
      cases x with
      | nan => exact absurd rfl hx
      | inf s => rfl
      | fin s m e => rfl
  · dsimp only
    rw [convert_toInt rnd hs hd hc]
    refine ⟨fun h => by rw [h]; exact ⟨rfl, rfl⟩, fun neg h => by rw [h]; exact toIntCode_inf (width_pos dst) rnd.toNat neg, fun neg m e h => ?_⟩
    rw [h]
    exact toIntCode_fin (width_pos dst) rnd.toNat neg m e
  · dsimp only
    rw [convert_ints rnd hs hd]
    refine ⟨fun h => ?_, fun h1 h2 h3 => ?_⟩
    · by_cases hw : src.width ≤ dst.width
      · obtain ⟨lo, hi⟩ := signedOf_bounds src.width c
        have grow : (2 : Int) ^ (src.width - 1) ≤ 2 ^ (dst.width - 1) := pow_le_pow_right₀ (by decide) (by omega)
        have lo := (neg_le_neg grow).trans lo
        have hi := hi.trans_le grow
        obtain ⟨value, event⟩ := clamp_of_bounds lo hi
        rw [if_pos hw, value, event]
        exact ⟨toInt_wrapTo (width_pos dst) lo hi, rfl⟩
      · have clamps : (rnd.getLsbD 2 || dst.isMx) = true := Bool.or_eq_true_iff.2 (h.resolve_left hw)
        rw [if_neg hw, clamps]
        exact ⟨toInt_clampInt (width_pos dst) _, event_clampInt _⟩
    · rw [if_neg (not_le.2 h1), h2, h3]
      exact ⟨wrapTo_signedOf_mod h1.le c, rfl⟩
  · exact yieldsLanes_of_putLanes hm (exec_vcvt ..) rfl
  · exact yieldsLanes_of_putLanes hm (exec_vunpk ..) rfl

end Sys2Proof.Machine
end

section
/-!
O23. Lane arithmetic on the floating formats: exact sums, products, quotients and roots, and the codes they are rounded to.
-/

namespace Sys2Proof.Machine

/-! ### Exact sums and products (R119) -/

theorem value_fin_xor (s t : Bool) (m n : Nat) (e g : Int) :
    (Num.fin (s ^^ t) (m * n) (e + g)).value = (Num.fin s m e).value * (Num.fin t n g).value := by
  have pow : (2 : ℚ) ^ (e + g) = 2 ^ e * 2 ^ g := zpow_add₀ two_ne_zero e g
  cases s <;> cases t <;> simp only [Num.value, pow] <;> push_cast <;> simp <;> ring

theorem times_mul (a b : Num) : a.times b (a.mul b) := by
  cases a with
  | nan => cases b <;> rfl
  | inf s => cases b <;> rfl
  | fin s m e =>
    cases b with
    | nan => rfl
    | inf t => rfl
    | fin t n g => exact ⟨⟨_, _, rfl⟩, value_fin_xor s t m n e g⟩

/-- The value of an integer in units of 2^q. -/
theorem value_units (z q : Int) : (Num.fin (decide (z < 0)) z.natAbs q).value = z * 2 ^ q := by
  rcases lt_or_ge z 0 with h | h
  · have abs : ((z.natAbs : Nat) : ℚ) = -z := by rw [Nat.cast_natAbs, abs_of_neg h, Int.cast_neg]
    simp [Num.value, h, abs]
  · have abs : ((z.natAbs : Nat) : ℚ) = z := by rw [Nat.cast_natAbs, abs_of_nonneg h]
    simp [Num.value, not_lt.2 h, abs]

theorem plus_add (rnd : BitVec 3) (a b : Num) : a.plus rnd b (a.add rnd.toNat b) := by
  cases a with
  | nan => cases b <;> rfl
  | inf s => cases b <;> rfl
  | fin s m e =>
    cases b with
    | nan => rfl
    | inf t => rfl
    | fin t n g =>
      have left := value_fin_eq_zero s m e
      have right := value_fin_eq_zero t n g
      by_cases zeros : m = 0 ∧ n = 0
      · have sum : (Num.fin s m e).value + (Num.fin t n g).value = 0 := by rw [left.2 zeros.1, right.2 zeros.2, add_zero]
        have answer : (Num.fin s m e).add rnd.toNat (.fin t n g) = .fin (if s = t then s else rnd.toNat % 4 == 2) 0 0 := if_pos zeros
        rw [answer]
        refine ⟨⟨0, 0, congrArg (Num.fin · 0 0) ?_⟩, by rw [sum]; simp [Num.value]⟩
        rw [if_neg (not_not_intro sum)]
        exact if_congr (by rw [left.2 zeros.1]; simp) rfl rfl
      · have units : ((signedAt s m e (min e g) + signedAt t n g (min e g) : Int) : ℚ) * 2 ^ min e g =
            (Num.fin s m e).value + (Num.fin t n g).value := by
          push_cast
          rw [add_mul, signedAt_value s m (min_le_left e g), signedAt_value t n (min_le_right e g)]
          rfl
        have pos : (0 : ℚ) < 2 ^ min e g := by positivity
        generalize hz : signedAt s m e (min e g) + signedAt t n g (min e g) = z at units
        have answer : (Num.fin s m e).add rnd.toNat (.fin t n g) =
            if z = 0 then .fin (rnd.toNat % 4 == 2) 0 0 else .fin (decide (z < 0)) z.natAbs (min e g) := by
          rw [← hz]
          exact if_neg zeros
        by_cases h : z = 0
        · have sum : (Num.fin s m e).value + (Num.fin t n g).value = 0 := by rw [← units, h]; simp
          have mixed : ¬ (Num.fin s m e).value = 0 := by
            intro h0
            rw [h0, zero_add] at sum
            exact zeros ⟨left.1 h0, right.1 sum⟩
          rw [answer, if_pos h]
          refine ⟨⟨0, 0, congrArg (Num.fin · 0 0) ?_⟩, by rw [sum]; simp [Num.value]⟩
          rw [if_neg (not_not_intro sum), if_neg fun h' => mixed h'.1]
        · have nonzero : (Num.fin s m e).value + (Num.fin t n g).value ≠ 0 := by
            rw [← units]
            exact mul_ne_zero (by exact_mod_cast h) pos.ne'
          have sign : (Num.fin s m e).value + (Num.fin t n g).value < 0 ↔ z < 0 := by
            rw [← units, mul_neg_iff, or_iff_right fun h' => h'.2.not_gt pos, and_iff_left pos, Int.cast_lt_zero]
          rw [answer, if_neg h]
          refine ⟨⟨z.natAbs, min e g, congrArg (Num.fin · z.natAbs (min e g)) ?_⟩, by rw [value_units, units]⟩
          rw [if_pos nonzero]
          exact decide_eq_decide.2 sign.symm

/-! ### The code of an exact number (R117 to R119) -/

/-- The formats of floating lane arithmetic. -/
def LaneFloat (f : Fmt) : Prop := f = .fp32 ∨ f = .bf16 ∨ f = .e4m3 ∨ f = .e5m2

theorem LaneFloat.isFloat {f : Fmt} (h : LaneFloat f) : f.isFloat = true := by rcases h with rfl | rfl | rfl | rfl <;> rfl

theorem LaneFloat.ne_mxfp4 {f : Fmt} (h : LaneFloat f) : f ≠ .mxfp4 := by rcases h with rfl | rfl | rfl | rfl <;> decide

theorem abs_value_fin (s : Bool) (m : Nat) (e : Int) : |(Num.fin s m e).value| = m * 2 ^ e := by
  have pos : (0 : ℚ) ≤ m * 2 ^ e := by positivity
  cases s <;> simp [Num.value, abs_of_nonneg pos]

section Rounding

variable {f : Fmt} (hf : LaneFloat f) (rnd : BitVec 3)

include hf

/-- R117, R118: a magnitude of which cuts are known, rounded once. -/
theorem roundFin_roundsOff {lo hi : ℚ → Prop} (neg : Bool) {m : Nat} {e : Int} (cut : Cut lo hi (2 ^ unitOf f m e) (m * 2 ^ e)) :
    (roundFin f rnd.toNat neg m e).1 < 2 ^ f.width ∧
    roundsOff f rnd neg lo hi (roundFin f rnd.toNat neg m e).1 (roundFin f rnd.toNat neg m e).2 := by
  obtain ⟨small, r, hr, within, beyond⟩ := roundFin_answers hf.isFloat rnd neg cut
  obtain ⟨-, event, code⟩ := overflow_answers hf.isFloat rnd neg
  simp only [hf.ne_mxfp4, false_or] at event code
  refine ⟨small, r, hr, within, fun h => ?_⟩
  rw [beyond h]
  exact ⟨event, code⟩

/-- R119: the code of a number; an infinity stands in a format that has it. -/
theorem roundFmt_codes (produced : Bool) {p : Num} (hp : f = .e4m3 → ∀ s, p ≠ .inf s) :
    codes f rnd produced p (roundFmt f rnd.toNat produced p).1 (roundFmt f rnd.toNat produced p).2 := by
  cases p with
  | nan =>
    have answer : roundFmt f rnd.toNat produced .nan = (f.nanCode, if produced then 3 else 0) := if_neg hf.ne_mxfp4
    rw [answer]
    exact ⟨nanCode_lt hf.isFloat, rfl, rfl⟩
  | inf s =>
    have plain : f ≠ .e4m3 ∧ f ≠ .mxfp4 := ⟨fun h => hp h s rfl, hf.ne_mxfp4⟩
    have answer : roundFmt f rnd.toNat produced (.inf s) = (infCode f s, 0) := by
      rcases hf with rfl | rfl | rfl | rfl
      · rfl
      · rfl
      · exact absurd rfl plain.1
      · rfl
    rw [answer]
    exact ⟨infCode_lt hf.isFloat plain s, numOf_infCode hf.isFloat plain s, rfl⟩
  | fin s m e =>
    obtain ⟨small, rounds⟩ := roundFin_roundsOff hf rnd s (Cut.exact (2 ^ unitOf f m e) (m * 2 ^ e))
    refine ⟨small, ?_⟩
    show roundsValue f rnd s |(Num.fin s m e).value| _ _
    rw [abs_value_fin]
    exact rounds

omit hf in
/-- E4M3 has no infinities (R112). -/
theorem numOf_e4m3 (h : f = .e4m3) (c : Nat) (s : Bool) : numOf f c ≠ .inf s := by
  rw [h, numOf, if_pos (show Fmt.e4m3.isFloat = true from rfl), decodeNum]
  intro heq
  split at heq
  case isTrue special =>
    have mantissa := beq_iff_eq.1 (Bool.and_eq_true_iff.1 special).2
    rw [mantissa] at heq
    cases heq
  case isFalse =>
    split at heq <;> cases heq

end Rounding

/-! ### A number with a sticky bit (R119) -/

/-- The last bit of a quotient or root, which tells that something lies below it. -/
def sticky (inexact : Bool) : Nat := if inexact then 1 else 0

/-- A number of enough bits, with a sticky bit below them, stands where the magnitude itself stands. -/
theorem Cut.of_sticky {lo hi : ℚ → Prop} {f : Fmt} {Q : Nat} {inexact : Bool} {e : Int} (bits : 2 ^ (f.frac + 3) ≤ 2 * Q + sticky inexact)
    (down : ∀ {p q : ℚ}, 0 ≤ p → p ≤ q → lo q → lo p) (up : ∀ {p q : ℚ}, 0 ≤ p → p ≤ q → hi p → hi q)
    (floor : lo (Q * 2 ^ (e + 1))) (ceil : ¬ lo ((Q + 1) * 2 ^ (e + 1))) (above : hi ((Q + 1) * 2 ^ (e + 1)))
    (exact : ∀ j ≤ Q, hi (j * 2 ^ (e + 1)) ↔ inexact = false ∧ j = Q) :
    Cut lo hi (2 ^ unitOf f (2 * Q + sticky inexact) e) ((2 * Q + sticky inexact : Nat) * 2 ^ e) := by
  have nonzero : 2 * Q + sticky inexact ≠ 0 := fun h => by
    rw [h] at bits
    exact absurd bits (not_le.2 (Nat.two_pow_pos _))
  have fine : e + 3 ≤ unitOf f (2 * Q + sticky inexact) e := by
    have log : f.frac + 3 ≤ Nat.log2 (2 * Q + sticky inexact) := (Nat.le_log2 nonzero).2 bits
    rw [unitOf, if_neg nonzero]
    omega
  generalize unitOf f (2 * Q + sticky inexact) e = q at fine
  have unit : (0 : ℚ) < 2 ^ (e + 1) := by positivity
  have value : ((2 * Q + sticky inexact : Nat) : ℚ) * 2 ^ e = (Q + (sticky inexact : ℚ) / 2) * 2 ^ (e + 1) := by
    rw [zpow_add_one₀ two_ne_zero]
    push_cast
    ring
  have grid (k : Nat) : (k : ℚ) * (2 ^ q / 4) = (k * 2 ^ (q - (e + 3)).toNat : Nat) * 2 ^ (e + 1) := by
    rw [two_zpow_split fine, show e + 3 = e + 1 + 2 by ring, zpow_add₀ two_ne_zero (e + 1) 2]
    push_cast
    ring
  have bit : (sticky inexact : ℚ) = 0 ∨ (sticky inexact : ℚ) = 1 := by cases inexact <;> simp [sticky]
  refine ⟨down, up, fun k => ?_, fun k => ?_⟩
  · rw [grid, value]
    generalize k * 2 ^ (q - (e + 3)).toNat = j
    rw [mul_le_mul_iff_left₀ unit]
    constructor
    · intro h
      by_contra hlt
      have : (Q : ℚ) + 1 ≤ j := by
        have : Q < j := by
          by_contra hle
          have : (j : ℚ) ≤ Q := by exact_mod_cast not_lt.1 hle
          rcases bit with hb | hb <;> rw [hb] at hlt <;> linarith
        exact_mod_cast this
      exact ceil (down (by positivity) (mul_le_mul_of_nonneg_right this unit.le) h)
    · intro h
      have : (j : ℚ) ≤ Q := by
        have : (j : ℚ) < Q + 1 := by rcases bit with hb | hb <;> rw [hb] at h <;> linarith
        exact_mod_cast Nat.lt_succ_iff.1 (by exact_mod_cast this)
      exact down (by positivity) (mul_le_mul_of_nonneg_right this unit.le) floor
  · rw [grid, value]
    generalize k * 2 ^ (q - (e + 3)).toNat = j
    rw [mul_le_mul_iff_left₀ unit]
    rcases le_or_gt j Q with hj | hj
    · rw [exact j hj]
      have hj' : (j : ℚ) ≤ Q := by exact_mod_cast hj
      cases inexact with
      | false =>
        rw [show (sticky false : ℚ) = 0 by simp [sticky], zero_div, add_zero, Nat.cast_le]
        exact ⟨fun h => h.2.ge, fun h => ⟨rfl, le_antisymm hj h⟩⟩
      | true =>
        rw [show (sticky true : ℚ) = 1 by simp [sticky]]
        exact ⟨fun h => absurd h.1 (by decide), fun h => by linarith⟩
    · have hj' : (Q : ℚ) + 1 ≤ j := by exact_mod_cast hj
      refine ⟨fun _ => ?_, fun _ => up (by positivity) (mul_le_mul_of_nonneg_right hj' unit.le) above⟩
      rcases bit with hb | hb <;> rw [hb] <;> linarith

/-- A magnitude whose multiples of a unit are told by an integer procedure: the largest of them at or below it, and whether it is that one. -/
theorem Cut.of_scale {lo hi : ℚ → Prop} {f : Fmt} {Q X : Nat} {A : Nat → Nat} {e : Int} (mono : StrictMono A)
    (bits : 2 ^ (f.frac + 3) ≤ 2 * Q) (down : ∀ {p q : ℚ}, 0 ≤ p → p ≤ q → lo q → lo p) (up : ∀ {p q : ℚ}, 0 ≤ p → p ≤ q → hi p → hi q)
    (lo_iff : ∀ j : Nat, lo (j * 2 ^ (e + 1)) ↔ A j ≤ X) (hi_iff : ∀ j : Nat, hi (j * 2 ^ (e + 1)) ↔ X ≤ A j)
    (floor : A Q ≤ X) (ceil : X < A (Q + 1)) :
    Cut lo hi (2 ^ unitOf f (2 * Q + sticky (decide (A Q ≠ X))) e) ((2 * Q + sticky (decide (A Q ≠ X)) : Nat) * 2 ^ e) := by
  have succ : ((Q + 1 : Nat) : ℚ) = Q + 1 := by push_cast; rfl
  refine Cut.of_sticky (bits.trans (Nat.le_add_right ..)) down up ((lo_iff Q).2 floor) ?_ ?_ fun j hj => ?_
  · rw [← succ, lo_iff]
    exact not_le.2 ceil
  · rw [← succ, hi_iff]
    exact ceil.le
  · rw [hi_iff, decide_eq_false_iff_not, not_not]
    constructor
    · intro h
      have same : A j = A Q := le_antisymm (mono.monotone hj) (floor.trans h)
      exact ⟨le_antisymm floor (h.trans same.le), mono.injective same⟩
    · rintro ⟨h, rfl⟩
      exact h.ge

/-! ### Quotients and roots (R119) -/

/-- The integer square root by bits. -/
theorem isqrtBits_spec (k : Nat) : ∀ n r : Nat, r * r ≤ n → n < (r + 2 ^ k) * (r + 2 ^ k) →
    isqrtBits k n r * isqrtBits k n r ≤ n ∧ n < (isqrtBits k n r + 1) * (isqrtBits k n r + 1) := by
  induction k with
  | zero => exact fun n r hlo hhi => ⟨hlo, hhi⟩
  | succ k ih =>
    intro n r hlo hhi
    rw [isqrtBits]
    split
    case isTrue h => exact ih n _ h (by rwa [add_assoc, ← two_mul, ← pow_succ'])
    case isFalse h => exact ih n r hlo (not_le.1 h)

theorem isqrt_spec (n : Nat) : isqrt n * isqrt n ≤ n ∧ n < (isqrt n + 1) * (isqrt n + 1) := by
  refine isqrtBits_spec _ n 0 (Nat.zero_le n) ?_
  calc n < 2 ^ (Nat.log2 n + 1) := Nat.lt_log2_self
    _ ≤ 2 ^ ((Nat.log2 n / 2 + 1) + (Nat.log2 n / 2 + 1)) := Nat.pow_le_pow_right (by decide) (by omega)
    _ = _ := by rw [pow_add, zero_add]

/-- A root has half the bits of its radicand. -/
theorem le_isqrt {n k : Nat} (h : 2 ^ (k + k) ≤ n) : 2 ^ k ≤ isqrt n := by
  by_contra hlt
  have small : isqrt n + 1 ≤ 2 ^ k := not_le.1 hlt
  have := (isqrt_spec n).2.trans_le (Nat.mul_le_mul small small)
  rw [← pow_add] at this
  exact absurd h (not_le.2 this)

section Sticky

variable {f : Fmt} (hf : fmtFl f) (rnd : BitVec 3)

theorem laneFloat_of_fmtFl {f : Fmt} (hf : fmtFl f) : LaneFloat f := hf.elim .inl fun h => .inr (.inl h)

theorem frac_le_of_fmtFl {f : Fmt} (hf : fmtFl f) : f.frac ≤ 23 := by rcases hf with rfl | rfl <;> decide

include hf

theorem roundsOff_div (s t : Bool) {m n : Nat} (e g : Int) (hm : m ≠ 0) (hn : n ≠ 0) :
    (roundFmt f rnd.toNat true ((Num.fin s m e).div (.fin t n g))).1 < 2 ^ f.width ∧
    roundsValue f rnd (s ^^ t) |(Num.fin s m e).value / (Num.fin t n g).value|
      (roundFmt f rnd.toNat true ((Num.fin s m e).div (.fin t n g))).1 (roundFmt f rnd.toNat true ((Num.fin s m e).div (.fin t n g))).2 := by
  obtain ⟨sh, hsh⟩ : ∃ sh, sh = Nat.log2 n + 40 := ⟨_, rfl⟩
  have npos : 0 < n := Nat.pos_of_ne_zero hn
  have answer : (Num.fin s m e).div (.fin t n g) =
      .fin (s ^^ t) (2 * (m * 2 ^ sh / n) + sticky (decide (m * 2 ^ sh / n * n ≠ m * 2 ^ sh))) (e - g - (sh : Int) - 1) := by
    have exact : m * 2 ^ sh % n = 0 ↔ m * 2 ^ sh / n * n = m * 2 ^ sh :=
      ⟨fun h => Nat.div_mul_cancel (Nat.dvd_of_mod_eq_zero h), fun h => Nat.mod_eq_zero_of_dvd (Dvd.intro_left _ h)⟩
    rw [Num.div, if_neg hn, if_neg hm, ← hsh]
    by_cases h : m * 2 ^ sh % n = 0
    · simp [sticky, h, exact.1 h]
    · simp [sticky, h, mt exact.2 h]
  have bits : 2 ^ (f.frac + 3) ≤ 2 * (m * 2 ^ sh / n) := by
    have quotient : 2 ^ 39 ≤ m * 2 ^ sh / n := by
      rw [Nat.le_div_iff_mul_le npos]
      calc 2 ^ 39 * n ≤ 2 ^ 39 * 2 ^ (Nat.log2 n + 1) := Nat.mul_le_mul_left _ Nat.lt_log2_self.le
        _ = 2 ^ sh := by rw [← pow_add, hsh]; congr 1; omega
        _ ≤ m * 2 ^ sh := Nat.le_mul_of_pos_left _ (Nat.pos_of_ne_zero hm)
    have := Nat.pow_le_pow_right (n := 2) (by decide) (Nat.add_le_add_right (frac_le_of_fmtFl hf) 3)
    omega
  have unit : (0 : ℚ) < 2 ^ (e - g - (sh : Int) - 1 + 1) := by positivity
  have nq : (0 : ℚ) < n := by exact_mod_cast npos
  have value : |(Num.fin s m e).value / (Num.fin t n g).value| = (m * 2 ^ sh : Nat) / n * 2 ^ (e - g - (sh : Int) - 1 + 1) := by
    have split : (2 : ℚ) ^ e = 2 ^ sh * 2 ^ (e - g - (sh : Int) - 1 + 1) * 2 ^ g := by
      rw [← zpow_natCast, ← zpow_add₀ two_ne_zero, ← zpow_add₀ two_ne_zero]
      congr 1
      ring
    rw [abs_div, abs_value_fin, abs_value_fin, split]
    field_simp
    push_cast
    ring
  rw [answer, value]
  refine roundFin_roundsOff (laneFloat_of_fmtFl hf) rnd (s ^^ t) (Cut.of_scale (A := fun j => j * n) ?_ bits (fun _ h h' => h.trans h')
    (fun _ h h' => h'.trans h) (fun j => ?_) (fun j => ?_) (Nat.div_mul_le_self ..) ?_)
  · exact fun a b h => Nat.mul_lt_mul_of_pos_right h npos
  · rw [mul_le_mul_iff_left₀ unit, le_div_iff₀ nq]
    exact_mod_cast Iff.rfl
  · rw [mul_le_mul_iff_left₀ unit, div_le_iff₀ nq]
    exact_mod_cast Iff.rfl
  · exact (Nat.lt_mul_div_succ _ npos).trans_eq (mul_comm ..)

omit hf in
/-- Below a root, and at or above one, of numbers that are not negative. -/
theorem sq_mono {p q : ℚ} (hp : 0 ≤ p) (h : p ≤ q) : p ^ 2 ≤ q ^ 2 := pow_le_pow_left₀ hp h 2

theorem roundsOff_sqrt {m : Nat} (e : Int) (hm : m ≠ 0) :
    (roundFmt f rnd.toNat true (Num.fin false m e).sqrt).1 < 2 ^ f.width ∧
    roundsOff f rnd false (fun q => q ^ 2 ≤ (Num.fin false m e).value) (fun q => (Num.fin false m e).value ≤ q ^ 2)
      (roundFmt f rnd.toNat true (Num.fin false m e).sqrt).1 (roundFmt f rnd.toNat true (Num.fin false m e).sqrt).2 := by
  obtain ⟨sh, hsh⟩ : ∃ sh : Nat, sh = if e % 2 = 0 then 64 else 65 := ⟨_, rfl⟩
  obtain ⟨even, big⟩ : (e - sh) / 2 * 2 = e - sh ∧ 64 ≤ sh := by
    rw [hsh]
    split <;> constructor <;> omega
  have answer : (Num.fin false m e).sqrt = .fin false (2 * isqrt (m * 2 ^ sh) +
      sticky (decide (isqrt (m * 2 ^ sh) * isqrt (m * 2 ^ sh) ≠ m * 2 ^ sh))) ((e - sh) / 2 - 1) := by
    rw [Num.sqrt, if_neg hm, if_neg Bool.false_ne_true, ← hsh]
    by_cases h : isqrt (m * 2 ^ sh) * isqrt (m * 2 ^ sh) = m * 2 ^ sh <;> simp [sticky, h]
  have bits : 2 ^ (f.frac + 3) ≤ 2 * isqrt (m * 2 ^ sh) := by
    have root : 2 ^ 32 ≤ isqrt (m * 2 ^ sh) := le_isqrt <| (Nat.pow_le_pow_right (by decide) big).trans
      (Nat.le_mul_of_pos_left _ (Nat.pos_of_ne_zero hm))
    have := Nat.pow_le_pow_right (n := 2) (by decide) (Nat.add_le_add_right (frac_le_of_fmtFl hf) 3)
    omega
  have unit : (0 : ℚ) < (2 ^ ((e - sh) / 2 - 1 + 1)) ^ 2 := by positivity
  have value : (Num.fin false m e).value = (m * 2 ^ sh : Nat) * (2 ^ ((e - sh) / 2 - 1 + 1)) ^ 2 := by
    have split : (2 : ℚ) ^ e = 2 ^ sh * (2 ^ ((e - sh) / 2 - 1 + 1)) ^ 2 := by
      rw [← zpow_natCast, ← zpow_natCast, ← zpow_mul, ← zpow_add₀ two_ne_zero]
      congr 1
      push_cast
      omega
    rw [Num.value, split]
    push_cast
    simp
    ring
  obtain ⟨floor, ceil⟩ := isqrt_spec (m * 2 ^ sh)
  rw [answer, value]
  refine roundFin_roundsOff (laneFloat_of_fmtFl hf) rnd false (Cut.of_scale (A := fun j => j * j) (fun _ _ h => Nat.mul_self_lt_mul_self h) bits
    (fun hp h h' => (sq_mono hp h).trans h') (fun hp h h' => h'.trans (sq_mono hp h)) (fun j => ?_) (fun j => ?_) floor ceil)
  · rw [mul_pow, mul_le_mul_iff_left₀ unit, sq]
    exact_mod_cast Iff.rfl
  · rw [mul_pow, mul_le_mul_iff_left₀ unit, sq]
    exact_mod_cast Iff.rfl

theorem roundsOff_rsqrt {m : Nat} (e : Int) (hm : m ≠ 0) :
    (roundFmt f rnd.toNat true (Num.fin false m e).rsqrt).1 < 2 ^ f.width ∧
    roundsOff f rnd false (fun q => q ^ 2 * (Num.fin false m e).value ≤ 1) (fun q => 1 ≤ q ^ 2 * (Num.fin false m e).value)
      (roundFmt f rnd.toNat true (Num.fin false m e).rsqrt).1 (roundFmt f rnd.toNat true (Num.fin false m e).rsqrt).2 := by
  obtain ⟨k, hk⟩ : ∃ k : Nat, k = if (e + (2 * (Nat.log2 m + 40) : Nat)) % 2 = 0 then 2 * (Nat.log2 m + 40) else 2 * (Nat.log2 m + 40) + 1 := ⟨_, rfl⟩
  obtain ⟨even, big⟩ : (e + k) / 2 * 2 = e + k ∧ 2 * (Nat.log2 m + 40) ≤ k := by
    rw [hk]
    split <;> constructor <;> omega
  have mpos : 0 < m := Nat.pos_of_ne_zero hm
  have answer : (Num.fin false m e).rsqrt = .fin false (2 * isqrt (2 ^ k / m) +
      sticky (decide (isqrt (2 ^ k / m) * isqrt (2 ^ k / m) * m ≠ 2 ^ k))) (-((e + k) / 2) - 1) := by
    rw [Num.rsqrt, if_neg hm, if_neg Bool.false_ne_true]
    simp only [← hk]
    by_cases h : isqrt (2 ^ k / m) * isqrt (2 ^ k / m) * m = 2 ^ k <;> simp [sticky, h]
  have bits : 2 ^ (f.frac + 3) ≤ 2 * isqrt (2 ^ k / m) := by
    have root : 2 ^ 39 ≤ isqrt (2 ^ k / m) := by
      refine le_isqrt ((Nat.le_div_iff_mul_le mpos).2 ?_)
      calc 2 ^ (39 + 39) * m ≤ 2 ^ (39 + 39) * 2 ^ (Nat.log2 m + 1) := Nat.mul_le_mul_left _ Nat.lt_log2_self.le
        _ = 2 ^ (39 + 39 + (Nat.log2 m + 1)) := (pow_add ..).symm
        _ ≤ 2 ^ k := Nat.pow_le_pow_right (by decide) (by omega)
    have := Nat.pow_le_pow_right (n := 2) (by decide) (Nat.add_le_add_right (frac_le_of_fmtFl hf) 3)
    omega
  have unit : (0 : ℚ) < 2 ^ k := by positivity
  have value (j : Nat) : ((j : ℚ) * 2 ^ (-((e + k) / 2) - 1 + 1)) ^ 2 * (Num.fin false m e).value = (j * j * m : Nat) / 2 ^ k := by
    have split : (2 : ℚ) ^ e * (2 ^ (-((e + k) / 2) - 1 + 1)) ^ 2 * 2 ^ k = 1 := by
      rw [← zpow_natCast, ← zpow_natCast (2 : ℚ) k, ← zpow_mul, ← zpow_add₀ two_ne_zero, ← zpow_add₀ two_ne_zero, ← zpow_zero 2]
      congr 1
      push_cast
      omega
    rw [eq_div_iff unit.ne', Num.value]
    push_cast
    linear_combination ((j : ℚ) ^ 2 * m) * split
  have nonneg := value_fin_nonneg m e
  obtain ⟨floor, ceil⟩ := isqrt_spec (2 ^ k / m)
  rw [answer]
  refine roundFin_roundsOff (laneFloat_of_fmtFl hf) rnd false (Cut.of_scale (A := fun j => j * j * m)
    (fun _ _ h => Nat.mul_lt_mul_of_pos_right (Nat.mul_self_lt_mul_self h) mpos) bits
    (fun hp h h' => (mul_le_mul_of_nonneg_right (sq_mono hp h) nonneg).trans h')
    (fun hp h h' => h'.trans (mul_le_mul_of_nonneg_right (sq_mono hp h) nonneg)) (fun j => ?_) (fun j => ?_) ?_ ?_)
  · rw [value, div_le_one unit]
    exact_mod_cast Iff.rfl
  · rw [value, one_le_div unit]
    exact_mod_cast Iff.rfl
  · exact (Nat.le_div_iff_mul_le mpos).1 floor
  · exact (Nat.div_lt_iff_lt_mul mpos).1 ceil

/-! ### The codes of a quotient and of a root (R119, R127) -/

omit hf in
/-- A number of the format may be an infinity only where the format has it. -/
theorem fmtFl_ne_e4m3 (hf : fmtFl f) : f = .e4m3 → ∀ p : Num, ∀ s, p ≠ .inf s := by
  rintro rfl
  rcases hf with h | h <;> cases h

/-- The codes that rounding gives, with the event put in its place. -/
theorem codes_of_round (produced : Bool) (p : Num) :
    codes f rnd produced p (roundFmt f rnd.toNat produced p).1 (roundFmt f rnd.toNat produced p).2 :=
  roundFmt_codes (laneFloat_of_fmtFl hf) rnd produced fun h => fmtFl_ne_e4m3 hf h p

omit hf in
theorem isZero_fin (s : Bool) (m : Nat) (e : Int) : (Num.fin s m e).isZero = decide (m = 0) := by cases m <;> rfl

omit hf in
theorem firstEvent_false (c : Nat) (r : Rounded) : firstEvent false c r = r := rfl

/-- An infinity that is produced by its own event. -/
theorem codes_inf_event (s : Bool) : codes f rnd true (.inf s) (roundFmt f rnd.toNat true (.inf s)).1 0 := by
  obtain ⟨small, code, -⟩ := codes_of_round hf rnd true (.inf s)
  exact ⟨small, code, rfl⟩

/-- A NaN with its own event. -/
theorem codes_nan_event (produced : Bool) : codes f rnd false .nan (roundFmt f rnd.toNat produced .nan).1 0 := by
  obtain ⟨small, code, -⟩ := codes_of_round hf rnd produced .nan
  exact ⟨small, code, rfl⟩

omit hf in
theorem code_firstEvent (special : Bool) (c : Nat) (r : Rounded) : (firstEvent special c r).1 = r.1 := by cases special <;> rfl

theorem code_firstEvent_lt (special : Bool) (c : Nat) (fresh : Bool) (p : Num) :
    (firstEvent special c (roundFmt f rnd.toNat fresh p)).1 < 2 ^ f.width := by
  rw [code_firstEvent]
  exact (codes_of_round hf rnd fresh p).1

theorem quotientCode_div (a b : Num) :
    let r := firstEvent (a.finite && !a.isZero && b.isZero) 2 (roundFmt f rnd.toNat (!a.isNan && !b.isNan) (a.div b))
    quotientCode f rnd a b r.1 r.2 := by
  cases a with
  | nan => cases b <;> exact codes_of_round hf rnd false .nan
  | inf s =>
    cases b with
    | nan => exact codes_of_round hf rnd false .nan
    | inf t => exact codes_of_round hf rnd true .nan
    | fin t n g => exact codes_of_round hf rnd true (.inf (s ^^ t))
  | fin s m e =>
    cases b with
    | nan =>
      have special : ((Num.fin s m e).finite && !(Num.fin s m e).isZero && Num.nan.isZero) = false := Bool.and_false _
      rw [special]
      exact codes_of_round hf rnd false .nan
    | inf t =>
      have special : ((Num.fin s m e).finite && !(Num.fin s m e).isZero && (Num.inf t).isZero) = false := Bool.and_false _
      rw [special]
      exact codes_of_round hf rnd true (.fin (s ^^ t) 0 0)
    | fin t n g =>
      by_cases hn : n = 0
      · by_cases hm : m = 0
        · subst hn hm
          exact codes_of_round hf rnd true .nan
        · have special : ((Num.fin s m e).finite && !(Num.fin s m e).isZero && (Num.fin t n g).isZero) = true := by
            simp [isZero_fin, hm, hn, Num.finite]
          have answer : (Num.fin s m e).div (.fin t n g) = .inf (s ^^ t) := by rw [Num.div, if_pos hn, if_neg hm]
          rw [special, answer]
          show if n = 0 then _ else _
          rw [if_pos hn, if_neg hm]
          exact ⟨codes_inf_event hf rnd _, rfl⟩
      · have special : ((Num.fin s m e).finite && !(Num.fin s m e).isZero && (Num.fin t n g).isZero) = false := by simp [isZero_fin, hn]
        rw [special, firstEvent_false]
        show if n = 0 then _ else _
        rw [if_neg hn]
        by_cases hm : m = 0
        · have answer : (Num.fin s m e).div (.fin t n g) = .fin (s ^^ t) 0 0 := by rw [Num.div, if_neg hn, if_pos hm]
          have zero : |(Num.fin s m e).value / (Num.fin t n g).value| = (0 : Nat) * 2 ^ (0 : Int) := by
            rw [(value_fin_eq_zero s m e).2 hm]
            simp
          rw [answer, zero]
          exact roundFin_roundsOff (laneFloat_of_fmtFl hf) rnd (s ^^ t) (Cut.exact _ _)
        · exact roundsOff_div hf rnd s t e g hm hn

theorem rootCode_sqrt (a : Num) :
    let r := firstEvent (a.neg? && !a.isZero) 1 (roundFmt f rnd.toNat (!a.isNan) a.sqrt)
    rootCode f rnd a r.1 r.2 := by
  cases a with
  | nan => exact codes_of_round hf rnd false .nan
  | inf s =>
    cases s with
    | true => exact ⟨codes_nan_event hf rnd true, rfl⟩
    | false => exact codes_of_round hf rnd true (.inf false)
  | fin s m e =>
    by_cases hm : m = 0
    · have special : ((Num.fin s m e).neg? && !(Num.fin s m e).isZero) = false := by simp [isZero_fin, hm]
      have answer : (Num.fin s m e).sqrt = .fin s 0 0 := if_pos hm
      have zero : |(Num.fin s m e).value| = |(Num.fin s 0 0).value| := by rw [(value_fin_eq_zero s m e).2 hm]; simp [Num.value]
      obtain ⟨small, rounds⟩ := codes_of_round hf rnd true (.fin s 0 0)
      rw [special, answer, firstEvent_false]
      show if m = 0 then _ else _
      rw [if_pos hm]
      refine ⟨small, ?_⟩
      show roundsValue f rnd s |(Num.fin s m e).value| _ _
      rw [zero]
      exact rounds
    · cases s with
      | true =>
        have special : ((Num.fin true m e).neg? && !(Num.fin true m e).isZero) = true := by simp [isZero_fin, hm, Num.neg?]
        have answer : (Num.fin true m e).sqrt = .nan := by rw [Num.sqrt, if_neg hm, if_pos rfl]
        rw [special, answer]
        show if m = 0 then _ else if true = true then _ else _
        rw [if_neg hm, if_pos rfl]
        exact ⟨codes_nan_event hf rnd true, rfl⟩
      | false =>
        have special : ((Num.fin false m e).neg? && !(Num.fin false m e).isZero) = false := Bool.false_and _
        rw [special, firstEvent_false]
        show if m = 0 then _ else if false = true then _ else _
        rw [if_neg hm, if_neg Bool.false_ne_true]
        exact roundsOff_sqrt hf rnd e hm

theorem reciprocalRootCode_rsqrt (a : Num) :
    let r := firstEvent (true && a.isZero) 2 (firstEvent (a.neg? && !a.isZero) 1 (roundFmt f rnd.toNat (!a.isNan) a.rsqrt))
    reciprocalRootCode f rnd a r.1 r.2 := by
  cases a with
  | nan => exact codes_of_round hf rnd false .nan
  | inf s =>
    cases s with
    | true => exact ⟨codes_nan_event hf rnd true, rfl⟩
    | false => exact codes_of_round hf rnd true (.fin false 0 0)
  | fin s m e =>
    by_cases hm : m = 0
    · have answer : (Num.fin s m e).rsqrt = .inf s := if_pos hm
      have special : ((Num.fin s m e).neg? && !(Num.fin s m e).isZero) = false := by simp [isZero_fin, hm]
      have zero : (true && (Num.fin s m e).isZero) = true := by simp [isZero_fin, hm]
      rw [special, zero, answer, firstEvent_false]
      show if m = 0 then _ else _
      rw [if_pos hm]
      exact ⟨codes_inf_event hf rnd s, rfl⟩
    · have zero : (true && (Num.fin s m e).isZero) = false := by simp [isZero_fin, hm]
      rw [zero, firstEvent_false]
      cases s with
      | true =>
        have special : ((Num.fin true m e).neg? && !(Num.fin true m e).isZero) = true := by simp [isZero_fin, hm, Num.neg?]
        have answer : (Num.fin true m e).rsqrt = .nan := by rw [Num.rsqrt, if_neg hm, if_pos rfl]
        rw [special, answer]
        show if m = 0 then _ else if true = true then _ else _
        rw [if_neg hm, if_pos rfl]
        exact ⟨codes_nan_event hf rnd true, rfl⟩
      | false =>
        have special : ((Num.fin false m e).neg? && !(Num.fin false m e).isZero) = false := Bool.false_and _
        rw [special, firstEvent_false]
        show if m = 0 then _ else if false = true then _ else _
        rw [if_neg hm, if_neg Bool.false_ne_true]
        exact roundsOff_rsqrt hf rnd e hm

end Sticky

/-! ### exp2 (R125) -/

theorem floor_value (neg : Bool) (m : Nat) (e : Int) : Num.floor neg m e = ⌊(Num.fin neg m e).value⌋ := by
  rw [Num.floor]
  split
  case isTrue h =>
    have whole := signedAt_value neg m h
    rw [zpow_zero, mul_one] at whole
    rw [Num.value, ← whole, Int.floor_intCast]
  case isFalse h =>
    have value : (Num.fin neg m e).value = ((if neg then -(m : Int) else m : Int) : ℚ) / (2 ^ (-e).toNat : Nat) := by
      have down : (2 : ℚ) ^ e = (2 ^ (-e).toNat)⁻¹ := by
        rw [← zpow_natCast, Int.toNat_of_nonneg (by omega), ← zpow_neg, neg_neg]
      rw [Num.value, down]
      push_cast
      cases neg <;> simp [div_eq_mul_inv]
    rw [value, Rat.floor_intCast_div_natCast]
    push_cast
    rfl

theorem roundFmt_code (f : Fmt) (rnd : Nat) (fresh : Bool) (p : Num) : (roundFmt f rnd fresh p).1 = (roundFmt f rnd true p).1 := by
  cases p with
  | nan => by_cases h : f = .mxfp4 <;> simp [roundFmt, h]
  | inf s => rfl
  | fin s m e => rfl

theorem mulNE_code (a b : Nat) : (mulNE a b).1 = mulFp32 a b := roundFmt_code ..

theorem addNE_code (a b : Nat) : (addNE a b).1 = addFp32 0 a b := roundFmt_code ..

/-- R125: exp2 of a finite number, step by step. -/
theorem exp2_fin {c : Nat} {neg : Bool} {m : Nat} {e : Int} (hx : fp32 c = .fin neg m e) :
    let x := fp32 c
    let f0 := (roundFmt .fp32 0 true (x.add 0 (numOfInt (-⌊x.value⌋)))).1
    let n := if f0 = 0x3F800000 then ⌊x.value⌋ + 1 else ⌊x.value⌋
    let f := if f0 = 0x3F800000 then 0 else f0
    let t := mulFp32 f (addFp32 0 0x3F320000 (mulFp32 f (addFp32 0 0x3E680000 (mulFp32 f 0x3DA00000))))
    let p := addFp32 0 0x3F800000 t
    exp2 c = if n < -126 then (0, 0) else if 127 < n then (0x7F800000, 4)
      else if 0x7F800000 ≤ p + n * 2 ^ 23 then (0x7F800000, 4) else ((p + n * 2 ^ 23 : Int).toNat, 0) := by
  dsimp only
  rw [exp2, hx]
  simp only [floor_value, mulNE_code, addNE_code, roundNE]

/-! ### The lanes -/

section Lanes

variable {s : State} {g : Guard} {i : Instr} {d a b : BitVec 5} {f : Fmt} {rnd : BitVec 3} {lat : Nat} (hm : s.here.laneMask g ≠ 0) (hf : LaneFloat f)

/-- Every enabled lane gets a code of which something is said. -/
def State.yieldsCodes (s : State) (g : Guard) (i : Instr) (d : BitVec 5) (lat : Nat) (c : Nat → Nat → Nat → Prop) : Prop :=
  ∃ (v : Nat → W32) (ev : Nat → Nat), s.yieldsLanes g i d lat v ev ∧ ∀ j < 64, (s.here.laneMask g).getLsbD j = true → c j (v j).toNat (ev j)

include hf

theorem width_le_of_laneFloat : f.width ≤ 32 := by rcases hf with rfl | rfl | rfl | rfl <;> decide

theorem isInt_of_laneFloat : f.isInt = false := by rcases hf with rfl | rfl | rfl | rfl <;> rfl

theorem laneOf_float {c : Nat} (hc : c < 2 ^ f.width) : laneOf f c = BitVec.ofNat 32 c := by
  rw [laneOf, if_pos hf.isFloat, Nat.mod_eq_of_lt hc]

theorem toNat_laneOf {c : Nat} (hc : c < 2 ^ f.width) : (laneOf f c).toNat = c := by
  rw [laneOf_float hf hc, BitVec.toNat_ofNat, Nat.mod_eq_of_lt (hc.trans_le (Nat.pow_le_pow_right (by decide) (width_le_of_laneFloat hf)))]

theorem numOf_mod (c : Nat) : numOf f (c % 2 ^ f.width) = numOf f c := by
  rw [numOf, numOf, if_pos hf.isFloat, if_pos hf.isFloat, Nat.mod_mod]

include hm

theorem yieldsCodes_of_inLane {body : W64 → Exec Unit} {r : Nat → Rounded} {c : Nat → Nat → Nat → Prop} (hi : exec i s = runV g body s)
    (hb : body (s.here.laneMask g) s = putLanes d (s.here.laneMask g) lat (fun j => inLane f (r j)) s)
    (hr : ∀ j, (r j).1 < 2 ^ f.width ∧ c j (r j).1 (r j).2) : s.yieldsCodes g i d lat c := by
  refine ⟨fun j => laneOf f (r j).1, fun j => (r j).2, yieldsLanes_of_putLanes hm hi hb, fun j _ _ => ?_⟩
  rw [toNat_laneOf hf (hr j).1]
  exact (hr j).2

end Lanes

/-! ### E4M3 has no infinity among its numbers, so none among its sums and products -/

section NoInf

variable {x y : Num} (hx : ∀ s, x ≠ .inf s) (hy : ∀ s, y ≠ .inf s)

include hx

theorem negate_ne_inf (s : Bool) : x.negate ≠ .inf s := by
  cases x with
  | inf t => exact absurd rfl (hx t)
  | nan | fin => simp [Num.negate]

include hy

theorem add_ne_inf (r : Nat) (s : Bool) : x.add r y ≠ .inf s := by
  cases x with
  | nan => cases y <;> simp [Num.add]
  | inf t => exact absurd rfl (hx t)
  | fin t m e =>
    cases y with
    | nan => simp [Num.add]
    | inf t => exact absurd rfl (hy t)
    | fin u n g =>
      rw [Num.add]
      intro h
      split at h
      · cases h
      · dsimp only at h
        split at h <;> cases h

theorem mul_ne_inf (s : Bool) : x.mul y ≠ .inf s := by
  cases x with
  | nan => cases y <;> simp [Num.mul]
  | inf t => exact absurd rfl (hx t)
  | fin t m e =>
    cases y with
    | nan => simp [Num.mul]
    | inf t => exact absurd rfl (hy t)
    | fin u n g => simp [Num.mul]

end NoInf

section FloatForms

variable {s : State} {g : Guard} {i : Instr} {d a b : BitVec 5} {f : Fmt} {rnd : BitVec 3} {lat : Nat} (hm : s.here.laneMask g ≠ 0) (hf : LaneFloat f)

include hf

theorem arith_float (v : Int) (p : Num) (fresh : Bool) : arith f rnd v p fresh = inLane f (roundFmt f rnd.toNat fresh p) := by
  rw [arith, if_neg (Bool.eq_false_iff.1 (isInt_of_laneFloat hf))]

theorem notNan_float (c : Nat) : notNan f c = !(numOf f c).isNan := by rw [notNan, hf.isFloat, Bool.true_and]

/-- A code of an exact number, with its bound. -/
theorem rounded_codes (produced : Bool) {p : Num} (hp : f = .e4m3 → ∀ s, p ≠ .inf s) :
    (roundFmt f rnd.toNat produced p).1 < 2 ^ f.width ∧
      codes f rnd produced p (roundFmt f rnd.toNat produced p).1 (roundFmt f rnd.toNat produced p).2 :=
  ⟨(roundFmt_codes hf rnd produced hp).1, roundFmt_codes hf rnd produced hp⟩

include hm

/-- A result of two operands: whatever is said of the exact number, its code is that number's. -/
theorem vbin_codes {vi : Int → Int → Int} {vf : Num → Num → Num} {holds : Num → Num → Num → Prop} (hi : exec i s = vbin g d a b f rnd lat vi vf s)
    (hs : ∀ x y, holds x y (vf x y)) (hv : ∀ x y, (∀ t, x ≠ .inf t) → (∀ t, y ≠ .inf t) → ∀ t, vf x y ≠ .inf t) :
    s.yieldsCodes g i d lat fun j c ev => ∃ p, holds (numLane f (s.here.regs.rv a) j) (numLane f (s.here.regs.rv b) j) p ∧
      codes f rnd (!(numLane f (s.here.regs.rv a) j).isNan && !(numLane f (s.here.regs.rv b) j).isNan) p c ev := by
  refine yieldsCodes_of_inLane (r := fun j => roundFmt f rnd.toNat
    (!(numLane f (s.here.regs.rv a) j).isNan && !(numLane f (s.here.regs.rv b) j).isNan)
    (vf (numLane f (s.here.regs.rv a) j) (numLane f (s.here.regs.rv b) j))) hm hf hi
    (by simp only [exec_bind, readV_apply, arith_float hf, notNan_float hf]; rfl) fun j => ?_
  obtain ⟨small, code⟩ := rounded_codes hf (rnd := rnd)
    (!(numLane f (s.here.regs.rv a) j).isNan && !(numLane f (s.here.regs.rv b) j).isNan)
    (p := vf (numLane f (s.here.regs.rv a) j) (numLane f (s.here.regs.rv b) j)) fun h => hv _ _ (numOf_e4m3 h _) (numOf_e4m3 h _)
  exact ⟨small, _, hs _ _, code⟩

theorem vfused_codes {vi : Int → Int → Int → Int} {vf : Num → Num → Num → Num} {holds : Num → Num → Num → Num → Prop}
    (hi : exec i s = vfused g d a b f rnd vi vf s) (hs : ∀ x y z, holds x y z (vf x y z))
    (hv : ∀ x y z, (∀ t, x ≠ .inf t) → (∀ t, y ≠ .inf t) → (∀ t, z ≠ .inf t) → ∀ t, vf x y z ≠ .inf t) :
    s.yieldsCodes g i d 4 fun j c ev =>
      ∃ p, holds (numLane f (s.here.regs.rv a) j) (numLane f (s.here.regs.rv b) j) (numLane f (s.here.regs.rv d) j) p ∧
        codes f rnd (!(numLane f (s.here.regs.rv a) j).isNan && !(numLane f (s.here.regs.rv b) j).isNan &&
          !(numLane f (s.here.regs.rv d) j).isNan) p c ev := by
  refine yieldsCodes_of_inLane (r := fun j => roundFmt f rnd.toNat
    (!(numLane f (s.here.regs.rv a) j).isNan && !(numLane f (s.here.regs.rv b) j).isNan && !(numLane f (s.here.regs.rv d) j).isNan)
    (vf (numLane f (s.here.regs.rv a) j) (numLane f (s.here.regs.rv b) j) (numLane f (s.here.regs.rv d) j))) hm hf hi
    (by simp only [exec_bind, readV_apply, arith_float hf, notNan_float hf]; rfl) fun j => ?_
  obtain ⟨small, code⟩ := rounded_codes hf (rnd := rnd)
    (!(numLane f (s.here.regs.rv a) j).isNan && !(numLane f (s.here.regs.rv b) j).isNan && !(numLane f (s.here.regs.rv d) j).isNan)
    (p := vf (numLane f (s.here.regs.rv a) j) (numLane f (s.here.regs.rv b) j) (numLane f (s.here.regs.rv d) j))
    fun h => hv _ _ _ (numOf_e4m3 h _) (numOf_e4m3 h _) (numOf_e4m3 h _)
  exact ⟨small, _, hs _ _ _, code⟩

/-! ### Signs and extremes (R136, R137) -/

omit hm hf in
theorem and_mask (v : W32) {n : Nat} (hn : n ≤ 32) : (v &&& BitVec.ofNat 32 (2 ^ n - 1)).toNat = v.toNat % 2 ^ n := by
  have small : 2 ^ n - 1 < 2 ^ 32 := lt_of_lt_of_le (Nat.sub_lt (Nat.two_pow_pos n) Nat.one_pos) (Nat.pow_le_pow_right (by decide) hn)
  rw [BitVec.toNat_and, BitVec.toNat_ofNat, Nat.mod_eq_of_lt small, Nat.and_two_pow_sub_one_eq_mod]

theorem signOp_writes {neg : Bool} (hi : exec i s = signOp g d a f rnd neg s) : s.writesLanes g i d 2 fun j =>
    if (numLane f (s.here.regs.rv a) j).isNan = true then BitVec.ofNat 32 f.nanCode
    else if neg then (lane (s.here.regs.rv a) j &&& BitVec.ofNat 32 (2 ^ f.width - 1)) ^^^ BitVec.ofNat 32 f.signBit
    else (lane (s.here.regs.rv a) j &&& BitVec.ofNat 32 (2 ^ f.width - 1)) &&& BitVec.ofNat 32 (f.signBit - 1) := by
  refine yieldsLanes_of_putLanes hm hi ?_
  simp only [exec_bind, readV_apply, if_neg (Bool.eq_false_iff.1 (isInt_of_laneFloat hf)), numOf_mod hf]
  have wide := width_le_of_laneFloat hf
  have sign : f.signBit * 2 = 2 ^ f.width := signBit_mul_two hf.isFloat
  have total : 2 ^ f.width ≤ 2 ^ 32 := Nat.pow_le_pow_right (by decide) wide
  congr 1
  funext j
  have low := Nat.mod_lt (code (s.here.regs.rv a) j) (Nat.two_pow_pos f.width)
  have value : numOf f (code (s.here.regs.rv a) j) = numLane f (s.here.regs.rv a) j := rfl
  rw [value]
  by_cases hnan : (numLane f (s.here.regs.rv a) j).isNan = true
  · rw [if_pos hnan, if_pos hnan, laneOf_float hf (nanCode_lt hf.isFloat)]
  · rw [if_neg hnan, if_neg hnan]
    cases neg with
    | true =>
      have small : code (s.here.regs.rv a) j % 2 ^ f.width ^^^ f.signBit < 2 ^ f.width := Nat.xor_lt_two_pow low (by omega)
      rw [if_pos rfl, if_pos rfl, laneOf_float hf small]
      refine Prod.ext (BitVec.eq_of_toNat_eq ?_) rfl
      rw [BitVec.toNat_xor, and_mask _ wide, BitVec.toNat_ofNat, BitVec.toNat_ofNat, Nat.mod_eq_of_lt (small.trans_le total),
        Nat.mod_eq_of_lt (by omega : f.signBit < 2 ^ 32)]
      rfl
    | false =>
      have small : code (s.here.regs.rv a) j % 2 ^ f.width % f.signBit < 2 ^ f.width := (Nat.mod_le _ _).trans_lt low
      rw [if_neg Bool.false_ne_true, if_neg Bool.false_ne_true, laneOf_float hf small]
      refine Prod.ext (BitVec.eq_of_toNat_eq ?_) rfl
      rw [BitVec.toNat_and, and_mask _ wide, BitVec.toNat_ofNat, BitVec.toNat_ofNat, Nat.mod_eq_of_lt (small.trans_le total),
        Nat.mod_eq_of_lt (by omega : f.signBit - 1 < 2 ^ 32), Fmt.signBit, Nat.and_two_pow_sub_one_eq_mod]
      rfl

omit hm in
theorem minMax_float (big sub : Bool) (x y : Nat) : minMax f big sub x y = pickCode f big sub (x % 2 ^ f.width) (y % 2 ^ f.width) ∧
    minMax f big sub x y < 2 ^ f.width := by
  have xlow := Nat.mod_lt x (Nat.two_pow_pos f.width)
  have ylow := Nat.mod_lt y (Nat.two_pow_pos f.width)
  have nan := nanCode_lt hf.isFloat
  rw [minMax, pickCode, if_neg (Bool.eq_false_iff.1 (isInt_of_laneFloat hf))]
  dsimp only
  cases hp : (numOf f (x % 2 ^ f.width)).isNan with
  | true => cases hq : (numOf f (y % 2 ^ f.width)).isNan <;> cases sub <;> simp [nan, ylow]
  | false =>
    cases hq : (numOf f (y % 2 ^ f.width)).isNan with
    | true => cases sub <;> simp [nan, xlow]
    | false =>
      rw [lt_eq_under hq hp]
      by_cases h : (numOf f (y % 2 ^ f.width)).under (numOf f (x % 2 ^ f.width)) = big <;> simp [h, xlow, ylow]

theorem vminmax_picks {big sub : Bool} (hi : exec i s = vminmax g d a b f big sub s) : s.writesLanes g i d 2 fun j =>
    BitVec.ofNat 32 (pickCode f big sub ((lane (s.here.regs.rv a) j).toNat % 2 ^ f.width) ((lane (s.here.regs.rv b) j).toNat % 2 ^ f.width)) := by
  refine writesLanes_of_putPlain hm hi ?_
  simp only [exec_bind, readV_apply]
  congr 1
  funext j
  obtain ⟨picked, small⟩ := minMax_float hf big sub (code (s.here.regs.rv a) j) (code (s.here.regs.rv b) j)
  rw [laneOf_float hf small, picked]
  rfl

end FloatForms

section FloatArms

variable (s : State) (g : Guard) (d a b : BitVec 5) (f : Fmt) (rnd : BitVec 3)

theorem exec_vdiv : exec (.vdiv g d a b f rnd) s = execVdiv g d a b f rnd s := rfl
theorem exec_vsqrt : exec (.vsqrt g d a f rnd) s = vroot g d a f rnd false s := rfl
theorem exec_vrsqrt : exec (.vrsqrt g d a f rnd) s = vroot g d a f rnd true s := rfl
theorem exec_vexp2 : exec (.vexp2 g d a) s = execVexp2 g d a s := rfl

end FloatArms

section Roots

variable {s : State} {g : Guard} {d a b : BitVec 5} {f : Fmt} {rnd : BitVec 3} (hm : s.here.laneMask g ≠ 0) (hf : LaneFloat f) (hfl : fmtFl f)

include hm hf hfl

theorem vdiv_codes : s.yieldsCodes g (.vdiv g d a b f rnd) d 14 fun j =>
    quotientCode f rnd (numLane f (s.here.regs.rv a) j) (numLane f (s.here.regs.rv b) j) := by
  refine yieldsCodes_of_inLane (r := fun j =>
    let x := numLane f (s.here.regs.rv a) j
    let y := numLane f (s.here.regs.rv b) j
    firstEvent (x.finite && !x.isZero && y.isZero) 2 (roundFmt f rnd.toNat (!x.isNan && !y.isNan) (x.div y))) hm hf (exec_vdiv ..) rfl fun j => ?_
  exact ⟨code_firstEvent_lt hfl rnd _ _ _ _, quotientCode_div hfl rnd _ _⟩

theorem vsqrt_codes : s.yieldsCodes g (.vsqrt g d a f rnd) d 14 fun j => rootCode f rnd (numLane f (s.here.regs.rv a) j) := by
  refine yieldsCodes_of_inLane (r := fun j =>
    let x := numLane f (s.here.regs.rv a) j
    firstEvent (x.neg? && !x.isZero) 1 (roundFmt f rnd.toNat (!x.isNan) x.sqrt)) hm hf (exec_vsqrt s g d a f rnd) ?_ fun j => ?_
  · rfl
  exact ⟨code_firstEvent_lt hfl rnd _ _ _ _, rootCode_sqrt hfl rnd _⟩

theorem vrsqrt_codes : s.yieldsCodes g (.vrsqrt g d a f rnd) d 14 fun j => reciprocalRootCode f rnd (numLane f (s.here.regs.rv a) j) := by
  refine yieldsCodes_of_inLane (r := fun j =>
    let x := numLane f (s.here.regs.rv a) j
    firstEvent (true && x.isZero) 2 (firstEvent (x.neg? && !x.isZero) 1 (roundFmt f rnd.toNat (!x.isNan) x.rsqrt))) hm hf (exec_vrsqrt s g d a f rnd) ?_ fun j => ?_
  · rfl
  refine ⟨?_, reciprocalRootCode_rsqrt hfl rnd _⟩
  rw [code_firstEvent]
  exact code_firstEvent_lt hfl rnd _ _ _ _

end Roots

/-- The last step of exp2, which puts the integer part into the exponent. -/
theorem exp2_scaled {r : Rounded} {n : Int} {p : Nat} (h : r = if n < -126 then (0, 0) else if 127 < n then (0x7F800000, 4)
      else if 0x7F800000 ≤ p + n * 2 ^ 23 then (0x7F800000, 4) else ((p + n * 2 ^ 23 : Int).toNat, 0)) :
    (n < -126 → r.1 = 0 ∧ r.2 = 0) ∧ (127 < n → r.1 = 0x7F800000 ∧ r.2 = 4) ∧
    (-126 ≤ n → n ≤ 127 →
      if 0x7F800000 ≤ p + n * 2 ^ 23 then r.1 = 0x7F800000 ∧ r.2 = 4 else r.1 = (p + n * 2 ^ 23 : Int).toNat ∧ r.2 = 0) := by
  refine ⟨fun hn => ?_, fun hn => ?_, fun hlo hhi => ?_⟩
  · rw [h, if_pos hn]
    exact ⟨rfl, rfl⟩
  · rw [h, if_neg (by omega), if_pos hn]
    exact ⟨rfl, rfl⟩
  · rw [h, if_neg (not_lt.2 hlo), if_neg (not_lt.2 hhi)]
    split <;> exact ⟨rfl, rfl⟩

/-- R125: exp2, case by case. -/
theorem exp2_cases (c : Nat) :
    let x := fp32 c
    let r := (exp2 c).1
    let ev := (exp2 c).2
    let one := 0x3F800000
    (x = .nan → r = 0x7FC00000 ∧ ev = 0) ∧ (x = .inf true → r = 0 ∧ ev = 0) ∧ (x = .inf false → r = 0x7F800000 ∧ ev = 0) ∧
    (∀ neg m e, x = .fin neg m e →
      let f0 := (roundFmt .fp32 0 true (x.add 0 (numOfInt (-⌊x.value⌋)))).1
      let n := if f0 = one then ⌊x.value⌋ + 1 else ⌊x.value⌋
      let f := if f0 = one then 0 else f0
      let t := mulFp32 f (addFp32 0 0x3F320000 (mulFp32 f (addFp32 0 0x3E680000 (mulFp32 f 0x3DA00000))))
      let p := addFp32 0 one t
      (n < -126 → r = 0 ∧ ev = 0) ∧ (127 < n → r = 0x7F800000 ∧ ev = 4) ∧
      (-126 ≤ n → n ≤ 127 →
        if 0x7F800000 ≤ p + n * 2 ^ 23 then r = 0x7F800000 ∧ ev = 4 else r = (p + n * 2 ^ 23 : Int).toNat ∧ ev = 0)) := by
  dsimp only
  refine ⟨fun h => ?_, fun h => ?_, fun h => ?_, fun neg m e h => ?_⟩
  · rw [exp2, h]; exact ⟨rfl, rfl⟩
  · rw [exp2, h]; exact ⟨rfl, rfl⟩
  · rw [exp2, h]; exact ⟨rfl, rfl⟩
  · exact exp2_scaled (exp2_fin h)

/-- Settles O23. -/
theorem vectorFloatLanes : Obligations.VectorFloatLanes := by
  unfold Obligations.VectorFloatLanes
  refine ⟨exp2_cases, fun s g d a b f rnd hm hf => ⟨?_, ?_, ?_, ?_, ?_, ?_, ?_, fun sub => ⟨?_, ?_⟩, fun hfl => ⟨?_, ?_, ?_⟩, ?_⟩⟩
  · exact vbin_codes (holds := fun x y p => x.plus rnd y p) hm hf (exec_vadd ..) (plus_add rnd) fun _ _ hx hy => add_ne_inf hx hy _
  · exact vbin_codes (holds := fun x y p => x.plus rnd y.negate p) hm hf (exec_vsub ..) (fun x y => plus_add rnd x y.negate)
      fun _ _ hx hy => add_ne_inf hx (negate_ne_inf hy) _
  · exact vbin_codes (holds := fun x y p => x.times y p) hm hf (exec_vmul ..) times_mul fun _ _ hx hy => mul_ne_inf hx hy
  · have fused := vfused_codes (holds := fun x y z r => ∃ p, x.times y p ∧ p.plus rnd z r) hm hf (exec_vfma g d a b f rnd s)
      (fun x y z => ⟨_, times_mul x y, plus_add rnd (x.mul y) z⟩) fun _ _ _ hx hy hz => add_ne_inf (mul_ne_inf hx hy) hz _
    obtain ⟨v, ev, yields, said⟩ := fused
    refine ⟨v, ev, yields, fun j hj on => ?_⟩
    obtain ⟨r, ⟨p, product, sum⟩, code⟩ := said j hj on
    exact ⟨p, r, product, sum, code⟩
  · have fused := vfused_codes (holds := fun x y z r => ∃ p, x.times y p ∧ z.plus rnd p.negate r) hm hf (exec_vfms g d a b f rnd s)
      (fun x y z => ⟨_, times_mul x y, plus_add rnd z (x.mul y).negate⟩) fun _ _ _ hx hy hz => add_ne_inf hz (negate_ne_inf (mul_ne_inf hx hy)) _
    obtain ⟨v, ev, yields, said⟩ := fused
    refine ⟨v, ev, yields, fun j hj on => ?_⟩
    obtain ⟨r, ⟨p, product, sum⟩, code⟩ := said j hj on
    exact ⟨p, r, product, sum, code⟩
  · exact signOp_writes hm hf (exec_vabs ..)
  · exact signOp_writes hm hf (exec_vneg ..)
  · exact vminmax_picks hm hf (exec_vmin ..)
  · exact vminmax_picks hm hf (exec_vmax ..)
  · exact vdiv_codes hm hf hfl
  · exact vsqrt_codes hm hf hfl
  · exact vrsqrt_codes hm hf hfl
  · rintro rfl
    refine yieldsLanes_of_putLanes hm (exec_vexp2 ..) ?_
    have whole (c : Nat) : laneOf .fp32 c = BitVec.ofNat 32 c := by
      rw [laneOf, if_pos (show Fmt.fp32.isFloat = true from rfl)]
      exact BitVec.eq_of_toNat_eq (by simp [Fmt.width])
    simp only [exec_bind, readV_apply, inLane, whole]
    rfl

end Sys2Proof.Machine
end

section
/-!
O28. The sorted-index merge: where its two lists stand at each entry, and that ascending lists give the ascending union.
-/

namespace Sys2Proof.Machine

/-! ### Where the two lists stand (R148) -/

theorem idxAt_le (v : Lanes) (i : Nat) : idxAt v i ≤ sent := by
  unfold idxAt
  split
  · exact Nat.le_of_lt_succ (lane v i).isLt
  · exact le_rfl

/-- One step of the merge: each list at the lower index goes on, and none once both are at their end. -/
def mergeNext (a b : Lanes) (p : Nat × Nat) : Nat × Nat :=
  if idxAt a p.1 = sent ∧ idxAt b p.2 = sent then p
  else (if idxAt a p.1 ≤ idxAt b p.2 then p.1 + 1 else p.1, if idxAt b p.2 ≤ idxAt a p.1 then p.2 + 1 else p.2)

/-- Where the lists stand at entry n, from a place on. -/
def mergePos (a b : Lanes) (p : Nat × Nat) (n : Nat) : Nat × Nat := (mergeNext a b)^[n] p

/-- The entry at a place: the lower index with the lanes that supply it. -/
def mergeEntry (a b : Lanes) (p : Nat × Nat) : Option (Nat × Nat × Nat) :=
  if idxAt a p.1 = sent ∧ idxAt b p.2 = sent then none
  else some (min (idxAt a p.1) (idxAt b p.2), if idxAt a p.1 ≤ idxAt b p.2 then p.1 else sent, if idxAt b p.2 ≤ idxAt a p.1 then p.2 else sent)

section Positions

variable (a b : Lanes)

theorem mergePos_succ (p : Nat × Nat) (n : Nat) : mergePos a b p (n + 1) = mergeNext a b (mergePos a b p n) := Function.iterate_succ_apply' ..

theorem mergePos_next (p : Nat × Nat) (n : Nat) : mergePos a b p (n + 1) = mergePos a b (mergeNext a b p) n := Function.iterate_succ_apply ..

theorem mergePos_done {p : Nat × Nat} (h : idxAt a p.1 = sent ∧ idxAt b p.2 = sent) (n : Nat) : mergePos a b p n = p :=
  Function.iterate_fixed (show mergeNext a b p = p from if_pos h) n

/-- The procedure's list is its entry at the place and the list from the next place on. -/
theorem mergeFrom_succ (n : Nat) (p : Nat × Nat) : mergeFrom a b (n + 1) p.1 p.2 =
    (mergeEntry a b p).elim [] fun e => e :: mergeFrom a b n (mergeNext a b p).1 (mergeNext a b p).2 := by
  rw [mergeFrom, mergeEntry, mergeNext]
  by_cases done : idxAt a p.1 = sent ∧ idxAt b p.2 = sent
  · simp [done]
  · rw [if_neg done, if_neg done, if_neg done]
    rcases lt_trichotomy (idxAt a p.1) (idxAt b p.2) with h | h | h
    · simp [h.ne, h.le, h.not_ge, h]
    · simp [h]
    · simp [h.ne', h.le, h.not_ge, h.not_gt]

theorem getElem_mergeFrom (N : Nat) : ∀ (n : Nat) (p : Nat × Nat), n < N → (mergeFrom a b N p.1 p.2)[n]? = mergeEntry a b (mergePos a b p n) := by
  induction N with
  | zero => intro n p h; omega
  | succ N ih =>
    intro n p hn
    rw [mergeFrom_succ]
    by_cases done : idxAt a p.1 = sent ∧ idxAt b p.2 = sent
    · have none : mergeEntry a b p = none := if_pos done
      rw [mergePos_done a b done, none]
      rfl
    · have some : mergeEntry a b p = some _ := if_neg done
      rw [some]
      cases n with
      | zero => exact some.symm
      | succ n => rw [mergePos_next]; exact ih n _ (by omega)

end Positions

/-! ### Ascending lists (R148) -/

/-- A list of indices in ascending order without repeats, SENT at its end. -/
def Ascending (v : Lanes) : Prop := ∀ j < 64, ∀ i < j, code v i < code v j ∨ code v j = sent

theorem idxAt_of_lt {v : Lanes} {i : Nat} (h : i < 64) : idxAt v i = code v i := if_pos h

theorem lt_of_idxAt_ne {v : Lanes} {i : Nat} (h : idxAt v i ≠ sent) : i < 64 := by
  by_contra hi
  exact h (if_neg hi)

theorem Ascending.lt_succ {v : Lanes} (hv : Ascending v) {i : Nat} (h : idxAt v i ≠ sent) : idxAt v i < idxAt v (i + 1) := by
  have hi := lt_of_idxAt_ne h
  have below := (idxAt_le v i).lt_of_ne h
  by_cases hs : i + 1 < 64
  · rw [idxAt_of_lt hi, idxAt_of_lt hs]
    rw [idxAt_of_lt hi] at below
    exact (hv (i + 1) hs i (Nat.lt_succ_self i)).elim id fun h' => h' ▸ below
  · rw [show idxAt v (i + 1) = sent from if_neg hs]
    exact below

/-- Beyond a place every index is larger, or SENT. -/
theorem Ascending.above {v : Lanes} (hv : Ascending v) {i k : Nat} (hik : i < k) (hk : code v k ≠ sent) (hk' : k < 64) : idxAt v i < code v k := by
  rw [idxAt_of_lt (hik.trans hk')]
  exact (hv k hk' i hik).resolve_right hk

section Keys

variable {a b : Lanes}

/-- The lower of the indices at which the two lists stand. -/
def mergeKey (a b : Lanes) (p : Nat × Nat) : Nat := min (idxAt a p.1) (idxAt b p.2)

theorem mergeKey_eq_sent {p : Nat × Nat} : mergeKey a b p = sent ↔ idxAt a p.1 = sent ∧ idxAt b p.2 = sent := by
  have := idxAt_le a p.1
  have := idxAt_le b p.2
  unfold mergeKey
  omega

theorem mergeKey_le (p : Nat × Nat) : mergeKey a b p ≤ sent := (min_le_left ..).trans (idxAt_le ..)

theorem mergeNext_of_key {p : Nat × Nat} (h : mergeKey a b p ≠ sent) : mergeNext a b p =
    (if idxAt a p.1 ≤ idxAt b p.2 then p.1 + 1 else p.1, if idxAt b p.2 ≤ idxAt a p.1 then p.2 + 1 else p.2) := if_neg (mt mergeKey_eq_sent.2 h)

theorem mergeKey_swap (p : Nat × Nat) : mergeKey b a p.swap = mergeKey a b p := min_comm ..

theorem mergeNext_swap (p : Nat × Nat) : mergeNext b a p.swap = (mergeNext a b p).swap := by
  unfold mergeNext
  by_cases h : idxAt a p.1 = sent ∧ idxAt b p.2 = sent
  · exact (if_pos (And.comm.1 h)).trans (congrArg Prod.swap (if_pos h).symm)
  · rw [if_neg h]
    exact if_neg (mt And.comm.1 h)

/-- The keys from the start on. -/
def keyAt (a b : Lanes) (n : Nat) : Nat := mergeKey a b (mergePos a b (0, 0) n)

theorem mergePos_swap (n : Nat) : mergePos b a (0, 0) n = (mergePos a b (0, 0) n).swap := by
  induction n with
  | zero => rfl
  | succ n ih => rw [mergePos_succ, mergePos_succ, ih, mergeNext_swap]

theorem keyAt_swap (n : Nat) : keyAt b a n = keyAt a b n := by rw [keyAt, mergePos_swap, mergeKey_swap, keyAt]

/-- A lane that list A has passed was the lower index at an entry before. -/
theorem passed {n i : Nat} (h : i < (mergePos a b (0, 0) n).1) : ∃ m < n, (mergePos a b (0, 0) m).1 = i ∧ keyAt a b m ≠ sent ∧ code a i = keyAt a b m := by
  induction n with
  | zero => exact absurd h (Nat.not_lt_zero i)
  | succ n ih =>
    by_cases old : i < (mergePos a b (0, 0) n).1
    · obtain ⟨m, hm, rest⟩ := ih old
      exact ⟨m, hm.trans (Nat.lt_succ_self n), rest⟩
    · rw [mergePos_succ] at h
      have key : keyAt a b n ≠ sent := fun done => old (by rwa [show mergeNext a b _ = _ from if_pos (mergeKey_eq_sent.1 done)] at h)
      rw [mergeNext_of_key key] at h
      have hle : idxAt a (mergePos a b (0, 0) n).1 ≤ idxAt b (mergePos a b (0, 0) n).2 := by
        by_contra hgt
        rw [if_neg hgt] at h
        exact old h
      rw [if_pos hle] at h
      have here : (mergePos a b (0, 0) n).1 = i := by omega
      have value : keyAt a b n = idxAt a i := here ▸ min_eq_left hle
      exact ⟨n, Nat.lt_succ_self n, here, key, by rw [value, idxAt_of_lt (lt_of_idxAt_ne (value ▸ key))]⟩

/-- A key that is not SENT is the index of a lane of A, or of B. -/
theorem keyAt_supplied {n : Nat} (h : keyAt a b n ≠ sent) : (∃ i < 64, code a i = keyAt a b n) ∨ ∃ j < 64, code b j = keyAt a b n := by
  rcases min_choice (idxAt a (mergePos a b (0, 0) n).1) (idxAt b (mergePos a b (0, 0) n).2) with hk | hk
  · have hlt := lt_of_idxAt_ne fun done => h (hk.trans done)
    exact .inl ⟨_, hlt, (idxAt_of_lt hlt).symm.trans hk.symm⟩
  · have hlt := lt_of_idxAt_ne fun done => h (hk.trans done)
    exact .inr ⟨_, hlt, (idxAt_of_lt hlt).symm.trans hk.symm⟩

/-- Once both lists are at their end they stay there. -/
theorem mergePos_stays {n : Nat} (h : keyAt a b n = sent) : mergePos a b (0, 0) (n + 1) = mergePos a b (0, 0) n :=
  (mergePos_succ ..).trans (if_pos (mergeKey_eq_sent.1 h))

theorem keyAt_sent_of_le {m n : Nat} (h : keyAt a b m = sent) (hmn : m ≤ n) : keyAt a b n = sent := by
  induction n, hmn using Nat.le_induction with
  | base => exact h
  | succ n _ ih => rw [keyAt, mergePos_stays ih]; exact ih

end Keys

section Ascending

variable {a b : Lanes} (ha : Ascending a) (hb : Ascending b)

include ha hb

theorem keyAt_lt_succ {n : Nat} (h : keyAt a b n ≠ sent) : keyAt a b n < keyAt a b (n + 1) := by
  unfold keyAt at h ⊢
  rw [mergePos_succ]
  generalize mergePos a b (0, 0) n = p at h ⊢
  have stepA (hle : idxAt a p.1 ≤ idxAt b p.2) : idxAt a p.1 < idxAt a (p.1 + 1) := ha.lt_succ fun h' => h ((min_eq_left hle).trans h')
  have stepB (hle : idxAt b p.2 ≤ idxAt a p.1) : idxAt b p.2 < idxAt b (p.2 + 1) := hb.lt_succ fun h' => h ((min_eq_right hle).trans h')
  rw [mergeNext_of_key h]
  unfold mergeKey
  rcases lt_trichotomy (idxAt a p.1) (idxAt b p.2) with h' | h' | h'
  · have := stepA h'.le
    simp only [h'.le, h'.not_ge, if_true, if_false]
    omega
  · have := stepA h'.le
    have := stepB h'.ge
    simp only [h'.le, h'.ge, if_true]
    omega
  · have := stepB h'.le
    simp only [h'.le, h'.not_ge, if_true, if_false]
    omega

/-- The keys ascend up to SENT. -/
theorem keyAt_lt {m n : Nat} (h : keyAt a b m ≠ sent) (hmn : m < n) : keyAt a b m < keyAt a b n := by
  induction n, hmn using Nat.le_induction with
  | base => exact keyAt_lt_succ ha hb h
  | succ n _ ih =>
    by_cases done : keyAt a b n = sent
    · rw [keyAt, keyAt, mergePos_stays done]
      exact ih
    · exact ih.trans (keyAt_lt_succ ha hb done)

theorem keyAt_ends : ∃ n, keyAt a b n = sent := by
  by_contra never
  rw [not_exists] at never
  have grows : StrictMono (keyAt a b) := fun m n hmn => keyAt_lt ha hb (never m) hmn
  exact never sent (le_antisymm (mergeKey_le _) grows.le_apply)

/-- Every index of list A below SENT becomes a key, at an entry where A stands at its lane. -/
theorem keyAt_of_code {i : Nat} (hi : i < 64) (h : code a i ≠ sent) : ∃ n, (mergePos a b (0, 0) n).1 = i ∧ code a i = keyAt a b n := by
  obtain ⟨n, done⟩ := keyAt_ends ha hb
  have atEnd := (mergeKey_eq_sent.1 done).1
  have behind : i < (mergePos a b (0, 0) n).1 := by
    rcases lt_trichotomy i (mergePos a b (0, 0) n).1 with hlt | here | beyond
    · exact hlt
    · exact absurd ((idxAt_of_lt hi).symm.trans (here ▸ atEnd)) h
    · have := ha.above beyond h hi
      have : code a i ≤ sent := idxAt_of_lt hi ▸ idxAt_le a i
      omega
  obtain ⟨m, -, here, -, value⟩ := passed behind
  exact ⟨m, here, value⟩

/-- The keys are the indices of both lists in ascending order, and then SENT. -/
theorem sort_union_getD (n : Nat) :
    (((((Finset.range 64).image (code a) ∪ (Finset.range 64).image (code b)).filter fun e => e < sent).sort (· ≤ ·))[n]?).getD sent = keyAt a b n := by
  have ends := keyAt_ends ha hb
  have before {m : Nat} (h : m < Nat.find ends) : keyAt a b m ≠ sent := Nat.find_min ends h
  have ascends : ((List.range (Nat.find ends)).map (keyAt a b)).Pairwise (· < ·) :=
    List.pairwise_map.2 (List.pairwise_lt_range.imp_of_mem fun hm _ hmn => keyAt_lt ha hb (before (List.mem_range.1 hm)) hmn)
  have members : ((List.range (Nat.find ends)).map (keyAt a b)).toFinset =
      ((Finset.range 64).image (code a) ∪ (Finset.range 64).image (code b)).filter fun e => e < sent := by
    ext e
    simp only [List.mem_toFinset, List.mem_map, List.mem_range, Finset.mem_filter, Finset.mem_union, Finset.mem_image, Finset.mem_range]
    constructor
    · rintro ⟨m, hm, rfl⟩
      exact ⟨keyAt_supplied (before hm), (mergeKey_le _).lt_of_ne (before hm)⟩
    · rintro ⟨listed, below⟩
      obtain ⟨m, value⟩ : ∃ m, e = keyAt a b m := by
        rcases listed with ⟨i, hi, rfl⟩ | ⟨j, hj, rfl⟩
        · obtain ⟨m, -, value⟩ := keyAt_of_code ha hb hi below.ne
          exact ⟨m, value⟩
        · obtain ⟨m, -, value⟩ := keyAt_of_code hb ha hj below.ne
          exact ⟨m, value.trans (keyAt_swap m)⟩
      refine ⟨m, ?_, value.symm⟩
      by_contra late
      exact (value ▸ below).ne (keyAt_sent_of_le (Nat.find_spec ends) (not_lt.1 late))
  rw [← members, (List.toFinset_sort (r := (· ≤ ·)) (ascends.imp ne_of_lt)).2 (ascends.imp le_of_lt)]
  by_cases h : n < Nat.find ends
  · simp [h]
  · simp [h, keyAt_sent_of_le (Nat.find_spec ends) (not_lt.1 h)]

/-- Where list A's lane i holds the key of an entry, A stands at lane i there. -/
theorem mergePos_of_code {n i : Nat} (hi : i < 64) (hk : keyAt a b n ≠ sent) (h : code a i = keyAt a b n) : (mergePos a b (0, 0) n).1 = i := by
  rcases lt_trichotomy (mergePos a b (0, 0) n).1 i with beyond | here | behind
  · have := ha.above beyond (h ▸ hk) hi
    have : keyAt a b n ≤ idxAt a (mergePos a b (0, 0) n).1 := min_le_left ..
    omega
  · exact here
  · obtain ⟨m, hmn, -, hm, value⟩ := passed behind
    have := keyAt_lt ha hb hm hmn
    omega

end Ascending

/-! ### What an entry gives in each mode (R148) -/

section Modes

variable {a b : Lanes}

/-- What a mode takes of an entry: the index, the lane of A or the lane of B. -/
def mergeField (mode : BitVec 2) (e : Nat × Nat × Nat) : Nat := if mode = 0 then e.1 else if mode = 1 then e.2.1 else e.2.2

/-- What a mode other than `.sq` gives to lane n. -/
def mergeLane (a b : Lanes) (mode : BitVec 2) (n : Nat) : W32 :=
  BitVec.ofNat 32 ((((mergeFrom a b 64 0 0).map (mergeField mode))[n]?).getD sent)

theorem mergeLane_eq (mode : BitVec 2) {n : Nat} (h : n < 64) :
    mergeLane a b mode n = BitVec.ofNat 32 ((mergeEntry a b (mergePos a b (0, 0) n)).elim sent (mergeField mode)) := by
  rw [mergeLane, List.getElem?_map, getElem_mergeFrom a b 64 n (0, 0) h]
  cases mergeEntry a b (mergePos a b (0, 0) n) <;> rfl

theorem mergeEntry_done {p : Nat × Nat} (h : mergeKey a b p = sent) : mergeEntry a b p = none := if_pos (mergeKey_eq_sent.1 h)

theorem mergeEntry_of_key {p : Nat × Nat} (h : mergeKey a b p ≠ sent) : mergeEntry a b p =
    some (mergeKey a b p, if idxAt a p.1 ≤ idxAt b p.2 then p.1 else sent, if idxAt b p.2 ≤ idxAt a p.1 then p.2 else sent) := if_neg (mt mergeKey_eq_sent.2 h)

theorem mergeLane_done (mode : BitVec 2) {n : Nat} (hn : n < 64) (h : keyAt a b n = sent) : mergeLane a b mode n = 0xFFFFFFFF := by
  rw [mergeLane_eq mode hn, mergeEntry_done h]
  rfl

theorem mergeLane_index {n : Nat} (hn : n < 64) : mergeLane a b 0 n = BitVec.ofNat 32 (keyAt a b n) := by
  by_cases h : keyAt a b n = sent
  · rw [mergeLane_done 0 hn h, h]
    rfl
  · rw [mergeLane_eq 0 hn, mergeEntry_of_key h]
    rfl

theorem mergeLane_a {n : Nat} (hn : n < 64) (h : keyAt a b n ≠ sent) : mergeLane a b 1 n =
    BitVec.ofNat 32 (if idxAt a (mergePos a b (0, 0) n).1 ≤ idxAt b (mergePos a b (0, 0) n).2 then (mergePos a b (0, 0) n).1 else sent) := by
  rw [mergeLane_eq 1 hn, mergeEntry_of_key h]
  rfl

theorem mergeLane_b {n : Nat} (hn : n < 64) (h : keyAt a b n ≠ sent) : mergeLane a b 2 n =
    BitVec.ofNat 32 (if idxAt b (mergePos a b (0, 0) n).2 ≤ idxAt a (mergePos a b (0, 0) n).1 then (mergePos a b (0, 0) n).2 else sent) := by
  rw [mergeLane_eq 2 hn, mergeEntry_of_key h]
  rfl

theorem mergeLane_swap {n : Nat} (hn : n < 64) : mergeLane a b 2 n = mergeLane b a 1 n := by
  by_cases h : keyAt a b n = sent
  · rw [mergeLane_done 2 hn h, mergeLane_done 1 hn (keyAt_swap n ▸ h)]
  · rw [mergeLane_b hn h, mergeLane_a hn (keyAt_swap (a := a) n ▸ h), mergePos_swap (a := a)]
    rfl

/-- In mode `.ia` an entry of an ascending union has the lane of A with its index, or SENT. -/
theorem mergeLane_supplied (ha : Ascending a) (hb : Ascending b) {n : Nat} (hn : n < 64) :
    (keyAt a b n ≠ sent → ∀ i < 64, code a i = keyAt a b n → mergeLane a b 1 n = BitVec.ofNat 32 i) ∧
    (keyAt a b n = sent ∨ (∀ i < 64, code a i ≠ keyAt a b n) → mergeLane a b 1 n = 0xFFFFFFFF) := by
  by_cases h : keyAt a b n = sent
  · exact ⟨fun hk => absurd h hk, fun _ => mergeLane_done 1 hn h⟩
  · rw [mergeLane_a hn h]
    refine ⟨fun _ i hi value => ?_, fun none => ?_⟩
    · have here := mergePos_of_code ha hb hi h value
      have lower : idxAt a (mergePos a b (0, 0) n).1 ≤ idxAt b (mergePos a b (0, 0) n).2 := by
        rw [here, idxAt_of_lt hi, value]
        exact min_le_right ..
      rw [if_pos lower, here]
    · have absent := none.resolve_left h
      have higher : ¬ idxAt a (mergePos a b (0, 0) n).1 ≤ idxAt b (mergePos a b (0, 0) n).2 := fun hle => by
        have key : keyAt a b n = idxAt a (mergePos a b (0, 0) n).1 := min_eq_left hle
        have hlt := lt_of_idxAt_ne (key ▸ h)
        exact absent _ hlt ((idxAt_of_lt hlt).symm.trans key.symm)
      rw [if_neg higher]
      rfl

end Modes

/-! ### The instruction -/

theorem exec_vmerge (g : Guard) (d a b : BitVec 5) (f : Fmt) (mode : BitVec 2) (s : State) :
    exec (.vmerge g d a b f mode) s = execVmerge g d a b f mode s := rfl

theorem mode_cases (mode : BitVec 2) : mode = 0 ∨ mode = 1 ∨ mode = 2 ∨ mode = 3 := by
  revert mode
  decide

theorem vmerge_writes {s : State} {g : Guard} (d a b : BitVec 5) (f : Fmt) {mode : BitVec 2} (hm : s.here.laneMask g ≠ 0) (h : mode ≠ 3) :
    s.writesLanes g (.vmerge g d a b f mode) d 8 (mergeLane (s.here.regs.rv a) (s.here.regs.rv b) mode) := by
  refine writesLanes_of_putPlain hm (exec_vmerge ..) ?_
  rcases mode_cases mode with rfl | rfl | rfl | rfl
  · rfl
  · rfl
  · rfl
  · exact absurd rfl h

/-- Which elements of B are no exact zeros (R149). -/
theorem squeeze_eq (f : Fmt) (a b : Lanes) : squeeze f a b = ((List.range 64).filter fun i =>
    if f = .fp32 then decide (code b i % 2 ^ 31 ≠ 0) else if f = .bf16 then decide (code b i % 2 ^ 15 ≠ 0) else decide (lane b i ≠ 0)).map (code a) := by
  have isZero (i : Nat) : (code b i != 0) = decide (lane b i ≠ 0) := by
    rw [Bool.eq_iff_iff]
    simp [code, BitVec.toNat_eq]
  have mod (i n : Nat) : (code b i % n != 0) = decide (code b i % n ≠ 0) := by
    rw [Bool.eq_iff_iff]
    simp
  unfold squeeze
  congr 1
  cases f <;> simp only [isZero, mod, reduceCtorEq, if_true, if_false]

theorem vmerge_squeezes {s : State} {g : Guard} (d a b : BitVec 5) (f : Fmt) (hm : s.here.laneMask g ≠ 0) :
    s.writesLanes g (.vmerge g d a b f 3) d 8 fun i => BitVec.ofNat 32 (((squeeze f (s.here.regs.rv a) (s.here.regs.rv b))[i]?).getD sent) :=
  writesLanes_of_putPlain hm (exec_vmerge ..) rfl

/-- The lanes of a list of their numbers. -/
theorem ofNat_map_code (v : Lanes) (l : List Nat) (n : Nat) :
    BitVec.ofNat 32 (((l.map (code v))[n]?).getD sent) = ((l.map (lane v))[n]?).getD 0xFFFFFFFF := by
  rw [List.getElem?_map, List.getElem?_map]
  cases l[n]? with
  | none => rfl
  | some i => exact BitVec.ofNat_toNat ..

/-- Settles O28: the places at which the lists stand are the procedure's, and for ascending lists the keys are the sorted union. -/
theorem vectorMerges : Obligations.VectorMerges := by
  unfold Obligations.VectorMerges
  intro s g d a b f mode hm va vb sent' x y sorted both entry supplied nonzero
  have keys (ha : sorted x) (hb : sorted y) (n : Nat) : entry n = keyAt va vb n := sort_union_getD ha hb n
  refine ⟨fun h => ⟨mergeLane va vb mode, fun n => (mergePos va vb (0, 0) n).1, fun n => (mergePos va vb (0, 0) n).2,
    vmerge_writes d a b f hm h, rfl, rfl, fun n hn => ?_, fun ha hb => ⟨?_, ?_, ?_⟩⟩, ?_⟩
  · refine ⟨fun hp hq => ?_, fun hpq => ?_⟩
    · have done : keyAt va vb n = sent := mergeKey_eq_sent.2 ⟨hp, hq⟩
      exact ⟨mergeLane_done mode hn done, congrArg Prod.fst (mergePos_stays done), congrArg Prod.snd (mergePos_stays done)⟩
    · have key : keyAt va vb n ≠ sent := fun done => hpq.elim (fun h => h (mergeKey_eq_sent.1 done).1) fun h => h (mergeKey_eq_sent.1 done).2
      have next := (mergePos_succ va vb (0, 0) n).trans (mergeNext_of_key key)
      refine ⟨congrArg Prod.fst next, congrArg Prod.snd next, ?_, ?_, ?_⟩
      · rintro rfl
        exact mergeLane_index hn
      · rintro rfl
        exact (mergeLane_a hn key).trans (apply_ite ..)
      · rintro rfl
        exact (mergeLane_b hn key).trans (apply_ite ..)
  · rintro rfl n hn
    rw [keys ha hb]
    exact mergeLane_index hn
  · rintro rfl n hn
    rw [keys ha hb]
    exact mergeLane_supplied ha hb hn
  · rintro rfl n hn
    rw [keys ha hb, ← keyAt_swap, mergeLane_swap hn]
    exact mergeLane_supplied hb ha hn
  · rintro rfl
    have given := vmerge_squeezes d a b f hm
    simp only [squeeze_eq, ofNat_map_code] at given
    exact given

end Sys2Proof.Machine
end

section
/-!
O27. Reductions and prefix sums: the combining tree, the group's events and the running sums.
-/

namespace Sys2Proof.Machine

/-! ### The combining tree (R124, R144) -/

/-- Two subtrees combined, what is absent left out. -/
def joinOpt {α : Type} (node : α → α → α) : Option α → Option α → Option α
  | none, y => y
  | x, none => x
  | some a, some b => some (node a b)

section Tree

variable {α : Type} (node : α → α → α) (leaf : Nat → Option α)

theorem treeVal_succ (d lo : Nat) :
    treeVal node leaf (d + 1) lo = joinOpt node (treeVal node leaf d lo) (treeVal node leaf d (lo + 2 ^ d)) := by
  rw [treeVal]
  cases treeVal node leaf d lo <;> cases treeVal node leaf d (lo + 2 ^ d) <;> rfl

/-- One level pairs the neighbours. -/
theorem treeLevel_range (f : α → α → α) (n : Nat) (g : Nat → α) :
    treeLevel f ((List.range (2 * n)).map g) = (List.range n).map fun i => f (g (2 * i)) (g (2 * i + 1)) := by
  induction n generalizing g with
  | zero => rfl
  | succ n ih =>
    rw [show 2 * (n + 1) = 2 * n + 1 + 1 by ring, List.range_succ_eq_map, List.range_succ_eq_map, List.range_succ_eq_map]
    simp only [List.map_cons, List.map_map, treeLevel]
    exact congrArg _ (ih _)

theorem tree_singleton (f : α → α → α) (n : Nat) (a : α) : tree f n [a] = [a] := by
  induction n with
  | zero => rfl
  | succ n ih => exact ih

/-- The levels over a row of subtrees end in the value of the whole tree. -/
theorem tree_treeVal (lo : Nat) : ∀ (d e N : Nat), d ≤ N →
    tree (joinOpt node) N ((List.range (2 ^ d)).map fun i => treeVal node leaf e (lo + i * 2 ^ e)) = [treeVal node leaf (d + e) lo] := by
  intro d
  induction d with
  | zero =>
    intro e N _
    simp only [pow_zero, List.range_one, List.map_singleton, tree_singleton, zero_mul, add_zero, zero_add]
  | succ d ih =>
    intro e N hN
    obtain ⟨N, rfl⟩ : ∃ M, N = M + 1 := ⟨N - 1, by omega⟩
    have pair (i : Nat) : joinOpt node (treeVal node leaf e (lo + 2 * i * 2 ^ e)) (treeVal node leaf e (lo + (2 * i + 1) * 2 ^ e)) =
        treeVal node leaf (e + 1) (lo + i * 2 ^ (e + 1)) := by
      rw [treeVal_succ, show lo + i * 2 ^ (e + 1) = lo + 2 * i * 2 ^ e by ring, show lo + (2 * i + 1) * 2 ^ e = lo + 2 * i * 2 ^ e + 2 ^ e by ring]
    rw [tree, pow_succ', treeLevel_range]
    simp only [pair]
    rw [ih (e + 1) N (by omega), show d + (e + 1) = d + 1 + e by ring]

variable {node leaf}

/-- What holds of the leaves that are present, and of a node when it does of its subtrees, holds of the tree and the leaves below it. -/
theorem treeVal_induct {Q : Finset Nat → α → Prop} (one : ∀ k a, leaf k = some a → Q {k} a)
    (two : ∀ s t a b, Q s a → Q t b → Q (s ∪ t) (node a b)) (d lo : Nat) :
    (treeVal node leaf d lo = none ∧ (Finset.Ico lo (lo + 2 ^ d)).filter (fun k => (leaf k).isSome) = ∅) ∨
    ∃ a, treeVal node leaf d lo = some a ∧ Q ((Finset.Ico lo (lo + 2 ^ d)).filter fun k => (leaf k).isSome) a := by
  induction d generalizing lo with
  | zero =>
    have self : Finset.Ico lo (lo + 2 ^ 0) = {lo} := Nat.Ico_succ_singleton lo
    rw [self, treeVal, Finset.filter_singleton]
    cases h : leaf lo with
    | none => exact .inl ⟨rfl, rfl⟩
    | some a => exact .inr ⟨a, rfl, one lo a h⟩
  | succ d ih =>
    have halves : Finset.Ico lo (lo + 2 ^ (d + 1)) = Finset.Ico lo (lo + 2 ^ d) ∪ Finset.Ico (lo + 2 ^ d) (lo + 2 ^ d + 2 ^ d) := by
      rw [Finset.Ico_union_Ico_eq_Ico (Nat.le_add_right ..) (Nat.le_add_right ..), pow_succ', two_mul, add_assoc]
    rw [halves, Finset.filter_union, treeVal_succ]
    rcases ih lo with ⟨ha, sa⟩ | ⟨a, ha, qa⟩ <;> rcases ih (lo + 2 ^ d) with ⟨hb, sb⟩ | ⟨b, hb, qb⟩
    · rw [ha, hb, sa, sb]
      exact .inl ⟨rfl, rfl⟩
    · rw [ha, hb, sa, Finset.empty_union]
      exact .inr ⟨b, rfl, qb⟩
    · rw [ha, hb, sb, Finset.union_empty]
      exact .inr ⟨a, rfl, qa⟩
    · rw [ha, hb]
      exact .inr ⟨_, rfl, two _ _ a b qa qb⟩

/-- A tree with a leaf present has a value. -/
theorem treeVal_present {d lo k : Nat} (hk : lo ≤ k ∧ k < lo + 2 ^ d) (h : (leaf k).isSome = true) : ∃ a, treeVal node leaf d lo = some a := by
  rcases treeVal_induct (node := node) (leaf := leaf) (Q := fun _ _ => True) (fun _ _ _ => trivial) (fun _ _ _ _ _ _ => trivial) d lo with ⟨-, none⟩ | ⟨a, ha, -⟩
  · exact absurd (Finset.mem_filter.2 ⟨Finset.mem_Ico.2 hk, h⟩) (none ▸ Finset.notMem_empty k)
  · exact ⟨a, ha⟩

/-- A map that carries nodes to nodes, on values that nodes keep, carries the tree to the tree. -/
theorem treeVal_map {β : Type} {P : α → Prop} {node' : β → β → β} (h : α → β) (one : ∀ k a, leaf k = some a → P a)
    (two : ∀ a b, P a → P b → P (node a b) ∧ node' (h a) (h b) = h (node a b)) (d lo : Nat) :
    treeVal node' (fun k => (leaf k).map h) d lo = (treeVal node leaf d lo).map h ∧ ∀ a, treeVal node leaf d lo = some a → P a := by
  induction d generalizing lo with
  | zero => exact ⟨rfl, fun a ha => one lo a ha⟩
  | succ d ih =>
    obtain ⟨mapA, keepA⟩ := ih lo
    obtain ⟨mapB, keepB⟩ := ih (lo + 2 ^ d)
    rw [treeVal_succ, treeVal_succ, mapA, mapB]
    cases ha : treeVal node leaf d lo with
    | none => exact ⟨by cases treeVal node leaf d (lo + 2 ^ d) <;> rfl, fun b hb => keepB b hb⟩
    | some a =>
      cases hb : treeVal node leaf d (lo + 2 ^ d) with
      | none => exact ⟨rfl, fun b hb => keepA b (ha.trans hb)⟩
      | some b =>
        obtain ⟨keep, eq⟩ := two a b (keepA a ha) (keepB b hb)
        refine ⟨congrArg some eq, fun c hc => ?_⟩
        cases hc
        exact keep

end Tree

/-- A node of R144 with the event of its subtrees and its own. -/
def nodeOf (f : Nat → Nat → Rounded) (p q : Rounded) : Rounded := ((f p.1 q.1).1, firstCode (firstCode p.2 q.2) (f p.1 q.1).2)

/-- Of three events the first code of R127 is kept. -/
theorem foldl_firstCode (x y z : Nat) :
    ([x, y, z].filter fun c => c != 0).foldl (fun acc c => if acc = 0 ∨ c < acc then c else acc) 0 = firstCode (firstCode x y) z := by
  unfold firstCode
  by_cases hx : x = 0 <;> by_cases hy : y = 0 <;> by_cases hz : z = 0 <;> simp [hx, hy, hz] <;> grind

theorem nodeOpt_eq (f : Nat → Nat → Rounded) : nodeOpt f = joinOpt (nodeOf f) := by
  funext x y
  cases x with
  | none => rfl
  | some p =>
    cases y with
    | none => rfl
    | some q => exact congrArg (fun e => some (_, e)) (foldl_firstCode ..)

/-- The leaves of a group: the codes of the enabled lanes. -/
def leafOf (m : W64) (v : Lanes) (k : Nat) : Option Rounded := if m.getLsbD k then some (code v k, 0) else none

/-- The model's value of a group is that of the balanced tree. -/
theorem groupValue_eq (f : Nat → Nat → Rounded) (m : W64) (v : Lanes) (lo : Nat) {d : Nat} (hd : d ≤ 6) :
    groupValue f m v lo (2 ^ d) = treeVal (nodeOf f) (leafOf m v) d lo := by
  have row := tree_treeVal (nodeOf f) (leafOf m v) lo d 0 6 hd
  simp only [pow_zero, mul_one, add_zero] at row
  unfold groupValue
  rw [nodeOpt_eq]
  exact congrArg (fun l => (l.head?).getD none) row

/-! ### Groups of lanes (R144) -/

section Groups

variable (grp : BitVec 2)

/-- The lanes of a group. -/
def groupSize : Nat := 64 / 2 ^ grp.toNat

theorem groupSize_eq : groupSize grp = 2 ^ (6 - grp.toNat) := by
  revert grp
  decide

theorem groupSize_pos : 0 < groupSize grp := groupSize_eq grp ▸ Nat.two_pow_pos _

/-- The enabled lanes of lane j's group. -/
def groupOf (m : W64) (j : Nat) : Finset Nat := (Finset.range 64).filter fun i => i / groupSize grp = j / groupSize grp ∧ m.getLsbD i = true

theorem div_group_eq {i j : Nat} : i / groupSize grp = j / groupSize grp ↔
    j / groupSize grp * groupSize grp ≤ i ∧ i < j / groupSize grp * groupSize grp + groupSize grp := by
  rw [Nat.div_eq_iff (groupSize_pos grp)]
  have := groupSize_pos grp
  omega

/-- A group lies within the 64 lanes. -/
theorem group_end {j : Nat} (hj : j < 64) : j / groupSize grp * groupSize grp + groupSize grp ≤ 64 := by
  have whole : 2 ^ grp.toNat * groupSize grp = 64 := by
    revert grp
    decide
  have : j / groupSize grp < 2 ^ grp.toNat := Nat.div_lt_of_lt_mul (by rw [mul_comm, whole]; exact hj)
  calc j / groupSize grp * groupSize grp + groupSize grp = (j / groupSize grp + 1) * groupSize grp := by ring
    _ ≤ 2 ^ grp.toNat * groupSize grp := Nat.mul_le_mul_right _ this
    _ = 64 := whole

theorem groupOf_eq_Ico {m : W64} {j : Nat} (hj : j < 64) :
    groupOf grp m j = (Finset.Ico (j / groupSize grp * groupSize grp) (j / groupSize grp * groupSize grp + groupSize grp)).filter fun i => m.getLsbD i = true := by
  have stop := group_end grp hj
  ext i
  simp only [groupOf, Finset.mem_filter, Finset.mem_range, Finset.mem_Ico, div_group_eq]
  refine ⟨fun ⟨_, h⟩ => h, fun ⟨within, on⟩ => ⟨?_, within, on⟩⟩
  omega

/-- The leaves present under a group's tree are its enabled lanes. -/
theorem leaves_group {m : W64} (v : Lanes) {j : Nat} (hj : j < 64) :
    (Finset.Ico (j / groupSize grp * groupSize grp) (j / groupSize grp * groupSize grp + 2 ^ (6 - grp.toNat))).filter
      (fun k => (leafOf m v k).isSome) = groupOf grp m j := by
  rw [groupOf_eq_Ico grp hj, ← groupSize_eq]
  refine Finset.filter_congr fun k _ => ?_
  unfold leafOf
  cases m.getLsbD k <;> simp

/-- The lane that a group's event is recorded at: an enabled one of the group, at or below every other one. -/
theorem groupLow_spec {m : W64} {j : Nat} (hm : m.getLsbD j = true) :
    let low := groupLow m (j / groupSize grp * groupSize grp) (groupSize grp)
    low ≤ j ∧ m.getLsbD low = true ∧ low / groupSize grp = j / groupSize grp := by
  have within : j / groupSize grp * groupSize grp + j % groupSize grp = j := Nat.div_add_mod' ..
  have inside := Nat.mod_lt j (groupSize_pos grp)
  dsimp only
  unfold groupLow
  generalize hk : (List.range (groupSize grp)).find? (fun k => m.getLsbD (j / groupSize grp * groupSize grp + k)) = found
  cases found with
  | none =>
    rw [List.find?_eq_none] at hk
    have := hk _ (List.mem_range.2 inside)
    rw [within] at this
    exact absurd hm this
  | some k =>
    rw [List.find?_range_eq_some] at hk
    obtain ⟨on, hlt, least⟩ := hk
    have first : k ≤ j % groupSize grp := by
      by_contra late
      have := least _ (not_le.1 late)
      rw [within, hm] at this
      exact absurd this (by decide)
    refine ⟨?_, on, (div_group_eq grp).2 ⟨Nat.le_add_right .., Nat.add_lt_add_left (List.mem_range.1 hlt) _⟩⟩
    show j / groupSize grp * groupSize grp + k ≤ j
    omega

end Groups

/-- An event shared by a group and given to its lowest lane is recorded as if every lane of the group had it. -/
theorem recordsLanes_lowest {s : State} {m : W64} {ev : Nat → Nat} {low : Nat → Nat} {e : Option FelEvent}
    (hlow : ∀ j < 64, m.getLsbD j = true → low j ≤ j ∧ m.getLsbD (low j) = true ∧ low (low j) = low j ∧ ev (low j) = ev j)
    (h : s.recordsLanes m (fun j => if j = low j then ev j else 0) e) : s.recordsLanes m ev e := by
  have silent {i : Nat} (hi : i < 64) (on : m.getLsbD i = true) (quiet : (if low i = low (low i) then ev (low i) else 0) = 0) : ev i = 0 := by
    obtain ⟨-, -, same, shared⟩ := hlow i hi on
    rw [if_pos same.symm] at quiet
    exact shared.symm.trans quiet
  rcases h with ⟨none, he⟩ | ⟨j, hj, on, some, before, he⟩
  · refine .inl ⟨fun i hi him => silent hi him ?_, he⟩
    obtain ⟨below, onLow, -, -⟩ := hlow i hi him
    exact none _ (below.trans_lt hi) onLow
  · have here : j = low j := by
      by_contra other
      exact some (if_neg other)
    simp only [if_pos here] at some he
    refine .inr ⟨j, hj, on, some, fun i hij him => silent (hij.trans hj) him ?_, he⟩
    obtain ⟨below, onLow, -, -⟩ := hlow i (hij.trans hj) him
    exact before _ (below.trans_lt hij) onLow

/-- Only what is given to the enabled lanes matters to the lane results. -/
theorem putLanes_congr (d : BitVec 5) {m : W64} (lat : Nat) {f f' : Nat → W32 × Nat} (h : ∀ j < 64, m.getLsbD j = true → f j = f' j) :
    putLanes d m lat f = putLanes d m lat f' := by
  have lanes : (Vector.ofFn fun i : Fin 64 => if m.getLsbD i.val then f i.val else (0, 0)) = Vector.ofFn fun i : Fin 64 => if m.getLsbD i.val then f' i.val else (0, 0) := by
    congr 1
    funext i
    split
    · exact h i i.isLt ‹_›
    · rfl
  unfold putLanes
  rw [lanes]

section Grouped

variable {s : State} {g : Guard} {i : Instr} {d : BitVec 5} {grp : BitVec 2} {body : W64 → Exec Unit}
  {val : Nat → Nat → Option Rounded} {R : Nat → Rounded} (hm : s.here.laneMask g ≠ 0) (hi : exec i s = runV g body s)
  (hb : body (s.here.laneMask g) s = putGroups d (s.here.laneMask g) grp val s)
  (hR : ∀ j < 64, (s.here.laneMask g).getLsbD j = true → val (j / groupSize grp * groupSize grp) (groupSize grp) = some (R j))

theorem putGroups_eq {m : W64} (hR : ∀ j < 64, m.getLsbD j = true → val (j / groupSize grp * groupSize grp) (groupSize grp) = some (R j)) :
    putGroups d m grp val = putLanes d m 6 fun j =>
      (BitVec.ofNat 32 (R j).1, if j = groupLow m (j / groupSize grp * groupSize grp) (groupSize grp) then (R j).2 else 0) := by
  unfold putGroups
  refine putLanes_congr d 6 fun j hj on => ?_
  have value : vget (Vector.ofFn fun k : Fin 64 => if k.val * (64 / 2 ^ grp.toNat) < 64 then val (k.val * (64 / 2 ^ grp.toNat)) (64 / 2 ^ grp.toNat) else none)
      (j / (64 / 2 ^ grp.toNat)) none = some (R j) := by
    have hlo : j / (64 / 2 ^ grp.toNat) * (64 / 2 ^ grp.toNat) < 64 := (Nat.div_mul_le_self ..).trans_lt hj
    have hk : j / (64 / 2 ^ grp.toNat) < 64 := (Nat.div_le_self ..).trans_lt hj
    rw [vget, Vector.getElem?_ofFn, dif_pos hk]
    exact (if_pos hlo).trans (hR j hj on)
  dsimp only
  rw [value]
  rfl

include hm hi hb hR

/-- Each enabled lane gets its group's value, and the group's event. -/
theorem yieldsLanes_of_putGroups : s.yieldsLanes g i d 6 (fun j => BitVec.ofNat 32 (R j).1) fun j => (R j).2 := by
  rw [putGroups_eq hR] at hb
  obtain ⟨r, ev, done, records, lanes⟩ := yieldsLanes_of_putLanes hm hi hb
  refine ⟨r, ev, done, recordsLanes_lowest (fun j hj on => ?_) records, lanes⟩
  obtain ⟨below, onLow, same⟩ := groupLow_spec grp on
  refine ⟨below, onLow, by rw [same], ?_⟩
  have shared := hR _ (below.trans_lt hj) onLow
  rw [same, hR j hj on] at shared
  exact congrArg Prod.snd (Option.some.inj shared).symm

end Grouped

/-! ### Sums of a group (R119, R144) -/

theorem foldl_add_if (n : Nat) (p : Nat → Bool) (f : Nat → Int) :
    (List.range n).foldl (fun acc k => if p k then acc + f k else acc) 0 = ∑ k ∈ Finset.range n, if p k = true then f k else 0 := by
  induction n with
  | zero => rfl
  | succ n ih =>
    rw [List.range_succ, List.foldl_append, ih, Finset.sum_range_succ]
    simp only [List.foldl_cons, List.foldl_nil]
    cases p n <;> simp

/-- The exact sum over a group's enabled lanes. -/
theorem groupSum_eq (grp : BitVec 2) (m : W64) (v : Lanes) {j : Nat} (hj : j < 64) :
    (List.range (groupSize grp)).foldl (fun acc k => if m.getLsbD (j / groupSize grp * groupSize grp + k) then
      acc + signedOf 32 (code v (j / groupSize grp * groupSize grp + k)) else acc) 0 = ∑ i ∈ groupOf grp m j, intLane 32 v i := by
  rw [foldl_add_if, groupOf_eq_Ico grp hj, Finset.sum_filter, Finset.sum_Ico_eq_sum_range, Nat.add_sub_cancel_left]
  simp only [signedOf_code]

theorem toNat_ofNat_intResult (n : Nat) (rnd : BitVec 3) (v : Int) : (BitVec.ofNat n (intResult n rnd v).1).toNat = (intResult n rnd v).1 := by
  have wrapped (z : Int) : (BitVec.ofNat n (wrapTo n z)).toNat = wrapTo n z := by
    rw [BitVec.toNat_ofNat, wrapTo]
    exact Nat.mod_eq_of_lt ((Int.toNat_lt (Int.emod_nonneg z (by positivity))).2 (by exact_mod_cast Int.emod_lt_of_pos z (by positivity)))
  unfold intResult clampInt
  split
  · dsimp only
    split
    · exact wrapped _
    · split
      · exact wrapped _
      · exact wrapped _
  · exact wrapped _

theorem ofNat_intResult (rnd : BitVec 3) (v : Int) : BitVec.ofNat 32 (intResult 32 rnd v).1 = BitVec.ofInt 32 (fitInt 32 rnd v) := by
  rw [← toInt_intResult (by decide), BitVec.ofInt_toInt]

/-! ### FP32 values -/

theorem numOf_fp32 (c : Nat) : numOf .fp32 c = fp32 c := by
  have mag : c % 2 ^ 32 % 2 ^ 31 = c % 2 ^ 31 := Nat.mod_mod_of_dvd _ (by decide)
  have sign : c % 2 ^ 32 / 2 ^ 31 % 2 = c / 2 ^ 31 % 2 := by omega
  have same : decodeNum .fp32 (c % 2 ^ 32) = decodeNum .fp32 c := by
    unfold decodeNum bitAt
    simp only [show Fmt.fp32.width - 1 = 31 from rfl, show Fmt.fp32.signBit = 2 ^ 31 from rfl, mag, sign]
  exact same

theorem ofNat_canon_fp32 (c : Nat) : BitVec.ofNat 32 (canon .fp32 c) = BitVec.ofNat 32 (cleanFp32 c) := by
  unfold canon cleanFp32
  rw [numOf_fp32]
  cases (fp32 c).isNan with
  | true => rfl
  | false => exact ofNat_mod_two_pow 32 c

theorem fp32_signed_notNan (neg : Bool) {g : Nat} (hg : g ≤ Fmt.fp32.maxCode) : (numOf .fp32 (neg.toNat * Fmt.fp32.signBit + g)).isNan = false := by
  rw [numOf_signed rfl neg hg]
  split <;> rfl

/-- A rounded finite value is a finite magnitude with its sign, or an overflow. -/
theorem roundFin_cases (f : Fmt) (rnd : Nat) (neg : Bool) (m : Nat) (e : Int) :
    (∃ g ≤ f.maxCode, roundFin f rnd neg m e = (neg.toNat * f.signBit + g, 0)) ∨ roundFin f rnd neg m e = overflow f rnd neg := by
  unfold roundFin
  split
  · exact .inl ⟨0, Nat.zero_le _, by rw [add_zero]⟩
  · dsimp only
    split
    · exact .inr rfl
    · exact .inl ⟨_, not_lt.1 ‹_›, rfl⟩

/-- A rounded result that is a NaN is the canonical one. -/
theorem cleanFp32_roundFmt (rnd : Nat) (fresh : Bool) (p : Num) : cleanFp32 (roundFmt .fp32 rnd fresh p).1 = (roundFmt .fp32 rnd fresh p).1 := by
  have number {c : Nat} (h : (numOf .fp32 c).isNan = false) : cleanFp32 c = c := by rw [cleanFp32, ← numOf_fp32, h, if_neg Bool.false_ne_true]
  have infinity (neg : Bool) : cleanFp32 (infCode .fp32 neg) = infCode .fp32 neg := number (by rw [numOf_infCode rfl (by decide)]; rfl)
  cases p with
  | nan =>
    have answer : (roundFmt .fp32 rnd fresh .nan).1 = Fmt.fp32.nanCode := congrArg Prod.fst (if_neg (by decide))
    rw [answer]
    exact ite_self _
  | inf neg =>
    have answer : (roundFmt .fp32 rnd fresh (.inf neg)).1 = infCode .fp32 neg := rfl
    rw [answer]
    exact infinity neg
  | fin neg m e =>
    have beyond : cleanFp32 (overflow .fp32 rnd neg).1 = (overflow .fp32 rnd neg).1 := by
      rw [overflow_code]
      dsimp only
      split
      · exact number (fp32_signed_notNan neg le_rfl)
      · exact infinity neg
    show cleanFp32 (roundFin .fp32 rnd neg m e).1 = (roundFin .fp32 rnd neg m e).1
    rcases roundFin_cases .fp32 rnd neg m e with ⟨g, hg, answer⟩ | answer
    · rw [answer]
      exact number (fp32_signed_notNan neg hg)
    · rw [answer]
      exact beyond

theorem cleanFp32_addFp32 (rnd a b : Nat) : cleanFp32 (addFp32 rnd a b) = addFp32 rnd a b := cleanFp32_roundFmt ..

/-- The model's FP32 addition of two codes. -/
theorem roundFmt_add (rnd a b : Nat) : roundFmt .fp32 rnd (notNan .fp32 a && notNan .fp32 b) ((numOf .fp32 a).add rnd (numOf .fp32 b)) =
    (addFp32 rnd a b, addEvent rnd a b) := by
  have hf : LaneFloat .fp32 := .inl rfl
  rw [notNan_float hf, notNan_float hf, numOf_fp32, numOf_fp32]
  exact Prod.ext (roundFmt_code ..) rfl

/-! ### Reductions (R144) -/

section Reductions

theorem exec_vredadd (g : Guard) (d a : BitVec 5) (f : Fmt) (grp : BitVec 2) (rnd : BitVec 3) (s : State) :
    exec (.vredadd g d a f grp rnd) s = execVredadd g d a f grp rnd s := rfl
theorem exec_vredmax (g : Guard) (d a : BitVec 5) (f : Fmt) (grp : BitVec 2) (s : State) :
    exec (.vredmax g d a f grp) s = vredminmax g d a f grp true s := rfl
theorem exec_vredmin (g : Guard) (d a : BitVec 5) (f : Fmt) (grp : BitVec 2) (s : State) :
    exec (.vredmin g d a f grp) s = vredminmax g d a f grp false s := rfl
theorem exec_vscan (g : Guard) (d a b : BitVec 5) (f : Fmt) (sub : BitVec 2) (rnd : BitVec 3) (s : State) :
    exec (.vscan g d a b f sub rnd) s = execVscan g d a b f sub rnd s := rfl

variable {s : State} {g : Guard} (d a b : BitVec 5) (grp : BitVec 2) (rnd : BitVec 3) (hm : s.here.laneMask g ≠ 0)

/-- The tree over the group of lane j. -/
def groupTree (node : Rounded → Rounded → Rounded) (m : W64) (v : Lanes) (grp : BitVec 2) (j : Nat) : Option Rounded :=
  treeVal node (leafOf m v) (6 - grp.toNat) (j / groupSize grp * groupSize grp)

theorem groupTree_present (node : Rounded → Rounded → Rounded) {m : W64} (v : Lanes) (grp : BitVec 2) {j : Nat} (on : m.getLsbD j = true) :
    ∃ r, groupTree node m v grp j = some r := by
  refine treeVal_present (k := j) ?_ (by simp [leafOf, on])
  rw [← groupSize_eq]
  exact (div_group_eq grp).1 rfl

/-- A group's value by the model is that of the tree over it. -/
theorem groupValue_group (f : Nat → Nat → Rounded) (m : W64) (v : Lanes) (grp : BitVec 2) (j : Nat) :
    groupValue f m v (j / groupSize grp * groupSize grp) (groupSize grp) = groupTree (nodeOf f) m v grp j := by
  conv_lhs => rw [show groupValue f m v (j / groupSize grp * groupSize grp) (groupSize grp) =
    groupValue f m v (j / groupSize grp * groupSize grp) (2 ^ (6 - grp.toNat)) by rw [← groupSize_eq]]
  exact groupValue_eq f m v _ (Nat.sub_le ..)

/-- A node of an FP32 sum. -/
def sumNode (rnd : BitVec 3) : Rounded → Rounded → Rounded := nodeOf fun x y => (addFp32 rnd.toNat x y, addEvent rnd.toNat x y)

/-- The smaller or larger of a group's enabled lanes. -/
def extremeOf (f : Fmt) (big : Bool) (m : W64) (v : Lanes) (grp : BitVec 2) (j : Nat) : Rounded :=
  (groupTree (nodeOf fun x y => (minMax f big false x y, 0)) m v grp j).getD (0, 0)

section Extreme

variable {m : W64} {j : Nat} (big : Bool) (v : Lanes) (on : m.getLsbD j = true)

theorem event_extremeOf (f : Fmt) : (extremeOf f big m v grp j).2 = 0 := by
  have one (k : Nat) (r : Rounded) (hr : leafOf m v k = some r) : r.2 = 0 := by
    unfold leafOf at hr
    split at hr
    · cases hr
      rfl
    · cases hr
  have two (p q : Rounded) (hp : p.2 = 0) (hq : q.2 = 0) : firstCode (firstCode p.2 q.2) 0 = 0 := by
    rw [hp, hq]
    rfl
  rcases treeVal_induct (node := nodeOf fun x y => (minMax f big false x y, 0)) (leaf := leafOf m v) (Q := fun _ r => r.2 = 0) one
    (fun _ _ => two) (6 - grp.toNat) (j / groupSize grp * groupSize grp) with ⟨none, -⟩ | ⟨r, hr, quiet⟩
  · rw [extremeOf, groupTree, none]
    rfl
  · rw [extremeOf, groupTree, hr]
    exact quiet

theorem signedOf_minMax (x y : Nat) : signedOf 32 (minMax .int32 big false x y) =
    if big then max (signedOf 32 x) (signedOf 32 y) else min (signedOf 32 x) (signedOf 32 y) := by
  have low (c : Nat) : signedOf 32 (c % 2 ^ 32) = signedOf 32 c := by rw [signedOf_eq_toInt, signedOf_eq_toInt, ofNat_mod_two_pow]
  rw [minMax, if_pos (show Fmt.int32.isInt = true from rfl)]
  simp only [Bool.false_eq_true, if_false, show Fmt.int32.width = 32 from rfl]
  rw [apply_ite (signedOf 32), low, low, pick_extreme]

/-- What it means that z is the largest or smallest of the values of lanes. -/
def IsExtreme (big : Bool) (v : Lanes) (S : Finset Nat) (z : Int) : Prop :=
  (∀ i ∈ S, if big then intLane 32 v i ≤ z else z ≤ intLane 32 v i) ∧ ∃ i ∈ S, intLane 32 v i = z

theorem IsExtreme.union {S T : Finset Nat} {y z : Int} (hy : IsExtreme big v S y) (hz : IsExtreme big v T z) :
    IsExtreme big v (S ∪ T) (if big then max y z else min y z) := by
  obtain ⟨allS, i, hi, isY⟩ := hy
  obtain ⟨allT, k, hk, isZ⟩ := hz
  cases big with
  | true =>
    simp only [if_true] at allS allT ⊢
    refine ⟨fun n hn => (Finset.mem_union.1 hn).elim (fun h => (allS n h).trans (le_max_left ..)) fun h => (allT n h).trans (le_max_right ..), ?_⟩
    rcases max_choice y z with h | h
    · exact ⟨i, Finset.mem_union_left _ hi, isY.trans h.symm⟩
    · exact ⟨k, Finset.mem_union_right _ hk, isZ.trans h.symm⟩
  | false =>
    simp only [Bool.false_eq_true, if_false] at allS allT ⊢
    refine ⟨fun n hn => (Finset.mem_union.1 hn).elim (fun h => (min_le_left ..).trans (allS n h)) fun h => (min_le_right ..).trans (allT n h), ?_⟩
    rcases min_choice y z with h | h
    · exact ⟨i, Finset.mem_union_left _ hi, isY.trans h.symm⟩
    · exact ⟨k, Finset.mem_union_right _ hk, isZ.trans h.symm⟩

include on

theorem extremeOf_int (hj : j < 64) : IsExtreme big v (groupOf grp m j) (signedOf 32 (extremeOf .int32 big m v grp j).1) := by
  have one (k : Nat) (r : Rounded) (hr : leafOf m v k = some r) : IsExtreme big v {k} (signedOf 32 r.1) := by
    unfold leafOf at hr
    split at hr
    · cases hr
      simp only [IsExtreme, Finset.mem_singleton, forall_eq, exists_eq_left, signedOf_code, le_refl, ite_self, and_self]
    · cases hr
  have two (S T : Finset Nat) (p q : Rounded) (hp : IsExtreme big v S (signedOf 32 p.1)) (hq : IsExtreme big v T (signedOf 32 q.1)) :
      IsExtreme big v (S ∪ T) (signedOf 32 (minMax .int32 big false p.1 q.1)) := signedOf_minMax big p.1 q.1 ▸ hp.union _ _ hq
  rcases treeVal_induct (node := nodeOf fun x y => (minMax .int32 big false x y, 0)) (leaf := leafOf m v)
    (Q := fun S r => IsExtreme big v S (signedOf 32 r.1)) one two (6 - grp.toNat) (j / groupSize grp * groupSize grp) with ⟨-, none⟩ | ⟨r, hr, extreme⟩
  · rw [leaves_group grp v hj] at none
    exact absurd (Finset.mem_filter.2 ⟨Finset.mem_range.2 hj, rfl, on⟩) (none ▸ Finset.notMem_empty j)
  · rw [leaves_group grp v hj] at extreme
    rw [extremeOf, groupTree, hr]
    exact extreme

theorem extremeOf_fp32 : treeVal (pickCode .fp32 big false) (fun k => if m.getLsbD k then some (code v k) else none) (6 - grp.toNat)
    (j / groupSize grp * groupSize grp) = some (extremeOf .fp32 big m v grp j).1 := by
  have leaves : leafOf m v = fun k => (if m.getLsbD k then some (code v k) else none).map fun c => ((c, 0) : Rounded) := by
    funext k
    unfold leafOf
    split <;> rfl
  have one (k c : Nat) (hc : (if m.getLsbD k then some (code v k) else none) = some c) : c < 2 ^ 32 := by
    split at hc
    · cases hc
      exact (lane v k).isLt
    · cases hc
  have two (x y : Nat) (hx : x < 2 ^ 32) (hy : y < 2 ^ 32) : pickCode .fp32 big false x y < 2 ^ 32 ∧
      nodeOf (fun x y => (minMax .fp32 big false x y, 0)) (x, 0) (y, 0) = (pickCode .fp32 big false x y, 0) := by
    obtain ⟨picks, small⟩ := minMax_float (f := .fp32) (.inl rfl) big false x y
    rw [show Fmt.fp32.width = 32 from rfl, Nat.mod_eq_of_lt hx, Nat.mod_eq_of_lt hy] at picks
    exact ⟨picks ▸ small, congrArg (fun c => ((c, 0) : Rounded)) picks⟩
  obtain ⟨carried, -⟩ := treeVal_map (fun c => ((c, 0) : Rounded)) one two (6 - grp.toNat) (j / groupSize grp * groupSize grp)
  obtain ⟨r, hr⟩ := groupTree_present (nodeOf fun x y => (minMax .fp32 big false x y, 0)) v grp on
  rw [extremeOf, hr]
  unfold groupTree at hr
  rw [leaves, carried, Option.map_eq_some_iff] at hr
  obtain ⟨c, hc, rfl⟩ := hr
  exact hc

end Extreme

include hm

theorem vredadd_int : s.yieldsLanes g (.vredadd g d a .int32 grp rnd) d 6
    (fun j => BitVec.ofNat 32 (intResult 32 rnd (∑ i ∈ groupOf grp (s.here.laneMask g) j, intLane 32 (s.here.regs.rv a) i)).1)
    fun j => (intResult 32 rnd (∑ i ∈ groupOf grp (s.here.laneMask g) j, intLane 32 (s.here.regs.rv a) i)).2 := by
  refine yieldsLanes_of_putGroups (R := fun j => intResult 32 rnd (∑ i ∈ groupOf grp (s.here.laneMask g) j, intLane 32 (s.here.regs.rv a) i))
    hm (exec_vredadd ..) (by simp only [exec_bind, readV_apply]; rfl) fun j hj on => ?_
  have lane : ((List.range (groupSize grp)).any fun k => (s.here.laneMask g).getLsbD (j / groupSize grp * groupSize grp + k)) = true :=
    List.any_eq_true.2 ⟨j % groupSize grp, List.mem_range.2 (Nat.mod_lt j (groupSize_pos grp)), by rwa [Nat.div_add_mod']⟩
  exact (if_pos rfl).trans ((if_pos lane).trans (congrArg (fun z => some (intResult 32 rnd z)) (groupSum_eq grp _ _ hj)))

theorem vredadd_fp32 : s.yieldsLanes g (.vredadd g d a .fp32 grp rnd) d 6
    (fun j => BitVec.ofNat 32 (canon .fp32 ((groupTree (sumNode rnd) (s.here.laneMask g) (s.here.regs.rv a) grp j).getD (0, 0)).1))
    fun j => ((groupTree (sumNode rnd) (s.here.laneMask g) (s.here.regs.rv a) grp j).getD (0, 0)).2 := by
  refine yieldsLanes_of_putGroups (R := fun j => (canon .fp32 _, _)) hm (exec_vredadd ..) (by simp only [exec_bind, readV_apply]; rfl) fun j hj on => ?_
  obtain ⟨r, hr⟩ := groupTree_present (sumNode rnd) (s.here.regs.rv a) grp on
  rw [if_neg (by decide), groupValue_group]
  simp only [roundFmt_add]
  exact (congrArg (Option.map _) hr).trans (by rw [hr]; rfl)

theorem vredminmax_yields {f : Fmt} {big : Bool} {i : Instr} (hi : exec i s = vredminmax g d a f grp big s) : s.yieldsLanes g i d 6
    (fun j => BitVec.ofNat 32 (canon f (extremeOf f big (s.here.laneMask g) (s.here.regs.rv a) grp j).1))
    fun j => (extremeOf f big (s.here.laneMask g) (s.here.regs.rv a) grp j).2 := by
  refine yieldsLanes_of_putGroups (R := fun j => (canon f _, _)) hm hi (by simp only [exec_bind, readV_apply]; rfl) fun j hj on => ?_
  obtain ⟨r, hr⟩ := groupTree_present (nodeOf fun x y => (minMax f big false x y, 0)) (s.here.regs.rv a) grp on
  rw [groupValue_group, extremeOf, hr]
  rfl

end Reductions

/-! ### Prefix sums (R145) -/

section Scan

variable (f : Fmt) (rnd : BitVec 3) (excl : Bool) (m : W64) (v : Lanes)

/-- One addition of a running sum. -/
def scanStep (acc c : Nat) : Rounded :=
  if f.isInt then intResult 32 rnd (signedOf 32 acc + signedOf 32 c)
  else roundFmt .fp32 rnd.toNat (notNan .fp32 acc && notNan .fp32 c) ((numOf .fp32 acc).add rnd.toNat (numOf .fp32 c))

/-- The running sum before lane j. -/
def scanAt (start j : Nat) : Nat := scanVal (fun x y => (scanStep f rnd x y).1) m.getLsbD (code v) start j

theorem scanAt_succ {start j : Nat} (on : m.getLsbD j = true) : scanAt f rnd m v start (j + 1) = (scanStep f rnd (scanAt f rnd m v start j) (code v j)).1 := if_pos on

/-- What a lane gets of the running sums. -/
theorem getElem_scanFrom (start : Nat) : ∀ (n i k : Nat), k < n → m.getLsbD (i + k) = true →
    (scanFrom f rnd excl m v (List.range' i n) (scanAt f rnd m v start i))[k]? =
      some (if excl then canon f (scanAt f rnd m v start (i + k)) else scanAt f rnd m v start (i + k + 1),
        (scanStep f rnd (scanAt f rnd m v start (i + k)) (code v (i + k))).2) := by
  intro n
  induction n with
  | zero => intro i k h; omega
  | succ n ih =>
    intro i k hk on
    rw [List.range'_succ, scanFrom]
    by_cases here : m.getLsbD i = true
    · rw [if_pos here]
      cases k with
      | zero => rw [add_zero, scanAt_succ f rnd m v here]; rfl
      | succ k =>
        have next := ih (i + 1) k (by omega) (by rwa [Nat.add_right_comm])
        rw [scanAt_succ f rnd m v here, Nat.add_right_comm] at next
        exact next
    · rw [if_neg here]
      have same : scanAt f rnd m v start (i + 1) = scanAt f rnd m v start i := if_neg here
      cases k with
      | zero => exact absurd on here
      | succ k =>
        have next := ih (i + 1) k (by omega) (by rwa [Nat.add_right_comm])
        rw [same, Nat.add_right_comm] at next
        exact next

end Scan

/-- What lane j gets of a prefix sum. -/
def scanLane (f : Fmt) (rnd : BitVec 3) (excl : Bool) (m : W64) (v : Lanes) (start j : Nat) : Nat :=
  if excl then canon f (scanAt f rnd m v start j) else scanAt f rnd m v start (j + 1)

theorem vscan_yields {s : State} {g : Guard} (d a b : BitVec 5) (f : Fmt) (sub : BitVec 2) (rnd : BitVec 3) (hm : s.here.laneMask g ≠ 0) :
    let start := if sub.getLsbD 1 then code (s.here.regs.rv b) 63 else 0
    s.yieldsLanes g (.vscan g d a b f sub rnd) d 6
      (fun j => laneOf f (scanLane f rnd (sub.getLsbD 0) (s.here.laneMask g) (s.here.regs.rv a) start j))
      fun j => (scanStep f rnd (scanAt f rnd (s.here.laneMask g) (s.here.regs.rv a) start j) (code (s.here.regs.rv a) j)).2 := by
  intro start
  refine yieldsLanes_of_putLanes hm (exec_vscan ..) ?_
  simp only [exec_bind, readV_apply]
  refine congrFun (putLanes_congr d 6 fun j hj on => ?_) s
  have lane := getElem_scanFrom f rnd (sub.getLsbD 0) (s.here.laneMask g) (s.here.regs.rv a) start 64 0 j hj (by rwa [zero_add])
  rw [zero_add] at lane
  rw [List.range_eq_range']
  exact congrArg (fun r => inLane f (r.getD (0, 0))) lane

/-! ### The values in lanes -/

theorem ofNat_canon_int32 (c : Nat) : BitVec.ofNat 32 (canon .int32 c) = BitVec.ofNat 32 c := ofNat_mod_two_pow 32 c

theorem toInt_canon_int32 (c : Nat) : (BitVec.ofNat 32 (canon .int32 c)).toInt = signedOf 32 c := by rw [ofNat_canon_int32, signedOf_eq_toInt]

theorem laneOf_int32 (c : Nat) : laneOf .int32 c = BitVec.ofNat 32 c := by
  rw [laneOf_int (by decide)]
  exact BitVec.signExtend_eq _

theorem laneOf_fp32 (c : Nat) : laneOf .fp32 c = BitVec.ofNat 32 c := (if_pos rfl).trans (ofNat_mod_two_pow 32 c)

/-- The largest and smallest record no event (R155). -/
theorem vredminmax_writes {s : State} {g : Guard} {d a : BitVec 5} {grp : BitVec 2} {f : Fmt} {big : Bool} {i : Instr} (hm : s.here.laneMask g ≠ 0)
    (hi : exec i s = vredminmax g d a f grp big s) : s.writesLanes g i d 6
      fun j => BitVec.ofNat 32 (canon f (extremeOf f big (s.here.laneMask g) (s.here.regs.rv a) grp j).1) := by
  obtain ⟨r, ev, done, records, lanes⟩ := vredminmax_yields d a grp hm hi
  exact ⟨r, ev, done, recordsLanes_congr (fun j _ _ => event_extremeOf grp big _ f) records, lanes⟩

section RunningSums

variable (rnd : BitVec 3) (m : W64) (v : Lanes) (start : Nat)

theorem scanStep_int32 (x y : Nat) : scanStep .int32 rnd x y = intResult 32 rnd ((BitVec.ofNat 32 x).toInt + (BitVec.ofNat 32 y).toInt) := by
  rw [← signedOf_eq_toInt, ← signedOf_eq_toInt]
  exact if_pos rfl

theorem scanStep_int32_value (x y : Nat) : (scanStep .int32 rnd x y).1 =
    (BitVec.ofInt 32 (fitInt 32 rnd ((BitVec.ofNat 32 x).toInt + (BitVec.ofNat 32 y).toInt))).toNat := by
  rw [scanStep_int32, ← ofNat_intResult, toNat_ofNat_intResult]

theorem scanStep_fp32 (x y : Nat) : scanStep .fp32 rnd x y = (addFp32 rnd.toNat x y, addEvent rnd.toNat x y) := (if_neg (by decide)).trans (roundFmt_add ..)

theorem scanAt_wraps_succ (h : rnd.getLsbD 2 = false) {j : Nat} (on : m.getLsbD j = true) : BitVec.ofNat 32 (scanAt .int32 rnd m v start (j + 1)) =
    BitVec.ofNat 32 (scanAt .int32 rnd m v start j) + BitVec.ofInt 32 (intLane 32 v j) := by
  have fits (z : Int) : BitVec.ofInt 32 (fitInt 32 rnd z) = BitVec.ofInt 32 z := by
    apply BitVec.eq_of_toInt_eq
    rw [fitInt, h, if_neg Bool.false_ne_true, BitVec.toInt_ofInt, BitVec.toInt_ofInt]
    exact Int.bmod_bmod
  rw [scanAt_succ _ _ _ _ on, scanStep_int32_value, BitVec.ofNat_toNat, BitVec.setWidth_eq, fits, BitVec.ofInt_add, BitVec.ofInt_toInt,
    ← signedOf_eq_toInt, signedOf_code]

/-- A running sum that wraps is the sum of what stands before it, modulo 2^32. -/
theorem scanAt_wraps (h : rnd.getLsbD 2 = false) (j : Nat) (hj : j ≤ 64) : BitVec.ofNat 32 (scanAt .int32 rnd m v start j) =
    BitVec.ofInt 32 ((BitVec.ofNat 32 start).toInt + ∑ i ∈ (Finset.range 64).filter (fun i => i < j ∧ m.getLsbD i = true), intLane 32 v i) := by
  induction j with
  | zero => simp [scanAt, scanVal]
  | succ j ih =>
    have before := ih (by omega)
    by_cases on : m.getLsbD j = true
    · have more : (Finset.range 64).filter (fun i => i < j + 1 ∧ m.getLsbD i = true) =
          insert j ((Finset.range 64).filter fun i => i < j ∧ m.getLsbD i = true) := by
        ext i
        simp only [Finset.mem_filter, Finset.mem_range, Finset.mem_insert, Nat.lt_succ_iff_lt_or_eq]
        constructor
        · rintro ⟨hi, hlt | rfl, him⟩
          · exact .inr ⟨hi, hlt, him⟩
          · exact .inl rfl
        · rintro (rfl | ⟨hi, hlt, him⟩)
          · exact ⟨by omega, .inr rfl, on⟩
          · exact ⟨hi, .inl hlt, him⟩
      rw [scanAt_wraps_succ rnd m v start h on, before, more, Finset.sum_insert (by simp), ← BitVec.ofInt_add]
      congr 1
      ring
    · have same : (Finset.range 64).filter (fun i => i < j + 1 ∧ m.getLsbD i = true) = (Finset.range 64).filter fun i => i < j ∧ m.getLsbD i = true := by
        refine Finset.filter_congr fun i _ => and_congr_left fun him => ?_
        have : i ≠ j := fun h => on (h ▸ him)
        omega
      rw [same, ← before]
      exact congrArg (BitVec.ofNat 32) (if_neg on)

theorem laneOf_scanLane_int32 (excl : Bool) (j : Nat) : laneOf .int32 (scanLane .int32 rnd excl m v start j) =
    BitVec.ofNat 32 (scanAt .int32 rnd m v start (if excl then j else j + 1)) := by
  rw [laneOf_int32, scanLane]
  cases excl with
  | true => exact ofNat_canon_int32 _
  | false => rfl

theorem laneOf_scanLane_fp32 (excl : Bool) {j : Nat} (on : m.getLsbD j = true) : laneOf .fp32 (scanLane .fp32 rnd excl m v start j) =
    BitVec.ofNat 32 (cleanFp32 (scanAt .fp32 rnd m v start (if excl then j else j + 1))) := by
  rw [laneOf_fp32, scanLane]
  cases excl with
  | true => exact ofNat_canon_fp32 _
  | false =>
    have clean := cleanFp32_addFp32 rnd.toNat (scanAt .fp32 rnd m v start j) (code v j)
    simp only [Bool.false_eq_true, if_false, scanAt_succ _ _ _ _ on, scanStep_fp32, clean]

end RunningSums

/-- Settles O27: each group's value is that of the balanced tree, and each running sum that of the additions in ascending order. -/
theorem vectorReductions : Obligations.VectorReductions := by
  unfold Obligations.VectorReductions
  intro s g d a b f grp sub rnd hm hf m x size group before start code' grouped running addInt at_ sums
  have apart : Fmt.int32 ≠ .fp32 := by decide
  have chosen (big : Bool) : f = .fp32 → grouped (pickCode .fp32 big false) fun j => BitVec.ofNat 32 (canon f (extremeOf f big m (s.here.regs.rv a) grp j).1) := by
    rintro rfl j _ on
    exact ⟨_, extremeOf_fp32 grp big _ on, ofNat_canon_fp32 _⟩
  refine ⟨?_, ⟨_, vredminmax_writes hm (exec_vredmax ..), ?_, chosen true⟩, ⟨_, vredminmax_writes hm (exec_vredmin ..), ?_, chosen false⟩, ?_⟩
  · rcases hf with rfl | rfl
    · exact ⟨_, _, vredadd_int d a grp rnd hm, fun _ j _ _ => ⟨ofNat_intResult .., event_intResult ..⟩, fun h => absurd h apart⟩
    · refine ⟨_, _, vredadd_fp32 d a grp rnd hm, fun h => absurd h.symm apart, fun _ j hj on => ?_⟩
      obtain ⟨r, hr⟩ := groupTree_present (sumNode rnd) (s.here.regs.rv a) grp on
      rw [hr]
      exact ⟨r.1, hr, ofNat_canon_fp32 _⟩
  · rintro rfl j hj on
    rw [toInt_canon_int32]
    exact extremeOf_int grp true _ on hj
  · rintro rfl j hj on
    rw [toInt_canon_int32]
    exact extremeOf_int grp false _ on hj
  · refine ⟨_, _, vscan_yields d a b f sub rnd hm, ?_, ?_, ?_⟩
    · rintro rfl wraps j hj on
      have first : start = (BitVec.ofNat 32 (if sub.getLsbD 1 then code (s.here.regs.rv b) 63 else 0)).toInt := by
        rw [← signedOf_eq_toInt, apply_ite (signedOf 32), signedOf_code]
        rfl
      rw [laneOf_scanLane_int32, first]
      cases sub.getLsbD 0 with
      | true => exact (scanAt_wraps _ _ _ _ wraps j hj.le).trans (by rw [if_pos rfl, add_zero])
      | false => exact (scanAt_wraps_succ _ _ _ _ wraps on).trans (by rw [scanAt_wraps _ _ _ _ wraps j hj.le, ← BitVec.ofInt_add, if_neg Bool.false_ne_true])
    · rintro rfl j hj on
      have steps : (fun x y => (scanStep .int32 rnd x y).1) = addInt := by
        funext x y
        exact scanStep_int32_value rnd x y
      have sums : scanAt .int32 rnd m (s.here.regs.rv a) (if sub.getLsbD 1 then code (s.here.regs.rv b) 63 else 0) = running addInt := by
        unfold scanAt
        rw [steps]
        rfl
      rw [laneOf_scanLane_int32, scanStep_int32, event_intResult, sums, ofNat_lane]
      exact ⟨rfl, rfl⟩
    · rintro rfl j hj on
      have steps : (fun x y => (scanStep .fp32 rnd x y).1) = addFp32 rnd.toNat := by
        funext x y
        rw [scanStep_fp32]
      have sums : scanAt .fp32 rnd m (s.here.regs.rv a) (if sub.getLsbD 1 then code (s.here.regs.rv b) 63 else 0) = running (addFp32 rnd.toNat) := by
        unfold scanAt
        rw [steps]
        rfl
      rw [laneOf_scanLane_fp32 _ _ _ _ _ on, scanStep_fp32, sums]
      exact ⟨rfl, rfl⟩

end Sys2Proof.Machine
end

section
/-!
O29, O30 and O31. The issue of matrix commands: operand and tile checks, the elastic buffer, and what each command reads.
-/

namespace Sys2Proof.Machine

/-! ### Checks and issue (R157, R159, R160, R163) -/

section Checks

variable {s : State}

theorem bufferWait_ok (h : s.takesM) : bufferWait s = .ok ((), s) := by
  have empty : (s.mcmds.any fun c => coreOf c.ctx == coreOf s.cur && c.stage == .buffer) = false := by
    rw [List.any_eq_false]
    intro c hc
    by_cases here : coreOf c.ctx = coreOf s.cur
    · simp [h.buffer c hc here]
    · simp [here]
  simp only [bufferWait, exec_bind, exec_get, stopIf_apply, empty, Bool.false_eq_true, if_false]

/-- A command is issued while the elastic buffer is empty and no load of class c0 is late. -/
theorem issueM_ok (h : s.takesM) (op : MOp) : issueM op s = .ok ((), s.mIssued op) := by
  simp only [issueM, exec_bind, bufferWait_ok h, exec_get, stopIf_apply, h.loads, Bool.and_false, Bool.false_eq_true, if_false]
  rfl

theorem checkTile_ok {t : BitVec 5} (h : s.here.hasTile t.toNat = true) : checkTile t s = .ok ((), s) := by
  simp [checkTile, h]

theorem checkTile_missing {t : BitVec 5} (h : s.here.hasTile t.toNat = false) : checkTile t s = .error (.trap (bundleTrap 5 .M 0)) := by
  simp [checkTile, h, bundleTrap]

theorem checkOperand_ok {o : Opnd} {n : Nat} (h : s.opndOk o n) (b : Bool) : checkOperand b o n s = .ok ((), s) := by
  obtain ⟨base, pitch, stripes⟩ := h
  have allotted : ((o.stripes n).find? fun a => !s.here.allots a 256) = none := by
    rw [List.find?_eq_none]
    intro a ha
    simp [(stripes a ha).1]
  have oneGroup : ((o.stripes n).any fun a => bankGroup a != bankGroup o.base) = false := by
    rw [List.any_eq_false]
    intro a ha
    simp [(stripes a ha).2]
  simp [checkOperand, base, pitch, allotted, oneGroup]

theorem checkOperand_misaligned {o : Opnd} (h : o.base % 256 ≠ 0) (b : Bool) (n : Nat) :
    checkOperand b o n s = .error (.trap (bundleTrap 6 .M o.base)) := by
  simp [checkOperand, h, bundleTrap]

/-- Without a command that uses scale registers a product waits for none (R161). -/
theorem scalesWait_ok (h : ∀ c ∈ s.mcmds, c.ctx = s.cur → c.op.scales = []) (p : Nat) : scalesWait p s = .ok ((), s) := by
  have free (sc : Nat) : scaleWait sc s = .ok ((), s) := by
    have none : (s.mcmds.any fun c => c.ctx == s.cur && decide (c.id < s.issueFrom) && c.op.scales.contains sc) = false := by
      rw [List.any_eq_false]
      intro c hc
      by_cases mine : c.ctx = s.cur
      · simp [h c hc mine]
      · simp [mine]
    simp only [scaleWait, exec_bind, exec_get, stopIf_apply, none, Bool.false_eq_true, if_false]
  simp only [scalesWait, exec_bind, free]

end Checks

/-! ### Tile products (R163, R169, R178) -/

theorem exec_mma (g : Guard) (ac a b : BitVec 5) (f : Fmt) (ca dm : Bool) (sp : BitVec 3) (s : State) :
    exec (.mma g ac a b f ca dm sp) s = runSlot g (issueMma false ac a b f ca dm sp) s := rfl

theorem exec_mmaz (g : Guard) (ac a b : BitVec 5) (f : Fmt) (ca dm : Bool) (sp : BitVec 3) (s : State) :
    exec (.mmaz g ac a b f ca dm sp) s = runSlot g (issueMma s.here.firstRep ac a b f ca dm sp) s := rfl

section Products

variable {s : State} {a b : BitVec 5} (hpa : (s.here.regs.ry a).poison = false) (hpb : (s.here.regs.ry b).poison = false)
  (z : Bool) (ac : BitVec 5) {f : Fmt} {ca : Bool} (dm : Bool) (sp : BitVec 3)

include hpa hpb

theorem issueMma_misaligned (h : (opndOf (s.here.regs.ry a).val).base % 256 ≠ 0) :
    issueMma z ac a b f ca dm sp s = .error (.trap (bundleTrap 6 .M (opndOf (s.here.regs.ry a).val).base)) := by
  simp only [issueMma, exec_bind, readYV_ok hpa, readYV_ok hpb, checkOperand_misaligned h]

variable (oka : s.opndOk (opndOf (s.here.regs.ry a).val) (imageBytes f ca)) (okb : s.opndOk (opndOf (s.here.regs.ry b).val) (imageBytes f false))

include oka okb

theorem issueMma_conflict (h : bankGroup (opndOf (s.here.regs.ry a).val).base = bankGroup (opndOf (s.here.regs.ry b).val).base) :
    issueMma z ac a b f ca dm sp s = .error (.trap (bundleTrap 9 .M (2 ^ 63 + (opndOf (s.here.regs.ry b).val).base))) := by
  simp only [issueMma, exec_bind, readYV_ok hpa, readYV_ok hpb, checkOperand_ok oka, checkOperand_ok okb, raiseIf_apply, h, beq_self_eq_true,
    if_true, bundleTrap, conflictInfo, Bool.toNat_true, one_mul]

variable (apart : bankGroup (opndOf (s.here.regs.ry a).val).base ≠ bankGroup (opndOf (s.here.regs.ry b).val).base)

include apart

theorem issueMma_noTile (h : s.here.hasTile ac.toNat = false) : issueMma z ac a b f ca dm sp s = .error (.trap (bundleTrap 5 .M 0)) := by
  simp only [issueMma, exec_bind, readYV_ok hpa, readYV_ok hpb, checkOperand_ok oka, checkOperand_ok okb, raiseIf_apply, beq_eq_false_iff_ne.2 apart,
    Bool.false_eq_true, if_false, checkTile_missing h]

theorem issueMma_ok (hm : s.takesM) (scales : f.isMx = true → ∀ c ∈ s.mcmds, c.ctx = s.cur → c.op.scales = [])
    (h : s.here.hasTile ac.toNat = true) :
    let sc (i : Nat) : Lanes := if f.isMx then vget s.here.regs.sc (2 * sp.toNat + i) Lanes.zero else Lanes.zero
    issueMma z ac a b f ca dm sp s = .ok ((), s.mIssued (.mma z f ca (if dm then some (s.dupBehind s.cur) else none) ac.toNat
      (opndOf (s.here.regs.ry a).val) (opndOf (s.here.regs.ry b).val) (sc 0) (sc 8) (sc 1) (sc 9))) := by
  intro sc
  have checked : (f.isMx = true → scalesWait sp.toNat s = .ok ((), s)) := fun mx => scalesWait_ok (scales mx) _
  simp only [issueMma, exec_bind, readYV_ok hpa, readYV_ok hpb, checkOperand_ok oka, checkOperand_ok okb, raiseIf_apply, beq_eq_false_iff_ne.2 apart,
    Bool.false_eq_true, if_false, checkTile_ok h]
  cases mx : f.isMx with
  | false =>
    simp only [Bool.false_eq_true, if_false, exec_bind, exec_get, issueM_ok hm, sc, mx]
  | true =>
    simp only [if_true, exec_bind, checked mx, exec_get, issueM_ok hm, sc, mx, add_zero]

end Products

/-- Settles O29: the checks in their order, and the command with what it has read. -/
theorem products : Obligations.Products := by
  unfold Obligations.Products
  refine ⟨?_, ?_⟩
  · intro s g ac a b f ca dm sp hg hm scales hpa hpb oa ob oka okb apart tile map sc
    refine ⟨(exec_mma ..).trans (runSlot_ok hg (issueMma_ok hpa hpb false ac dm sp oka okb apart hm scales tile)), ?_⟩
    have issued := (exec_mmaz g ac a b f ca dm sp s).trans (runSlot_ok hg (issueMma_ok hpa hpb _ ac dm sp oka okb apart hm scales tile))
    cases hrep : s.here.rep with
    | none =>
      rw [show s.here.firstRep = true by rw [Ctx.firstRep, hrep]] at issued
      exact issued
    | some p =>
      rw [show s.here.firstRep = (p.r == 0) by rw [Ctx.firstRep, hrep]] at issued
      exact issued
  · intro s g ac a b f ca dm sp hg hpa hpb oa ob
    refine ⟨fun h => ?_, fun oka okb => ⟨fun h => ?_, fun apart h => ?_⟩⟩
    · exact (exec_mma ..).trans (runSlot_trap hg (issueMma_misaligned hpa hpb false ac dm sp h))
    · exact (exec_mma ..).trans (runSlot_trap hg (issueMma_conflict hpa hpb false ac dm sp oka okb h))
    · exact (exec_mma ..).trans (runSlot_trap hg (issueMma_noTile hpa hpb false ac dm sp oka okb apart h))

/-! ### The other commands (R171 to R175) -/

section Arms

variable (g : Guard) (ac src y v : BitVec 5) (f : Fmt) (sc : BitVec 4) (cmp t : Bool) (rnd : BitVec 3) (k row : BitVec 6) (s : State)

theorem exec_mhld : exec (.mhld g y k) s = execMhld g y k s := rfl
theorem exec_mdmap : exec (.mdmap g y k) s = execMdmap g y k s := rfl
theorem exec_mdclr : exec (.mdclr g) s = execMdclr g s := rfl
theorem exec_mrot : exec (.mrot g ac k) s = execMrot g ac k s := rfl
theorem exec_mzero : exec (.mzero g ac) s = execMzero g ac s := rfl
theorem exec_mvac : exec (.mvac g ac y v row) s = execMvac g ac y v row s := rfl
theorem exec_mcopy : exec (.mcopy g ac src t) s = execMcopy g ac src t s := rfl
theorem exec_mdrain : exec (.mdrain g ac y f sc cmp rnd) s = execMdrain g ac y f sc cmp rnd s := rfl
theorem exec_mldac : exec (.mldac g ac y) s = execMldac g ac y s := rfl
theorem exec_mstac : exec (.mstac g ac y) s = execMstac g ac y s := rfl
theorem exec_macv : exec (.macv g ac y v row) s = execMacv g ac y v row s := rfl

end Arms

section Moves

variable {s : State} {y : BitVec 5} (hp : (s.here.regs.ry y).poison = false)

include hp

/-- The row of macv and mvac is the immediate one, advanced by a register (R175). -/
theorem rowOf_ok (row : BitVec 6) :
    rowOf y row s = .ok (if y = 0 then row.toNat else ((s.here.regs.ry y).val.toNat % 64 + row.toNat) % 64, s) := by
  by_cases h : y = 0
  · rw [rowOf, if_pos h, if_pos h]
    rfl
  · have low (v : W64) : bits v.toNat 0 6 = v.toNat % 64 := by simp [bits]
    simp only [rowOf, if_neg h, exec_bind, readYV_ok hp, exec_pure, low]

end Moves

/-- A row of a tile as the lanes of a register. -/
theorem tileRow_eq {s : State} (hi : s.Inv) (core t row : Nat) :
    (Vector.ofFn fun i : Fin 64 => ((readCells s.tiles (tileKey core t + 64 * row) 64).toArray[i.val]?).getD 0) =
      Vector.ofFn fun j : Fin 64 => s.tileElem core t row j.val := by
  congr 1
  funext j
  rw [readCells_eq hi.tiles]
  simp [State.tileElem]

/-- Settles O30: each command's checks pass, and what it has read goes with it. -/
theorem matrixCommandsIssue : Obligations.MatrixCommandsIssue := by
  unfold Obligations.MatrixCommandsIssue
  intro s g ac src y v f sc cmp t rnd k row hg hm hp o line
  refine ⟨(exec_mhld ..).trans (runSlot_ok hg ?_), (exec_mdmap ..).trans (runSlot_ok hg ?_), (exec_mdclr ..).trans (runSlot_ok hg (issueM_ok hm _)), fun tile =>
    ⟨(exec_mrot ..).trans (runSlot_ok hg ?_), (exec_mzero ..).trans (runSlot_ok hg ?_), (exec_mvac ..).trans (runSlot_ok hg ?_),
      fun tile' => (exec_mcopy ..).trans (runSlot_ok hg ?_), fun ok => (exec_mdrain ..).trans (runSlot_ok hg ?_),
      fun ok => ⟨(exec_mldac ..).trans (runSlot_ok hg ?_), (exec_mstac ..).trans (runSlot_ok hg ?_)⟩,
      fun inv free => (exec_macv ..).trans (runSlot_ok hg ?_)⟩⟩
  · simp only [exec_bind, readYV_ok hp, issueM_ok hm]
  · simp only [exec_bind, readYV_ok hp, issueM_ok hm]
  · simp only [exec_bind, checkTile_ok tile, exec_get, issueM_ok hm]
  · simp only [exec_bind, checkTile_ok tile, issueM_ok hm]
  · simp only [exec_bind, rowOf_ok hp, checkTile_ok tile, readV_apply, issueM_ok hm, line]
  · simp only [exec_bind, checkTile_ok tile, checkTile_ok tile', issueM_ok hm]
  · simp only [exec_bind, readYV_ok hp, checkOperand_ok ok, checkTile_ok tile, issueM_ok hm, o]
  · simp only [exec_bind, readYV_ok hp, checkOperand_ok ok, checkTile_ok tile, issueM_ok hm, o]
  · simp only [exec_bind, readYV_ok hp, checkOperand_ok ok, checkTile_ok tile, issueM_ok hm, o]
  · simp only [exec_bind, rowOf_ok hp, checkTile_ok tile, bufferWait_ok hm, exec_get, stopIf_apply, free, Bool.false_eq_true, if_false, exact_apply,
      tileRow_eq inv, State.exactly, line]

/-! ### Boundary contraction and reordering (R311, R313, R315) -/

theorem exec_mcon (g : Guard) (ac : BitVec 5) (wc bd : BitVec 3) (y : BitVec 5) (f : Fmt) (s : State) :
    exec (.mcon g ac wc bd y f) s = execMcon g ac wc bd y f s := rfl

theorem exec_mord (g : Guard) (ac : BitVec 5) (bd : BitVec 3) (y : BitVec 5) (s : State) : exec (.mord g ac bd y) s = execMord g ac bd y s := rfl

/-- A result in flight that is not made again makes no access late. -/
theorem late_addFlight (k : Ctx) (sc : Bool) (r : Result) (lat : Nat) (el ex : Bool) (ev : Option FelEvent) (cls : BitVec 4) :
    (k.addFlight sc r lat el ex ev none).late cls = k.late cls := by
  have flight : (k.addFlight sc r lat el ex ev none).flight.any (fun f => f.unfixed && f.redo.any fun d => d.inClass cls k.sr.acyc.toNat) =
      k.flight.any fun f => f.unfixed && f.redo.any fun d => d.inClass cls k.sr.acyc.toNat := by
    unfold Ctx.addFlight
    split
    · rfl
    · simp
  have captured : (k.addFlight sc r lat el ex ev none).captured = k.captured := by
    unfold Ctx.addFlight
    split <;> rfl
  unfold Ctx.late
  rw [addFlight_sr, addFlight_q, flight, captured]

/-- A result in flight leaves the matrix engine ready for a command. -/
theorem takesM_exactly {s : State} (h : s.takesM) (r : Result) (lat : Nat) : (s.exactly r lat).takesM :=
  ⟨h.buffer, by rw [State.exactly, here_setHere, late_addFlight]; exact h.loads⟩

theorem takesM_of_quiet {s : State} (h : s.Quiet) : s.takesM := ⟨by rw [h.mcmds]; exact fun _ hc => (nomatch hc), h.loads 0⟩

section Records

variable {s : State} (hq : s.Quiet) {y : BitVec 5}

include hq

theorem readRecord_ok (a : Nat) : readRecord a s = .ok (BitVec.ofNat 64 (leNat (s.spadBytes a 8)), s) := by
  simp only [readRecord, exec_bind, loadLocal_ok hq, exec_pure]

omit hq in
theorem recordAddr_ok (hp : (s.here.regs.ry y).poison = false) (hl : s.localOk (s.here.regs.ry y).val.toNat 8 8) :
    recordAddr y s = .ok ((s.here.regs.ry y).val.toNat, s) := by
  simp only [recordAddr, exec_bind, readYV_ok hp, checkLocal_ok hl, exec_pure]

/-- The new boundary goes to its register, and the command to the array unit. -/
theorem bond_issued (r : Result) (op : MOp) : (do exact r 1; issueM op : Exec Unit) s = .ok ((), (s.exactly r 1).mIssued op) := by
  simp only [exec_bind, exact_apply]
  exact issueM_ok (takesM_exactly (takesM_of_quiet hq) r 1) op

end Records

/-- Settles O31: the record, the boundary and the core pass their checks in order. -/
theorem boundaryCommandsIssue : Obligations.BoundaryCommandsIssue := by
  unfold Obligations.BoundaryCommandsIssue
  intro s g ac wc bd y f hg hq hp at_ r b w bin c dir hl bound whole
  have rest : (bRows b % (recN r * recS r) != 0) = false := by simp [whole]
  have hr : BitVec.ofNat 64 (leNat (s.spadBytes (s.here.regs.ry y).val.toNat 8)) = r := rfl
  have hb : s.here.regs.rb bd = b := rfl
  have hw : s.here.regs.rw wc = w := rfl
  have hbin : s.bin (binKey (clusterOf s.cur) (w.bin (w.next + w.depth - 1))) = bin := rfl
  have hc : coreRec (s.spadBytes (bin.base.toNat + 64) 32) = c := rfl
  have hdir : r.getLsbD 56 = dir := rfl
  refine ⟨fun record => (exec_mord ..).trans (runSlot_ok hg ?_), ?_⟩
  · simp only [exec_bind, recordAddr_ok hp hl, readRecord_ok hq, raiseIf_apply, getHere_apply, hr, hb, record, bound, rest, Bool.not_true,
      Bool.false_eq_true, if_false]
    exact bond_issued hq _ _
  · intro record live full mine ok fmt mode left fits new
    have ready : (w.state == 2 && bin.state == 3 && bin.tenant == some s.here.sr.tenant) = true := by simp [live, full, mine]
    have serves : (c.ok && c.fmt == f.code && c.md == recM r * recN r && (if dir then c.rb else c.lb) == bBond b) = true := by
      simp only [ok, fmt, mode, left, beq_self_eq_true, Bool.and_self]
    have room : decide (64 * bCap b < bRows b / recN r * recM r) = false := decide_eq_false (not_lt.2 fits)
    refine (exec_mcon ..).trans (runSlot_ok hg ?_)
    simp only [exec_bind, recordAddr_ok hp hl, readRecord_ok hq, raiseIf_apply, getHere_apply, exec_get, loadLocal_ok hq, hr, hb, hw, hbin, hc, hdir,
      ready, record, bound, serves, rest, room, Bool.not_true, Bool.false_eq_true, if_false]
    exact bond_issued hq _ _

end Sys2Proof.Machine
end

section
/-!
O32 and O33. The steps of the matrix engine, and a command whose row lies beyond its tile.
-/

namespace Sys2Proof.Machine

/-! ### A command with a row beyond its tile (R156, R175) -/

/-- A started mvac of tile 0 whose row is 64, one beyond the last. -/
def beyondCmd : MCmd :=
  { id := 0, ctx := 0, op := .mvac 0 64 (Vector.replicate 64 1), stage := .started, seq := 0, addr := 0, lvl := 0, due := 0, after := [], live := true }

/-- A device with that command alone in its matrix engine. -/
def beyondState : State := { State.reset with mcmds := [beyondCmd] }

theorem inv_beyondState : beyondState.Inv := ⟨rfl, rfl, rfl, rfl⟩

theorem exec_beyond : exec (.mCommandComplete beyondCmd.id) beyondState = .next ((beyondState.mEffect beyondCmd).dropM beyondCmd) := rfl

/-- Its row is the first of tile 1. -/
theorem tiles_beyond : ((beyondState.mEffect beyondCmd).dropM beyondCmd).tiles = writeCells [] 4096 (List.replicate 64 1) := rfl

theorem cellAt_beyond : cellAt ((beyondState.mEffect beyondCmd).dropM beyondCmd).tiles 4096 = 1 := by
  rw [tiles_beyond]
  decide

/-- Refutes O32: an mvac whose row is 64 writes the first row of the next tile, which it does not name among the tiles that it writes. Issue
makes no such command, as macv and mvac take their row modulo 64; the statement is of every command that the state may hold. -/
theorem not_matrixEffects : ¬ Obligations.MatrixEffects := by
  unfold Obligations.MatrixEffects
  intro h
  obtain ⟨t, done, unchanged, -⟩ := h beyondState beyondCmd inv_beyondState rfl rfl rfl (fun touches => absurd touches (by decide))
  obtain rfl : (beyondState.mEffect beyondCmd).dropM beyondCmd = t := by
    rw [exec_beyond] at done
    exact Host.Outcome.next.inj done
  have same := unchanged (fun f ac rec dir old new lb md rb p op => (nomatch op)) 4096 (fun w hw => .inr (by
    rw [List.mem_singleton.1 hw]
    decide))
  rw [cellAt_beyond] at same
  exact absurd same (by decide)

/-! ### The steps of the engine (R159 to R161) -/

@[simp] theorem refence_mcmds (s : State) (c : Nat) : (s.refence c).mcmds = s.mcmds := by
  unfold State.refence
  split <;> rfl

@[simp] theorem cmdDone_mcmds (s : State) (c id : Nat) : (s.cmdDone c id).mcmds = s.mcmds := by
  unfold State.cmdDone
  dsimp only
  split
  · rfl
  · exact refence_mcmds s c

/-- A state that differs in its memory, its tiles and its contexts. -/
def State.withData (s : State) (mem : List Host.Cell) (tiles : List (Nat × W32)) (cs : List (Nat × Ctx)) : State :=
  { s with mem := mem, tiles := tiles, ctxs := cs }

section Effects

variable (s : State) (c : MCmd)

theorem mEvent_shape (e : Option (Nat × Nat)) : ∃ cs, s.mEvent c e = s.withData s.mem s.tiles cs := by
  unfold State.mEvent
  cases e with
  | none => exact ⟨s.ctxs, rfl⟩
  | some p =>
    by_cases live : c.live = true
    · exact ⟨_, if_pos live⟩
    · exact ⟨s.ctxs, if_neg live⟩

theorem mCtx_shape (f : Ctx → Ctx) : ∃ cs, s.mCtx c f = s.withData s.mem s.tiles cs := by
  unfold State.mCtx
  by_cases live : c.live = true
  · exact ⟨_, if_pos live⟩
  · exact ⟨s.ctxs, if_neg live⟩

theorem wf_putStripes {m : List Host.Cell} (h : Memory.wf m = true) (cluster : Nat) (as : List Nat) (bs : List Byte) :
    Memory.wf (putStripes m cluster as bs) = true := by
  induction as generalizing m bs with
  | nil => exact h
  | cons a as ih => exact ih (wf_writeCells h _ _) _

/-- A tile of results written, with its first event recorded. -/
theorem recordedTile_shape (t : Nat) (v : Vector Rounded 4096) : ∃ tiles cs,
    (s.writeTile (coreOf c.ctx) t (tileOf v)).mEvent c (firstOf v) = s.withData s.mem tiles cs ∧ (Memory.wf s.tiles = true → Memory.wf tiles = true) := by
  generalize tileOf v = w, firstOf v = e
  obtain ⟨cs, recorded⟩ := mEvent_shape (s.writeTile (coreOf c.ctx) t w) c e
  exact ⟨_, cs, recorded, fun h => wf_writeCells h _ _⟩

/-- The results of tile i of a side, zero beyond the boundary (R308). -/
def sideTile (rows cols : Nat) (val : Nat → Nat → Rounded) (i : Nat) : Vector Rounded 4096 :=
  Vector.ofFn fun e : Fin 4096 =>
    if 64 * i + e.val / 64 < rows ∧ e.val % 64 < cols then val (64 * i + e.val / 64) (e.val % 64) else (0, 0)

theorem writeSide_cons (core t rows cols : Nat) (val : Nat → Nat → Rounded) (i : Nat) (is : List Nat) :
    writeSide s core t rows cols val (i :: is) =
      ((writeSide (s.writeTile core (t + i) (tileOf (sideTile rows cols val i))) core t rows cols val is).1,
        (firstOf (sideTile rows cols val i)).orElse fun _ => (writeSide (s.writeTile core (t + i) (tileOf (sideTile rows cols val i))) core t rows cols val is).2) := by
  rw [writeSide, sideTile]

/-- The tiles of a side are written one after another, in canonical form. -/
theorem writeSide_shape (core t rows cols : Nat) (val : Nat → Nat → Rounded) (is : List Nat) :
    ∃ tiles, (writeSide s core t rows cols val is).1 = s.withData s.mem tiles s.ctxs ∧ (Memory.wf s.tiles = true → Memory.wf tiles = true) := by
  induction is generalizing s with
  | nil => exact ⟨s.tiles, rfl, id⟩
  | cons i is ih =>
    rw [writeSide_cons]
    dsimp only
    generalize tileOf (sideTile rows cols val i) = v
    obtain ⟨tiles, written, keeps⟩ := ih (s.writeTile core (t + i) v)
    exact ⟨tiles, written, fun h => keeps (wf_writeCells h _ _)⟩

theorem mdrainEffect_shape (ac : Nat) (o : Opnd) (f : Fmt) (sc : Nat) (cmp : Bool) (rnd : BitVec 3) : ∃ mem cs,
    mdrainEffect s c ac o f sc cmp rnd = s.withData mem s.tiles cs ∧ (Memory.wf s.mem = true → Memory.wf mem = true) := by
  rw [mdrainEffect]
  by_cases mx : f.isMx = true
  · simp only [mx, if_true]
    obtain ⟨cs, scaled⟩ := mCtx_shape { s with mem := _ } c _
    rw [scaled]
    obtain ⟨cs', recorded⟩ := mEvent_shape (State.withData _ _ _ cs) c _
    exact ⟨_, cs', recorded, fun h => wf_putStripes h _ _ _⟩
  · simp only [if_neg mx]
    obtain ⟨cs, recorded⟩ := mEvent_shape { s with mem := _ } c _
    exact ⟨_, cs, recorded, fun h => wf_putStripes h _ _ _⟩

/-- What a command that completes can change: memory and tiles, which stay in their canonical form, and its context. -/
theorem mEffect_shape : ∃ mem tiles cs, s.mEffect c = s.withData mem tiles cs ∧
    (Memory.wf s.mem = true → Memory.wf mem = true) ∧ (Memory.wf s.tiles = true → Memory.wf tiles = true) := by
  unfold State.mEffect
  cases c.op with
  | mma z f ca map ac a b sa0 sa1 sb0 sb1 =>
    dsimp only
    rw [mmaEffect]
    generalize product _ _ _ _ _ _ _ _ _ _ = v
    obtain ⟨tiles, cs, shape, keeps⟩ := recordedTile_shape s c ac v
    exact ⟨_, tiles, cs, shape, id, keeps⟩
  | mrot ac slot =>
    dsimp only
    rw [mrotEffect]
    generalize rotated _ _ = v
    obtain ⟨tiles, cs, shape, keeps⟩ := recordedTile_shape s c ac v
    exact ⟨_, tiles, cs, shape, id, keeps⟩
  | mcon f ac rec dir old new lb md rb p =>
    obtain ⟨tiles, written, keeps⟩ := writeSide_shape s (coreOf c.ctx) (ac + bSide new * bCap old) (bRows new) (bBond new) _ (List.range (bCap old))
    obtain ⟨cs, recorded⟩ := mEvent_shape (s.withData s.mem tiles s.ctxs) c _
    exact ⟨_, _, cs, (congrArg (fun u => State.mEvent u c _) written).trans recorded, id, keeps⟩
  | mord ac rec old =>
    obtain ⟨tiles, written, keeps⟩ := writeSide_shape s (coreOf c.ctx) _ _ _ _ _
    exact ⟨_, tiles, s.ctxs, written, id, keeps⟩
  | mdrain ac o f sc cmp rnd =>
    obtain ⟨mem, cs, drained, keeps⟩ := mdrainEffect_shape s c ac o f sc cmp rnd
    exact ⟨mem, _, cs, drained, keeps, id⟩
  | mhld k v =>
    obtain ⟨cs, changed⟩ := mCtx_shape s c _
    exact ⟨_, _, cs, changed, id, id⟩
  | mdmap k v =>
    obtain ⟨cs, changed⟩ := mCtx_shape s c _
    exact ⟨_, _, cs, changed, id, id⟩
  | mdclr =>
    obtain ⟨cs, changed⟩ := mCtx_shape s c _
    exact ⟨_, _, cs, changed, id, id⟩
  | mzero ac => exact ⟨_, _, s.ctxs, rfl, id, fun h => wf_writeCells h _ _⟩
  | mcopy ac src t => exact ⟨_, _, s.ctxs, rfl, id, fun h => wf_writeCells h _ _⟩
  | mldac ac o => exact ⟨_, _, s.ctxs, rfl, id, fun h => wf_writeCells h _ _⟩
  | mstac ac o => exact ⟨_, s.tiles, s.ctxs, rfl, fun h => wf_putStripes h _ _ _, id⟩
  | mvac ac row v => exact ⟨_, _, s.ctxs, rfl, id, fun h => wf_writeCells h _ _⟩

end Effects

/-- A command that completes changes no command of the matrix engine. -/
theorem mEffect_mcmds (s : State) (c : MCmd) : (s.mEffect c).mcmds = s.mcmds := by
  obtain ⟨mem, tiles, cs, shape, -⟩ := mEffect_shape s c
  rw [shape]
  rfl

/-- A command that is done has left the engine. -/
theorem findM_dropM (s : State) (c : MCmd) : (s.dropM c).findM c.id = none := by
  rw [State.findM, State.dropM, cmdDone_mcmds, List.find?_eq_none]
  intro d hd
  simpa using (List.mem_filter.1 hd).2

section Steps

variable {s : State} {c : MCmd} (found : s.findM c.id = some c)

theorem exec_mQueueEntry (id : Nat) : exec (.mQueueEntry id) s = event "M command enters its queue" (s.enterM id) := rfl
theorem exec_mCommandStart (id : Nat) : exec (.mCommandStart id) s = event "M command starts" (s.startM id) := rfl
theorem exec_mCommandComplete (id : Nat) : exec (.mCommandComplete id) s = event "M command completes" (s.completeM id) := rfl

include found

theorem enterM_ok (waiting : c.stage = .buffer) (room : mRoom s (coreOf c.ctx) c.op = true) : s.enterM c.id = some (s.putM { c with stage := .queued }) := by
  simp [State.enterM, found, waiting, room]

theorem startM_ok (ready : s.mReady c = true) : s.startM c.id = some (s.putM { c with stage := .started }) := by
  simp [State.startM, found, ready]

theorem completeM_ok (started : c.stage = .started)
    (first : c.op.touches = true → ∀ d ∈ s.mcmds, d.ctx = c.ctx → d.id < c.id → d.op.touches = false) :
    s.completeM c.id = some ((s.mEffect c).dropM c) := by
  have none : (c.op.touches && s.mcmds.any fun d => d.ctx == c.ctx && decide (d.id < c.id) && d.op.touches) = false := by
    by_cases touches : c.op.touches = true
    · rw [touches, Bool.true_and, List.any_eq_false]
      intro d hd
      by_cases same : d.ctx = c.ctx
      · by_cases before : d.id < c.id
        · simp [first touches d hd same before]
        · simp [before]
      · simp [same]
    · rw [Bool.not_eq_true] at touches
      rw [touches, Bool.false_and]
  simp only [State.completeM, found, Option.bind_eq_bind, Option.bind_some, started, none, Bool.not_false, and_self, if_true]

end Steps

/-- The oldest queued command of an idle unit is ready once nothing that it comes after is outstanding (R159, R161, R235). -/
theorem mReady_of {s : State} {c : MCmd} (queued : c.stage = .queued) (free : c.waitsFor s = false)
    (oldest : ∀ d ∈ s.mcmds, coreOf d.ctx = coreOf c.ctx → d.op.drain = c.op.drain → d.stage ≠ .started ∧ (d.stage = .queued → c.id ≤ d.id))
    (done : ∀ i ∈ c.after, i ∉ s.outstanding c.ctx) : s.mReady c = true := by
  have idle : (s.mcmds.any fun d => coreOf d.ctx == coreOf c.ctx && d.op.drain == c.op.drain &&
      (d.stage == .started || (d.stage == .queued && decide (d.id < c.id)))) = false := by
    rw [List.any_eq_false]
    intro d hd
    by_cases core : coreOf d.ctx = coreOf c.ctx
    · by_cases unit : d.op.drain = c.op.drain
      · obtain ⟨notStarted, later⟩ := oldest d hd core unit
        by_cases q : d.stage = .queued
        · simp [notStarted, later q]
        · simp [notStarted, q]
      · simp [unit]
    · simp [core]
  have settled : s.allDone c.ctx c.after = true := by
    rw [State.allDone, List.all_eq_true]
    intro i hi
    simpa using done i hi
  simp only [State.mReady, queued, idle, settled, free]
  rfl

/-- Settles O33: the three steps of a command. -/
theorem matrixCommandSteps : Obligations.MatrixCommandSteps := by
  unfold Obligations.MatrixCommandSteps
  refine fun s c found => ⟨fun waiting room => ?_, fun queued free oldest done => ?_, fun started first => ⟨_, ?_, findM_dropM (s.mEffect c) c⟩⟩
  · rw [exec_mQueueEntry, enterM_ok found waiting room]
    rfl
  · rw [exec_mCommandStart, startM_ok found (mReady_of queued free oldest done)]
    rfl
  · rw [exec_mCommandComplete, completeM_ok found started first]
    rfl

end Sys2Proof.Machine
end

section
/-!
O34. The issue of copy, copyg, copyx, bank and xfer: the checks of R266 one by one, and the command with what it has read.
-/

namespace Sys2Proof.Machine

/-! ### The checks of an engine command (R266) -/

section Checks

variable {s : State}

theorem checkPage_ok {hn : BitVec 4} {h : Handle} {dir : Bool} (ok : h.grants dir) (info : Nat) : checkPage hn h dir info s = .ok ((), s) := by
  obtain ⟨valid, granted⟩ := ok
  cases dir with
  | true => simp [checkPage, valid, show h.w = true from granted]
  | false => simp [checkPage, valid, show h.r = true from granted]

theorem checkAlign_ok {v a : Nat} (h : v % a = 0) (info : Nat) : checkAlign v a info s = .ok ((), s) := by simp [checkAlign, h]

theorem checkPriv_ok {ok : Bool} (h : ok = true) (info : Nat) : checkPriv ok info s = .ok ((), s) := by simp [checkPriv, h]

theorem checkRange_ok {addr n : Nat} (h : s.here.allots addr n = true) : checkRange addr n s = .ok ((), s) := by
  simp only [checkRange, exec_bind, getHere_apply, checkPriv_ok h]

theorem checkOptions_ok {st : Bool} {ctl : W64} (ok : s.optionsOk st ctl) : checkOptions st ctl s = .ok ((), s) := by
  obtain ⟨plain, expands, -⟩ := ok
  have options : (!(st && (ctlBin ctl || ctlExp ctl || ctlFull ctl))) = true := by
    cases st with
    | false => rfl
    | true =>
      obtain ⟨bin, exp, full⟩ := plain rfl
      rw [bin, exp, full]
      rfl
  have format : (!(ctlExp ctl && !viewFmtOk 1 (Fmt.ofCode (ctlFmt ctl)))) = true := by
    cases exp : ctlExp ctl with
    | false => rfl
    | true => rw [expands exp]; rfl
  simp only [checkOptions, exec_bind, checkPriv_ok options, checkPriv_ok format]

theorem checkBin_ok {st : Bool} {ctl : W64} (ok : s.optionsOk st ctl) : checkBin ctl s = .ok ((), s) := by
  obtain ⟨-, -, mine⟩ := ok
  have allowed : (!(ctlBin ctl && (s.bin (binKey (clusterOf s.cur) (ctlBinNo ctl))).state != 0 &&
      (s.bin (binKey (clusterOf s.cur) (ctlBinNo ctl))).tenant != some s.here.sr.tenant)) = true := by
    cases used : ctlBin ctl with
    | false => rfl
    | true => rcases mine used with free | own
              · simp [show (s.bin (binKey (clusterOf s.cur) (ctlBinNo ctl))).state = 0 from free]
              · simp [show (s.bin (binKey (clusterOf s.cur) (ctlBinNo ctl))).tenant = some s.here.sr.tenant from own]
  simp only [checkBin, exec_bind, exec_get, checkPriv_ok allowed]

theorem quadAll_ok {q : BitVec 3} (h : s.quadClean q [0, 1, 2, 3]) :
    quadAll q s = .ok ((s.quadVal q 0, s.quadVal q 1, s.quadVal q 2, s.quadVal q 3), s) := by
  simp only [quadAll, exec_bind, needQuad_ok (h 0 (by decide)), needQuad_ok (h 1 (by decide)), needQuad_ok (h 2 (by decide)), needQuad_ok (h 3 (by decide)),
    exec_pure]

/-- The bytes that a row comes from are at least named by a format that expands (R266, R269). -/
theorem expands_width {st : Bool} {ctl : W64} (ok : s.optionsOk st ctl) (exp : ctlExp ctl = true) : ctlWidth ctl ≠ 0 := by
  have format := ok.2.1 exp
  unfold ctlWidth
  cases h : Fmt.ofCode (ctlFmt ctl) with
  | none => rw [h] at format; exact absurd format (by decide)
  | some f => cases f <;> decide

/-- An access of class c0 that a command makes freezes the bundle while a load of the class is on its way (R231). -/
theorem accessBefore_late {cls : BitVec 4} (h : s.here.late cls = true) : accessBefore cls s = .error (.freezePast (.ofClass cls)) := by
  simp only [accessBefore, exec_bind, exec_get, stopIf_apply, h, if_true]

theorem accessBefore_ok {cls : BitVec 4} (h : s.here.late cls = false) :
    accessBefore cls s = .ok (storeIds (some cls) s.here.stores ++ s.classCmds s.cur cls, s) := by
  simp only [accessBefore, exec_bind, exec_get, stopIf_apply, h, Bool.false_eq_true, if_false, exec_pure]

/-- A check under a condition is passed when it is passed under that condition. -/
theorem skip_check {α : Type} {p : Prop} [Decidable p] {x : Exec Unit} {y : Exec α} (h : p → x s = .ok ((), s)) :
    (if p then x >>= fun _ => y else y) s = y s := by
  split
  · simp only [exec_bind, h ‹_›]
  · rfl

end Checks

/-! ### The five transfers (R264 to R266, R268, R284, R381) -/

section Arms

variable (g : Guard) (k : KE) (st : Bool) (hn : BitVec 4) (q : BitVec 3) (s : State)

theorem exec_copy : exec (.copy g k st hn q) s = execCopy g k st hn q s := rfl
theorem exec_copyg : exec (.copyg g k st hn q) s = execCopyg g k st hn q s := rfl
theorem exec_copyx : exec (.copyx g k st hn q) s = execCopyx g k st hn q s := rfl
theorem exec_bank : exec (.bank g k hn q) s = execBank g k hn q s := rfl
theorem exec_xfer : exec (.xfer g k st hn q) s = execXfer g k st hn q s := rfl

end Arms

section Transfers

variable {s : State} {g : Guard} {k : KE} {st : Bool} {hn : BitVec 4} {q : BitVec 3} (hg : s.here.enabled g = true) (ht : s.takesCommand)

include hg ht

/-- The fields that a copy's checks speak of (R266). -/
structure CopyOk (s : State) (st : Bool) (h : Handle) (o lw n ctl : W64) : Prop where
  grants : h.grants st
  options : s.optionsOk st ctl
  page : o.toNat % 32 = 0
  size : n.toNat % 32 = 0
  low : 32 ≤ n.toNat
  high : n.toNat ≤ 1048576
  whole : ctlExp ctl = true → n.toNat % (512 * ctlWidth ctl) = 0
  fits : o.toNat + pageSpan ctl n.toNat ≤ pageBytes h.size

theorem copy_ok (clean : s.quadClean q [0, 1, 2, 3])
    (ok : CopyOk s st (s.here.regs.rh hn) (s.quadVal q 0) (s.quadVal q 1) (s.quadVal q 2) (s.quadVal q 3))
    (place : (lwKind (s.quadVal q 1) = 0 ∧ lwAddr (s.quadVal q 1) % 32 = 0 ∧ s.here.allots (lwAddr (s.quadVal q 1)) (s.quadVal q 2).toNat = true) ∨
      (lwKind (s.quadVal q 1) = 1 ∧ (s.quadVal q 2).toNat = 16384 ∧ ctlBin (s.quadVal q 3) = false ∧ ctlExp (s.quadVal q 3) = false ∧
        ctlFull (s.quadVal q 3) = false ∧ lwAddr (s.quadVal q 1) / 32 = 0 ∧ s.here.hasTile (lwAddr (s.quadVal q 1)) = true)) :
    exec (.copy g k st hn q) s = .next (s.commanded k.kd [k.ka, k.kb, k.kc] .copy
      (.copy st (s.here.regs.rh hn) (s.quadVal q 0).toNat (s.quadVal q 1) (s.quadVal q 2).toNat (s.quadVal q 3)) []) := by
  obtain ⟨grants, options, ho, hn32, lo, hi, whole, fits⟩ := ok
  have span : (decide (32 ≤ (s.quadVal q 2).toNat) && decide ((s.quadVal q 2).toNat ≤ 1048576)) = true := by simp [lo, hi]
  have images (h : (ctlExp (s.quadVal q 3) && ctlWidth (s.quadVal q 3) != 0) = true) :
      checkAlign (s.quadVal q 2).toNat (512 * ctlWidth (s.quadVal q 3)) 0 s = .ok ((), s) := checkAlign_ok (whole (Bool.and_eq_true_iff.1 h).1) 0
  have aligned (h : lwKind (s.quadVal q 1) = 0) : checkAlign (lwAddr (s.quadVal q 1)) 32 (lwAddr (s.quadVal q 1)) s = .ok ((), s) := by
    rcases place with ⟨-, aligned, -⟩ | ⟨tile, -⟩
    · exact checkAlign_ok aligned _
    · rw [tile] at h
      exact absurd h (by decide)
  have allotted (h : lwKind (s.quadVal q 1) = 0) : checkRange (lwAddr (s.quadVal q 1)) (s.quadVal q 2).toNat s = .ok ((), s) := by
    rcases place with ⟨-, -, mine⟩ | ⟨tile, -⟩
    · exact checkRange_ok mine
    · rw [tile] at h
      exact absurd h (by decide)
  have kind : (lwKind (s.quadVal q 1) == 0 || (lwKind (s.quadVal q 1) == 1 && s.quadVal q 2 == 16384 && !ctlBin (s.quadVal q 3) && !ctlExp (s.quadVal q 3) &&
      !ctlFull (s.quadVal q 3) && bits (lwAddr (s.quadVal q 1)) 5 18 == 0 && s.here.hasTile (bits (lwAddr (s.quadVal q 1)) 0 5))) = true := by
    rcases place with ⟨spad, -⟩ | ⟨tile, size, bin, exp, full, low, mine⟩
    · simp [spad]
    · have number : bits (lwAddr (s.quadVal q 1)) 0 5 = lwAddr (s.quadVal q 1) := by
        unfold bits
        omega
      have above : bits (lwAddr (s.quadVal q 1)) 5 18 = 0 := by
        unfold bits
        rw [show lwAddr (s.quadVal q 1) / 2 ^ 5 = 0 from low, Nat.zero_mod]
      have bytes : s.quadVal q 2 = 16384 := BitVec.eq_of_toNat_eq size
      rw [number, above, bytes, tile, bin, exp, full, mine]
      rfl
  refine (exec_copy ..).trans (runSlot_ok hg ?_)
  simp only [exec_bind, quadAll_ok clean, readH_apply, checkPage_ok grants, checkAlign_ok ho, checkAlign_ok hn32, skip_check aligned, skip_check images,
    getHere_apply, checkPriv_ok kind, checkPriv_ok span, checkPriv_ok (decide_eq_true fits), skip_check allotted, checkOptions_ok options,
    checkBin_ok options, usesOf_eq, consumed_apply, issueE_ok ht, exec_pure]

/-- A body whose checks leave only the access of class c0 and the issue of its command: frozen, or commanded (R231, R268). -/
theorem accessed_ok {body : Exec Unit} (op : EOp)
    (hb : body s = (do let before ← accessBefore 0; let ks ← consumed (usesOf k); let _ ← issueE k.kd ks .copy op before : Exec Unit) s) :
    runSlot g body s = if s.here.late 0 then .next (s.freezePast (.ofClass 0))
      else .next (s.commanded k.kd [k.ka, k.kb, k.kc] .copy op (storeIds (some 0) s.here.stores ++ s.classCmds s.cur 0)) := by
  cases late : s.here.late 0 with
  | true =>
    rw [if_pos rfl]
    refine runSlot_stop (e := .freezePast (.ofClass 0)) hg (hb.trans ?_)
    simp only [exec_bind, accessBefore_late late]
  | false =>
    rw [if_neg Bool.false_ne_true]
    refine runSlot_ok hg (hb.trans ?_)
    simp only [exec_bind, accessBefore_ok late, usesOf_eq, consumed_apply, issueE_ok ht, exec_pure]

theorem copyg_ok (clean : s.quadClean q [0, 1, 2, 3]) (grants : (s.here.regs.rh hn).grants st) (options : s.optionsOk st (s.quadVal q 3))
    (rowAligned : (s.quadVal q 2).toNat / 2 ^ 32 % 32 = 0) (rowLow : 32 ≤ (s.quadVal q 2).toNat / 2 ^ 32) (rowHigh : (s.quadVal q 2).toNat / 2 ^ 32 ≤ 4096)
    (some : 1 ≤ (s.quadVal q 2).toNat % 2 ^ 32) (few : (s.quadVal q 2).toNat % 2 ^ 32 ≤ 4096)
    (span : (s.quadVal q 2).toNat % 2 ^ 32 * ((s.quadVal q 2).toNat / 2 ^ 32) ≤ 1048576)
    (kind : lwKind (s.quadVal q 1) = 0) (aligned : lwAddr (s.quadVal q 1) % 32 = 0)
    (rows : s.here.allots (lwAddr (s.quadVal q 1)) ((s.quadVal q 2).toNat % 2 ^ 32 * ((s.quadVal q 2).toNat / 2 ^ 32)) = true)
    (listAligned : (s.quadVal q 0).toNat % 4 = 0) (list : s.here.allots (s.quadVal q 0).toNat (4 * ((s.quadVal q 2).toNat % 2 ^ 32)) = true) :
    exec (.copyg g k st hn q) s = if s.here.late 0 then .next (s.freezePast (.ofClass 0))
      else .next (s.commanded k.kd [k.ka, k.kb, k.kc] .copy
        (.copyg st (s.here.regs.rh hn) (s.quadVal q 0).toNat (s.quadVal q 1) (s.quadVal q 2) (s.quadVal q 3))
        (storeIds (Option.some 0) s.here.stores ++ s.classCmds s.cur 0)) := by
  have rowBytes : bits (s.quadVal q 2).toNat 32 32 = (s.quadVal q 2).toNat / 2 ^ 32 := by
    have := (s.quadVal q 2).isLt
    unfold bits
    omega
  have count : bits (s.quadVal q 2).toNat 0 32 = (s.quadVal q 2).toNat % 2 ^ 32 := by
    unfold bits
    rw [pow_zero, Nat.div_one]
  have limits : (decide (1 ≤ (s.quadVal q 2).toNat % 2 ^ 32 ∧ (s.quadVal q 2).toNat % 2 ^ 32 ≤ 4096) &&
      decide (32 ≤ (s.quadVal q 2).toNat / 2 ^ 32 ∧ (s.quadVal q 2).toNat / 2 ^ 32 ≤ 4096) &&
      decide ((s.quadVal q 2).toNat % 2 ^ 32 * ((s.quadVal q 2).toNat / 2 ^ 32) ≤ 1048576)) = true := by
    rw [decide_eq_true ⟨some, few⟩, decide_eq_true ⟨rowLow, rowHigh⟩, decide_eq_true span]
    rfl
  refine (exec_copyg ..).trans (accessed_ok hg ht _ ?_)
  simp only [exec_bind, quadAll_ok clean, readH_apply, checkPage_ok grants, rowBytes, count, checkAlign_ok rowAligned,
    skip_check (fun _ => checkAlign_ok aligned _), checkAlign_ok listAligned, checkPriv_ok (beq_iff_eq.2 kind), checkRange_ok rows, checkRange_ok list,
    checkOptions_ok options, checkPriv_ok limits, checkBin_ok options]

theorem copyx_ok (clean : s.quadClean q [0, 1, 3]) (grants : (s.here.regs.rh hn).grants st) (options : s.optionsOk st (s.quadVal q 3))
    (kind : lwKind (s.quadVal q 1) = 0) (aligned : lwAddr (s.quadVal q 1) % 32 = 0)
    (recordAligned : (s.here.regs.rl ((s.quadVal q 0).setWidth 3)).toNat % 2 ^ 23 % 32 = 0)
    (record : s.here.allots ((s.here.regs.rl ((s.quadVal q 0).setWidth 3)).toNat % 2 ^ 23) 32 = true) :
    exec (.copyx g k st hn q) s = if s.here.late 0 then .next (s.freezePast (.ofClass 0))
      else .next (s.commanded k.kd [k.ka, k.kb, k.kc] .copy
        (.copyx st (s.here.regs.rh hn) (s.here.regs.rl ((s.quadVal q 0).setWidth 3)) (s.quadVal q 1) (s.quadVal q 3))
        (storeIds (some 0) s.here.stores ++ s.classCmds s.cur 0)) := by
  have place : bits (s.here.regs.rl ((s.quadVal q 0).setWidth 3)).toNat 0 23 = (s.here.regs.rl ((s.quadVal q 0).setWidth 3)).toNat % 2 ^ 23 := by
    unfold bits
    rw [pow_zero, Nat.div_one]
  refine (exec_copyx ..).trans (accessed_ok hg ht _ ?_)
  simp only [exec_bind, needQuad_ok (clean 0 (by decide)), needQuad_ok (clean 1 (by decide)), needQuad_ok (clean 3 (by decide)), readH_apply,
    checkPage_ok grants, skip_check (fun _ => checkAlign_ok aligned _), checkPriv_ok (beq_iff_eq.2 kind), getHere_apply, place, checkRange_ok record,
    checkOptions_ok options, checkPriv_ok (beq_iff_eq.2 recordAligned), checkBin_ok options]

end Transfers

/-- Settles O34: the checks of each transfer pass in their order, and its command is issued. -/
theorem transfersIssue : Obligations.TransfersIssue := by
  unfold Obligations.TransfersIssue
  intro s g k st hn q hg ht h v gives accesses localAt o n
  have page : s.here.regs.rh hn = h := rfl
  have value (i : Nat) : s.quadVal q i = v i := rfl
  have first : (v 0).toNat = o := rfl
  have third : (v 2).toNat = n := rfl
  have low16 (w : W64) : bits w.toNat 0 16 = w.toNat % 2 ^ 16 := by
    unfold bits
    rw [pow_zero, Nat.div_one]
  have low20 (w : W64) : bits w.toNat 0 20 = w.toNat % 2 ^ 20 := by
    unfold bits
    rw [pow_zero, Nat.div_one]
  refine ⟨fun clean grants options ho hn32 lo hi whole fits place => copy_ok hg ht clean ⟨grants, options, ho, hn32, lo, hi, whole, fits⟩ place, ?_, ?_, ?_, ?_⟩
  · intro cnt row clean grants options rowAligned rowLow rowHigh some few span place listAligned list
    obtain ⟨kind, aligned, rows⟩ := place
    exact copyg_ok hg ht clean grants options rowAligned rowLow rowHigh some few span kind aligned rows listAligned list
  · intro l clean grants options kind aligned recordAligned record
    exact copyx_ok hg ht clean grants options kind aligned recordAligned record
  · intro m kk w clean grants bank ho hx hy mLow mHigh kLow kHigh kWhole fits xIn yIn
    have rows : bits (v 3).toNat 0 16 = m := low16 (v 3)
    have columns : bits (v 3).toNat 16 16 = kk := rfl
    have elem : (if h.bankl = 1 then 1 else 2) = w := rfl
    have linear : (h.bankl == 1 || h.bankl == 2) = true := by
      rcases bank with h | h
      · exact Bool.or_eq_true_iff.2 (.inl (beq_iff_eq.2 h))
      · exact Bool.or_eq_true_iff.2 (.inr (beq_iff_eq.2 h))
    have height : decide (1 ≤ m ∧ m ≤ 4096) = true := decide_eq_true (And.intro mLow mHigh)
    have depth : (decide (64 ≤ kk ∧ kk ≤ 16384) && kk % 64 == 0) = true := by
      rw [decide_eq_true (And.intro kLow kHigh), kWhole]
      rfl
    refine (exec_bank ..).trans (runSlot_ok hg ?_)
    simp only [exec_bind, quadAll_ok clean, readH_apply, page, value, first, third, rows, columns, elem, checkPage_ok grants, checkAlign_ok ho,
      checkAlign_ok hx, checkAlign_ok hy, checkPriv_ok linear, checkPriv_ok height, checkPriv_ok depth, checkPriv_ok (decide_eq_true fits),
      checkRange_ok xIn, checkRange_ok yIn, usesOf_eq, consumed_apply, issueE_ok ht, exec_pure]
  · intro len clean grants ho hl lo hi fits
    have length : (v 3).toNat = len := rfl
    have span : (decide (32 ≤ len) && decide (len ≤ 16777216)) = true := by
      rw [decide_eq_true lo, decide_eq_true hi]
      rfl
    refine (exec_xfer ..).trans (runSlot_ok hg ?_)
    simp only [exec_bind, quadAll_ok clean, readH_apply, page, value, first, length, checkPage_ok grants, checkAlign_ok ho, checkAlign_ok hl,
      checkPriv_ok span, checkPriv_ok (decide_eq_true fits), low20, usesOf_eq, consumed_apply, issueE_ok ht, exec_pure]

end Sys2Proof.Machine
end

section
/-!
O35. The commands of the buffer unit, the token unit and the gleaner at issue, and the cursor that walk and chain write.
-/

namespace Sys2Proof.Machine

/-! ### The fields of a cursor (R292) -/

section Cursors

variable (c : Cursor) {lo n : Nat} (inside : lo + n ≤ 256) (v : Nat)

include inside

theorem testBit_cursorSet (i : Nat) :
    (c.set lo n v).toNat.testBit i = if lo ≤ i ∧ i < lo + n then (v % 2 ^ n).testBit (i - lo) else c.toNat.testBit i := by
  rw [Cursor.set, BitVec.toNat_ofNat, Nat.testBit_mod_two_pow, testBit_sub_bits_add _ _ _ (Nat.mod_lt _ (Nat.two_pow_pos n))]
  by_cases high : i < 256
  · rw [decide_eq_true high, Bool.true_and]
    by_cases below : i < lo
    · rw [if_pos below, if_neg (by omega)]
    · by_cases within : i < lo + n
      · rw [if_neg below, if_pos within, if_pos ⟨not_lt.1 below, within⟩]
      · rw [if_neg below, if_neg within, if_neg (by omega)]
  · have beyond : c.toNat.testBit i = false := Nat.testBit_lt_two_pow (c.isLt.trans_le (Nat.pow_le_pow_right (by decide) (not_lt.1 high)))
    rw [decide_eq_false high, Bool.false_and, if_neg (by omega), beyond]

theorem field_set_same : (c.set lo n v).field lo n = v % 2 ^ n := by
  refine Nat.eq_of_testBit_eq fun i => ?_
  rw [Cursor.field, testBit_bits, testBit_cursorSet c inside]
  by_cases low : i < n
  · rw [decide_eq_true low, Bool.true_and, if_pos ⟨Nat.le_add_right .., Nat.add_lt_add_left low lo⟩, Nat.add_sub_cancel_left]
  · rw [decide_eq_false low, Bool.false_and, Nat.testBit_mod_two_pow, decide_eq_false low, Bool.false_and]

theorem field_set_apart {lo' n' : Nat} (apart : lo' + n' ≤ lo ∨ lo + n ≤ lo') : (c.set lo n v).field lo' n' = c.field lo' n' := by
  refine Nat.eq_of_testBit_eq fun i => ?_
  rw [Cursor.field, Cursor.field, testBit_bits, testBit_bits, testBit_cursorSet c inside]
  by_cases low : i < n'
  · rw [if_neg (by omega)]
  · rw [decide_eq_false low, Bool.false_and, Bool.false_and]

end Cursors

/-- A link put into a cursor leaves every other field (R293). -/
theorem field_setLink_apart (c : Cursor) (l : BitVec 128) {lo n : Nat}
    (apart : 128 ≤ lo ∨ (52 ≤ lo ∧ lo + n ≤ 64) ∨ (96 ≤ lo ∧ lo + n ≤ 104) ∨ (124 ≤ lo ∧ lo + n ≤ 126)) : (c.setLink l).field lo n = c.field lo n := by
  rw [Cursor.setLink, field_set_apart _ (by decide) _ (by omega), field_set_apart _ (by decide) _ (by omega), field_set_apart _ (by decide) _ (by omega),
    field_set_apart _ (by decide) _ (by omega)]

section Links

variable (c : Cursor) (l : BitVec 128)

theorem addr_setLink : (c.setLink l).addr = bits l.toNat 0 52 := by
  rw [Cursor.addr, Cursor.setLink, field_set_apart _ (by decide) _ (by decide), field_set_apart _ (by decide) _ (by decide),
    field_set_apart _ (by decide) _ (by decide), field_set_same _ (by decide)]
  exact Nat.mod_eq_of_lt (Nat.mod_lt _ (by decide))

theorem gen_setLink : (c.setLink l).gen = bits l.toNat 64 32 := by
  rw [Cursor.gen, Cursor.setLink, field_set_apart _ (by decide) _ (by decide), field_set_apart _ (by decide) _ (by decide), field_set_same _ (by decide)]
  exact Nat.mod_eq_of_lt (Nat.mod_lt _ (by decide))

theorem device_setLink : (c.setLink l).device = bits l.toNat 104 20 := by
  rw [Cursor.device, Cursor.setLink, field_set_apart _ (by decide) _ (by decide), field_set_same _ (by decide)]
  exact Nat.mod_eq_of_lt (Nat.mod_lt _ (by decide))

theorem kind_setLink : (c.setLink l).kind = bits l.toNat 126 2 := by
  rw [Cursor.kind, Cursor.setLink, field_set_same _ (by decide)]
  exact Nat.mod_eq_of_lt (Nat.mod_lt _ (by decide))

end Links

/-! ### The cursor of walk and chain (R293) -/

/-- The budget that walk gives: 0 stands for the largest. -/
def walkBudget (ctl : W64) : Nat := if bits ctl.toNat 0 16 = 0 then 65535 else bits ctl.toNat 0 16

/-- The word of a new cursor before its link. -/
def walkWord (core : Bool) (furrow : Nat) (zl ctl : W64) : Nat :=
  5 * 2 ^ 252 + bits ctl.toNat 31 1 * 2 ^ 251 + bits ctl.toNat 16 3 * 2 ^ 248 + bits ctl.toNat 24 5 * 2 ^ 240 +
    core.toNat * 2 ^ 231 + walkBudget ctl * 2 ^ 176 + bits zl.toNat 32 9 * 2 ^ 160 + bits zl.toNat 0 23 * 2 ^ 128 + furrow * 2 ^ 124

theorem newCursor_eq (link : BitVec 128) (core : Bool) (furrow : Nat) (zl ctl : W64) :
    newCursor link core furrow zl ctl = Cursor.setLink (BitVec.ofNat 256 (walkWord core furrow zl ctl)) link := rfl

theorem bits_lt (x lo n : Nat) : bits x lo n < 2 ^ n := Nat.mod_lt _ (Nat.two_pow_pos n)

/-- The fields of a new cursor's word, each at its place. -/
theorem walkWord_fields (core : Bool) {furrow : Nat} (hf : furrow < 4) (zl ctl : W64) :
    let c : Cursor := BitVec.ofNat 256 (walkWord core furrow zl ctl)
    c.field 252 4 = 5 ∧ c.field 251 1 = bits ctl.toNat 31 1 ∧ c.field 248 3 = bits ctl.toNat 16 3 ∧ c.field 245 3 = 0 ∧ c.field 240 5 = bits ctl.toNat 24 5 ∧
      c.field 232 8 = 0 ∧ c.field 231 1 = core.toNat ∧ c.field 176 16 = walkBudget ctl ∧ c.field 160 9 = bits zl.toNat 32 9 ∧
      c.field 128 23 = bits zl.toNat 0 23 ∧ c.field 124 2 = furrow := by
  have chk := bits_lt ctl.toNat 31 1
  have depth := bits_lt ctl.toNat 16 3
  have group := bits_lt ctl.toNat 24 5
  have z := bits_lt zl.toNat 32 9
  have land := bits_lt zl.toNat 0 23
  have hcore := core.toNat_lt
  have budget : walkBudget ctl < 2 ^ 16 := by
    have := bits_lt ctl.toNat 0 16
    unfold walkBudget
    split <;> omega
  have below : walkWord core furrow zl ctl < 2 ^ 256 := by
    unfold walkWord
    omega
  have word : (BitVec.ofNat 256 (walkWord core furrow zl ctl)).toNat = walkWord core furrow zl ctl := by
    rw [BitVec.toNat_ofNat, Nat.mod_eq_of_lt below]
  dsimp only [Cursor.field]
  rw [word]
  clear word below
  unfold walkWord
  generalize bits ctl.toNat 31 1 = f1, bits ctl.toNat 16 3 = f2, bits ctl.toNat 24 5 = f3, bits zl.toNat 32 9 = f4, bits zl.toNat 0 23 = f5,
    core.toNat = f6, walkBudget ctl = f7 at *
  unfold bits
  refine ⟨?_, ?_, ?_, ?_, ?_, ?_, ?_, ?_, ?_, ?_, ?_⟩ <;> omega

/-- What the cursor of a new walk says (R293). -/
theorem newCursor_fields (hi lo zl ctl : W64) (core : Bool) (f : BitVec 2) (hz : bits zl.toNat 32 16 ≤ 257) :
    let c := newCursor (hi ++ lo) core f.toNat zl ctl
    c.state = 5 ∧ c.depth = ctl.toNat / 2 ^ 16 % 8 + 1 ∧ c.group = ctl.toNat / 2 ^ 24 % 32 ∧ c.z = bits zl.toNat 32 16 ∧ c.land = zl.toNat % 2 ^ 23 ∧
      c.furrow = f.toNat ∧ c.core = core ∧ c.next = 0 ∧ c.reason = 0 ∧ c.chk = ctl.getLsbD 31 ∧
      c.budget = (if ctl.toNat % 2 ^ 16 = 0 then 65535 else ctl.toNat % 2 ^ 16) ∧ c.addr = lo.toNat % 2 ^ 52 ∧ c.gen = hi.toNat % 2 ^ 32 ∧
      c.device = hi.toNat / 2 ^ 40 % 2 ^ 20 ∧ c.kind = hi.toNat / 2 ^ 62 := by
  obtain ⟨state, chk, depth, next, group, reason, hcore, budget, z, land, furrow⟩ := walkWord_fields core (furrow := f.toNat) f.isLt zl ctl
  have word : (hi ++ lo).toNat = 2 ^ 64 * hi.toNat + lo.toNat := by rw [BitVec.toNat_append, Nat.shiftLeft_eq, mul_comm, Nat.two_pow_add_eq_or_of_lt lo.isLt]
  have low := lo.isLt
  have high := hi.isLt
  have bit (b : Bool) : (b.toNat == 1) = b := by cases b <;> rfl
  have bottom (x n : Nat) : bits x 0 n = x % 2 ^ n := by rw [bits, pow_zero, Nat.div_one]
  have flag : (bits ctl.toNat 31 1 == 1) = ctl.getLsbD 31 := bitAt_eq_testBit ..
  intro c
  refine ⟨?_, ?_, ?_, ?_, ?_, ?_, ?_, ?_, ?_, ?_, ?_, ?_, ?_, ?_, ?_⟩
  · exact (field_setLink_apart _ _ (by decide)).trans state
  · exact congrArg (· + 1) ((field_setLink_apart _ _ (by decide)).trans depth)
  · exact (field_setLink_apart _ _ (by decide)).trans group
  · refine ((field_setLink_apart _ _ (by decide)).trans z).trans ?_
    unfold bits at hz ⊢
    omega
  · exact ((field_setLink_apart _ _ (by decide)).trans land).trans (bottom ..)
  · exact (field_setLink_apart _ _ (by decide)).trans furrow
  · exact (congrArg (· == 1) ((field_setLink_apart _ _ (by decide)).trans hcore)).trans (bit core)
  · exact (field_setLink_apart _ _ (by decide)).trans next
  · exact (field_setLink_apart _ _ (by decide)).trans reason
  · exact (congrArg (· == 1) ((field_setLink_apart _ _ (by decide)).trans chk)).trans flag
  · refine ((field_setLink_apart _ _ (by decide)).trans budget).trans ?_
    rw [walkBudget, bottom]
  · refine (addr_setLink ..).trans ?_
    rw [word, bits]
    omega
  · refine (gen_setLink ..).trans ?_
    rw [word, bits]
    omega
  · refine (device_setLink ..).trans ?_
    rw [word, bits]
    omega
  · refine (kind_setLink ..).trans ?_
    rw [word, bits]
    omega

/-! ### The commands (R247, R258, R278, R293, R298, R299, R306) -/

section Arms

variable (g : Guard) (k : KE) (f : BitVec 2) (wc q : BitVec 3) (eq : Bool) (cls : BitVec 4) (s : State)

theorem exec_binrel : exec (.binrel g k q) s = execBinrel g k q s := rfl
theorem exec_binkill : exec (.binkill g k q) s = execBinkill g k q s := rfl
theorem exec_kjoin : exec (.kjoin g k) s = execKjoin g k s := rfl
theorem exec_semwait : exec (.semwait g k eq cls q) s = execSemwait g k eq cls q s := rfl
theorem exec_walk : exec (.walk g k f wc q) s = runSlot g (issueWalk false k f wc q) s := rfl
theorem exec_chain : exec (.chain g k f wc q) s = runSlot g (issueWalk true k f wc q) s := rfl
theorem exec_wstop : exec (.wstop g k wc) s = execWstop g k wc s := rfl
theorem exec_wbudget : exec (.wbudget g k wc q) s = execWbudget g k wc q s := rfl
theorem exec_wsave : exec (.wsave g k wc q) s = execWsave g k wc q s := rfl
theorem exec_wrest : exec (.wrest g k wc q) s = execWrest g k wc q s := rfl

end Arms

section Commands

variable {s : State} {g : Guard} {k : KE} {q : BitVec 3} (hg : s.here.enabled g = true) (ht : s.takesCommand)

/-- The operand of binrel and binkill (R278). -/
theorem binOperand_ok (clean : s.quadClean q [0]) (mine : s.binMine ((s.quadVal q 0).toNat / 2 ^ 48 % 2 ^ 8)) :
    binOperand q s = .ok ((s.quadVal q 0).toNat / 2 ^ 48 % 2 ^ 8, s) := by
  have allowed : ((s.bin (binKey (clusterOf s.cur) (refBin (s.quadVal q 0)))).state != 0 &&
      (s.bin (binKey (clusterOf s.cur) (refBin (s.quadVal q 0)))).tenant != some s.here.sr.tenant) = false := by
    rcases mine with free | own
    · simp [show (s.bin (binKey (clusterOf s.cur) (refBin (s.quadVal q 0)))).state = 0 from free]
    · simp [show (s.bin (binKey (clusterOf s.cur) (refBin (s.quadVal q 0)))).tenant = some s.here.sr.tenant from own]
  simp only [binOperand, exec_bind, needQuad_ok (clean 0 (by decide)), exec_get, raiseIf_apply, allowed, Bool.false_eq_true, if_false, exec_pure]
  rfl

/-- What a release comes after: every access of the context (R278). -/
theorem mem_accesses (s : State) (i : Nat) : i ∈ s.accesses ↔ i ∈ storeIds none s.here.stores ∨ (∃ c ∈ s.mcmds, c.ctx = s.cur ∧ c.id = i) ∨
    ∃ c ∈ s.ecmds, c.ctx = s.cur ∧ c.toAccess ≠ none ∧ c.id = i := by
  simp [State.accesses, Option.isSome_iff_ne_none, and_assoc]

theorem lateIn_all (k : Ctx) : k.lateIn (BitVec.allOnes 16) = true ↔ ∃ n < 16, k.late (BitVec.ofNat 4 n) = true := by
  rw [lateIn_iff]
  refine exists_congr fun n => and_congr_right fun hn => ?_
  rw [BitVec.getLsbD_allOnes, decide_eq_true hn]
  exact ⟨And.right, And.intro rfl⟩

/-- The address of a walk's image (R298). -/
theorem imageAddr_ok (clean : s.quadClean q [0]) (aligned : (s.quadVal q 0).toNat % 32 = 0) (mine : s.here.allots (s.quadVal q 0).toNat 32 = true) :
    imageAddr q s = .ok ((s.quadVal q 0).toNat, s) := by
  simp only [imageAddr, exec_bind, needQuad_ok (clean 0 (by decide)), checkAlign_ok aligned, checkRange_ok mine, exec_pure]

theorem binsUsable_ok {grp d : Nat} (mine : ∀ i < d, s.binMine (8 * grp + i)) : binsUsable s s.cur grp d = true := by
  rw [binsUsable, List.all_eq_true]
  intro i hi
  rcases mine i (List.mem_range.1 hi) with free | own
  · simp [show (s.bin (binKey (clusterOf s.cur) (8 * grp + i))).state = 0 from free]
  · simp [show (s.bin (binKey (clusterOf s.cur) (8 * grp + i))).tenant = some (s.ctx s.cur).sr.tenant from own]

theorem exact_exactly (r : Result) (n : Nat) (s : State) : exact r n s = .ok ((), s.exactly r n) := rfl

include ht

theorem issueWalk_ok (core : Bool) (f : BitVec 2) (wc : BitVec 3) (clean : s.quadClean q [0, 1, 2, 3])
    (idle : (s.here.regs.rw wc).state = 0 ∨ (s.here.regs.rw wc).state = 3 ∨ (s.here.regs.rw wc).state = 4)
    (aligned : bits (s.quadVal q 2).toNat 0 23 % 128 = 0) (some : 1 ≤ bits (s.quadVal q 2).toNat 32 16) (few : bits (s.quadVal q 2).toNat 32 16 ≤ 257)
    (land : s.here.allots (bits (s.quadVal q 2).toNat 0 23) (256 * bits (s.quadVal q 2).toNat 32 16 * (bits (s.quadVal q 3).toNat 16 3 + 1)) = true)
    (mine : ∀ i < bits (s.quadVal q 3).toNat 16 3 + 1, s.binMine (8 * bits (s.quadVal q 3).toNat 24 5 + i)) :
    issueWalk core k f wc q s = .ok ((), (s.exactly (.w wc (newCursor (s.quadVal q 1 ++ s.quadVal q 0) core f.toNat (s.quadVal q 2) (s.quadVal q 3))) 1).commanded
      k.kd [k.ka, k.kb, k.kc] .gleaner (.walk wc.toNat (s.quadVal q 1 ++ s.quadVal q 0) (bits (s.quadVal q 2).toNat 0 23)
        (256 * bits (s.quadVal q 2).toNat 32 16 * (bits (s.quadVal q 3).toNat 16 3 + 1))) []) := by
  have idle' : ((s.here.regs.rw wc).state == 0 || (s.here.regs.rw wc).state == 3 || (s.here.regs.rw wc).state == 4) = true := by
    rcases idle with h | h | h <;> rw [h] <;> rfl
  have size : decide (1 ≤ bits (s.quadVal q 2).toNat 32 16 ∧ bits (s.quadVal q 2).toNat 32 16 ≤ 257) = true := decide_eq_true (And.intro some few)
  simp only [issueWalk, exec_bind, quadAll_ok clean, exec_get, checkPriv_ok idle', checkAlign_ok aligned, checkPriv_ok size, checkRange_ok land,
    checkPriv_ok (binsUsable_ok mine), exact_exactly, usesOf_eq, consumed_apply, issueE_ok (takesCommand_exactly ht _ _), exec_pure]

end Commands

/-- A cursor that no live walk uses may be restored (R298). -/
theorem cursorIdle {w : Cursor} (h : w.state ∉ [1, 2, 5]) : (!(w.state == 1 || w.state == 2 || w.state == 5)) = true := by
  simpa [and_assoc] using h

/-- Settles O35: each command's checks pass, and it is issued with what it comes after. -/
theorem unitCommandsIssue : Obligations.UnitCommandsIssue := by
  unfold Obligations.UnitCommandsIssue
  intro s g k wc q eq cls f hg ht v bin gives
  refine ⟨fun clean mine => ⟨fun late => ?_, fun still => ?_, ?_⟩, ?_, fun clean ok => ⟨fun late => ?_, fun still => ?_⟩, ?_, ?_, fun clean => ?_,
    fun clean aligned mine late => ⟨?_, fun idle => ?_⟩, ?_⟩
  · refine (exec_binrel ..).trans (runSlot_stop (e := .freezePast .all) hg ?_)
    simp only [exec_bind, binOperand_ok clean mine, stopIf_apply, (lateIn_all s.here).2 late, if_true]
  · have none : s.here.lateIn (BitVec.allOnes 16) = false := by
      rw [Bool.eq_false_iff, Ne, lateIn_all]
      rintro ⟨n, hn, late⟩
      rw [still n hn] at late
      cases late
    refine ⟨s.accesses, (exec_binrel ..).trans (runSlot_ok hg ?_), mem_accesses s⟩
    simp only [exec_bind, binOperand_ok clean mine, stopIf_apply, none, Bool.false_eq_true, if_false, usesOf_eq, consumed_apply, issueE_ok ht, exec_pure]
    rfl
  · refine (exec_binkill ..).trans (runSlot_ok hg ?_)
    simp only [exec_bind, binOperand_ok clean mine, usesOf_eq, consumed_apply, issueE_ok ht, exec_pure]
    rfl
  · refine (exec_kjoin ..).trans (runSlot_ok hg ?_)
    simp only [exec_bind, usesOf_eq, consumed_apply, issueE_ok ht, exec_pure]
  · refine (exec_semwait ..).trans (runSlot_stop (e := .freezePast (.ofClass cls)) hg ?_)
    simp only [exec_bind, needQuad_ok (clean 0 (by decide)), needQuad_ok (clean 1 (by decide)), raiseIf_apply,
      show s.semOk s.cur (s.quadVal q 0) = true from ok, Bool.not_true, Bool.false_eq_true, if_false, accessBefore_late late]
  · refine (exec_semwait ..).trans (runSlot_ok hg ?_)
    simp only [exec_bind, needQuad_ok (clean 0 (by decide)), needQuad_ok (clean 1 (by decide)), raiseIf_apply,
      show s.semOk s.cur (s.quadVal q 0) = true from ok, Bool.not_true, Bool.false_eq_true, if_false, accessBefore_ok still, usesOf_eq, consumed_apply,
      issueE_ok ht, exec_pure]
    rfl
  · intro st land z d grp clean idle aligned some few place mine core
    have bottom : bits (v 2).toNat 0 23 = land := by
      rw [bits, pow_zero, Nat.div_one]
    have issued := runSlot_ok hg (issueWalk_ok (k := k) ht core f wc clean idle (bottom ▸ aligned) some few (bottom ▸ place) mine)
    refine ⟨newCursor (v 1 ++ v 0) core f.toNat (v 2) (v 3), ?_, newCursor_fields (v 1) (v 0) (v 2) (v 3) core f few⟩
    rw [show s.quadVal q 2 = v 2 from rfl, bottom] at issued
    cases core with
    | true => exact (exec_chain ..).trans issued
    | false => exact (exec_walk ..).trans issued
  · refine (exec_wstop ..).trans (runSlot_ok hg ?_)
    simp only [exec_bind, usesOf_eq, consumed_apply, issueE_ok ht, exec_pure]
  · refine (exec_wbudget ..).trans (runSlot_ok hg ?_)
    simp only [exec_bind, needQuad_ok (clean 0 (by decide)), usesOf_eq, consumed_apply, issueE_ok ht, exec_pure]
    rfl
  · refine (exec_wsave ..).trans (runSlot_stop (e := .freezePast (.ofClass 0)) hg ?_)
    simp only [exec_bind, imageAddr_ok clean aligned mine, accessBefore_late late]
  · refine (exec_wrest ..).trans (runSlot_stop (e := .freezePast (.ofClass 0)) hg ?_)
    simp only [exec_bind, imageAddr_ok clean aligned mine, checkPriv_ok (cursorIdle idle), accessBefore_late late]
  · intro clean aligned mine still before
    refine ⟨(exec_wsave ..).trans (runSlot_ok hg ?_), fun idle => (exec_wrest ..).trans (runSlot_ok hg ?_)⟩
    · simp only [exec_bind, imageAddr_ok clean aligned mine, accessBefore_ok still, usesOf_eq, consumed_apply, issueE_ok ht, exec_pure]
      rfl
    · simp only [exec_bind, imageAddr_ok clean aligned mine, checkPriv_ok (cursorIdle idle), accessBefore_ok still, exact_exactly, usesOf_eq, consumed_apply,
        issueE_ok (takesCommand_exactly ht _ _), exec_pure]
      rfl

end Sys2Proof.Machine
end

section
/-!
O36. The commands for tasks, FIFOs, the loft and barriers at issue.
-/

namespace Sys2Proof.Machine

section Arms

variable (g : Guard) (k : KE) (hf snd : Bool) (hn n kd : BitVec 4) (q : BitVec 3) (s : State)

theorem exec_lfree : exec (.lfree g k q) s = execLfree g k q s := rfl
theorem exec_bar : exec (.bar g k q) s = execBar g k q s := rfl
theorem exec_launch : exec (.launch g k hf hn q) s = execLaunch g k hf hn q s := rfl
theorem exec_fbind : exec (.fbind g kd snd n q) s = execFbind g kd snd n q s := rfl
theorem exec_funbind : exec (.funbind g kd n) s = execFunbind g kd n s := rfl

end Arms

/-! ### Bindings (R362, R367) -/

section Bindings

variable {s : State} {g : Guard} {kd n : BitVec 4} {q : BitVec 3}

/-- A binding whose token is complete when the bundle has issued. -/
theorem finished_binding (kd : BitVec 4) {t : State} (h : t.openTokens t.cur < Config.maxTokens) :
    (newToken kd >>= fun a => finishNow a 0) t = .ok ((), (t.withToken kd).finishTok t.next 0) := by
  simp only [exec_bind, newToken_ok h]
  rfl

theorem takesCommand_setHere (h : s.takesCommand) (k : Ctx) : (s.setHere k).takesCommand := h

variable (hg : s.here.enabled g = true) (ht : s.takesCommand)

include hg ht

section Bind

variable (clean : s.quadClean q [0]) (free : vget s.here.f n.toNat .unbound = .unbound)

include clean free

theorem fbind_send (cluster : (s.quadVal q 0).toNat / 2 ^ 37 % 32 < 24) (domain : (s.quadVal q 0).toNat / 2 ^ 52 = s.device.toNat / 256) :
    exec (.fbind g kd true n q) s =
      let t := { s.setHere { s.here with f := vset s.here.f n.toNat (.send s.next)
                                         sends := s.here.sends ++ [⟨s.next, s.here.task.map Prod.fst, s.quadVal q 0, [], false⟩] } with next := s.next + 1 }
      .next ((t.withToken kd).finishTok t.next 0) := by
  have own : adDevice (s.quadVal q 0) / 256 = s.device.toNat / 256 := by
    rw [← domain, adDevice, bits]
    have := (s.quadVal q 0).isLt
    omega
  have allowed : (decide (23 < adCluster (s.quadVal q 0)) || adDevice (s.quadVal q 0) / 256 != s.device.toNat / 256) = false := by
    have small : ¬ 23 < adCluster (s.quadVal q 0) := by
      unfold adCluster bits
      omega
    simp [small, own]
  have open' : (vget s.here.f n.toNat .unbound != .unbound) = false := by rw [free]; rfl
  refine (exec_fbind ..).trans (runSlot_ok hg ?_)
  simp only [exec_bind, needQuad_ok (clean 0 (by decide)), exec_get, raiseIf_apply, open', allowed, Bool.false_eq_true, if_false, if_true, exec_set]
  exact (exec_bind (newToken kd) (fun a => finishNow a 0) _).symm.trans (finished_binding kd ht.2)

theorem fbind_recv (claim : alGet s.claims (clusterOf s.cur * 256 + (s.quadVal q 0).toNat % 256) = none) :
    exec (.fbind g kd false n q) s =
      let t := { s.setHere { s.here with f := vset s.here.f n.toNat (.recv ((s.quadVal q 0).setWidth 8)) } with
        claims := alSet s.claims (clusterOf s.cur * 256 + (s.quadVal q 0).toNat % 256) (s.cur, n.toNat) }
      .next ((t.withToken kd).finishTok t.next 0) := by
  have key : chanKey (clusterOf s.cur) (bits (s.quadVal q 0).toNat 0 8) = clusterOf s.cur * 256 + (s.quadVal q 0).toNat % 256 := by
    have low : bits (s.quadVal q 0).toNat 0 8 = (s.quadVal q 0).toNat % 256 := by simp [bits]
    rw [chanKey, low]
  have open' : (vget s.here.f n.toNat .unbound != .unbound) = false := by rw [free]; rfl
  refine (exec_fbind ..).trans (runSlot_ok hg ?_)
  simp only [exec_bind, needQuad_ok (clean 0 (by decide)), exec_get, raiseIf_apply, open', key, claim, Option.isSome_none, Bool.false_eq_true, if_false,
    exec_set]
  exact (exec_bind (newToken kd) (fun a => finishNow a 0) _).symm.trans (finished_binding kd ht.2)

end Bind

theorem funbind_recv {ch : BitVec 8} (bound : vget s.here.f n.toNat .unbound = .recv ch) : exec (.funbind g kd n) s =
    .next ((s.setHere { s.here with f := vset s.here.f n.toNat .unbound }).commanded kd [] .fabric (.funbindRecv ch.toNat false) []) := by
  refine (exec_funbind ..).trans (runSlot_ok hg ?_)
  simp only [exec_bind, getHere_apply, bound, setHere_apply]
  have issued := issueE_ok (takesCommand_setHere ht { s.here with f := vset s.here.f n.toNat .unbound }) kd [] .fabric (.funbindRecv ch.toNat false) []
  rw [List.map_nil] at issued
  rw [issued]
  rfl

theorem funbind_send {i : Nat} (bound : vget s.here.f n.toNat .unbound = .send i) : exec (.funbind g kd n) s =
    .next ((s.setHere { s.here with f := vset s.here.f n.toNat .unbound
                                    sends := s.here.sends.map fun e => if e.id = i then { e with closed := true } else e }).commanded kd [] .fabric
      (.funbindSend i) []) := by
  refine (exec_funbind ..).trans (runSlot_ok hg ?_)
  simp only [exec_bind, getHere_apply, bound, setHere_apply]
  have issued := issueE_ok (takesCommand_setHere ht { s.here with f := vset s.here.f n.toNat .unbound
                                                                  sends := s.here.sends.map fun e => if e.id = i then { e with closed := true } else e })
    kd [] .fabric (.funbindSend i) []
  rw [List.map_nil] at issued
  rw [issued]
  rfl

end Bindings

/-! ### launch (R189) -/

theorem launch_ok {s : State} {g : Guard} {k : KE} {hf : Bool} {hn : BitVec 4} {q : BitVec 3} (hg : s.here.enabled g = true) (ht : s.takesCommand)
    (clean : s.quadClean q [0, 1]) (aligned : (s.quadVal q 0).toNat % 128 = 0)
    (place : if hf then (s.here.regs.rh hn).valid = true ∧ (s.here.regs.rh hn).r = true ∧ (s.quadVal q 0).toNat + 128 ≤ pageBytes (s.here.regs.rh hn).size
      else s.here.allots (s.quadVal q 0).toNat 128 = true) :
    exec (.launch g k hf hn q) s = .next (s.commanded k.kd [k.ka, k.kb, k.kc] .launch
      (.launch hf (s.here.regs.rh hn) (s.quadVal q 0).toNat (s.quadVal q 1) false none) (storeIds none s.here.stores)) := by
  refine (exec_launch ..).trans (runSlot_ok hg ?_)
  cases hf with
  | true =>
    obtain ⟨valid, readable, inside⟩ := place
    have passes : checkHandle hn.toNat (s.here.regs.rh hn) (s.quadVal q 0).toNat 128 128 true false true = none := by
      simp [checkHandle, valid, readable, aligned, Nat.not_lt.2 inside]
    simp only [exec_bind, needQuad_ok (clean 0 (by decide)), needQuad_ok (clean 1 (by decide)), checkAlign_ok aligned, readH_apply, if_true, passes,
      raiseSome_none, usesOf_eq, consumed_apply, issueE_ok ht, exec_pure]
  | false =>
    simp only [exec_bind, needQuad_ok (clean 0 (by decide)), needQuad_ok (clean 1 (by decide)), checkAlign_ok aligned, readH_apply, Bool.false_eq_true,
      if_false, checkRange_ok place, usesOf_eq, consumed_apply, issueE_ok ht, exec_pure]

/-- Settles O36: each command's checks pass, and its command or binding is made. -/
theorem taskAndFabricCommandsIssue : Obligations.TaskAndFabricCommandsIssue := by
  unfold Obligations.TaskAndFabricCommandsIssue
  intro s g k hf hn n kd q hg ht v c ks
  refine ⟨fun clean => ⟨?_, fun legal => ?_⟩, ?_, fun clean free => ⟨fun cluster domain => fbind_send hg ht clean free cluster domain,
    fun claim => fbind_recv hg ht clean free claim⟩, fun ch bound => funbind_recv hg ht bound, fun i bound => funbind_send hg ht bound⟩
  · refine (exec_lfree ..).trans (runSlot_ok hg ?_)
    simp only [exec_bind, needQuad_ok (clean 0 (by decide)), usesOf_eq, consumed_apply, issueE_ok ht, exec_pure]
    rfl
  · refine (exec_bar ..).trans (runSlot_ok hg ?_)
    simp only [barOperand, exec_bind, needQuad_ok (clean 0 (by decide)), raiseIf_apply, show descOk (s.quadVal q 0) = true from legal, Bool.not_true,
      Bool.false_eq_true, if_false, exec_pure, usesOf_eq, consumed_apply, issueE_ok ht]
    rfl
  · intro a h clean aligned place
    exact launch_ok hg ht clean aligned place

end Sys2Proof.Machine
end

section
/-!
O37. What reads a bin, a token or a semaphore answers at once.
-/

namespace Sys2Proof.Machine

section Arms

variable (g : Guard) (r : EYF) (cls : BitVec 4) (q : BitVec 3) (d : BitVec 5) (pd ka kb kc : BitVec 4) (s : State)

theorem exec_kwait : exec (.kwait g ka kb kc) s = runSlot g (awaitTokens [ka, kb, kc]) s := rfl
theorem exec_kpoll : exec (.kpoll g d pd ka) s = execKpoll g d pd ka s := rfl
theorem exec_uiarm : exec (.uiarm g ka) s = execUiarm g ka s := rfl
theorem exec_uidis : exec (.uidis g ka) s = execUidis g ka s := rfl
theorem exec_binst : exec (.binst g r q) s = execBinst g r q s := rfl
theorem exec_binacq : exec (.binacq g r q) s = execBinacq g r q s := rfl
theorem exec_waitany : exec (.waitany g r q) s = execWaitany g r q s := rfl
theorem exec_semadd : exec (.semadd g r cls q) s = execSemadd g r cls q s := rfl
theorem exec_semrd : exec (.semrd g r cls q) s = execSemrd g r cls q s := rfl
theorem exec_semcas : exec (.semcas g r cls q) s = execSemcas g r cls q s := rfl

end Arms

/-! ### Bins (R272, R273, R276) -/

theorem toNat_append_eq {m n : Nat} (x : BitVec m) (y : BitVec n) : (x ++ y).toNat = x.toNat * 2 ^ n + y.toNat := by
  rw [BitVec.toNat_append, Nat.shiftLeft_eq, mul_comm, Nat.two_pow_add_eq_or_of_lt y.isLt]

/-- The status word of a bin, field by field (R272). -/
theorem bin_word (b : Bin) : b.word = b.state ++ BitVec.ofBool b.poison ++ b.readers ++ b.size ++ 0#9 ++ b.base := by
  have h1 := b.state.isLt
  have h2 := b.readers.isLt
  have h3 := b.size.isLt
  have h4 := b.base.isLt
  have h5 := b.poison.toNat_lt
  apply BitVec.eq_of_toNat_eq
  rw [Bin.word, BitVec.toNat_ofNat]
  simp only [toNat_append_eq, BitVec.toNat_ofBool, BitVec.toNat_ofNat, Nat.zero_mod]
  omega

section Bins

variable {s : State} {n : Nat}

theorem takeBin_apply (n : Nat) (s : State) : takeBin n s = .ok (s.myBin n, s.withBin n (s.myBin n).acquire) := rfl

theorem acquire_full {b : Bin} (h : b.state = 2) : b.acquire = { b with state := 3, readers := 1 } := if_pos h

theorem acquire_draining {b : Bin} (h : b.state = 3) : b.acquire = { b with readers := b.readers + 1 } := if_neg (by rw [h]; decide)

/-- binacq takes a full bin of the tenant, or one more reader of a draining one (R273, R276). -/
theorem binacq_takes {g : Guard} {r : EYF} {q : BitVec 3} (hg : s.here.enabled g = true) (done : s.allComplete [r.ka, r.kb]) (clean : s.quadClean q [0])
    (mine : (s.myBin (refBin (s.quadVal q 0))).tenant = some s.here.sr.tenant) (good : (s.myBin (refBin (s.quadVal q 0))).poison = false)
    (ready : (s.myBin (refBin (s.quadVal q 0))).state = 2 ∨
      (s.myBin (refBin (s.quadVal q 0))).state = 3 ∧ (s.myBin (refBin (s.quadVal q 0))).readers < 255) :
    exec (.binacq g r q) s = .next ((s.withBin (refBin (s.quadVal q 0)) (s.myBin (refBin (s.quadVal q 0))).acquire).replied r
      (binRef (refBin (s.quadVal q 0)) (s.myBin (refBin (s.quadVal q 0)))) true) := by
  have own : ((s.myBin (refBin (s.quadVal q 0))).state != 0 && (s.myBin (refBin (s.quadVal q 0))).tenant != some s.here.sr.tenant) = false := by
    rw [mine]
    simp
  have free : ((s.myBin (refBin (s.quadVal q 0))).state == 0 || (s.myBin (refBin (s.quadVal q 0))).state == 1 ||
      ((s.myBin (refBin (s.quadVal q 0))).state == 3 && (s.myBin (refBin (s.quadVal q 0))).readers == 255)) = false := by
    rcases ready with full | ⟨draining, few⟩
    · rw [full]
      rfl
    · have room : ((s.myBin (refBin (s.quadVal q 0))).readers == 255) = false := beq_eq_false_iff_ne.2 (BitVec.ne_of_lt few)
      rw [draining, room]
      rfl
  refine (exec_binacq ..).trans (runSlot_ok hg ?_)
  have here : s.bin (binKey (clusterOf s.cur) (refBin (s.quadVal q 0))) = s.myBin (refBin (s.quadVal q 0)) := rfl
  simp only [exec_bind, awaitTokens_ok done, needQuad_ok (clean 0 (by decide)), here, raiseIf_apply, own, good, stopIf_apply, free, Bool.false_eq_true, if_false,
    takeBin_apply, putEY_apply]

/-- A place that waitany asks for, with a bin of the tenant (R276). -/
def State.wanted (s : State) (group mask i : Nat) : Prop := bitAt mask i = true ∧ (s.myBin (8 * group + i)).tenant = some s.here.sr.tenant

/-- waitany finds the first full bin from its place on (R276). -/
theorem searchBins_finds {group mask rot j : Nat} (hj : j < 8) (want : s.wanted group mask ((rot + j) % 8))
    (good : (s.myBin (8 * group + (rot + j) % 8)).poison = false) (full : (s.myBin (8 * group + (rot + j) % 8)).state = 2)
    (before : ∀ e < j, s.wanted group mask ((rot + e) % 8) →
      (s.myBin (8 * group + (rot + e) % 8)).poison = false ∧ (s.myBin (8 * group + (rot + e) % 8)).state ≠ 2) :
    ∀ k, 8 - j ≤ k → k ≤ 8 → searchBins s group mask rot k = some ((rot + j) % 8, 8 * group + (rot + j) % 8, false) := by
  intro k
  induction k with
  | zero => intro h; omega
  | succ k ih =>
    intro low high
    have here (i : Nat) : s.bin (binKey (clusterOf s.cur) (8 * group + i)) = s.myBin (8 * group + i) := rfl
    rw [searchBins]
    simp only [here]
    by_cases last : 7 - k = j
    · obtain ⟨asked, mine⟩ := want
      rw [last, asked, mine, good, full]
      simp
    · have earlier : 7 - k < j := by omega
      have rest := ih (by omega) (by omega)
      rw [rest]
      by_cases want' : s.wanted group mask ((rot + (7 - k)) % 8)
      · obtain ⟨good', notFull⟩ := before _ earlier want'
        obtain ⟨asked, mine⟩ := want'
        rw [asked, mine, good', if_neg notFull]
        simp
      · have skipped : (!bitAt mask ((rot + (7 - k)) % 8) || (s.myBin (8 * group + (rot + (7 - k)) % 8)).tenant != some s.here.sr.tenant) = true := by
          by_cases asked : bitAt mask ((rot + (7 - k)) % 8) = true
          · have other : (s.myBin (8 * group + (rot + (7 - k)) % 8)).tenant ≠ some s.here.sr.tenant := fun mine => want' ⟨asked, mine⟩
            simp [other]
          · simp [asked]
        rw [if_pos skipped]

/-- waitany takes that bin, and its rotation goes on behind it (R276). -/
theorem waitany_takes {g : Guard} {r : EYF} {q : BitVec 3} (hg : s.here.enabled g = true) (done : s.allComplete [r.ka, r.kb]) (clean : s.quadClean q [0])
    {j : Nat} (hj : j < 8)
    (want : s.wanted ((s.quadVal q 0).toNat / 2 ^ 51 % 32) (bits (s.quadVal q 0).toNat 0 8) ((s.here.rot.toNat + j) % 8))
    (good : (s.myBin (8 * ((s.quadVal q 0).toNat / 2 ^ 51 % 32) + (s.here.rot.toNat + j) % 8)).poison = false)
    (full : (s.myBin (8 * ((s.quadVal q 0).toNat / 2 ^ 51 % 32) + (s.here.rot.toNat + j) % 8)).state = 2)
    (before : ∀ e < j, s.wanted ((s.quadVal q 0).toNat / 2 ^ 51 % 32) (bits (s.quadVal q 0).toNat 0 8) ((s.here.rot.toNat + e) % 8) →
      (s.myBin (8 * ((s.quadVal q 0).toNat / 2 ^ 51 % 32) + (s.here.rot.toNat + e) % 8)).poison = false ∧
        (s.myBin (8 * ((s.quadVal q 0).toNat / 2 ^ 51 % 32) + (s.here.rot.toNat + e) % 8)).state ≠ 2) :
    exec (.waitany g r q) s =
      let at_ := 8 * ((s.quadVal q 0).toNat / 2 ^ 51 % 32) + (s.here.rot.toNat + j) % 8
      let u := s.withBin at_ { s.myBin at_ with state := 3, readers := 1 }
      .next ((u.setHere { u.here with rot := BitVec.ofNat 3 ((s.here.rot.toNat + j) % 8 + 1) }).replied r (binRef at_ (s.myBin at_)) true) := by
  have asked : (bits (s.quadVal q 0).toNat 0 8 == 0) = false := by
    rw [beq_eq_false_iff_ne]
    intro zero
    have bit := want.1
    rw [zero, bitAt_eq_testBit, Nat.zero_testBit] at bit
    cases bit
  have found := searchBins_finds hj want good full before 8 (Nat.sub_le ..) le_rfl
  have group : bits (s.quadVal q 0).toNat 51 5 = (s.quadVal q 0).toNat / 2 ^ 51 % 32 := rfl
  refine (exec_waitany ..).trans (runSlot_ok hg ?_)
  simp only [exec_bind, awaitTokens_ok done, needQuad_ok (clean 0 (by decide)), raiseIf_apply, asked, Bool.false_eq_true, if_false, group, found,
    takeBin_apply, acquire_full full, getHere_apply, setHere_apply, putEY_apply]

end Bins

/-! ### Semaphores (R246, R247) -/

section Semaphores

variable {s : State} {r : EYF} {q : BitVec 3} (hq : s.Quiet) (done : s.allComplete [r.ka, r.kb]) (ok : s.semOk s.cur (s.quadVal q 0) = true)
  (clean : s.quadClean q [0, 1]) (cls : BitVec 4)

include hq done ok clean

/-- A semaphore operation of two operands reads its reference and its value. -/
theorem semOperand_two : semOperand r cls q 2 s = .ok (((s.quadVal q 0).toNat, s.quadVal q 1, 0), s) := by
  simp only [semOperand, exec_bind, awaitTokens_ok done, needQuad_ok (clean 0 (by decide)), needQuad_ok (clean 1 (by decide)),
    if_neg (show ¬ 2 = 3 by decide), exec_pure, exec_get, raiseIf_apply, ok, Bool.not_true, Bool.false_eq_true, if_false, classWait_ok (loadWaits_quiet hq cls)]

/-- One of three operands reads its third too. -/
theorem semOperand_three (clean' : s.quadClean q [2]) :
    semOperand r cls q 3 s = .ok (((s.quadVal q 0).toNat, s.quadVal q 1, s.quadVal q 2), s) := by
  simp only [semOperand, exec_bind, awaitTokens_ok done, needQuad_ok (clean 0 (by decide)), needQuad_ok (clean 1 (by decide)),
    if_true, needQuad_ok (clean' 2 (by decide)), exec_pure, exec_get, raiseIf_apply, ok, Bool.not_true, Bool.false_eq_true, if_false,
    classWait_ok (loadWaits_quiet hq cls)]

end Semaphores

/-- Settles O37: each query's checks pass, and it answers with what it has read. -/
theorem queriesAnswer : Obligations.QueriesAnswer := by
  unfold Obligations.QueriesAnswer
  intro s g r cls q d pd ka kb kc hg v n b ref old t
  have number : refBin (s.quadVal q 0) = n := rfl
  refine ⟨fun done => (exec_kwait ..).trans (runSlot_ok hg (awaitTokens_ok done)), (exec_kpoll ..).trans (runSlot_ok hg rfl),
    (exec_uiarm ..).trans (runSlot_ok hg ?_), (exec_uidis ..).trans (runSlot_ok hg rfl), fun done clean => ⟨(exec_binst ..).trans (runSlot_ok hg ?_),
      fun mine good full => ?_, fun mine good draining few => ?_, ?_⟩, fun hq done ok clean => ?_⟩
  · simp only [exec_bind, readK_apply, getHere_apply, exec_ite, setHere_apply]
    exact (apply_ite (fun k => Except.ok ((), s.setHere k)) _ _ _).symm
  · simp only [exec_bind, awaitTokens_ok done, needQuad_ok (clean 0 (by decide)), putEY_apply, number]
    rw [← bin_word]
    rfl
  · have taken := binacq_takes hg done clean mine good (.inl full)
    rw [number, acquire_full full] at taken
    exact taken
  · have taken := binacq_takes hg done clean mine good (.inr ⟨draining, few⟩)
    rw [number, acquire_draining draining] at taken
    exact taken
  · intro j hj place at_ wanted want good full before
    have asks (e : Nat) : wanted e ↔ s.wanted ((v 0).toNat / 2 ^ 51 % 32) (bits (v 0).toNat 0 8) (place e) := by
      have within : place e < 8 := Nat.mod_lt _ (by decide)
      have bit : bitAt (bits (v 0).toNat 0 8) (place e) = (v 0).getLsbD (place e) := by
        rw [bitAt_eq_testBit, testBit_bits, decide_eq_true within, Bool.true_and, zero_add]
        rfl
      rw [State.wanted, bit]
    exact waitany_takes hg done clean hj ((asks j).1 want) good full fun e he want' => before e he ((asks e).2 want')
  · intro sets
    refine ⟨(exec_semadd ..).trans (runSlot_ok hg ?_), (exec_semrd ..).trans (runSlot_ok hg ?_), fun clean' => (exec_semcas ..).trans (runSlot_ok hg ?_)⟩
    · simp only [exec_bind, semOperand_two hq done ok clean, exec_modify, putEY_apply]
      rfl
    · simp only [exec_bind, semOperand_two hq done ok clean, putEY_apply]
      rfl
    · have read : s.sem (s.quadVal q 0).toNat = old := rfl
      have expected : s.quadVal q 1 = v 1 := rfl
      simp only [exec_bind, semOperand_three hq done ok clean cls clean', read, expected]
      by_cases same : old = v 1
      · simp only [if_pos same, exec_bind, exec_modify, putEY_apply]
        rfl
      · simp only [if_neg same, putEY_apply]
        rfl

end Sys2Proof.Machine
end

section
/-!
O38. wnext, the loft allocations, a loft atomic, barw and retire.
-/

namespace Sys2Proof.Machine

section Arms

variable (g : Guard) (k : KE) (r : EYF) (q wc : BitVec 3) (ka kb kc : BitVec 4) (wide : Bool) (op : LatomOp) (s : State)

theorem exec_wnext : exec (.wnext g r wc q) s = execWnext g r wc q s := rfl
theorem exec_lalloc : exec (.lalloc g r q) s = runSlot g (issueAlloc false r q) s := rfl
theorem exec_lallocM : exec (.lallocM g r q) s = runSlot g (issueAlloc true r q) s := rfl
theorem exec_latom : exec (.latom g r wide op q) s = execLatom g r wide op q s := rfl
theorem exec_barw : exec (.barw g k q) s = execBarw g k q s := rfl
theorem exec_retire : exec (.retire g ka kb kc) s = execRetire g ka kb kc s := rfl

end Arms

/-! ### wnext (R297) -/

/-- The device with a cursor of the running context written. -/
def State.withCursor (s : State) (w : Nat) (v : Cursor) : State := s.setHere (s.here.setCursor w v)

theorem setCursor_apply (w : Nat) (v : Cursor) (s : State) : setCursor w v s = .ok ((), s.withCursor w v) := rfl

theorem wnextEnd_apply (r : EYF) (w : Nat) (c : Cursor) (s : State) :
    wnextEnd r w c s = .ok ((), (s.withCursor w (c.setState 3)).replied r 0 true) := rfl

/-- A cursor that is neither free nor being restarted passes wnext's first checks. -/
theorem wnext_checks {n : Nat} (live : n = 1 ∨ n = 2 ∨ n = 3 ∨ n = 4) : (n == 0) = false ∧ (n == 5) = false := by
  constructor <;> rw [beq_eq_false_iff_ne] <;> omega

/-- A live cursor stands neither at the end nor at a stop. -/
theorem wnext_live {n : Nat} (m : Nat) (live : n = 1 ∨ n = 2) : (n == 0) = false ∧ (n == 5) = false ∧ n ≠ 3 ∧ n ≠ 4 ∧ ¬ (n = 4 ∧ m = 0) := by
  obtain ⟨zero, five⟩ := wnext_checks (n := n) (by omega)
  exact ⟨zero, five, by omega, by omega, by omega⟩

section Wnext

variable {s : State} {g : Guard} {r : EYF} {wc q : BitVec 3} (hg : s.here.enabled g = true) (done : s.allComplete [r.ka, r.kb])

include hg done

theorem wnext_over (state : (s.here.regs.rw wc).state = 3) : exec (.wnext g r wc q) s = .next (s.replied r 0 true) := by
  obtain ⟨zero, five⟩ := wnext_checks (n := (s.here.regs.rw wc).state) (by omega)
  refine (exec_wnext ..).trans (runSlot_ok hg ?_)
  simp only [exec_bind, awaitTokens_ok done, raiseIf_apply, stopIf_apply, zero, five, if_pos state, Bool.false_eq_true, if_false, putEY_apply]

theorem wnext_stopped (state : (s.here.regs.rw wc).state = 4) (reason : (s.here.regs.rw wc).reason = 0) :
    exec (.wnext g r wc q) s = .next ((s.withCursor wc.toNat ((s.here.regs.rw wc).setState 3)).replied r 0 true) := by
  obtain ⟨zero, five⟩ := wnext_checks (n := (s.here.regs.rw wc).state) (by omega)
  have other : ¬ (s.here.regs.rw wc).state = 3 := by omega
  refine (exec_wnext ..).trans (runSlot_ok hg ?_)
  simp only [exec_bind, awaitTokens_ok done, raiseIf_apply, stopIf_apply, zero, five, if_neg other, if_pos (And.intro state reason), Bool.false_eq_true, if_false,
    wnextEnd_apply]

section Live

variable (state : (s.here.regs.rw wc).state = 1 ∨ (s.here.regs.rw wc).state = 2) {x : Walk} (walk : s.walkOf s.cur wc.toNat = some x)

include state walk

theorem wnext_ends (ends : x.endAt = some x.delivered) :
    exec (.wnext g r wc q) s = .next (((s.dropWalk x).withCursor wc.toNat ((s.here.regs.rw wc).setState 3)).replied r 0 true) := by
  obtain ⟨zero, five, not3, not4, stop⟩ := wnext_live (s.here.regs.rw wc).reason state
  refine (exec_wnext ..).trans (runSlot_ok hg ?_)
  simp only [exec_bind, awaitTokens_ok done, raiseIf_apply, stopIf_apply, zero, five, if_neg not3, if_neg not4, if_neg stop, Bool.false_eq_true, if_false,
    walk, if_pos ends, exec_modify, wnextEnd_apply]

section Reason

variable (goes : x.endAt ≠ some x.delivered) {n : Nat} {link : BitVec 128} (reason : x.reason = some (x.delivered, n, link))

include goes reason

/-- A pause that has been reported is tried again (R297). -/
theorem wnext_rehops (again : (pauses n && x.armed && !(n == 6 && (s.here.regs.rw wc).budget == 0)) = true) :
    exec (.wnext g r wc q) s = .next (s.block (.rehop wc.toNat)) := by
  obtain ⟨zero, five, not3, not4, stop⟩ := wnext_live (s.here.regs.rw wc).reason state
  have here : x.reason.map Prod.fst = some x.delivered := by rw [reason]; rfl
  refine (exec_wnext ..).trans (runSlot_block hg ?_)
  simp only [exec_bind, awaitTokens_ok done, raiseIf_apply, stopIf_apply, zero, five, if_neg not3, if_neg not4, if_neg stop, Bool.false_eq_true, if_false,
    walk, if_neg goes, if_pos here]
  rw [reason]
  simp only [again, if_true, exec_stop]

/-- A reason raises its trap (R295). -/
theorem wnext_raises (first : (pauses n && x.armed && !(n == 6 && (s.here.regs.rw wc).budget == 0)) = false) :
    exec (.wnext g r wc q) s = .next (s.takeTrap
      { bundleTrap (reasonTrap n) .E (if n = 10 then 8 * (s.here.regs.rw wc).group + (s.here.regs.rw wc).next else reasonInfo n link) with
        met := some (.walk wc.toNat) }) := by
  obtain ⟨zero, five, not3, not4, stop⟩ := wnext_live (s.here.regs.rw wc).reason state
  have here : x.reason.map Prod.fst = some x.delivered := by rw [reason]; rfl
  refine (exec_wnext ..).trans (runSlot_trap hg ?_)
  simp only [exec_bind, awaitTokens_ok done, raiseIf_apply, stopIf_apply, zero, five, if_neg not3, if_neg not4, if_neg stop, Bool.false_eq_true, if_false,
    walk, if_neg goes, if_pos here]
  rw [reason]
  simp only [first, Bool.false_eq_true, if_false, raiseReason, exec_stop, Option.map_some, bundleTrap, SlotKind.code]

end Reason

/-- A full bin is handed over, and the cursor goes on (R297). -/
theorem wnext_delivers (goes : x.endAt ≠ some x.delivered) (quiet : ∀ p, x.reason = some p → p.1 ≠ x.delivered) {l : Landed} {ls : List Landed}
    (landed : x.landed = l :: ls) {n : Nat} (place : n = (s.here.regs.rw wc).bin (s.here.regs.rw wc).next) (full : (s.myBin n).state = 2)
    (good : (s.myBin n).poison = false) :
    exec (.wnext g r wc q) s = .next (((((s.withBin n { s.myBin n with state := 3, readers := 1 }).putWalk
      { x with landed := ls, delivered := x.delivered + 1, kept := false }).withCursor wc.toNat
        ((Cursor.set ((s.here.regs.rw wc).setLink l.link) 245 3 (((s.here.regs.rw wc).next + 1) % (s.here.regs.rw wc).depth)).setState 2)).replied r
          (binRef n (s.myBin n)) false)) := by
  obtain ⟨zero, five, not3, not4, stop⟩ := wnext_live (s.here.regs.rw wc).reason state
  have none : (if x.reason.map Prod.fst = some x.delivered then x.reason else none) = none := by
    cases hr : x.reason with
    | none => simp
    | some p => simp [quiet p hr]
  have bins : (((List.range (s.here.regs.rw wc).depth).map fun i => s.bin (binKey (clusterOf s.cur) ((s.here.regs.rw wc).bin i))).all
      fun b => b.state == 3) = false := by
    rw [List.all_eq_false]
    have inside : (s.here.regs.rw wc).next % (s.here.regs.rw wc).depth < (s.here.regs.rw wc).depth := Nat.mod_lt _ (Nat.succ_pos _)
    have same : (s.here.regs.rw wc).bin ((s.here.regs.rw wc).next % (s.here.regs.rw wc).depth) = n := by
      rw [place, Cursor.bin, Cursor.bin, Nat.mod_mod]
    refine ⟨s.myBin n, List.mem_map.2 ⟨_, List.mem_range.2 inside, by rw [same]; rfl⟩, ?_⟩
    rw [full]
    decide
  have there : s.bin (binKey (clusterOf s.cur) n) = s.myBin n := rfl
  have ready : ((s.myBin n).state != 2) = false := by rw [full]; rfl
  refine (exec_wnext ..).trans (runSlot_ok hg ?_)
  simp only [exec_bind, awaitTokens_ok done, raiseIf_apply, stopIf_apply, zero, five, if_neg not3, if_neg not4, if_neg stop, Bool.false_eq_true, if_false,
    walk, if_neg goes, none, bins, ← place, there, good, landed, ready, takeBin_apply, acquire_full full, exec_modify, setCursor_apply, putEY_apply]

end Live

end Wnext

/-- Which reasons wnext tries again once reported (R295, R297). -/
theorem rehops_iff (n : Nat) (armed : Bool) (budget : Nat) :
    (pauses n && armed && !(n == 6 && budget == 0)) = true ↔ (n = 6 ∨ n = 7 ∨ n = 8) ∧ armed = true ∧ ¬ (n = 6 ∧ budget = 0) := by
  simp only [pauses, Bool.and_eq_true, Bool.or_eq_true, beq_iff_eq, Bool.not_eq_true', Bool.and_eq_false_iff, beq_eq_false_iff_ne, not_and_or, or_assoc, and_assoc,
    ne_eq]

/-- The classes of the reasons, in their order (R295). -/
theorem reasonTrap_eq {n : Nat} (low : 1 ≤ n) (high : n ≤ 10) :
    (([11, 11, 11, 11, 12, 14, 13, 15, 17, 16] : List Nat)[n - 1]?).getD 0 = reasonTrap n := by
  interval_cases n <;> rfl

theorem reasonInfo_eq (n : Nat) (link : BitVec 128) :
    n * 2 ^ 56 + link.toNat / 2 ^ 126 * 2 ^ 54 + link.toNat % 2 ^ 52 = reasonInfo n link := by
  have top : link.toNat / 2 ^ 126 < 4 := by
    rw [Nat.div_lt_iff_lt_mul (by decide)]
    exact link.isLt
  have kind : bits link.toNat 126 2 = link.toNat / 2 ^ 126 := Nat.mod_eq_of_lt top
  have addr : bits link.toNat 0 52 = link.toNat % 2 ^ 52 := by simp [bits]
  rw [reasonInfo, kind, addr]

/-! ### The loft (R375, R377, R378) -/

section Loft

variable {s : State} {g : Guard} {r : EYF} {q : BitVec 3} (hg : s.here.enabled g = true) (done : s.allComplete [r.ka, r.kb])

include hg done

/-- An allocation whose operands pass the checks goes to its switch. -/
theorem issueAlloc_ok {mirrored : Bool} (clean : s.quadClean q [0, 1]) (aligned : (s.quadVal q 0).toNat % 65536 = 0) (least : 65536 ≤ (s.quadVal q 0).toNat)
    (most : (s.quadVal q 0).toNat ≤ 2 ^ 39) (planes : ∀ p ∈ allocPlanes mirrored (s.quadVal q 1), p < 24 ∧ p ∉ s.lost)
    (apart : (mirrored && bits (s.quadVal q 1).toNat 0 5 == bits (s.quadVal q 1).toNat 8 5) = false) :
    runSlot g (issueAlloc mirrored r q) s = .next (s.setHere (addAnswer s.here r.d r.pd 4 false (.lalloc mirrored (s.quadVal q 0) (s.quadVal q 1)))) := by
  have size : ((s.quadVal q 0).toNat % 65536 != 0 || decide ((s.quadVal q 0).toNat < 65536) || decide (2 ^ 39 < (s.quadVal q 0).toNat)) = false := by
    simp only [aligned, bne_self_eq_false, Bool.false_or, Bool.or_eq_false_iff, decide_eq_false_iff_not]
    omega
  have known : (allocPlanes mirrored (s.quadVal q 1)).any (fun p => decide (23 < p)) = false := by
    rw [List.any_eq_false]
    intro p hp
    have := (planes p hp).1
    simp only [decide_eq_true_eq]
    omega
  have alive : (allocPlanes mirrored (s.quadVal q 1)).find? s.lost.contains = none := by
    rw [List.find?_eq_none]
    intro p hp
    rw [List.contains_iff_mem]
    exact (planes p hp).2
  refine runSlot_ok hg ?_
  simp only [issueAlloc, exec_bind, awaitTokens_ok done, needQuad_ok (clean 0 (by decide)), needQuad_ok (clean 1 (by decide)), raiseIf_apply, size, known, apart,
    Bool.or_false, Bool.false_eq_true, if_false, exec_get, alive, setHere_apply]

end Loft

/-- The bytes of one granule are stored at once. -/
theorem pageStored_granule {s : State} {h : Handle} {o : Nat} {bs : List Byte} (ht : h.tgt = 1) (some : 0 < bs.length) :
    s.pageStored bs.length h o bs = performAll s (coreOf s.cur) bs (s.storeKeys h o bs.length s.here.sr.tenant) := by
  have one : (bs.length + bs.length - 1) / bs.length = 1 := by
    rw [Nat.div_eq_iff some]
    omega
  simp [State.pageStored, partsOf, one, performParts, State.partKeys, ht]

/-- A loft atomic as arithmetic of its width (R378). -/
def latomResult (op : LatomOp) {n : Nat} (old x e : BitVec n) : BitVec n :=
  match op with
  | .add => old + x
  | .min => if old.toInt ≤ x.toInt then old else x
  | .max => if x.toInt ≤ old.toInt then old else x
  | .swap => x
  | .cas => if old = e then x else old

theorem latomNew_eq (op : LatomOp) {n old : Nat} (small : old < 2 ^ n) (v e : Nat) :
    latomNew op n old v e = (latomResult op (BitVec.ofNat n old) (BitVec.ofNat n v) (BitVec.ofNat n e)).toNat := by
  have self : (BitVec.ofNat n old).toNat = old := by rw [BitVec.toNat_ofNat, Nat.mod_eq_of_lt small]
  cases op with
  | add => simp only [latomNew, latomResult, BitVec.toNat_add, self, BitVec.toNat_ofNat, Nat.add_mod_mod]
  | min =>
    simp only [latomNew, latomResult, signedOf_eq_toInt]
    split
    · exact self.symm
    · exact (BitVec.toNat_ofNat ..).symm
  | max =>
    simp only [latomNew, latomResult, signedOf_eq_toInt]
    split
    · exact self.symm
    · exact (BitVec.toNat_ofNat ..).symm
  | swap => exact (BitVec.toNat_ofNat ..).symm
  | cas =>
    have same : old = e % 2 ^ n ↔ BitVec.ofNat n old = BitVec.ofNat n e := by
      rw [← BitVec.toNat_inj, self, BitVec.toNat_ofNat]
    simp only [latomNew, latomResult, ← same]
    split
    · exact (BitVec.toNat_ofNat ..).symm
    · exact self.symm

/-- What a loft atomic finds on its plane. -/
def State.latomOld (s : State) (h : Handle) (o n : Nat) : BitVec (8 * n) := BitVec.ofNat (8 * n) (leNat (s.pageHolds h o n))

/-- R377, R378: the switch's work as arithmetic of the width, with the store to the tenant's planes. -/
theorem latomDo_eq {s : State} {h : Handle} {o n : Nat} {wide : Bool} (ht : h.tgt = 1) (hn : n = if wide then 8 else 4) (op : LatomOp) (v e : W64) :
    s.latomDo s.cur h o wide op v e =
      (s.pageStored n h o (leBytes n (latomResult op (s.latomOld h o n) (v.setWidth (8 * n)) (e.setWidth (8 * n))).toNat),
        (s.latomOld h o n).signExtend 64, decide (op = .cas → s.latomOld h o n = e.setWidth (8 * n))) := by
  have some : 0 < n := by rw [hn]; split <;> decide
  have within : 8 * n ≤ 64 := by rw [hn]; split <;> decide
  have there : s.pageHolds h o n = readCells s.mem (s.loftRead h o n s.here.sr.tenant) n := by rw [State.pageHolds, if_pos ht]
  have small : leNat (s.pageHolds h o n) < 2 ^ (8 * n) := by
    have := leNat_lt (s.pageHolds h o n)
    rwa [length_pageHolds, show (256 : Nat) = 2 ^ 8 by rfl, ← Nat.pow_mul] at this
  have same : leNat (s.pageHolds h o n) = e.toNat % 2 ^ (8 * n) ↔ s.latomOld h o n = e.setWidth (8 * n) := by
    rw [State.latomOld, ← BitVec.toNat_inj, BitVec.toNat_ofNat, Nat.mod_eq_of_lt small, BitVec.toNat_setWidth]
  have hit : (!(op == .cas && leNat (s.pageHolds h o n) != e.toNat % 2 ^ (8 * n))) = decide (op = .cas → s.latomOld h o n = e.setWidth (8 * n)) := by
    rw [Bool.eq_iff_iff, decide_eq_true_eq, ← same]
    simp [imp_iff_not_or]
  have stored (bs : List Byte) (hb : bs.length = n) :
      s.pageStored n h o bs = performAll s (coreOf s.cur) bs (s.storeKeys h o n s.here.sr.tenant) := by
    subst hb
    exact pageStored_granule ht some
  have here : (s.ctx s.cur).sr.tenant = s.here.sr.tenant := rfl
  simp only [State.latomDo, ← hn, here, ← there, hit, latomNew_eq op small, BitVec.ofNat_toNat, stored _ (length_leBytes ..)]
  rw [← extend, extend_eq_signExtend within]
  rfl

section Atomic

variable {s : State} {g : Guard} {r : EYF} {q : BitVec 3} (hg : s.here.enabled g = true) (done : s.allComplete [r.ka, r.kb])

include hg done

theorem latom_ok (hq : s.Quiet) {op : LatomOp} {wide : Bool} {n : Nat} (hn : n = if wide then 8 else 4) (clean : s.quadClean q [0, 1, 3])
    (expected : op = .cas → s.quadClean q [2]) {h : Handle} (handle : h = s.here.regs.rh (BitVec.ofNat 4 (bits (s.quadVal q 3).toNat 8 4)))
    (hok : s.pageOk h (s.quadVal q 0).toNat n n true) (write : h.perm.getLsbD 1 = true) (cls : h.lclass ≠ 0) (ht : h.tgt = 1)
    (alive : s.lostPlane h (s.quadVal q 0).toNat n s.here.sr.tenant false = none) :
    exec (.latom g r wide op q) s =
      .next (((s.pageStored n h (s.quadVal q 0).toNat (leBytes n (latomResult op (s.latomOld h (s.quadVal q 0).toNat n) ((s.quadVal q 1).setWidth (8 * n))
        ((s.quadVal q 2).setWidth (8 * n))).toNat)).elastically (.y r.d ⟨(s.latomOld h (s.quadVal q 0).toNat n).signExtend 64, false⟩) h.latency).elastically
          (.p r.pd (BitVec.allOnes 64) (allOnes (decide (op = .cas → s.latomOld h (s.quadVal q 0).toNat n = (s.quadVal q 2).setWidth (8 * n))))) h.latency) := by
  have hstore : s.pageOk h (s.quadVal q 0).toNat n n false := by
    obtain ⟨valid, -, aligned, inside, loft⟩ := hok
    exact ⟨valid, write, aligned, inside, fun _ => ⟨alive, (loft ht).2⟩⟩
  have loft : (h.tgt != 1) = false := by rw [ht]; rfl
  have passes : s.overtakes s.cur [⟨h.key (s.quadVal q 0).toNat, List.replicate n 0, some (h, (s.quadVal q 0).toNat)⟩] = false := by
    simp [State.overtakes, openSpans_quiet hq]
  have read (f : W64 → Exec Unit) : (if op = .cas then needQuad q 2 >>= f else pure 0 >>= f) s = f (if op = .cas then s.quadVal q 2 else 0) s := by
    by_cases cas : op = .cas
    · rw [if_pos cas, if_pos cas, exec_bind, needQuad_ok (expected cas 2 (by decide))]
    · rw [if_neg cas, if_neg cas, exec_bind, exec_pure]
  have unused : latomResult op (s.latomOld h (s.quadVal q 0).toNat n) ((s.quadVal q 1).setWidth (8 * n)) ((if op = .cas then s.quadVal q 2 else 0).setWidth (8 * n)) =
      latomResult op (s.latomOld h (s.quadVal q 0).toNat n) ((s.quadVal q 1).setWidth (8 * n)) ((s.quadVal q 2).setWidth (8 * n)) := by
    cases op <;> rfl
  have unusedHit : decide (op = .cas → s.latomOld h (s.quadVal q 0).toNat n = (if op = .cas then s.quadVal q 2 else 0).setWidth (8 * n)) =
      decide (op = .cas → s.latomOld h (s.quadVal q 0).toNat n = (s.quadVal q 2).setWidth (8 * n)) := by
    cases op <;> rfl
  refine (exec_latom ..).trans (runSlot_ok hg ?_)
  simp only [exec_bind, awaitTokens_ok done, needQuad_ok (clean 0 (by decide)), needQuad_ok (clean 1 (by decide)), needQuad_ok (clean 3 (by decide)), read,
    readH_apply, ← handle, ← hn, checkHandle_load hok cls, checkHandle_store hstore, raiseSome_none, raiseIf_apply, loft, Bool.false_eq_true, if_false,
    checkLoft_ok hstore, exec_get, classWait_ok (loadWaits_quiet hq _), stopIf_apply, tearsLoad_quiet hq, passes, refuses_false hstore,
    latomDo_eq ht hn, exec_set, elasticRes_apply, unused, unusedHit]
  rfl

end Atomic

/-! ### barw and retire (R199, R370) -/

section Barriers

variable {s : State} {g : Guard} (hg : s.here.enabled g = true)

include hg

/-- barw takes effect once its round is over. -/
theorem barw_released {k : KE} {q : BitVec 3} {t : Nat} (arrived : alGet s.here.barArrived s.here.pc.toNat = some t) (finished : s.tokDone (some t) = true) :
    exec (.barw g k q) s =
      .next ((s.setHere { s.here with barArrived := alDel s.here.barArrived s.here.pc.toNat }).exactly (.k k.kd (some t)) 1) := by
  refine (exec_barw ..).trans (runSlot_ok hg ?_)
  simp only [exec_bind, exec_get, arrived, stopIf_apply, finished, Bool.not_true, Bool.false_eq_true, if_false, setHere_apply, exact_apply]
  rfl

/-- At its first issue it arrives, and blocks. -/
theorem barw_arrives {k : KE} {q : BitVec 3} (first : alGet s.here.barArrived s.here.pc.toNat = none) (room : s.takesCommand) (clean : s.quadClean q [0])
    (ok : descOk (s.quadVal q 0) = true) :
    exec (.barw g k q) s = .next (s.block (.arrive (s.quadVal q 0) ([k.ka, k.kb, k.kc].map s.here.regs.rk))) := by
  obtain ⟨buffers, tokens⟩ := room
  have buffer : (s.ecmds.any fun e => coreOf e.ctx == coreOf s.cur && e.stage == .buffer) = false := by
    rw [List.any_eq_false]
    intro e he
    have := buffers e he
    simpa using this
  have few : decide (Config.maxTokens ≤ s.openTokens s.cur) = false := decide_eq_false (Nat.not_le.2 tokens)
  refine (exec_barw ..).trans (runSlot_block hg ?_)
  simp only [exec_bind, exec_get, first, barOperand, needQuad_ok (clean 0 (by decide)), raiseIf_apply, ok, Bool.not_true, Bool.false_eq_true, if_false, exec_pure,
    usesOf_eq, consumed_apply, stopIf_apply, buffer, few, exec_stop]

theorem retire_ends (ka kb kc : BitVec 4) :
    exec (.retire g ka kb kc) s = .next (s.setHere { s.here with run := .halted, retiring := some ([ka, kb, kc].map s.here.regs.rk) }) := by
  refine (exec_retire ..).trans (runSlot_ok hg ?_)
  simp only [exec_bind, consumed_apply, retireWith, getHere_apply, setHere_apply]

end Barriers

/-- Settles O38. -/
theorem waitsAnswer : Obligations.WaitsAnswer := by
  unfold Obligations.WaitsAnswer
  intro s g k r wc q wide op ka kb kc hg v c cursor
  refine ⟨fun done => ⟨wnext_over hg done, wnext_stopped hg done, fun x live walk ends => wnext_ends hg done live walk ends, ?_, ?_, ?_, ?_⟩,
    fun t arrived finished => barw_released hg arrived finished, barw_arrives hg, retire_ends hg ka kb kc⟩
  · intro x n link live walk goes reason low high cls info again
    have info_eq : info = if n = 10 then 8 * c.group + c.next else reasonInfo n link := by
      rw [← reasonInfo_eq]
    refine ⟨fun h => wnext_rehops hg done live walk goes reason ((rehops_iff ..).2 h), fun h => ?_⟩
    rw [info_eq, show cls = reasonTrap n from reasonTrap_eq low high]
    exact wnext_raises hg done live walk goes reason (Bool.eq_false_iff.2 fun first => h ((rehops_iff ..).1 first))
  · intro x l ls live walk goes quiet landed n b full good
    exact wnext_delivers hg done live walk goes quiet landed rfl full good
  · intro clean size p m gives aligned least most known alive
    have one : p = bits (v 1).toNat 0 5 := by simp [p, bits]
    have two : m = bits (v 1).toNat 8 5 := rfl
    refine ⟨(exec_lalloc ..).trans (issueAlloc_ok hg done clean aligned least most ?_ rfl), fun known' apart alive' =>
      (exec_lallocM ..).trans (issueAlloc_ok hg done clean aligned least most ?_ ?_)⟩
    · simp only [allocPlanes, Bool.false_eq_true, if_false, List.mem_singleton]
      rintro _ rfl
      exact ⟨one ▸ known, one ▸ alive⟩
    · simp only [allocPlanes, if_true, List.mem_cons, List.not_mem_nil, or_false]
      rintro _ (rfl | rfl)
      · exact ⟨one ▸ known, one ▸ alive⟩
      · exact ⟨two ▸ known', two ▸ alive'⟩
    · rw [Bool.true_and, beq_eq_false_iff_ne]
      exact fun same => apart (one.trans (same.trans two.symm))
  · intro hq clean expected h o n hok write cls ht alive old x new hit
    have number : BitVec.ofNat 4 (bits (v 3).toNat 8 4) = BitVec.ofNat 4 ((v 3).toNat / 2 ^ 8) :=
      BitVec.eq_of_toNat_eq (by simp [bits])
    have handle : h = s.here.regs.rh (BitVec.ofNat 4 (bits (v 3).toNat 8 4)) := by rw [number]
    exact latom_ok hg done hq rfl clean expected handle hok write cls ht alive

end Sys2Proof.Machine
end

section
/-!
O39. Empty bundles, inserted cycles, and what becomes visible in the next cycle.
-/

namespace Sys2Proof.Machine

/-! ### One cycle of the results in flight (R13, R20) -/

theorem exec_emptyBundle (stop : Bool) (s : State) : exec (.emptyBundle stop) s = execEmptyBundle stop s := rfl
theorem exec_insertedCycle (s : State) : exec .insertedCycle s = execInsertedCycle s := rfl

section Age

variable (f : Flight)

theorem age_id : f.age.id = f.id := by unfold Flight.age; split <;> rfl
theorem age_res : f.age.res = f.res := by unfold Flight.age; split <;> rfl
theorem age_event : f.age.event = f.event := by unfold Flight.age; split <;> rfl
theorem age_arrived : f.age.arrived = f.arrived := by unfold Flight.age; split <;> rfl
theorem age_landed : f.age.landed = f.landed := by unfold Flight.age; split <;> rfl

theorem age_left : f.age.left = f.left - 1 := by
  unfold Flight.age
  split
  · rfl
  · show f.left = f.left - 1
    omega

/-- A result is ready in the next cycle exactly if it is due in it. -/
theorem ready_age : f.age.ready = (decide (f.left ≤ 1) && f.arrived && !f.landed) := by
  have last : (f.left - 1 == 0) = decide (f.left ≤ 1) := by
    rw [Bool.eq_iff_iff, beq_iff_eq, decide_eq_true_eq]
    omega
  rw [Flight.ready, age_left, age_arrived, age_landed, last]

end Age

theorem filter_ready_age (k : Ctx) : (k.flight.map Flight.age).filter Flight.ready = k.dueNext.map Flight.age := by
  rw [List.filter_map, Ctx.dueNext]
  congr 1
  exact List.filter_congr fun f _ => ready_age f

/-- The results that become visible in the next cycle, one cycle on. -/
def Ctx.landing (k : Ctx) : Ctx := landAll { k with flight := k.flight.map Flight.age, sr := { k.sr with felNew := none } } (k.dueNext.map Flight.age)

theorem newCycle_of_shown {k : Ctx} (h : k.shown = true) : k.newCycle = k := if_pos h

/-- The next cycle: what is due lands, its events join FEL, and the results in flight go on (R8, R13). -/
theorem newCycle_eq {k : Ctx} (h : k.shown = false) :
    k.newCycle = { k.landing with
      sr := k.landing.sr.note (k.dueNext.map Flight.age)
      flight := ((k.flight.map Flight.age).filter Flight.live).map fun f => if f.ready then { f with landed := true } else f
      shown := true } := by
  rw [Ctx.newCycle, if_neg (by rw [h]; decide), Ctx.nextCycle, Ctx.settle]
  simp only [filter_ready_age]
  rfl

theorem newCycle_shown (k : Ctx) : k.newCycle.shown = true := by
  unfold Ctx.newCycle
  split
  · assumption
  · rfl

theorem newCycle_newCycle (k : Ctx) : k.newCycle.newCycle = k.newCycle := newCycle_of_shown (newCycle_shown k)

theorem newCycle_pc (k : Ctx) : k.newCycle.pc = k.pc := by
  cases h : k.shown
  · rw [newCycle_eq h]
    exact (landAll_keeps _ _).1
  · rw [newCycle_of_shown h]

theorem nextCycle_acyc (k : Ctx) : k.nextCycle.sr.acyc = k.sr.acyc := by
  unfold Ctx.nextCycle Ctx.settle
  exact (landAll_sameTrapState _ _).acyc

theorem newCycle_acyc (k : Ctx) : k.newCycle.sr.acyc = k.sr.acyc := by
  unfold Ctx.newCycle
  split
  · rfl
  · exact nextCycle_acyc k

/-! ### What stays in flight (R14, R20) -/

section InFlight

variable {k : Ctx} (h : k.shown = false)

include h

theorem newCycle_flight : k.newCycle.flight =
    ((k.flight.map Flight.age).filter Flight.live).map fun f => if f.ready then { f with landed := true } else f := by rw [newCycle_eq h]

/-- A result that neither is ready nor has run out goes on as it is. -/
theorem goes_on {f : Flight} (hf : f ∈ k.flight) (live : f.age.live = true) (unready : f.age.ready = false) : f.age ∈ k.newCycle.flight := by
  rw [newCycle_flight h, List.mem_map]
  exact ⟨f.age, List.mem_filter.2 ⟨List.mem_map_of_mem hf, live⟩, if_neg (by rw [unready]; decide)⟩

theorem more_to_go {f : Flight} (hf : f ∈ k.flight) (more : 2 ≤ f.left) : { f with left := f.left - 1 } ∈ k.newCycle.flight := by
  have aged : f.age = { f with left := f.left - 1 } := if_pos (by omega)
  have left : (f.age.left == 0) = false := by rw [age_left, beq_eq_false_iff_ne]; omega
  rw [← aged]
  exact goes_on h hf (by rw [Flight.live, left]; rfl) (by rw [Flight.ready, left]; rfl)

theorem not_arrived {f : Flight} (hf : f ∈ k.flight) (out : f.arrived = false) (unseen : f.landed = false) :
    (if 0 < f.left then { f with left := f.left - 1 } else { f with win := f.win - 1 }) ∈ k.newCycle.flight :=
  goes_on h hf (by rw [Flight.live, age_arrived, age_landed, out, unseen]; simp) (by rw [Flight.ready, age_arrived, out]; simp)

/-- Marking results as visible changes no other part of them. -/
theorem newCycle_ids : (k.newCycle.flight.map Flight.id).Sublist (k.flight.map Flight.id) := by
  have same : (fun f : Flight => (if f.ready then { f with landed := true } else f).id) = Flight.id := by
    funext f
    split <;> rfl
  have aged : Flight.id ∘ Flight.age = Flight.id := funext age_id
  have ids : (k.flight.map Flight.age).map Flight.id = k.flight.map Flight.id := by rw [List.map_map, aged]
  rw [newCycle_flight h, List.map_map, Function.comp_def, same, ← ids]
  exact List.filter_sublist.map _

theorem newCycle_from {f : Flight} (hf : f ∈ k.newCycle.flight) : ∃ e ∈ k.flight, f.id = e.id ∧ f.res = e.res ∧ f.left = e.left - 1 := by
  rw [newCycle_flight h, List.mem_map] at hf
  obtain ⟨a, ha, rfl⟩ := hf
  obtain ⟨e, he, rfl⟩ := List.mem_map.1 (List.mem_filter.1 ha).1
  refine ⟨e, he, ?_⟩
  have same : (if e.age.ready then { e.age with landed := true } else e.age).id = e.age.id ∧
      (if e.age.ready then { e.age with landed := true } else e.age).res = e.age.res ∧
      (if e.age.ready then { e.age with landed := true } else e.age).left = e.age.left := by
    split <;> exact ⟨rfl, rfl, rfl⟩
  obtain ⟨hid, hres, hleft⟩ := same
  exact ⟨hid.trans (age_id e), hres.trans (age_res e), hleft.trans (age_left e)⟩

end InFlight

/-! ### What becomes visible (R13, R14) -/

theorem latest_nil {α : Type} (o : α) : latest o [] = o := rfl

theorem latest_cons {α : Type} (o v : α) (vs : List α) : latest o (v :: vs) = latest v vs := by
  rw [latest, latest, List.getLast?_cons]
  rfl

/-- A part of a context that each result changes in its own way has, after several, what they leave one after another. -/
theorem landAll_fold {α : Type} (obs : Ctx → α) (act : α → Result → α) (one : ∀ k r, r.discarded = false → obs (k.land r) = act (obs k) r)
    (unseen : ∀ a r, r.discarded = true → act a r = a) (fs : List Flight) (k : Ctx) :
    obs (landAll k fs) = (fs.map Flight.res).foldl act (obs k) := by
  induction fs generalizing k with
  | nil => rfl
  | cons f fs ih =>
    rw [landAll, ih, List.map_cons, List.foldl_cons]
    cases hd : f.res.discarded
    · rw [if_neg (by decide), one k f.res hd]
    · rw [if_pos rfl, unseen _ _ hd]

theorem foldl_latest {α β : Type} (sel : β → Option α) (rs : List β) (o : α) :
    rs.foldl (fun o r => (sel r).getD o) o = latest o (rs.filterMap sel) := by
  induction rs generalizing o with
  | nil => rfl
  | cons r rs ih =>
    rw [List.foldl_cons, ih]
    cases hr : sel r with
    | none => rw [List.filterMap_cons_none hr]; rfl
    | some v => rw [List.filterMap_cons_some hr, latest_cons]; rfl

theorem foldl_changes {α β : Type} (sel : β → Option (α → α)) (rs : List β) (o : α) :
    rs.foldl (fun o r => (sel r).elim o fun f => f o) o = (rs.filterMap sel).foldl (fun o f => f o) o := by
  induction rs generalizing o with
  | nil => rfl
  | cons r rs ih =>
    rw [List.foldl_cons, ih]
    cases hr : sel r with
    | none => rw [List.filterMap_cons_none hr]; rfl
    | some v => rw [List.filterMap_cons_some hr]; rfl

theorem res_dueNext (k : Ctx) : (k.dueNext.map Flight.age).map Flight.res = k.dueNext.map Flight.res := by
  rw [List.map_map]
  exact List.map_congr_left fun f _ => age_res f

theorem reaching_eq {α : Type} (k : Ctx) (sel : Result → Option α) : k.reaching sel = (k.dueNext.map Flight.res).filterMap sel := by
  rw [Ctx.reaching, List.filterMap_map]
  rfl

/-- What reaches a part of the next cycle's context, in issue order. -/
theorem landing_fold {α : Type} (k : Ctx) (obs : Ctx → α) (act : α → Result → α)
    (one : ∀ k r, r.discarded = false → obs (k.land r) = act (obs k) r) (unseen : ∀ a r, r.discarded = true → act a r = a) :
    obs k.landing = (k.dueNext.map Flight.res).foldl act (obs { k with flight := k.flight.map Flight.age, sr := { k.sr with felNew := none } }) := by
  rw [Ctx.landing, landAll_fold obs act one unseen, res_dueNext]

section Parts

variable {k : Ctx} (h : k.shown = false) {α : Type} (obs : Regs → α)

include h

theorem newCycle_regs : k.newCycle.regs = k.landing.regs := by rw [newCycle_eq h]

/-- A register has the latest of the values that reach it, or keeps its own. -/
theorem newCycle_register (sel : Result → Option α) (one : ∀ k r, r.discarded = false → obs (Ctx.land k r).regs = (sel r).getD (obs k.regs))
    (unseen : ∀ r, r.discarded = true → sel r = none) : obs k.newCycle.regs = latest (obs k.regs) (k.reaching sel) := by
  rw [newCycle_regs h, landing_fold k (fun k => obs k.regs) (fun o r => (sel r).getD o) one (fun o r hr => by rw [unseen r hr]; rfl), foldl_latest,
    ← reaching_eq]

/-- A register that results change in more than one way. -/
theorem newCycle_changes (sel : Result → Option (α → α)) (one : ∀ k r, r.discarded = false → obs (Ctx.land k r).regs = (sel r).elim (obs k.regs) fun f => f (obs k.regs))
    (unseen : ∀ r, r.discarded = true → sel r = none) : obs k.newCycle.regs = (k.reaching sel).foldl (fun o f => f o) (obs k.regs) := by
  rw [newCycle_regs h, landing_fold k (fun k => obs k.regs) (fun o r => (sel r).elim o fun f => f o) one (fun o r hr => by rw [unseen r hr]; rfl), foldl_changes,
    ← reaching_eq]

end Parts

/-! ### Registers (R13, R14, R132) -/

theorem vget_vset_bits {α : Type} {w n : Nat} (hn : 2 ^ w ≤ n) (v : Vector α n) (e d : BitVec w) (a z : α) :
    vget (vset v e.toNat a) d.toNat z = if e = d then a else vget v d.toNat z := by
  split
  · next same =>
    subst same
    exact vget_vset v _ a z (Nat.lt_of_lt_of_le e.isLt hn)
  · next other => exact vget_vset_ne v _ _ a z fun same => other (BitVec.eq_of_toNat_eq same)

/-- A word for a send queue leaves the registers. -/
theorem land_word_regs (k : Ctx) (q : Nat) (n : BitVec 4) (ord : Nat) (slot : SlotKind) (v : Reg) : (k.land (.f q n ord slot v)).regs = k.regs := by
  unfold Ctx.land
  dsimp only
  split <;> rfl

theorem getD_ite {α : Type} {p : Prop} [Decidable p] (a b : α) : (if p then some a else none).getD b = if p then a else b := by split <;> rfl

theorem lane_mixLanes (m : W64) (old new : Lanes) {j : Nat} (hj : j < 64) : lane (mixLanes m old new) j = if m.getLsbD j then lane new j else lane old j := by
  simp [lane, vget, mixLanes, hj]

/-- A destination that is register 0 is not another one. -/
theorem apart_of_zero {w : Nat} {d e : BitVec w} (hd : d ≠ 0) (he : (e == 0) = true) : e ≠ d := fun same => hd (same ▸ eq_of_beq he)

section Registers

variable {k : Ctx} (h : k.shown = false)

include h

theorem newCycle_rx {d : BitVec 5} (hd : d ≠ 0) : k.newCycle.regs.rx d = latest (k.regs.rx d) (k.reaching fun r => match r with
    | .x e v => if e = d then some v else none
    | _ => none) := by
  refine newCycle_register h (fun r => r.rx d) _ (fun k r _ => ?_) (fun r hr => ?_)
  · cases r with
    | x e v => simp only [Ctx.land, Regs.rx, if_neg hd, vget_vset_bits (w := 5) (n := 32) (by decide), getD_ite]
    | f q n ord slot v => rw [land_word_regs]; rfl
    | _ => rfl
  · cases r with
    | x e v => exact if_neg (apart_of_zero hd hr)
    | _ => rfl

theorem newCycle_ry {d : BitVec 5} (hd : d ≠ 0) : k.newCycle.regs.ry d = (k.reaching fun r => match r with
    | .y e v => if e = d then some (fun _ : Reg => v) else none
    | .yPoison e => if e = d then some (fun o : Reg => ⟨o.val, true⟩) else none
    | _ => none).foldl (fun o f => f o) (k.regs.ry d) := by
  refine newCycle_changes h (fun r => r.ry d) _ (fun k r _ => ?_) (fun r hr => ?_)
  · cases r with
    | y e v =>
      simp only [Ctx.land, Regs.ry, if_neg hd, vget_vset_bits (w := 5) (n := 32) (by decide)]
      split <;> rfl
    | yPoison e =>
      simp only [Ctx.land, Regs.ry, if_neg hd, vget_vset_bits (w := 5) (n := 32) (by decide)]
      split
      · next same => rw [same]; rfl
      · rfl
    | f q n ord slot v => rw [land_word_regs]; rfl
    | _ => rfl
  · cases r with
    | y e v => exact if_neg (apart_of_zero hd hr)
    | yPoison e => exact if_neg (apart_of_zero hd hr)
    | _ => rfl

theorem newCycle_rp {d : BitVec 4} (hd : d ≠ 0) (j : Nat) : (k.newCycle.regs.rp d).getLsbD j = latest ((k.regs.rp d).getLsbD j) (k.reaching fun r => match r with
    | .p e m v => if e = d ∧ m.getLsbD j = true then some (v.getLsbD j) else none
    | _ => none) := by
  refine newCycle_register h (fun r => (r.rp d).getLsbD j) _ (fun k r _ => ?_) (fun r hr => ?_)
  · cases r with
    | p e m v =>
      simp only [Ctx.land, Regs.rp, if_neg hd, vget_vset_bits (w := 4) (n := 16) (by decide), getD_ite]
      by_cases same : e = d
      · subst same
        by_cases hj : j < 64
        · simp only [BitVec.getLsbD_or, BitVec.getLsbD_and, BitVec.getLsbD_not, hj, decide_true, Bool.true_and, true_and, if_true]
          cases m.getLsbD j <;> simp
        · simp [BitVec.getLsbD_of_ge _ _ (Nat.le_of_not_lt hj)]
      · rw [if_neg same, if_neg fun both => same both.1]
    | f q n ord slot v => rw [land_word_regs]; rfl
    | _ => rfl
  · cases r with
    | p e m v => exact if_neg fun both => apart_of_zero hd hr both.1
    | _ => rfl

theorem newCycle_rv (d : BitVec 5) {j : Nat} (hj : j < 64) : lane (k.newCycle.regs.rv d) j = latest (lane (k.regs.rv d) j) (k.reaching fun r => match r with
    | .v e m v => if e = d ∧ m.getLsbD j = true then some (lane v j) else none
    | _ => none) := by
  refine newCycle_register h (fun r => lane (r.rv d) j) _ (fun k r _ => ?_) (fun r hr => ?_)
  · cases r with
    | v e m v =>
      simp only [Ctx.land, Regs.rv, vget_vset_bits (w := 5) (n := 32) (by decide), getD_ite]
      by_cases same : e = d
      · subst same
        rw [if_pos rfl, lane_mixLanes _ _ _ hj]
        cases m.getLsbD j <;> simp
      · rw [if_neg same, if_neg fun both => same both.1]
    | f q n ord slot v => rw [land_word_regs]; rfl
    | _ => rfl
  · cases r with
    | v e m v => cases hr
    | _ => rfl

theorem newCycle_rsc (d : BitVec 4) : k.newCycle.regs.rsc d = latest (k.regs.rsc d) (k.reaching fun r => match r with
    | .sc e v => if e = d then some v else none
    | _ => none) := by
  refine newCycle_register h (fun r => r.rsc d) _ (fun k r _ => ?_) (fun r hr => ?_)
  · cases r with
    | sc e v => simp only [Ctx.land, Regs.rsc, vget_vset_bits (w := 4) (n := 16) (by decide), getD_ite]
    | f q n ord slot v => rw [land_word_regs]; rfl
    | _ => rfl
  · cases r with
    | sc e v => cases hr
    | _ => rfl

theorem newCycle_rh (d : BitVec 4) : k.newCycle.regs.rh d = latest (k.regs.rh d) (k.reaching fun r => match r with
    | .h e v => if e = d then some v else none
    | _ => none) := by
  refine newCycle_register h (fun r => r.rh d) _ (fun k r _ => ?_) (fun r hr => ?_)
  · cases r with
    | h e v => simp only [Ctx.land, Regs.rh, vget_vset_bits (w := 4) (n := 16) (by decide), getD_ite]
    | f q n ord slot v => rw [land_word_regs]; rfl
    | _ => rfl
  · cases r with
    | h e v => cases hr
    | _ => rfl

theorem newCycle_rk {d : BitVec 4} (hd : d ≠ 0) : k.newCycle.regs.rk d = latest (k.regs.rk d) (k.reaching fun r => match r with
    | .k e v => if e = d then some v else none
    | _ => none) := by
  refine newCycle_register h (fun r => r.rk d) _ (fun k r _ => ?_) (fun r hr => ?_)
  · cases r with
    | k e v => simp only [Ctx.land, Regs.rk, if_neg hd, vget_vset_bits (w := 4) (n := 16) (by decide), getD_ite]
    | f q n ord slot v => rw [land_word_regs]; rfl
    | _ => rfl
  · cases r with
    | k e v => exact if_neg (apart_of_zero hd hr)
    | _ => rfl

theorem newCycle_rl (d : BitVec 3) : k.newCycle.regs.rl d = latest (k.regs.rl d) (k.reaching fun r => match r with
    | .l e v => if e = d then some v else none
    | _ => none) := by
  refine newCycle_register h (fun r => r.rl d) _ (fun k r _ => ?_) (fun r hr => ?_)
  · cases r with
    | l e v => simp only [Ctx.land, Regs.rl, vget_vset_bits (w := 3) (n := 8) (by decide), getD_ite]
    | f q n ord slot v => rw [land_word_regs]; rfl
    | _ => rfl
  · cases r with
    | l e v => cases hr
    | _ => rfl

theorem newCycle_rb (d : BitVec 3) : k.newCycle.regs.rb d = latest (k.regs.rb d) (k.reaching fun r => match r with
    | .b e v => if e = d then some v else none
    | _ => none) := by
  refine newCycle_register h (fun r => r.rb d) _ (fun k r _ => ?_) (fun r hr => ?_)
  · cases r with
    | b e v => simp only [Ctx.land, Regs.rb, vget_vset_bits (w := 3) (n := 8) (by decide), getD_ite]
    | f q n ord slot v => rw [land_word_regs]; rfl
    | _ => rfl
  · cases r with
    | b e v => cases hr
    | _ => rfl

theorem newCycle_rw (d : BitVec 3) : k.newCycle.regs.rw d = latest (k.regs.rw d) (k.reaching fun r => match r with
    | .w e v => if e = d then some v else none
    | _ => none) := by
  refine newCycle_register h (fun r => r.rw d) _ (fun k r _ => ?_) (fun r hr => ?_)
  · cases r with
    | w e v => simp only [Ctx.land, Regs.rw, vget_vset_bits (w := 3) (n := 8) (by decide), getD_ite]
    | f q n ord slot v => rw [land_word_regs]; rfl
    | _ => rfl
  · cases r with
    | w e v => cases hr
    | _ => rfl

end Registers

/-! ### Special registers and FEL (R95, R104, R128) -/

/-- The special registers that a result writes by their number, and those that none does. -/
structure Srs.Named (obs : Srs → W64) (num : Nat) : Prop where
  write : ∀ r n v, obs (r.write n v) = if n = num then v else obs r
  fel : ∀ r a b c, obs { r with fel := a, felNew := b, felSince := c } = obs r

/-- A register that no result writes. -/
structure Srs.Kept {α : Type} (obs : Srs → α) : Prop where
  write : ∀ r n v, obs (r.write n v) = obs r
  fel : ∀ r a b c, obs { r with fel := a, felNew := b, felSince := c } = obs r

/-- What a word for a send queue does to the special registers: nothing. -/
theorem land_word_sr (k : Ctx) (q : Nat) (n : BitVec 4) (ord : Nat) (slot : SlotKind) (v : Reg) : (k.land (.f q n ord slot v)).sr = k.sr := by
  unfold Ctx.land
  dsimp only
  split <;> rfl

section Special

variable {k : Ctx} (h : k.shown = false)

include h

theorem newCycle_sr : k.newCycle.sr = k.landing.sr.note (k.dueNext.map Flight.age) := by rw [newCycle_eq h]

theorem newCycle_special {obs : Srs → W64} {num : Nat} (hobs : Srs.Named obs num) : obs k.newCycle.sr = latest (obs k.sr) (k.reaching fun r => match r with
    | .sr m v => if m = num then some v else none
    | _ => none) := by
  rw [newCycle_sr h, Srs.note, hobs.fel, landing_fold k (fun k => obs k.sr) (fun o r => ((fun r => match r with
    | .sr m v => if m = num then some v else none
    | _ => none : Result → Option W64) r).getD o) (fun k r _ => ?_) (fun o r hr => ?_), foldl_latest, ← reaching_eq, hobs.fel]
  · cases r with
    | sr m v => simp only [Ctx.land, hobs.write, getD_ite]
    | f q n ord slot v => rw [land_word_sr]; rfl
    | clrFel => exact hobs.fel k.sr k.sr.felSince k.sr.felNew k.sr.felSince
    | _ => rfl
  · cases r with
    | sr m v => cases hr
    | _ => rfl

/-- A register that no result writes. -/
theorem newCycle_kept {α : Type} {obs : Srs → α} (hobs : Srs.Kept obs) : obs k.newCycle.sr = obs k.sr := by
  rw [newCycle_sr h, Srs.note, hobs.fel, landing_fold k (fun k => obs k.sr) (fun o _ => o) (fun k r _ => ?_) (fun o r hr => rfl), List.foldl_const, hobs.fel]
  · exact Function.iterate_id _ ▸ rfl
  · cases r with
    | sr m v => exact hobs.write k.sr m v
    | f q n ord slot v => rw [land_word_sr]
    | clrFel => exact hobs.fel k.sr k.sr.felSince k.sr.felNew k.sr.felSince
    | _ => rfl

end Special

section Numbers

theorem named_slack : Srs.Named Srs.slack 0x00 := ⟨fun r n v => by unfold Srs.write; split <;> simp_all, fun _ _ _ _ => rfl⟩
theorem named_lc : Srs.Named Srs.lc 0x01 := ⟨fun r n v => by unfold Srs.write; split <;> simp_all, fun _ _ _ _ => rfl⟩
theorem named_uiv : Srs.Named Srs.uiv 0x03 := ⟨fun r n v => by unfold Srs.write; split <;> simp_all, fun _ _ _ _ => rfl⟩
theorem named_rsta : Srs.Named Srs.rsta 0x06 := ⟨fun r n v => by unfold Srs.write; split <;> simp_all, fun _ _ _ _ => rfl⟩
theorem named_rstb : Srs.Named Srs.rstb 0x07 := ⟨fun r n v => by unfold Srs.write; split <;> simp_all, fun _ _ _ _ => rfl⟩
theorem named_rstd : Srs.Named Srs.rstd 0x08 := ⟨fun r n v => by unfold Srs.write; split <;> simp_all, fun _ _ _ _ => rfl⟩
theorem named_epc : Srs.Named Srs.epc 0x10 := ⟨fun r n v => by unfold Srs.write; split <;> simp_all, fun _ _ _ _ => rfl⟩
theorem named_ebp : Srs.Named Srs.ebp 0x13 := ⟨fun r n v => by unfold Srs.write; split <;> simp_all, fun _ _ _ _ => rfl⟩

theorem kept_tenant : Srs.Kept Srs.tenant := ⟨fun r n v => by unfold Srs.write; split <;> rfl, fun _ _ _ _ => rfl⟩
theorem kept_ecause : Srs.Kept Srs.ecause := ⟨fun r n v => by unfold Srs.write; split <;> rfl, fun _ _ _ _ => rfl⟩
theorem kept_einfo : Srs.Kept Srs.einfo := ⟨fun r n v => by unfold Srs.write; split <;> rfl, fun _ _ _ _ => rfl⟩

end Numbers

/-- What results do to FEL and to its events since the latest clear (R104). -/
def felClear (p : Option FelEvent × Option FelEvent) : Result → Option FelEvent × Option FelEvent
  | .clrFel => (p.2, p.2)
  | _ => p

theorem foldl_felClear (rs : List Result) (p : Option FelEvent × Option FelEvent) :
    rs.foldl felClear p = (if rs.any (· == .clrFel) then p.2 else p.1, p.2) := by
  induction rs generalizing p with
  | nil => rfl
  | cons r rs ih =>
    rw [List.foldl_cons, ih, List.any_cons]
    cases r with
    | clrFel => simp [felClear]
    | _ => rfl

theorem felAll_eq (o : Option FelEvent) (fs : List Flight) : felAll o fs = (fs.filterMap Flight.event).foldl felMerge o := by
  induction fs generalizing o with
  | nil => rfl
  | cons f fs ih =>
    unfold felAll
    cases he : f.event with
    | none => rw [List.filterMap_cons_none he]; exact ih o
    | some e => rw [List.filterMap_cons_some he]; exact ih _

theorem before_iff (a b : FelEvent) : a.before b = true ↔ a.seq < b.seq ∨ a.seq = b.seq ∧ (a.slot < b.slot ∨ a.slot = b.slot ∧ a.lane < b.lane) := by
  simp [FelEvent.before]

/-- If an event stands before none of two, one stands not before the earlier of them. -/
theorem before_trans {a b c : FelEvent} (h : b.before a = false) (h' : c.before b = false) : c.before a = false := by
  rw [Bool.eq_false_iff, ne_eq, before_iff] at h h' ⊢
  omega

theorem before_irrefl (a : FelEvent) : a.before a = false := by
  rw [Bool.eq_false_iff, ne_eq, before_iff]
  omega

theorem felMerge_some (a e : FelEvent) : ∃ x, felMerge (some a) e = some x ∧ (x = a ∨ x = e) ∧ a.before x = false ∧ e.before x = false := by
  cases he : e.before a
  · exact ⟨a, by simp [felMerge, he], .inl rfl, before_irrefl a, he⟩
  · refine ⟨e, by simp [felMerge, he], .inr rfl, ?_, before_irrefl e⟩
    rw [Bool.eq_false_iff, ne_eq, before_iff]
    rw [before_iff] at he
    omega

/-- Of a first event and several more the earliest is kept (R128). -/
theorem foldl_felMerge_some (es : List FelEvent) (a : FelEvent) :
    ∃ x, es.foldl felMerge (some a) = some x ∧ (x = a ∨ x ∈ es) ∧ a.before x = false ∧ ∀ e ∈ es, e.before x = false := by
  induction es generalizing a with
  | nil => exact ⟨a, rfl, .inl rfl, before_irrefl a, fun e he => by cases he⟩
  | cons e es ih =>
    obtain ⟨b, merged, origin, after, after'⟩ := felMerge_some a e
    obtain ⟨x, rest, origin', least, least'⟩ := ih b
    refine ⟨x, by rw [List.foldl_cons, merged, rest], ?_, before_trans least after, fun e' he' => ?_⟩
    · rcases origin' with rfl | hx
      · rcases origin with rfl | rfl
        · exact .inl rfl
        · exact .inr (List.mem_cons_self ..)
      · exact .inr (List.mem_cons_of_mem _ hx)
    · rcases List.mem_cons.1 he' with rfl | he'
      · exact before_trans least after'
      · exact least' e' he'

theorem foldl_felMerge (es : List FelEvent) (o : Option FelEvent) :
    (es = [] → es.foldl felMerge o = o) ∧ (∀ x, es.foldl felMerge o = some x → x ∈ es ∨ o = some x) ∧
      ∀ e, e ∈ es ∨ o = some e → ∃ x, es.foldl felMerge o = some x ∧ e.before x = false := by
  refine ⟨fun h => by rw [h]; rfl, ?_⟩
  cases o with
  | some a =>
    obtain ⟨x, all, origin, least, least'⟩ := foldl_felMerge_some es a
    rw [all]
    refine ⟨?_, ?_⟩
    · rintro _ ⟨rfl⟩
      exact origin.elim (fun h => .inr (congrArg some h.symm)) .inl
    · rintro e (he | he)
      · exact ⟨x, rfl, least' e he⟩
      · cases he
        exact ⟨x, rfl, least⟩
  | none =>
    cases es with
    | nil => simp
    | cons a es =>
      obtain ⟨x, all, origin, least, least'⟩ := foldl_felMerge_some es a
      have all : (a :: es).foldl felMerge none = some x := all
      rw [all]
      refine ⟨?_, ?_⟩
      · rintro _ ⟨rfl⟩
        exact .inl (List.mem_cons.2 origin)
      · rintro e (he | he)
        · rcases List.mem_cons.1 he with rfl | he
          · exact ⟨x, rfl, least⟩
          · exact ⟨x, rfl, least' e he⟩
        · cases he

section Fel

variable {k : Ctx} (h : k.shown = false)

include h

theorem newCycle_fel : k.newCycle.sr.fel =
    (k.dueNext.filterMap Flight.event).foldl felMerge (if k.dueNext.any (fun f => f.res == .clrFel) then k.sr.felSince else k.sr.fel) := by
  have cleared := landing_fold k (fun k => (k.sr.fel, k.sr.felSince)) felClear (fun k r _ => by
    cases r with
    | sr m v =>
      show ((k.sr.write m v).fel, (k.sr.write m v).felSince) = _
      unfold Srs.write
      split <;> rfl
    | f q n ord slot v => rw [land_word_sr]; rfl
    | _ => rfl) (fun o r hr => by cases r with
      | clrFel => cases hr
      | _ => rfl)
  rw [foldl_felClear, List.any_map] at cleared
  have events : (k.dueNext.map Flight.age).filterMap Flight.event = k.dueNext.filterMap Flight.event := by
    rw [List.filterMap_map]
    exact List.filterMap_congr fun f _ => age_event f
  rw [newCycle_sr h]
  show felAll k.landing.sr.fel _ = _
  rw [felAll_eq, events, (Prod.mk.inj cleared).1]
  rfl

end Fel

/-! ### Words for send queues (R22, R364) -/

/-- The word that a result brings to a send queue, with its place in program order. -/
def wordFor (q : Nat) : Result → Option (Nat × Reg)
  | .f p _ ord _ v => if p = q then some (ord, v) else none
  | _ => none

/-- The trap of a poisoned word (R364). -/
def spoils : Result → Option TrapRec
  | .f _ num _ slot v => if v.poison then some ⟨8, slot.code, BitVec.ofNat 64 (32 + 16 + num.toNat), true, none⟩ else none
  | _ => none

/-- An entry after the words that meet it: gone if one is poisoned, else with the last of them. -/
def entryAfter (words : List (Nat × Reg)) (p : Nat × Option W64) : Option (Nat × Option W64) :=
  let vs := (words.filter fun w => w.1 == p.1).map Prod.snd
  if vs.any Reg.poison then none else some (p.1, latest p.2 (vs.map fun v => some v.val))

/-- What a result does to a queue. -/
def SendQ.meet (e : SendQ) (r : Result) : SendQ := (wordFor e.id r).elim e fun w => e.push w.1 w.2

theorem meet_id (e : SendQ) (r : Result) : (e.meet r).id = e.id := by
  unfold SendQ.meet
  cases wordFor e.id r <;> rfl

/-- One word, then others. -/
theorem entryAfter_cons (w : Nat × Reg) (ws : List (Nat × Reg)) (p : Nat × Option W64) :
    ((if p.1 = w.1 then (if w.2.poison then none else some (w.1, some w.2.val)) else some p).bind (entryAfter ws)) = entryAfter (w :: ws) p := by
  by_cases same : p.1 = w.1
  · have mine : (w :: ws).filter (fun w => w.1 == p.1) = w :: ws.filter fun w => w.1 == p.1 := List.filter_cons_of_pos (beq_iff_eq.2 same.symm)
    rw [if_pos same, entryAfter, mine]
    cases bad : w.2.poison
    · simp only [Bool.false_eq_true, if_false, Option.bind_some, entryAfter, List.map_cons, List.any_cons, bad, Bool.false_or, latest_cons, same]
    · simp [bad]
  · have other : (w :: ws).filter (fun w => w.1 == p.1) = ws.filter fun w => w.1 == p.1 :=
      List.filter_cons_of_neg fun h => same (beq_iff_eq.1 h).symm
    rw [if_neg same, Option.bind_some, entryAfter, entryAfter, other]

/-- A queue after several results. -/
theorem foldl_meet (rs : List Result) (e : SendQ) :
    rs.foldl SendQ.meet e = { e with entries := e.entries.filterMap (entryAfter (rs.filterMap (wordFor e.id))) } := by
  induction rs generalizing e with
  | nil =>
    have same : entryAfter [] = some := rfl
    rw [List.foldl_nil, List.filterMap_nil, same, List.filterMap_some]
  | cons r rs ih =>
    rw [List.foldl_cons, ih, meet_id]
    cases hw : wordFor e.id r with
    | none =>
      have idle : e.meet r = e := by rw [SendQ.meet, hw]; rfl
      rw [idle, List.filterMap_cons_none hw]
    | some w =>
      have pushed : e.meet r = e.push w.1 w.2 := by rw [SendQ.meet, hw]; rfl
      rw [pushed, List.filterMap_cons_some hw, SendQ.push, List.filterMap_filterMap]
      congr 1
      exact List.filterMap_congr fun p _ => entryAfter_cons w _ p

theorem foldl_map_meet (rs : List Result) (es : List SendQ) :
    rs.foldl (fun es r => es.map (SendQ.meet · r)) es = es.map fun e => rs.foldl SendQ.meet e := by
  induction rs generalizing es with
  | nil => exact (List.map_id' es).symm
  | cons r rs ih => rw [List.foldl_cons, ih, List.map_map]; rfl

theorem land_sends (k : Ctx) (r : Result) : (k.land r).sends = k.sends.map (SendQ.meet · r) := by
  cases r with
  | f q n ord slot v =>
    have sends : (k.land (.f q n ord slot v)).sends = k.sends.map fun e => if e.id = q then e.push ord v else e := by
      unfold Ctx.land
      dsimp only
      split <;> rfl
    rw [sends]
    refine List.map_congr_left fun e _ => ?_
    by_cases same : e.id = q
    · simp [SendQ.meet, wordFor, same]
    · simp [SendQ.meet, wordFor, same, Ne.symm same]
  | _ => exact (List.map_id' _).symm

/-- The trap that awaits a context after one more that a poisoned word raises (R328). -/
def dueAfter (o : Option TrapRec) (r : Result) : Option TrapRec :=
  (spoils r).elim o fun t => match o with
    | none => some t
    | some q => if t.cls < q.cls then some t else some q

theorem land_due (k : Ctx) (r : Result) : (k.land r).due = dueAfter k.due r := by
  cases r with
  | f q n ord slot v =>
    unfold Ctx.land dueAfter spoils
    cases bad : v.poison
    · simp [bad]
    · cases k.due <;> simp only [bad, if_true, Ctx.addDue, Option.elim_some]
  | _ => rfl

/-- Traps of class 8 after another: the first of them stays, unless one of a lower or the same number awaits the context. -/
theorem foldl_dueAfter (rs : List Result) (o : Option TrapRec) :
    rs.foldl dueAfter o = if rs.filterMap spoils = [] ∨ (∃ q, o = some q ∧ q.cls ≤ 8) then o else (rs.filterMap spoils).head? := by
  induction rs generalizing o with
  | nil => rfl
  | cons r rs ih =>
    rw [List.foldl_cons, ih]
    cases hr : spoils r with
    | none => rw [List.filterMap_cons_none hr, dueAfter, hr]; rfl
    | some t =>
      have class8 : t.cls = 8 := by
        cases r with
        | f q n ord slot v =>
          obtain ⟨-, rfl⟩ := Option.ite_some_none_eq_some.1 hr
          rfl
        | _ => cases hr
      rw [List.filterMap_cons_some hr, dueAfter, hr]
      cases o with
      | none => simp [class8]
      | some q =>
        by_cases low : q.cls ≤ 8
        · simp [class8, low, Nat.not_lt.2 low]
        · simp [class8, low, Nat.lt_of_not_le low]

section Queues

variable {k : Ctx} (h : k.shown = false)

include h

theorem newCycle_sends : k.newCycle.sends = k.sends.map fun e => { e with entries := e.entries.filterMap (entryAfter (k.reaching (wordFor e.id))) } := by
  have sends : k.newCycle.sends = k.landing.sends := by rw [newCycle_eq h]
  rw [sends, landing_fold k (fun k => k.sends) (fun es r => es.map (SendQ.meet · r)) (fun k r _ => land_sends k r) (fun es r hr => ?_), foldl_map_meet]
  · refine List.map_congr_left fun e _ => ?_
    rw [foldl_meet, ← reaching_eq]
  · cases r with
    | f q n ord slot v => cases hr
    | _ => exact List.map_id' es

theorem newCycle_due : k.newCycle.due =
    if k.reaching spoils = [] ∨ (∃ q, k.due = some q ∧ q.cls ≤ 8) then k.due else (k.reaching spoils).head? := by
  have due : k.newCycle.due = k.landing.due := by rw [newCycle_eq h]
  rw [due, landing_fold k (fun k => k.due) dueAfter (fun k r _ => land_due k r) (fun o r hr => ?_), foldl_dueAfter, ← reaching_eq]
  cases r with
  | f q n ord slot v => cases hr
  | _ => rfl

end Queues

/-! ### Empty bundles and inserted cycles (R8, R33, R183) -/

theorem after_empty (g : Group) (stop : Bool) : g.after [] [] stop = if stop then Group.fresh else { g with count := g.count + 1 } := by
  simp [Group.after]

theorem runOut_keeps (n : Nat) (k : Ctx) : (k.runOut n).sr.acyc = k.sr.acyc ∧ (k.runOut n).branch = k.branch := by
  induction n generalizing k with
  | zero => exact ⟨rfl, rfl⟩
  | succ n ih =>
    obtain ⟨hacyc, hbranch⟩ := ih k.nextCycle
    have branch : k.nextCycle.branch = k.branch := by
      unfold Ctx.nextCycle Ctx.settle
      exact (landAll_keeps _ _).2.2.2.1
    exact ⟨hacyc.trans (nextCycle_acyc k), hbranch.trans branch⟩

/-- What an empty bundle leaves (R33). -/
theorem endBundle_empty {k : Ctx} (hr : k.rep = none) (stop : Bool) :
    let n := k.endBundle k.branch 4 false (k.group.after [] [] stop)
    n.sr.acyc = k.sr.acyc + 1 ∧
      (k.branch = none → n.pc = k.pc + 4 ∧ n.branch = none ∧ n.group = if stop then Group.fresh else { k.group with count := k.group.count + 1 }) ∧
      (k.run ≠ .halted → n.regs = k.regs ∧ n.flight = k.flight ∧ n.sr = { k.sr with acyc := k.sr.acyc + 1 } ∧ n.shown = false) ∧
      (∀ target, k.branch = some (target, 1) → n.pc = target ∧ n.branch = none ∧ n.group = Group.fresh) ∧
      (∀ target m, k.branch = some (target, m + 2) → n.pc = k.pc + 4 ∧ n.branch = some (target, m + 1)) := by
  have next : BitVec.ofNat 64 (k.pc.toNat + 4) = k.pc + 4 := by bv_omega
  intro n
  have shape : n = k.endBundle k.branch 4 false (k.group.after [] [] stop) := rfl
  clear_value n
  unfold Ctx.endBundle at shape
  rw [follow_of_no_rep hr] at shape
  simp only [next, Bool.false_eq_true, if_false] at shape
  generalize hk1 : (if k.run = .halted then k.tick.runOut k.span else k.tick) = k1 at shape
  have acyc : k1.sr.acyc = k.sr.acyc + 1 ∧ k1.branch = k.branch := by
    rw [← hk1]
    split
    · exact runOut_keeps k.span k.tick
    · exact ⟨rfl, rfl⟩
  have runs : k.run ≠ .halted → k1 = k.tick := fun h => hk1.symm.trans (if_neg h)
  rw [after_empty] at shape
  rcases hb : k.branch with _ | ⟨t, c⟩
  · rw [hb] at shape
    subst shape
    exact ⟨acyc.1, fun _ => ⟨rfl, acyc.2.trans hb, rfl⟩, fun h => (runs h) ▸ ⟨rfl, rfl, rfl, rfl⟩, nofun, nofun⟩
  · rw [hb] at shape
    by_cases one : c = 1
    · subst one
      subst shape
      exact ⟨acyc.1, nofun, fun h => (runs h) ▸ ⟨rfl, rfl, rfl, rfl⟩, fun _ h => by cases h; exact ⟨rfl, rfl, rfl⟩, nofun⟩
    · have shape : n = { k1 with
          pc := k.pc + 4
          rep := none
          branch := some (t, c - 1)
          delay := k.delay - 1
          group := if stop then Group.fresh else { k.group with count := k.group.count + 1 }
          boundary := (if stop then Group.fresh else { k.group with count := k.group.count + 1 }).ended } := by
        rw [shape]
        split
        · next h => cases h; exact absurd rfl one
        · next h => cases h; rfl
        · next h => cases h
      subst shape
      refine ⟨acyc.1, nofun, fun h => (runs h) ▸ ⟨rfl, rfl, rfl, rfl⟩, ?_, ?_⟩
      · intro _ h
        cases h
        exact absurd rfl one
      · intro _ _ h
        cases h
        exact ⟨rfl, rfl⟩

/-- What an inserted cycle leaves (R183). -/
theorem tick_keeps (k : Ctx) : k.tick.sr.acyc = k.sr.acyc + 1 ∧ k.tick.pc = k.pc ∧ k.tick.branch = k.branch ∧ k.tick.group = k.group ∧
    k.tick.regs = k.regs ∧ k.tick.flight = k.flight ∧ k.tick.shown = false := ⟨rfl, rfl, rfl, rfl, rfl, rfl, rfl⟩

/-- Settles O39. -/
theorem cyclesPass : Obligations.CyclesPass := by
  unfold Obligations.CyclesPass
  refine ⟨fun s stop hr => ?_, fun s => ⟨_, exec_insertedCycle s, rfl, by rw [here_setHere]; exact tick_keeps s.here⟩, fun k =>
    ⟨newCycle_newCycle k, newCycle_pc k, newCycle_acyc k, fun h => ?_⟩⟩
  · obtain ⟨acyc, goes, runs, taken, pending⟩ := endBundle_empty hr stop
    refine ⟨_, exec_emptyBundle stop s, rfl, ?_⟩
    rw [here_setHere]
    exact ⟨acyc, goes, rfl, runs, taken, pending⟩
  · refine ⟨fun f hf more => more_to_go h hf more, fun f hf out unseen => not_arrived h hf out unseen, newCycle_ids h, fun f hf => newCycle_from h hf,
      fun d hd => newCycle_rx h hd, fun d hd => newCycle_ry h hd, fun d hd j _ => newCycle_rp h hd j, fun d j hj => newCycle_rv h d hj,
      newCycle_rsc h, newCycle_rh h, fun d hd => newCycle_rk h hd, newCycle_rl h, newCycle_rb h, newCycle_rw h,
      ⟨newCycle_special h named_slack, newCycle_special h named_lc, newCycle_special h named_uiv, newCycle_special h named_rsta,
        newCycle_special h named_rstb, newCycle_special h named_rstd, newCycle_special h named_epc, newCycle_special h named_ebp,
        newCycle_kept h kept_tenant, newCycle_kept h kept_ecause, newCycle_kept h kept_einfo⟩, ?_, newCycle_sends h, newCycle_due h⟩
    intro events cleared base
    rw [newCycle_fel h]
    exact foldl_felMerge _ _

end Sys2Proof.Machine
end

section
/-!
O40. Repeat heads and repetitions.
-/

namespace Sys2Proof.Machine

theorem exec_repeatHead (len : BitVec 3) (mword : W32) (s : State) : exec (.repeatHead len mword) s = execRepeatHead len mword s := rfl
theorem exec_repetition (s : State) : exec .repetition s = execRepetition s := rfl

/-! ### The checks of a head (R49, R177, R329) -/

/-- The registers that a repeat advances (R177). -/
def advancedRegs (mword : W32) : List (BitVec 5) := ((repeatInstr mword).elim [] advanced).map Prod.fst

section Heads

variable (s : State) (len : BitVec 3) (mword : W32)

theorem repeatHead_refused {r : TrapRec} {v : State} (h : s.headCheck s.header.toNat len mword = (.error r, v)) :
    exec (.repeatHead len mword) s = .next (s.takeTrap r) := by
  rw [exec_repeatHead, execRepeatHead, h]

theorem groupTrap_header : groupTrap 7 s.header.toNat = ⟨3, 7, BitVec.ofNat 64 s.header.toNat, false, none⟩ := by
  rw [groupTrap, Nat.mod_eq_of_lt s.header.isLt]

end Heads

/-- The same, by the command (R177). -/
def advances (o : Option Instr) (y : BitVec 5) : Prop :=
  match o with
  | some (.mma _ _ a b _ _ _ _) | some (.mmaz _ _ a b _ _ _ _) => y = a ∨ y = b
  | some (.mdrain _ _ a _ _ _ _) | some (.mldac _ _ a) | some (.mstac _ _ a) => y = a
  | _ => False

theorem advances_iff (mword : W32) (y : BitVec 5) : advances (repeatInstr mword) y ↔ y ∈ advancedRegs mword := by
  unfold advancedRegs advances
  generalize repeatInstr mword = o
  split
  · simp [advanced]
  · simp [advanced]
  · simp [advanced]
  · simp [advanced]
  · simp [advanced]
  · next mma mmaz mdrain mldac mstac =>
    rcases o with _ | i
    · simp
    · rw [Option.elim_some]
      unfold advanced
      split
      · exact (mma _ _ _ _ _ _ _ _ rfl).elim
      · exact (mmaz _ _ _ _ _ _ _ _ rfl).elim
      · exact (mdrain _ _ _ _ _ _ _ rfl).elim
      · exact (mldac _ _ _ rfl).elim
      · exact (mstac _ _ _ rfl).elim
      · simp

/-- What no body bundle may hold (R49). -/
theorem bodyBad_iff (ws : List W32) : bodyBad ws = true ↔ (ws.headD 0).toNat.testBit 26 = true ∨ (ws.headD 0).toNat.testBit 23 = true ∨
    ((ws.headD 0).toNat.testBit 30 = true ∧ 0x24 ≤ (ws.tail.headD 0).toNat / 2 ^ 26 ∧ (ws.tail.headD 0).toNat / 2 ^ 26 ≤ 0x32) := by
  have op : bits (ws.tail.headD 0).toNat 26 6 = (ws.tail.headD 0).toNat / 2 ^ 26 := by
    refine Nat.mod_eq_of_lt ?_
    have := (ws.tail.headD 0).isLt
    omega
  simp only [bodyBad, op, Bool.or_eq_true, Bool.and_eq_true, decide_eq_true_eq, bitAt_eq_testBit, or_assoc]
  rfl

/-- What a body bundle may not write (R177). -/
theorem bodyWrites_iff (k : Ctx) (mword : W32) (ws : List W32) :
    bodyWrites k (advancedRegs mword |>.flatMap useY) ws = true ↔ ∃ b i y, decodeBundle (ws.headD 0).toNat (ws.tail.map BitVec.toNat) = .ok b ∧
      i ∈ b.slots.map Prod.snd ∧ y ≠ 0 ∧ y ∈ advancedRegs mword ∧ 64 + y.toNat ∈ (wordUses k i).writes := by
  have named (n : Nat) : n ∈ (advancedRegs mword).flatMap useY ↔ ∃ y ∈ advancedRegs mword, y ≠ 0 ∧ n = 64 + y.toNat := by
    rw [List.mem_flatMap]
    refine exists_congr fun y => and_congr_right fun _ => ?_
    unfold useY
    split
    · next zero => simp [zero]
    · next other => exact List.mem_singleton.trans ⟨fun same => ⟨other, same⟩, And.right⟩
  unfold bodyWrites
  cases decodeBundle (ws.headD 0).toNat (ws.tail.map BitVec.toNat) with
  | error r => simp
  | ok b =>
    simp only [List.any_eq_true, List.contains_iff_mem, named, List.mem_map, Except.ok.injEq]
    constructor
    · rintro ⟨p, hp, n, hn, y, hy, hz, rfl⟩
      exact ⟨b, p.2, y, rfl, ⟨p, hp, rfl⟩, hz, hy, hn⟩
    · rintro ⟨_, _, y, rfl, ⟨p, hp, rfl⟩, hz, hy, hn⟩
      exact ⟨p, hp, _, hn, y, hy, hz, rfl⟩

section HeadCheck

variable {s : State} {len : BitVec 3} {mword : W32}

/-- Where no head may stand (R49, R329). -/
theorem headCheck_misplaced (h : s.here.handler = true ∨ s.here.branch ≠ none ∨ s.here.delay ≠ 0) (hw : Nat) :
    s.headCheck hw len mword = (.error (groupTrap 7 hw), s) := by
  have place : s.here.handler ∨ s.here.inDelay = true := by
    rcases h with h | h | h
    · exact .inl h
    · refine .inr ?_
      rw [Ctx.inDelay, Option.isSome_iff_ne_none.2 h, Bool.true_or]
    · refine .inr ?_
      rw [Ctx.inDelay, bne_iff_ne.2 h, Bool.or_true]
  rw [State.headCheck, if_pos place]

variable {hw : Nat} {body : List (Nat × List W32)} {after : Nat} {v : State}

/-- A head whose place is right is judged by its body. -/
theorem headCheck_body (read : s.readBody (s.here.pc.toNat + bundleSize hw) (len.toNat + 1) = (.ok (body, after), v)) (level : s.here.handler = false)
    (free : s.here.branch = none) (past : s.here.delay = 0) :
    s.headCheck hw len mword = (if (body.any fun p => bodyBad p.2) = true ∨
      (body.any fun p => bodyWrites s.here ((advancedRegs mword).flatMap useY) p.2) = true then (.error (groupTrap 7 hw), v) else (.ok (body, after), v)) := by
  have place : ¬ (s.here.handler ∨ s.here.inDelay = true) := by
    rw [level, Ctx.inDelay, free, past]
    decide
  have shape : s.headCheck hw len mword = (if (body.any fun p => bodyBad p.2) = true then (.error (groupTrap 7 hw), v)
      else if (body.any fun p => bodyWrites s.here ((advancedRegs mword).flatMap useY) p.2) = true then (.error (groupTrap 7 hw), v)
      else (.ok (body, after), v)) := by
    rw [State.headCheck, if_neg place, read]
    unfold advancedRegs
    cases repeatInstr mword with
    | none => rfl
    | some i =>
      have regs : ((some i).elim [] advanced |>.map Prod.fst).flatMap useY = (advanced i).flatMap fun p => useY p.1 := List.flatMap_map ..
      rw [regs]
  rw [shape]
  by_cases bad : (body.any fun p => bodyBad p.2) = true
  · rw [if_pos bad, if_pos (.inl bad)]
  · rw [if_neg bad]
    by_cases writes : (body.any fun p => bodyWrites s.here ((advancedRegs mword).flatMap useY) p.2) = true
    · rw [if_pos writes, if_pos (.inr writes)]
    · rw [if_neg writes, if_neg (by rintro (h | h); exacts [bad h, writes h])]

end HeadCheck

/-! ### Repetitions (R176 to R178) -/

/-- The device with an address register advanced by a stride (R177). -/
def State.movedBy (u t : State) (y : BitVec 5) (stride : W64) : State := u.exactly (.y y ⟨(t.here.regs.ry y).val + stride, false⟩) 1

section Rounds

variable {t u : State} {p : Rep}

/-- An advance reads the register as it stands. -/
theorem advance_cons {y : BitVec 5} {second : Bool} {ys : List (BitVec 5 × Bool)} (regs : u.here.regs = t.here.regs) (clean : (t.here.regs.ry y).poison = false) :
    advance p ((y, second) :: ys) u = advance p ys (u.movedBy t y (if second then p.sb else p.sa)) := by
  simp only [advance, exec_bind, readY_apply, exact_apply, regs, clean]
  rfl

theorem movedBy_regs (regs : u.here.regs = t.here.regs) (y : BitVec 5) (stride : W64) : (u.movedBy t y stride).here.regs = t.here.regs := by
  rw [State.movedBy, State.exactly, here_setHere, addFlight_regs, regs]

theorem enabled_always (k : Ctx) : k.enabled ⟨false, 0⟩ = true := by simp [Ctx.enabled, Regs.rp]

/-- A repetition whose command issues goes on to the advance. -/
theorem repetition_issues (status : t.status = .ok) (on : p.on = true) {i : Instr} (instr : repeatInstr p.mword = some i)
    (command : repeatCommand i t = .next u) (goes : u.status = .ok) {v : State} (moves : advance p (advanced i) u = .ok ((), v)) :
    t.repetition p = .next v := by
  have same : { t with status := .ok } = t := by rw [← status]
  rw [State.repetition, instr]
  simp only [on, if_true, same, command, goes, runBody, moves]

theorem repetition_off (off : p.on = false) : t.repetition p = .next t := by
  unfold State.repetition
  rw [off]
  cases repeatInstr p.mword <;> rfl

end Rounds

section Commands

variable {t : State} {p : Rep} (status : t.status = .ok) (on : p.on = true) (room : t.takesM)

include status on room

/-- A product of a repeat, mmaz from zero in repetition 0 alone (R178). -/
theorem repetition_product (inside : t.here.rep = some p) {g : Guard} {ac a b : BitVec 5} {f : Fmt} {ca dm : Bool} {sp : BitVec 3} {z : Bool}
    (instr : repeatInstr p.mword = some (if z then .mmaz g ac a b f ca dm sp else .mma g ac a b f ca dm sp))
    (scales : f.isMx = true → ∀ c ∈ t.mcmds, c.ctx = t.cur → c.op.scales = []) (ha : (t.here.regs.ry a).poison = false)
    (hb : (t.here.regs.ry b).poison = false) (tile : t.here.hasTile ac.toNat = true) (oka : t.opndOk (opndOf (t.here.regs.ry a).val) (imageBytes f ca))
    (okb : t.opndOk (opndOf (t.here.regs.ry b).val) (imageBytes f false))
    (apart : bankGroup (opndOf (t.here.regs.ry a).val).base ≠ bankGroup (opndOf (t.here.regs.ry b).val).base) :
    let sc (i : Nat) : Lanes := if f.isMx then vget t.here.regs.sc (2 * sp.toNat + i) Lanes.zero else Lanes.zero
    t.repetition p = .next (((t.mIssued (.mma (z && p.r == 0) f ca (if dm then some (t.dupBehind t.cur) else none) ac.toNat (opndOf (t.here.regs.ry a).val)
      (opndOf (t.here.regs.ry b).val) (sc 0) (sc 8) (sc 1) (sc 9))).movedBy t a p.sa).movedBy t b p.sb) := by
  intro sc
  have first : t.here.firstRep = (p.r == 0) := by rw [Ctx.firstRep, inside]
  have issue (zero : Bool) := runSlot_ok (enabled_always t.here) (issueMma_ok ha hb zero ac dm sp oka okb apart room scales tile)
  have move (u : State) (regs : u.here.regs = t.here.regs) : advance p [(a, false), (b, true)] u = .ok ((), (u.movedBy t a p.sa).movedBy t b p.sb) := by
    rw [advance_cons regs ha, advance_cons (movedBy_regs regs a _) hb]
    rfl
  cases z with
  | false => exact repetition_issues status on instr (issue false) status (move _ rfl)
  | true =>
    rw [Bool.true_and, ← first]
    exact repetition_issues status on instr (issue t.here.firstRep) status (move _ rfl)

omit room in
/-- The other commands of a repeat have one address. -/
theorem repetition_one {i : Instr} (instr : repeatInstr p.mword = some i) {y : BitVec 5} (clean : (t.here.regs.ry y).poison = false) {op : MOp}
    (command : repeatCommand i t = .next (t.mIssued op)) (moves : advanced i = [(y, false)]) :
    t.repetition p = .next ((t.mIssued op).movedBy t y p.sa) :=
  repetition_issues status on instr command status (by rw [moves, advance_cons (u := t.mIssued op) (t := t) rfl clean]; rfl)

variable {g : Guard} {ac y : BitVec 5} (tile : t.here.hasTile ac.toNat = true) (clean : (t.here.regs.ry y).poison = false)

include tile clean

theorem repetition_mldac (ok : t.opndOk (opndOf (t.here.regs.ry y).val) 16384) (instr : repeatInstr p.mword = some (.mldac g ac y)) :
    t.repetition p = .next ((t.mIssued (.mldac ac.toNat (opndOf (t.here.regs.ry y).val))).movedBy t y p.sa) :=
  repetition_one status on instr clean (runSlot_ok (enabled_always t.here)
    (by simp only [exec_bind, readYV_ok clean, checkOperand_ok ok, checkTile_ok tile, issueM_ok room])) rfl

theorem repetition_mstac (ok : t.opndOk (opndOf (t.here.regs.ry y).val) 16384) (instr : repeatInstr p.mword = some (.mstac g ac y)) :
    t.repetition p = .next ((t.mIssued (.mstac ac.toNat (opndOf (t.here.regs.ry y).val))).movedBy t y p.sa) :=
  repetition_one status on instr clean (runSlot_ok (enabled_always t.here)
    (by simp only [exec_bind, readYV_ok clean, checkOperand_ok ok, checkTile_ok tile, issueM_ok room])) rfl

theorem repetition_mdrain {f : Fmt} {sc : BitVec 4} {cmp : Bool} {rnd : BitVec 3} (ok : t.opndOk (opndOf (t.here.regs.ry y).val) (imageBytes f cmp))
    (instr : repeatInstr p.mword = some (.mdrain g ac y f sc cmp rnd)) :
    t.repetition p = .next ((t.mIssued (.mdrain ac.toNat (opndOf (t.here.regs.ry y).val) f sc.toNat cmp rnd)).movedBy t y p.sa) :=
  repetition_one status on instr clean (runSlot_ok (enabled_always t.here)
    (by simp only [exec_bind, readYV_ok clean, checkOperand_ok ok, checkTile_ok tile, issueM_ok room])) rfl

end Commands

/-! ### The head and its repetitions (R176, R178) -/

section Issue

variable {s : State} {len : BitVec 3} {mword : W32} {body : List (Nat × List W32)} {after : Nat} {v : State}
  (checked : s.headCheck s.header.toNat len mword = (.ok (body, after), v))

include checked

/-- A head without repetitions only keeps the repeat state. -/
theorem repeatHead_none (status : s.status = .ok) (idle : s.here.sr.lc = 0 ∨ (s.here.startRep mword body after).on = false) :
    exec (.repeatHead len mword) s = .next (s.setHere { s.here with rep := some (s.here.startRep mword body after) }) := by
  rw [exec_repeatHead, execRepeatHead, checked]
  by_cases zero : s.here.sr.lc = 0
  · exact if_pos (by rw [Ctx.startRep, zero]; rfl)
  · have off := idle.resolve_left zero
    have many : ¬ (s.here.startRep mword body after).left = 0 := fun h => zero (BitVec.eq_of_toNat_eq h)
    have same : (s.setHere { s.here with rep := some (s.here.startRep mword body after) }).status = .ok := status
    simp only [if_neg many, repetition_off off, same]

/-- A head issues repetition 0. -/
theorem repeatHead_issues (many : s.here.sr.lc ≠ 0) {u : State}
    (first : (s.setHere { s.here with rep := some (s.here.startRep mword body after) }).repetition (s.here.startRep mword body after) = .next u)
    (goes : u.status = .ok) : exec (.repeatHead len mword) s = .next u := by
  have rounds : ¬ (s.here.startRep mword body after).left = 0 := fun h => many (BitVec.eq_of_toNat_eq h)
  rw [exec_repeatHead, execRepeatHead, checked]
  simp only [if_neg rounds, first, goes]

end Issue

theorem takesM_setRep {s : State} (h : s.takesM) (r : Option Rep) : (s.setHere { s.here with rep := r }).takesM :=
  ⟨h.buffer, by rw [here_setHere]; exact h.loads⟩

/-- Settles O40: the checks of a head in their order, and each command of a repeat. -/
theorem repeatIssues : Obligations.RepeatIssues := by
  unfold Obligations.RepeatIssues
  intro rounds
  have issues : ∀ (t : State) (p : Rep) (o : Host.Outcome State Fault Refusal), t.status = .ok → p.on = true → t.takesM → t.here.rep = some p →
      (∀ u, t.repetition p = .next u → u.status = .ok → o = .next u) → rounds t p o := by
    intro t p o status on room inside goes
    refine ⟨fun g ac a b f ca dm sp z instr scales ha hb tile oka okb apart => ?_, fun g ac y tile clean ok => ⟨fun instr => ?_, fun instr => ?_⟩,
      fun g ac y f sc cmp rnd instr tile clean ok => ?_⟩
    · exact goes _ (repetition_product status on room inside instr scales ha hb tile oka okb apart) status
    · exact goes _ (repetition_mldac status on room tile clean ok instr) status
    · exact goes _ (repetition_mstac status on room tile clean ok instr) status
    · exact goes _ (repetition_mdrain status on room tile clean ok instr) status
  refine ⟨fun s len mword => ?_, fun s status => ⟨fun len mword body after v checked => ?_, fun p inside => ⟨fun off => ?_, fun on room => ?_⟩⟩⟩
  · intro h refused heads barred advances' spoils
    have refuses {u : State} (error : s.headCheck h.toNat len mword = (.error (groupTrap 7 h.toNat), u)) : refused :=
      (repeatHead_refused s len mword error).trans (by rw [groupTrap_header])
    refine ⟨fun misplaced => refuses (headCheck_misplaced misplaced _), fun body after v read level free past => ?_⟩
    have judged := headCheck_body (mword := mword) read level free past
    have bars (ws : List W32) : bodyBad ws = true ↔ barred ws := bodyBad_iff ws
    have spoil (ws : List W32) : bodyWrites s.here ((advancedRegs mword).flatMap useY) ws = true ↔ spoils ws := by
      have named (y : BitVec 5) : y ∈ advancedRegs mword ↔ advances' y := (advances_iff mword y).symm
      simp only [bodyWrites_iff, named]
      rfl
    refine ⟨fun ⟨q, hq, bad⟩ => refuses (judged.trans (if_pos ?_)), fun fine => ?_⟩
    · simp only [List.any_eq_true]
      exact bad.imp (fun hb => ⟨q, hq, (bars _).2 hb⟩) fun hs => ⟨q, hq, (spoil _).2 hs⟩
    · have passes : ¬ ((body.any fun p => bodyBad p.2) = true ∨
          (body.any fun p => bodyWrites s.here ((advancedRegs mword).flatMap useY) p.2) = true) := by
        simp only [List.any_eq_true]
        rintro (⟨q, hq, bad⟩ | ⟨q, hq, bad⟩)
        · exact (fine q hq).1 ((bars _).1 bad)
        · exact (fine q hq).2 ((spoil _).1 bad)
      rw [judged, if_neg passes]
  · refine ⟨repeatHead_none checked status, fun many on room => issues _ _ _ status on (takesM_setRep room _) (by rw [here_setHere]) ?_⟩
    exact fun u first goes => repeatHead_issues checked many first goes
  · rw [exec_repetition, execRepetition, inside]
    exact repetition_off off
  · refine issues s p _ status on room inside fun u one _ => ?_
    rw [exec_repetition, execRepetition, inside]
    exact one

end Sys2Proof.Machine
end

section
/-!
O41. A capture makes a write of UIV visible, and the interrupt that it belongs to goes to the new vector.
-/

namespace Sys2Proof.Machine

theorem exec_userInterruptTaken (c : Nat) (s : State) : exec (.userInterruptTaken c) s = execUserInterruptTaken c s := rfl

/-- The handler is entered at the vector that the capture leaves (R280, R337). -/
theorem enterUi_pc (k : Ctx) (cause : W64) : (k.enterUi cause).pc = k.capture.sr.uiv := rfl

/-- A context at user level that may take an interrupt takes the one that is pending (R280). -/
theorem userInterrupt_taken {s : State} {c : Nat} (opened : (s.ctx c).uiOpen = true) {i : Nat} {code : BitVec 8} (pending : (s.ctx c).pendingUi = some (i, code))
    (vector : (s.ctx c).sr.uiv ≠ 0) :
    exec (.userInterruptTaken c) s =
      .next (s.setCtx c ({ s.ctx c with pend := vset (s.ctx c).pend i none }.enterUi (causeWord i code))) := by
  rw [exec_userInterruptTaken, execUserInterruptTaken, State.userInterrupt]
  simp only [opened, if_true, Ctx.takeUi, pending, if_neg vector, Option.map_some, event]

/-- A blocked context with UIV 16 and index 0 pending; a write of UIV with 32 has arrived and its latency has run, but it is not visible. -/
def uivLate : Ctx :=
  { Ctx.reset with
    run := .blocked
    sr := { Srs.reset with uiv := 16 }
    pend := vset (Vector.replicate 16 none) 0 (some 0)
    flight := [⟨0, .sr 3 32, 0, 0, true, true, false, none, none, false, false⟩] }

theorem uivLate_pending : uivLate.pendingUi = some (0, 0) := rfl

/-- The capture lets the write take effect. -/
theorem uivLate_capture : { uivLate with pend := vset uivLate.pend 0 none }.capture.sr.uiv = 32 := rfl

/-- Refutes O41: an interrupt's handler is entered at the UIV that the capture leaves. In a state in which a write of UIV has arrived and its
latency has run, the capture makes it visible, and the handler starts at the new vector, where the statement has it start at the one before. -/
theorem not_trapEntry : ¬ Obligations.TrapEntry := by
  unfold Obligations.TrapEntry
  intro h
  have here : (State.reset.setCtx 0 uivLate).ctx 0 = uivLate := ctx_setCtx _ _ _
  obtain ⟨-, -, -, -, -, -, -, -, interrupt⟩ := h (State.reset.setCtx 0 uivLate) 0
  obtain ⟨regs, shadow, pend, -, -, -, entered⟩ := interrupt 0 0 (by rw [here]; rfl) (by rw [here]; rfl) (by rw [here]; exact .inl rfl)
    (by rw [here]; decide) (by decide) (by rw [here]; rfl) (fun j hj => absurd hj (Nat.not_lt_zero j))
  have taken := userInterrupt_taken (s := State.reset.setCtx 0 uivLate) (c := 0) (i := 0) (code := 0) (by rw [here]; rfl)
    (by rw [here]; exact uivLate_pending) (by rw [here]; decide)
  have places := congrArg (fun t => (t.ctx 0).pc) (Host.Outcome.next.inj (taken.symm.trans entered))
  simp only [ctx_setCtx, enterUi_pc, here] at places
  rw [uivLate_capture] at places
  exact absurd places (by decide)

end Sys2Proof.Machine
end

section
/-!
O42. A host read that ends in error marks every entry of its number, each with its own address.
-/

namespace Sys2Proof.Machine

theorem exec_hostReadCompletion (c i : Nat) (err : Option (BitVec 2)) (s : State) :
    exec (.hostReadCompletion c i err) s = execHostReadCompletion c i err s := rfl

/-- A host read in error of an entry of a load queue (R219, R221). -/
theorem hostRead_fails {s : State} {c i : Nat} {e : QEntry} (none : (s.ctx c).flightOf i = none) (entry : (s.ctx c).entryOf i = some e)
    (host : e.handle.tgt = 2) (x : BitVec 2) :
    exec (.hostReadCompletion c i (some x)) s =
      .next (s.setCtx c ((s.ctx c).setEntry i fun e => e.fail 21 (hostInfo x (e.handle.va e.off)))) := by
  rw [exec_hostReadCompletion, execHostReadCompletion, State.hostRead]
  simp only [none, entry, host, ne_eq, not_true_eq_false, if_false, event]

/-- An entry of a load queue that reads a host page at an offset. -/
def hostEntry (off : Nat) : QEntry := ⟨0, 0, 0, 0, { Handle.none with tgt := 2 }, off, 0, false, false, none, false, false⟩

/-- A context with two entries of one number in a load queue. -/
def twoEntries : Ctx := { Ctx.reset with q := vset Ctx.reset.q 0 [hostEntry 0, hostEntry 1] }

/-- The details of the failed entries of the first load queue. -/
def Ctx.failures (k : Ctx) : List (Option (Nat × W64)) := (vget k.q 0 []).map QEntry.failed

theorem failures_setEntry (k : Ctx) (i : Nat) (f : QEntry → QEntry) :
    (k.setEntry i f).failures = (vget k.q 0 []).map fun e => (if e.id = i then f e else e).failed := by
  have queue : vget (k.setEntry i f).q 0 [] = (vget k.q 0 []).map fun e => if e.id = i then f e else e := by simp [Ctx.setEntry, vget]
  rw [Ctx.failures, queue, List.map_map]
  rfl

theorem twoEntries_failures (f : QEntry → QEntry) :
    (twoEntries.setEntry 0 f).failures = [(f (hostEntry 0)).failed, (f (hostEntry 1)).failed] := by
  have queue : vget twoEntries.q 0 [] = [hostEntry 0, hostEntry 1] := rfl
  rw [failures_setEntry, queue]
  rfl

/-- Refutes O42: an error of a host read marks each entry of the number with its own address, where the statement has all of them marked
with that of the first. A context with two entries of one number, at different offsets, tells them apart. -/
theorem not_resultEvents : ¬ Obligations.ResultEvents := by
  unfold Obligations.ResultEvents
  intro h
  have here : (State.reset.setCtx 0 twoEntries).ctx 0 = twoEntries := ctx_setCtx _ _ _
  have first : twoEntries.entryOf 0 = some (hostEntry 0) := rfl
  obtain ⟨-, -, entries, -⟩ := h (State.reset.setCtx 0 twoEntries) 0 0
  obtain ⟨-, -, host⟩ := entries (hostEntry 0) 0 (by rw [here]; exact first) (by rw [here]; exact List.mem_cons_self ..)
  obtain ⟨-, marked⟩ := host rfl (by rw [here]; rfl)
  have failed := hostRead_fails (s := State.reset.setCtx 0 twoEntries) (c := 0) (i := 0) (e := hostEntry 0) (by rw [here]; rfl)
    (by rw [here]; exact first) rfl 0
  have details := congrArg (fun t => (t.ctx 0).failures) (Host.Outcome.next.inj (failed.symm.trans (marked 0)))
  simp only [ctx_setCtx, here, twoEntries_failures] at details
  exact absurd details (by decide)

end Sys2Proof.Machine
end

section
/-!
O43. A switch answers an allocation with the lowest free place.
-/

namespace Sys2Proof.Machine

theorem exec_exactResultArrival (c i : Nat) (s : State) : exec (.exactResultArrival c i) s = execExactResultArrival c i s := rfl

/-! ### The mirror directory and the other packages (R377) -/

theorem foldl_acked_links (ds : List Nat) (chan : Nat) (s : State) : ∃ l, ds.foldl (fun t d => t.acked d chan) s = { s with links := l } := by
  induction ds generalizing s with
  | nil => exact ⟨s.links, rfl⟩
  | cons d ds ih =>
    obtain ⟨l, hl⟩ := ih (s.acked d chan)
    exact ⟨l, hl⟩

/-- Telling the domain changes the numbers of packets alone (R358, R377). -/
theorem tellDomain_links (s : State) : ∃ l, s.tellDomain = { s with links := l } := foldl_acked_links _ _ s

/-! ### Places on a plane (R375) -/

/-- A place fits among some extents. -/
def fitsAmong (es : List Extent) (n o : Nat) : Prop := o + n ≤ Config.loftSize ∧ ∀ e ∈ es, o + n ≤ e.start ∨ e.start + e.size ≤ o

theorem spaceFree_iff (es : List Extent) (o n : Nat) : spaceFree es o n = true ↔ fitsAmong es n o := by
  simp [spaceFree, fitsAmong]

/-- The smaller of two places. -/
def lower (best : Option Nat) (o : Nat) : Option Nat := some (best.elim o fun b => min b o)

theorem foldl_lower_some (p : Nat → Bool) (os : List Nat) (b : Nat) :
    os.foldl (fun best o => if p o then lower best o else best) (some b) = some ((os.filter p).foldl min b) := by
  induction os generalizing b with
  | nil => rfl
  | cons o os ih =>
    rw [List.foldl_cons]
    cases hp : p o
    · rw [if_neg (by decide), ih, List.filter_cons_of_neg (by rw [hp]; decide)]
    · rw [if_pos rfl, List.filter_cons_of_pos hp]
      exact ih (min b o)

theorem foldl_lower (p : Nat → Bool) (os : List Nat) :
    os.foldl (fun best o => if p o then lower best o else best) none = (os.filter p).min? := by
  induction os with
  | nil => rfl
  | cons o os ih =>
    rw [List.foldl_cons]
    cases hp : p o
    · rw [if_neg (by decide), ih, List.filter_cons_of_neg (by rw [hp]; decide)]
    · rw [if_pos rfl, List.filter_cons_of_pos hp]
      exact foldl_lower_some p os o

/-- The search answers the least of its candidates that fits. -/
theorem lowestFree_eq (es : List Extent) (n : Nat) :
    lowestFree es n = ((0 :: es.map fun e => e.start + e.size).filter fun o => spaceFree es o n).min? := by
  refine (List.foldl_ext _ _ none fun best o _ => ?_).trans (foldl_lower _ _)
  cases best <;> rfl

/-- A least place that fits begins at 0 or where an extent ends. -/
theorem least_fit_candidate {es : List Extent} {n o : Nat} (fit : fitsAmong es n o) (least : ∀ u < o, ¬ fitsAmong es n u) :
    o ∈ 0 :: es.map fun e => e.start + e.size := by
  obtain ⟨room, free⟩ := fit
  rcases Nat.eq_zero_or_pos o with rfl | pos
  · exact List.mem_cons_self ..
  have taken : ∃ e ∈ es, ¬ (o - 1 + n ≤ e.start ∨ e.start + e.size ≤ o - 1) := by
    by_contra none
    push Not at none
    exact least (o - 1) (by omega) ⟨by omega, none⟩
  obtain ⟨e, he, meets⟩ := taken
  refine List.mem_cons_of_mem _ (List.mem_map.2 ⟨e, he, ?_⟩)
  have := free e he
  omega

theorem lowestFree_some {es : List Extent} {n o : Nat} (fit : fitsAmong es n o) (least : ∀ u < o, ¬ fitsAmong es n u) : lowestFree es n = some o := by
  rw [lowestFree_eq, List.min?_eq_some_iff]
  refine ⟨List.mem_filter.2 ⟨least_fit_candidate fit least, (spaceFree_iff ..).2 fit⟩, fun u hu => ?_⟩
  by_contra below
  exact least u (by omega) ((spaceFree_iff ..).1 (List.mem_filter.1 hu).2)

theorem lowestFree_none {es : List Extent} {n : Nat} (full : ∀ o, ¬ fitsAmong es n o) : lowestFree es n = none := by
  rw [lowestFree_eq, List.min?_eq_none_iff, List.filter_eq_nil_iff]
  exact fun o _ free => full o ((spaceFree_iff ..).1 free)

/-! ### Cleared planes (R375) -/

theorem wf_clearPlanes (o n : Nat) (ps : List Nat) {m : List Host.Cell} (h : Memory.wf m = true) : Memory.wf (clearPlanes m o n ps) = true := by
  induction ps generalizing m with
  | nil => exact h
  | cons p ps ih => exact ih (wf_clearCells h _ _)

theorem cellAt_clearPlanes (o n : Nat) (ps : List Nat) {m : List Host.Cell} (h : Memory.wf m = true) (a : Nat) :
    cellAt (clearPlanes m o n ps) a = if ∃ p ∈ ps, loftKey p o ≤ a ∧ a < loftKey p o + n then 0 else cellAt m a := by
  induction ps generalizing m with
  | nil => simp [clearPlanes]
  | cons p ps ih =>
    rw [clearPlanes, ih (wf_clearCells h _ _), cellAt_clearCells h]
    by_cases first : loftKey p o ≤ a ∧ a < loftKey p o + n
    · rw [if_pos first, ite_self]
      exact (if_pos ⟨p, List.mem_cons_self .., first⟩).symm
    · rw [if_neg first]
      refine if_congr ?_ rfl rfl
      simp [first]

/-! ### The switch's answer (R375, R380) -/

/-- The device with one more extent, which reads as zero. -/
def State.withExtent (s : State) (e : Extent) (ps : List Nat) : State :=
  { s with extents := s.extents ++ [e], mem := clearPlanes s.mem e.start e.size ps }

section Allocate

variable {s : State} {tenant : BitVec 16} {mirrored : Bool} {size planes : W64}

/-- The extents that matter to an allocation. -/
theorem mem_onPlanes (on : List Nat) (e : Extent) : e ∈ on.flatMap s.onPlane ↔ e ∈ s.extents ∧ ∃ x ∈ on, e.plane = x ∨ e.mirror = some x := by
  simp only [List.mem_flatMap, State.onPlane, List.mem_filter, Bool.or_eq_true, beq_iff_eq]
  exact ⟨fun ⟨x, hx, he, hp⟩ => ⟨he, x, hx, hp⟩, fun ⟨he, x, hx, hp⟩ => ⟨x, hx, he, hp⟩⟩

theorem held_eq (x : Nat) :
    s.held tenant x = ((s.extents.filter fun e => (e.plane == x || e.mirror == some x) && e.tenant == tenant).map Extent.size).sum := by
  rw [State.held, State.onPlane, List.filter_filter, List.sum_eq_foldl]
  simp only [Bool.and_comm]

section Reached

variable (alive : ∀ x ∈ allocPlanes mirrored planes, x ∉ s.lost)

include alive

theorem none_lost : (allocPlanes mirrored planes).find? s.lost.contains = none := by
  rw [List.find?_eq_none]
  intro x hx
  rw [List.contains_iff_mem]
  exact alive x hx

/-- A tenant that the first plane's quota does not cover takes QUOTA. -/
theorem allocate_quota (over' : s.quotaOf tenant (bits planes.toNat 0 5) < s.held tenant (bits planes.toNat 0 5) + size.toNat) :
    s.allocate tenant mirrored size planes = .error ⟨18, 5, BitVec.ofNat 64 (quotaInfo (bits planes.toNat 0 5) size), true, none⟩ := by
  have first : (allocPlanes mirrored planes).find? (fun p => decide (s.quotaOf tenant p < s.held tenant p + size.toNat)) = some (bits planes.toNat 0 5) := by
    cases mirrored <;> simp [allocPlanes, over']
  simp only [State.allocate, none_lost alive, first]

variable (quota : ∀ x ∈ allocPlanes mirrored planes, s.held tenant x + size.toNat ≤ s.quotaOf tenant x)
  (room : mirrored = true → s.mirrors.length + s.heldMirrors < 256)

include quota room

omit alive in
/-- The checks before the search for a place. -/
theorem allocate_checks : (allocPlanes mirrored planes).find? (fun p => decide (s.quotaOf tenant p < s.held tenant p + size.toNat)) = none ∧
    ¬ (mirrored ∧ s.mirrorsFull = true) := by
  refine ⟨?_, fun ⟨two, full⟩ => absurd (room two) (Nat.not_lt.2 (of_decide_eq_true full))⟩
  rw [List.find?_eq_none]
  intro x hx
  rw [decide_eq_true_eq, Nat.not_lt]
  exact quota x hx

theorem allocate_none (place : lowestFree ((allocPlanes mirrored planes).flatMap s.onPlane) size.toNat = none) :
    s.allocate tenant mirrored size planes = .ok (s, none) := by
  obtain ⟨within, space⟩ := allocate_checks quota room
  simp only [State.allocate, none_lost alive, within, if_neg space, place]

theorem allocate_some {o : Nat} (place : lowestFree ((allocPlanes mirrored planes).flatMap s.onPlane) size.toNat = some o) :
    ∃ l, s.allocate tenant mirrored size planes = .ok ({ s.withExtent ⟨bits planes.toNat 0 5, o, size.toNat, tenant,
      if mirrored then some (bits planes.toNat 8 5) else none⟩ (allocPlanes mirrored planes) with links := l }, some o) := by
  obtain ⟨within, space⟩ := allocate_checks quota room
  simp only [State.allocate, none_lost alive, within, if_neg space, place]
  cases mirrored with
  | false => exact ⟨s.links, rfl⟩
  | true =>
    obtain ⟨l, hl⟩ := tellDomain_links (s.withExtent ⟨bits planes.toNat 0 5, o, size.toNat, tenant, some (bits planes.toNat 8 5)⟩ (allocPlanes true planes))
    exact ⟨l, congrArg (fun t => Except.ok (t, some o)) hl⟩

end Reached

end Allocate

/-! ### The answer reaches its context (R17, R375, R380) -/

section Answers

variable {s : State} {c i : Nat} {f : Flight} {mirrored : Bool} {size planes : W64} (flight : (s.ctx c).flightOf i = some f) (exact' : f.elastic = false)
  (free : (s.ctx c).trapped f = false) (redo : f.redo = some (.lalloc mirrored size planes))

include flight exact' free redo

theorem arrives_alloc : exec (.exactResultArrival c i) s = .next (s.answerAlloc c f mirrored size planes) ∧ f.id = i := by
  have number : f.id = i := by
    have found := List.find?_some flight
    simp only [Bool.and_eq_true, beq_iff_eq] at found
    exact found.1
  refine ⟨?_, number⟩
  rw [exec_exactResultArrival, execExactResultArrival, State.arriveExact]
  simp [flight, exact', free, redo, event]

theorem alloc_refused {r : TrapRec} (h : s.allocate (s.ctx c).sr.tenant mirrored size planes = .error r) :
    exec (.exactResultArrival c i) s = .next (s.setCtx c ((s.ctx c).failFlight i r)) := by
  obtain ⟨arrives, rfl⟩ := arrives_alloc flight exact' free redo
  rw [arrives, State.answerAlloc, h]

theorem alloc_none (h : s.allocate (s.ctx c).sr.tenant mirrored size planes = .ok (s, none)) :
    exec (.exactResultArrival c i) s = .next (s.setCtx c ((s.ctx c).answer i 0 false)) := by
  obtain ⟨arrives, rfl⟩ := arrives_alloc flight exact' free redo
  rw [arrives, State.answerAlloc, h]
  rfl

theorem alloc_some {t : State} {o : Nat} (h : s.allocate (s.ctx c).sr.tenant mirrored size planes = .ok (t, some o)) :
    exec (.exactResultArrival c i) s =
      .next (t.setCtx c ((t.ctx c).answer i (BitVec.ofNat 64 (loftAddr (bits planes.toNat 0 5) o)) true)) := by
  obtain ⟨arrives, rfl⟩ := arrives_alloc flight exact' free redo
  rw [arrives, State.answerAlloc, h]
  rfl

end Answers

/-- Settles O43. -/
theorem loftAllocation : Obligations.LoftAllocation := by
  unfold Obligations.LoftAllocation
  intro s c i f mirrored size planes inv k tenant p q on n used fits flight exact' free redo alive
  have first : bits planes.toNat 0 5 = p := by simp [bits, p]
  have second : bits planes.toNat 8 5 = q := rfl
  have planes_on : allocPlanes mirrored planes = on := by rw [allocPlanes, first, second]
  have held (x : Nat) : s.held tenant x = used x := held_eq x
  have fit (o : Nat) : fitsAmong (on.flatMap s.onPlane) n o ↔ fits o := by
    simp only [fitsAmong, mem_onPlanes, fits, and_imp]
  have alive' : ∀ x ∈ allocPlanes mirrored planes, x ∉ s.lost := planes_on ▸ alive
  refine ⟨fun quota room => ?_, fun quota => ?_⟩
  · have quota' : ∀ x ∈ allocPlanes mirrored planes, s.held tenant x + n ≤ s.quotaOf tenant x := fun x hx => by
      rw [held]
      exact quota x (planes_on ▸ hx)
    refine ⟨fun o place least => ?_, fun full => ?_⟩
    · have found : lowestFree ((allocPlanes mirrored planes).flatMap s.onPlane) size.toNat = some o := by
        rw [planes_on]
        exact lowestFree_some ((fit o).2 place) fun u hu h => least u hu ((fit u).1 h)
      obtain ⟨l, answered⟩ := allocate_some alive' quota' room found
      rw [planes_on, first, second] at answered
      refine ⟨_, alloc_some flight exact' free redo answered, rfl, fun x hx j hj => ?_, ?_⟩
      · rw [setCtx_mem]
        show cellAt (clearPlanes s.mem o n on) (loftKey x (o + j)) = 0
        rw [cellAt_clearPlanes _ _ _ inv.mem]
        refine if_pos ⟨x, hx, ?_⟩
        unfold loftKey
        omega
      · rw [ctx_setCtx, first]
        rfl
    · have none : lowestFree ((allocPlanes mirrored planes).flatMap s.onPlane) size.toNat = none := by
        rw [planes_on]
        exact lowestFree_none fun o h => full o ((fit o).1 h)
      exact alloc_none flight exact' free redo (allocate_none alive' quota' room none)
  · have refused := allocate_quota (tenant := tenant) (size := size) alive' (by rw [first, held]; exact quota)
    rw [first] at refused
    exact alloc_refused flight exact' free redo refused

end Sys2Proof.Machine
end

section
/-!
What the device's shared operations change: tokens, bins, and the commands that are done.
-/

namespace Sys2Proof.Machine

/-! ### Tokens (R256, R279) -/

theorem fire_regs (k : Ctx) (t code : Nat) : (k.fire t code).regs = k.regs := by
  unfold Ctx.fire
  split <;> rfl

/-- A completing token changes the tokens and contexts alone. -/
theorem finishTok_shape (s : State) (t code : Nat) : ∃ toks ctxs, s.finishTok t code = { s with toks := toks, ctxs := ctxs } := by
  unfold State.finishTok
  split
  · split
    · exact ⟨_, _, rfl⟩
    · exact ⟨_, s.ctxs, rfl⟩
  · exact ⟨s.toks, s.ctxs, rfl⟩

/-- A context is as it was, or its interrupts have fired. -/
theorem ctx_finishTok (s : State) (t code d : Nat) : (s.finishTok t code).ctx d = s.ctx d ∨ (s.finishTok t code).ctx d = (s.ctx d).fire t code := by
  unfold State.finishTok
  split
  · next o _ =>
    split
    · by_cases same : d = o
      · subst same
        exact .inr (ctx_setCtx ..)
      · exact .inl (ctx_setCtx_ne _ _ _ _ same)
    · exact .inl rfl
  · exact .inl rfl

theorem finishTok_regs (s : State) (t code d : Nat) : ((s.finishTok t code).ctx d).regs = (s.ctx d).regs := by
  rcases ctx_finishTok s t code d with h | h <;> rw [h]
  exact fire_regs ..

section Tokens

variable (s : State) (t code : Nat)

/-- The tokens after one completes. -/
theorem alGet_finishTok_ne {u : Nat} (h : u ≠ t) : alGet (s.finishTok t code).toks u = alGet s.toks u := by
  unfold State.finishTok
  split
  · split <;> exact alGet_alSet_ne _ _ _ _ h
  · rfl

theorem alGet_finishTok_open {o : Nat} (h : alGet s.toks t = some ⟨o, none⟩) : alGet (s.finishTok t code).toks t = some ⟨o, some code⟩ := by
  unfold State.finishTok
  simp only [h]
  split <;> exact alGet_alSet ..

theorem alGet_finishTok_closed (h : ∀ o, alGet s.toks t ≠ some ⟨o, none⟩) : (s.finishTok t code).toks = s.toks := by
  unfold State.finishTok
  split
  · next o hn => exact absurd hn (h o)
  · rfl

theorem completes_finishTok : s.completes (s.finishTok t code) t code := by
  intro o h
  have now := alGet_finishTok_open s t code h
  simp only [State.tokDone, State.tokCode, now]
  trivial

end Tokens

/-- A token that is complete keeps its code. -/
theorem finishTok_done {s : State} {u : Nat} (h : s.tokDone (some u) = true) (t code : Nat) :
    (s.finishTok t code).tokDone (some u) = true ∧ (s.finishTok t code).tokCode (some u) = s.tokCode (some u) := by
  have same : alGet (s.finishTok t code).toks u = alGet s.toks u := by
    by_cases hu : u = t
    · subst hu
      rw [alGet_finishTok_closed s u code fun o ho => by simp [State.tokDone, ho] at h]
    · exact alGet_finishTok_ne s t code hu
  refine ⟨?_, by simp only [State.tokCode, same]⟩
  simp only [State.tokDone, same] at h ⊢
  exact h

/-- What has completed stays so while others complete. -/
theorem State.completes.finishTok {s u : State} {tok code : Nat} (h : s.completes u tok code) (t code' : Nat) : s.completes (u.finishTok t code') tok code :=
  fun o ho => by
    obtain ⟨done, rfl⟩ := h o ho
    exact finishTok_done done t code'

/-! ### Commands that are done (R235, R256) -/

theorem refence_lines (s : State) (c : Nat) : ∃ lines, s.refence c = { s with lines := lines } := by
  unfold State.refence
  split
  · exact ⟨_, rfl⟩
  · exact ⟨s.lines, rfl⟩

/-- A command that is done changes the contexts and the L1 lines alone. -/
theorem cmdDone_shape (s : State) (c id : Nat) : ∃ ctxs lines, s.cmdDone c id = { s with ctxs := ctxs, lines := lines } := by
  obtain ⟨lines, h⟩ := refence_lines s c
  unfold State.cmdDone
  rw [h]
  by_cases none : (s.ctx c).stores.isEmpty = true
  · exact ⟨s.ctxs, s.lines, if_pos none⟩
  · exact ⟨_, lines, if_neg none⟩

theorem refence_ctx (s : State) (c d : Nat) : (s.refence c).ctx d = s.ctx d := by
  obtain ⟨lines, h⟩ := refence_lines s c
  rw [h]
  rfl

theorem cmdDone_ctx (s : State) (c id d : Nat) : ∃ ps, (s.cmdDone c id).ctx d = { s.ctx d with stores := ps } := by
  by_cases none : (s.ctx c).stores.isEmpty = true
  · have same : s.cmdDone c id = s := if_pos none
    exact ⟨(s.ctx d).stores, by rw [same]⟩
  · have after : s.cmdDone c id = (s.refence c).setCtx c { s.ctx c with stores := dropFences ((s.ctx c).stores.map (Pend.without id)) } := if_neg none
    by_cases same : d = c
    · subst same
      exact ⟨_, by rw [after, ctx_setCtx]⟩
    · exact ⟨(s.ctx d).stores, by rw [after, ctx_setCtx_ne _ _ _ _ same, refence_ctx]⟩

theorem cmdDone_regs (s : State) (c id d : Nat) : ((s.cmdDone c id).ctx d).regs = (s.ctx d).regs := by
  obtain ⟨ps, h⟩ := cmdDone_ctx s c id d
  rw [h]

/-! ### Bins (R271, R297) -/

theorem bin_setBin (s : State) (key : Nat) (b : Bin) : (s.setBin key b).bin key = b := by
  rw [State.bin, State.setBin, alGet_alSet]
  rfl

theorem bin_setBin_ne (s : State) {key key' : Nat} (b : Bin) (h : key' ≠ key) : (s.setBin key b).bin key' = s.bin key' := by
  rw [State.bin, State.setBin, alGet_alSet_ne _ _ _ _ h, State.bin]

/-- A bin that its walk has landed and nobody has acquired becomes free (R297). -/
def Bin.unread (b : Bin) : Bin := { b with state := 0, readers := 0, tenant := none }

theorem freeUnread_shape (cl : Nat) (ls : List Landed) (s : State) : ∃ bins, freeUnread s cl ls = { s with bins := bins } := by
  induction ls generalizing s with
  | nil => exact ⟨s.bins, rfl⟩
  | cons l ls ih =>
    rw [freeUnread]
    split
    · obtain ⟨bins, h⟩ := ih (s.setBin (binKey cl l.bin) { s.bin (binKey cl l.bin) with state := 0, readers := 0, tenant := none })
      exact ⟨bins, h⟩
    · exact ih s

/-- Freeing what is unread frees the full ones among the landed bins. -/
theorem freeUnread_bin (cl b : Nat) (ls : List Landed) (s : State) :
    (freeUnread s cl ls).bin (binKey cl b) =
      if (∃ l ∈ ls, l.bin = b) ∧ (s.bin (binKey cl b)).state = 2 then (s.bin (binKey cl b)).unread else s.bin (binKey cl b) := by
  induction ls generalizing s with
  | nil => simp [freeUnread]
  | cons l ls ih =>
    rw [freeUnread, ih]
    by_cases here : l.bin = b
    · subst here
      by_cases full : (s.bin (binKey cl l.bin)).state = 2
      · have none : ¬ (0 : BitVec 2) = 2 := by decide
        rw [if_pos full, bin_setBin, if_neg fun h => none h.2, if_pos ⟨⟨l, List.mem_cons_self .., rfl⟩, full⟩]
        rfl
      · rw [if_neg full, if_neg fun h => full h.2, if_neg fun h => full h.2]
    · have other : binKey cl b ≠ binKey cl l.bin := fun same => here (Nat.add_left_cancel same).symm
      have bin : (if (s.bin (binKey cl l.bin)).state = 2
          then s.setBin (binKey cl l.bin) { s.bin (binKey cl l.bin) with state := 0, readers := 0, tenant := none } else s).bin (binKey cl b) =
            s.bin (binKey cl b) := by
        split
        · exact bin_setBin_ne _ _ other
        · rfl
      rw [bin]
      refine if_congr (and_congr_left fun _ => ?_) rfl rfl
      simp [here]

end Sys2Proof.Machine
end

section
/-!
O44. An engine command enters its queue, and what its start does.
-/

namespace Sys2Proof.Machine

theorem exec_eQueueEntry (id : Nat) (s : State) : exec (.eQueueEntry id) s = execEQueueEntry id s := rfl
theorem exec_eCommandStart (id : Nat) (s : State) : exec (.eCommandStart id) s = execECommandStart id s := rfl
theorem exec_semwaitTest (id : Nat) (s : State) : exec (.semwaitTest id) s = execSemwaitTest id s := rfl

/-! ### Queues and starts (R253, R254) -/

section Starts

variable {s : State} {c : ECmd} (found : s.findE c.id = some c)

include found

theorem enterE_ok (stage : c.stage = .buffer) (room : eRoom s c.ctx c.eng = true) :
    exec (.eQueueEntry c.id) s = .next { s with ecmds := (s.ecmds.filter fun d => d.id != c.id) ++ [{ c with stage := .queued }] } := by
  rw [exec_eQueueEntry, execEQueueEntry, State.enterE, found]
  simp [stage, room, event]

/-- A command that nothing holds back starts. -/
theorem startE_ok (stage : c.stage = .queued) (tokens : ∀ t ∈ c.waits, s.tokDone (some t) = true) (before : ∀ i ∈ c.after, i ∉ s.outstanding c.ctx)
    (clear : c.waitsFor s = false) (fill : s.fillReady c = true) (ready : s.gleanerReady c = true) (bar : ∀ d, c.op ≠ .bar d) :
    exec (.eCommandStart c.id) s = .next (s.startOp c) := by
  have ks : (c.waits.all fun t => s.tokDone (some t)) = true := List.all_eq_true.2 tokens
  have done : s.allDone c.ctx c.after = true := by
    rw [State.allDone, List.all_eq_true]
    intro i hi
    rw [Bool.not_eq_true', ← Bool.not_eq_true, List.contains_iff_mem]
    exact before i hi
  have queued : (c.stage == .queued) = true := by rw [stage]; rfl
  have goes : s.eReady c = true := by
    unfold State.eReady
    rw [queued, ks, done, clear, fill, ready]
    cases hop : c.op with
    | bar d => exact absurd hop (bar d)
    | _ => rfl
  rw [exec_eCommandStart, execECommandStart, State.startE, found]
  simp [goes, event]

theorem semwaitTest_ok (stage : c.stage = .started) {ref : Nat} {v : W64} {eq : Bool} {cls : BitVec 4} {passed : Bool} (op : c.op = .semwait ref v eq cls passed) :
    exec (.semwaitTest c.id) s = if (passed || semTest (s.sem ref) v eq) = true then .next (s.dropE c 0) else .next s := by
  rw [exec_semwaitTest, execSemwaitTest, State.testSemwait, found]
  simp only [Option.bind_eq_bind, Option.bind_some, op, stage, ne_eq, not_true_eq_false, if_false, event]
  cases passed || semTest (s.sem ref) v eq <;> rfl

end Starts

/-! ### Copies (R267, R268, R274) -/

section Copies

variable (s : State) (c : ECmd)

/-- A copy whose rows are known is in progress, and its bin is filling. -/
def State.copyStarted (lw ctl : W64) (rows : List (Nat × Nat × Nat)) (size : Nat) : State :=
  let t := (s.putE { c with stage := .started, rows := rows }).listDone c
  if ctlBin ctl then t.setBin (binKey (clusterOf c.ctx) (ctlBinNo ctl)) ⟨1, false, 0, BitVec.ofNat 21 size, BitVec.ofNat 23 (lwAddr lw), some c.tenant⟩ else t

variable {s c} {dir : Bool} {h : Handle} {lw ctl : W64} {rows : List (Nat × Nat × Nat)} {size : Nat}

theorem startCopy_rows (known : s.copyRows c = some (rows, size)) (fill : c.op.fillBin = if ctlBin ctl then some (ctlBinNo ctl) else none)
    (parts : c.op.copyParts = some (dir, h, lw, ctl)) : s.startCopy c = s.copyStarted c lw ctl rows size := by
  rw [State.startCopy, State.copyStarted, known, parts, fill]
  cases ctlBin ctl <;> rfl

theorem startCopy_none (invalid : s.copyRows c = none) : s.startCopy c = s.dropE c 7 := by
  rw [State.startCopy, invalid]

/-- The rows of a copyg are known exactly if every index is valid. -/
theorem indexRows_eq (mem : List Host.Cell) (cluster list addr rb page : Nat) (ctl : W64) (n : Nat) :
    indexRows mem cluster list addr rb page ctl n =
      if ∀ i < n, leNat (readCells mem (spadKey cluster (list + 4 * i)) 4) % 32 = 0 ∧
        leNat (readCells mem (spadKey cluster (list + 4 * i)) 4) + pageSpan ctl rb ≤ page
      then some ((List.range n).map fun i => (leNat (readCells mem (spadKey cluster (list + 4 * i)) 4), addr + i * rb, rb)) else none := by
  induction n with
  | zero => simp [indexRows]
  | succ n ih =>
    rw [indexRows, ih]
    by_cases earlier : ∀ i < n, leNat (readCells mem (spadKey cluster (list + 4 * i)) 4) % 32 = 0 ∧
        leNat (readCells mem (spadKey cluster (list + 4 * i)) 4) + pageSpan ctl rb ≤ page
    · rw [if_pos earlier, Option.bind_eq_bind, Option.bind_some]
      refine if_congr ⟨fun last i hi => ?_, fun all => all n (Nat.lt_succ_self n)⟩ ?_ rfl
      · rcases Nat.lt_succ_iff_lt_or_eq.1 hi with h | rfl
        · exact earlier i h
        · exact last
      · rw [List.range_succ, List.map_append]
        rfl
    · rw [if_neg earlier, if_neg fun all => earlier fun i hi => all i (Nat.lt_succ_of_lt hi)]
      rfl

/-- A layout record and an extent that a copyx may have (R260, R268). -/
def boxOk (s : State) (c : Nat) (h : Handle) (l : BitVec 192) (addr : Nat) (ctl : W64) : Prop :=
  let f (i : Nat) : Nat := recordAt s.mem (clusterOf c) (l.toNat % 2 ^ 23) i
  let base := l.toNat / 2 ^ 64 % 2 ^ 64
  let rows := l.toNat / 2 ^ 128 % 2 ^ 32
  let planes := l.toNat / 2 ^ 160
  let span := (planes - 1) * f 7 + (rows - 1) * f 6 + f 0
  f 0 % 32 = 0 ∧ 32 ≤ f 0 ∧ f 0 ≤ 4096 ∧ 1 ≤ f 1 ∧ f 1 ≤ 65536 ∧ 1 ≤ f 2 ∧ f 2 ≤ 65536 ∧ f 3 = 0 ∧
    f 4 % 32 = 0 ∧ f 5 % 32 = 0 ∧ f 6 % 32 = 0 ∧ f 7 % 32 = 0 ∧ 1 ≤ rows ∧ rows ≤ f 1 ∧ 1 ≤ planes ∧ planes ≤ f 2 ∧
    base + (planes - 1) * f 5 + (rows - 1) * f 4 + pageSpan ctl (f 0) ≤ pageBytes h.size ∧ (s.ctx c).allots addr span = true ∧ span ≤ 1048576

/-- The fields of a box operand (R260). -/
theorem box_fields (l : BitVec 192) : bits l.toNat 0 23 = l.toNat % 2 ^ 23 ∧ bits l.toNat 64 64 = l.toNat / 2 ^ 64 % 2 ^ 64 ∧
    bits l.toNat 128 32 = l.toNat / 2 ^ 128 % 2 ^ 32 ∧ bits l.toNat 160 32 = l.toNat / 2 ^ 160 := by
  refine ⟨by simp [bits], rfl, rfl, ?_⟩
  have top : l.toNat / 2 ^ 160 < 2 ^ 32 := by
    rw [Nat.div_lt_iff_lt_mul (by decide), ← Nat.pow_add]
    exact l.isLt
  rw [bits, Nat.mod_eq_of_lt top]

theorem boxRows_ok (s : State) (c : Nat) (h : Handle) (l : BitVec 192) (addr : Nat) (ctl : W64) :
    (boxOk s c h l addr ctl → boxRows s c h l addr ctl =
      some ((List.range (l.toNat / 2 ^ 160)).flatMap fun p => (List.range (l.toNat / 2 ^ 128 % 2 ^ 32)).map fun r =>
        (l.toNat / 2 ^ 64 % 2 ^ 64 + p * recordAt s.mem (clusterOf c) (l.toNat % 2 ^ 23) 5 + r * recordAt s.mem (clusterOf c) (l.toNat % 2 ^ 23) 4,
          addr + p * recordAt s.mem (clusterOf c) (l.toNat % 2 ^ 23) 7 + r * recordAt s.mem (clusterOf c) (l.toNat % 2 ^ 23) 6,
          recordAt s.mem (clusterOf c) (l.toNat % 2 ^ 23) 0))) ∧
      (¬ boxOk s c h l addr ctl → boxRows s c h l addr ctl = none) := by
  obtain ⟨at_, base, rows, planes⟩ := box_fields l
  unfold boxRows boxOk
  simp only [at_, base, rows, planes, boxSpan]
  constructor
  · intro ok
    refine if_pos ?_
    simp only [Bool.and_eq_true, beq_iff_eq, decide_eq_true_eq, and_assoc]
    exact ok
  · intro bad
    refine if_neg fun h => bad ?_
    simp only [Bool.and_eq_true, beq_iff_eq, decide_eq_true_eq, and_assoc] at h
    exact h

end Copies

/-! ### Cursors (R292) -/

/-- What a change of a cursor's field leaves of the bits beside it. -/
theorem extract_set_apart (c : Cursor) {lo n : Nat} (v : Nat) (inside : lo + n ≤ 256) {a m : Nat} (apart : a + m ≤ lo ∨ lo + n ≤ a) :
    (c.set lo n v).extractLsb' a m = c.extractLsb' a m := by
  refine BitVec.eq_of_getLsbD_eq fun i hi => ?_
  rw [BitVec.getLsbD_extractLsb', BitVec.getLsbD_extractLsb', BitVec.getLsbD, BitVec.getLsbD, testBit_cursorSet c inside, if_neg (by omega)]

theorem vget_setCursor (k : Ctx) {w : Nat} (hw : w < 8) (v : Cursor) : vget (k.setCursor w v).regs.w w 0 = v := vget_vset k.regs.w w v 0 hw

/-- A cursor with STATE and REASON set (R292). -/
theorem setReason_fields (c : Cursor) (st r : Nat) :
    ((c.setState st).setReason r).state = st % 16 ∧ ((c.setState st).setReason r).reason = r % 256 ∧
      ((c.setState st).setReason r).extractLsb' 0 232 = c.extractLsb' 0 232 ∧ ((c.setState st).setReason r).extractLsb' 240 12 = c.extractLsb' 240 12 := by
  refine ⟨?_, field_set_same _ (by decide) _, ?_, ?_⟩
  · exact (field_set_apart _ (by decide) _ (by decide)).trans (field_set_same _ (by decide) _)
  · exact (extract_set_apart _ _ (by decide) (by decide)).trans (extract_set_apart _ _ (by decide) (by decide))
  · exact (extract_set_apart _ _ (by decide) (by decide)).trans (extract_set_apart _ _ (by decide) (by decide))

theorem setState_fields (c : Cursor) (st : Nat) : (c.setState st).state = st % 16 ∧ (c.setState st).extractLsb' 0 252 = c.extractLsb' 0 252 ∧
    (c.setState st).extractLsb' (252 + 4) (256 - 252 - 4) = c.extractLsb' (252 + 4) (256 - 252 - 4) :=
  ⟨field_set_same _ (by decide) _, extract_set_apart _ _ (by decide) (by decide), extract_set_apart _ _ (by decide) (by decide)⟩

theorem setBudget_fields (c : Cursor) (v : Nat) : (c.setBudget v).budget = v % 65536 ∧ (c.setBudget v).extractLsb' 0 176 = c.extractLsb' 0 176 ∧
    (c.setBudget v).extractLsb' (176 + 16) (256 - 176 - 16) = c.extractLsb' (176 + 16) (256 - 176 - 16) :=
  ⟨field_set_same _ (by decide) _, extract_set_apart _ _ (by decide) (by decide), extract_set_apart _ _ (by decide) (by decide)⟩

/-! ### Walks (R291, R293, R298, R299) -/

section Walks

variable (s : State) (c : ECmd)

/-- A command that leaves the queue without completing a token. -/
theorem passE_shape : ∃ ctxs lines, s.passE c = { s with ecmds := s.ecmds.filter fun d => d.id != c.id, ctxs := ctxs, lines := lines } :=
  cmdDone_shape _ _ _

theorem passE_regs (d : Nat) : ((s.passE c).ctx d).regs = (s.ctx d).regs := cmdDone_regs _ _ _ _

theorem passE_leaves : ∀ e ∈ (s.passE c).ecmds, e.id ≠ c.id := by
  obtain ⟨ctxs, lines, h⟩ := passE_shape s c
  rw [h]
  intro e he
  exact bne_iff_ne.1 (List.mem_filter.1 he).2

/-- A walk that begins under a cursor (R293, R299). -/
theorem addWalk_begins {n : Nat} (hn : n < 8) (v : Cursor) (link : BitVec 128) (again : Bool) :
    let u := (s.passE c).addWalk c.id c.ctx n c.tok v link again
    vget (u.ctx c.ctx).regs.w n 0 = v ∧ u.toks = s.toks ∧ u.mem = s.mem ∧ u.bins = s.bins ∧ (∀ e ∈ u.ecmds, e.id ≠ c.id) ∧
      ∃ w, u.walks = s.walks ++ [w] ∧ w.id = c.id ∧ w.ctx = c.ctx ∧ w.wc = n ∧ w.tok = c.tok ∧ w.hop = 0 ∧ w.link = link ∧ w.next = v.next ∧
        w.restart = again ∧ w.reread = again ∧ w.filling = false ∧ w.landed = [] ∧ w.delivered = 0 ∧ w.endAt = none ∧ w.reason = none := by
  obtain ⟨ctxs, lines, h⟩ := passE_shape s c
  intro u
  have cursor : vget (u.ctx c.ctx).regs.w n 0 = v := by
    have ctx : u.ctx c.ctx = ((s.passE c).ctx c.ctx).setCursor n v := ctx_setCtx _ _ _
    rw [ctx]
    exact vget_setCursor _ hn v
  have commands : ∀ e ∈ u.ecmds, e.id ≠ c.id := passE_leaves s c
  refine ⟨cursor, ?_, ?_, ?_, commands, ?_⟩
  · show (s.passE c).toks = s.toks
    rw [h]
  · show (s.passE c).mem = s.mem
    rw [h]
  · show (s.passE c).bins = s.bins
    rw [h]
  · have walks : (s.passE c).walks = s.walks := by rw [h]
    exact ⟨_, congrArg (· ++ _) walks, rfl, rfl, rfl, rfl, rfl, rfl, rfl, rfl, rfl, rfl, rfl, rfl, rfl, rfl⟩

variable {s} {c' n : Nat} {w : Walk}

theorem walkOf_owner (h : s.walkOf c' n = some w) : w.ctx = c' ∧ w.wc = n := by
  have found := List.find?_some h
  simpa using found

/-- A walk that is stopped: its slot is free, its token complete with code 11, its cursor in STATE 4, and its unread bins free (R298). -/
theorem stopWalk_leaves (hn : n < 8) (h : s.walkOf c' n = some w) :
    s.completes (s.stopWalk w) w.tok 11 ∧ (s.stopWalk w).walks = s.walks.filter (fun y => y.id != w.id) ∧ (s.stopWalk w).mem = s.mem ∧
      vget ((s.stopWalk w).ctx c').regs.w n 0 = ((vget (s.ctx c').regs.w n 0).setState 4).setReason 0 ∧
      ∀ b, (s.stopWalk w).bin (binKey (clusterOf c') b) =
        if (∃ l ∈ w.landed, l.bin = b) ∧ (s.bin (binKey (clusterOf c') b)).state = 2 then (s.bin (binKey (clusterOf c') b)).unread
        else s.bin (binKey (clusterOf c') b) := by
  obtain ⟨rfl, rfl⟩ := walkOf_owner h
  obtain ⟨bins, hbins⟩ := freeUnread_shape (clusterOf w.ctx) w.landed s
  have freed : (freeUnread s (clusterOf w.ctx) w.landed).dropWalk w = { s with bins := bins, walks := s.walks.filter fun x => x.id != w.id } := by
    rw [hbins]
    rfl
  obtain ⟨toks, ctxs, hdone⟩ := finishTok_shape ((freeUnread s (clusterOf w.ctx) w.landed).dropWalk w) w.tok 11
  have completes := completes_finishTok ((freeUnread s (clusterOf w.ctx) w.landed).dropWalk w) w.tok 11
  have regs := finishTok_regs ((freeUnread s (clusterOf w.ctx) w.landed).dropWalk w) w.tok 11 w.ctx
  rw [freed] at hdone completes regs
  have shape : s.stopWalk w = ({ s with bins := bins, walks := s.walks.filter fun x => x.id != w.id }.finishTok w.tok 11).setCtx w.ctx
      (({ s with bins := bins, walks := s.walks.filter fun x => x.id != w.id }.finishTok w.tok 11).ctx w.ctx |>.setCursor w.wc
        (((vget (({ s with bins := bins, walks := s.walks.filter fun x => x.id != w.id }.finishTok w.tok 11).ctx w.ctx).regs.w w.wc 0).setState 4).setReason 0)) := by
    rw [State.stopWalk, freed]
  have same : ({ s with bins := bins, walks := s.walks.filter fun x => x.id != w.id } : State).ctx w.ctx = s.ctx w.ctx := rfl
  rw [same] at regs
  rw [shape, regs]
  refine ⟨completes, ?_, ?_, ?_, fun b => ?_⟩
  · rw [setCtx_walks, hdone]
  · rw [setCtx_mem, hdone]
  · rw [ctx_setCtx]
    exact vget_setCursor _ hn _
  · have bin : (({ s with bins := bins, walks := s.walks.filter fun x => x.id != w.id } : State).finishTok w.tok 11).bin (binKey (clusterOf w.ctx) b) =
        (freeUnread s (clusterOf w.ctx) w.landed).bin (binKey (clusterOf w.ctx) b) := by
      rw [hdone, hbins]
      rfl
    exact bin.trans (freeUnread_bin ..)

end Walks

/-! ### Bindings (R367) -/

theorem alGet_alDel {α : Type} (m : List (Nat × α)) (a : Nat) : alGet (alDel m a) a = none := by
  induction m with
  | nil => rfl
  | cons p m ih =>
    by_cases same : p.1 = a
    · rw [alDel, List.filter_cons_of_neg (by simp [same])]
      exact ih
    · rw [alDel, List.filter_cons_of_pos (by simp [same]), alGet, if_neg same]
      exact ih

theorem alGet_alDel_ne {α : Type} (m : List (Nat × α)) {a b : Nat} (h : b ≠ a) : alGet (alDel m a) b = alGet m b := by
  induction m with
  | nil => rfl
  | cons p m ih =>
    by_cases same : p.1 = a
    · rw [alDel, List.filter_cons_of_neg (by simp [same]), alGet, if_neg (by rw [same]; exact Ne.symm h)]
      exact ih
    · rw [alDel, List.filter_cons_of_pos (by simp [same]), alGet, alGet]
      exact if_congr Iff.rfl rfl ih

/-- A word held back for a channel delivers nothing once the channel is scrubbed. -/
def scrubbed (keys : List Nat) (x : Nat × Payload) : Nat × Payload := if (payloadChan x.2).any keys.contains then (x.1, .empty) else x

theorem scrub_heldWords (s : State) (key j : Nat) : (s.scrub [key]).heldWords j = if j = key then 0 else s.heldWords j := by
  have held : ((s.scrub [key]).links.flatMap fun p => p.2.held) = (s.links.flatMap fun p => p.2.held).map (scrubbed [key]) := by
    rw [State.scrub, List.flatMap_map, List.map_flatMap]
    rfl
  have counts (x : Nat × Payload) : (payloadChan (scrubbed [key] x).2 == some j) = (payloadChan x.2 == some j && j != key) := by
    unfold scrubbed
    cases hx : payloadChan x.2 with
    | none => simp [hx]
    | some i =>
      by_cases hi : i = key
      · have gone : payloadChan Payload.empty = none := rfl
        by_cases hj : j = key
        · simp [hi, hj, gone]
        · simp [hi, gone, Ne.symm hj]
      · by_cases hj : i = j
        · subst hj
          simp [hx, hi]
        · simp [hx, hi, hj]
  unfold State.heldWords
  rw [held, List.filter_map, List.length_map]
  simp only [Function.comp_def, counts]
  by_cases hj : j = key
  · simp [hj]
  · have other : (j != key) = true := bne_iff_ne.2 hj
    simp only [other, Bool.and_true, if_neg hj]

theorem findE_mem {s : State} {c : ECmd} (found : s.findE c.id = some c) : c ∈ s.ecmds := List.mem_of_find?_eq_some found

theorem mem_putE {s : State} {c : ECmd} (found : s.findE c.id = some c) {v : ECmd} (hv : v.id = c.id) : v ∈ (s.putE v).ecmds :=
  List.mem_map.2 ⟨c, findE_mem found, by simp [hv]⟩

theorem startFunbindRecv_leaves {s : State} {c : ECmd} (found : s.findE c.id = some c) (ch : Nat) :
    let key := clusterOf c.ctx * 256 + ch
    let u := s.startFunbindRecv c ch
    alGet u.claims key = none ∧ alGet u.chans key = none ∧ u.heldWords key = 0 ∧
      (∀ j, j ≠ key → alGet u.claims j = alGet s.claims j ∧ alGet u.chans j = alGet s.chans j ∧ u.heldWords j = s.heldWords j) ∧
      { c with stage := .started, op := .funbindRecv ch (decide ((alGet s.chans key).getD [] ≠ [] ∨ s.heldWords key ≠ 0)) } ∈ u.ecmds := by
  intro key u
  have words (j : Nat) : u.heldWords j = if j = key then 0 else s.heldWords j := scrub_heldWords s key j
  have lost : (!((alGet s.chans key).getD []).isEmpty || s.heldWords key != 0) = decide ((alGet s.chans key).getD [] ≠ [] ∨ s.heldWords key ≠ 0) := by
    rw [Bool.eq_iff_iff]
    simp
  refine ⟨alGet_alDel .., alGet_alDel .., (words key).trans (if_pos rfl), fun j hj =>
    ⟨alGet_alDel_ne _ hj, alGet_alDel_ne _ hj, (words j).trans (if_neg hj)⟩, ?_⟩
  rw [← lost]
  exact mem_putE (s := { s.scrub [key] with claims := alDel s.claims key, chans := alDel s.chans key }) found rfl

/-- The first command of a kind keeps its place as its stage changes. -/
theorem find_putE {s : State} {c : ECmd} (found : s.findE c.id = some c) {p : ECmd → Bool} (first : s.ecmds.find? p = some c) {v : ECmd} (hv : v.id = c.id)
    (hp : p v = true) : (s.putE v).ecmds.find? p = some v := by
  unfold State.findE at found
  show (s.ecmds.map fun d => if d.id == v.id then v else d).find? p = some v
  rw [hv]
  generalize s.ecmds = es at found first
  induction es with
  | nil => cases found
  | cons e es ih =>
    rw [List.map_cons]
    by_cases he : e.id = c.id
    · rw [if_pos (beq_iff_eq.2 he), List.find?_cons_of_pos hp]
    · rw [List.find?_cons_of_neg (by simpa using he)] at found
      have skip : ¬ p e = true := fun pe => by
        rw [List.find?_cons_of_pos pe] at first
        cases first
        exact he rfl
      rw [List.find?_cons_of_neg skip] at first
      rw [if_neg (by simpa using he), List.find?_cons_of_neg skip]
      exact ih found first

theorem drained_iff (e : SendQ) : e.drained = true ↔ e.closed = true ∧ e.entries = [] := by
  simp [SendQ.drained]

theorem noPackage_iff (s : State) (a : W64) :
    s.noPackage (adDevice a) = true ↔ a.toNat / 2 ^ 44 ≠ s.device.toNat ∧ (a.toNat / 2 ^ 44 ∈ s.unreachable ∨ a.toNat / 2 ^ 44 ∉ s.present) := by
  have dev : adDevice a = a.toNat / 2 ^ 44 := by
    refine Nat.mod_eq_of_lt ?_
    have := a.isLt
    omega
  simp [State.noPackage, dev]

section Sends

variable {s : State} {c : ECmd} {q : Nat}

theorem startFunbindSend_none (gone : s.sendOf q = none) : s.startFunbindSend c q = s.dropE c 0 := by
  rw [State.startFunbindSend, gone]

variable {e : SendQ} (queue : s.sendOf q = some e)

include queue

theorem startFunbindSend_unreachable (waits : ¬ e.drained = true) (gone : s.noPackage (adDevice e.addr) = true) :
    s.startFunbindSend c q = (s.putE { c with stage := .started }).dropE c 15 := by
  rw [State.startFunbindSend, queue]
  simp [waits, gone]

theorem startFunbindSend_waits (waits : ¬ e.drained = true) (there : ¬ s.noPackage (adDevice e.addr) = true) :
    s.startFunbindSend c q = s.putE { c with stage := .started } := by
  rw [State.startFunbindSend, queue]
  simp [there, State.endSend, waits]

theorem startFunbindSend_done (found : s.findE c.id = some c) (drained : e.drained = true)
    (first : s.ecmds.find? (fun d => d.op == .funbindSend e.id) = some c) :
    s.startFunbindSend c q = ((s.putE { c with stage := .started }).setSend e.id none).dropE c 0 := by
  have kind : (c.op == .funbindSend e.id) = true := List.find?_some (p := fun d : ECmd => d.op == .funbindSend e.id) first
  have kept := find_putE found first (v := { c with stage := .started }) rfl kind
  rw [State.startFunbindSend, queue]
  simp only [drained, Bool.not_true, Bool.false_and, Bool.false_eq_true, if_false, State.endSend, if_true, kept]
  rfl

end Sends

/-! ### Bins and extents (R273, R275, R278, R376) -/

theorem killBinFill_none {s : State} {cl n : Nat} (commands : ∀ d ∈ s.ecmds, d.stage = .started → clusterOf d.ctx = cl → d.op.fillBin ≠ some n)
    (walks : ∀ w ∈ s.walks, clusterOf w.ctx = cl → w.filling = false) : s.killBinFill cl n = s := by
  have command : s.ecmds.find? (fun d => d.stage == .started && d.op.fillBin == some n && clusterOf d.ctx == cl) = none := by
    rw [List.find?_eq_none]
    intro d hd
    simp only [Bool.and_eq_true, beq_iff_eq, not_and]
    exact fun ⟨started, fills⟩ there => commands d hd started there fills
  have walk : s.walkFilling cl n = none := by
    rw [State.walkFilling, List.find?_eq_none]
    intro w hw
    simp only [Bool.and_eq_true, beq_iff_eq, not_and]
    exact fun ⟨there, fills⟩ => absurd fills (by rw [walks w hw there]; decide)
  rw [State.killBinFill, command]
  simp only [walk]

theorem startBinkill_frees {s : State} {c : ECmd} {n : Nat} (used : (s.bin (binKey (clusterOf c.ctx) n)).state ≠ 0)
    (commands : ∀ d ∈ s.ecmds, d.stage = .started → clusterOf d.ctx = clusterOf c.ctx → d.op.fillBin ≠ some n)
    (walks : ∀ w ∈ s.walks, clusterOf w.ctx = clusterOf c.ctx → w.filling = false) :
    s.startBinkill c n = (s.setBin (binKey (clusterOf c.ctx) n) (s.bin (binKey (clusterOf c.ctx) n)).release).dropE c 0 := by
  simp only [State.startBinkill, killBinFill_none commands walks, if_neg used]

/-! ### Images (R298) -/

/-- An image that wrest takes. -/
theorem imageOk_iff (s : State) (c : Nat) (v : Cursor) : imageOk s c v = true ↔
    1 ≤ v.state ∧ v.state ≤ 4 ∧ v.extractLsb' 192 39 = 0 ∧ v.extractLsb' 169 7 = 0 ∧ v.extractLsb' 151 9 = 0 ∧ v.extractLsb' 96 8 = 0 ∧
      v.extractLsb' 52 12 = 0 ∧ 1 ≤ v.z ∧ v.z ≤ 257 ∧ v.land % 128 = 0 ∧
      ∀ i < v.depth, (s.bin (binKey (clusterOf c) (8 * v.group + i))).state = 0 ∨
        (s.bin (binKey (clusterOf c) (8 * v.group + i))).tenant = some (s.ctx c).sr.tenant := by
  have field (lo n : Nat) : v.field lo n = 0 ↔ v.extractLsb' lo n = 0 := by
    rw [← BitVec.toNat_inj, BitVec.extractLsb'_toNat, Nat.shiftRight_eq_div_pow]
    rfl
  simp only [imageOk, binsUsable, Bool.and_eq_true, beq_iff_eq, decide_eq_true_eq, field, List.all_eq_true, List.mem_range, Bool.or_eq_true, and_assoc]

section Gleaner

variable {s : State} {c : ECmd}

theorem liveWalk_some {n : Nat} {w : Walk} (state : (vget (s.ctx c.ctx).regs.w n 0).state = 1 ∨ (vget (s.ctx c.ctx).regs.w n 0).state = 2)
    (walk : s.walkOf c.ctx n = some w) : s.liveWalk c.ctx n = some w := (if_pos state).trans walk

theorem liveWalk_none {n : Nat} (dead : ∀ w, ¬ (((vget (s.ctx c.ctx).regs.w n 0).state = 1 ∨ (vget (s.ctx c.ctx).regs.w n 0).state = 2) ∧
    s.walkOf c.ctx n = some w)) : s.liveWalk c.ctx n = none := by
  unfold State.liveWalk
  by_cases state : (vget (s.ctx c.ctx).regs.w n 0).state = 1 ∨ (vget (s.ctx c.ctx).regs.w n 0).state = 2
  · simp only [if_pos state]
    cases walk : s.walkOf c.ctx n with
    | none => rfl
    | some w => exact absurd ⟨state, walk⟩ (dead w)
  · exact if_neg state

theorem slotFree_ok (free : (s.walks.filter fun w => clusterOf w.ctx == clusterOf c.ctx).length < 64) : s.slotFree c.ctx = true := decide_eq_true free

end Gleaner

end Sys2Proof.Machine
end

section
/-!
O44. The starts of the engine commands, one by one.
-/

namespace Sys2Proof.Machine

section Starting

variable {s : State} {c : ECmd}

theorem fillReady_plain (h : c.op.fillBin = none) : s.fillReady c = true := by rw [State.fillReady, h]

end Starting

/-- Settles O44: each command's start, by its kind. -/
theorem engineCommandsStart : Obligations.EngineCommandsStart := by
  unfold Obligations.EngineCommandsStart
  intro s c found done started goes cl passes copies
  refine ⟨enterE_ok found, fun stage tokens before clear => ?_, fun ref v eq cls passed stage op => semwaitTest_ok found stage op⟩
  have start := startE_ok found stage tokens before clear
  have goesWith {t : State} (fill : s.fillReady c = true) (ready : s.gleanerReady c = true) (bar : ∀ d, c.op ≠ .bar d) (h : s.startOp c = t) :
      started = .next t := (start fill ready bar).trans (by rw [h])
  have plain {t : State} (op : c.op.fillBin = none) (ready : s.gleanerReady c = true) (bar : ∀ d, c.op ≠ .bar d) (h : s.startOp c = t) :
      started = .next t := goesWith (fillReady_plain op) ready bar h
  refine ⟨?_, ?_, ?_, ?_, ?_, ?_, ?_, ?_, ?_, ?_, ?_, ?_⟩
  · intro ks op
    exact plain (by rw [op]; rfl) (by rw [State.gleanerReady, op]) (by rw [op]; nofun) (by rw [State.startOp, op]; rfl)
  · intro ref v eq cls passed op
    refine plain (by rw [op]; rfl) (by rw [State.gleanerReady, op]) (by rw [op]; nofun) ?_
    rw [State.startOp, op]
    show s.putE ({ c with stage := .started }.retest ref (s.sem ref)) = _
    rw [ECmd.retest, op]
    exact congrArg s.putE (if_pos ⟨rfl, rfl⟩)
  · intro h o x y m k op
    exact plain (by rw [op]; rfl) (by rw [State.gleanerReady, op]) (by rw [op]; nofun) (by rw [State.startOp, op])
  · intro get h o dev a n op
    exact plain (by rw [op]; rfl) (by rw [State.gleanerReady, op]) (by rw [op]; nofun) (by rw [State.startOp, op])
  · intro hf h a arg again snap op
    exact plain (by rw [op]; rfl) (by rw [State.gleanerReady, op]) (by rw [op]; nofun) (by rw [State.startOp, op])
  · intro fill
    have copy {t : State} (ready : s.gleanerReady c = true) (bar : ∀ d, c.op ≠ .bar d) (op : s.startOp c = s.startCopy c) (h : s.startCopy c = t) :
        started = .next t := goesWith fill ready bar (op.trans h)
    refine ⟨?_, ?_, ?_⟩
    · intro dir h o lw n ctl op
      refine copy (by rw [State.gleanerReady, op]) (by rw [op]; nofun) (by rw [State.startOp, op]) ?_
      exact startCopy_rows (by rw [State.copyRows, op]) (by rw [op]; rfl) (by rw [op]; rfl)
    · intro dir h list lw r ctl op index cnt row ok
      have copyg {t : State} := copy (t := t) (by rw [State.gleanerReady, op]) (by rw [op]; nofun) (by rw [State.startOp, op])
      have low : bits r.toNat 0 32 = cnt := by simp [bits, cnt]
      have high : bits r.toNat 32 32 = row := Nat.mod_eq_of_lt (by have := r.isLt; omega)
      have known : s.copyRows c = (indexRows s.mem cl list (lwAddr lw) row (pageBytes h.size) ctl cnt).map fun rs => (rs, cnt * row) := by
        rw [State.copyRows, op]
        simp only [low, high]
        rfl
      rw [indexRows_eq] at known
      refine ⟨fun valid => copyg ?_, fun invalid => copyg ?_⟩
      · refine startCopy_rows (known.trans (by rw [if_pos valid]; rfl)) (by rw [op]; rfl) (by rw [op]; rfl)
      · exact startCopy_none (known.trans (by rw [if_neg invalid]; rfl))
    · intro dir h l lw ctl op f base rows planes span ok
      have copyx {t : State} := copy (t := t) (by rw [State.gleanerReady, op]) (by rw [op]; nofun) (by rw [State.startOp, op])
      obtain ⟨at_, -, low, high⟩ := box_fields l
      have known : s.copyRows c = (boxRows s c.ctx h l (lwAddr lw) ctl).map fun rs => (rs, span) := by
        rw [State.copyRows, op]
        simp only [at_, low, high]
        rfl
      obtain ⟨good, bad⟩ := boxRows_ok s c.ctx h l (lwAddr lw) ctl
      refine ⟨fun valid => copyx ?_, fun invalid => copyx ?_⟩
      · refine startCopy_rows (known.trans (by rw [good valid]; rfl)) (by rw [op]; rfl) (by rw [op]; rfl)
      · exact startCopy_none (known.trans (by rw [bad invalid]; rfl))
  · intro n op key b
    refine (start (fillReady_plain (by rw [op]; rfl)) (by rw [State.gleanerReady, op]) (by rw [op]; nofun)).trans ?_
    rw [State.startOp, op]
    show Host.Outcome.next (s.startBinrel c n) = _
    rw [State.startBinrel]
    split
    · rfl
    · split <;> rfl
  · intro n op key b used commands walks
    refine plain (by rw [op]; rfl) (by rw [State.gleanerReady, op]) (by rw [op]; nofun) ?_
    rw [State.startOp, op]
    exact startBinkill_frees used commands walks
  · intro a op hit
    have lfree {t : State} (h : s.startLfree c a = t) : started = .next t :=
      plain (by rw [op]; rfl) (by rw [State.gleanerReady, op]) (by rw [op]; nofun) (by rw [State.startOp, op]; exact h)
    refine ⟨fun e first => ?_, fun none => ?_⟩
    · intro t
      refine lfree ?_
      rw [State.startLfree]
      have same : s.extents.find? (fun e => loftAddr e.plane e.start == a.toNat && e.tenant == c.tenant) = some e := first
      rw [same]
      rfl
    · refine lfree ?_
      have absent : s.extents.find? (fun e => loftAddr e.plane e.start == a.toNat && e.tenant == c.tenant) = Option.none := by
        rw [List.find?_eq_none]
        exact fun e he => Bool.eq_false_iff.1 (none e he)
      rw [State.startLfree, absent]
  · intro k cursor free sets like live begins
    refine ⟨?_, ?_, ?_, ?_, ?_⟩
    · intro n link land bytes op hn room idle
      have ready : s.gleanerReady c = true := by
        rw [State.gleanerReady, op]
        show (s.slotFree c.ctx && !k.cursorDue n) = true
        rw [slotFree_ok room, idle]
        rfl
      refine ⟨_, (cursor n).setState 1, ⟨plain (by rw [op]; rfl) ready (by rw [op]; nofun) (by rw [State.startOp, op]), ?_⟩, (setState_fields _ 1).1,
        (setState_fields _ 1).2⟩
      exact addWalk_begins s c hn _ link false
    · intro n op hn
      have wstop {t : State} (ready : s.gleanerReady c = true) (h : s.startWstop c n = t) : started = .next t :=
        plain (by rw [op]; rfl) ready (by rw [op]; nofun) (by rw [State.startOp, op]; exact h)
      refine ⟨fun dead => wstop ?_ ?_, fun w alive still => ?_⟩
      · simp only [State.gleanerReady, op, liveWalk_none dead]
      · simp only [State.startWstop, liveWalk_none dead]
      · obtain ⟨completes, walks, mem, cursor', bins⟩ := stopWalk_leaves hn alive.2
        obtain ⟨state, reason, low, high⟩ := setReason_fields (cursor n) 4 0
        refine ⟨s.stopWalk w, _, wstop ?_ ?_, completes, walks, mem, cursor', state, reason, low, high, bins⟩
        · simp only [State.gleanerReady, op, liveWalk_some alive.1 alive.2, still, Bool.not_false]
        · simp only [State.startWstop, liveWalk_some alive.1 alive.2]
    · intro n b op hn
      have wbudget {t : State} (h : s.startWbudget c n b = t) : started = .next t :=
        plain (by rw [op]; rfl) (by rw [State.gleanerReady, op]) (by rw [op]; nofun) (by rw [State.startOp, op]; exact h)
      refine ⟨fun dead => wbudget ?_, fun w alive =>
        ⟨(cursor n).setBudget (if b = 0 then 65535 else b.toNat), wbudget ?_, ?_, ?_⟩⟩
      · simp only [State.startWbudget, liveWalk_none dead]
      · simp only [State.startWbudget, liveWalk_some alive.1 alive.2]
        rfl
      · refine (setBudget_fields ..).1.trans (Nat.mod_eq_of_lt ?_)
        split
        · decide
        · exact b.isLt
      · exact (setBudget_fields ..).2
    · intro n a op other
      refine plain (by rw [op]; rfl) ?_ (by rw [op]; nofun) (by rw [State.startOp, op]; rfl)
      rw [State.gleanerReady, op]
      exact bne_iff_ne.2 other
    · intro n a op hn idle v link ok
      have image : s.wrestImage c a = v := rfl
      have good : imageOk s c.ctx v = true ↔ ok := imageOk_iff s c.ctx v
      have wrest {t : State} (ready : ((v.state == 3 || s.slotFree c.ctx) || !imageOk s c.ctx v) = true) (h : s.startWrest c n a = t) : started = .next t := by
        refine plain (by rw [op]; rfl) ?_ (by rw [op]; nofun) (by rw [State.startOp, op]; exact h)
        rw [State.gleanerReady, op]
        show (!k.cursorDue n && ((s.wrestImage c a).state == 3 || s.slotFree c.ctx || !imageOk s c.ctx (s.wrestImage c a))) = true
        rw [idle, image, ready]
        rfl
      have taken (valid : ok) : s.startWrest c n a = (s.passE c).restartWalk c.id c.ctx n c.tok v := by
        rw [State.startWrest, image]
        exact if_pos (good.2 valid)
      refine ⟨fun invalid => ?_, fun valid three => ?_, fun valid one room => ?_, fun valid again room => ?_⟩
      · have bad : ¬ imageOk s c.ctx v = true := fun h => invalid (good.1 h)
        refine ⟨(cursor n).setState 0, wrest (by simp [bad]) ?_, setState_fields _ 0⟩
        rw [State.startWrest, image]
        exact if_neg bad
      · obtain ⟨ctxs, lines, hpass⟩ := passE_shape s c
        obtain ⟨toks, ctxs', hdone⟩ := finishTok_shape ((s.passE c).setCtx c.ctx (((s.passE c).ctx c.ctx).setCursor n v)) c.tok 0
        have over' : s.startWrest c n a = ((s.passE c).setCtx c.ctx (((s.passE c).ctx c.ctx).setCursor n v)).finishTok c.tok 0 :=
          (taken valid).trans (if_pos three)
        refine ⟨_, wrest (by simp [three]) over', ?_, ?_, ?_, ?_⟩
        · rw [finishTok_regs, ctx_setCtx]
          exact vget_setCursor _ hn v
        · have same : ((s.passE c).setCtx c.ctx (((s.passE c).ctx c.ctx).setCursor n v)).toks = s.toks := by rw [setCtx_toks, hpass]
          have completes := completes_finishTok ((s.passE c).setCtx c.ctx (((s.passE c).ctx c.ctx).setCursor n v)) c.tok 0
          rw [State.completes, same] at completes
          exact completes
        · rw [hdone, setCtx_walks, hpass]
        · rw [hdone, setCtx_mem, hpass]
      · have from1 : s.startWrest c n a = (s.passE c).addWalk c.id c.ctx n c.tok v v.link false :=
          (taken valid).trans ((if_neg (by omega)).trans (if_pos one))
        refine ⟨_, wrest (by simp [slotFree_ok room]) from1, ?_⟩
        exact addWalk_begins s c hn v link false
      · have from2 : s.startWrest c n a = (s.passE c).addWalk c.id c.ctx n c.tok (v.setState 2) v.link true :=
          (taken valid).trans ((if_neg (by omega)).trans (if_neg (by omega)))
        refine ⟨_, v.setState 2, ⟨wrest (by simp [slotFree_ok room]) from2, ?_⟩, (setState_fields v 2).1, (setState_fields v 2).2⟩
        exact addWalk_begins s c hn (v.setState 2) link true
  · intro ch lost op key words
    refine ⟨s.startFunbindRecv c ch, plain (by rw [op]; rfl) (by rw [State.gleanerReady, op]) (by rw [op]; nofun) (by rw [State.startOp, op]), ?_⟩
    exact startFunbindRecv_leaves found ch
  · intro q op v
    have funbind {t : State} (h : s.startFunbindSend c q = t) : started = .next t :=
      plain (by rw [op]; rfl) (by rw [State.gleanerReady, op]) (by rw [op]; nofun) (by rw [State.startOp, op]; exact h)
    refine ⟨fun gone => funbind (startFunbindSend_none gone), fun e queue => ?_⟩
    intro drained dev gone
    have hd := drained_iff e
    have hg := noPackage_iff s e.addr
    exact ⟨fun waits away => funbind (startFunbindSend_unreachable queue (fun h => waits (hd.1 h)) (hg.2 away)),
      fun waits there => funbind (startFunbindSend_waits queue (fun h => waits (hd.1 h)) fun h => there (hg.1 h)),
      fun done' first => funbind (startFunbindSend_done queue found (hd.2 done') first)⟩

end Sys2Proof.Machine
end

section
/-!
O45. Completed copies, bank products and transfers. A range of a loft page is read and written piece by piece; in the tenant's one extent the pieces
join to the range again.
-/

namespace Sys2Proof.Machine

/-! ### Bytes and their numbers -/

theorem leNat_drop (bs : List Byte) (a : Nat) : leNat (bs.drop a) = leNat bs / 256 ^ a := by
  induction a generalizing bs with
  | zero => simp
  | succ a ih =>
    cases bs with
    | nil => simp [leNat]
    | cons b bs =>
      have := b.isLt
      rw [List.drop_succ_cons, ih, leNat, Nat.pow_succ', ← Nat.div_div_eq_div_mul]
      congr 1
      omega

theorem leNat_take (bs : List Byte) (n : Nat) : leNat (bs.take n) = leNat bs % 256 ^ n := by
  induction n generalizing bs with
  | zero => simp [leNat, Nat.mod_one]
  | succ n ih =>
    cases bs with
    | nil => simp [leNat]
    | cons b bs =>
      have := b.isLt
      rw [List.take_succ_cons, leNat, leNat, ih, Nat.pow_succ', Nat.mod_mul]
      congr 1
      · omega
      · congr 2
        omega

theorem bits_leNat (bs : List Byte) (a n : Nat) : bits (leNat bs) (8 * a) (8 * n) = leNat ((bs.drop a).take n) := by
  rw [leNat_take, leNat_drop, bits, Nat.pow_mul, Nat.pow_mul]

theorem leNat_take_one (bs : List Byte) (a : Nat) : leNat ((bs.drop a).take 1) = ((bs[a]?).getD 0).toNat := by
  have single (l : List Byte) : leNat (l.take 1) = ((l[0]?).getD 0).toNat := by cases l <;> simp [leNat]
  rw [single, List.getElem?_drop]
  rfl

theorem leNat_leBytes (n x : Nat) : leNat (leBytes n x) = x % 256 ^ n := by
  induction n generalizing x with
  | zero => simp [leBytes, leNat, Nat.mod_one]
  | succ n ih => rw [leBytes, leNat, ih, Nat.pow_succ', Nat.mod_mul, BitVec.toNat_ofNat]

/-- The parts of equal length that a list is made of. -/
theorem part_flatMap {α β : Type} (f : α → List β) {k : Nat} (len : ∀ x, (f x).length = k) (l : List α) {i : Nat} (h : i < l.length) :
    ((l.flatMap f).drop (k * i)).take k = f l[i] := by
  induction l generalizing i with
  | nil => simp at h
  | cons x l ih =>
    cases i with
    | zero => simp [List.take_left' (len x)]
    | succ i => simp [Nat.mul_succ, Nat.add_comm (k * i), ← List.drop_drop, List.drop_left' (len x), ih (Nat.lt_of_succ_lt_succ h)]

theorem length_flatMap_of_length {α β : Type} (f : α → List β) {k : Nat} (len : ∀ x, (f x).length = k) (l : List α) :
    (l.flatMap f).length = k * l.length := by
  simp [List.length_flatMap, len, Nat.mul_comm]

/-- A part of a range that is read. -/
theorem readCells_part {w : Nat} {m : List (Nat × BitVec w)} (h : Memory.wf m = true) (a : Nat) {i n len : Nat} (inside : i + n ≤ len) :
    readCells m (a + i) n = ((readCells m a len).drop i).take n := by
  rw [readCells_eq h, readCells_eq h]
  refine List.ext_getElem (by simp; omega) fun j _ _ => ?_
  simp [Nat.add_assoc]

theorem readCells_append {w : Nat} {m : List (Nat × BitVec w)} (h : Memory.wf m = true) (a n k : Nat) :
    readCells m a n ++ readCells m (a + n) k = readCells m a (n + k) := by
  rw [readCells_part h a (i := n) (n := k) (len := n + k) (by omega), ← Nat.add_zero a, readCells_part h a (i := 0) (n := n) (len := n + k) (by omega)]
  have all : ((readCells m (a + 0) (n + k)).drop n).take k = (readCells m (a + 0) (n + k)).drop n :=
    List.take_of_length_le (by simp [length_readCells])
  rw [Nat.add_zero] at all ⊢
  rw [all, List.drop_zero, List.take_append_drop]

/-! ### A loft page, piece by piece -/

theorem pieces_step (o : Nat) {n : Nat} (h : 0 < n) : pieces o n = (o, min 32 n) :: pieces (o + 32) (n - 32) := by
  have count : (n + 31) / 32 = (n - 32 + 31) / 32 + 1 := by omega
  rw [pieces, pieces, count, List.range_succ_eq_map, List.map_cons, List.map_map]
  congr 1
  refine List.map_congr_left fun i _ => ?_
  simp only [Function.comp, Prod.mk.injEq]
  omega

theorem pieces_zero (o : Nat) : pieces o 0 = [] := rfl

/-- The tenant's one extent in a loft plane, and a range of the page that lies in it. -/
structure OneExtent (s : State) (h : Handle) (tenant : BitVec 16) (e : Extent) : Prop where
  mem : e ∈ s.extents
  owner : e.tenant = tenant
  plane : e.plane = h.plane.toNat
  twin : e.mirror ≠ some e.plane
  one : ∀ x ∈ s.extents, x.tenant = tenant → (x.plane = e.plane ∨ x.mirror = some e.plane) → x = e

section One

variable {s : State} {h : Handle} {tenant : BitVec 16} {e : Extent}

theorem OneExtent.extentOf (only : OneExtent s h tenant e) {a n : Nat} (low : e.start ≤ a) (high : a + n ≤ e.start + e.size) :
    s.extentOf h.plane.toNat a n tenant = some e := by
  have fits : (e.tenant == tenant && (e.plane == h.plane.toNat || e.mirror == some h.plane.toNat) && decide (e.start ≤ a) &&
      decide (a + n ≤ e.start + e.size)) = true := by simp [only.owner, only.plane, low, high]
  unfold State.extentOf
  cases found : s.extents.find? _ with
  | none => exact absurd fits (by simpa using List.find?_eq_none.1 found e only.mem)
  | some x =>
    have holds := List.find?_some found
    simp only [Bool.and_eq_true, Bool.or_eq_true, beq_iff_eq, decide_eq_true_eq] at holds
    obtain ⟨⟨⟨owner, on⟩, -⟩, -⟩ := holds
    rw [only.one x (List.mem_of_find?_eq_some found) owner (by rwa [only.plane])]

theorem OneExtent.loftRead (only : OneExtent s h tenant e) (alive : e.plane ∉ s.lost) {o n : Nat} (low : e.start ≤ h.ppn.toNat * 65536 + o)
    (high : h.ppn.toNat * 65536 + o + n ≤ e.start + e.size) : s.loftRead h o n tenant = loftKey e.plane (h.ppn.toNat * 65536 + o) := by
  have there := only.extentOf low high
  simp only [State.loftRead, there]
  cases e.mirror with
  | none => rfl
  | some m => exact if_neg (by simpa using alive)

theorem OneExtent.storeKeys (only : OneExtent s h tenant e) (ht : h.tgt = 1) {o n : Nat} (low : e.start ≤ h.ppn.toNat * 65536 + o)
    (high : h.ppn.toNat * 65536 + o + n ≤ e.start + e.size) :
    s.storeKeys h o n tenant = (e.plane :: e.mirror.toList).map fun p => loftKey p (h.ppn.toNat * 65536 + o) := by
  have there := only.extentOf low high
  rw [State.storeKeys, if_pos ht]
  simp only [there]
  cases e.mirror <;> rfl

theorem readCells_pieces {m : List Host.Cell} (hw : Memory.wf m = true) (k o n : Nat) :
    ((pieces o n).flatMap fun p => readCells m (k + p.1) p.2) = readCells m (k + o) n := by
  induction n using Nat.strong_induction_on generalizing o with
  | _ n ih =>
    rcases Nat.eq_zero_or_pos n with rfl | pos
    · rfl
    · rw [pieces_step o pos, List.flatMap_cons, ih (n - 32) (by omega)]
      rcases Nat.lt_or_ge n 32 with short | long
      · rw [Nat.min_eq_right short.le, Nat.sub_eq_zero_of_le short.le]
        exact List.append_nil _
      · rw [Nat.min_eq_left long, ← Nat.add_assoc, readCells_append hw, Nat.add_sub_cancel' long]

theorem mem_pieces {o n : Nat} {p : Nat × Nat} (h : p ∈ pieces o n) : o ≤ p.1 ∧ p.1 + p.2 ≤ o + n := by
  obtain ⟨i, hi, rfl⟩ := List.mem_map.1 h
  have := List.mem_range.1 hi
  dsimp only
  omega

theorem loftKey_add (p a o : Nat) : loftKey p (a + o) = loftKey p a + o := by simp only [loftKey, Nat.add_assoc]

/-- In the tenant's one extent the pieces of a read join to the range. -/
theorem OneExtent.pageRead (only : OneExtent s h tenant e) (inv : s.Inv) (ht : h.tgt = 1) (alive : e.plane ∉ s.lost) {o n : Nat}
    (low : e.start ≤ h.ppn.toNat * 65536 + o) (high : h.ppn.toNat * 65536 + o + n ≤ e.start + e.size) :
    s.pageRead h o n tenant = readCells s.mem (loftKey e.plane (h.ppn.toNat * 65536 + o)) n := by
  rw [State.pageRead, if_pos ht, loftKey_add, ← readCells_pieces inv.mem]
  refine List.flatMap_congr fun p hp => ?_
  have inside := mem_pieces hp
  rw [only.loftRead alive (by omega) (by omega), loftKey_add]

theorem loftKey_within {p q i a len : Nat} (hi : i < Config.loftSize) (ha : a + len ≤ Config.loftSize) :
    (loftKey q a ≤ loftKey p i ∧ loftKey p i < loftKey q a + len) ↔ p = q ∧ a ≤ i ∧ i < a + len := by
  have : Config.loftSize < 2 ^ 64 := by decide
  unfold loftKey
  constructor
  · rintro ⟨low, high⟩
    have same : p = q := by omega
    subst same
    omega
  · rintro ⟨rfl, low, high⟩
    omega

/-- A store on some planes changes its bytes there. -/
theorem cellAt_performAll (core : Nat) (bs : List Byte) {a : Nat} (ha : a + bs.length ≤ Config.loftSize) (planes : List Nat) {s : State}
    (hw : Memory.wf s.mem = true) (p : Nat) {i : Nat} (hi : i < Config.loftSize) :
    cellAt (performAll s core bs (planes.map fun q => loftKey q a)).mem (loftKey p i) =
      if p ∈ planes ∧ a ≤ i ∧ i < a + bs.length then (bs[i - a]?).getD 0 else cellAt s.mem (loftKey p i) := by
  induction planes generalizing s with
  | nil => simp [performAll]
  | cons q planes ih =>
    rw [List.map_cons, performAll, ih (wf_writeCells hw _ _)]
    have here : cellAt (s.perform core (loftKey q a) bs).mem (loftKey p i) =
        if p = q ∧ a ≤ i ∧ i < a + bs.length then (bs[i - a]?).getD 0 else cellAt s.mem (loftKey p i) := by
      refine (cellAt_writeCells hw _ _ _).trans (if_ctx_congr (loftKey_within hi ha) (fun inside => ?_) fun _ => rfl)
      obtain ⟨rfl, low, -⟩ := inside
      congr 2
      unfold loftKey
      omega
    rw [here]
    by_cases later : p ∈ planes ∧ a ≤ i ∧ i < a + bs.length
    · rw [if_pos later, if_pos ⟨List.mem_cons_of_mem _ later.1, later.2⟩]
    · rw [if_neg later]
      refine if_congr ?_ rfl rfl
      rw [List.mem_cons]
      tauto

theorem performAll_extents (core : Nat) (bs : List Byte) (ks : List Nat) (s : State) : (performAll s core bs ks).extents = s.extents := by
  induction ks generalizing s with
  | nil => rfl
  | cons k ks ih => exact ih _

theorem wf_performAll (core : Nat) (bs : List Byte) (ks : List Nat) {s : State} (hw : Memory.wf s.mem = true) :
    Memory.wf (performAll s core bs ks).mem = true := by
  induction ks generalizing s with
  | nil => exact hw
  | cons k ks ih => exact ih (wf_writeCells hw _ _)

/-- In the tenant's one extent the pieces of a write change the range, on the plane and on the mirror. -/
theorem OneExtent.cellAt_pageWritePieces (ht : h.tgt = 1) {b : Nat} (hb : h.ppn.toNat * 65536 = b) (fits : e.start + e.size ≤ Config.loftSize) (core : Nat) (bs : List Byte) {o₀ o n : Nat}
    (split : o - o₀ + n = bs.length) (after : o₀ ≤ o) {s : State} (only : OneExtent s h tenant e) (hw : Memory.wf s.mem = true)
    (low : e.start ≤ b + o) (high : b + o + n ≤ e.start + e.size) (p : Nat) {i : Nat} (hi : i < Config.loftSize) :
    cellAt (pageWritePieces s core h tenant bs o₀ (pieces o n)).mem (loftKey p i) =
      if (p = e.plane ∨ e.mirror = some p) ∧ b + o ≤ i ∧ i < b + o + n then
        (bs[i - (b + o₀)]?).getD 0
      else cellAt s.mem (loftKey p i) := by
  induction n using Nat.strong_induction_on generalizing o s with
  | _ n ih =>
    rcases Nat.eq_zero_or_pos n with rfl | pos
    · rw [if_neg (by omega)]
      rfl
    · have part : ((bs.drop (o - o₀)).take (min 32 n)).length = min 32 n := by rw [List.length_take, List.length_drop]; omega
      have member : p ∈ e.plane :: e.mirror.toList ↔ p = e.plane ∨ e.mirror = some p := by cases e.mirror <;> simp [eq_comm]
      have keys := only.storeKeys ht (o := o) (n := min 32 n) (by omega) (by omega)
      rw [hb] at keys
      rw [pieces_step o pos, pageWritePieces, keys]
      rcases Nat.lt_or_ge n 32 with short | long
      · rw [Nat.sub_eq_zero_of_le short.le, pieces_zero, pageWritePieces, cellAt_performAll core _ (by rw [part]; omega) _ hw p hi, part,
          Nat.min_eq_right short.le]
        refine if_ctx_congr (and_congr_left' member) (fun inside => ?_) fun _ => rfl
        rw [List.getElem?_take_of_lt (by omega), List.getElem?_drop]
        congr 2
        omega
      · rw [ih (n - 32) (by omega) (o := o + 32) (by omega) (by omega)
          ⟨by rw [performAll_extents]; exact only.mem, only.owner, only.plane, only.twin, by rw [performAll_extents]; exact only.one⟩
          (wf_performAll _ _ _ hw) (by omega) (by omega), cellAt_performAll core _ (by rw [part]; omega) _ hw p hi, part, Nat.min_eq_left long]
        by_cases later : (p = e.plane ∨ e.mirror = some p) ∧ b + (o + 32) ≤ i ∧ i < b + (o + 32) + (n - 32)
        · rw [if_pos later, if_pos ⟨later.1, by omega, by omega⟩]
        · rw [if_neg later]
          have first (inside : (p = e.plane ∨ e.mirror = some p) ∧ b + o ≤ i ∧ i < b + o + n) : i < b + o + 32 := by
            by_contra beyond
            exact later ⟨inside.1, by omega, by omega⟩
          refine if_ctx_congr ⟨fun in1 => ⟨member.1 in1.1, by omega, by omega⟩, fun in2 => ⟨member.2 in2.1, by omega, first in2⟩⟩ (fun inside => ?_) fun _ => rfl
          · have := first inside
            rw [List.getElem?_take_of_lt (by omega), List.getElem?_drop]
            congr 2
            omega

/-- O45, the first clause. -/
theorem OneExtent.transfers (only : OneExtent s h tenant e) (inv : s.Inv) (ht : h.tgt = 1) (alive : e.plane ∉ s.lost) (core : Nat) (bs : List Byte) {o : Nat}
    (low : e.start ≤ h.ppn.toNat * 65536 + o) (high : h.ppn.toNat * 65536 + o + bs.length ≤ e.start + e.size)
    (fits : e.start + e.size ≤ Config.loftSize) :
    s.pageRead h o bs.length tenant = readCells s.mem (loftKey e.plane (h.ppn.toNat * 65536 + o)) bs.length ∧
    ∀ p i, i < Config.loftSize → cellAt (s.pageWrite core h o tenant bs).mem (loftKey p i) =
      if (p = e.plane ∨ e.mirror = some p) ∧ h.ppn.toNat * 65536 + o ≤ i ∧ i < h.ppn.toNat * 65536 + o + bs.length then
        (bs[i - (h.ppn.toNat * 65536 + o)]?).getD 0
      else cellAt s.mem (loftKey p i) := by
  refine ⟨only.pageRead inv ht alive low high, fun p i hi => ?_⟩
  rw [State.pageWrite, if_pos ht]
  exact OneExtent.cellAt_pageWritePieces ht rfl fits core bs (by omega) (Nat.le_refl o) only inv.mem low high p hi

end One

end Sys2Proof.Machine
end

section
/-!
O45. What the completed transfers leave.
-/

namespace Sys2Proof.Machine

section Completing

variable {s : State} {c : ECmd}

theorem exec_copyComplete (id : Nat) (s : State) : exec (.copyComplete id) s = event "copy command completes" (s.completeCopy id) := rfl
theorem exec_bankComplete (id : Nat) (s : State) : exec (.bankComplete id) s = event "bank command completes" (s.completeBank id) := rfl
theorem exec_xferComplete (id : Nat) (s : State) : exec (.xferComplete id) s = event "xfer completes" (s.completeXfer id) := rfl

theorem perform_mem (core key : Nat) (bs : List Byte) : (s.perform core key bs).mem = writeCells s.mem key bs := rfl

theorem pageFails_of_not_loft {h : Handle} (ht : h.tgt ≠ 1) (o n : Nat) (tenant : BitVec 16) (isLoad : Bool) :
    s.pageFails h o n tenant isLoad = false := by
  rw [State.pageFails, beq_false_of_ne ht, Bool.false_and]

theorem pageRead_of_not_loft {h : Handle} (ht : h.tgt ≠ 1) (o n : Nat) (tenant : BitVec 16) : s.pageRead h o n tenant = h.read s.mem o n := if_neg ht

theorem pageWrite_of_not_loft {h : Handle} (ht : h.tgt ≠ 1) (core o : Nat) (tenant : BitVec 16) (bs : List Byte) :
    s.pageWrite core h o tenant bs = s.perform core (h.key o) bs := if_neg ht

/-! ### Copies -/

theorem expandRun_eq (bs : List Byte) (w k : Nat) : expandRun bs w k =
    (List.range k).flatMap fun i => packBytes w (expandImage ((bs.drop (128 * (4 + 4 * w) * i)).take (128 * (4 + 4 * w))) w 128 0) := by
  induction k generalizing bs with
  | zero => rfl
  | succ k ih =>
    rw [expandRun, ih, List.range_succ_eq_map, List.flatMap_cons, List.flatMap_map]
    simp only [Nat.mul_zero, List.drop_zero, List.drop_drop, Nat.mul_succ, Nat.add_comm]

theorem rowIn_eq (s : State) (h : Handle) (ctl : W64) (tenant : BitVec 16) (o n : Nat) : s.rowIn h ctl tenant o n = s.rowBytes h ctl tenant o n := by
  unfold State.rowIn State.rowBytes
  dsimp only
  by_cases ex : ctlExp ctl = true
  · rw [if_pos ex, if_pos ex, expandRun_eq]
  · rw [if_neg ex, if_neg ex]
    simp [pageSpan, ex]

/-- One row of a copy to or from plain bytes. -/
def State.movesRow (c : ECmd) (dir : Bool) (h : Handle) (ctl : W64) (t : State) (r : Nat × Nat × Nat) : State :=
  if dir then t.pageWrite (coreOf c.ctx) h r.1 c.tenant (readCells t.mem (spadKey (clusterOf c.ctx) r.2.1) r.2.2)
  else { t with
    mem := writeCells t.mem (spadKey (clusterOf c.ctx) r.2.1) (t.rowBytes h ctl c.tenant r.1 r.2.2)
    tags := if ctlFull ctl then setTags t.tags (clusterOf c.ctx) r.2.1 (List.replicate (r.2.2 / 4) true) else t.tags }

theorem moveRows_eq (dir : Bool) (h : Handle) {lw : W64} (plain : lwKind lw ≠ 1) (ctl : W64) (rows : List (Nat × Nat × Nat)) :
    moveRows s c dir h lw ctl rows = rows.foldl (State.movesRow c dir h ctl) s := by
  induction rows generalizing s with
  | nil => rfl
  | cons r rows ih =>
    obtain ⟨po, lo, n⟩ := r
    rw [List.foldl_cons, ← ih]
    rw [moveRows]
    congr 1
    unfold State.movesRow
    cases dir with
    | true => simp only [if_true, if_neg plain]
    | false =>
      simp only [Bool.false_eq_true, if_false, if_neg plain, rowIn_eq, State.fillTags]
      by_cases full : ctlFull ctl = true
      · rw [if_pos full, if_pos full]
      · rw [if_neg full, if_neg full]

theorem completeCopy_ok (found : s.findE c.id = some c) (stage : c.stage = .started) {dir : Bool} {h : Handle} {lw ctl : W64}
    (parts : c.op.copyParts = some (dir, h, lw, ctl))
    (fine : ∀ r ∈ c.rows, s.pageFails h r.1 (if dir then r.2.2 else pageSpan ctl r.2.2) c.tenant (!dir) = false) :
    exec (.copyComplete c.id) s = .next (((moveRows s c dir h lw ctl c.rows).endFill c true).dropE c 0) := by
  have none_fails : ¬ (c.rows.any fun r => s.pageFails h r.1 (if dir then r.2.2 else pageSpan ctl r.2.2) c.tenant (!dir)) = true := by
    rw [List.any_eq_true]
    rintro ⟨r, hr, bad⟩
    rw [fine r hr] at bad
    cases bad
  have done : s.completeCopy c.id = some (((moveRows s c dir h lw ctl c.rows).endFill c true).dropE c 0) := by
    simp only [State.completeCopy, found, Option.bind_eq_bind, Option.bind_some, parts]
    rw [if_neg (not_not.2 stage), if_neg none_fails]
  rw [exec_copyComplete, done, event]

theorem fillBin_eq {dir : Bool} {h : Handle} {lw ctl : W64} (parts : c.op.copyParts = some (dir, h, lw, ctl)) :
    c.op.fillBin = if ctlBin ctl then some (ctlBinNo ctl) else none := by
  cases op : c.op <;> rw [op] at parts <;> cases parts <;> rfl

theorem endFill_full (t : State) {dir : Bool} {h : Handle} {lw ctl : W64} (parts : c.op.copyParts = some (dir, h, lw, ctl)) :
    t.endFill c true =
      let key := binKey (clusterOf c.ctx) (ctlBinNo ctl)
      if ctlBin ctl then t.setBin key { t.bin key with state := 2 } else t := by
  have fill := fillBin_eq parts
  by_cases hb : ctlBin ctl = true
  · rw [if_pos hb] at fill
    rw [State.endFill, fill]
    exact (if_pos hb).symm
  · rw [if_neg hb] at fill
    rw [State.endFill, fill]
    exact (if_neg hb).symm

/-! ### Copies of a tile -/

theorem toList_readTile (inv : s.Inv) (core t : Nat) {i : Nat} (hi : i < 4096) :
    (s.readTile core t).toList[i]? = some (cellAt s.tiles (tileKey core t + i)) := by
  rw [State.readTile, readCells_eq inv.tiles]
  simp [hi]

theorem word_leBytes (w : W32) : BitVec.ofNat 32 (leNat (leBytes 4 w.toNat)) = w := by
  rw [leNat_leBytes, show (256 : Nat) ^ 4 = 2 ^ 32 from rfl, Nat.mod_eq_of_lt w.isLt, BitVec.ofNat_toNat, BitVec.setWidth_eq]

theorem length_tileBytes (t : Tile) : (tileBytes t).length = 16384 := by
  rw [tileBytes, length_flatMap_of_length _ (fun w : W32 => length_leBytes 4 w.toNat), Vector.length_toList]

theorem tileBytes_part (inv : s.Inv) (core t : Nat) {i : Nat} (hi : i < 4096) :
    BitVec.ofNat 32 (leNat (((tileBytes (s.readTile core t)).drop (4 * i)).take 4)) = cellAt s.tiles (tileKey core t + i) := by
  have len : i < (s.readTile core t).toList.length := by rwa [Vector.length_toList]
  have word := toList_readTile inv core t hi
  rw [List.getElem?_eq_getElem len, Option.some_inj] at word
  rw [tileBytes, part_flatMap _ (fun w : W32 => length_leBytes 4 w.toNat) _ len, word, word_leBytes]

theorem getElem?_wordsOf (n : Nat) (bs : List Byte) {i : Nat} (hi : i < n) :
    (wordsOf n bs)[i]? = some (BitVec.ofNat 32 (leNat ((bs.drop (4 * i)).take 4))) := by
  induction n generalizing bs i with
  | zero => omega
  | succ n ih =>
    cases i with
    | zero => rfl
    | succ i => rw [wordsOf, List.getElem?_cons_succ, ih _ (Nat.lt_of_succ_lt_succ hi), List.drop_drop, Nat.mul_succ, Nat.add_comm]

theorem tileElem_writeTile (inv : s.Inv) (core t : Nat) (bs : List Byte) {i j : Nat} (hi : i < 64) (hj : j < 64) :
    (s.writeTile core t (tileFrom (wordsOf 4096 bs))).tileElem core t i j = BitVec.ofNat 32 (leNat ((bs.drop (256 * i + 4 * j)).take 4)) := by
  have place : tileKey core t + 64 * i + j - tileKey core t = 64 * i + j := by omega
  have word := getElem?_wordsOf 4096 bs (i := 64 * i + j) (by omega)
  rw [show 4 * (64 * i + j) = 256 * i + 4 * j by omega] at word
  rw [State.tileElem, State.writeTile, cellAt_writeCells inv.tiles, if_pos (by rw [Vector.length_toList]; omega), place, tileFrom]
  have inside : 64 * i + j < 4096 := by omega
  simp [inside, word]

/-! ### Bank products -/

theorem foldl_add_eq_sum (g : Nat → Int) (k : Nat) : (List.range k).foldl (fun acc i => acc + g i) 0 = ∑ i ∈ Finset.range k, g i := by
  induction k with
  | zero => rfl
  | succ k ih => rw [List.range_succ, List.foldl_append, ih, Finset.sum_range_succ]; rfl

theorem signedOf_byte (b : Byte) : signedOf 8 b.toNat = b.toInt := by rw [signedOf_eq_toInt, BitVec.ofNat_toNat, BitVec.setWidth_eq]

theorem bankRow_int8 (page vec : List Byte) (k i : Nat) : bankRow .int8 (leNat page) (leNat vec) k i =
    BitVec.ofInt 32 (∑ j ∈ Finset.range k, ((page[k * i + j]?).getD 0).toInt * ((vec[j]?).getD 0).toInt) := by
  have byte (bs : List Byte) (a : Nat) : signedOf 8 (bits (leNat bs) (8 * a) 8) = ((bs[a]?).getD 0).toInt := by
    rw [show bits (leNat bs) (8 * a) 8 = _ from bits_leNat bs a 1, leNat_take_one, signedOf_byte]
  rw [bankRow]
  simp only [if_true, Fmt.width, byte, foldl_add_eq_sum, Nat.mul_comm i k]

/-- The FP32 number of a BF16 element. -/
def bf16At (bs : List Byte) (i : Nat) : Nat := toFp32 .bf16 (leNat ((bs.drop (2 * i)).take 2))

theorem bankRow_bf16 (page vec : List Byte) (k i : Nat) : bankRow .bf16 (leNat page) (leNat vec) k i =
    BitVec.ofNat 32 (((List.range k).map fun j => mulFp32 (bf16At page (k * i + j)) (bf16At vec j)).foldl (addFp32 0) 0) := by
  have elem (bs : List Byte) (a : Nat) : toFp32 .bf16 (bits (leNat bs) (16 * a) 16) = bf16At bs a := by
    rw [show 16 * a = 8 * (2 * a) by omega, show bits (leNat bs) (8 * (2 * a)) 16 = _ from bits_leNat bs (2 * a) 2, bf16At]
  rw [bankRow, if_neg (by decide), List.foldl_map]
  simp only [Fmt.width, elem, mulNE_code, addNE_code, Nat.mul_comm i k]

theorem completeBank_ok (found : s.findE c.id = some c) (stage : c.stage = .started) {h : Handle} {o x y m k : Nat} (op : c.op = .bank h o x y m k)
    {f : Fmt} {w : Nat} (hf : f = if h.bankl = 1 then .int8 else .bf16) (hw : w = if h.bankl = 1 then 1 else 2)
    (fine : s.pageFails h o (m * k * w) c.tenant true = false) :
    exec (.bankComplete c.id) s = .next ({ s with
      mem := writeCells s.mem (spadKey (clusterOf c.ctx) y) ((List.range m).flatMap fun i => leBytes 4
        (bankRow f (leNat (s.pageRead h o (m * k * w) c.tenant)) (leNat (readCells s.mem (spadKey (clusterOf c.ctx) x) (k * w))) k i).toNat) }.dropE c 0) := by
  have width : f.width / 8 = w := by
    rw [hf, hw]
    by_cases one : h.bankl = 1
    · rw [if_pos one, if_pos one]; rfl
    · rw [if_neg one, if_neg one]; rfl
  have done : s.completeBank c.id = some ({ s with
      mem := writeCells s.mem (spadKey (clusterOf c.ctx) y) ((List.range m).flatMap fun i => leBytes 4
        (bankRow f (leNat (s.pageRead h o (m * k * w) c.tenant)) (leNat (readCells s.mem (spadKey (clusterOf c.ctx) x) (k * w))) k i).toNat) }.dropE c 0) := by
    simp only [State.completeBank, found, Option.bind_eq_bind, Option.bind_some, op, ← hf, width]
    rw [if_neg (not_not.2 stage), if_neg (by rw [fine]; exact Bool.false_ne_true)]
  rw [exec_bankComplete, done, event]

/-- The rows of a product stand one after another. -/
theorem bank_leaves {mem : List Host.Cell} (hw : Memory.wf mem = true) (key m : Nat) (row : Nat → W32) :
    (∀ i < m, BitVec.ofNat 32 (leNat (readCells (writeCells mem key ((List.range m).flatMap fun i => leBytes 4 (row i).toNat)) (key + 4 * i) 4)) = row i) ∧
    ∀ a, a < key ∨ key + 4 * m ≤ a → cellAt (writeCells mem key ((List.range m).flatMap fun i => leBytes 4 (row i).toNat)) a = cellAt mem a := by
  have len : ((List.range m).flatMap fun i => leBytes 4 (row i).toNat).length = 4 * m := by
    rw [length_flatMap_of_length _ (fun i => length_leBytes 4 _), List.length_range]
  constructor
  · intro i hi
    have inside : i < (List.range m).length := by rwa [List.length_range]
    rw [readCells_part (wf_writeCells hw _ _) key (len := 4 * m) (by omega), ← len, readCells_writeCells hw,
      part_flatMap _ (fun i => length_leBytes 4 (row i).toNat) _ inside, List.getElem_range, word_leBytes]
  · intro a apart
    rw [cellAt_writeCells hw, if_neg (by rw [len]; omega)]

/-! ### Transfers -/

section Transfer

variable {get : Bool} {h : Handle} {o dev n : Nat} {a : W64}

/-- What a transfer from or to this package's pages leaves, once both pages are known. -/
def State.transfer (t : State) (c : ECmd) (get : Bool) (h : Handle) (o : Nat) (p : Handle) (po n : Nat) : State :=
  if get then t.perform (coreOf c.ctx) (h.key o) (p.read t.mem po n) else t.perform (coreOf c.ctx) (p.key po) (h.read t.mem o n)

variable (found : s.findE c.id = some c) (stage : c.stage = .started) (op : c.op = .xfer get h o dev a n) (ht : h.tgt ≠ 1)
include found stage op ht

theorem completeXfer_nowhere (here : dev = s.device.toNat) {t : State} (far : s.farPage (dieOf c.ctx) c.tenant a.toNat n (!get) = (none, t)) :
    s.completeXfer c.id = some (t.dropE c 18) := by
  simp only [State.completeXfer, found, Option.bind_eq_bind, Option.bind_some, op, far]
  rw [if_neg (not_not.2 stage), if_neg (by rw [pageFails_of_not_loft ht]; exact Bool.false_ne_true), if_pos here]

theorem completeXfer_page (here : dev = s.device.toNat) {p : Handle} {po : Nat} {t : State} (hp : p.tgt ≠ 1)
    (far : s.farPage (dieOf c.ctx) c.tenant a.toNat n (!get) = (some (p, po), t)) :
    s.completeXfer c.id = some ((t.transfer c get h o p po n).dropE c 0) := by
  simp only [State.completeXfer, found, Option.bind_eq_bind, Option.bind_some, op, far, pageFails_of_not_loft hp, pageFails_of_not_loft ht,
    Bool.false_eq_true, if_false, pageWrite_of_not_loft hp, pageRead_of_not_loft hp, pageWrite_of_not_loft ht, pageRead_of_not_loft ht]
  rw [if_neg (not_not.2 stage), if_pos here, State.transfer]
  cases get <;> rfl

theorem completeXfer_away (away : dev ≠ s.device.toNat) : s.completeXfer c.id =
    if !s.present.contains dev || s.unreachable.contains dev then some (s.dropE c 15)
    else if !s.remotePage dev c.tenant a.toNat n (!get) then some ((s.acked dev 2).dropE c 18)
    else if get then some (((s.sent dev 2 (packets n)).perform (coreOf c.ctx) (h.key o) (readCells s.mem (remoteKey dev c.tenant.toNat a.toNat) n)).dropE c 0)
      else some ({ s.sent dev 2 (packets n) with
        mem := writeCells s.mem (remoteKey dev c.tenant.toNat a.toNat) (h.read s.mem o n) }.dropE c 0) := by
  simp only [State.completeXfer, found, Option.bind_eq_bind, Option.bind_some, op]
  rw [if_neg (not_not.2 stage), if_neg (by rw [pageFails_of_not_loft ht]; exact Bool.false_ne_true), if_neg away]
  simp only [pageWrite_of_not_loft ht, pageRead_of_not_loft ht, State.sent]

theorem xfer_away (away : dev ≠ s.device.toNat) :
    (dev ∉ s.present ∨ dev ∈ s.unreachable → exec (.xferComplete c.id) s = .next (s.dropE c 15)) ∧
    (dev ∈ s.present → dev ∉ s.unreachable →
      exec (.xferComplete c.id) s =
        if s.remotePage dev c.tenant a.toNat n (!get) then
          .next ((if get then (s.sent dev 2 (packets n)).perform (coreOf c.ctx) (h.key o) (readCells s.mem (remoteKey dev c.tenant.toNat a.toNat) n)
            else { s.sent dev 2 (packets n) with mem := writeCells s.mem (remoteKey dev c.tenant.toNat a.toNat) (h.read s.mem o n) }).dropE c 0)
        else .next ((s.acked dev 2).dropE c 18)) := by
  have whole := completeXfer_away found stage op ht away
  constructor
  · intro gone
    rw [if_pos (by simpa using gone)] at whole
    rw [exec_xferComplete, whole, event]
  · intro there near
    rw [if_neg (by simpa using ⟨there, near⟩)] at whole
    rw [exec_xferComplete, whole]
    by_cases page : s.remotePage dev c.tenant a.toNat n (!get) = true
    · rw [if_neg (by simpa using page), if_pos page]
      cases get <;> rfl
    · rw [if_pos (by simpa using page), if_neg page, event]

theorem xfer_here_none (here : dev = s.device.toNat) {t : State} (none' : s.translate (dieOf c.ctx) c.tenant a.toNat = (none, t)) :
    exec (.xferComplete c.id) s = .next (t.dropE c 18) := by
  rw [exec_xferComplete, completeXfer_nowhere found stage op ht here (t := t) (by simp only [State.farPage, none']), event]

theorem xfer_here_some (here : dev = s.device.toNat) {p : Handle} {t : State} (some' : s.translate (dieOf c.ctx) c.tenant a.toNat = (some p, t))
    (hp : p.tgt ≠ 1) :
    exec (.xferComplete c.id) s =
      if (if get then p.r else p.w) = true ∧ a.toNat % pageBytes p.size + n ≤ pageBytes p.size then
        .next ((t.transfer c get h o p (a.toNat % pageBytes p.size) n).dropE c 0)
      else .next (t.dropE c 18) := by
  have right : (if (!get) = true then p.w else p.r) = if get then p.r else p.w := by cases get <;> rfl
  rw [exec_xferComplete]
  by_cases grants : (if get then p.r else p.w) = true ∧ a.toNat % pageBytes p.size + n ≤ pageBytes p.size
  · rw [if_pos grants, completeXfer_page found stage op ht here hp (t := t) (po := a.toNat % pageBytes p.size)
      (by simp only [State.farPage, some', right, if_pos grants]), event]
  · rw [if_neg grants, completeXfer_nowhere found stage op ht here (t := t) (by simp only [State.farPage, some', right, if_neg grants]), event]

end Transfer

end Completing

/-- Settles O45: what each completion leaves. -/
theorem transfersComplete : Obligations.TransfersComplete := by
  unfold Obligations.TransfersComplete
  constructor
  · intro s h tenant e core o bs inv ht mem owner plane twin one alive at_ low high _ fits
    exact OneExtent.transfers ⟨mem, owner, plane, twin, one⟩ inv ht alive core bs low high fits
  intro s c found stage core cl done
  refine ⟨?_, ?_, ?_, ?_⟩
  · intro dir h lw ctl parts plain fine moves t key
    rw [completeCopy_ok found stage parts fine, moveRows_eq dir h plain, endFill_full _ parts]
    rfl
  · intro dir h o lw n ctl op rows kind ht hn noExp noBin inv tile
    have parts : c.op.copyParts = some (dir, h, lw, ctl) := by rw [op]; rfl
    have fine : ∀ r ∈ c.rows, s.pageFails h r.1 (if dir then r.2.2 else pageSpan ctl r.2.2) c.tenant (!dir) = false :=
      fun r _ => pageFails_of_not_loft ht _ _ _ _
    have low : bits (lwAddr lw) 0 5 = tile := by simp [bits, tile]
    have ends (u : State) : u.endFill c true = u := by
      rw [endFill_full u parts, noBin]
      rfl
    refine ⟨moveRows s c dir h lw ctl c.rows, by rw [completeCopy_ok found stage parts fine, ends], ?_, ?_⟩
    · rintro rfl
      have moved : moveRows s c true h lw ctl c.rows = s.perform core (h.key o) (tileBytes (s.readTile core tile)) := by
        rw [rows]
        simp only [moveRows, if_true, if_pos kind, low, pageWrite_of_not_loft ht]
        rfl
      rw [moved]
      refine ⟨rfl, fun i hi j hj => ?_, fun a apart => ?_⟩
      · rw [Nat.add_assoc, perform_mem, readCells_part (wf_writeCells inv.mem _ _) (h.key o) (len := 16384) (by omega), ← length_tileBytes (s.readTile core tile),
          readCells_writeCells inv.mem, show 256 * i + 4 * j = 4 * (64 * i + j) by omega, tileBytes_part inv core tile (by omega),
          State.tileElem, Nat.add_assoc]
      · rw [perform_mem, cellAt_writeCells inv.mem, if_neg (by rw [length_tileBytes]; omega)]
    · rintro rfl
      have moved : moveRows s c false h lw ctl c.rows = s.writeTile core tile (tileFrom (wordsOf 4096 (h.read s.mem o n))) := by
        rw [rows]
        simp only [moveRows, Bool.false_eq_true, if_false, if_pos kind, low, State.rowIn, noExp, pageRead_of_not_loft ht]
        rfl
      rw [moved]
      exact ⟨rfl, fun i hi j hj => tileElem_writeTile inv core tile _ hi hj⟩
  · intro h o x y m k op inv w page vec bf fine
    have rows := fun f => bank_leaves inv.mem (spadKey cl y) m (bankRow f (leNat page) (leNat vec) k)
    refine ⟨_, completeBank_ok found stage op rfl rfl fine, rfl, rfl, fun i hi => ?_, (rows _).2⟩
    have place : spadKey cl (y + 4 * i) = spadKey cl y + 4 * i := by simp only [spadKey]; omega
    rw [place]
    refine ((rows _).1 i hi).trans ?_
    by_cases one : h.bankl = 1
    · rw [if_pos one, if_pos one]
      exact bankRow_int8 page vec k i
    · rw [if_neg one, if_neg one]
      exact bankRow_bf16 page vec k i
  · intro get h o dev a n op ht far
    exact ⟨fun away => xfer_away found stage op ht away, fun here => ⟨fun t none' => xfer_here_none found stage op ht here none',
      fun p t some' hp => xfer_here_some found stage op ht here some' hp⟩⟩

end Sys2Proof.Machine
end

section
/-!
O46. A step of a walk's gleaner: one equation of the step for each of its branches, and what a fill leaves.
-/

namespace Sys2Proof.Machine

/-! ### Translations and links -/

theorem translate_tlb {s t : State} {die : Nat} {tenant : BitVec 16} {va : Nat} {r : Option Handle} (h : s.translate die tenant va = (r, t)) :
    ∃ tlb, t = { s with tlb := tlb } := by
  unfold State.translate at h
  split at h
  · cases h
    exact ⟨s.tlb, rfl⟩
  · split at h
    · cases h
      exact ⟨s.tlb, rfl⟩
    · split at h
      · cases h
        exact ⟨s.tlb, rfl⟩
      · split at h
        · cases h
          exact ⟨s.tlb, rfl⟩
        · cases h
          exact ⟨_, rfl⟩

theorem kind_of_link (l : BitVec 128) : bits l.toNat 126 2 = l.toNat / 2 ^ 126 := by
  have := l.isLt
  rw [bits, Nat.mod_eq_of_lt (by omega)]

theorem addr_of_link (l : BitVec 128) : bits l.toNat 0 52 = l.toNat % 2 ^ 52 := by simp [bits]

/-- R289: a link's bits that must be zero. -/
def badBits (l : BitVec 128) : Prop := l.toNat / 2 ^ 124 % 4 ≠ 0 ∨ l.toNat % 128 ≠ 0 ∨ l.toNat / 2 ^ 52 % 2 ^ 12 ≠ 0

/-- R289: a DEVICE that does not fit its KIND. -/
def badDevice (own : Nat) (l : BitVec 128) : Prop :=
  (l.toNat / 2 ^ 126 = 1 ∧ l.toNat / 2 ^ 104 % 2 ^ 20 ≠ 0) ∨ (l.toNat / 2 ^ 126 = 2 ∧ l.toNat / 2 ^ 104 % 2 ^ 20 = own) ∨
    (l.toNat / 2 ^ 126 = 3 ∧ (l.toNat / 2 ^ 104 % 2 ^ 20 / 32 ≠ 0 ∨ 23 < l.toNat / 2 ^ 104 % 2 ^ 20 % 32))

theorem badBits_iff (l : BitVec 128) : (bits l.toNat 124 2 ≠ 0 ∨ bits l.toNat 0 64 % 128 ≠ 0 ∨ bits l.toNat 52 12 ≠ 0) ↔ badBits l := by
  have low : bits l.toNat 0 64 % 128 = l.toNat % 128 := by
    rw [bits, Nat.pow_zero, Nat.div_one, Nat.mod_mod_of_dvd _ (by decide)]
  rw [low]
  rfl

theorem badDevice_iff (own : Nat) (l : BitVec 128) :
    ((bits l.toNat 126 2 = 1 ∧ bits l.toNat 104 20 ≠ 0) ∨ (bits l.toNat 126 2 = 2 ∧ bits l.toNat 104 20 = own) ∨
      (bits l.toNat 126 2 = 3 ∧ (bits l.toNat 104 20 / 32 ≠ 0 ∨ 23 < bits l.toNat 104 20 % 32))) ↔ badDevice own l := by
  rw [kind_of_link]
  rfl

theorem linkReason_bits {own : Nat} {l : BitVec 128} (h : badBits l) : linkReason own l = 2 := if_pos ((badBits_iff l).2 h)

theorem linkReason_device {own : Nat} {l : BitVec 128} (ok : ¬ badBits l) (h : badDevice own l) : linkReason own l = 3 :=
  (if_neg (mt (badBits_iff l).1 ok)).trans (if_pos ((badDevice_iff own l).2 h))

theorem linkReason_ok {own : Nat} {l : BitVec 128} (ok : ¬ badBits l) (fits : ¬ badDevice own l) : linkReason own l = 0 :=
  (if_neg (mt (badBits_iff l).1 ok)).trans (if_neg (mt (badDevice_iff own l).1 fits))

/-! ### Where a link leads -/

section Reach

variable {s : State} {c : Nat} {l : BitVec 128}

theorem reach_away (kind : l.toNat / 2 ^ 126 = 2)
    (away : l.toNat / 2 ^ 104 % 2 ^ 20 / 256 ≠ s.device.toNat / 256 ∨ l.toNat / 2 ^ 104 % 2 ^ 20 ∉ s.present ∨ l.toNat / 2 ^ 104 % 2 ^ 20 ∈ s.unreachable) :
    s.reach c l = (.error 8, s) := by
  rw [← kind_of_link] at kind
  refine (if_pos kind).trans (if_pos ?_)
  refine away.imp_right (Or.imp (fun absent => ?_) fun gone => ?_)
  · simpa [bits] using absent
  · simpa [bits] using gone

theorem reach_lost (kind : l.toNat / 2 ^ 126 = 3) (lost : l.toNat / 2 ^ 104 % 2 ^ 20 % 32 ∈ s.lost) : s.reach c l = (.error 9, s) := by
  rw [← kind_of_link] at kind
  exact (if_neg (by rw [kind]; decide)).trans (if_pos ⟨kind, by simpa [bits] using lost⟩)

variable (kind : l.toNat / 2 ^ 126 = 1) {t : State}
include kind

theorem reach_none (there : s.translate (dieOf c) (s.ctx c).sr.tenant (l.toNat % 2 ^ 52) = (none, t)) : s.reach c l = (.error 7, t) := by
  rw [← kind_of_link] at kind
  unfold State.reach
  simp only [kind, addr_of_link, there]
  rfl

theorem reach_unreadable {p : Handle} (there : s.translate (dieOf c) (s.ctx c).sr.tenant (l.toNat % 2 ^ 52) = (some p, t))
    (closed : ¬ (p.r = true ∧ p.cview = 0 ∧ p.tgt = 0)) : s.reach c l = (.error 7, t) := by
  rw [← kind_of_link] at kind
  unfold State.reach
  simp only [kind, addr_of_link, there]
  by_cases view : (!p.r || p.cview != 0) = true
  · rw [if_pos view]
    exact if_neg (by decide)
  · have plain : p.r = true ∧ p.cview = 0 := by simpa using view
    have tgt : p.tgt ≠ 0 := fun h => closed ⟨plain.1, plain.2, h⟩
    simp only [view, if_neg tgt]
    rfl

theorem reach_hbm {p : Handle} (there : s.translate (dieOf c) (s.ctx c).sr.tenant (l.toNat % 2 ^ 52) = (some p, t))
    (readable : p.r = true ∧ p.cview = 0 ∧ p.tgt = 0) :
    s.reach c l = (.ok ⟨hbmKey (p.ppn.toNat * 65536 + l.toNat % 2 ^ 52 % pageBytes p.size), pageBytes p.size - l.toNat % 2 ^ 52 % pageBytes p.size,
      none, some p⟩, t) := by
  rw [← kind_of_link] at kind
  obtain ⟨r, view, tgt⟩ := readable
  unfold State.reach
  simp only [kind, addr_of_link, there, r, view, if_pos tgt]
  rfl

end Reach

/-! ### Reasons -/

theorem recordReason_pause (s : State) (w : Walk) (i : Nat) {r : Nat} (l : BitVec 128) (h : pauses r = true) :
    s.recordReason w i r l = s.putWalk { w with reason := some (i, r, l), filling := false } := if_pos h

theorem recordReason_stop (s : State) (w : Walk) (i : Nat) {r : Nat} (l : BitVec 128) (h : pauses r = false) :
    s.recordReason w i r l = (s.putWalk { w with reason := some (i, r, l), filling := false }).finishTok w.tok (stopCode r) :=
  if_neg (by rw [h]; exact Bool.false_ne_true)

theorem recordReason_shape (s : State) (w : Walk) (i r : Nat) (l : BitVec 128) : ∃ toks ctxs, s.recordReason w i r l =
    { s.putWalk { w with reason := some (i, r, l), filling := false } with toks := toks, ctxs := ctxs } := by
  cases h : pauses r with
  | true => exact ⟨s.toks, s.ctxs, recordReason_pause s w i l h⟩
  | false =>
    rw [recordReason_stop s w i l h]
    exact finishTok_shape ..

/-- A walk that stands under its number takes its new form. -/
theorem mem_putWalk {s : State} {w v : Walk} (found : s.walks.find? (fun x => x.id == w.id) = some w) (hv : v.id = w.id) : v ∈ (s.putWalk v).walks :=
  List.mem_map.2 ⟨w, List.mem_of_find?_eq_some found, if_pos (by simp [hv])⟩

/-! ### The branches of a hop -/

theorem exec_gleanerHop (id : Nat) (s : State) : exec (.gleanerHop id) s = event "gleaner hop" (s.hop id) := rfl

theorem exec_hop {id : Nat} {s t : State} (h : s.hop id = some t) : exec (.gleanerHop id) s = .next t := by rw [exec_gleanerHop, h, event]

section Hop

variable {s : State} {w : Walk} (found : s.walks.find? (fun x => x.id == w.id) = some w)
include found

theorem hop_fill (filling : w.filling = true) {e : Landed} (last : w.landed.getLast? = some e) :
    s.hop w.id = some (s.endWalkFill w (vget (s.ctx w.ctx).regs.w w.wc 0) e) := by
  simp only [State.hop, found, Option.bind_eq_bind, Option.bind_some, filling, if_true, last, Option.pure_def]

variable (idle : w.filling = false) (open' : w.reason = none) (going : w.endAt = none)
include idle open' going

theorem hop_reread (again : w.reread = true) : s.hop w.id = some (s.rereadHop w (vget (s.ctx w.ctx).regs.w w.wc 0)) := by
  simp [State.hop, found, idle, open', going, again]

variable (onward : w.reread = false)
include onward

theorem hop_end (kind : w.link.toNat / 2 ^ 126 = 0) (zero : w.link.toNat % 2 ^ 64 = 0) :
    s.hop w.id = some ((s.putWalk { w with endAt := some w.hop }).finishTok w.tok 0) := by
  rw [← kind_of_link] at kind
  have low : bits w.link.toNat 0 64 = 0 := by simpa [bits] using zero
  simp [State.hop, found, idle, open', going, onward, kind, low]

theorem hop_null (kind : w.link.toNat / 2 ^ 126 = 0) (addr : w.link.toNat % 2 ^ 64 ≠ 0) :
    s.hop w.id = some (s.recordReason w w.hop 1 w.link) := by
  rw [← kind_of_link] at kind
  have low : bits w.link.toNat 0 64 ≠ 0 := by simpa [bits] using addr
  simp [State.hop, found, idle, open', going, onward, kind, low]

variable (kind : w.link.toNat / 2 ^ 126 ≠ 0)
include kind

theorem hop_malformed {r : Nat} (bad : linkReason s.device.toNat w.link = r) (hr : r ≠ 0) :
    s.hop w.id = some (s.recordReason w w.hop r w.link) := by
  rw [← kind_of_link] at kind
  simp [State.hop, found, idle, open', going, onward, kind, bad, hr]

variable (ok : linkReason s.device.toNat w.link = 0)
include ok

theorem hop_spent (later : w.later = true) (spent : (vget (s.ctx w.ctx).regs.w w.wc 0).budget = 0) :
    s.hop w.id = some (s.recordReason w w.hop 6 w.link) := by
  rw [← kind_of_link] at kind
  simp only [State.hop, found, Option.bind_eq_bind, Option.bind_some, idle, open', going, onward, Bool.false_eq_true, if_false, Option.isSome_none, Bool.or_self,
    Option.pure_def]
  rw [if_neg kind, if_neg (not_not.2 ok), if_pos (by rw [later, spent]; rfl)]

variable (budget : ¬ (w.later && (vget (s.ctx w.ctx).regs.w w.wc 0).budget == 0) = true)
include budget

theorem hop_unreached {r : Nat} {t : State} (none' : s.reach w.ctx w.link = (.error r, t)) : s.hop w.id = some (t.recordReason w w.hop r w.link) := by
  rw [← kind_of_link] at kind
  simp only [State.hop, found, Option.bind_eq_bind, Option.bind_some, idle, open', going, onward, Bool.false_eq_true, if_false, Option.isSome_none, Bool.or_self,
    Option.pure_def, none']
  rw [if_neg kind, if_neg (not_not.2 ok), if_neg budget]

theorem hop_reached {p : Reached} {t : State} (there : s.reach w.ctx w.link = (.ok p, t))
    (free : t.placeFree w (vget (s.ctx w.ctx).regs.w w.wc 0) = true) :
    s.hop w.id = some (t.beginFill w (vget (s.ctx w.ctx).regs.w w.wc 0) p) := by
  rw [← kind_of_link] at kind
  simp only [State.hop, found, Option.bind_eq_bind, Option.bind_some, idle, open', going, onward, Bool.false_eq_true, if_false, Option.isSome_none, Bool.or_self,
    Option.pure_def, there]
  rw [if_neg kind, if_neg (not_not.2 ok), if_neg budget, if_pos free]

end Hop

/-! ### The fill of a hop begins -/

section Fill

variable {s : State} {w : Walk} {cu : Cursor} {p : Reached}

/-- The header of the sheaf that a hop has reached. -/
def Reached.head (p : Reached) (s : State) : List Byte := readCells s.mem p.key 128

/-- A field of a header. -/
def headField (b : List Byte) (at_ n : Nat) : Nat := leNat ((b.drop at_).take n)

/-- R306: the header of a core. -/
def wellFormedHead (b : List Byte) : Prop :=
  (headField b 68 4 % 16 = 0 ∨ headField b 68 4 % 16 = 5) ∧ 1 ≤ headField b 80 2 ∧ headField b 80 2 ≤ 64 ∧ 1 ≤ headField b 82 2 ∧
  headField b 82 2 ≤ 4096 ∧ 1 ≤ headField b 84 2 ∧ headField b 84 2 ≤ 64 ∧ headField b 86 10 = 0 ∧
  (if headField b 68 4 % 16 = 0 then 1 else 2) * headField b 80 2 * headField b 82 2 * headField b 84 2 ≤ headField b 72 4

theorem coreRec_ok_iff (b : List Byte) : (coreRec (b.drop 64)).ok = true ↔ wellFormedHead b := by
  have field (i n : Nat) : leNat (((b.drop 64).drop i).take n) = headField b (64 + i) n := by rw [headField, List.drop_drop]
  rw [CoreRec.ok, coreRec]
  simp only [field, coreWidth, Bool.and_eq_true, Bool.or_eq_true, beq_iff_eq, decide_eq_true_eq, Nat.reduceAdd, wellFormedHead]
  tauto

/-- The device whose cursor has spent a unit of budget on a hop (R294). -/
def State.budgeted (s : State) (w : Walk) (cu : Cursor) : State :=
  if w.later then s.setCtx w.ctx ((s.ctx w.ctx).setCursor w.wc (cu.setBudget (cu.budget - 1))) else s

theorem budgeted_mem (s : State) (w : Walk) (cu : Cursor) : (s.budgeted w cu).mem = s.mem := by
  unfold State.budgeted
  split <;> rfl

theorem budgeted_walks (s : State) (w : Walk) (cu : Cursor) : (s.budgeted w cu).walks = s.walks := by
  unfold State.budgeted
  split <;> rfl

theorem budgeted_cursor (later : w.later = true) (hw : w.wc < 8) : vget ((s.budgeted w cu).ctx w.ctx).regs.w w.wc 0 = cu.setBudget (cu.budget - 1) := by
  have same : s.budgeted w cu = s.setCtx w.ctx ((s.ctx w.ctx).setCursor w.wc (cu.setBudget (cu.budget - 1))) := if_pos later
  rw [same, ctx_setCtx]
  exact vget_setCursor _ hw _

theorem beginFill_stale (checks : (w.later || cu.chk) = true) (stale : headField (p.head s) 64 4 ≠ bits w.link.toNat 64 32) :
    s.beginFill w cu p = s.recordReason w w.hop 5 w.link := if_pos (by rw [checks, Bool.true_and]; exact bne_iff_ne.2 stale)

variable (fresh : ¬ ((w.later || cu.chk) && headField (p.head s) 64 4 != bits w.link.toNat 64 32) = true)
include fresh

theorem beginFill_big (big : 65536 + 128 < 128 + headField (p.head s) 72 4 ∨ 256 * cu.z < 128 + headField (p.head s) 72 4 ∨
    p.room < 128 + headField (p.head s) 72 4) : s.beginFill w cu p = s.recordReason w w.hop 4 w.link := (if_neg fresh).trans (if_pos big)

variable (fits : ¬ (65536 + 128 < 128 + headField (p.head s) 72 4 ∨ 256 * cu.z < 128 + headField (p.head s) 72 4 ∨ p.room < 128 + headField (p.head s) 72 4))
include fits

theorem beginFill_core (bad : (cu.core && !(coreRec ((p.head s).drop 64)).ok) = true) :
    s.beginFill w cu p = s.recordReason w w.hop 4 w.link := (if_neg fresh).trans ((if_neg fits).trans (if_pos bad))

theorem beginFill_ok (good : ¬ (cu.core && !(coreRec ((p.head s).drop 64)).ok) = true) (hbm : p.loft = none) :
    s.beginFill w cu p =
      (({ s.budgeted w cu with
          mem := writeCells (s.budgeted w cu).mem (spadKey (clusterOf w.ctx) (cu.land + 256 * cu.z * (cu.bin w.next - 8 * cu.group))) (p.head s) } : State).setBin
        (binKey (clusterOf w.ctx) (cu.bin w.next))
        ⟨1, false, 0, BitVec.ofNat 21 (128 + headField (p.head s) 72 4), BitVec.ofNat 23 (cu.land + 256 * cu.z * (cu.bin w.next - 8 * cu.group)),
          some (s.ctx w.ctx).sr.tenant⟩).putWalk
        { w with
          filling := true
          src := p.key
          page := p.page
          landed := w.landed ++ [⟨w.hop, cu.bin w.next, withGen w.link (headField (p.head s) 64 4)⟩]
          link := BitVec.ofNat 128 (headField (p.head s) (16 * cu.furrow) 16) } := by
  obtain ⟨key, room, loft, page⟩ := p
  cases hbm
  exact (if_neg fresh).trans ((if_neg fits).trans ((if_neg good).trans (if_neg Bool.false_ne_true)))

end Fill

/-! ### The fill of a hop ends -/

section FillEnds

variable {s : State} {w : Walk} {cu : Cursor} {e : Landed}

theorem endWalkFill_failed {r : Nat} (fails : s.readFails w.ctx e.link w.src (s.bin (binKey (clusterOf w.ctx) e.bin)).size.toNat = some r) :
    s.endWalkFill w cu e = (s.setBin (binKey (clusterOf w.ctx) e.bin) (s.bin (binKey (clusterOf w.ctx) e.bin)).release).recordReason
      { w with landed := w.landed.dropLast, link := e.link } w.hop r e.link := by
  simp only [State.endWalkFill, fails]

/-- The device with a sheaf's payload read and written to its bin (R294). -/
def State.payloadRead (s : State) (w : Walk) (e : Landed) : State :=
  let b := s.bin (binKey (clusterOf w.ctx) e.bin)
  { s with mem := writeCells s.mem (spadKey (clusterOf w.ctx) (b.base.toNat + 128)) (readCells s.mem (w.src + 128) (b.size.toNat - 128)) }.payloadPackets
    e.link (b.size.toNat - 128)

theorem payloadPackets_links (s : State) (l : BitVec 128) (n : Nat) : ∃ links, s.payloadPackets l n = { s with links := links } := by
  unfold State.payloadPackets
  split
  · exact ⟨_, rfl⟩
  · exact ⟨s.links, rfl⟩

theorem payloadRead_shape (s : State) (w : Walk) (e : Landed) : ∃ links, s.payloadRead w e = { s with
    mem := writeCells s.mem (spadKey (clusterOf w.ctx) ((s.bin (binKey (clusterOf w.ctx) e.bin)).base.toNat + 128))
      (readCells s.mem (w.src + 128) ((s.bin (binKey (clusterOf w.ctx) e.bin)).size.toNat - 128))
    links := links } := payloadPackets_links ..

variable (served : s.readFails w.ctx e.link w.src (s.bin (binKey (clusterOf w.ctx) e.bin)).size.toNat = none)
include served

theorem endWalkFill_stale (stale : ((w.later || cu.chk) && leNat (readCells s.mem (w.src + 64) 4) != bits e.link.toNat 64 32) = true) :
    s.endWalkFill w cu e = ((s.payloadRead w e).setBin (binKey (clusterOf w.ctx) e.bin) (s.bin (binKey (clusterOf w.ctx) e.bin)).release).recordReason
      { w with landed := w.landed.dropLast, link := e.link } w.hop 5 e.link := by
  simp only [State.endWalkFill, served]
  exact if_pos stale

theorem endWalkFill_fresh (fresh : ¬ ((w.later || cu.chk) && leNat (readCells s.mem (w.src + 64) 4) != bits e.link.toNat 64 32) = true) :
    s.endWalkFill w cu e = ((s.payloadRead w e).setBin (binKey (clusterOf w.ctx) e.bin) { s.bin (binKey (clusterOf w.ctx) e.bin) with state := 2 }).putWalk
      { w with
        filling := false
        hop := w.hop + 1
        next := (w.next + 1) % cu.depth
        kept := w.kept || s.meetsWnext w } := by
  simp only [State.endWalkFill, served]
  exact if_neg fresh

end FillEnds

end Sys2Proof.Machine
end

section
/-!
O46. What a hop leaves, and the hop of a walk that has been restarted.
-/

namespace Sys2Proof.Machine

/-! ### The link that a cursor names -/

theorem cursorLink_toNat (c : Cursor) : c.link.toNat = c.addr + c.gen * 2 ^ 64 + c.device * 2 ^ 104 + c.kind * 2 ^ 126 := by
  have ha : c.addr < 2 ^ 52 := bits_lt ..
  have hg : c.gen < 2 ^ 32 := bits_lt ..
  have hd : c.device < 2 ^ 20 := bits_lt ..
  have hk : c.kind < 2 ^ 2 := bits_lt ..
  rw [Cursor.link, BitVec.toNat_ofNat, Nat.mod_eq_of_lt (by omega)]

theorem cursorLink_parts (c : Cursor) : c.link.toNat / 2 ^ 126 = c.kind ∧ c.link.toNat / 2 ^ 104 % 2 ^ 20 = c.device ∧ c.link.toNat % 2 ^ 52 = c.addr := by
  have ha : c.addr < 2 ^ 52 := bits_lt ..
  have hg : c.gen < 2 ^ 32 := bits_lt ..
  have hd : c.device < 2 ^ 20 := bits_lt ..
  have hk : c.kind < 2 ^ 2 := bits_lt ..
  rw [cursorLink_toNat]
  omega

/-! ### The hop of a walk that has been restarted

Its equations stand for a function `F` that equals the model's: the body of the definition is then put in as a whole, and the kernel never has to
compute with the 128 bits of the link that a cursor names. -/

section Reread

variable {s t : State} {w : Walk} {cu : Cursor} {F : State → Walk → Cursor → State} (hF : State.rereadHop = F)
include hF

theorem reread_failed {r : Nat} (none' : s.reach w.ctx cu.link = (.error r, t)) : F s w cu = t.recordReason w 0 r cu.link := by
  delta State.rereadHop at hF
  subst hF
  beta_reduce
  generalize cu.link = l at none' ⊢
  rw [none']

variable {p : Reached} (there : s.reach w.ctx cu.link = (.ok p, t))
include there

theorem reread_stale (stale : headField (p.head t) 64 4 ≠ cu.gen) : F s w cu = t.recordReason w 0 5 cu.link := by
  delta State.rereadHop at hF
  subst hF
  beta_reduce
  generalize cu.link = l at there ⊢
  rw [there]
  exact if_pos stale

theorem reread_fresh (fresh : headField (p.head t) 64 4 = cu.gen) : F s w cu =
    t.putWalk { w with
      reread := false
      link := BitVec.ofNat 128 (headField (p.head t) (16 * cu.furrow) 16) } := by
  delta State.rereadHop at hF
  subst hF
  beta_reduce
  generalize cu.link = l at there ⊢
  rw [there]
  exact if_neg (not_not.2 fresh)

end Reread

theorem later_iff (w : Walk) : w.later = true ↔ 1 ≤ w.hop ∨ w.restart = true := by
  rw [Walk.later, Bool.or_eq_true, decide_eq_true_eq]

theorem checks_iff (w : Walk) (cu : Cursor) : (w.later || cu.chk) = true ↔ (1 ≤ w.hop ∨ w.restart = true) ∨ cu.chk = true := by
  rw [Bool.or_eq_true, later_iff]

theorem placeFree_of {s : State} {w : Walk} {cu : Cursor} (free : (s.bin (binKey (clusterOf w.ctx) (cu.bin w.next))).state = 0)
    (apart : ∀ m ∈ s.mcmds, m.id < w.id ∨ m.stage = .started →
      m.locks (coreOf w.ctx) (cu.land + 256 * cu.z * (cu.bin w.next - 8 * cu.group)) (256 * cu.z) true = false) :
    s.placeFree w cu = true := by
  rw [State.placeFree, free]
  simp only [beq_self_eq_true, Bool.true_and, Bool.not_eq_true', List.any_eq_false, Bool.and_eq_true, Bool.or_eq_true, decide_eq_true_eq, beq_iff_eq]
  rintro m hm ⟨early, locks⟩
  rw [apart m hm early] at locks
  cases locks

/-- What the begun fill of a hop leaves. -/
theorem beginFill_leaves {s : State} {w : Walk} {cu : Cursor} {p : Reached} (found : s.walks.find? (fun x => x.id == w.id) = some w)
    (inv : Memory.wf s.mem = true) (fresh : ¬ ((w.later || cu.chk) && headField (p.head s) 64 4 != bits w.link.toNat 64 32) = true)
    (fits : ¬ (65536 + 128 < 128 + headField (p.head s) 72 4 ∨ 256 * cu.z < 128 + headField (p.head s) 72 4 ∨ p.room < 128 + headField (p.head s) 72 4))
    (good : ¬ (cu.core && !(coreRec ((p.head s).drop 64)).ok) = true) (hbm : p.loft = none) {base : Nat}
    (hb : base = cu.land + 256 * cu.z * (cu.bin w.next - 8 * cu.group)) :
    readCells (s.beginFill w cu p).mem (spadKey (clusterOf w.ctx) base) 128 = p.head s ∧
    (∀ a, a < spadKey (clusterOf w.ctx) base ∨ spadKey (clusterOf w.ctx) base + 128 ≤ a → cellAt (s.beginFill w cu p).mem a = cellAt s.mem a) ∧
    (s.beginFill w cu p).bin (binKey (clusterOf w.ctx) (cu.bin w.next)) =
      ⟨1, false, 0, BitVec.ofNat 21 (128 + headField (p.head s) 72 4), BitVec.ofNat 23 base, some (s.ctx w.ctx).sr.tenant⟩ ∧
    (∃ x ∈ (s.beginFill w cu p).walks, x.id = w.id ∧ x.filling = true ∧ x.hop = w.hop ∧
      x.link = BitVec.ofNat 128 (headField (p.head s) (16 * cu.furrow) 16)) ∧
    (w.later = true → w.wc < 8 → vget ((s.beginFill w cu p).ctx w.ctx).regs.w w.wc 0 = cu.setBudget (cu.budget - 1)) := by
  have len : (p.head s).length = 128 := length_readCells ..
  have mem : (s.beginFill w cu p).mem = writeCells s.mem (spadKey (clusterOf w.ctx) base) (p.head s) := by
    rw [beginFill_ok fresh fits good hbm, putWalk_mem, setBin_mem, budgeted_mem, hb]
  refine ⟨?_, fun a apart => ?_, ?_, ?_, fun later hw => ?_⟩
  · rw [mem]
    conv_lhs => rw [← len]
    exact readCells_writeCells inv ..
  · rw [mem, cellAt_writeCells inv, if_neg (by rw [len]; omega)]
  · rw [beginFill_ok fresh fits good hbm, ← hb]
    exact bin_setBin ..
  · rw [beginFill_ok fresh fits good hbm]
    exact ⟨_, mem_putWalk (w := w) (by rw [setBin_walks]; exact (congrArg _ (budgeted_walks s w cu)).trans found) rfl, rfl, rfl, rfl, rfl⟩
  · rw [beginFill_ok fresh fits good hbm]
    exact budgeted_cursor later hw

/-! ### The parts of the statement -/

section Parts

variable {s : State} {w : Walk} (found : s.walks.find? (fun x => x.id == w.id) = some w)
include found

section Restarted

variable (idle : w.filling = false) (open' : w.reason = none) (going : w.endAt = none) (again : w.reread = true) {cu : Cursor}
  (hcu : vget (s.ctx w.ctx).regs.w w.wc 0 = cu)
include idle open' going again hcu

theorem restarted_lost (kind : cu.kind = 3) (lost : cu.device % 32 ∈ s.lost) :
    exec (.gleanerHop w.id) s = .next ((s.putWalk { w with reason := some (0, 9, cu.link), filling := false }).finishTok w.tok 12) := by
  obtain ⟨hk, hd, -⟩ := cursorLink_parts cu
  rw [exec_hop (hop_reread found idle open' going again), hcu, reread_failed rfl (reach_lost (by rw [hk, kind]) (by rwa [hd])),
    recordReason_stop _ _ _ _ rfl]
  rfl

variable (kind : cu.kind = 1) {t : State}
include kind

theorem restarted_none (none' : s.translate (dieOf w.ctx) (s.ctx w.ctx).sr.tenant cu.addr = (none, t)) :
    exec (.gleanerHop w.id) s = .next (t.putWalk { w with reason := some (0, 7, cu.link), filling := false }) := by
  obtain ⟨hk, -, ha⟩ := cursorLink_parts cu
  rw [exec_hop (hop_reread found idle open' going again), hcu, reread_failed rfl (reach_none (by rw [hk, kind]) (by rwa [ha])),
    recordReason_pause _ _ _ _ rfl]

variable {p : Handle} (some' : s.translate (dieOf w.ctx) (s.ctx w.ctx).sr.tenant cu.addr = (some p, t)) (readable : p.r = true ∧ p.cview = 0 ∧ p.tgt = 0)
  {head : List Byte} (hh : readCells s.mem (hbmKey (p.ppn.toNat * 65536 + cu.addr % pageBytes p.size)) 128 = head)
include some' readable hh

theorem restarted_stale (stale : headField head 64 4 ≠ cu.gen) :
    exec (.gleanerHop w.id) s = .next ((t.putWalk { w with reason := some (0, 5, cu.link), filling := false }).finishTok w.tok 9) := by
  obtain ⟨hk, -, ha⟩ := cursorLink_parts cu
  have there := reach_hbm (c := w.ctx) (l := cu.link) (by rw [hk, kind]) (by rwa [ha]) readable
  obtain ⟨tlb, rfl⟩ := translate_tlb some'
  rw [ha] at there
  rw [exec_hop (hop_reread found idle open' going again), hcu, reread_stale rfl there (by rw [Reached.head, hh]; exact stale), recordReason_stop _ _ _ _ rfl]
  rfl

theorem restarted_fresh (fresh : headField head 64 4 = cu.gen) :
    exec (.gleanerHop w.id) s = .next (t.putWalk { w with
      reread := false
      link := BitVec.ofNat 128 (headField head (16 * cu.furrow) 16) }) := by
  obtain ⟨hk, -, ha⟩ := cursorLink_parts cu
  have there := reach_hbm (c := w.ctx) (l := cu.link) (by rw [hk, kind]) (by rwa [ha]) readable
  obtain ⟨tlb, rfl⟩ := translate_tlb some'
  rw [ha] at there
  rw [exec_hop (hop_reread found idle open' going again), hcu, reread_fresh rfl there (by rw [Reached.head, hh]; exact fresh), Reached.head, hh]

end Restarted

end Parts

end Sys2Proof.Machine
end

section
/-!
O46. The end of a fill, and the obligation.
-/

namespace Sys2Proof.Machine

theorem readCells_written {m : List Host.Cell} (inv : Memory.wf m = true) (a : Nat) (bs : List Byte) (n : Nat) (len : bs.length = n) :
    readCells (writeCells m a bs) a n = bs := by
  rw [← len, readCells_writeCells inv]

section FillLeaves

variable {s : State} {w : Walk} {e : Landed} {cu : Cursor} (found : s.walks.find? (fun x => x.id == w.id) = some w)
include found

/-- What a fill leaves whose reads fail, or whose sheaf is stale. -/
theorem failedFill_leaves (t : State) (walks : t.walks = s.walks) (key : Nat) (b : Bin) (r : Nat) :
    ((t.setBin key b.release).recordReason { w with landed := w.landed.dropLast, link := e.link } w.hop r e.link).bin key =
      { b with state := 0, poison := false, readers := 0, tenant := none } ∧
    ((t.setBin key b.release).recordReason { w with landed := w.landed.dropLast, link := e.link } w.hop r e.link).mem = t.mem ∧
    ∃ x ∈ ((t.setBin key b.release).recordReason { w with landed := w.landed.dropLast, link := e.link } w.hop r e.link).walks,
      x.id = w.id ∧ x.filling = false ∧ x.landed = w.landed.dropLast ∧ x.link = e.link ∧ x.reason = some (w.hop, r, e.link) := by
  obtain ⟨toks, ctxs, h⟩ := recordReason_shape (t.setBin key b.release) { w with landed := w.landed.dropLast, link := e.link } w.hop r e.link
  rw [h]
  refine ⟨bin_setBin t key b.release, rfl, ?_⟩
  exact ⟨_, mem_putWalk (w := w) (s := t.setBin key b.release) (by rw [setBin_walks, walks]; exact found) rfl, rfl, rfl, rfl, rfl, rfl⟩

end FillLeaves

/-- R294: the sheaf fits its slot and its page. -/
def hopFits (cu : Cursor) (room : Nat) (head : List Byte) : Prop :=
  128 + headField head 72 4 ≤ 65536 + 128 ∧ 128 + headField head 72 4 ≤ 256 * cu.z ∧ 128 + headField head 72 4 ≤ room

theorem hopFits_iff (cu : Cursor) (room : Nat) (head : List Byte) : hopFits cu room head ↔
    ¬ (65536 + 128 < 128 + headField head 72 4 ∨ 256 * cu.z < 128 + headField head 72 4 ∨ room < 128 + headField head 72 4) := by
  rw [hopFits]
  push Not
  rfl

section Reached

variable {out : Host.Outcome State Fault Refusal} {s : State} {w : Walk} {p : Handle} {room : Nat} {key : Nat} {head : List Byte} {cu : Cursor}
  (reached : out = .next (s.beginFill w cu ⟨key, room, none, some p⟩)) (hh : readCells s.mem key 128 = head)
include reached hh

theorem reached_stale (check : (w.later || cu.chk) = true) (stale : headField head 64 4 ≠ bits w.link.toNat 64 32) :
    out = .next ((s.putWalk { w with reason := some (w.hop, 5, w.link), filling := false }).finishTok w.tok 9) := by
  subst hh
  rw [reached, beginFill_stale (p := ⟨key, room, none, some p⟩) check stale, recordReason_stop _ _ _ _ rfl]
  rfl

variable (fresh : (w.later || cu.chk) = true → headField head 64 4 = bits w.link.toNat 64 32)
include fresh

omit reached hh in
theorem not_stale_of : ¬ ((w.later || cu.chk) && headField head 64 4 != bits w.link.toNat 64 32) = true := by
  rw [Bool.and_eq_true, bne_iff_ne]
  exact fun h => h.2 (fresh h.1)

theorem reached_big (big : ¬ hopFits cu room head) :
    out = .next ((s.putWalk { w with reason := some (w.hop, 4, w.link), filling := false }).finishTok w.tok 10) := by
  subst hh
  rw [hopFits_iff, not_not] at big
  rw [reached, beginFill_big (p := ⟨key, room, none, some p⟩) (not_stale_of fresh) big, recordReason_stop _ _ _ _ rfl]
  rfl

variable (fits : hopFits cu room head)
include fits

theorem reached_core (core : cu.core = true) (bad : ¬ wellFormedHead head) :
    out = .next ((s.putWalk { w with reason := some (w.hop, 4, w.link), filling := false }).finishTok w.tok 10) := by
  subst hh
  have refused : (cu.core && !(coreRec ((readCells s.mem key 128).drop 64)).ok) = true := by
    rw [core, Bool.true_and, Bool.not_eq_true', Bool.eq_false_iff, Ne, coreRec_ok_iff]
    exact bad
  rw [reached, beginFill_core (p := ⟨key, room, none, some p⟩) (not_stale_of fresh) ((hopFits_iff ..).1 fits) refused, recordReason_stop _ _ _ _ rfl]
  rfl

theorem reached_fill (found : s.walks.find? (fun x => x.id == w.id) = some w) (inv : Memory.wf s.mem = true)
    (core : cu.core = true → wellFormedHead head) :
    ∃ u, out = .next u ∧
      readCells u.mem (spadKey (clusterOf w.ctx) (cu.land + 256 * cu.z * (cu.bin w.next - 8 * cu.group))) 128 = head ∧
      (∀ a, a < spadKey (clusterOf w.ctx) (cu.land + 256 * cu.z * (cu.bin w.next - 8 * cu.group)) ∨
        spadKey (clusterOf w.ctx) (cu.land + 256 * cu.z * (cu.bin w.next - 8 * cu.group)) + 128 ≤ a → cellAt u.mem a = cellAt s.mem a) ∧
      u.bin (binKey (clusterOf w.ctx) (cu.bin w.next)) = ⟨1, false, 0, BitVec.ofNat 21 (128 + headField head 72 4),
        BitVec.ofNat 23 (cu.land + 256 * cu.z * (cu.bin w.next - 8 * cu.group)), some (s.ctx w.ctx).sr.tenant⟩ ∧
      (∃ x ∈ u.walks, x.id = w.id ∧ x.filling = true ∧ x.hop = w.hop ∧ x.link = BitVec.ofNat 128 (headField head (16 * cu.furrow) 16)) ∧
      (w.later = true → w.wc < 8 → (vget (u.ctx w.ctx).regs.w w.wc 0).budget = cu.budget - 1) := by
  subst hh
  have good : ¬ (cu.core && !(coreRec ((readCells s.mem key 128).drop 64)).ok) = true := by
    rw [Bool.and_eq_true, Bool.not_eq_true', Bool.eq_false_iff, Ne, coreRec_ok_iff]
    exact fun h => h.2 (core h.1)
  obtain ⟨image, apart, bin, walk, spent⟩ := beginFill_leaves (w := w) (s := s) (p := ⟨key, room, none, some p⟩) found inv
    (not_stale_of fresh) ((hopFits_iff ..).1 fits) good rfl rfl
  refine ⟨_, reached, image, apart, bin, walk, fun late hw => ?_⟩
  rw [spent late hw, (setBudget_fields cu (cu.budget - 1)).1]
  have : cu.budget < 2 ^ 16 := bits_lt ..
  exact Nat.mod_eq_of_lt (by omega)

end Reached

section Ends

variable {s : State} {w : Walk} {e : Landed} {cu : Cursor} (found : s.walks.find? (fun x => x.id == w.id) = some w)
  (ends : exec (.gleanerHop w.id) s = .next (s.endWalkFill w cu e)) {b : Bin} (hb : s.bin (binKey (clusterOf w.ctx) e.bin) = b)
include found ends hb

/-- What a step leaves that ends a fill with a reason. -/
def FillGives (s : State) (w : Walk) (e : Landed) (b : Bin) (u : State) (r : Nat) : Prop :=
  exec (.gleanerHop w.id) s = .next u ∧
    u.bin (binKey (clusterOf w.ctx) e.bin) = { b with state := 0, poison := false, readers := 0, tenant := none } ∧
    ∃ x ∈ u.walks, x.id = w.id ∧ x.filling = false ∧ x.landed = w.landed.dropLast ∧ x.link = e.link ∧ x.reason = some (w.hop, r, e.link)

theorem fill_fails {r : Nat} (fails : s.readFails w.ctx e.link w.src b.size.toNat = some r) : ∃ u, FillGives s w e b u r ∧ u.mem = s.mem := by
  subst hb
  obtain ⟨bin, same, walk⟩ := failedFill_leaves (e := e) found s rfl (binKey (clusterOf w.ctx) e.bin) (s.bin (binKey (clusterOf w.ctx) e.bin)) r
  rw [← endWalkFill_failed (cu := cu) fails] at bin same walk
  exact ⟨_, ⟨ends, bin, walk⟩, same⟩

variable (served : s.readFails w.ctx e.link w.src b.size.toNat = none) (inv : Memory.wf s.mem = true) {at_ : Nat}
  (ha : at_ = spadKey (clusterOf w.ctx) (b.base.toNat + 128))
include served inv ha

omit found ends served in
theorem payloadRead_mem :
    readCells (s.payloadRead w e).mem at_ (b.size.toNat - 128) = readCells s.mem (w.src + 128) (b.size.toNat - 128) ∧
    ∀ a, a < at_ ∨ at_ + (b.size.toNat - 128) ≤ a → cellAt (s.payloadRead w e).mem a = cellAt s.mem a := by
  subst hb ha
  obtain ⟨links, read⟩ := payloadRead_shape s w e
  rw [read]
  constructor
  · exact readCells_written inv _ _ _ (length_readCells ..)
  · intro a h
    rw [cellAt_writeCells inv, if_neg (by rw [length_readCells]; omega)]

theorem fill_stale (check : (w.later || cu.chk) = true) (stale : leNat (readCells s.mem (w.src + 64) 4) ≠ bits e.link.toNat 64 32) :
    ∃ u, FillGives s w e b u 5 ∧ s.completes u w.tok 9 ∧ ∀ a, a < at_ ∨ at_ + (b.size.toNat - 128) ≤ a → cellAt u.mem a = cellAt s.mem a := by
  obtain ⟨-, outside⟩ := payloadRead_mem hb inv ha
  subst hb
  obtain ⟨links, read⟩ := payloadRead_shape s w e
  obtain ⟨bin, same, walk⟩ := failedFill_leaves (e := e) found (s.payloadRead w e) (by rw [read]) (binKey (clusterOf w.ctx) e.bin)
    (s.bin (binKey (clusterOf w.ctx) e.bin)) 5
  have bad : ((w.later || cu.chk) && leNat (readCells s.mem (w.src + 64) 4) != bits e.link.toNat 64 32) = true := by
    rw [Bool.and_eq_true, bne_iff_ne]
    exact ⟨check, stale⟩
  have eq := endWalkFill_stale (cu := cu) served bad
  have done : s.completes (s.endWalkFill w cu e) w.tok 9 := by
    have toks : s.toks = (((s.payloadRead w e).setBin (binKey (clusterOf w.ctx) e.bin) (s.bin (binKey (clusterOf w.ctx) e.bin)).release).putWalk
        { w with landed := w.landed.dropLast, link := e.link, reason := some (w.hop, 5, e.link), filling := false }).toks := by
      rw [putWalk_toks, setBin_toks, read]
    rw [eq, recordReason_stop _ _ _ _ rfl, State.completes, toks]
    intro o ho
    exact completes_finishTok _ _ _ o ho
  rw [← eq] at bin same walk
  exact ⟨_, ⟨ends, bin, walk⟩, done, fun a h => by rw [same]; exact outside a h⟩

theorem fill_fresh (fresh : ¬ ((w.later || cu.chk) = true ∧ leNat (readCells s.mem (w.src + 64) 4) ≠ bits e.link.toNat 64 32)) :
    ∃ u, exec (.gleanerHop w.id) s = .next u ∧
      readCells u.mem at_ (b.size.toNat - 128) = readCells s.mem (w.src + 128) (b.size.toNat - 128) ∧
      (∀ a, a < at_ ∨ at_ + (b.size.toNat - 128) ≤ a → cellAt u.mem a = cellAt s.mem a) ∧
      u.bin (binKey (clusterOf w.ctx) e.bin) = { b with state := 2 } ∧ ∃ x ∈ u.walks, x.id = w.id ∧ x.filling = false ∧ x.hop = w.hop + 1 := by
  obtain ⟨inside, outside⟩ := payloadRead_mem hb inv ha
  subst hb
  obtain ⟨links, read⟩ := payloadRead_shape s w e
  have eq := endWalkFill_fresh (cu := cu) served (by rwa [Bool.and_eq_true, bne_iff_ne])
  refine ⟨_, ends, ?_, fun a h => ?_, ?_, ?_⟩
  · rw [eq, putWalk_mem, setBin_mem, inside]
  · rw [eq, putWalk_mem, setBin_mem, outside a h]
  · rw [eq]
    exact bin_setBin ..
  · rw [eq]
    exact ⟨_, mem_putWalk (w := w) (by rw [setBin_walks, read]; exact found) rfl, rfl, rfl, rfl⟩

end Ends

/-- Settles O46: each branch of a step of the gleaner. -/
theorem gleanerHops : Obligations.GleanerHops := by
  unfold Obligations.GleanerHops
  intro s w found cu l cl tenant kind dev addr malformed misplaced later checks pauses stops field genOf linkOf wellFormed readable hop
  have hcu : vget (s.ctx w.ctx).regs.w w.wc 0 = cu := rfl
  have hlater : w.later = true ↔ later := later_iff w
  have hchecks : (w.later || cu.chk) = true ↔ checks := checks_iff w cu
  refine ⟨fun idle open' going onward => ⟨?_, ?_, ?_, ?_, ?_⟩, fun idle open' going again => ?_, fun e filling last inv => ?_⟩
  · exact fun null zero => exec_hop (hop_end found idle open' going onward null zero)
  · intro null some'
    rw [show hop = _ from exec_hop (hop_null found idle open' going onward null some'), recordReason_stop _ _ _ _ rfl]
    rfl
  · intro link bad
    rw [show hop = _ from exec_hop (hop_malformed found idle open' going onward link (linkReason_bits bad) (by decide)), recordReason_stop _ _ _ _ rfl]
    rfl
  · intro link ok bad
    rw [show hop = _ from exec_hop (hop_malformed found idle open' going onward link (linkReason_device ok bad) (by decide)), recordReason_stop _ _ _ _ rfl]
    rfl
  · intro link plain placed
    have ok : linkReason s.device.toNat w.link = 0 := linkReason_ok plain placed
    refine ⟨fun late spent => ?_, fun budget => ?_⟩
    · rw [show hop = _ from exec_hop (hop_spent found idle open' going onward link ok (hlater.2 late) spent), recordReason_pause _ _ _ _ rfl]
    have left : ¬ (w.later && (vget (s.ctx w.ctx).regs.w w.wc 0).budget == 0) = true := by
      rw [hcu, Bool.and_eq_true, beq_iff_eq]
      exact fun h => budget (hlater.1 h.1) h.2
    have unreached {r : Nat} {t : State} (none' : s.reach w.ctx w.link = (.error r, t)) : hop = .next (t.recordReason w w.hop r w.link) :=
      exec_hop (hop_unreached found idle open' going onward link ok left none')
    refine ⟨fun two away => ?_, fun three lost => ?_, fun t one none' => ?_, fun p t one some' closed => ?_, fun p t one some' open'' inv => ?_⟩
    · rw [unreached (reach_away two away), recordReason_pause _ _ _ _ rfl]
    · rw [unreached (reach_lost three lost), recordReason_stop _ _ _ _ rfl]
      rfl
    · rw [unreached (reach_none one none'), recordReason_pause _ _ _ _ rfl]
    · rw [unreached (reach_unreadable one some' closed), recordReason_pause _ _ _ _ rfl]
    · intro n room head size base fits free apart
      obtain ⟨tlb, rfl⟩ := translate_tlb some'
      have reached := exec_hop (hop_reached found idle open' going onward link ok left (reach_hbm one some' open'') (placeFree_of free apart))
      have hh : readCells s.mem (hbmKey (p.ppn.toNat * 65536 + w.link.toNat % 2 ^ 52 % pageBytes p.size)) 128 = head := rfl
      have gen : genOf head = headField head 64 4 := rfl
      have named : l.toNat / 2 ^ 64 % 2 ^ 32 = bits w.link.toNat 64 32 := rfl
      rw [gen, named]
      refine ⟨fun check stale => reached_stale reached hh (hchecks.2 check) stale, fun fresh => ?_⟩
      have good (h : (w.later || cu.chk) = true) : headField head 64 4 = bits w.link.toNat 64 32 := fresh (hchecks.1 h)
      refine ⟨fun big => reached_big reached hh good big, fun fit core bad => reached_core reached hh good fit core bad, fun fit core => ?_⟩
      obtain ⟨u, next, image, apart', bin, walk, spent⟩ := reached_fill reached hh good fit found inv.mem core
      exact ⟨u, next, image, apart', bin, walk, fun late => spent (hlater.2 late)⟩
  · intro name
    refine ⟨restarted_lost found idle open' going again hcu, fun one => ⟨fun t => restarted_none found idle open' going again hcu one, fun p t some' read => ?_⟩⟩
    intro head
    exact ⟨restarted_stale found idle open' going again hcu one some' read rfl, restarted_fresh found idle open' going again hcu one some' read rfl⟩
  · intro b at_ n stale gives
    have ends := exec_hop (hop_fill found filling last)
    exact ⟨fun r => fill_fails found ends rfl, fun served old => fill_stale found ends rfl served inv.mem rfl (hchecks.2 old.1) old.2,
      fun served new => fill_fresh found ends rfl served inv.mem rfl fun h => new ⟨hchecks.1 h.1, h.2⟩⟩

end Sys2Proof.Machine
end

section
/-!
O47. Launches: the codes of a refused record, the home of an accepted one, and the steps that take a snapshot.
-/

namespace Sys2Proof.Machine

/-! ### The checks of a record (R190) -/

section Refusal

variable {s : State} {r : List Byte} {tenant : BitVec 16} {stream : Bool}

/-- R190 row 1: CODE is misaligned or no address. -/
def recBadCode (r : List Byte) : Prop := recCode r % 16 ≠ 0 ∨ 2 ^ 52 ≤ recCode r

/-- R190 row 2: a limit of the record is broken. -/
def recBadLimit (r : List Byte) : Prop :=
  recBase r % 256 ≠ 0 ∨ 2 ^ 23 ≤ recBase r ∨ recSize r % 256 ≠ 0 ∨ Config.windowSize < recBase r + recSize r ∨ 31 < recAcb r ∨ 32 < recAcn r ∨
    32 < recAcb r + recAcn r ∨ recCtxs r = 0 ∨ 4 < recCtxs r ∨ 1023 < recSlack r ∨ bits (recCtl r) 2 4 ≠ 0

/-- R190 row 4: a reference names no die's semaphores, or one not in force is not zero. -/
def recBadRef (r : List Byte) : Prop :=
  ∃ i < 4, ((recRef r i).testBit 15 = true ∧ 23 < recRef r i / 2 ^ 8 % 32) ∨ (¬ (recRef r i).testBit 15 = true ∧ recRef r i ≠ 0)

/-- R190 row 6: a reference in force names another tenant's block of semaphores. -/
def recNotOwn (s : State) (r : List Byte) : Prop :=
  ∃ i < 4, (recRef r i).testBit 15 = true ∧
    (s.semTen.find? fun p => p.1 == recRef r i / 2 ^ 8 % 128).map Prod.snd ≠ some (BitVec.ofNat 16 (recTenant r))

theorem refOn_iff (v : Nat) : refOn v = v.testBit 15 := bitAt_eq_testBit v 15

theorem recBadRef_iff : (((List.range 4).map (recRef r)).any fun v => if refOn v then decide (23 < bits v 8 5) else v != 0) = true ↔ recBadRef r := by
  rw [List.any_map, List.any_eq_true, recBadRef]
  refine exists_congr fun i => ?_
  rw [List.mem_range]
  refine and_congr_right fun _ => ?_
  simp only [Function.comp, refOn_iff]
  by_cases on : (recRef r i).testBit 15 = true
  · rw [if_pos on, decide_eq_true_eq, bits]
    simp [on]
  · rw [if_neg on]
    simp [on]

theorem recNotOwn_iff : (((List.range 4).map (recRef r)).any fun v => refOn v &&
      (s.semTen.find? fun p => p.1 == bits v 8 7).map Prod.snd != some (BitVec.ofNat 16 (recTenant r))) = true ↔ recNotOwn s r := by
  rw [List.any_map, List.any_eq_true, recNotOwn]
  refine exists_congr fun i => ?_
  rw [List.mem_range]
  refine and_congr_right fun _ => ?_
  simp only [Function.comp, refOn_iff, Bool.and_eq_true, bne_iff_ne]
  rfl

/-- R190: the first check that fails gives the code. -/
theorem refusal_codes (s : State) (r : List Byte) (tenant : BitVec 16) (stream : Bool) :
    (recBadCode r → s.refusal r tenant stream = 1) ∧ (¬ recBadCode r → recBadLimit r → s.refusal r tenant stream = 2) ∧
    (¬ recBadCode r → ¬ recBadLimit r → recTenant r ≠ tenant.toNat ∧ stream = false → s.refusal r tenant stream = 3) ∧
    (¬ recBadCode r → ¬ recBadLimit r → ¬ (recTenant r ≠ tenant.toNat ∧ stream = false) →
      (recBadRef r → s.refusal r tenant stream = 4) ∧ (¬ recBadRef r → stream = false ∧ recNotOwn s r → s.refusal r tenant stream = 6) ∧
      (¬ recBadRef r → ¬ (stream = false ∧ recNotOwn s r) → s.refusal r tenant stream = 0)) := by
  unfold State.refusal
  refine ⟨fun code => if_pos code, fun code limit => (if_neg code).trans (if_pos limit),
    fun code limit other => (if_neg code).trans ((if_neg limit).trans (if_pos other)), fun code limit mine => ?_⟩
  refine ⟨fun bad => (if_neg code).trans ((if_neg limit).trans ((if_neg mine).trans (if_pos (recBadRef_iff.2 bad)))),
    fun good foreign => (if_neg code).trans ((if_neg limit).trans ((if_neg mine).trans ((if_neg (mt recBadRef_iff.1 good)).trans (if_pos ?_)))),
    fun good own => (if_neg code).trans ((if_neg limit).trans ((if_neg mine).trans ((if_neg (mt recBadRef_iff.1 good)).trans (if_neg ?_))))⟩
  · rw [recNotOwn_iff]
    exact foreign
  · rw [recNotOwn_iff]
    exact own

end Refusal

/-! ### Snapshots (R189, R190, R198) -/

section Snapshot

variable {s : State} {c : ECmd} {hf : Bool} {h : Handle} {a : Nat} {arg : W64}

theorem exec_launchSnapshot (id : Nat) (s : State) : exec (.launchSnapshot id) s = event "launch takes its snapshot" (s.launchSnapshot id) := rfl
theorem exec_singleResnapshot (id : Nat) (s : State) : exec (.singleResnapshot id) s = event "SINGLE snapshot is taken anew" (s.resnapshot id) := rfl

/-- The device whose launch has entered its record in the pending set of its home die. -/
def State.entered (s : State) (c : ECmd) (key : Nat) (arg : W64) (r : List Byte) : State :=
  { (s.homeOf c.ctx r).2.passE c with
    pendings := (s.homeOf c.ctx r).2.pendings ++ [⟨(s.homeOf c.ctx r).2.next, c.tok, (s.homeOf c.ctx r).1, r, key, arg, recPrio r, false⟩]
    next := (s.homeOf c.ctx r).2.next + 1 }

/-- The home die of a record takes one more. -/
def State.homeHasPlace (s : State) (c : ECmd) (r : List Byte) : Prop :=
  ((s.homeOf c.ctx r).2.pendings.filter fun p => p.home / 32 == (s.homeOf c.ctx r).1 / 32).length < Config.pendingMax

theorem enterPending_some (key : Nat) {r : List Byte} (room : s.homeHasPlace c r) : s.enterPending c key arg r = some (s.entered c key arg r) :=
  if_neg (Nat.not_le.2 room)

theorem enterPending_none (key : Nat) {r : List Byte} (full : ¬ s.homeHasPlace c r) : s.enterPending c key arg r = none :=
  if_pos (Nat.le_of_not_lt full)

/-- The bytes of a launch's record. -/
def State.recordOf (s : State) (c : ECmd) (hf : Bool) (h : Handle) (a : Nat) : List Byte :=
  if hf then h.read s.mem a 128 else readCells s.mem (spadKey (clusterOf c.ctx) a) 128

variable (plain : hf = true → h.tgt ≠ 1)
include plain

theorem snapshot_reads : s.snapshot c hf h a arg =
    if s.refusal (s.recordOf c hf h a) c.tenant (s.ctx c.ctx).stream ≠ 0 then
      s.dropE c (s.refusal (s.recordOf c hf h a) c.tenant (s.ctx c.ctx).stream)
    else if recSingle (s.recordOf c hf h a) = true ∧ s.liveFrom (launchKey c.ctx hf h a) = true then
      s.putE { c with op := .launch hf h a arg true none }
    else (s.enterPending c (launchKey c.ctx hf h a) arg (s.recordOf c hf h a)).getD
      (s.putE { c with op := .launch hf h a arg false (some (s.recordOf c hf h a)) }) := by
  have fine : ¬ (hf = true ∧ s.pageFails h a 128 c.tenant true = true) := fun ⟨on, fails⟩ => by
    rw [pageFails_of_not_loft (plain on)] at fails
    cases fails
  have page : (if hf then s.pageRead h a 128 c.tenant else readCells s.mem (spadKey (clusterOf c.ctx) a) 128) = s.recordOf c hf h a := by
    cases hf with
    | false => rfl
    | true => exact pageRead_of_not_loft (plain rfl) a 128 c.tenant
  rw [State.snapshot, if_neg fine]
  simp only [page]

omit plain in
theorem launchSnapshot_first (found : s.findE c.id = some c) (op : c.op = .launch hf h a arg false none) (stage : c.stage = .started)
    (whole : s.recordTorn c hf h a = false) : exec (.launchSnapshot c.id) s = .next (s.snapshot c hf h a arg) := by
  have first : s.launchSnapshot c.id = some (s.snapshot c hf h a arg) := by
    simp only [State.launchSnapshot, found, Option.bind_eq_bind, Option.bind_some, op]
    exact if_pos ⟨stage, whole⟩
  rw [exec_launchSnapshot, first, event]

omit plain in
theorem launchSnapshot_torn (found : s.findE c.id = some c) (op : c.op = .launch hf h a arg false none) (torn : s.recordTorn c hf h a = true) :
    exec (.launchSnapshot c.id) s = .fault (.notEnabled "launch takes its snapshot") := by
  have none' : s.launchSnapshot c.id = none := by
    simp only [State.launchSnapshot, found, Option.bind_eq_bind, Option.bind_some, op]
    exact if_neg fun ok => by rw [torn] at ok; cases ok.2
  rw [exec_launchSnapshot, none', event]

omit plain in
theorem launchSnapshot_kept (found : s.findE c.id = some c) {r : List Byte} (op : c.op = .launch hf h a arg false (some r)) (room : s.homeHasPlace c r) :
    exec (.launchSnapshot c.id) s = .next (s.entered c (launchKey c.ctx hf h a) arg r) := by
  have later : s.launchSnapshot c.id = some (s.entered c (launchKey c.ctx hf h a) arg r) := by
    simp only [State.launchSnapshot, found, Option.bind_eq_bind, Option.bind_some, op]
    exact enterPending_some _ room
  rw [exec_launchSnapshot, later, event]

omit plain in
theorem resnapshot_taken (found : s.findE c.id = some c) {snap : Option (List Byte)} (op : c.op = .launch hf h a arg true snap)
    (alone : s.liveFrom (launchKey c.ctx hf h a) = false) (whole : s.recordTorn c hf h a = false) :
    exec (.singleResnapshot c.id) s = .next (s.snapshot c hf h a arg) := by
  have taken : s.resnapshot c.id = some (s.snapshot c hf h a arg) := by
    simp only [State.resnapshot, found, Option.bind_eq_bind, Option.bind_some, op]
    exact if_neg (by rw [alone, whole]; decide)
  rw [exec_singleResnapshot, taken, event]

/-- What a snapshot leaves, by what its record says. -/
theorem snapshot_outcomes {takes : Host.Outcome State Fault Refusal} (h0 : takes = .next (s.snapshot c hf h a arg)) {r : List Byte}
    (hr : s.recordOf c hf h a = r) {code : Nat} (hc : s.refusal r c.tenant (s.ctx c.ctx).stream = code) :
    (code ≠ 0 → takes = .next (s.dropE c code)) ∧
    (code = 0 → recSingle r = true → s.liveFrom (launchKey c.ctx hf h a) = true → takes = .next (s.putE { c with op := .launch hf h a arg true none })) ∧
    (code = 0 → (recSingle r = true → s.liveFrom (launchKey c.ctx hf h a) = false) →
      (s.homeHasPlace c r → takes = .next (s.entered c (launchKey c.ctx hf h a) arg r)) ∧
      (¬ s.homeHasPlace c r → takes = .next (s.putE { c with op := .launch hf h a arg false (some r) }))) := by
  have reads := snapshot_reads (s := s) (c := c) (a := a) (arg := arg) plain
  rw [hr, hc] at reads
  rw [h0]
  refine ⟨fun bad => ?_, fun ok single live => ?_, fun ok free => ?_⟩
  · rw [reads, if_pos bad]
  · rw [reads, if_neg (not_not.2 ok), if_pos ⟨single, live⟩]
  · have alone : ¬ (recSingle r = true ∧ s.liveFrom (launchKey c.ctx hf h a) = true) := fun ⟨single, live⟩ => by
      rw [free single] at live
      cases live
    rw [reads, if_neg (not_not.2 ok), if_neg alone]
    exact ⟨fun room => by rw [enterPending_some _ room]; rfl, fun full => by rw [enterPending_none _ full]; rfl⟩

end Snapshot

/-! ### The home of a record (R193) -/

theorem homeOf_cases (s : State) (c : Nat) (r : List Byte) :
    (recAffinity r = 0 → s.homeOf c r = (clusterOf c, s)) ∧
    (recAffinity r ≠ 0 → ∀ t, s.translate (dieOf c) (BitVec.ofNat 16 (recTenant r)) (recAffinity r) = (none, t) → s.homeOf c r = (clusterOf c, t)) ∧
    (recAffinity r ≠ 0 → ∀ h t, s.translate (dieOf c) (BitVec.ofNat 16 (recTenant r)) (recAffinity r) = (some h, t) →
      (h.tgt ≠ 0 → s.homeOf c r = (clusterOf c, t)) ∧
      (h.tgt = 0 → s.homeOf c r =
        (bits (h.ppn.toNat * 65536 + recAffinity r % pageBytes h.size) 36 4 / 3 * 32 +
          (8 * (bits (h.ppn.toNat * 65536 + recAffinity r % pageBytes h.size) 36 4 % 3) +
            bits (h.ppn.toNat * 65536 + recAffinity r % pageBytes h.size) 12 5 % 8), t))) := by
  refine ⟨fun zero => if_pos zero, fun some' t none' => ?_, fun some' h t there => ⟨fun other => ?_, fun hbm => ?_⟩⟩
  · rw [State.homeOf, if_neg some']
    simp only [none']
  · rw [State.homeOf, if_neg some']
    simp only [there, if_pos other]
  · rw [State.homeOf, if_neg some']
    simp only [there, if_neg (not_not.2 hbm), Nat.add_assoc]

end Sys2Proof.Machine
end

section
/-!
O47. Room: the dispatcher's searches find the first core with room in their order.
-/

namespace Sys2Proof.Machine

/-! ### The first in an order -/

/-- A search through a list that a key and then the number itself put in order finds the first element for which there is an answer. -/
theorem findSome_first {β : Type} (key : Nat → Nat) (g : Nat → Option β) (l : List Nat)
    (sorted : l.Pairwise fun a b => key a < key b ∨ (key a = key b ∧ a < b)) (n : Nat) (v : β) :
    l.findSome? (fun a => (g a).map (Prod.mk a)) = some (n, v) ↔
      n ∈ l ∧ g n = some v ∧ ∀ d ∈ l, (g d).isSome = true → key n < key d ∨ (key n = key d ∧ n ≤ d) := by
  induction l with
  | nil => simp
  | cons a l ih =>
    rw [List.pairwise_cons] at sorted
    obtain ⟨first, rest⟩ := sorted
    rw [List.findSome?_cons]
    cases here : g a with
    | none =>
      simp only [Option.map_none, ih rest, List.mem_cons, forall_eq_or_imp, here, Option.isSome_none, Bool.false_eq_true, false_implies, true_and]
      constructor
      · exact fun ⟨inside, val, least⟩ => ⟨.inr inside, val, least⟩
      · rintro ⟨rfl | inside, val, least⟩
        · rw [here] at val
          cases val
        · exact ⟨inside, val, least⟩
    | some x =>
      simp only [Option.map_some, Option.some.injEq, Prod.mk.injEq, List.mem_cons, forall_eq_or_imp, here, Option.isSome_some, forall_const]
      constructor
      · rintro ⟨rfl, rfl⟩
        refine ⟨.inl rfl, here, .inr ⟨rfl, le_refl _⟩, fun d hd _ => ?_⟩
        have := first d hd
        omega
      · rintro ⟨rfl | inside, val, least, -⟩
        · exact ⟨rfl, Option.some_inj.1 (here.symm.trans val)⟩
        · have := first n inside
          omega

/-! ### Room on a core (R195) -/

section Room

variable {s : State} {core : Nat} {r : List Byte}

theorem freeCtxs_eq (s : State) (core : Nat) : s.freeCtxs core = s.idle core := by
  rw [State.freeCtxs, State.idle]
  refine List.filter_congr fun c _ => ?_
  rw [Bool.eq_iff_iff]
  simp

theorem meets_iff (a m b n : Nat) : meets a m b n = false ↔ apart a m b n := by
  simp only [meets, apart, Bool.and_eq_false_iff, decide_eq_false_iff_not]
  omega

theorem tilesFree_iff : s.tilesFree core r = true ↔
    (∀ i ∈ s.insts, i.core = core → apart (recAcb r) (recAcn r) (recAcb i.record) (recAcn i.record)) ∧
    (∀ c, alGet s.streams (core / 256) = some c → coreOf c.ctx = core → apart (recAcb r) (recAcn r) c.acb c.acn) ∧
    ∀ t ∈ s.deadTiles core, t < recAcb r ∨ recAcb r + recAcn r ≤ t := by
  have dead : (!((s.deadTiles core).any fun t => decide (recAcb r ≤ t ∧ t < recAcb r + recAcn r))) = true ↔
      ∀ t ∈ s.deadTiles core, t < recAcb r ∨ recAcb r + recAcn r ≤ t := by
    rw [Bool.not_eq_true', List.any_eq_false]
    refine forall₂_congr fun t _ => ?_
    rw [decide_eq_true_eq]
    omega
  have inst : (s.insts.all fun i => !(i.core == core && meets (recAcb r) (recAcn r) (recAcb i.record) (recAcn i.record))) = true ↔
      ∀ i ∈ s.insts, i.core = core → apart (recAcb r) (recAcn r) (recAcb i.record) (recAcn i.record) := by
    rw [List.all_eq_true]
    refine forall₂_congr fun i _ => ?_
    rw [Bool.not_eq_true', Bool.and_eq_false_iff, meets_iff, beq_eq_false_iff_ne]
    tauto
  unfold State.tilesFree
  cases stream : alGet s.streams (core / 256) with
  | none =>
    simp only [stream, Bool.and_eq_true, dead, inst, reduceCtorEq, false_implies, implies_true]
    tauto
  | some c =>
    have own : (!(coreOf c.ctx == core && meets (recAcb r) (recAcn r) c.acb c.acn)) = true ↔
        (coreOf c.ctx = core → apart (recAcb r) (recAcn r) c.acb c.acn) := by
      rw [Bool.not_eq_true', Bool.and_eq_false_iff, meets_iff, beq_eq_false_iff_ne]
      tauto
    simp only [stream, Bool.and_eq_true, dead, inst, own, Option.some.injEq, forall_eq']
    tauto

theorem spadFree_iff : s.spadFree (core / 8) r = true ↔
    (∀ i ∈ s.insts, i.core / 8 = core / 8 → apart (recBase r) (recSize r) (recBase i.record) (recSize i.record) ∨
      (recShare r = true ∧ recShare i.record = true ∧ recTenant r = recTenant i.record)) ∧
    (clusterOf (s.streamCtx (core / 8 / 32)) = core / 8 →
      apart (recBase r) (recSize r) (s.reservedOf (core / 8 / 32)) (Config.windowSize - s.reservedOf (core / 8 / 32))) := by
  have inst : (s.insts.all fun i => !(i.core / 8 == core / 8 && meets (recBase r) (recSize r) (recBase i.record) (recSize i.record) &&
      !(recShare r && recShare i.record && recTenant r == recTenant i.record))) = true ↔
      ∀ i ∈ s.insts, i.core / 8 = core / 8 → apart (recBase r) (recSize r) (recBase i.record) (recSize i.record) ∨
        (recShare r = true ∧ recShare i.record = true ∧ recTenant r = recTenant i.record) := by
    rw [List.all_eq_true]
    refine forall₂_congr fun i _ => ?_
    rw [Bool.not_eq_true', Bool.and_eq_false_iff, Bool.and_eq_false_iff, meets_iff, beq_eq_false_iff_ne, Bool.not_eq_false', Bool.and_eq_true,
      Bool.and_eq_true, beq_iff_eq]
    tauto
  have own : (!(clusterOf (s.streamCtx (core / 8 / 32)) == core / 8 &&
      meets (recBase r) (recSize r) (s.reservedOf (core / 8 / 32)) (Config.windowSize - s.reservedOf (core / 8 / 32)))) = true ↔
      (clusterOf (s.streamCtx (core / 8 / 32)) = core / 8 →
        apart (recBase r) (recSize r) (s.reservedOf (core / 8 / 32)) (Config.windowSize - s.reservedOf (core / 8 / 32))) := by
    rw [Bool.not_eq_true', Bool.and_eq_false_iff, meets_iff, beq_eq_false_iff_ne]
    tauto
  rw [State.spadFree, Bool.and_eq_true, inst, own]

/-- R195: a core has room exactly when the model finds contexts on it. -/
theorem roomOn_eq (s : State) (core : Nat) (r : List Byte) (cs : List Nat) :
    s.roomOn core r (recCtxs r) = some cs ↔ s.hasRoom core r ∧ cs = (s.idle core).take (recCtxs r) := by
  have enough : (decide (recCtxs r ≤ (s.freeCtxs core).length) && s.tilesFree core r && s.spadFree (core / 8) r) = true ↔ s.hasRoom core r := by
    rw [Bool.and_eq_true, Bool.and_eq_true, decide_eq_true_eq, tilesFree_iff, spadFree_iff, freeCtxs_eq]
    exact ⟨fun ⟨⟨n, t, st, d⟩, sp, own⟩ => ⟨n, t, st, d, sp, own⟩, fun ⟨n, t, st, d, sp, own⟩ => ⟨⟨n, t, st, d⟩, sp, own⟩⟩
  rw [← enough, State.roomOn]
  by_cases room : (decide (recCtxs r ≤ (s.freeCtxs core).length) && s.tilesFree core r && s.spadFree (core / 8) r) = true
  · have taken : (if (decide (recCtxs r ≤ (s.freeCtxs core).length) && s.tilesFree core r && s.spadFree (core / 8) r) = true
        then some ((s.freeCtxs core).take (recCtxs r)) else none) = some ((s.idle core).take (recCtxs r)) := by rw [if_pos room, freeCtxs_eq]
    exact taken ▸ ⟨fun h => ⟨room, (Option.some_inj.1 h).symm⟩, fun h => congrArg some h.2.symm⟩
  · simp [room]

theorem roomOn_isSome (s : State) (core : Nat) (r : List Byte) : (s.roomOn core r (recCtxs r)).isSome = true ↔ s.hasRoom core r := by
  rw [Option.isSome_iff_exists]
  exact ⟨fun ⟨cs, h⟩ => ((roomOn_eq s core r cs).1 h).1, fun h => ⟨_, (roomOn_eq s core r _).2 ⟨h, rfl⟩⟩⟩

end Room

end Sys2Proof.Machine
end

section
/-!
O47. The cores that the dispatcher searches, in their order (R193, R194).
-/

namespace Sys2Proof.Machine

theorem findSome_flatMap {α β γ : Type} (f : α → List β) (g : β → Option γ) (l : List α) :
    (l.flatMap f).findSome? g = l.findSome? fun a => (f a).findSome? g := by
  induction l with
  | nil => rfl
  | cons a l ih =>
    rw [List.flatMap_cons, List.findSome?_append, ih, List.findSome?_cons]
    cases (f a).findSome? g <;> rfl

/-- The cores of a cluster. -/
def coresOf (cluster : Nat) : List Nat := (List.range 8).map fun k => cluster * 8 + k

/-- R193: the cores of the home die, by the distance of their cluster. -/
def homeCores (die home : Nat) : List Nat :=
  (List.range 9).flatMap fun d => (List.range 24).flatMap fun c => if meshDist c home = d then coresOf (die * 32 + c) else []

/-- R194: the cores of the other dies, by the distance of their die. -/
def awayCores (die : Nat) : List Nat :=
  [1, 2].flatMap fun d => (List.range 4).flatMap fun e => if dieDist e die = d then (List.range 24).flatMap fun c => coresOf (e * 32 + c) else []

section Searches

variable (s : State) (p : Pending)

theorem roomIn_eq (cluster : Nat) (r : List Byte) (n : Nat) :
    s.roomIn cluster r n = (coresOf cluster).findSome? fun core => (s.roomOn core r n).map (Prod.mk core) := by
  rw [coresOf, List.findSome?_map]
  rfl

theorem homeRoom_eq : s.homeRoom p =
    (homeCores (p.home / 32) (p.home % 32)).findSome? fun core => (s.roomOn core p.record (recCtxs p.record)).map (Prod.mk core) := by
  rw [homeCores, findSome_flatMap]
  refine congrArg (List.findSome? · _) (funext fun d => ?_)
  rw [findSome_flatMap]
  refine congrArg (List.findSome? · _) (funext fun c => ?_)
  by_cases near : meshDist c (p.home % 32) = d
  · rw [if_pos near, if_pos near, roomIn_eq]
  · rw [if_neg near, if_neg near]
    rfl

theorem awayRoom_eq : s.awayRoom p =
    (awayCores (p.home / 32)).findSome? fun core => (s.roomOn core p.record (recCtxs p.record)).map (Prod.mk core) := by
  rw [awayCores, findSome_flatMap]
  refine congrArg (List.findSome? · _) (funext fun d => ?_)
  rw [findSome_flatMap]
  refine congrArg (List.findSome? · _) (funext fun e => ?_)
  by_cases near : dieDist e (p.home / 32) = d
  · rw [if_pos near, if_pos near, findSome_flatMap]
    exact congrArg (List.findSome? · _) (funext fun c => roomIn_eq s _ _ _)
  · rw [if_neg near, if_neg near]
    rfl

end Searches

/-! ### Their members -/

theorem mem_coresOf {cluster core : Nat} : core ∈ coresOf cluster ↔ core / 8 = cluster := by
  rw [coresOf, List.mem_map]
  constructor
  · rintro ⟨k, hk, rfl⟩
    have := List.mem_range.1 hk
    omega
  · rintro rfl
    exact ⟨core % 8, List.mem_range.2 (Nat.mod_lt _ (by decide)), by omega⟩

theorem meshDist_eq (a b : Nat) : meshDist a b = clusterGap a b := by
  unfold meshDist clusterGap
  omega

theorem dieDist_eq : ∀ a < 4, ∀ b < 4, dieDist a b = dieGap a b := by decide

theorem dieDist_other : ∀ a < 4, ∀ b < 4, (dieDist a b = 1 ∨ dieDist a b = 2) ↔ a ≠ b := by decide

theorem mem_homeCores {die home core : Nat} (hh : home < 24) :
    core ∈ homeCores die home ↔ core / 256 = die ∧ core / 8 % 32 < 24 := by
  simp only [homeCores, List.mem_flatMap, List.mem_range]
  constructor
  · rintro ⟨d, -, c, hc, h⟩
    split at h
    · have := mem_coresOf.1 h
      omega
    · cases h
  · rintro ⟨on, small⟩
    refine ⟨meshDist (core / 8 % 32) home, ?_, core / 8 % 32, small, ?_⟩
    · unfold meshDist
      omega
    · rw [if_pos rfl, mem_coresOf]
      omega

theorem mem_awayCores {die core : Nat} (hd : die < 4) :
    core ∈ awayCores die ↔ core / 256 < 4 ∧ core / 256 ≠ die ∧ core / 8 % 32 < 24 := by
  simp only [awayCores, List.mem_flatMap, List.mem_range]
  constructor
  · rintro ⟨d, hdist, e, he, h⟩
    split at h
    · next near =>
      obtain ⟨c, hc, h⟩ := List.mem_flatMap.1 h
      have := mem_coresOf.1 h
      have hc := List.mem_range.1 hc
      have other := (dieDist_other e he die hd).1 (by simpa [near] using hdist)
      omega
    · cases h
  · rintro ⟨on, other, small⟩
    refine ⟨dieDist (core / 256) die, by simpa using (dieDist_other _ on die hd).2 other, core / 256, on, ?_⟩
    rw [if_pos rfl, List.mem_flatMap]
    exact ⟨core / 8 % 32, List.mem_range.2 small, mem_coresOf.2 (by omega)⟩

/-! ### Their order -/

theorem coresOf_sorted (cluster : Nat) : (coresOf cluster).Pairwise (· < ·) :=
  List.pairwise_map.2 (List.pairwise_lt_range.imp fun h => by omega)

theorem clusters_sorted (base : Nat) (f : Nat → Bool) :
    ((List.range 24).flatMap fun c => if f c then coresOf (base + c) else []).Pairwise (· < ·) := by
  rw [List.pairwise_flatMap]
  constructor
  · intro c _
    split
    · exact coresOf_sorted _
    · exact List.Pairwise.nil
  · refine List.pairwise_lt_range.imp fun {a b} lt x hx y hy => ?_
    split at hx
    · split at hy
      · have := mem_coresOf.1 hx
        have := mem_coresOf.1 hy
        omega
      · cases hy
    · cases hx

theorem homeCores_sorted (die home : Nat) : (homeCores die home).Pairwise fun a b =>
    clusterGap (a / 8 % 32) home < clusterGap (b / 8 % 32) home ∨ (clusterGap (a / 8 % 32) home = clusterGap (b / 8 % 32) home ∧ a < b) := by
  have key {d x : Nat} (h : x ∈ (List.range 24).flatMap fun c => if meshDist c home = d then coresOf (die * 32 + c) else []) :
      clusterGap (x / 8 % 32) home = d := by
    obtain ⟨c, hc, h⟩ := List.mem_flatMap.1 h
    have hc := List.mem_range.1 hc
    split at h
    · next near =>
      have := mem_coresOf.1 h
      rw [← near, ← meshDist_eq]
      congr 1
      omega
    · cases h
  rw [homeCores, List.pairwise_flatMap]
  refine ⟨fun d _ => ?_, List.pairwise_lt_range.imp fun lt x hx y hy => .inl (by rwa [key hx, key hy])⟩
  have order := clusters_sorted (die * 32) fun c => decide (meshDist c home = d)
  simp only [decide_eq_true_eq] at order
  exact order.imp_of_mem fun hx hy lt => .inr ⟨by rw [key hx, key hy], lt⟩

theorem awayCores_sorted {die : Nat} (hd : die < 4) : (awayCores die).Pairwise fun a b =>
    dieGap (a / 256) die < dieGap (b / 256) die ∨ (dieGap (a / 256) die = dieGap (b / 256) die ∧ a < b) := by
  have place {e x : Nat} (h : x ∈ (List.range 24).flatMap fun c => coresOf (e * 32 + c)) : x / 256 = e := by
    obtain ⟨c, hc, h⟩ := List.mem_flatMap.1 h
    have hc := List.mem_range.1 hc
    have := mem_coresOf.1 h
    omega
  have key {d x : Nat} (h : x ∈ (List.range 4).flatMap fun e => if dieDist e die = d then (List.range 24).flatMap fun c => coresOf (e * 32 + c) else []) :
      dieGap (x / 256) die = d := by
    obtain ⟨e, he, h⟩ := List.mem_flatMap.1 h
    split at h
    · next near => rw [place h, ← dieDist_eq e (List.mem_range.1 he) die hd, near]
    · cases h
  have ordered : [1, 2].Pairwise (· < ·) := by decide
  rw [awayCores, List.pairwise_flatMap]
  refine ⟨fun d _ => ?_, ordered.imp fun lt x hx y hy => .inl (by rwa [key hx, key hy])⟩
  · have order : ((List.range 4).flatMap fun e => if dieDist e die = d then (List.range 24).flatMap fun c => coresOf (e * 32 + c) else []).Pairwise (· < ·) := by
      rw [List.pairwise_flatMap]
      constructor
      · intro e _
        split
        · simpa using clusters_sorted (e * 32) fun _ => true
        · exact List.Pairwise.nil
      · refine List.pairwise_lt_range.imp fun {a b} lt x hx y hy => ?_
        split at hx
        · split at hy
          · have := place hx
            have := place hy
            omega
          · cases hy
        · cases hx
    exact order.imp_of_mem fun hx hy lt => .inr ⟨by rw [key hx, key hy], lt⟩

end Sys2Proof.Machine
end

section
/-!
O47. Placement: what the dispatcher decides, and the contexts of an instance as they start.
-/

namespace Sys2Proof.Machine

/-! ### Reads of virtual ranges change nothing but the TLB -/

theorem readVirtual_tlb {s t : State} {die : Nat} {tenant : BitVec 16} {va n f : Nat} {r : Option (List Byte)}
    (h : s.readVirtual die tenant va n f = (r, t)) : ∃ tlb, t = { s with tlb := tlb } := by
  induction f generalizing s t va n r with
  | zero =>
    cases h
    exact ⟨s.tlb, rfl⟩
  | succ f ih =>
    unfold State.readVirtual at h
    split at h
    · cases h
      exact ⟨s.tlb, rfl⟩
    · dsimp only at h
      cases first : s.translate die tenant va with
      | mk p u =>
        obtain ⟨tlb, hu⟩ := translate_tlb first
        rw [first] at h
        cases p with
        | none =>
          cases h
          exact ⟨tlb, hu⟩
        | some p =>
          dsimp only at h
          split at h
          · cases h
            exact ⟨tlb, hu⟩
          · cases rest : u.readVirtual die tenant (va + min n (65536 - va % 65536)) (n - min n (65536 - va % 65536)) f with
            | mk q v =>
              obtain ⟨tlb', hv⟩ := ih rest
              have same : v = { s with tlb := tlb' } := by rw [hv, hu]
              rw [rest] at h
              cases q <;> (cases h; exact ⟨tlb', same⟩)

theorem slotsOf_tlb {s t : State} {die : Nat} {r : List Byte} {x : Option (Option (List (Nat × Nat)))} (h : s.slotsOf die r = (x, t)) :
    ∃ tlb, t = { s with tlb := tlb } := by
  unfold State.slotsOf at h
  split at h
  · cases h
    exact ⟨s.tlb, rfl⟩
  · dsimp only at h
    cases first : s.readVirtual die (BitVec.ofNat 16 (recTenant r)) (recSlots r) 64 2 with
    | mk p u =>
      obtain ⟨tlb, hu⟩ := readVirtual_tlb first
      rw [first] at h
      cases p with
      | none =>
        cases h
        exact ⟨tlb, hu⟩
      | some head =>
        dsimp only at h
        generalize ((List.range 24).filter fun i => bitAt (leNat (head.take 3)) i) = routers at h
        cases rest : u.readVirtual die (BitVec.ofNat 16 (recTenant r)) (recSlots r + 64) (1024 * routers.length) 3 with
        | mk q v =>
          obtain ⟨tlb', hv⟩ := readVirtual_tlb rest
          have same : v = { s with tlb := tlb' } := by rw [hv, hu]
          rw [rest] at h
          cases q <;> (cases h; exact ⟨tlb', same⟩)

/-! ### The decision (R192 to R195, R352 to R354) -/

section Decision

variable {s : State} {p : Pending}

theorem waitsHold_iff (r : List Byte) : s.waitsHold r = true ↔
    ∀ i < 2, (recRef r i).testBit 15 = true → (BitVec.ofNat 48 (recRef r i / 2 ^ 16)).toInt ≤ (s.sem (recRef r i % 2 ^ 15)).toInt := by
  have one (v : Nat) : (!refOn v || decide (signedOf 48 (bits v 16 48) ≤ (cellAt s.sems (bits v 0 15)).toInt)) = true ↔
      (v.testBit 15 = true → (BitVec.ofNat 48 (v / 2 ^ 16)).toInt ≤ (s.sem (v % 2 ^ 15)).toInt) := by
    have ref : bits v 0 15 = v % 2 ^ 15 := by simp [bits]
    have value : signedOf 48 (bits v 16 48) = (BitVec.ofNat 48 (v / 2 ^ 16)).toInt := by
      rw [signedOf_eq_toInt, bits]
      congr 1
      exact BitVec.eq_of_toNat_eq (by rw [BitVec.toNat_ofNat, BitVec.toNat_ofNat, Nat.mod_mod])
    rw [refOn_iff, ref, value, State.sem, Bool.or_eq_true, Bool.not_eq_true', decide_eq_true_eq]
    cases v.testBit 15 <;> simp
  rw [State.waitsHold]
  simp only [List.all_cons, List.all_nil, Bool.and_true, Bool.and_eq_true, one]
  constructor
  · rintro ⟨h0, h1⟩ i hi
    match i, hi with
    | 0, _ => exact h0
    | 1, _ => exact h1
  · exact fun h => ⟨h 0 (by decide), h 1 (by decide)⟩

/-- The core with room, of the home die first. -/
def State.roomFor (s : State) (p : Pending) : Option (Nat × List Nat) :=
  if (s.homeRoom p).isSome then s.homeRoom p else if p.anyDie then s.awayRoom p else none

theorem roomFor_eq (s : State) (p : Pending) : ((s.homeRoom p).orElse fun _ => if p.anyDie then s.awayRoom p else none) = s.roomFor p := by
  rw [State.roomFor]
  cases s.homeRoom p <;> rfl

theorem placeFor_waits (waits : ¬ s.waitsHold p.record = true) : s.placeFor p = (none, s) := if_pos (by simpa using waits)

variable (holds : s.waitsHold p.record = true)
include holds

theorem placeFor_noRoom (room : s.roomFor p = none) : s.placeFor p = (none, s) := by
  rw [State.placeFor, if_neg (by simpa using holds), roomFor_eq]
  simp only [room]

variable {core : Nat} {cs : List Nat} (room : s.roomFor p = some (core, cs))
include room

theorem placeFor_plain (plain : recSlots p.record = 0) : s.placeFor p = (some (.on core cs []), s) := by
  have none' : s.slotsOf (core / 256) p.record = (none, s) := if_pos plain
  rw [State.placeFor, if_neg (by simpa using holds), roomFor_eq]
  simp only [room, none']

theorem placeFor_invalid {t : State} (bad : s.slotsOf (core / 256) p.record = (some none, t)) : s.placeFor p = (some .drop, t) := by
  rw [State.placeFor, if_neg (by simpa using holds), roomFor_eq]
  simp only [room, bad]

theorem placeFor_image {t : State} {es : List (Nat × Nat)} (image : s.slotsOf (core / 256) p.record = (some (some es), t)) :
    s.placeFor p = if t.ownsAny es then (none, t) else (some (.on core cs es), t) := by
  rw [State.placeFor, if_neg (by simpa using holds), roomFor_eq]
  simp only [room, image]

end Decision

theorem ownsAny_iff (t : State) (es : List (Nat × Nat)) : t.ownsAny es = true ↔ ∃ e ∈ es, ∃ q ∈ t.slots, q.1 = e.1 := by
  simp [State.ownsAny]

theorem placeFor_tlb {s t : State} {p : Pending} {x : Option Place} (h : s.placeFor p = (x, t)) : ∃ tlb, t = { s with tlb := tlb } := by
  by_cases holds : s.waitsHold p.record = true
  · cases room : s.roomFor p with
    | none =>
      rw [placeFor_noRoom holds room] at h
      cases h
      exact ⟨s.tlb, rfl⟩
    | some c =>
      obtain ⟨core, cs⟩ := c
      cases slots : s.slotsOf (core / 256) p.record with
      | mk es u =>
        obtain ⟨tlb, hu⟩ := slotsOf_tlb slots
        match es, slots with
        | none, slots =>
          by_cases plain : recSlots p.record = 0
          · rw [placeFor_plain holds room plain] at h
            cases h
            exact ⟨s.tlb, rfl⟩
          · rw [State.placeFor, if_neg (by simpa using holds), roomFor_eq] at h
            simp only [room, slots] at h
            cases h
            exact ⟨tlb, hu⟩
        | some none, slots =>
          rw [placeFor_invalid holds room slots] at h
          cases h
          exact ⟨tlb, hu⟩
        | some (some es), slots =>
          rw [placeFor_image holds room slots] at h
          split at h <;> (cases h; exact ⟨tlb, hu⟩)
  · rw [placeFor_waits holds] at h
    cases h
    exact ⟨s.tlb, rfl⟩

/-! ### The contexts of an instance (R197) -/

theorem startCtxs_shape (inst n : Nat) (r : List Byte) (arg : W64) (l : List (Nat × Nat)) (s : State) :
    ∃ ctxs, startCtxs s inst n r arg l = { s with ctxs := ctxs } := by
  induction l generalizing s with
  | nil => exact ⟨s.ctxs, rfl⟩
  | cons c l ih =>
    obtain ⟨ctxs, h⟩ := ih (s.setCtx c.1 (startCtx inst c.2 n r arg))
    exact ⟨ctxs, by rw [startCtxs, h]; rfl⟩

theorem ctx_startCtxs_ne (inst n : Nat) (r : List Byte) (arg : W64) {c : Nat} (l : List (Nat × Nat)) (apart : ∀ e ∈ l, e.1 ≠ c) (s : State) :
    (startCtxs s inst n r arg l).ctx c = s.ctx c := by
  induction l generalizing s with
  | nil => rfl
  | cons e l ih =>
    rw [startCtxs, ih (fun x hx => apart x (List.mem_cons_of_mem _ hx)), ctx_setCtx_ne _ _ _ _ (apart e List.mem_cons_self).symm]

theorem ctx_startCtxs (inst n : Nat) (r : List Byte) (arg : W64) {c i : Nat} (l : List (Nat × Nat)) (once : (l.map Prod.fst).Nodup) (hc : (c, i) ∈ l) (s : State) :
    (startCtxs s inst n r arg l).ctx c = startCtx inst i n r arg := by
  induction l generalizing s with
  | nil => cases hc
  | cons e l ih =>
    rw [List.map_cons, List.nodup_cons] at once
    obtain ⟨fresh, once⟩ := once
    rw [startCtxs]
    rcases List.mem_cons.1 hc with rfl | hc
    · rw [ctx_startCtxs_ne, ctx_setCtx]
      exact fun x hx same => fresh (List.mem_map.2 ⟨x, hx, same⟩)
    · exact ih once hc _

theorem vget_args {n : Nat} (f : Nat → Reg) (y : Vector Reg n) {k m : Nat} (hm : m < k) (hk : k < n) :
    vget ((List.range k).foldl (fun v j => vset v (j + 1) (f j)) y) (m + 1) Reg.zero = f m := by
  induction k with
  | zero => omega
  | succ k ih =>
    rw [List.range_succ, List.foldl_append, List.foldl_cons, List.foldl_nil]
    by_cases last : m = k
    · rw [last, vget_vset _ _ _ _ hk]
    · rw [vget_vset_ne _ _ _ _ _ (by omega), ih (by omega) (by omega)]

theorem startCtx_args (inst i n : Nat) (r : List Byte) (arg : W64) {m : Nat} (hm : m < 7) :
    vget (startCtx inst i n r arg).regs.y (m + 1) Reg.zero = ⟨recArg r m, false⟩ := vget_args (fun j => ⟨recArg r j, false⟩) Regs.reset.y hm (by decide)

theorem startCtx_x (inst i n : Nat) (r : List Byte) (arg : W64) :
    (startCtx inst i n r arg).regs.rx 1 = ⟨BitVec.ofNat 64 i, false⟩ ∧ (startCtx inst i n r arg).regs.rx 2 = ⟨BitVec.ofNat 64 n, false⟩ ∧
    (startCtx inst i n r arg).regs.rx 3 = ⟨arg, false⟩ := by
  refine ⟨?_, ?_, ?_⟩ <;> rw [Regs.rx, if_neg (by decide), startCtx]
  · exact (vget_vset_ne _ _ _ _ _ (by decide)).trans ((vget_vset_ne _ _ _ _ _ (by decide)).trans (vget_vset _ _ _ _ (by decide)))
  · exact (vget_vset_ne _ _ _ _ _ (by decide)).trans (vget_vset _ _ _ _ (by decide))
  · exact vget_vset _ _ _ _ (by decide)

/-! ### Placement -/

section Placement

variable {t : State} {p : Pending} {core : Nat} {cs : List Nat} {es : List (Nat × Nat)}

theorem giveSlot_shape (s : State) (core : Nat) (cs : List Nat) : ∃ holders, s.giveSlot core cs = { s with holders := holders } := by
  unfold State.giveSlot
  split
  · exact ⟨_, rfl⟩
  · exact ⟨s.holders, rfl⟩

/-- The instance of a placed record. -/
def State.instOf (t : State) (p : Pending) (core : Nat) (cs : List Nat) : Inst :=
  ⟨t.next, p.tok, p.record, p.key, p.arg, BitVec.ofNat 16 (recTenant p.record), core, cs, [], p.level, false⟩

theorem place_shape (t : State) (p : Pending) (core : Nat) (cs : List Nat) (es : List (Nat × Nat)) :
    ∃ holders slots ctxs, t.place p core cs es = { t with
      ctxs := ctxs
      next := t.next + 1
      insts := t.insts ++ [t.instOf p core cs]
      pendings := t.pendings.filter fun x => x.id != p.id
      tiles := clearCells t.tiles (tileKey core (recAcb p.record)) (4096 * recAcn p.record)
      slots := slots
      lines := t.lines.filter fun l => l.1 != core
      holders := holders } ∧ ctxs = (startCtxs t t.next (recCtxs p.record) p.record p.arg cs.zipIdx).ctxs := by
  obtain ⟨ctxs, h⟩ := startCtxs_shape t.next (recCtxs p.record) p.record p.arg cs.zipIdx t
  rw [h]
  unfold State.place
  dsimp only
  rw [h]
  generalize hs2 : State.dropCore _ core = s2
  obtain ⟨holders, hg⟩ := giveSlot_shape s2 core cs
  rw [hg, ← hs2]
  exact ⟨holders, _, ctxs, rfl, rfl⟩

end Placement

end Sys2Proof.Machine
end

section
/-!
O47. What a placement leaves, and the obligation.
-/

namespace Sys2Proof.Machine

section Rooms

variable {s : State} {p : Pending}

theorem homeRoom_first (hh : p.home % 32 < 24) (core : Nat) (cs : List Nat) :
    s.homeRoom p = some (core, cs) ↔
      (core / 256 = p.home / 32 ∧ core / 8 % 32 < 24 ∧ s.hasRoom core p.record) ∧ cs = (s.idle core).take (recCtxs p.record) ∧
      ∀ d, (d / 256 = p.home / 32 ∧ d / 8 % 32 < 24 ∧ s.hasRoom d p.record) →
        clusterGap (core / 8 % 32) (p.home % 32) < clusterGap (d / 8 % 32) (p.home % 32) ∨
          (clusterGap (core / 8 % 32) (p.home % 32) = clusterGap (d / 8 % 32) (p.home % 32) ∧ core ≤ d) := by
  rw [homeRoom_eq, findSome_first (fun a => clusterGap (a / 8 % 32) (p.home % 32)) _ _ (homeCores_sorted ..)]
  simp only [mem_homeCores hh, roomOn_eq, roomOn_isSome]
  constructor
  · rintro ⟨⟨die, small⟩, ⟨room, rfl⟩, least⟩
    exact ⟨⟨die, small, room⟩, rfl, fun d ⟨hd, hs, hr⟩ => least d ⟨hd, hs⟩ hr⟩
  · rintro ⟨⟨die, small, room⟩, rfl, least⟩
    exact ⟨⟨die, small⟩, ⟨room, rfl⟩, fun d ⟨hd, hs⟩ hr => least d ⟨hd, hs, hr⟩⟩

theorem awayRoom_first (hd : p.home / 32 < 4) (core : Nat) (cs : List Nat) :
    s.awayRoom p = some (core, cs) ↔
      (core / 256 < 4 ∧ core / 256 ≠ p.home / 32 ∧ core / 8 % 32 < 24 ∧ s.hasRoom core p.record) ∧ cs = (s.idle core).take (recCtxs p.record) ∧
      ∀ d, (d / 256 < 4 ∧ d / 256 ≠ p.home / 32 ∧ d / 8 % 32 < 24 ∧ s.hasRoom d p.record) →
        dieGap (core / 256) (p.home / 32) < dieGap (d / 256) (p.home / 32) ∨
          (dieGap (core / 256) (p.home / 32) = dieGap (d / 256) (p.home / 32) ∧ core ≤ d) := by
  rw [awayRoom_eq, findSome_first (fun a => dieGap (a / 256) (p.home / 32)) _ _ (awayCores_sorted hd)]
  simp only [mem_awayCores hd, roomOn_eq, roomOn_isSome]
  constructor
  · rintro ⟨⟨die, other, small⟩, ⟨room, rfl⟩, least⟩
    exact ⟨⟨die, other, small, room⟩, rfl, fun d ⟨hd, ho, hs, hr⟩ => least d ⟨hd, ho, hs⟩ hr⟩
  · rintro ⟨⟨die, other, small, room⟩, rfl, least⟩
    exact ⟨⟨die, other, small⟩, ⟨room, rfl⟩, fun d ⟨hd, ho, hs⟩ hr => least d ⟨hd, ho, hs, hr⟩⟩

end Rooms

theorem exec_instancePlacement (id : Nat) (s : State) : exec (.instancePlacement id) s = event "record is placed" (s.placeRecord id) := rfl
theorem exec_pendingLevelAging (id : Nat) (s : State) : exec (.pendingLevelAging id) s = event "pending level rises" (s.ageLevel id) := rfl
theorem exec_crossDieWaitExpiry (id : Nat) (s : State) :
    exec (.crossDieWaitExpiry id) s = event "wait for the home die is over" (s.expireWait id) := rfl

section Placed

variable {s t : State} {p : Pending} (found : s.pendings.find? (fun x => x.id == p.id) = some p)
include found

theorem ageLevel_ok (low : p.level < 3) : exec (.pendingLevelAging p.id) s =
    .next { s with pendings := s.pendings.map fun x => if x.id = p.id then { x with level := x.level + 1 } else x } := by
  have there : (s.pendings.any fun x => x.id == p.id && decide (x.level < 3)) = true :=
    List.any_eq_true.2 ⟨p, List.mem_of_find?_eq_some found, by simp [low]⟩
  have aged : s.ageLevel p.id = some { s with pendings := s.pendings.map fun x => if x.id = p.id then { x with level := x.level + 1 } else x } := if_pos there
  rw [exec_pendingLevelAging, aged, event]

theorem expireWait_ok (first : p.anyDie = false) (holds : s.waitsHold p.record = true) (none' : s.homeRoom p = none) :
    exec (.crossDieWaitExpiry p.id) s = .next { s with pendings := s.pendings.map fun x => if x.id = p.id then { x with anyDie := true } else x } := by
  have over' : s.expireWait p.id = some { s with pendings := s.pendings.map fun x => if x.id = p.id then { x with anyDie := true } else x } := by
    simp only [State.expireWait, found, Option.bind_eq_bind, Option.bind_some]
    exact if_pos (by rw [first, holds, none']; rfl)
  rw [exec_crossDieWaitExpiry, over', event]

variable (noRecord : s.recordBefore p = false) (noImage : s.imageBefore (p.home / 32) p.level = false)
include noRecord noImage

theorem placeRecord_drops (drops : s.placeFor p = (some .drop, t)) :
    exec (.instancePlacement p.id) s = .next ({ t with pendings := t.pendings.filter fun x => x.id != p.id }.finishTok p.tok 21) := by
  have done : s.placeRecord p.id = some ({ t with pendings := t.pendings.filter fun x => x.id != p.id }.finishTok p.tok 21) := by
    simp only [State.placeRecord, found, Option.bind_eq_bind, Option.bind_some, drops]
    exact if_neg (by rw [noRecord, noImage]; decide)
  rw [exec_instancePlacement, done, event]

theorem placeRecord_places {core : Nat} {cs : List Nat} {es : List (Nat × Nat)} (places : s.placeFor p = (some (.on core cs es), t)) :
    exec (.instancePlacement p.id) s = .next (t.place p core cs es) := by
  have done : s.placeRecord p.id = some (t.place p core cs es) := by
    simp only [State.placeRecord, found, Option.bind_eq_bind, Option.bind_some, places]
    exact if_neg (by rw [noRecord, noImage]; decide)
  rw [exec_instancePlacement, done, event]

end Placed

/-- What a context of a new instance holds (R197). -/
def StartsWith (k : Ctx) (p : Pending) (j : Nat) : Prop :=
  k.run = .running ∧ k.pc = BitVec.ofNat 64 (recCode p.record) ∧ k.regs.rx 1 = ⟨BitVec.ofNat 64 j, false⟩ ∧
  k.regs.rx 2 = ⟨BitVec.ofNat 64 (recCtxs p.record), false⟩ ∧ k.regs.rx 3 = ⟨p.arg, false⟩ ∧
  (∀ m < 7, vget k.regs.y (m + 1) Reg.zero = ⟨BitVec.ofNat 64 (leNat ((p.record.drop (72 + 8 * m)).take 8)), false⟩) ∧
  k.sr.slack = BitVec.ofNat 64 (recSlack p.record) ∧ k.sr.tenant = BitVec.ofNat 16 (recTenant p.record) ∧ k.spBase = recBase p.record ∧
  k.spSize = recSize p.record ∧ k.acb = recAcb p.record ∧ k.acn = recAcn p.record

theorem startCtx_startsWith (inst j : Nat) (p : Pending) : StartsWith (startCtx inst j (recCtxs p.record) p.record p.arg) p j := by
  obtain ⟨x1, x2, x3⟩ := startCtx_x inst j (recCtxs p.record) p.record p.arg
  exact ⟨rfl, rfl, x1, x2, x3, fun m hm => startCtx_args inst j (recCtxs p.record) p.record p.arg hm, rfl, rfl, rfl, rfl, rfl, rfl⟩

/-- What a placement leaves. -/
theorem place_leaves {t : State} {p : Pending} {core : Nat} {cs : List Nat} (es : List (Nat × Nat)) (once : cs.Nodup) (wf : Memory.wf t.tiles = true) :
    (∀ x ∈ (t.place p core cs es).pendings, x.id ≠ p.id) ∧
    (∃ i ∈ (t.place p core cs es).insts, i.id = t.next ∧ i.tok = p.tok ∧ i.core = core ∧ i.ctxs = cs ∧ i.ended = []) ∧
    (∀ k, tileKey core (recAcb p.record) ≤ k → k < tileKey core (recAcb p.record) + 4096 * recAcn p.record → cellAt (t.place p core cs es).tiles k = 0) ∧
    (∀ l ∈ (t.place p core cs es).lines, l.1 ≠ core) ∧
    ∀ j c, cs[j]? = some c → StartsWith ((t.place p core cs es).ctx c) p j := by
  obtain ⟨holders, slots, ctxs, h, hctxs⟩ := place_shape t p core cs es
  rw [h]
  refine ⟨fun x hx => ?_, ⟨t.instOf p core cs, List.mem_append_right _ List.mem_cons_self, rfl, rfl, rfl, rfl, rfl⟩, fun k low high => ?_, fun l hl => ?_,
    fun j c hc => ?_⟩
  · simpa using (List.mem_filter.1 hx).2
  · exact (cellAt_clearCells wf _ _ _).trans (if_pos ⟨low, high⟩)
  · simpa using (List.mem_filter.1 hl).2
  · have names : (cs.zipIdx.map Prod.fst).Nodup := by rwa [List.zipIdx_map_fst]
    have member : (c, j) ∈ cs.zipIdx := List.mem_zipIdx_iff_getElem?.2 hc
    have started := ctx_startCtxs t.next (recCtxs p.record) p.record p.arg cs.zipIdx names member t
    have same (u : State) (hu : u.ctxs = ctxs) : u.ctx c = startCtx t.next j (recCtxs p.record) p.record p.arg := by
      rw [← started, State.ctx, State.ctx, hu, hctxs]
    rw [same _ rfl]
    exact startCtx_startsWith t.next j p

/-- Settles O47: launches, homes, the search for room, and placement. -/
theorem launchesAndPlacement : Obligations.LaunchesAndPlacement := by
  unfold Obligations.LaunchesAndPlacement
  refine ⟨fun s c hf h a arg again snap found op stage => ?_, fun s c r => homeOf_cases s c r, fun s p => ?_, fun s p found => ?_⟩
  · intro key enters room
    refine ⟨fun fresh plain alone => ?_, fun first none' torn => ?_, fun r first kept enough => ?_⟩
    · intro takes r code field ref on wrongCode wrongLimit stream wrongTenant wrongRef notOwn whole
      have taken : takes = .next (s.snapshot c hf h a arg) := by
        cases again with
        | true => exact resnapshot_taken found op (alone rfl) whole
        | false =>
          have none' : snap = none := by simpa using fresh
          exact launchSnapshot_first found (by rw [op, none']) (stage rfl) whole
      obtain ⟨refused, single, enters'⟩ := snapshot_outcomes plain taken (r := r) rfl (code := code) rfl
      obtain ⟨one, two, three, rest⟩ := refusal_codes s r c.tenant (s.ctx c.ctx).stream
      have user : ¬ stream ↔ (s.ctx c.ctx).stream = false := Bool.not_eq_true (s.ctx c.ctx).stream ▸ Iff.rfl
      have tenants : wrongTenant ↔ recTenant r ≠ c.tenant.toNat ∧ (s.ctx c.ctx).stream = false := and_congr_right fun _ => user
      have foreign : notOwn ↔ (s.ctx c.ctx).stream = false ∧ recNotOwn s r := and_congr_left fun _ => user
      refine ⟨refused, one, two, fun h1 h2 h3 => three h1 h2 (tenants.1 h3), fun h1 h2 h3 => ?_, single, enters'⟩
      obtain ⟨four, six, zero⟩ := rest h1 h2 (mt tenants.2 h3)
      exact ⟨four, fun h4 h6 => six h4 (foreign.1 h6), fun h4 h6 => zero h4 (mt foreign.2 h6)⟩
    · subst first none'
      exact ⟨_, launchSnapshot_torn found op torn⟩
    · subst first kept
      exact launchSnapshot_kept found op enough
  · intro die r ref holds cluster far atHome away room
    have waits : s.waitsHold r = true ↔ holds := waitsHold_iff r
    have same : room = s.roomFor p := rfl
    refine ⟨waits, fun hh hd core cs => ⟨homeRoom_first hh core cs, awayRoom_first hd core cs⟩, fun no => placeFor_waits (mt waits.1 no),
      fun yes none' => placeFor_noRoom (waits.2 yes) none', fun core cs yes there => ?_⟩
    refine ⟨placeFor_plain (waits.2 yes) there, fun t => placeFor_invalid (waits.2 yes) there, fun es t image => ?_⟩
    rw [placeFor_image (waits.2 yes) there image]
    exact if_congr (ownsAny_iff t es) rfl rfl
  · intro places
    refine ⟨fun noRecord noImage => ⟨fun t drops => placeRecord_drops found noRecord noImage drops, fun core cs es t there once inv => ?_⟩,
      fun low => ageLevel_ok found low, fun first waits none' => expireWait_ok found first waits none'⟩
    intro r
    obtain ⟨tlb, rfl⟩ := placeFor_tlb there
    exact ⟨_, placeRecord_places found noRecord noImage there, place_leaves es once inv.tiles⟩

end Sys2Proof.Machine
end

section
/-!
O48. Ends of parts and of instances, saves, resumptions and acknowledgements.
-/

namespace Sys2Proof.Machine

/-! ### What leaves the memories alone -/

/-- The memories of two states are the same. -/
structure State.SameData (s t : State) : Prop where
  mem : t.mem = s.mem
  tags : t.tags = s.tags
  tiles : t.tiles = s.tiles
  sems : t.sems = s.sems

theorem State.SameData.refl (s : State) : s.SameData s := ⟨rfl, rfl, rfl, rfl⟩

theorem State.SameData.trans {s t u : State} (h : s.SameData t) (h' : t.SameData u) : s.SameData u :=
  ⟨h'.mem.trans h.mem, h'.tags.trans h.tags, h'.tiles.trans h.tiles, h'.sems.trans h.sems⟩

theorem State.SameData.inv {s t : State} (h : s.SameData t) (inv : s.Inv) : t.Inv :=
  ⟨by rw [h.mem]; exact inv.mem, by rw [h.tags]; exact inv.tags, by rw [h.tiles]; exact inv.tiles, by rw [h.sems]; exact inv.sems⟩

/-- The memories, the running instances and the saved ones of two states are the same. -/
structure State.SameTasks (s t : State) : Prop where
  data : s.SameData t
  insts : t.insts = s.insts
  images : t.images = s.images

theorem State.SameTasks.refl (s : State) : s.SameTasks s := ⟨.refl s, rfl, rfl⟩

theorem State.SameTasks.trans {s t u : State} (h : s.SameTasks t) (h' : t.SameTasks u) : s.SameTasks u :=
  ⟨h.data.trans h'.data, h'.insts.trans h.insts, h'.images.trans h.images⟩

theorem finishTok_sameTasks (s : State) (t code : Nat) : s.SameTasks (s.finishTok t code) := by
  obtain ⟨toks, ctxs, h⟩ := finishTok_shape s t code
  rw [h]
  exact ⟨⟨rfl, rfl, rfl, rfl⟩, rfl, rfl⟩

theorem setCtx_sameTasks (s : State) (c : Nat) (k : Ctx) : s.SameTasks (s.setCtx c k) := ⟨⟨rfl, rfl, rfl, rfl⟩, rfl, rfl⟩

theorem rename_sameTasks (s : State) (c v : Nat) : s.SameTasks (s.rename c v) := ⟨⟨rfl, rfl, rfl, rfl⟩, rfl, rfl⟩

theorem addWalk_sameTasks (s : State) (id c wc tok : Nat) (cu : Cursor) (link : BitVec 128) (restart : Bool) :
    s.SameTasks (s.addWalk id c wc tok cu link restart) := ⟨⟨rfl, rfl, rfl, rfl⟩, rfl, rfl⟩

theorem restartWalk_sameTasks (s : State) (id c wc tok : Nat) (v : Cursor) : s.SameTasks (s.restartWalk id c wc tok v) := by
  unfold State.restartWalk
  split
  · exact (setCtx_sameTasks ..).trans (finishTok_sameTasks ..)
  · split <;> exact addWalk_sameTasks ..

theorem reland_sameTasks (s : State) (c wc : Nat) (kept : Option Landed) : s.SameTasks (s.reland c wc kept) := by
  unfold State.reland
  split
  · exact ⟨⟨rfl, rfl, rfl, rfl⟩, rfl, rfl⟩
  · exact .refl s

theorem restoreCtxs_sameTasks (inst : Nat) (mv : List (Nat × Nat × Nat)) (s : State) : s.SameTasks (restoreCtxs s inst mv) := by
  induction mv generalizing s with
  | nil => exact .refl s
  | cons p mv ih =>
    have first : s.SameTasks { (s.rename p.1 p.2.2).setCtx p.2.2 { s.ctx p.1 with task := some (inst, p.2.1) } with
        ctxs := alDel ((s.rename p.1 p.2.2).setCtx p.2.2 { s.ctx p.1 with task := some (inst, p.2.1) }).ctxs p.1 } :=
      ⟨⟨rfl, rfl, rfl, rfl⟩, rfl, rfl⟩
    exact first.trans (ih _)

theorem restoreWalks_sameTasks (mv : List (Nat × Nat × Nat)) (ws : List (Nat × (Nat × (Nat × Option Landed)))) (s : State) :
    s.SameTasks (restoreWalks s mv ws) := by
  induction ws generalizing s with
  | nil => exact .refl s
  | cons w ws ih =>
    obtain ⟨v, wc, tok, kept⟩ := w
    unfold restoreWalks
    split
    · exact ih s
    · next c _ =>
      have next : s.SameTasks { s with next := s.next + 1 } := ⟨⟨rfl, rfl, rfl, rfl⟩, rfl, rfl⟩
      exact ((next.trans (restartWalk_sameTasks ..)).trans (reland_sameTasks ..)).trans (ih _)

theorem freeUnread_sameTasks (cl : Nat) (ls : List Landed) (s : State) : s.SameTasks (freeUnread s cl ls) := by
  obtain ⟨bins, h⟩ := freeUnread_shape cl ls s
  rw [h]
  exact ⟨⟨rfl, rfl, rfl, rfl⟩, rfl, rfl⟩

theorem saveWalks_sameTasks (ws : List Walk) (s : State) : s.SameTasks (saveWalks s ws) := by
  induction ws generalizing s with
  | nil => exact .refl s
  | cons w ws ih =>
    have dropped (t : State) : t.SameTasks (t.dropWalk w) := ⟨⟨rfl, rfl, rfl, rfl⟩, rfl, rfl⟩
    exact ((freeUnread_sameTasks ..).trans (dropped _)).trans (ih _)

theorem saveCtxs_sameTasks (cs : List (Nat × Nat)) (s : State) : s.SameTasks (saveCtxs s cs) := by
  induction cs generalizing s with
  | nil => exact .refl s
  | cons c cs ih =>
    exact (((rename_sameTasks s c.1 c.2).trans (setCtx_sameTasks ..)).trans (setCtx_sameTasks ..)).trans (ih _)

theorem finishToks_sameTasks (code : Nat) (ts : List Nat) (s : State) : s.SameTasks (finishToks s code ts) := by
  induction ts generalizing s with
  | nil => exact .refl s
  | cons t ts ih => exact (finishTok_sameTasks s t code).trans (ih _)

theorem giveSlot_sameTasks (s : State) (core : Nat) (cs : List Nat) : s.SameTasks (s.giveSlot core cs) := by
  obtain ⟨holders, h⟩ := giveSlot_shape s core cs
  rw [h]
  exact ⟨⟨rfl, rfl, rfl, rfl⟩, rfl, rfl⟩

/-! ### The end of a part (R199) -/

theorem exec_contextPartEnd (c : Nat) (s : State) : exec (.contextPartEnd c) s = event "part of a context ends" (s.endPart c) := rfl

section Part

variable {s : State} {c : Nat} {ks : List (Option Nat)} (retired : (s.ctx c).retiring = some ks)
include retired

theorem endPart_stream (own : (s.ctx c).task = none) : exec (.contextPartEnd c) s = .next (s.setCtx c { s.ctx c with retiring := none }) := by
  have ended : s.endPart c = some (s.setCtx c { s.ctx c with retiring := none }) := by
    simp only [State.endPart, retired, Option.bind_eq_bind, Option.bind_some, own]
  rw [exec_contextPartEnd, ended, event]

omit retired in
/-- A part is over when nothing of its context is left. -/
theorem partOver_of (done : ∀ t ∈ ks, s.tokDone t = true) (stores : (s.ctx c).stores = []) (due : (s.ctx c).due = none)
    (noM : ∀ m ∈ s.mcmds, m.ctx ≠ c) (noE : ∀ e ∈ s.ecmds, e.ctx ≠ c) (noW : ∀ w ∈ s.walks, w.ctx ≠ c)
    (words : ∀ f ∈ (s.ctx c).flight, f.arrived = false → f.again = false → ∀ q n ord slot v, f.res ≠ .f q n ord slot v) :
    s.partOver c ks = true := by
  have none' : (s.ecmds.filter fun e => e.ctx == c) = [] := List.filter_eq_nil_iff.2 fun e he => by simpa using noE e he
  have flights : ((s.ctx c).flight.all fun f => f.arrived || f.again || !f.pushes) = true := by
    rw [List.all_eq_true]
    intro f hf
    cases ha : f.arrived with
    | true => rfl
    | false =>
      cases hg : f.again with
      | true => rfl
      | false =>
        have plain := words f hf ha hg
        unfold Flight.pushes
        split
        · next q n ord slot v h => exact absurd h (plain q n ord slot v)
        · rfl
  unfold State.partOver
  dsimp only
  rw [none', flights, stores, due, List.all_eq_true.2 done]
  simpa [storeIds] using ⟨noM, fun w hw own => absurd own (noW w hw)⟩

/-- What a context's end leaves. -/
theorem endPart_leaves {i j : Nat} {x : Inst} (task : (s.ctx c).task = some (i, j)) (inst : s.insts.find? (fun y => y.id == i) = some x)
    (over' : s.partOver c ks = true) (noW : ∀ w ∈ s.walks, w.ctx ≠ c) :
    ∃ t, exec (.contextPartEnd c) s = .next t ∧ t.ctx c = Ctx.reset ∧ (∀ d, d ≠ c → t.ctx d = s.ctx d) ∧ t.mem = s.mem ∧
      (∀ p ∈ t.claims, p.2.1 ≠ c) ∧ (∃ y ∈ t.insts, y.id = i ∧ (x.ended.map Prod.fst) ++ [j] = y.ended.map Prod.fst) := by
  have walks : (s.walks.filter fun w => w.ctx == c) = [] := List.filter_eq_nil_iff.2 fun w hw => by simpa using noW w hw
  have named : x.id = i := by simpa using List.find?_some inst
  have ended : ∃ n o, s.endPart c = some { ((s.freeClaims [c]).rename c ((s.freeClaims [c]).keepNo c)).setCtx c Ctx.reset with
      next := n
      orphans := o
      insts := s.insts.map fun y => if y.id = i then { x with ended := x.ended ++ [(j, (s.freeClaims [c]).keepNo c)] } else y } := by
    simp only [State.endPart, retired, Option.bind_eq_bind, Option.bind_some, task, inst, over', walks, stopWalks]
    exact ⟨_, _, rfl⟩
  obtain ⟨n, o, ended⟩ := ended
  have next := (exec_contextPartEnd c s).trans (congrArg (event _) ended)
  refine ⟨_, next, ctx_setCtx .., fun d hd => ctx_setCtx_ne _ _ _ _ hd, rfl, fun p hp => ?_,
    ⟨_, List.mem_map.2 ⟨x, List.mem_of_find?_eq_some inst, if_pos named⟩, named, by simp⟩⟩
  obtain ⟨q, hq, rfl⟩ := List.mem_map.1 (show p ∈ (s.freeClaims [c]).claims.map _ from hp)
  have other : q.2.1 ≠ c := by simpa using (List.mem_filter.1 hq).2
  simpa [if_neg other] using other

end Part

/-! ### The end of an instance (R200) -/

theorem tokDone_finishTok (s : State) (t code : Nat) : (s.finishTok t code).tokDone (some t) = true := by
  by_cases opened : ∃ o, alGet s.toks t = some ⟨o, none⟩
  · obtain ⟨o, ho⟩ := opened
    exact (completes_finishTok s t code o ho).1
  · have closed (o : Nat) : alGet s.toks t ≠ some ⟨o, none⟩ := fun h => opened ⟨o, h⟩
    have same := alGet_finishTok_closed s t code closed
    cases h : alGet s.toks t with
    | none => simp only [State.tokDone, same, h]
    | some k =>
      obtain ⟨o, k⟩ := k
      cases k with
      | none => exact absurd h (closed o)
      | some k => simp only [State.tokDone, same, h]

theorem alGet_finishToks_ne (code : Nat) {u : Nat} (ts : List Nat) (apart : ∀ t ∈ ts, t ≠ u) (s : State) :
    alGet (finishToks s code ts).toks u = alGet s.toks u := by
  induction ts generalizing s with
  | nil => rfl
  | cons t ts ih =>
    rw [finishToks, ih fun x hx => apart x (List.mem_cons_of_mem _ hx)]
    exact alGet_finishTok_ne _ _ _ (apart t List.mem_cons_self).symm

theorem sigStep_eq (v : Nat) : BitVec.ofInt 64 (signedOf 48 (bits v 16 48)) = (BitVec.ofNat 48 (v / 2 ^ 16)).signExtend 64 := by
  have low : BitVec.ofNat 48 (bits v 16 48) = BitVec.ofNat 48 (v / 2 ^ 16) :=
    BitVec.eq_of_toNat_eq (by rw [BitVec.toNat_ofNat, BitVec.toNat_ofNat, bits, Nat.mod_mod])
  rw [signedOf_eq_toInt, low]
  rfl

theorem addSig_off (s : State) {v : Nat} (off : refOn v = false) : s.addSig v = s := if_neg (by rw [off]; exact Bool.false_ne_true)

theorem addSig_toks (s : State) (v : Nat) : (s.addSig v).toks = s.toks := by
  unfold State.addSig
  split <;> rfl

theorem sem_addSig {s : State} (wf : Memory.wf s.sems = true) (v ref : Nat) : (s.addSig v).sem ref =
    if refOn v = true ∧ ref = v % 2 ^ 15 then s.sem ref + (BitVec.ofNat 48 (v / 2 ^ 16)).signExtend 64 else s.sem ref := by
  have low : bits v 0 15 = v % 2 ^ 15 := by simp [bits]
  by_cases on : refOn v = true
  · have added : s.addSig v = s.setSem (bits v 0 15) (s.sem (bits v 0 15) + BitVec.ofInt 64 (signedOf 48 (bits v 16 48))) := if_pos on
    rw [added, low, sigStep_eq]
    refine (cellAt_setCell wf _ _ _).trans ?_
    by_cases same : ref = v % 2 ^ 15
    · rw [if_pos same, if_pos ⟨on, same⟩, same]
    · rw [if_neg same, if_neg fun h => same h.2]
      rfl
  · rw [addSig_off s (by simpa using on), if_neg fun h => on h.1]

theorem exec_instanceEnd (id : Nat) (s : State) : exec (.instanceEnd id) s = event "instance ends" (s.endInst id) := rfl

section InstEnd

variable {s : State} {i : Inst} (found : s.insts.find? (fun y => y.id == i.id) = some i) (all : i.ctxs.length ≤ i.ended.length)

/-- What is left of an ended instance's commands is discarded, with code 5. -/
def State.discarded (s : State) (i : Inst) : State :=
  { finishToks s 5 ((s.ecmds.filter fun c => (i.ended.map Prod.snd).contains c.ctx).map ECmd.tok) with
    ecmds := (finishToks s 5 ((s.ecmds.filter fun c => (i.ended.map Prod.snd).contains c.ctx).map ECmd.tok)).ecmds.filter fun c =>
      !(i.ended.map Prod.snd).contains c.ctx }

theorem discarded_sems (s : State) (i : Inst) : (s.discarded i).sems = s.sems := (finishToks_sameTasks 5 _ s).data.sems

theorem discarded_toks (s : State) (i : Inst) (apart : ∀ e ∈ s.ecmds, e.tok ≠ i.tok) : alGet (s.discarded i).toks i.tok = alGet s.toks i.tok := by
  refine alGet_finishToks_ne 5 _ (fun t ht => ?_) s
  obtain ⟨e, he, rfl⟩ := List.mem_map.1 ht
  exact apart e (List.mem_filter.1 he).1

include found all

theorem endInst_ok : exec (.instanceEnd i.id) s = .next
    { ((((s.discarded i).addSig (recRef i.record 2)).addSig (recRef i.record 3)).finishTok i.tok 0).freeSlots i.id with
      insts := ((((s.discarded i).addSig (recRef i.record 2)).addSig (recRef i.record 3)).finishTok i.tok 0).insts.filter fun x => x.id != i.id } := by
  have ended : s.endInst i.id = some
      { ((((s.discarded i).addSig (recRef i.record 2)).addSig (recRef i.record 3)).finishTok i.tok 0).freeSlots i.id with
        insts := ((((s.discarded i).addSig (recRef i.record 2)).addSig (recRef i.record 3)).finishTok i.tok 0).insts.filter fun x => x.id != i.id } := by
    simp only [State.endInst, found, Option.bind_eq_bind, Option.bind_some]
    exact if_neg (Nat.not_lt.2 all)
  rw [exec_instanceEnd, ended, event]

/-- What an ended instance leaves. -/
theorem endInst_leaves : ∃ t, exec (.instanceEnd i.id) s = .next t ∧ (∀ y ∈ t.insts, y.id ≠ i.id) ∧ (∀ p ∈ t.slots, p.2.2 ≠ i.id) ∧
    t.tokDone (some i.tok) = true ∧
    (∀ o, alGet s.toks i.tok = some ⟨o, none⟩ → (∀ e ∈ s.ecmds, e.tok ≠ i.tok) → t.tokCode (some i.tok) = 0) ∧
    (s.Inv → refOn (recRef i.record 3) = false → ∀ ref, t.sem ref =
      if refOn (recRef i.record 2) = true ∧ ref = recRef i.record 2 % 2 ^ 15 then
        s.sem ref + ((BitVec.ofNat 48 (recRef i.record 2 / 2 ^ 16)).signExtend 64)
      else s.sem ref) := by
  have toks : (((s.discarded i).addSig (recRef i.record 2)).addSig (recRef i.record 3)).toks = (s.discarded i).toks := by rw [addSig_toks, addSig_toks]
  generalize h2 : ((s.discarded i).addSig (recRef i.record 2)).addSig (recRef i.record 3) = s2 at toks
  have ends := endInst_ok found all
  rw [h2] at ends
  refine ⟨_, ends, fun y hy => by simpa using (List.mem_filter.1 hy).2, fun p hp => by simpa using (List.mem_filter.1 hp).2,
    tokDone_finishTok s2 i.tok 0, fun o opened alone => ?_, fun inv off ref => ?_⟩
  · exact (completes_finishTok s2 i.tok 0 o (by rw [toks, discarded_toks s i alone, opened])).2
  · have sems : (s2.finishTok i.tok 0).sems = s2.sems := (finishTok_sameTasks s2 i.tok 0).data.sems
    have same : s2.sem ref = ((s.discarded i).addSig (recRef i.record 2)).sem ref := by rw [← h2, addSig_off _ off]
    have wf : Memory.wf (s.discarded i).sems = true := by rw [discarded_sems]; exact inv.sems
    have before : (s.discarded i).sem ref = s.sem ref := by rw [State.sem, State.sem, discarded_sems]
    rw [← before, ← sem_addSig wf, ← same, State.sem, State.sem, ← sems]
    rfl

end InstEnd

/-! ### Acknowledgements (R220) -/

theorem exec_invalidationAck (id : Nat) (s : State) : exec (.invalidationAck id) s = event "invalidation is acknowledged" (s.ackInval id) := rfl

theorem ackInval_ok {s : State} {v : Inval} (found : s.invals.find? (fun x => x.id == v.id) = some v) (settled : s.settledFor v.tenant v.va v.len = true) :
    exec (.invalidationAck v.id) s = .next ({ s with invals := s.invals.filter fun x => x.id != v.id }.putStatus v.rq 0) := by
  have acked : s.ackInval v.id = some ({ s with invals := s.invals.filter fun x => x.id != v.id }.putStatus v.rq 0) := by
    simp only [State.ackInval, found, Option.bind_eq_bind, Option.bind_some]
    exact if_pos settled
  rw [exec_invalidationAck, acked, event]

/-! ### Saves (R342, R343) -/

theorem ctx_saveCtxs_reset {c : Nat} (cs : List (Nat × Nat)) (apart : ∀ p ∈ cs, p.2 ≠ c) {s : State} (h : s.ctx c = Ctx.reset ∨ ∃ p ∈ cs, p.1 = c) :
    (saveCtxs s cs).ctx c = Ctx.reset := by
  induction cs generalizing s with
  | nil =>
    rcases h with h | ⟨q, hq, -⟩
    · exact h
    · cases hq
  | cons p cs ih =>
    obtain ⟨d, v⟩ := p
    rw [saveCtxs]
    refine ih (fun q hq => apart q (List.mem_cons_of_mem _ hq)) ?_
    by_cases here : d = c
    · exact .inl (by rw [here, ctx_setCtx])
    · rcases h with reset | ⟨q, hq, same⟩
      · left
        rw [ctx_setCtx_ne _ _ _ _ (Ne.symm here), ctx_setCtx_ne _ _ _ _ (apart (d, v) List.mem_cons_self).symm]
        exact reset
      · rcases List.mem_cons.1 hq with rfl | hq
        · exact absurd same here
        · exact .inr ⟨q, hq, same⟩

theorem exec_preemptSave (id : Nat) (s : State) : exec (.preemptSave id) s = event "instance is saved" (s.saveInst id) := rfl

section Save

variable {s : State} {i : Inst}

/-- The contexts of an instance that is saved, with the numbers they are kept under. -/
def State.keptAs (s : State) (i : Inst) : List (Nat × Nat) :=
  (i.ctxs.zipIdx.filter fun p => !(i.ended.map Prod.fst).contains p.2).map fun p => (p.1, 4096 * (s.next + 1) + p.1 % 4096)

/-- The device with a stopped instance's walks and contexts put away. -/
def State.putAway (s : State) (i : Inst) : State := saveCtxs (saveWalks s (s.walks.filter fun w => i.live.contains w.ctx)) (s.keptAs i)

theorem putAway_sameTasks (s : State) (i : Inst) : s.SameTasks (s.putAway i) := (saveWalks_sameTasks ..).trans (saveCtxs_sameTasks ..)

theorem putAway_resets (low : ∀ c ∈ i.ctxs, c < 4096) {c : Nat} (live : c ∈ i.live) : (s.putAway i).ctx c = Ctx.reset := by
  obtain ⟨p, hp, rfl⟩ := List.mem_map.1 live
  have small : p.1 < 4096 := low _ (by
    obtain ⟨-, h, hx⟩ := List.mem_zipIdx (List.mem_filter.1 hp).1
    rw [hx]
    exact List.getElem_mem _)
  refine ctx_saveCtxs_reset _ (fun q hq => ?_) (.inr ⟨(p.1, 4096 * (s.next + 1) + p.1 % 4096), List.mem_map.2 ⟨p, hp, rfl⟩, rfl⟩)
  obtain ⟨x, -, rfl⟩ := List.mem_map.1 hq
  dsimp only
  omega

variable (found : s.insts.find? (fun y => y.id == i.id) = some i) (stopping : i.stopping = true)
  (quiet : ∀ c ∈ i.live ++ i.ended.map Prod.snd, s.quiet c = true)
include found stopping quiet

theorem saveInst_leaves (low : ∀ c ∈ i.ctxs, c < 4096) : ∃ t m, exec (.preemptSave i.id) s = .next t ∧ t.images = s.images ++ [m] ∧
    (∀ y ∈ t.insts, y.id ≠ i.id) ∧ (∀ c ∈ i.live, t.ctx c = Ctx.reset) ∧ m.core = i.core ∧ m.level = i.level ∧ m.resuming = false ∧
    m.bytes = readCells s.mem (spadKey (i.core / 8) (recBase i.record)) (recSize i.record) ∧
    m.tags = readCells s.tags (spadKey (i.core / 8) (recBase i.record)) (recSize i.record) ∧
    m.tiles = readCells s.tiles (tileKey i.core (recAcb i.record)) (4096 * recAcn i.record) := by
  have ready : ¬ (!i.stopping || !((i.live ++ i.ended.map Prod.snd).all s.quiet)) = true := by
    rw [stopping, List.all_eq_true.2 quiet]
    decide
  have saved : ∃ m : Image, s.saveInst i.id = some { (s.putAway i).freeSlots i.id with
      next := s.next + 1
      insts := (s.putAway i).insts.filter fun x => x.id != i.id
      images := (s.putAway i).images ++ [m] } ∧
      m.core = i.core ∧ m.level = i.level ∧ m.resuming = false ∧ m.bytes = readCells s.mem (spadKey (i.core / 8) (recBase i.record)) (recSize i.record) ∧
      m.tags = readCells s.tags (spadKey (i.core / 8) (recBase i.record)) (recSize i.record) ∧
      m.tiles = readCells s.tiles (tileKey i.core (recAcb i.record)) (4096 * recAcn i.record) := by
    simp only [State.saveInst, found, Option.bind_eq_bind, Option.bind_some, if_neg ready]
    exact ⟨_, rfl, rfl, rfl, rfl, rfl, rfl, rfl⟩
  obtain ⟨m, saved, core, level, resuming, bytes, tags, tiles⟩ := saved
  have next := (exec_preemptSave i.id s).trans (congrArg (event _) saved)
  refine ⟨_, m, next, ?_, fun y hy => by simpa using (List.mem_filter.1 hy).2, fun c hc => putAway_resets low hc,
    core, level, resuming, bytes, tags, tiles⟩
  exact congrArg (· ++ [m]) (putAway_sameTasks s i).images

end Save

/-! ### Resumptions (R344) -/

theorem exec_resumePlacement (id : Nat) (s : State) : exec (.resumePlacement id) s = event "saved image is placed" (s.resumeImage id) := rfl

section Resume

variable {s : State} {m : Image} {core : Nat} {cs : List Nat}

/-- The kept numbers of a saved instance's contexts, their places in it and their new numbers. -/
def Image.moves (m : Image) (cs : List Nat) : List (Nat × Nat × Nat) := (m.ctxs.zip cs).map fun p => (p.1.2, p.1.1, p.2)

/-- The device with a saved instance's memory and contexts back. -/
def State.broughtBack (s : State) (m : Image) (core : Nat) (cs : List Nat) : State :=
  { restoreCtxs s m.inst.id (m.moves cs) with
    mem := writeCells (restoreCtxs s m.inst.id (m.moves cs)).mem (spadKey (core / 8) (recBase m.inst.record)) m.bytes
    tags := writeCells (restoreCtxs s m.inst.id (m.moves cs)).tags (spadKey (core / 8) (recBase m.inst.record)) m.tags
    tiles := writeCells (restoreCtxs s m.inst.id (m.moves cs)).tiles (tileKey core (recAcb m.inst.record)) m.tiles
    slots := m.slots.foldl (fun l (e : Nat × Nat) => alSet l e.1 (e.2, m.inst.id)) (restoreCtxs s m.inst.id (m.moves cs)).slots
    images := (restoreCtxs s m.inst.id (m.moves cs)).images.filter fun x => x.inst.id != m.inst.id
    insts := (restoreCtxs s m.inst.id (m.moves cs)).insts ++ [m.inst.moved core (m.moves cs)] }

/-- The device with its walks started again too. -/
def State.resumed (s : State) (m : Image) (core : Nat) (cs : List Nat) : State :=
  ((restoreWalks (s.broughtBack m core cs) (m.moves cs) m.walks).dropCore core).giveSlot core ((m.moves cs).map fun p => p.2.2)

theorem resumed_sameTasks (s : State) (m : Image) (core : Nat) (cs : List Nat) : (s.broughtBack m core cs).SameTasks (s.resumed m core cs) := by
  have dropped (t : State) : t.SameTasks (t.dropCore core) := ⟨⟨rfl, rfl, rfl, rfl⟩, rfl, rfl⟩
  exact ((restoreWalks_sameTasks ..).trans (dropped _)).trans (giveSlot_sameTasks ..)

theorem resumed_leaves (inv : s.Inv) :
    (∀ y ∈ (s.resumed m core cs).images, y.inst.id ≠ m.inst.id) ∧ (∃ y ∈ (s.resumed m core cs).insts, y.id = m.inst.id ∧ y.core = core) ∧
    readCells (s.resumed m core cs).mem (spadKey (core / 8) (recBase m.inst.record)) m.bytes.length = m.bytes ∧
    readCells (s.resumed m core cs).tags (spadKey (core / 8) (recBase m.inst.record)) m.tags.length = m.tags ∧
    readCells (s.resumed m core cs).tiles (tileKey core (recAcb m.inst.record)) m.tiles.length = m.tiles := by
  have wf := (restoreCtxs_sameTasks m.inst.id (m.moves cs) s).data.inv inv
  obtain ⟨data, insts, images⟩ := resumed_sameTasks s m core cs
  rw [insts, images, data.mem, data.tags, data.tiles]
  exact ⟨fun y hy => by simpa using (List.mem_filter.1 hy).2, ⟨_, List.mem_append_right _ List.mem_cons_self, rfl, rfl⟩,
    readCells_writeCells wf.mem .., readCells_writeCells wf.tags .., readCells_writeCells wf.tiles ..⟩

variable (found : s.images.find? (fun y => y.inst.id == m.inst.id) = some m) (resuming : m.resuming = true) (room : s.imageRoom m = some (core, cs))
include found resuming room

theorem resumeImage_ok
    (noImage : ∀ x ∈ s.images, x.resuming = true → x.core / 256 = m.core / 256 → (m.level < x.level ∨ (x.level = m.level ∧ x.inst.id < m.inst.id)) →
      s.imageRoom x = none)
    (noRecord : ∀ x ∈ s.pendings, x.home / 32 = m.core / 256 → m.level < x.level → (s.placeFor x).1 = none) :
    exec (.resumePlacement m.inst.id) s = .next (s.resumed m core cs) := by
  have images : (s.images.any fun x => x.resuming && x.core / 256 == m.core / 256 && (decide (m.level < x.level) ||
      (x.level == m.level && decide (x.inst.id < m.inst.id))) && (s.imageRoom x).isSome) = false := by
    rw [List.any_eq_false]
    intro x hx first
    simp only [Bool.and_eq_true, Bool.or_eq_true, beq_iff_eq, decide_eq_true_eq] at first
    obtain ⟨⟨⟨on, die⟩, before⟩, fits⟩ := first
    rw [noImage x hx on die before] at fits
    cases fits
  have records : (s.pendings.any fun x => x.home / 32 == m.core / 256 && decide (m.level < x.level) && (s.placeFor x).1.isSome) = false := by
    rw [List.any_eq_false]
    intro x hx first
    simp only [Bool.and_eq_true, beq_iff_eq, decide_eq_true_eq] at first
    obtain ⟨⟨die, before⟩, fits⟩ := first
    rw [noRecord x hx die before] at fits
    cases fits
  have done : s.resumeImage m.inst.id = some (s.resumed m core cs) := by
    simp only [State.resumeImage, found, Option.bind_eq_bind, Option.bind_some, room]
    exact if_neg (by rw [resuming, images, records]; decide)
  rw [exec_resumePlacement, done, event]

end Resume

/-- Settles O48: each end, save, resumption and acknowledgement. -/
theorem instancesEnd : Obligations.InstancesEnd := by
  unfold Obligations.InstancesEnd
  refine ⟨fun s c ks retired => ⟨endPart_stream retired, fun i j x task inst done stores due noM noE noW words =>
      endPart_leaves retired task inst (partOver_of done stores due noM noE noW words) noW⟩,
    fun s i found all => endInst_leaves found all, fun s v found settled => ackInval_ok found settled,
    fun s i found stopping quiet low => saveInst_leaves found stopping quiet low, fun s m core cs found resuming room noImage noRecord inv => ?_⟩
  exact ⟨_, resumeImage_ok found resuming room noImage noRecord, resumed_leaves inv⟩

end Sys2Proof.Machine
end

section
/-!
O49 fails. A channel's number in a packet, and in a funbind, is any number in the model, and a channel's key takes it beside the cluster's: channel 256
of cluster 0 and channel 0 of cluster 1 have one key. A funbind that drains the first discards a word that comes for the second, and stays a funbind of
channel 256; the statement wants it to be one of the packet's channel.
-/

namespace Sys2Proof.Machine

/-- A funbind of channel 256 of cluster 0, in progress. -/
def farFunbind : ECmd where
  id := 0
  ctx := 0
  tok := 0
  waits := []
  after := []
  lvl := 0
  due := 0
  tenant := 0
  live := true
  eng := .fabric
  op := .funbindRecv 256 false
  stage := .started
  rows := []

/-- The device at reset with that funbind. -/
def drainingState : State := { State.reset with ecmds := [farFunbind] }

theorem drainingState_receives : ∃ t, exec (.packetReceive ⟨1, 1⟩ 0 0 false (.fifoWord 0 1 0 0)) drainingState = .next t ∧
    t.ecmds = [{ farFunbind with op := .funbindRecv 256 true }] := ⟨_, rfl, rfl⟩

/-- Refutes O49: the drained channel's number need not be the packet's. -/
theorem not_packetsAndBarriers : ¬ Obligations.PacketsAndBarriers := by
  unfold Obligations.PacketsAndBarriers
  intro h
  obtain ⟨t, received, marked⟩ := drainingState_receives
  obtain ⟨-, -, -, drains, -⟩ := h.1 drainingState 1 1 0 0 (.fifoWord 0 1 0 0) (by decide) (by decide) (by decide) (by decide)
  obtain ⟨u, received', -, -, inside⟩ := drains 0 1 0 0 farFunbind rfl (by decide) rfl rfl List.mem_cons_self (by decide)
  obtain rfl : u = t := Host.Outcome.next.inj (received'.symm.trans received)
  rw [marked, List.mem_singleton] at inside
  exact absurd (congrArg ECmd.op inside) (by decide)

end Sys2Proof.Machine
end

section
/-!
O50. Resets, starts, the thermal trip and the clock.
-/

namespace Sys2Proof.Machine

section Arms

variable (s : State)

theorem exec_powerOnReset : exec .powerOnReset s = .next (s.diesReset outsideKey) := rfl
theorem exec_conventionalReset : exec .conventionalReset s = .next s.newStart := rfl
theorem exec_functionLevelReset : exec .functionLevelReset s = .next s.newStart := rfl
theorem exec_start (rep : StartReport) : exec (.start rep) s = event "start" (if s.canStart then some (s.start rep) else none) := rfl
theorem exec_startTimeout (n : Nat) : exec (.startTimeout n) s = event "start times out"
    (if s.canStart && decide (1 ≤ n ∧ n ≤ 4) && (n == 1 || (imageVerdict s.host.flash).1 == 0) then some (s.startFails 6 n) else none) := rfl
theorem exec_thermalTrip (d : Nat) : exec (.thermalTrip d) s = event "thermal trip"
    (if s.host.mode = .shutDown ∨ 4 ≤ d then none else if s.host.mode = .starting then some (s.startFails 7 d).trip else some s.trip) := rfl
theorem exec_clockThrottle (w : BitVec 12) (x : BitVec 8) : exec (.clockThrottle w x) s = execClockThrottle w x s := rfl
theorem exec_clockRestore (w : BitVec 12) (x : BitVec 8) : exec (.clockRestore w x) s = execClockRestore w x s := rfl

end Arms

/-! ### Modes, failed starts and trips -/

section Host

variable (s : State)

theorem setMode_shape (m : Mode) : ∃ q, s.setMode m = { s with host := { s.host with mode := m, msix := q } } := by
  unfold State.setMode
  split
  · next same =>
    subst same
    exact ⟨s.host.msix, rfl⟩
  · exact ⟨_, rfl⟩

theorem startFails_shape (r d : Nat) : ∃ q, s.startFails r d = { s with host := { s.host with
    fails := min 3 (s.host.fails + 1)
    reason := BitVec.ofNat 8 r
    detail := BitVec.ofNat 16 d
    mode := if 2 ≤ s.host.fails then .minimal else .starting
    startReq := if 2 ≤ s.host.fails then false else s.host.startReq
    msix := q } } := by
  obtain ⟨q, hq⟩ := setMode_shape s .starting
  unfold State.startFails
  rw [hq]
  dsimp only
  by_cases third : min 3 (s.host.fails + 1) = 3
  · have two : 2 ≤ s.host.fails := by omega
    rw [if_pos third, if_pos two, if_pos two]
    obtain ⟨q', hq'⟩ := setMode_shape { s with host := { s.host with
      mode := .starting
      msix := q
      fails := min 3 (s.host.fails + 1)
      reason := BitVec.ofNat 8 r
      detail := BitVec.ofNat 16 d
      startReq := false } } .minimal
    exact ⟨q', hq'⟩
  · have two : ¬ 2 ≤ s.host.fails := by omega
    rw [if_neg third, if_neg two, if_neg two]
    exact ⟨q, rfl⟩

theorem trip_shape : ∃ q, s.trip = { s with host := { s.host with
    startReq := false
    tmax := 110
    heat := 110
    flash := s.host.keptFlash
    writing := none
    hflag := s.host.hflag ||| 8
    mode := .shutDown
    msix := q } } := by
  obtain ⟨q, hq⟩ := setMode_shape
    ({ s with host := { s.host with startReq := false, tmax := 110, heat := 110, flash := s.host.keptFlash, writing := none } }.setFlag 3) .shutDown
  exact ⟨q, hq⟩

/-- What a failed start leaves. -/
def StartFailed (s : State) (o : Host.Outcome State Fault Refusal) (reason detail : Nat) : Prop :=
  ∃ t, o = .next t ∧ t.host.reason = BitVec.ofNat 8 reason ∧ t.host.detail = BitVec.ofNat 16 detail ∧ t.host.fails = min 3 (s.host.fails + 1) ∧
    t.host.mode = (if 2 ≤ s.host.fails then .minimal else .starting) ∧ t.host.startReq = decide (s.host.fails < 2) ∧ t.ctxs = s.ctxs

theorem startFails_failed (asked : s.host.startReq = true) (r d : Nat) : StartFailed s (.next (s.startFails r d)) r d := by
  obtain ⟨q, hq⟩ := startFails_shape s r d
  refine ⟨_, rfl, ?_⟩
  rw [hq]
  refine ⟨rfl, rfl, rfl, rfl, ?_, rfl⟩
  dsimp only
  by_cases two : 2 ≤ s.host.fails
  · rw [if_pos two]
    exact (decide_eq_false (by omega)).symm
  · rw [if_neg two, asked]
    exact (decide_eq_true (by omega)).symm

/-- A state that a thermal trip has stopped. -/
def Tripped (t : State) : Prop := t.host.mode = .shutDown ∧ t.host.hflag.getLsbD 3 = true ∧ t.host.startReq = false

theorem trip_tripped : Tripped s.trip := by
  obtain ⟨q, hq⟩ := trip_shape s
  rw [hq]
  refine ⟨rfl, ?_, rfl⟩
  show (s.host.hflag ||| 8).getLsbD 3 = true
  rw [BitVec.getLsbD_or]
  exact Bool.or_eq_true_iff.2 (.inr (by decide))

theorem trip_reason : s.trip.host.reason = s.host.reason ∧ s.trip.host.detail = s.host.detail := by
  obtain ⟨q, hq⟩ := trip_shape s
  rw [hq]
  exact ⟨rfl, rfl⟩

theorem startFails_reason (r d : Nat) : (s.startFails r d).host.reason = BitVec.ofNat 8 r ∧ (s.startFails r d).host.detail = BitVec.ofNat 16 d := by
  obtain ⟨q, hq⟩ := startFails_shape s r d
  rw [hq]
  exact ⟨rfl, rfl⟩

end Host

/-! ### Resets (R11, R399) -/

section Resets

variable (s : State)

theorem imageVerdict_nil : (imageVerdict []).1 ≠ 0 := by
  rw [imageVerdict, if_pos (.inl (by decide))]
  decide

/-- What a reset of the dies leaves. -/
def DiesReset (s t : State) : Prop :=
  t.ctxs = [] ∧ t.sems = [] ∧ t.tags = [] ∧ t.tiles = [] ∧ t.bins = [] ∧ t.toks = [] ∧ t.mcmds = [] ∧ t.ecmds = [] ∧ t.walks = [] ∧ t.tlb = [] ∧
  t.roots = [] ∧ t.insts = [] ∧ t.pendings = [] ∧ t.images = [] ∧ t.streams = [] ∧ t.lost = s.lost ∧ t.extents = s.extents ∧
  t.host.startReq = true ∧ t.host.reason = 0 ∧ t.host.watts = 2600 ∧ t.host.mbBusy = false ∧ t.host.devCtl2 = 0 ∧ t.host.tmax = 0 ∧
  t.host.clkMhz = 1300 ∧ t.host.writing = none ∧ (s.host.writing = none → t.host.flash = s.host.flash) ∧
  (s.host.writing ≠ none → (imageVerdict t.host.flash).1 ≠ 0)

theorem keptFlash_eq : (s.host.writing = none → s.host.keptFlash = s.host.flash) ∧ (s.host.writing ≠ none → (imageVerdict s.host.keptFlash).1 ≠ 0) := by
  unfold HostIf.keptFlash
  cases s.host.writing with
  | none => exact ⟨fun _ => rfl, fun h => absurd rfl h⟩
  | some w => exact ⟨nofun, fun _ => imageVerdict_nil⟩

theorem diesReset_dies (keep : Nat → Bool) : DiesReset s (s.diesReset keep) := by
  refine ⟨rfl, rfl, rfl, rfl, rfl, rfl, rfl, rfl, rfl, rfl, rfl, rfl, rfl, rfl, rfl, rfl, rfl, rfl, rfl, rfl, rfl, rfl, rfl, rfl, rfl, ?_⟩
  exact keptFlash_eq s

theorem newStart_shape : ∃ mode q, s.newStart = { s.diesReset keptKey with host := { (s.diesReset keptKey).host with
    fails := s.host.fails
    hflag := s.host.hflag &&& 8
    mode := mode
    msix := q } } ∧ (s.host.mode ≠ .shutDown → mode = .reset) ∧ (s.host.mode = .shutDown → mode = .shutDown) := by
  by_cases down : s.host.mode = .shutDown
  · exact ⟨s.host.mode, _, if_pos down, fun h => absurd down h, fun h => h⟩
  · obtain ⟨q, hq⟩ := setMode_shape
      { s.diesReset keptKey with host := { (s.diesReset keptKey).host with fails := s.host.fails, hflag := s.host.hflag &&& 8, mode := s.host.mode } } .reset
    exact ⟨.reset, q, (if_neg down).trans hq, fun _ => rfl, fun h => absurd h down⟩

theorem newStart_leaves : DiesReset s s.newStart ∧ s.newStart.host.fails = s.host.fails ∧ s.newStart.host.hflag = s.host.hflag &&& 8 ∧
    (s.host.mode ≠ .shutDown → s.newStart.host.mode = .reset) ∧ (s.host.mode = .shutDown → s.newStart.host.mode = .shutDown) := by
  obtain ⟨mode, q, h, onward, stays⟩ := newStart_shape s
  rw [h]
  exact ⟨diesReset_dies s keptKey, rfl, rfl, onward, stays⟩

end Resets

/-! ### The command streams of a start (R392, R394) -/

section Streams

theorem startStreams_append (l l' : List (Nat × Config.StreamCfg)) (s : State) : startStreams s (l ++ l') = startStreams (startStreams s l) l' := by
  induction l generalizing s with
  | nil => rfl
  | cons p l ih => exact ih _

theorem startStreams_host (l : List (Nat × Config.StreamCfg)) (s : State) : (startStreams s l).host = s.host := by
  induction l generalizing s with
  | nil => rfl
  | cons p l ih => exact (ih _).trans rfl

theorem startStreams_ctx_ne {x : Nat} (l : List (Nat × Config.StreamCfg)) (apart : ∀ p ∈ l, p.2.ctx ≠ x) (s : State) :
    (startStreams s l).ctx x = s.ctx x := by
  induction l generalizing s with
  | nil => rfl
  | cons p l ih =>
    refine (ih (fun q hq => apart q (List.mem_cons_of_mem _ hq)) _).trans ?_
    exact ctx_setCtx_ne _ _ _ _ (apart p List.mem_cons_self).symm

theorem startStreams_streams_ne {d : Nat} (l : List (Nat × Config.StreamCfg)) (apart : ∀ p ∈ l, p.1 ≠ d) (s : State) :
    alGet (startStreams s l).streams d = alGet s.streams d := by
  induction l generalizing s with
  | nil => rfl
  | cons p l ih =>
    refine (ih (fun q hq => apart q (List.mem_cons_of_mem _ hq)) _).trans ?_
    exact alGet_alSet_ne _ _ _ _ (apart p List.mem_cons_self).symm

theorem startStreams_tenant_ne {t : Nat} (l : List (Nat × Config.StreamCfg)) (apart : ∀ p ∈ l, p.2.tenant.toNat ≠ t) (s : State) :
    alGet (startStreams s l).roots t = alGet s.roots t ∧ alGet (startStreams s l).tvecs t = alGet s.tvecs t := by
  induction l generalizing s with
  | nil => exact ⟨rfl, rfl⟩
  | cons p l ih =>
    obtain ⟨roots, tvecs⟩ := ih (fun q hq => apart q (List.mem_cons_of_mem _ hq)) { s.setCtx p.2.ctx (streamStart p.2) with
      roots := alSet s.roots p.2.tenant.toNat p.2.root
      tvecs := alSet s.tvecs p.2.tenant.toNat p.2.tvec
      streams := alSet s.streams p.1 p.2
      holders := alSet s.holders (coreOf p.2.ctx) p.2.ctx }
    exact ⟨roots.trans (alGet_alSet_ne _ _ _ _ (apart p List.mem_cons_self).symm), tvecs.trans (alGet_alSet_ne _ _ _ _ (apart p List.mem_cons_self).symm)⟩

theorem cfg_ctx (m : Config.StreamImage) {d : Nat} (hd : d < 4) :
    dieOf (m.cfg d).ctx = d ∧ (m.place = none → (m.cfg d).ctx = d * 1024) ∧ d * 1024 ≤ (m.cfg d).ctx ∧ (m.cfg d).ctx < (d + 1) * 1024 := by
  have ctx : (m.cfg d).ctx = d * 1024 + m.place.elim 0 fun p => p.1.val * 32 + p.2.1.val * 4 + p.2.2.val := rfl
  have low : (m.place.elim 0 fun p => p.1.val * 32 + p.2.1.val * 4 + p.2.2.val) < 1024 := by
    cases m.place with
    | none => decide
    | some p =>
      have := p.1.isLt
      have := p.2.1.isLt
      have := p.2.2.isLt
      simp only [Option.elim_some]
      omega
  refine ⟨?_, fun none' => by rw [ctx, none', Option.elim_none, Nat.add_zero], by omega, by omega⟩
  rw [ctx, dieOf]
  omega

theorem cfg_reserved (m : Config.StreamImage) (d : Nat) :
    (m.reserved = none → (m.cfg d).reserved = 0x500000) ∧ (m.cfg d).reserved % 0x10000 = 0 ∧ (m.tiles = none → (m.cfg d).acn = 0) := by
  have reserved : (m.cfg d).reserved = m.reserved.elim Config.reservedDefault fun n => n.val * 65536 := rfl
  refine ⟨fun none' => by rw [reserved, none', Option.elim_none, Config.reservedDefault], ?_, fun none' => ?_⟩
  · rw [reserved]
    cases m.reserved with
    | none => decide
    | some n => exact Nat.mul_mod_left _ _
  · show (m.tiles.elim 0 fun t => min t.2.val (32 - t.1.val)) = 0
    rw [none']
    rfl

/-- The configurations before and after a die's own. -/
theorem imageCfgs_split (body : List Byte) {d : Nat} (hd : d < 4) : ∃ before after,
    imageCfgs body = before ++ (d, (Config.imageStreams body d).cfg d) :: after ∧
    ∀ p ∈ after, ∃ e, d < e ∧ e < 4 ∧ p = (e, (Config.imageStreams body e).cfg e) := by
  obtain ⟨n, hn⟩ : ∃ n, 4 = d + (n + 1) := ⟨3 - d, by omega⟩
  refine ⟨(List.range d).map fun e => (e, (Config.imageStreams body e).cfg e),
    (List.range n).map fun k => (d + (k + 1), (Config.imageStreams body (d + (k + 1))).cfg (d + (k + 1))), ?_, fun p hp => ?_⟩
  · rw [imageCfgs, hn, List.range_add, List.map_append, List.range_succ_eq_map]
    simp [Function.comp_def]
  · obtain ⟨k, hk, rfl⟩ := List.mem_map.1 hp
    have := List.mem_range.1 hk
    exact ⟨d + (k + 1), by omega, by omega, rfl⟩

/-- What the start of the streams leaves for a die. -/
theorem startStreams_die (body : List Byte) {d : Nat} (hd : d < 4) (s : State) {m : Config.StreamImage} (hm : Config.imageStreams body d = m) :
    alGet (startStreams s (imageCfgs body)).streams d = some (m.cfg d) ∧
    (startStreams s (imageCfgs body)).ctx (m.cfg d).ctx = streamStart (m.cfg d) ∧
    ((∀ e, d < e → e < 4 → (Config.imageStreams body e).tenant ≠ m.tenant) →
      alGet (startStreams s (imageCfgs body)).roots m.tenant.toNat = some m.root ∧
      alGet (startStreams s (imageCfgs body)).tvecs m.tenant.toNat = some m.tvec) := by
  subst hm
  obtain ⟨before, after, split, later⟩ := imageCfgs_split body hd
  rw [split, startStreams_append, startStreams]
  have own := cfg_ctx (Config.imageStreams body d) hd
  refine ⟨?_, ?_, fun alone => ?_⟩
  · rw [startStreams_streams_ne after fun p hp => ?_]
    · exact alGet_alSet ..
    · obtain ⟨e, he, -, rfl⟩ := later p hp
      exact Nat.ne_of_gt he
  · rw [startStreams_ctx_ne after fun p hp => ?_]
    · exact ctx_setCtx ..
    · obtain ⟨e, he, small, rfl⟩ := later p hp
      have other := cfg_ctx (Config.imageStreams body e) small
      show ((Config.imageStreams body e).cfg e).ctx ≠ _
      omega
  · obtain ⟨roots, tvecs⟩ := startStreams_tenant_ne (t := (Config.imageStreams body d).tenant.toNat) after (fun p hp => by
      obtain ⟨e, he, small, rfl⟩ := later p hp
      exact fun same => alone e he small (BitVec.eq_of_toNat_eq same)) _
    exact ⟨roots.trans (alGet_alSet ..), tvecs.trans (alGet_alSet ..)⟩

end Streams

end Sys2Proof.Machine
end

section
/-!
O50. The starts, the clock, and the obligation.
-/

namespace Sys2Proof.Machine

section Starts

variable {s : State} (asked : s.host.startReq = true) (cool : s.host.mode ≠ .shutDown ∨ s.host.heat.toNat < 95)
include asked cool

theorem canStart_of : s.canStart = true := by
  rw [State.canStart, asked, Bool.true_and, Bool.or_eq_true, bne_iff_ne, decide_eq_true_eq]
  exact cool

theorem exec_start_ok (rep : StartReport) : exec (.start rep) s = .next (s.start rep) := by
  rw [exec_start, if_pos (canStart_of asked cool), event]

theorem start_badImage (bad : (imageVerdict s.host.flash).1 ≠ 0) :
    StartFailed s (exec (.start ⟨none, none, none⟩) s) (imageVerdict s.host.flash).1 (imageVerdict s.host.flash).2 := by
  have fails : s.start ⟨none, none, none⟩ = s.startFails (imageVerdict s.host.flash).1 (imageVerdict s.host.flash).2 := if_pos bad
  rw [exec_start_ok asked cool, fails]
  exact startFails_failed s asked _ _

variable (good : (imageVerdict s.host.flash).1 = 0)

omit good in
theorem start_trips (h : Option (Fin 12)) (d : Option (Fin 4)) (e : Fin 4) : ∃ t, exec (.start ⟨h, d, some e⟩) s = .next t ∧ t.host.mode = .shutDown ∧
    t.host.hflag.getLsbD 3 = true ∧ t.host.reason = 7 ∧ t.host.detail = BitVec.ofNat 16 e.val := by
  have trips : s.start ⟨h, d, some e⟩ = (s.startFails 7 e.val).trip := rfl
  obtain ⟨mode, flag, -⟩ := trip_tripped (s.startFails 7 e.val)
  obtain ⟨r, dt⟩ := trip_reason (s.startFails 7 e.val)
  obtain ⟨r', dt'⟩ := startFails_reason s 7 e.val
  exact ⟨_, by rw [exec_start_ok asked cool, trips], mode, flag, r.trans r', dt.trans dt'⟩

omit good in
theorem startTimeout_fails {n : Nat} (low : 1 ≤ n) (high : n ≤ 4) (reached : n = 1 ∨ (imageVerdict s.host.flash).1 = 0) :
    StartFailed s (exec (.startTimeout n) s) 6 n := by
  have open' : (s.canStart && decide (1 ≤ n ∧ n ≤ 4) && (n == 1 || (imageVerdict s.host.flash).1 == 0)) = true := by
    rw [canStart_of asked cool, Bool.true_and, Bool.and_eq_true, decide_eq_true_eq, Bool.or_eq_true, beq_iff_eq, beq_iff_eq]
    exact ⟨⟨low, high⟩, reached⟩
  rw [exec_startTimeout, if_pos open', event]
  exact startFails_failed s asked _ _

include good

theorem start_badStack (g : Fin 12) : StartFailed s (exec (.start ⟨some g, none, none⟩) s) 4 g.val := by
  have fails : s.start ⟨some g, none, none⟩ = s.startFails 4 g.val := if_neg (not_not.2 good)
  rw [exec_start_ok asked cool, fails]
  exact startFails_failed s asked _ _

theorem start_badDie (d : Fin 4) : StartFailed s (exec (.start ⟨none, some d, none⟩) s) 5 d.val := by
  have fails : s.start ⟨none, some d, none⟩ = s.startFails 5 d.val := if_neg (not_not.2 good)
  rw [exec_start_ok asked cool, fails]
  exact startFails_failed s asked _ _

/-- The device with its streams started. -/
def State.streamsStarted (s : State) : State :=
  startStreams { s.setMode .starting with mem := writeSegments (s.setMode .starting).mem (Config.imageSegments (imageBody s.host.flash)) }
    (imageCfgs (imageBody s.host.flash))

theorem start_shape : ∃ h : HostIf, exec (.start ⟨none, none, none⟩) s = .next { s.streamsStarted with host := h } ∧ h.mode = .running ∧ h.fails = 0 ∧
    h.startReq = false := by
  have runs : s.start ⟨none, none, none⟩ =
      { s.streamsStarted with host := { s.streamsStarted.host with fails := 0, startReq := false } }.setMode .running := if_neg (not_not.2 good)
  obtain ⟨q, hq⟩ := setMode_shape { s.streamsStarted with host := { s.streamsStarted.host with fails := 0, startReq := false } } .running
  exact ⟨_, by rw [exec_start_ok asked cool, runs, hq], rfl, rfl, rfl⟩

end Starts

/-- What a start leaves for a die. -/
def DieStarted (s t : State) (d : Nat) : Prop :=
  let m := Config.imageStreams (imageBody s.host.flash) d
  let c := m.cfg d
  let k := t.ctx c.ctx
  dieOf c.ctx = d ∧ (m.place = none → c.ctx = d * 1024) ∧ (m.reserved = none → c.reserved = 0x500000) ∧ c.reserved % 0x10000 = 0 ∧
  (m.tiles = none → c.acn = 0) ∧ alGet t.streams d = some c ∧ k.run = .running ∧ k.pc = m.entry ∧ k.sr.tenant = m.tenant ∧
  k.stream = true ∧ k.spBase = 0 ∧ k.spSize = 0x600000 ∧ k.acb = c.acb ∧ k.acn = c.acn ∧
  ((∀ e, d < e → e < 4 → (Config.imageStreams (imageBody s.host.flash) e).tenant ≠ m.tenant) →
    t.tvec m.tenant = m.tvec ∧ alGet t.roots m.tenant.toNat = some m.root)

theorem streamsStarted_die (s : State) (h : HostIf) {d : Nat} (hd : d < 4) : DieStarted s { s.streamsStarted with host := h } d := by
  unfold DieStarted
  intro m c k
  obtain ⟨die, place, -, -⟩ := cfg_ctx m hd
  obtain ⟨reserved, units, tiles⟩ := cfg_reserved m d
  obtain ⟨stream, ctx, tenants⟩ := startStreams_die (imageBody s.host.flash) hd
    { s.setMode .starting with mem := writeSegments (s.setMode .starting).mem (Config.imageSegments (imageBody s.host.flash)) } (m := m) rfl
  have starts : k = streamStart c := ctx
  rw [starts]
  refine ⟨die, place, reserved, units, tiles, stream, rfl, rfl, rfl, rfl, rfl, rfl, rfl, rfl, fun alone => ?_⟩
  obtain ⟨roots, tvecs⟩ := tenants alone
  exact ⟨congrArg (Option.getD · 0) tvecs, roots⟩

/-! ### The clock (R398) -/

section Clock

variable {s : State} {w : BitVec 12} {x : BitVec 8}

theorem lowers_iff (h : HostIf) : h.lowers w x = true ↔
    h.watts.toNat < w.toNat ∨ 95 ≤ x.toNat ∨ (h.lowering = true ∧ h.watts.toNat ≤ w.toNat) := by
  simp [HostIf.lowers, or_assoc]

theorem clockThrottle_on (on : s.host.mode ≠ .shutDown) (safe : x.toNat < 110) :
    exec (.clockThrottle w x) s = .next { s with host := (s.host.reads w x).throttle w x } := by
  rw [exec_clockThrottle, execClockThrottle, if_pos (.inl safe), event]
  exact congrArg (fun h => Host.Outcome.next { s with host := h }) (if_neg on)

theorem clockThrottle_off (off : s.host.mode = .shutDown) : exec (.clockThrottle w x) s = .next { s with host := s.host.reads w x } := by
  rw [exec_clockThrottle, execClockThrottle, if_pos (.inr off), event]
  exact congrArg (fun h => Host.Outcome.next { s with host := h }) (if_pos off)

variable (power : w.toNat < s.host.watts.toNat) (heat : x.toNat < 95)
include power heat

theorem clockRestore_on (on : s.host.mode ≠ .shutDown) : exec (.clockRestore w x) s = .next { s with host := { s.host.reads w x with
    lowering := false
    clkMhz := BitVec.ofNat 16 (min 1300 (s.host.clkMhz.toNat + 100)) } } := by
  rw [exec_clockRestore, execClockRestore, if_pos ⟨power, heat⟩, event]
  exact congrArg (fun h => Host.Outcome.next { s with host := h }) (if_neg on)

theorem clockRestore_off (off : s.host.mode = .shutDown) : exec (.clockRestore w x) s = .next { s with host := s.host.reads w x } := by
  rw [exec_clockRestore, execClockRestore, if_pos ⟨power, heat⟩, event]
  exact congrArg (fun h => Host.Outcome.next { s with host := h }) (if_pos off)

end Clock

theorem thermalTrip_ok {s : State} {d : Nat} (hd : d < 4) (on : s.host.mode ≠ .shutDown) :
    ∃ t, exec (.thermalTrip d) s = .next t ∧ t.host.mode = .shutDown ∧ t.host.hflag.getLsbD 3 = true ∧ t.host.startReq = false ∧
      (s.host.mode = .starting → t.host.reason = 7 ∧ t.host.detail = BitVec.ofNat 16 d) := by
  have open' : ¬ (s.host.mode = .shutDown ∨ 4 ≤ d) := fun h => h.elim on (by omega)
  rw [exec_thermalTrip, if_neg open']
  by_cases starting : s.host.mode = .starting
  · rw [if_pos starting, event]
    obtain ⟨mode, flag, off⟩ := trip_tripped (s.startFails 7 d)
    obtain ⟨r, dt⟩ := trip_reason (s.startFails 7 d)
    obtain ⟨r', dt'⟩ := startFails_reason s 7 d
    exact ⟨_, rfl, mode, flag, off, fun _ => ⟨r.trans r', dt.trans dt'⟩⟩
  · rw [if_neg starting, event]
    obtain ⟨mode, flag, off⟩ := trip_tripped s
    exact ⟨_, rfl, mode, flag, off, fun h => absurd h starting⟩

/-- Settles O50: each reset, start, trip and change of the clock. -/
theorem resetsStartsAndPower : Obligations.ResetsStartsAndPower := by
  unfold Obligations.ResetsStartsAndPower
  intro s dies kept
  obtain ⟨reset, keeps⟩ := newStart_leaves s
  refine ⟨⟨_, exec_powerOnReset s, diesReset_dies s outsideKey, rfl, rfl, rfl⟩, ⟨_, exec_conventionalReset s, reset, keeps⟩,
    ⟨_, exec_functionLevelReset s, reset, keeps⟩, fun asked cool => ?_, fun d hd on => thermalTrip_ok hd on, fun w x => ?_⟩
  · intro v failed
    refine ⟨start_badImage asked cool, fun good => ⟨start_badStack asked cool good, start_badDie asked cool good, ?_⟩, start_trips asked cool,
      fun n low high reached => startTimeout_fails asked cool low high reached⟩
    obtain ⟨h, runs, mode, fails, req⟩ := start_shape asked cool good
    exact ⟨_, runs, mode, fails, req, fun d hd => streamsStarted_die s h hd⟩
  · intro reads leaves c down
    refine ⟨fun on safe => ⟨fun lowers => ?_, fun fine => ?_⟩, fun on power heat => clockRestore_on power heat on,
      fun off => ⟨clockThrottle_off off, fun power heat => clockRestore_off power heat off⟩⟩
    · rw [clockThrottle_on on safe]
      exact congrArg (fun h => Host.Outcome.next { s with host := h }) (if_pos ((lowers_iff (s.host.reads w x)).2 lowers))
    · rw [clockThrottle_on on safe]
      exact congrArg (fun h => Host.Outcome.next { s with host := h }) (if_neg (mt (lowers_iff (s.host.reads w x)).1 fine))

end Sys2Proof.Machine
end

section
/-!
O51. The host's accesses to BAR0 and BAR2.
-/

namespace Sys2Proof.Machine

/-! ### Writes of BAR0 -/

section Writes

variable (s : State) (v : W64)

theorem exec_plimWrite : exec (.plimWrite v) s = .next (s.writePlim v) := rfl
theorem exec_hflagWrite : exec (.hflagWrite v) s = .next (s.writeHflag v) := rfl
theorem exec_deviceControl2Write (c : BitVec 16) : exec (.deviceControl2Write c) s = .next { s with host := { s.host with devCtl2 := c } } := rfl
theorem exec_bar0RegisterWrite (off : Nat) : exec (.bar0RegisterWrite off v) s = execBar0RegisterWrite off v s := rfl

theorem bar0Write_command : exec (.bar0RegisterWrite 0x100 v) s =
    if s.host.mbBusy then .next { s with host := { s.host with hflag := s.host.hflag ||| 2, msix := s.host.msix ++ [1] } }
    else .next { s with host := { s.host with mbCmd := v.setWidth 8, mbBusy := true } } := by
  have chosen : exec (.bar0RegisterWrite 0x100 v) s =
      .next (if s.host.mbBusy then s.setFlag 1 else { s with host := { s.host with mbCmd := v.setWidth 8, mbBusy := true } }) := rfl
  rw [chosen]
  cases s.host.mbBusy <;> rfl

theorem bar0Write_argument {i : Nat} (hi : i < 4) : exec (.bar0RegisterWrite (0x108 + 8 * i) v) s =
    .next { s with host := { s.host with mbArg := vset s.host.mbArg i v } } := by
  match i, hi with
  | 0, _ => rfl
  | 1, _ => rfl
  | 2, _ => rfl
  | 3, _ => rfl

end Writes

/-! ### The views of BAR2 (R386, R387) -/

section Views

variable {s : State} {die off : Nat} {wide : Bool}

theorem exec_plainViewAccess (data : Option W64) : exec (.plainViewAccess die off wide data) s = execPlainViewAccess die off wide data s := rfl
theorem exec_fillViewWrite (v : W64) : exec (.fillViewWrite die off wide v) s = execFillViewWrite die off wide v s := rfl
theorem exec_fillViewRead : exec (.fillViewRead die off wide) s = execFillViewRead die off wide s := rfl
theorem exec_unsupportedBar2Access (size : Nat) : exec (.unsupportedBar2Access die off size) s = event "unsupported access"
    (if die < 4 ∧ off < 2 ^ 24 ∧ inView 0 off size = false ∧ inView fillBase off size = false then some (s.answerBar2 none) else none) := rfl

theorem inView_iff (base off n : Nat) : inView base off n = true ↔
    ((base ≤ off ∧ off - base + n ≤ Config.windowSize) ∧ (n = 4 ∨ n = 8)) ∧ off % n = 0 := by
  simp [inView]

theorem accessBytes_cases (wide : Bool) : accessBytes wide = 4 ∨ accessBytes wide = 8 := by cases wide <;> decide

section Aligned

variable (hd : die < 4) (running : s.host.mode = .running) (aligned : off % accessBytes wide = 0) (inside : off + accessBytes wide ≤ Config.windowSize)
include hd running aligned inside

omit hd in
theorem plainView_open : ¬ (s.host.mode ≠ .running ∨ inView 0 off (accessBytes wide) = false) := by
  have seen : inView 0 off (accessBytes wide) = true := (inView_iff ..).2 ⟨⟨⟨Nat.zero_le _, by omega⟩, accessBytes_cases wide⟩, aligned⟩
  rw [seen]
  exact fun h => h.elim (fun h => h running) nofun

omit hd in
theorem fillView_open : ¬ (s.host.mode ≠ .running ∨ inView fillBase (0x800000 + off) (accessBytes wide) = false) := by
  have there : (0x800000 + off) % accessBytes wide = 0 := by
    rcases accessBytes_cases wide with four | eight
    · rw [four] at aligned ⊢
      omega
    · rw [eight] at aligned ⊢
      omega
  have seen : inView fillBase (0x800000 + off) (accessBytes wide) = true :=
    (inView_iff ..).2 ⟨⟨⟨by rw [fillBase]; omega, by rw [fillBase]; omega⟩, accessBytes_cases wide⟩, there⟩
  rw [seen]
  exact fun h => h.elim (fun h => h running) nofun

theorem plainView_read : exec (.plainViewAccess die off wide none) s =
    .next (s.answerBar2 (some (BitVec.ofNat 64 (leNat (readCells s.mem (spadKey (s.streamCluster die) off) (accessBytes wide)))))) := by
  rw [exec_plainViewAccess, execPlainViewAccess]
  rw [if_neg (Nat.not_le.2 hd), if_neg (plainView_open running aligned inside), event]

theorem plainView_write (v : W64) : exec (.plainViewAccess die off wide (some v)) s =
    .next ((s.pokeSpad (s.streamCluster die) off (accessBytes wide) v).answerBar2 (some 0)) := by
  rw [exec_plainViewAccess, execPlainViewAccess]
  rw [if_neg (Nat.not_le.2 hd), if_neg (plainView_open running aligned inside), event]

omit hd running aligned inside in
theorem tagBits_any (cl : Nat) : (s.tagBits cl off (accessBytes wide)).any (fun b => b) = true ↔
    ∃ j < accessBytes wide / 4, (cellAt s.tags (tagKey cl (off + 4 * j)) == 0) = false := by
  rw [State.tagBits, List.any_map, List.any_eq_true]
  refine exists_congr fun j => ?_
  rw [List.mem_range]
  simp

theorem fillView_write (v : W64) (empty : ∀ j < accessBytes wide / 4, (cellAt s.tags (tagKey (s.streamCluster die) (off + 4 * j)) == 0) = true) :
    exec (.fillViewWrite die (0x800000 + off) wide v) s =
      .next ({ s.pokeSpad (s.streamCluster die) off (accessBytes wide) v with
        tags := setTags s.tags (s.streamCluster die) off (List.replicate (accessBytes wide / 4) true) }.answerBar2 (some 0)) := by
  have clear : ¬ (s.tagBits (s.streamCluster die) off (accessBytes wide)).any (fun b => b) = true := by
    rw [tagBits_any]
    rintro ⟨j, hj, full⟩
    rw [empty j hj] at full
    cases full
  have place : 0x800000 + off - fillBase = off := by rw [fillBase]; omega
  rw [exec_fillViewWrite, execFillViewWrite, place]
  dsimp only
  rw [if_neg (Nat.not_le.2 hd), if_neg (fillView_open running aligned inside), if_neg clear, event]
  rfl

theorem fillView_overrun (v : W64) (full : ∃ j < accessBytes wide / 4, (cellAt s.tags (tagKey (s.streamCluster die) (off + 4 * j)) == 0) = false) :
    exec (.fillViewWrite die (0x800000 + off) wide v) s = .next ((s.setFlag 0).answerBar2 (some 0)) := by
  have place : 0x800000 + off - fillBase = off := by rw [fillBase]; omega
  rw [exec_fillViewWrite, execFillViewWrite, place]
  dsimp only
  rw [if_neg (Nat.not_le.2 hd), if_neg (fillView_open running aligned inside), if_pos (tagBits_any _ |>.2 full), event]

/-- The value that a read of one or two tags brings. -/
def tagWord (a b : Bool) : W64 := BitVec.ofNat 64 (a.toNat + 2 ^ 32 * b.toNat)

omit hd running aligned inside in
theorem tagWord_bits (a b : Bool) : (tagWord a b).getLsbD 0 = a ∧ (tagWord a b).getLsbD 32 = b ∧
    ∀ j < 64, j ≠ 0 → j ≠ 32 → (tagWord a b).getLsbD j = false := by
  cases a <;> cases b <;> decide

theorem fillView_read : ∃ x, exec (.fillViewRead die (0x800000 + off) wide) s = .next (s.answerBar2 (some x)) ∧
    x.getLsbD 0 = !(cellAt s.tags (tagKey (s.streamCluster die) (off + 4 * 0)) == 0) ∧
    x.getLsbD 32 = (wide && !(cellAt s.tags (tagKey (s.streamCluster die) (off + 4 * 1)) == 0)) ∧
    ∀ j < 64, j ≠ 0 → j ≠ 32 → x.getLsbD j = false := by
  have place : 0x800000 + off - fillBase = off := by rw [fillBase]; omega
  have read : exec (.fillViewRead die (0x800000 + off) wide) s = .next (s.answerBar2 (some (tagWord
      (((s.tagBits (s.streamCluster die) off (accessBytes wide))[0]?).getD false)
      (((s.tagBits (s.streamCluster die) off (accessBytes wide))[1]?).getD false)))) := by
    rw [exec_fillViewRead, execFillViewRead, place]
    dsimp only
    rw [if_neg (Nat.not_le.2 hd), if_neg (fillView_open running aligned inside), event]
    rfl
  obtain ⟨low, high, rest⟩ := tagWord_bits (((s.tagBits (s.streamCluster die) off (accessBytes wide))[0]?).getD false)
    (((s.tagBits (s.streamCluster die) off (accessBytes wide))[1]?).getD false)
  refine ⟨_, read, low.trans ?_, high.trans ?_, rest⟩
  · cases wide <;> rfl
  · cases wide <;> rfl

end Aligned

theorem unsupported_ok (hd : die < 4) (ho : off < 2 ^ 24) {size : Nat}
    (odd : (size ≠ 4 ∧ size ≠ 8) ∨ off % size ≠ 0 ∨ (Config.windowSize < off + size ∧ off < 0x800000) ∨ 0x800000 + Config.windowSize < off + size) :
    exec (.unsupportedBar2Access die off size) s = .next (s.answerBar2 none) := by
  have none' (base : Nat) (hb : base = 0 ∨ base = 0x800000) : inView base off size = false := by
    rw [Bool.eq_false_iff, Ne, inView_iff]
    rintro ⟨⟨⟨low, high⟩, sizes⟩, aligned⟩
    omega
  rw [exec_unsupportedBar2Access, if_pos ⟨hd, ho, none' 0 (.inl rfl), none' fillBase (.inr rfl)⟩, event]

end Views

/-! ### Reads of BAR0 -/

section Reads

theorem extract_ofNat (x lo n : Nat) (inside : lo + n ≤ 64) : (BitVec.ofNat 64 x).extractLsb' lo n = BitVec.ofNat n (x / 2 ^ lo) := by
  refine BitVec.eq_of_toNat_eq ?_
  rw [BitVec.extractLsb'_toNat, BitVec.toNat_ofNat, BitVec.toNat_ofNat, Nat.shiftRight_eq_div_pow]
  refine Nat.eq_of_testBit_eq fun i => ?_
  simp only [Nat.testBit_mod_two_pow, Nat.testBit_div_two_pow]
  by_cases hi : i < n
  · simp [hi, show i + lo < 64 by omega]
  · simp [hi]

theorem ofNat_eq_of_mod {n x : Nat} {b : BitVec n} (h : x % 2 ^ n = b.toNat) : BitVec.ofNat n x = b :=
  BitVec.eq_of_toNat_eq (by rw [BitVec.toNat_ofNat, h])

theorem ofNat_eq_zero_of_mod {n x : Nat} (h : x % 2 ^ n = 0) : BitVec.ofNat n x = 0 := ofNat_eq_of_mod (h.trans BitVec.toNat_zero.symm)

variable (h : HostIf)

theorem mode_code_lt (m : Mode) : m.code < 5 := by cases m <;> decide

theorem bsr_fields : (h.bar0 0x000).extractLsb' 0 3 = BitVec.ofNat 3 h.mode.code ∧ (h.bar0 0x000).extractLsb' 3 13 = 0 ∧
    (h.fails ≤ 3 → ((h.bar0 0x000).extractLsb' 16 8).toNat = h.fails) ∧ (h.bar0 0x000).extractLsb' 24 8 = h.reason ∧
    (h.bar0 0x000).extractLsb' 32 16 = h.detail ∧ (h.bar0 0x000).extractLsb' 48 16 = 0 := by
  have word : h.bar0 0x000 = BitVec.ofNat 64 (h.detail.toNat * 2 ^ 32 + h.reason.toNat * 2 ^ 24 + h.fails % 4 * 2 ^ 16 + h.mode.code) := rfl
  have := mode_code_lt h.mode
  have := h.detail.isLt
  have := h.reason.isLt
  rw [word]
  refine ⟨?_, ?_, fun small => ?_, ?_, ?_, ?_⟩ <;> rw [extract_ofNat _ _ _ (by decide)]
  · exact ofNat_eq_of_mod (by rw [BitVec.toNat_ofNat]; omega)
  · exact ofNat_eq_zero_of_mod (by omega)
  · rw [BitVec.toNat_ofNat]
    omega
  · exact ofNat_eq_of_mod (by omega)
  · exact ofNat_eq_of_mod (by omega)
  · exact ofNat_eq_zero_of_mod (by omega)

theorem pstat_fields : (h.bar0 0x018).extractLsb' 0 12 = h.power ∧ (h.bar0 0x018).extractLsb' 12 28 = 0 ∧ (h.bar0 0x018).extractLsb' 40 8 = h.tmax ∧
    (h.bar0 0x018).extractLsb' 48 16 = h.clkMhz := by
  have word : h.bar0 0x018 = BitVec.ofNat 64 (h.clkMhz.toNat * 2 ^ 48 + h.tmax.toNat * 2 ^ 40 + h.power.toNat) := rfl
  have := h.clkMhz.isLt
  have := h.tmax.isLt
  have := h.power.isLt
  rw [word]
  refine ⟨?_, ?_, ?_, ?_⟩ <;> rw [extract_ofNat _ _ _ (by decide)]
  · exact ofNat_eq_of_mod (by omega)
  · exact ofNat_eq_zero_of_mod (by omega)
  · exact ofNat_eq_of_mod (by omega)
  · exact ofNat_eq_of_mod (by omega)

theorem mbsts_fields : (h.bar0 0x128).getLsbD 63 = h.mbBusy ∧ (h.bar0 0x128).extractLsb' 0 8 = h.mbStatus ∧ (h.bar0 0x128).extractLsb' 8 55 = 0 := by
  have word : h.bar0 0x128 = BitVec.ofNat 64 (h.mbBusy.toNat * 2 ^ 63 + h.mbStatus.toNat) := rfl
  have := h.mbStatus.isLt
  rw [word]
  refine ⟨?_, ?_, ?_⟩
  · rw [BitVec.getLsbD_ofNat, Nat.testBit_eq_decide_div_mod_eq]
    cases h.mbBusy <;> simp <;> omega
  · rw [extract_ofNat _ _ _ (by decide)]
    exact ofNat_eq_of_mod (by cases h.mbBusy <;> simp <;> omega)
  · rw [extract_ofNat _ _ _ (by decide)]
    exact ofNat_eq_zero_of_mod (by cases h.mbBusy <;> simp <;> omega)

end Reads

/-- Settles O51: each access, by its register or view. -/
theorem hostAccesses : Obligations.HostAccesses := by
  unfold Obligations.HostAccesses
  intro s v c host plim hflag
  refine ⟨exec_plimWrite s v, rfl, exec_hflagWrite s v, rfl, exec_deviceControl2Write s c, bar0Write_command s v, fun i hi => bar0Write_argument s v hi, ?_,
    fun die off size hd ho odd => unsupported_ok hd ho odd, ?_, rfl, rfl, pstat_fields s.host, mbsts_fields s.host⟩
  · intro die off wide hd running n cl answer empty aligned inside
    exact ⟨plainView_read hd running aligned inside, plainView_write hd running aligned inside v, fillView_write hd running aligned inside v,
      fillView_overrun hd running aligned inside v, fillView_read hd running aligned inside⟩
  · obtain ⟨mode, rest⟩ := bsr_fields s.host
    refine ⟨mode.trans ?_, rest⟩
    cases s.host.mode <;> rfl

end Sys2Proof.Machine
end

section
/-!
O52. A lost plane fails every entry of a number in a load queue, each with its own address.
-/

namespace Sys2Proof.Machine

theorem exec_queuedLoadArrival (c q i : Nat) (s : State) :
    exec (.queuedLoadArrival c q i) s = event "queued load arrives" (s.arriveEntry c q i) := rfl

/-- An entry of a load queue whose plane is lost fails, and with it every entry of its number (R379). -/
theorem queuedLoadArrival_lost {s : State} {x c q i : Nat} {y : QEntry} (found : (s.ctx c).entryOf i = some y) (queued : y ∈ vget (s.ctx c).q q [])
    (tgt : y.handle.tgt = 1) (lost : s.lostPlane y.handle y.off (2 ^ y.width.toNat) (s.ctx c).sr.tenant true = some x) :
    exec (.queuedLoadArrival c q i) s = .next (s.setCtx c ((s.ctx c).setEntry i fun v => v.fail 17 (lostInfo x v.handle v.off))) := by
  have notHost : (y.handle.tgt == 2) = false := by rw [tgt]; decide
  have id : y.id = i := by
    have := List.find?_some found
    simp only [Bool.and_eq_true, beq_iff_eq] at this
    exact this.1
  have here : (vget (s.ctx c).q q []).any (fun v => v.id == i) = true := List.any_eq_true.2 ⟨y, queued, by simp [id]⟩
  have done : s.arriveEntry c q i = some (s.setCtx c ((s.ctx c).setEntry i fun v => v.fail 17 (lostInfo x v.handle v.off))) := by
    simp only [State.arriveEntry, found, Option.bind_eq_bind, Option.bind_some, here, notHost, Bool.not_true, Bool.or_false, Bool.false_eq_true, if_false,
      if_pos tgt, lost]
  rw [exec_queuedLoadArrival, done, event]

/-- A page of plane 0. -/
def loftPage : Handle := { Handle.none with tgt := 1 }

/-- An entry of a load queue that reads that page at an offset. -/
def loftEntry (off : Nat) : QEntry := ⟨0, 0, 0, 0, loftPage, off, 0, false, false, none, false, false⟩

/-- A context with two such entries of one number. -/
def twoLoftEntries : Ctx := { Ctx.reset with q := vset Ctx.reset.q 0 [loftEntry 0, loftEntry 1] }

/-- The tenant's extent that holds both bytes. -/
def loftExtent : Extent := ⟨0, 0, 2, 0, none⟩

/-- A device that has lost plane 0 while both loads are on their way. -/
def lostLoads : State := State.setCtx { State.reset with extents := [loftExtent], lost := [0] } 0 twoLoftEntries

theorem lostLoads_ctx : lostLoads.ctx 0 = twoLoftEntries := ctx_setCtx _ _ _

theorem twoLoftEntries_failures (f : QEntry → QEntry) :
    (twoLoftEntries.setEntry 0 f).failures = [(f (loftEntry 0)).failed, (f (loftEntry 1)).failed] := by
  have queue : vget twoLoftEntries.q 0 [] = [loftEntry 0, loftEntry 1] := rfl
  rw [failures_setEntry, queue]
  rfl

/-- Refutes O52: the loss of a plane fails each entry of the number with its own address, where the statement has all of them fail
with that of the first. A context with two entries of one number, at different offsets, tells them apart. -/
theorem not_mailboxCommands : ¬ Obligations.MailboxCommands := by
  unfold Obligations.MailboxCommands
  intro h
  have first : (lostLoads.ctx 0).entryOf 0 = some (loftEntry 0) := by rw [lostLoads_ctx]; rfl
  have queued : loftEntry 0 ∈ vget (lostLoads.ctx 0).q 0 [] := by rw [lostLoads_ctx]; exact List.mem_cons_self ..
  obtain ⟨-, planes, -⟩ := h
  obtain ⟨-, -, -, -, loads, -⟩ := planes lostLoads 0 loftPage loftExtent 0 1 (List.mem_singleton.2 rfl) rfl rfl rfl
  have marked := loads 0 0 0 (loftEntry 0) first queued rfl rfl rfl ⟨by rw [lostLoads_ctx]; rfl, fun m hm => nomatch hm⟩
  have failed := queuedLoadArrival_lost (x := 0) first queued rfl (by rw [lostLoads_ctx]; rfl)
  have details := congrArg (fun t => (t.ctx 0).failures) (Host.Outcome.next.inj (failed.symm.trans marked))
  simp only [ctx_setCtx, lostLoads_ctx, twoLoftEntries_failures] at details
  exact absurd details (by decide)

end Sys2Proof.Machine
end

section
/-!
O56 and O59. Words of the spec's worked encodings, and the state that power-on reset leaves.
-/

namespace Sys2Proof.Machine

/-! ### Encodings -/

/-- Whether words are the encoding of a well-formed slot instruction. -/
def encodesTo (i : Instr) (ws : List W32) : Bool := i.wf && (slotWord i).isSome && encode i == ws

theorem decode_of_encodesTo {i : Instr} {ws : List W32} (h : encodesTo i ws = true) : decode ws = some i := by
  simp only [encodesTo, Bool.and_eq_true, beq_iff_eq, Option.isSome_iff_exists] at h
  obtain ⟨⟨wf, ⟨k, w, l⟩, slot⟩, words⟩ := h
  rw [← words]
  exact decode_encode_slot wf slot

/-- Settles O56: the words are the encodings of well-formed instructions, which decoding undoes. -/
theorem specWordsDecode : Obligations.SpecWordsDecode := by
  unfold Obligations.SpecWordsDecode
  refine ⟨by decide, ?_, ?_, ?_, ?_, ?_, ?_, ?_, ?_, ?_, ?_, ?_, ?_⟩
  all_goals exact decode_of_encodesTo (by decide)

/-! ### Reset -/

theorem vget_replicate {α : Type} (n : Nat) (a : α) (i : Nat) : vget (Vector.replicate n a) i a = a := by
  by_cases h : i < n
  · simp [vget, h]
  · simp [vget, Vector.getElem?_eq_none (Nat.not_lt.1 h)]

/-- Every register reads as zero with poison clear, every handle as invalid and every token as none. -/
theorem reset_regs :
    (∀ a, Regs.reset.rx a = ⟨0, false⟩ ∧ Regs.reset.ry a = ⟨0, false⟩) ∧ (∀ a, Regs.reset.rp a = if a = 0 then BitVec.allOnes 64 else 0) ∧
    (∀ a i, lane (Regs.reset.rv a) i = 0) ∧ (∀ a i, lane (Regs.reset.rsc a) i = 0) ∧ (∀ a, (Regs.reset.rh a).valid = false) ∧
    (∀ a, Regs.reset.rk a = none) ∧ (∀ a, Regs.reset.rl a = 0) ∧ (∀ a, Regs.reset.rb a = 0) ∧ ∀ a, Regs.reset.rw a = 0 ∧ (Regs.reset.rw a).state = 0 := by
  refine ⟨fun a => ?_, fun a => ?_, fun a i => ?_, fun a i => ?_, fun a => ?_, fun a => ?_, fun a => vget_replicate .., fun a => vget_replicate ..,
    fun a => ?_⟩
  · simp only [Regs.rx, Regs.ry, Regs.reset, vget_replicate, ite_self]
    exact ⟨rfl, rfl⟩
  · simp only [Regs.rp, Regs.reset, vget_replicate]
  · simp only [Regs.rv, Regs.reset, vget_replicate]
    exact vget_replicate ..
  · simp only [Regs.rsc, Regs.reset, vget_replicate]
    exact vget_replicate ..
  · simp only [Regs.rh, Regs.reset, vget_replicate]
    rfl
  · simp only [Regs.rk, Regs.reset, vget_replicate, ite_self]
  · have zero : Regs.reset.rw a = 0 := vget_replicate ..
    rw [zero]
    exact ⟨rfl, by decide⟩

/-- Settles O59: every context reads as the reset one, and every other list of the device is empty. -/
theorem resetState : Obligations.ResetState := by
  unfold Obligations.ResetState
  obtain ⟨xy, p, v, sc, h, k, l, b, w⟩ := reset_regs
  exact ⟨⟨rfl, rfl, rfl, rfl⟩, rfl, rfl, rfl, rfl, rfl, rfl, rfl,
    fun c => ⟨rfl, rfl, rfl, rfl, rfl, rfl, ⟨rfl, rfl, rfl, rfl, rfl, rfl, rfl, rfl, rfl, rfl, rfl, rfl, rfl⟩, xy, p, v, sc, h, k, l, b, w,
      fun i => vget_replicate .., fun i => vget_replicate .., fun i => vget_replicate .., fun i => vget_replicate ..⟩,
    fun _ => rfl, fun _ _ => rfl, fun _ _ => rfl, fun _ _ _ _ => rfl, rfl, rfl, rfl, rfl, rfl⟩

end Sys2Proof.Machine
end

section
/-!
O53. What issuing the words of a bundle does, and the step of a device that issues a bundle of one slot.
-/

namespace Sys2Proof.Machine

/-! ### The words of a bundle -/

section Words

variable {u t : State} {ws : List Nat} {b : Bundle}

theorem issueWords_undecoded {e : EncErr} (bad : decodeBundle (ws.headD 0) ws.tail = .error e) :
    issueWords exec u ws = .next (u.takeTrap (encTrap ws e)) := by
  simp only [issueWords, bad]

variable (decoded : decodeBundle (ws.headD 0) ws.tail = .ok b)

theorem issueWords_head {len : BitVec 3} {r : TrapRec} {v : State} (decoded : decodeBundle (ws.headD 0) ws.tail = .ok b) (head : b.rep = some len)
    (bad : u.headCheck (ws.headD 0) len b.mword = (.error r, v)) : issueWords exec u ws = .next (u.takeTrap r) := by
  simp only [issueWords, decoded, head, bad]

variable (passes : ∀ len, b.rep = some len → ∃ x v, u.headCheck (ws.headD 0) len b.mword = (.ok x, v))
include decoded passes

/-- The checks of a bundle whose head, if it has one, passes its own. -/
theorem issueWords_checks : issueWords exec u ws =
    match checkGroup u.here b.slots ws b.rep.isSome with
    | .error r => .next (u.takeTrap r)
    | .ok (rd, wr) =>
      if b.slots = [] ∧ u.here.rep = none then exec (.emptyBundle b.stop) u
      else
        match runSlots exec u ((bundleOps b u.here.rep.isSome).filter fun i => !isTrap i) with
        | .stopped a => .next (u.stopBundle a)
        | .left t => .next t
        | .other o => o
        | .done t => finishBundle exec u t b (if b.stop then Group.fresh else ⟨u.here.group.count + 1, rd, wr⟩) := by
  cases head : b.rep with
  | none => simp only [issueWords, decoded, head] <;> rfl
  | some len =>
    obtain ⟨x, v, ok⟩ := passes len head
    simp only [issueWords, decoded, head, ok] <;> rfl

theorem issueWords_group {r : TrapRec} (bad : checkGroup u.here b.slots ws b.rep.isSome = .error r) : issueWords exec u ws = .next (u.takeTrap r) := by
  rw [issueWords_checks decoded passes, bad]

variable {rd wr : List Nat} (grouped : checkGroup u.here b.slots ws b.rep.isSome = .ok (rd, wr))
include grouped

theorem issueWords_empty (empty : b.slots = []) (plain : u.here.rep = none) : issueWords exec u ws = exec (.emptyBundle b.stop) u := by
  rw [issueWords_checks decoded passes, grouped]
  exact if_pos ⟨empty, plain⟩

variable (full : b.slots ≠ [] ∨ u.here.rep ≠ none)
include full

theorem issueWords_stopped {a : Status} (ran : runSlots exec u ((bundleOps b u.here.rep.isSome).filter fun i => !isTrap i) = .stopped a) :
    issueWords exec u ws = .next (u.stopBundle a) := by
  rw [issueWords_checks decoded passes, grouped]
  simp only [ran]
  exact if_neg fun h => full.elim (· h.1) (· h.2)

theorem issueWords_left (ran : runSlots exec u ((bundleOps b u.here.rep.isSome).filter fun i => !isTrap i) = .left t) :
    issueWords exec u ws = .next t := by
  rw [issueWords_checks decoded passes, grouped]
  simp only [ran]
  exact if_neg fun h => full.elim (· h.1) (· h.2)

theorem issueWords_done (ran : runSlots exec u ((bundleOps b u.here.rep.isSome).filter fun i => !isTrap i) = .done t) :
    issueWords exec u ws = finishBundle exec u t b (if b.stop then Group.fresh else ⟨u.here.group.count + 1, rd, wr⟩) := by
  rw [issueWords_checks decoded passes, grouped]
  simp only [ran]
  exact if_neg fun h => full.elim (· h.1) (· h.2)

end Words

/-! ### The end of a bundle -/

section Finished

variable {u t : State} {b : Bundle} {group : Group}

theorem finishBundle_inserted (many : 64 < t.here.flight.length) : finishBundle exec u t b group = .next (u.setHere u.here.tick) := if_pos many

variable (few : t.here.flight.length ≤ 64)
include few

theorem finishBundle_plain (plain : ∀ p ∈ b.slots, isTrap p.2 = false) : finishBundle exec u t b group =
    .next (t.setHere (t.here.endBundle u.here.branch b.size (b.slots.any fun p => isBranch p.2) group)) := by
  have none : (b.slots.map Prod.snd).find? isTrap = none := by
    rw [List.find?_eq_none]
    intro i hi
    obtain ⟨p, hp, rfl⟩ := List.mem_map.1 hi
    rw [plain p hp]
    decide
  refine (if_neg (Nat.not_lt.2 few)).trans ?_
  simp only [none]

theorem finishBundle_trap {i : Instr} {v : State} (found : (b.slots.map Prod.snd).find? isTrap = some i) (ran : exec i t = .next v) :
    finishBundle exec u t b group = .next (if v.status = .ok then
      t.setHere (t.here.endBundle u.here.branch b.size (b.slots.any fun p => isBranch p.2) group) else v) := by
  refine (if_neg (Nat.not_lt.2 few)).trans ?_
  simp only [found, ran]
  exact (apply_ite Host.Outcome.next ..).symm

end Finished

/-! ### The slots -/

/-- A slot that stops its bundle. -/
theorem runSlots_stopped {s x : State} {i : Instr} {a : Status} (ran : exec i s = .next x) (stops : x.status = a) (ok : a ≠ .ok) (goes : a ≠ .redirected)
    (post : List Instr) : runSlots exec s (i :: post) = .stopped a := by
  cases a with
  | ok => exact absurd rfl ok
  | redirected => exact absurd rfl goes
  | _ => simp only [runSlots, ran, stops]

theorem runSlots_left {s x : State} {i : Instr} (ran : exec i s = .next x) (goes : x.status = .redirected) (post : List Instr) :
    runSlots exec s (i :: post) = .left x := by
  simp only [runSlots, ran, goes]

/-! ### The step -/

/-- The step of a device whose next bundle has been fetched. -/
theorem step_of_issueWords {s u t : State} {ws : List Nat} (h : s.Issues u ws) (words : issueWords exec u ws = .next t) :
    step s = .next (t.turnOver s.cur) := by
  rw [step_issues h, words]

/-- What differs at most in the translations that are kept. -/
def State.UpToTlb (s t : State) : Prop := ∃ tlb, t = { s with tlb := tlb }

theorem State.UpToTlb.refl (s : State) : s.UpToTlb s := ⟨s.tlb, rfl⟩

theorem State.UpToTlb.trans {s t u : State} (h : s.UpToTlb t) (k : t.UpToTlb u) : s.UpToTlb u := by
  obtain ⟨_, rfl⟩ := h
  obtain ⟨l, rfl⟩ := k
  exact ⟨l, rfl⟩

theorem fetchWord_upToTlb (s : State) (va : Nat) : s.UpToTlb (s.fetchWord va).2 := by
  unfold State.fetchWord
  simp only []
  split
  · next heq => exact translate_tlb heq
  · next heq =>
    have h := translate_tlb heq
    split
    · exact h
    · split
      · split
        · exact h
        · split <;> exact h
      · exact h

theorem fetchWords_upToTlb (n : Nat) (s : State) (va : Nat) : s.UpToTlb (s.fetchWords va n).2 := by
  induction n generalizing s va with
  | zero => exact .refl s
  | succ n ih =>
    have one := fetchWord_upToTlb s va
    rw [State.fetchWords]
    split
    · next heq => rw [heq] at one; exact one
    · next t heq =>
      rw [heq] at one
      have rest := ih t (va + 4)
      split
      · next heq => rw [heq] at rest; exact one.trans rest
      · next heq => rw [heq] at rest; exact one.trans rest

theorem skipBundles_upToTlb (n : Nat) (s : State) (va : Nat) : s.UpToTlb (s.skipBundles va n).2 := by
  induction n generalizing s va with
  | zero => exact .refl s
  | succ n ih =>
    have one := fetchWord_upToTlb s va
    rw [State.skipBundles]
    split
    · next heq => rw [heq] at one; exact one
    · next t heq =>
      rw [heq] at one
      exact one.trans (ih t _)

theorem fetchBundle_upToTlb (s : State) (va : Nat) : s.UpToTlb (s.fetchBundle va).2 := by
  have head := fetchWord_upToTlb s va
  unfold State.fetchBundle
  split
  · next heq => rw [heq] at head; exact head
  · next h t heq =>
    rw [heq] at head
    have slots := fetchWords_upToTlb (headerSlots h.toNat).length t (va + 4)
    split
    · next heq => rw [heq] at slots; exact head.trans slots
    · next ws v heq =>
      rw [heq] at slots
      have ahead := skipBundles_upToTlb 3 v (va + bundleSize h.toNat)
      dsimp only
      split
      · split
        · next heq => rw [heq] at ahead; exact head.trans (slots.trans ahead)
        · next heq => rw [heq] at ahead; exact head.trans (slots.trans ahead)
      · exact head.trans slots

theorem bundleWords_upToTlb (s : State) : s.UpToTlb s.bundleWords.2 := by
  have fetch := fetchBundle_upToTlb s s.here.pc.toNat
  unfold State.bundleWords
  split
  · split <;> exact .refl s
  · split
    · next heq => rw [heq] at fetch; exact fetch
    · next heq => rw [heq] at fetch; exact fetch

/-- A bundle outside a repeat issues outside a repeat. -/
theorem State.Issues.rep {s u : State} {ws : List Nat} (h : s.Issues u ws) (plain : s.here.rep = none) : u.here.rep = none := by
  obtain ⟨-, -, -, -, -, -, -, -, -, -, a, v, words, rfl⟩ := h
  obtain ⟨l, hv⟩ := bundleWords_upToTlb s.atIssue
  rw [words] at hv
  have at_ : s.atIssue.here.rep = none := by
    have cycle : s.newCycle.here = s.here.newCycle := here_setHere ..
    have issue : s.atIssue.here = { s.newCycle.here with run := .running } := here_setHere ..
    obtain ⟨-, rep, -⟩ := newCycle_keeps s.here
    rw [issue, cycle]
    exact rep.trans plain
  have moved : (v.atBundle a ws).here = { v.here with pc := BitVec.ofNat 64 a } := here_setHere ..
  rw [moved]
  have same : v = { s.atIssue with tlb := l } := hv
  rw [same]
  exact at_

/-! ### A bundle of one slot -/

section Single

variable {s u t : State} {ws : List Nat} {b : Bundle} {k : SlotKind} {i : Instr} {rd wr : List Nat} (h : s.Issues u ws) (plain : s.here.rep = none)
  (decoded : decodeBundle (ws.headD 0) ws.tail = .ok b) (head : b.rep = none) (grouped : checkGroup u.here b.slots ws false = .ok (rd, wr))

include h plain head in
/-- The slot of a bundle of one slot, as what the bundle's slots do. -/
theorem single_ops (single : b.slots = [(k, i)]) (acts : isTrap i = false) :
    (bundleOps b u.here.rep.isSome).filter (fun i => !isTrap i) = [i] := by
  rw [h.rep plain]
  simp only [bundleOps, Option.isSome_none, Bool.false_eq_true, if_false, head, single, List.map_cons, List.map_nil, acts, Bool.not_false,
    List.filter_cons_of_pos, List.filter_nil]

include h plain decoded head grouped

theorem step_emptyBundle (empty : b.slots = []) (ran : exec (.emptyBundle b.stop) u = .next t) : step s = .next (t.turnOver s.cur) := by
  refine step_of_issueWords h ((issueWords_empty decoded ?_ (rd := rd) (wr := wr) ?_ empty (h.rep plain)).trans ran)
  · exact fun len hl => nomatch head.symm.trans hl
  · rw [head]
    exact grouped

variable (single : b.slots = [(k, i)]) (acts : isTrap i = false) (ran : exec i u = .next t)
include single acts ran

theorem step_singleDone (ok : t.status = .ok) (few : t.here.flight.length ≤ 64) : step s =
    .next ((t.setHere (t.here.endBundle u.here.branch b.size (isBranch i) (if b.stop then Group.fresh else ⟨u.here.group.count + 1, rd, wr⟩))).turnOver s.cur) := by
  have ends : runSlots exec u ((bundleOps b u.here.rep.isSome).filter fun i => !isTrap i) = .done t := by
    rw [single_ops h plain head single acts]
    exact runSlots_done (.cons _ _ _ _ _ ran ok (.nil _))
  refine step_of_issueWords h ((issueWords_done decoded (fun len hl => nomatch head.symm.trans hl) (rd := rd) (wr := wr) ?_ ?_ ends).trans
    ((finishBundle_plain few ?_).trans ?_))
  · rw [head]
    exact grouped
  · exact .inl (by rw [single]; exact List.cons_ne_nil _ _)
  · rw [single]
    intro p hp
    rw [List.mem_singleton.1 hp]
    exact acts
  · rw [single, List.any_cons, List.any_nil, Bool.or_false]

theorem step_singleLeft (goes : t.status = .redirected) : step s = .next (t.turnOver s.cur) := by
  have ends : runSlots exec u ((bundleOps b u.here.rep.isSome).filter fun i => !isTrap i) = .left t := by
    rw [single_ops h plain head single acts]
    exact runSlots_left ran goes _
  refine step_of_issueWords h (issueWords_left decoded (fun len hl => nomatch head.symm.trans hl) (rd := rd) (wr := wr) ?_ ?_ ends)
  · rw [head]
    exact grouped
  · exact .inl (by rw [single]; exact List.cons_ne_nil _ _)

theorem step_singleStops {a : Status} (stops : t.status = a) (ok : a ≠ .ok) (goes : a ≠ .redirected) :
    step s = .next ((u.stopBundle a).turnOver s.cur) := by
  have ends : runSlots exec u ((bundleOps b u.here.rep.isSome).filter fun i => !isTrap i) = .stopped a := by
    rw [single_ops h plain head single acts]
    exact runSlots_stopped ran stops ok goes _
  refine step_of_issueWords h (issueWords_stopped decoded (fun len hl => nomatch head.symm.trans hl) (rd := rd) (wr := wr) ?_ ?_ ends)
  · rw [head]
    exact grouped
  · exact .inl (by rw [single]; exact List.cons_ne_nil _ _)

end Single

/-- Settles O53: the slot ends in one of the ways of `runSlots`, and the bundle with it. -/
theorem stepRunsDecoded : Obligations.StepRunsDecoded := by
  unfold Obligations.StepRunsDecoded
  intro s u ws b h plain decoded head
  constructor
  · intro k i rd wr t grouped single acts ran
    have stops (a : Status) := step_singleStops (a := a) h plain decoded head grouped single acts ran
    refine ⟨?_, ?_, fun r ha => ?_, fun a ha => ?_, fun ha => ?_, fun p ha => ?_⟩
    · exact step_singleDone h plain decoded head grouped single acts ran
    · exact step_singleLeft h plain decoded head grouped single acts ran
    · exact stops (.trapped r) ha nofun nofun
    · exact stops (.blocked a) ha nofun nofun
    · exact stops .frozen ha nofun nofun
    · exact stops (.frozenPast p) ha nofun nofun
  · intro rd wr t grouped empty ran
    exact step_emptyBundle h plain decoded head grouped empty ran

end Sys2Proof.Machine
end

section
/-!
O54, first part. The registers that a slot word names, and the check of a bundle against its group.
-/

namespace Sys2Proof.Machine

/-! ### The names of registers -/

theorem useR_eq (k : Ctx) (c : Cl) (a : BitVec 5) : useR k c a = k.named c a := by
  cases c with
  | x => rfl
  | y =>
    simp only [useR, useF, Ctx.named]
    cases k.fifoOf a <;> rfl

theorem useQuad_eq (q : BitVec 3) : useQuad q = quadNamed q := by
  simp only [useQuad, quadNamed, List.range, List.range.loop, List.flatMap_cons, List.flatMap_nil, List.append_nil, List.append_assoc]
  rfl

theorem usePair_eq (p : Nat) : usePair p = [256 + 2 * p, 257 + 2 * p, 264 + 2 * p, 265 + 2 * p] := by
  simp only [usePair, List.cons.injEq, and_true, true_and]
  omega

/-- The registers of a slot word are those of its fields, and its predicate is read too (R22). -/
theorem uses_of_slotUses {k : Ctx} {g : Guard} {i : Instr} {r w : List Nat} (guard : guardOf i = some g) (fields : slotUses k i = ⟨r, w⟩) :
    k.uses g i r w := by
  intro n
  have word : wordUses k i = ⟨pNamed g.pred ++ r, w⟩ := by
    simp only [wordUses, fields, guard]
    rfl
  rw [word]
  exact ⟨List.mem_append, Iff.rfl⟩

/-! ### Conflicts (R22) -/

section Conflicts

variable (k : Ctx) (head : Bool) (slots : List (SlotKind × Instr))

/-- What a repeat head reads beside its slots (R103). -/
def stridesOf (n : Nat) : Prop := head = true ∧ n ∈ [641, 646, 647, 648]

/-- A slot word that conflicts with the earlier bundles of its group, or with the head. -/
def Ctx.clashesEarlier (p : SlotKind × Instr) : Prop :=
  ∃ n, (n ∈ (wordUses k p.2).reads ∧ n ∈ k.group.writes) ∨
    (n ∈ (wordUses k p.2).writes ∧ (n ∈ k.group.writes ∨ n ∈ k.group.reads ∨ stridesOf head n))

/-- Two slot words of a bundle that conflict. -/
def Ctx.clashesWith (p q : SlotKind × Instr) : Prop :=
  ∃ n, (n ∈ (wordUses k p.2).writes ∧ (n ∈ (wordUses k q.2).reads ∨ n ∈ (wordUses k q.2).writes)) ∨
    (n ∈ (wordUses k q.2).writes ∧ n ∈ (wordUses k p.2).reads)

/-- The reads of a group with those of the head of its bundle. -/
def Ctx.groupReads : List Nat := k.group.reads ++ if head then headUses else []

theorem mem_groupReads (n : Nat) : n ∈ k.groupReads head ↔ n ∈ k.group.reads ∨ stridesOf head n := by
  rw [Ctx.groupReads, List.mem_append, stridesOf]
  cases head with
  | false => simp only [Bool.false_eq_true, if_false, List.not_mem_nil, false_and]
  | true =>
    simp only [if_true, true_and]
    exact Iff.rfl

theorem clash_iff (u : Uses) (rd wr : List Nat) :
    u.clash rd wr = true ↔ ∃ n, (n ∈ u.reads ∧ n ∈ wr) ∨ (n ∈ u.writes ∧ (n ∈ wr ∨ n ∈ rd)) := by
  simp only [Uses.clash, Bool.or_eq_true, List.any_eq_true, List.mem_append, List.contains_iff_mem]
  constructor
  · rintro (⟨n, reads | writes, hn⟩ | ⟨n, writes, hn⟩)
    · exact ⟨n, .inl ⟨reads, hn⟩⟩
    · exact ⟨n, .inr ⟨writes, .inl hn⟩⟩
    · exact ⟨n, .inr ⟨writes, .inr hn⟩⟩
  · rintro ⟨n, ⟨reads, hn⟩ | ⟨writes, hn | hn⟩⟩
    · exact .inl ⟨n, .inl reads, hn⟩
    · exact .inl ⟨n, .inr writes, hn⟩
    · exact .inr ⟨n, writes, hn⟩

theorem mem_flatMap_take {α : Type} (f : α → List Nat) (l : List α) (m n : Nat) :
    n ∈ (l.take m).flatMap f ↔ ∃ j < m, ∃ q, l[j]? = some q ∧ n ∈ f q := by
  rw [List.mem_flatMap]
  constructor
  · rintro ⟨q, hq, hn⟩
    obtain ⟨j, hj⟩ := List.mem_iff_getElem?.1 hq
    rw [List.getElem?_take] at hj
    by_cases below : j < m
    · rw [if_pos below] at hj
      exact ⟨j, below, q, hj, hn⟩
    · rw [if_neg below] at hj
      cases hj
  · rintro ⟨j, below, q, hj, hn⟩
    refine ⟨q, List.mem_iff_getElem?.2 ⟨j, ?_⟩, hn⟩
    rw [List.getElem?_take, if_pos below, hj]

/-- Whether the word at a place conflicts with the group, and with the words before it. -/
def clashAt (rd wr : List Nat) (m : Nat) (p : SlotKind × Instr) : Bool :=
  (wordUses k p.2).clash (rd ++ (slots.take m).flatMap fun q => (wordUses k q.2).reads) (wr ++ (slots.take m).flatMap fun q => (wordUses k q.2).writes)

theorem clashAt_iff (m : Nat) (p : SlotKind × Instr) : clashAt k slots (k.groupReads head) k.group.writes m p = true ↔
    k.clashesEarlier head p ∨ ∃ l < m, ∃ q, slots[l]? = some q ∧ k.clashesWith q p := by
  simp only [clashAt, clash_iff, List.mem_append, mem_flatMap_take, mem_groupReads, Ctx.clashesEarlier, Ctx.clashesWith]
  constructor
  · rintro ⟨n, ⟨reads, hn | ⟨l, hl, q, hq, hn⟩⟩ | ⟨writes, (hn | ⟨l, hl, q, hq, hn⟩) | (hn | hn) | ⟨l, hl, q, hq, hn⟩⟩⟩
    · exact .inl ⟨n, .inl ⟨reads, hn⟩⟩
    · exact .inr ⟨l, hl, q, hq, n, .inl ⟨hn, .inl reads⟩⟩
    · exact .inl ⟨n, .inr ⟨writes, .inl hn⟩⟩
    · exact .inr ⟨l, hl, q, hq, n, .inl ⟨hn, .inr writes⟩⟩
    · exact .inl ⟨n, .inr ⟨writes, .inr (.inl hn)⟩⟩
    · exact .inl ⟨n, .inr ⟨writes, .inr (.inr hn)⟩⟩
    · exact .inr ⟨l, hl, q, hq, n, .inr ⟨writes, hn⟩⟩
  · rintro (⟨n, ⟨reads, hn⟩ | ⟨writes, hn | hn | hn⟩⟩ | ⟨l, hl, q, hq, n, ⟨hn, reads | writes⟩ | ⟨writes, hn⟩⟩)
    · exact ⟨n, .inl ⟨reads, .inl hn⟩⟩
    · exact ⟨n, .inr ⟨writes, .inl (.inl hn)⟩⟩
    · exact ⟨n, .inr ⟨writes, .inr (.inl (.inl hn))⟩⟩
    · exact ⟨n, .inr ⟨writes, .inr (.inl (.inr hn))⟩⟩
    · exact ⟨n, .inl ⟨reads, .inr ⟨l, hl, q, hq, hn⟩⟩⟩
    · exact ⟨n, .inr ⟨writes, .inl (.inr ⟨l, hl, q, hq, hn⟩)⟩⟩
    · exact ⟨n, .inr ⟨writes, .inr (.inr ⟨l, hl, q, hq, hn⟩)⟩⟩

/-! ### The walk over the words of a bundle -/

theorem clashAt_cons (rd wr : List Nat) (m : Nat) (o p : SlotKind × Instr) : clashAt k (o :: slots) rd wr (m + 1) p =
    clashAt k slots (rd ++ (wordUses k o.2).reads) (wr ++ (wordUses k o.2).writes) m p := by
  simp only [clashAt, List.take_succ_cons, List.flatMap_cons, List.append_assoc]

theorem groupWalk_cons (o : SlotKind × Instr) (w : Nat) (ws rd wr : List Nat) : groupWalk k (o :: slots) (w :: ws) rd wr =
    if clashAt k (o :: slots) rd wr 0 o then .error (groupTrap o.1.code w)
    else groupWalk k slots ws (rd ++ (wordUses k o.2).reads) (wr ++ (wordUses k o.2).writes) := by
  obtain ⟨sk, i⟩ := o
  simp only [clashAt, List.take_zero, List.flatMap_nil, List.append_nil]
  rfl

variable {slots}

theorem groupWalk_ok {ws rd wr : List Nat} (room : slots.length ≤ ws.length)
    (sound : ∀ m p, slots[m]? = some p → clashAt k slots rd wr m p = false) :
    groupWalk k slots ws rd wr = .ok (rd ++ slots.flatMap fun p => (wordUses k p.2).reads, wr ++ slots.flatMap fun p => (wordUses k p.2).writes) := by
  induction slots generalizing ws rd wr with
  | nil =>
    simp only [List.flatMap_nil, List.append_nil]
    rfl
  | cons o slots ih =>
    cases ws with
    | nil => exact absurd room (Nat.not_succ_le_zero _)
    | cons w ws =>
      rw [groupWalk_cons, sound 0 o rfl, if_neg Bool.false_ne_true, ih (Nat.le_of_succ_le_succ room)]
      · simp only [List.flatMap_cons, List.append_assoc]
      · intro m p hp
        rw [← clashAt_cons]
        exact sound (m + 1) p hp

theorem groupWalk_error {ws rd wr : List Nat} {m : Nat} {p : SlotKind × Instr} {w : Nat} (here : slots[m]? = some p) (word : ws[m]? = some w)
    (clash : clashAt k slots rd wr m p = true) (first : ∀ j < m, ∀ q, slots[j]? = some q → clashAt k slots rd wr j q = false) :
    groupWalk k slots ws rd wr = .error (groupTrap p.1.code w) := by
  induction slots generalizing ws rd wr m with
  | nil => cases here
  | cons o slots ih =>
    cases ws with
    | nil => cases word
    | cons v ws =>
      cases m with
      | zero =>
        cases here
        cases word
        rw [groupWalk_cons, clash, if_pos rfl]
      | succ m =>
        rw [groupWalk_cons, first 0 m.succ_pos o rfl, if_neg Bool.false_ne_true]
        rw [clashAt_cons] at clash
        refine ih here word clash fun j hj q hq => ?_
        rw [← clashAt_cons]
        exact first (j + 1) (Nat.succ_lt_succ hj) q hq

end Conflicts

/-! ### The check of a bundle (R21, R26, R94, R106) -/

section Check

variable {k : Ctx} {slots : List (SlotKind × Instr)} {h : Nat} {ws : List Nat} {head : Bool}

theorem checkGroup_full (full : 8 ≤ k.group.count) : checkGroup k slots (h :: ws) head = .error (groupTrap 7 h) := if_pos full

variable (room : k.group.count < 8)
include room

theorem checkGroup_delayed (delayed : k.branch ≠ none ∨ k.delay ≠ 0) (transfer : ∃ p ∈ slots, isTransfer p.2 = true) :
    checkGroup k slots (h :: ws) head = .error (groupTrap 0 (ws.headD 0)) := by
  have late : k.inDelay = true := by simpa [Ctx.inDelay, Option.isSome_iff_ne_none] using delayed
  exact (if_neg (Nat.not_le.2 room)).trans (if_pos ⟨late, List.any_eq_true.2 transfer⟩)

variable (free : ¬ ((k.branch ≠ none ∨ k.delay ≠ 0) ∧ ∃ p ∈ slots, isTransfer p.2 = true))
include free

omit room in
theorem not_transferDelayed : ¬ (k.inDelay = true ∧ (slots.any fun p => isTransfer p.2) = true) := by
  rintro ⟨late, transfer⟩
  refine free ⟨?_, List.any_eq_true.1 transfer⟩
  simpa [Ctx.inDelay, Option.isSome_iff_ne_none] using late

theorem checkGroup_alone (alone : (∃ p ∈ slots, isReturn p.2 = true) ∧ 2 ≤ slots.length) :
    checkGroup k slots (h :: ws) head = .error (groupTrap 0 (ws.headD 0)) :=
  (if_neg (Nat.not_le.2 room)).trans ((if_neg (not_transferDelayed free)).trans (if_pos ⟨List.any_eq_true.2 alone.1, alone.2⟩))

variable (several : ¬ ((∃ p ∈ slots, isReturn p.2 = true) ∧ 2 ≤ slots.length))
include several

theorem checkGroup_strides (clash : ∃ n ∈ k.group.writes, stridesOf head n) : checkGroup k slots (h :: ws) head = .error (groupTrap 7 h) := by
  obtain ⟨n, written, rfl, stride⟩ := clash
  refine (if_neg (Nat.not_le.2 room)).trans ((if_neg (not_transferDelayed free)).trans ((if_neg ?_).trans (if_pos ⟨rfl, ?_⟩)))
  · exact fun ⟨ret, two⟩ => several ⟨List.any_eq_true.1 ret, two⟩
  · exact List.any_eq_true.2 ⟨n, stride, List.contains_iff_mem.2 written⟩

theorem checkGroup_walk (apart : ¬ ∃ n ∈ k.group.writes, stridesOf head n) :
    checkGroup k slots (h :: ws) head = groupWalk k slots ws (k.groupReads head) k.group.writes := by
  refine (if_neg (Nat.not_le.2 room)).trans ((if_neg (not_transferDelayed free)).trans ((if_neg ?_).trans (if_neg ?_)))
  · exact fun ⟨ret, two⟩ => several ⟨List.any_eq_true.1 ret, two⟩
  · rintro ⟨rfl, clash⟩
    obtain ⟨n, stride, written⟩ := List.any_eq_true.1 clash
    exact apart ⟨n, List.contains_iff_mem.1 written, rfl, stride⟩

end Check

end Sys2Proof.Machine
end

section
/-!
O54, second part. The bundle that a step issues.
-/

namespace Sys2Proof.Machine

/-! ### The slots of a bundle -/

section Slots

variable {s u : State} {ws : List Nat} (h : s.Issues u ws) {b : Bundle} (decoded : decodeBundle (ws.headD 0) ws.tail = .ok b)
  (passes : ∀ len, b.rep = some len → ∃ x v, u.headCheck (ws.headD 0) len b.mword = (.ok x, v)) {rd wr : List Nat}
  (grouped : checkGroup u.here b.slots ws b.rep.isSome = .ok (rd, wr)) (full : b.slots ≠ [] ∨ u.here.rep ≠ none)
include h decoded passes grouped full

theorem step_bundleStops {pre post : List Instr} {i : Instr} {v x : State} {a : Status}
    (ops : (bundleOps b u.here.rep.isSome).filter (fun i => !isTrap i) = pre ++ i :: post)
    (before : RunsTo u pre v) (ran : exec i v = .next x) (stops : x.status = a) (ok : a ≠ .ok) (goes : a ≠ .redirected) :
    step s = .next ((u.stopBundle a).turnOver s.cur) := by
  have ends : runSlots exec u ((bundleOps b u.here.rep.isSome).filter fun i => !isTrap i) = .stopped a := by
    rw [ops, runSlots_append before, runSlots_stopped ran stops ok goes]
  exact step_of_issueWords h (issueWords_stopped decoded passes grouped full ends)

variable {t : State} (ran : RunsTo u ((bundleOps b u.here.rep.isSome).filter fun i => !isTrap i) t)
include ran

theorem step_bundleInserted (many : 64 < t.here.flight.length) : step s = .next ((u.setHere u.here.tick).turnOver s.cur) :=
  step_of_issueWords h ((issueWords_done decoded passes grouped full (runSlots_done ran)).trans (finishBundle_inserted many))

variable (few : t.here.flight.length ≤ 64)
include few

theorem step_bundleDone (plain : ∀ p ∈ b.slots, isTrap p.2 = false) : step s =
    .next ((t.setHere (t.here.endBundle u.here.branch b.size (b.slots.any fun p => isBranch p.2)
      (if b.stop then Group.fresh else ⟨u.here.group.count + 1, rd, wr⟩))).turnOver s.cur) :=
  step_of_issueWords h ((issueWords_done decoded passes grouped full (runSlots_done ran)).trans (finishBundle_plain few plain))

theorem step_bundleTrap {i : Instr} {v : State} (found : (b.slots.map Prod.snd).find? isTrap = some i) (act : exec i t = .next v) : step s =
    .next ((if v.status = .ok then t.setHere (t.here.endBundle u.here.branch b.size (b.slots.any fun p => isBranch p.2)
      (if b.stop then Group.fresh else ⟨u.here.group.count + 1, rd, wr⟩)) else v).turnOver s.cur) :=
  step_of_issueWords h ((issueWords_done decoded passes grouped full (runSlots_done ran)).trans (finishBundle_trap few found act))

end Slots

/-- A truth value as a proposition by cases, as a `match` on instructions is one. -/
def asProp (b : Bool) : Prop := b.rec False True

theorem asProp_iff (b : Bool) : asProp b ↔ b = true := by
  cases b
  · exact ⟨False.elim, Bool.false_ne_true⟩
  · exact ⟨fun _ => rfl, fun _ => trivial⟩

/-- Settles O54: the registers of each word, the checks of a bundle in their order, and the ways in which its slots end. -/
theorem bundlesRunOrStop : Obligations.BundlesRunOrStop := by
  unfold Obligations.BundlesRunOrStop
  refine ⟨?_, ?_, ?_⟩
  · intros
    simp only [← useR_eq, ← useQuad_eq, ← usePair_eq, List.forall_mem_cons, List.not_mem_nil, false_implies, implies_true, and_true]
    and_intros
    all_goals exact uses_of_slotUses rfl rfl
  · intro k slots h ws head words r illegal transfer returns delayed alone reads writes strides earlier together
    have transferring (i : Instr) : transfer i = asProp (isTransfer i) := by cases i <;> rfl
    have returning (i : Instr) : returns i = asProp (isReturn i) := by cases i <;> rfl
    have transfers (i : Instr) : transfer i ↔ isTransfer i = true := by rw [transferring, asProp_iff]
    have goesBack (i : Instr) : returns i ↔ isReturn i = true := by rw [returning, asProp_iff]
    have free (n : ¬ (delayed ∧ ∃ p ∈ slots, transfer p.2)) : ¬ (delayed ∧ ∃ p ∈ slots, isTransfer p.2 = true) := by
      simpa only [transfers] using n
    have several (n : ¬ alone) : ¬ ((∃ p ∈ slots, isReturn p.2 = true) ∧ 2 ≤ slots.length) := by simpa only [alone, goesBack] using n
    refine ⟨checkGroup_full, ?_, ?_, ?_⟩
    · rintro room late ⟨p, hp, ht⟩
      exact checkGroup_delayed room late ⟨p, hp, (transfers _).1 ht⟩
    · rintro room n ⟨⟨p, hp, back⟩, two⟩
      exact checkGroup_alone room (free n) ⟨⟨p, hp, (goesBack _).1 back⟩, two⟩
    · intro room n one
      refine ⟨checkGroup_strides room (free n) (several one), fun apart => ?_⟩
      have walk : r = groupWalk k slots ws (k.groupReads head) k.group.writes := checkGroup_walk room (free n) (several one) apart
      have quiet {m : Nat} {p : SlotKind × Instr} (own : ¬ earlier p) (others : ∀ l < m, ∀ q, slots[l]? = some q → ¬ together q p) :
          clashAt k slots (k.groupReads head) k.group.writes m p = false := by
        rw [← Bool.not_eq_true, clashAt_iff]
        rintro (clash | ⟨l, hl, q, hq, clash⟩)
        · exact own clash
        · exact others l hl q hq clash
      constructor
      · intro m p w hp hw clash first
        exact walk.trans (groupWalk_error k hp hw ((clashAt_iff k head slots m p).2 clash)
          fun j hj q hq => quiet (first j hj q hq).1 fun l hl o ho => (first j hj q hq).2 l hl o ho)
      · intro sound
        exact walk.trans (groupWalk_ok k words fun m p hp => quiet (sound m p hp).1 (sound m p hp).2)
  · intro s u ws h
    refine ⟨fun e bad => step_of_issueWords h (issueWords_undecoded bad), fun b decoded => ⟨fun len r v head bad =>
      step_of_issueWords h (issueWords_head decoded head bad), fun passes => ⟨fun r bad => step_of_issueWords h (issueWords_group decoded passes bad), ?_⟩⟩⟩
    intro rd wr grouped full
    refine ⟨fun t ran few => ⟨?_, ?_⟩, fun t ran many => step_bundleInserted h decoded passes grouped full ran many, ?_⟩
    · exact step_bundleDone h decoded passes grouped full ran few
    · exact fun i v => step_bundleTrap h decoded passes grouped full ran few
    · intro pre i post v x ops before ran
      have stops (a : Status) := step_bundleStops (a := a) h decoded passes grouped full ops before ran
      exact ⟨fun r ha => stops (.trapped r) ha nofun nofun, fun a ha => stops (.blocked a) ha nofun nofun, fun ha => stops .frozen ha nofun nofun,
        fun p ha => stops (.frozenPast p) ha nofun nofun⟩

end Sys2Proof.Machine
end

section
/-!
What a slot may change at its issue, as a relation between states that its body keeps step by step.
-/

namespace Sys2Proof.Machine

/-! ### The relation -/

/-- What a slot may change beside what every slot may: the registers themselves, the branch, memory and where, the tags, the semaphores,
and the matrix commands. -/
structure Touch where
  regs : Bool
  branch : Bool
  stores : Bool
  tags : Bool
  sems : Bool
  mcmds : Bool
  place : Nat → Prop

/-- How the running context may change. -/
structure Ctx.Within (a : Touch) (k l : Ctx) : Prop where
  regs : a.regs = false → l.regs = k.regs
  sr : l.sr = { k.sr with felSince := l.sr.felSince }
  pc : l.pc = k.pc
  branch : a.branch = false → l.branch = k.branch

/-- How the device may change. -/
structure State.Within (a : Touch) (s t : State) : Prop where
  cur : t.cur = s.cur
  here : s.here.Within a t.here
  others : ∀ c, c ≠ s.cur → t.ctx c = s.ctx c
  tiles : t.tiles = s.tiles
  host : t.host = s.host
  extents : t.extents = s.extents
  mem : a.stores = false → t.mem = s.mem
  tags : a.tags = false → t.tags = s.tags
  sems : a.sems = false → t.sems = s.sems
  mcmds : a.mcmds = false → t.mcmds = s.mcmds
  inv : s.Inv → t.Inv
  apart : s.Inv → ∀ key, ¬ a.place key → cellAt t.mem key = cellAt s.mem key

section Relation

variable {a : Touch} {s t u : State} {k l m : Ctx}

theorem Ctx.Within.refl (k : Ctx) : k.Within a k := ⟨fun _ => rfl, rfl, rfl, fun _ => rfl⟩

theorem Ctx.Within.trans (h : k.Within a l) (g : l.Within a m) : k.Within a m where
  regs := fun n => (g.regs n).trans (h.regs n)
  sr := by
    rw [g.sr, h.sr]
  pc := g.pc.trans h.pc
  branch := fun n => (g.branch n).trans (h.branch n)

theorem State.Within.refl (s : State) : s.Within a s :=
  ⟨rfl, .refl _, fun _ _ => rfl, rfl, rfl, rfl, fun _ => rfl, fun _ => rfl, fun _ => rfl, fun _ => rfl, id, fun _ _ _ => rfl⟩

theorem State.Within.trans (h : s.Within a t) (g : t.Within a u) : s.Within a u where
  cur := g.cur.trans h.cur
  here := h.here.trans g.here
  others := fun c hc => (g.others c (h.cur ▸ hc)).trans (h.others c hc)
  tiles := g.tiles.trans h.tiles
  host := g.host.trans h.host
  extents := g.extents.trans h.extents
  mem := fun n => (g.mem n).trans (h.mem n)
  tags := fun n => (g.tags n).trans (h.tags n)
  sems := fun n => (g.sems n).trans (h.sems n)
  mcmds := fun n => (g.mcmds n).trans (h.mcmds n)
  inv := fun i => g.inv (h.inv i)
  apart := fun i key out => (g.apart (h.inv i) key out).trans (h.apart i key out)

/-- Nothing but fields that every slot may change. -/
theorem State.within_of_same (cur : t.cur = s.cur) (ctxs : t.ctxs = s.ctxs) (mem : t.mem = s.mem) (tags : t.tags = s.tags) (tiles : t.tiles = s.tiles)
    (sems : t.sems = s.sems) (host : t.host = s.host) (extents : t.extents = s.extents) (mcmds : t.mcmds = s.mcmds) : s.Within a t := by
  have ctx (c : Nat) : t.ctx c = s.ctx c := by rw [State.ctx, ctxs, State.ctx]
  have here : t.here = s.here := by rw [State.here, ctx, cur, State.here]
  refine ⟨cur, here ▸ .refl _, fun c _ => ctx c, tiles, host, extents, fun _ => mem, fun _ => tags, fun _ => sems, fun _ => mcmds, fun i => ?_, fun _ _ _ => by rw [mem]⟩
  exact ⟨mem ▸ i.mem, tags ▸ i.tags, tiles ▸ i.tiles, sems ▸ i.sems⟩

/-- A change of the running context. -/
theorem within_setHere (h : s.here.Within a k) : s.Within a (s.setHere k) where
  cur := rfl
  here := by rw [here_setHere]; exact h
  others := fun _ hc => ctx_setCtx_ne _ _ _ _ hc
  tiles := rfl
  host := rfl
  extents := rfl
  mem := fun _ => rfl
  tags := fun _ => rfl
  sems := fun _ => rfl
  mcmds := fun _ => rfl
  inv := fun i => ⟨i.mem, i.tags, i.tiles, i.sems⟩
  apart := fun _ _ _ => rfl

/-- A store of bytes at a place that the slot may write. -/
theorem within_perform (stores : a.stores = true) (core : Nat) {key : Nat} {bs : List Byte} (place : ∀ x, key ≤ x → x < key + bs.length → a.place x) :
    s.Within a (s.perform core key bs) where
  cur := rfl
  here := .refl _
  others := fun _ _ => rfl
  tiles := rfl
  host := rfl
  extents := rfl
  mem := fun n => absurd (stores.symm.trans n) Bool.noConfusion
  tags := fun _ => rfl
  sems := fun _ => rfl
  mcmds := fun _ => rfl
  inv := fun i => ⟨wf_writeCells i.mem _ _, i.tags, i.tiles, i.sems⟩
  apart := fun i x out => by
    rw [perform_mem, cellAt_writeCells i.mem]
    exact if_neg fun ⟨lo, hi⟩ => out (place x lo hi)

end Relation

/-! ### Bodies -/

section Bodies

/-- A part of a body changes nothing in a state. -/
def Exec.GuardsAt {α : Type} (x : Exec α) (s : State) : Prop := ∀ r t, x s = .ok (r, t) → t = s

/-- A part of a body that changes nothing. -/
def Exec.Guards {α : Type} (x : Exec α) : Prop := ∀ s, x.GuardsAt s

/-- What a part of a body does in a state is within what the slot may do. -/
def Exec.WithinAt {α : Type} (a : Touch) (x : Exec α) (s : State) : Prop := ∀ r t, x s = .ok (r, t) → s.Within a t

/-- And so in every state. -/
def Exec.Within {α : Type} (a : Touch) (x : Exec α) : Prop := ∀ s, x.WithinAt a s

variable {α β : Type} {a : Touch} {s t : State} {x : Exec α} {f : α → Exec β}

@[simp] theorem guards_pure (r : α) : Exec.Guards (pure r : Exec α) := fun _ _ _ h => by cases h; rfl
@[simp] theorem guards_get : Exec.Guards (get : Exec State) := fun _ _ _ h => by cases h; rfl
@[simp] theorem guards_getHere : Exec.Guards getHere := fun _ _ _ h => by cases h; rfl
@[simp] theorem guards_stop (e : Stop) : Exec.Guards (stop e : Exec α) := fun _ _ _ h => nomatch h
@[simp] theorem guards_raise (c : Nat) (k : SlotKind) (i : Nat) : Exec.Guards (raise c k i : Exec α) := fun _ _ _ h => nomatch h
@[simp] theorem guardsAt_of_guards (h : x.Guards) (s : State) : x.GuardsAt s := h s

/-- A part of a body ends in a state, or the whole stops there. -/
theorem bind_ok {r : β} (h : (x >>= f) s = .ok (r, t)) : ∃ q u, x s = .ok (q, u) ∧ f q u = .ok (r, t) := by
  rw [exec_bind] at h
  cases hs : x s with
  | error e => rw [hs] at h; cases h
  | ok p =>
    rw [hs] at h
    exact ⟨p.1, p.2, rfl, h⟩

/-- After a part that changes nothing the state is the one before it. -/
@[simp] theorem guardsAt_bind (hx : x.Guards) : (x >>= f).GuardsAt s ↔ ∀ r, x s = .ok (r, s) → (f r).GuardsAt s := by
  constructor
  · intro h r hr q t ht
    exact h q t (by rw [exec_bind, hr]; exact ht)
  · intro h r t ht
    obtain ⟨q, u, hq, hu⟩ := bind_ok ht
    obtain rfl : u = s := hx s q u hq
    exact h q hq r t hu

@[simp] theorem guardsAt_map (hx : x.Guards) (g : α → β) : (g <$> x).GuardsAt s := by
  intro r t h
  rw [exec_map] at h
  cases hs : x s with
  | error e => rw [hs] at h; cases h
  | ok p =>
    rw [hs] at h
    cases h
    exact hx s p.1 p.2 hs

@[simp] theorem guardsAt_ite (p : Prop) [Decidable p] (x y : Exec α) : (if p then x else y).GuardsAt s ↔ (p → x.GuardsAt s) ∧ (¬ p → y.GuardsAt s) := by
  split <;> rename_i h <;> simp [h]

@[simp] theorem guards_raiseIf (b : Bool) (c : Nat) (k : SlotKind) (i : Nat) : (raiseIf b c k i).Guards := by
  intro s
  simp [raiseIf]

@[simp] theorem guards_stopIf (b : Bool) (e : Stop) : (stopIf b e).Guards := by
  intro s
  simp [stopIf]

@[simp] theorem withinAt_of_guards (h : x.Guards) : x.WithinAt a s := fun r t ht => by
  rw [h s r t ht]
  exact .refl s

@[simp] theorem withinAt_of_within (h : x.Within a) : x.WithinAt a s := h s

@[simp] theorem withinAt_guard (hx : x.Guards) : (x >>= f).WithinAt a s ↔ ∀ r, x s = .ok (r, s) → (f r).WithinAt a s := by
  constructor
  · intro h r hr q t ht
    exact h q t (by rw [exec_bind, hr]; exact ht)
  · intro h r t ht
    obtain ⟨q, u, hq, hu⟩ := bind_ok ht
    obtain rfl : u = s := hx s q u hq
    exact h q hq r t hu

@[simp] theorem withinAt_ite (p : Prop) [Decidable p] (x y : Exec α) :
    (if p then x else y).WithinAt a s ↔ (p → x.WithinAt a s) ∧ (¬ p → y.WithinAt a s) := by
  split <;> rename_i h <;> simp [h]

@[simp] theorem withinAt_map (g : α → β) : (g <$> x).WithinAt a s ↔ x.WithinAt a s := by
  constructor
  · intro h r t ht
    exact h (g r) t (by rw [exec_map, ht])
  · intro h r t ht
    rw [exec_map] at ht
    cases hs : x s with
    | error e => rw [hs] at ht; cases ht
    | ok p =>
      rw [hs] at ht
      cases ht
      exact h p.1 p.2 hs

@[simp] theorem withinAt_modify (g : State → State) : Exec.WithinAt a (modify g : Exec Unit) s ↔ s.Within a (g s) :=
  ⟨fun h => h () _ rfl, fun h r t ht => by cases ht; exact h⟩

@[simp] theorem withinAt_set : Exec.WithinAt a (set t : Exec PUnit) s ↔ s.Within a t :=
  ⟨fun h => h () _ rfl, fun h r u hu => by cases hu; exact h⟩

theorem withinAt_setHere {k : Ctx} (h : s.here.Within a k) : Exec.WithinAt a (setHere k) s := fun _ _ ht => by cases ht; exact within_setHere h

theorem withinAt_bind_at (hx : x.WithinAt a s) (hf : ∀ r t, x s = .ok (r, t) → (f r).WithinAt a t) : (x >>= f).WithinAt a s := by
  intro r t h
  obtain ⟨q, u, hq, hu⟩ := bind_ok h
  exact (hx q u hq).trans (hf q u hq r t hu)

/-- Parts that each keep within what the slot may do. -/
theorem within_bind (hx : x.Within a) (hf : ∀ r, (f r).Within a) : (x >>= f).Within a :=
  fun s => withinAt_bind_at (hx s) fun r t _ => hf r t

/-- A slot has not stopped its bundle. -/
def State.Goes (s t : State) : Prop := ∀ e, t ≠ s.stoppedBy e

theorem State.goes_of_ok (ok : t.status = .ok) : s.Goes t := by
  rintro e rfl
  cases e <;> cases ok

/-- A body runs to its end, or stops its slot. -/
theorem runBody_outcome {body : Exec Unit} (ran : runBody body s = .next t) : (∃ r, body s = .ok (r, t)) ∨ ∃ e, t = s.stoppedBy e := by
  unfold runBody at ran
  cases hb : body s with
  | ok p =>
    rw [hb] at ran
    cases ran
    exact .inl ⟨p.1, rfl⟩
  | error e =>
    rw [hb] at ran
    refine .inr ⟨e, ?_⟩
    cases e <;> cases ran <;> rfl

/-- A slot is disabled, or its body runs to its end, or stops it. -/
theorem runSlot_outcome {g : Guard} {body : Exec Unit} (ran : runSlot g body s = .next t) :
    t = s ∨ (∃ r, body s = .ok (r, t)) ∨ ∃ e, t = s.stoppedBy e := by
  unfold runSlot at ran
  split at ran
  · exact .inr (runBody_outcome ran)
  · cases ran
    exact .inl rfl

/-- A slot that goes on has changed nothing more than its body has. -/
theorem runSlot_within {g : Guard} {body : Exec Unit} (h : body.WithinAt a s) (ran : runSlot g body s = .next t) (goes : s.Goes t) : s.Within a t := by
  rcases runSlot_outcome ran with rfl | ⟨r, hb⟩ | ⟨e, he⟩
  · exact .refl _
  · exact h r t hb
  · exact absurd he (goes e)

end Bodies

end Sys2Proof.Machine
end

section
/-!
What the shared steps of the slots' bodies may change: reads and checks nothing, and the others only what their slot may.
-/

namespace Sys2Proof.Machine

/-! ### Reads and checks -/

section Guards

variable {α : Type}

@[simp] theorem guards_readX (r : BitVec 5) : (readX r).Guards := fun s => by simp [readX]
@[simp] theorem guards_readY (r : BitVec 5) : (readY r).Guards := fun s => by simp [readY]
@[simp] theorem guards_readP (r : BitVec 4) : (readP r).Guards := fun s => by simp [readP]
@[simp] theorem guards_readV (r : BitVec 5) : (readV r).Guards := fun s => by simp [readV]
@[simp] theorem guards_readH (r : BitVec 4) : (readH r).Guards := fun s => by simp [readH]
@[simp] theorem guards_readK (r : BitVec 4) : (readK r).Guards := fun s => by simp [readK]
@[simp] theorem guards_classWait (c : BitVec 4) : (classWait c).Guards := fun s => by simp [classWait]
@[simp] theorem guards_wholeWait (k n : Nat) : (wholeWait k n).Guards := fun s => by simp [wholeWait]
@[simp] theorem guards_checkAligned (k : SlotKind) (x n : Nat) : (checkAligned k x n).Guards := fun s => by simp [checkAligned]
@[simp] theorem guards_checkLocal (k : SlotKind) (x n m : Nat) : (checkLocal k x n m).Guards := fun s => by simp [checkLocal]
@[simp] theorem guards_load (c : BitVec 4) (k n : Nat) : (load c k n).Guards := fun s => by simp [load]
@[simp] theorem guards_loadLocal (c : BitVec 4) (x n : Nat) : (loadLocal c x n).Guards := fun s => by simp [loadLocal]
@[simp] theorem guards_needReg (k : SlotKind) (c : Cl) (r : BitVec 5) (v : Reg) : (needReg k c r v).Guards := fun s => by simp [needReg]
@[simp] theorem guards_tagAddr (r : BitVec 5) (w : BitVec 2) (o : BitVec 7) : (tagAddr r w o).Guards := fun s => by simp [tagAddr]
@[simp] theorem guards_tagLock (x : Nat) (w : BitVec 2) (st : Bool) : (tagLock x w st).Guards := fun s => by simp [tagLock]
@[simp] theorem guards_readYV (k : SlotKind) (r : BitVec 5) : (readYV k r).Guards := fun s => by simp [readYV]
@[simp] theorem guards_scaleWait (n : Nat) : (scaleWait n).Guards := fun s => by simp [scaleWait]
@[simp] theorem guards_scaleAddr (r : BitVec 5) (o : BitVec 11) : (scaleAddr r o).Guards := fun s => by simp [scaleAddr]
@[simp] theorem guards_scalesWait (n : Nat) : (scalesWait n).Guards := fun s => by simp [scalesWait]
@[simp] theorem guards_bufferWait : bufferWait.Guards := fun s => by simp [bufferWait]
@[simp] theorem guards_accessBefore (c : BitVec 4) : (accessBefore c).Guards := fun s => by simp [accessBefore]
@[simp] theorem guards_consumed (ks : List (BitVec 4)) : (consumed ks).Guards := fun s => by simp [consumed]
@[simp] theorem guards_awaitTokens (ks : List (BitVec 4)) : (awaitTokens ks).Guards := fun s => by simp [awaitTokens]
@[simp] theorem guards_needQuad (q : BitVec 3) (i : Nat) : (needQuad q i).Guards := fun s => by simp [needQuad, readQuad]
@[simp] theorem guards_quadAll (q : BitVec 3) : (quadAll q).Guards := fun s => by simp [quadAll]
@[simp] theorem guards_checkTile (t : BitVec 5) : (checkTile t).Guards := fun s => by simp [checkTile]
@[simp] theorem guards_rowOf (y : BitVec 5) (r : BitVec 6) : (rowOf y r).Guards := fun s => by simp [rowOf]
@[simp] theorem guards_recordAddr (y : BitVec 5) : (recordAddr y).Guards := fun s => by simp [recordAddr]
@[simp] theorem guards_readRecord (x : Nat) : (readRecord x).Guards := fun s => by simp [readRecord]
@[simp] theorem guards_checkPage (n : BitVec 4) (h : Handle) (d : Bool) (i : Nat) : (checkPage n h d i).Guards := fun s => by simp [checkPage]
@[simp] theorem guards_checkAlign (v n i : Nat) : (checkAlign v n i).Guards := fun s => by simp [checkAlign]
@[simp] theorem guards_checkPriv (b : Bool) (i : Nat) : (checkPriv b i).Guards := fun s => by simp [checkPriv]
@[simp] theorem guards_checkRange (x n : Nat) : (checkRange x n).Guards := fun s => by simp [checkRange]
@[simp] theorem guards_checkOptions (d : Bool) (c : W64) : (checkOptions d c).Guards := fun s => by simp [checkOptions]
@[simp] theorem guards_checkBin (c : W64) : (checkBin c).Guards := fun s => by simp [checkBin]
@[simp] theorem guards_binOperand (q : BitVec 3) : (binOperand q).Guards := fun s => by simp [binOperand]
@[simp] theorem guards_semOperand (r : EYF) (c : BitVec 4) (q : BitVec 3) (n : Nat) : (semOperand r c q n).Guards := fun s => by simp [semOperand]
@[simp] theorem guards_registerTarget (r : BitVec 5) : (registerTarget r).Guards := fun s => by simp [registerTarget]
@[simp] theorem guards_checkLevel (n : Nat) : (checkLevel n).Guards := fun s => by simp [checkLevel]
@[simp] theorem guards_imageAddr (q : BitVec 3) : (imageAddr q).Guards := fun s => by simp [imageAddr]
@[simp] theorem guards_barOperand (q : BitVec 3) : (barOperand q).Guards := fun s => by simp [barOperand]

@[simp] theorem guards_raiseSome (k : SlotKind) (e : Option (Nat × Nat)) : (raiseSome k e).Guards := by
  cases e with
  | none => exact guards_pure ()
  | some p => exact guards_raise p.1 k p.2

@[simp] theorem guards_checkLoft (k : SlotKind) (h : Handle) (o n : Nat) (l : Bool) : (checkLoft k h o n l).Guards := by
  intro s
  simp only [checkLoft, guardsAt_bind guards_get, guardsAt_ite]
  refine fun r _ => ⟨fun _ => ?_, fun _ => guards_pure () s⟩
  cases r.lostPlane h o n r.here.sr.tenant l with
  | none => exact guards_pure () s
  | some p => exact guards_raise _ _ _ s

@[simp] theorem guards_checkLanes (l : List Nat) (n : Nat) : (checkLanes l n).Guards := by
  intro s
  simp only [checkLanes, guardsAt_bind guards_getHere]
  intro k _
  cases l.find? fun x => x % n != 0 with
  | some x => exact guards_raise _ _ _ s
  | none =>
    dsimp only
    cases l.find? fun x => !k.allots x n with
    | some x => exact guards_raise _ _ _ s
    | none => exact guards_pure () s

@[simp] theorem guards_checkOperand (b : Bool) (o : Opnd) (n : Nat) : (checkOperand b o n).Guards := by
  intro s
  simp only [checkOperand, guardsAt_bind (guards_raiseIf _ _ _ _), guardsAt_bind guards_getHere]
  intro _ _ k _
  cases (o.stripes n).find? fun x => !k.allots x 256 <;> simp

@[simp] theorem guards_gather (c : BitVec 4) (n : Nat) (l : List Nat) : (gather c n l).Guards := by
  induction l with
  | nil => exact guards_pure []
  | cons x l ih => exact fun s => by simp [gather, ih]

@[simp] theorem guards_raiseReason (r i : Nat) (o : Option Nat) : (raiseReason r i o).Guards := guards_stop _

end Guards

end Sys2Proof.Machine
end

section
/-!
What the shared steps that do change the device change: results in flight, FIFO words, loads, stores, commands and tokens.
-/

namespace Sys2Proof.Machine

variable {a : Touch}

/-! ### The running context -/

theorem Ctx.Within.of_same {k l : Ctx} (regs : l.regs = k.regs) (sr : l.sr = k.sr) (pc : l.pc = k.pc) (branch : l.branch = k.branch) : k.Within a l :=
  ⟨fun _ => regs, by rw [sr], pc, fun _ => branch⟩

theorem Ctx.within_addFlight (k : Ctx) (sc : Bool) (r : Result) (n : Nat) (el ex : Bool) (ev : Option FelEvent) (rd : Option Redo) :
    k.Within a (k.addFlight sc r n el ex ev rd) := by
  unfold Ctx.addFlight
  split
  · exact .refl k
  · exact .of_same rfl rfl rfl rfl

theorem Ctx.within_addLate (k : Ctx) (r : Result) (n : Nat) (el : Bool) (rd : Redo) : k.Within a (k.addLate r n el rd) := .of_same rfl rfl rfl rfl

theorem Ctx.within_addDue (k : Ctx) (r : TrapRec) : k.Within a (k.addDue r) := .of_same rfl rfl rfl rfl

theorem Ctx.within_fire (k : Ctx) (t code : Nat) : k.Within a (k.fire t code) := by
  unfold Ctx.fire
  split
  · exact .of_same rfl rfl rfl rfl
  · exact .refl k

/-- What is read of the running context is changed in it. -/
theorem within_modifyHere {f : Ctx → Ctx} (h : ∀ k : Ctx, k.Within a (f k)) : Exec.Within a (getHere >>= fun k => setHere (f k)) :=
  fun s => (withinAt_guard guards_getHere).2 fun k hk => by cases hk; exact withinAt_setHere (h _)

theorem withinAt_set_bind {β : Type} {s t : State} {f : PUnit → Exec β} (h : s.Within a t) (hf : (f ()).WithinAt a t) :
    ((set t : Exec PUnit) >>= f).WithinAt a s :=
  withinAt_bind_at (withinAt_set.2 h) fun r u hu => by cases hu; exact hf

/-! ### Results -/

@[simp] theorem within_schedule (r : Result) (n : Nat) (el : Bool) (ev : Option FelEvent) : (schedule r n el ev).Within a :=
  fun _ => (withinAt_modify _).2 (within_setHere (Ctx.within_addFlight ..))

@[simp] theorem within_exact (r : Result) (n : Nat) : (exact r n).Within a := within_schedule _ _ _ _
@[simp] theorem within_elasticRes (r : Result) (n : Nat) : (elasticRes r n).Within a := within_schedule _ _ _ _

@[simp] theorem within_exactExt (r : Result) (n : Nat) : (exactExt r n).Within a :=
  fun _ => (withinAt_modify _).2 (within_setHere (Ctx.within_addFlight ..))

@[simp] theorem within_freshValue : freshValue.Within a := by
  intro s
  simp only [freshValue, withinAt_guard guards_get]
  intro r hr
  cases hr
  exact withinAt_set_bind (State.within_of_same rfl rfl rfl rfl rfl rfl rfl rfl rfl) (withinAt_of_guards (guards_pure _))

@[simp] theorem within_putHit (pd : BitVec 4) (hit : Bool) (n : Nat) : (putHit pd hit n).Within a := within_exactExt _ _
@[simp] theorem within_putEY (r : EYF) (v : W64) (hit : Bool) : (putEY r v hit).Within a := within_bind (within_exactExt _ _) fun _ => within_putHit _ _ _

@[simp] theorem within_putLanes (d : BitVec 5) (m : W64) (n : Nat) (f : Nat → W32 × Nat) : (putLanes d m n f).Within a := fun s => by simp [putLanes]
@[simp] theorem within_putPlain (d : BitVec 5) (m : W64) (n : Nat) (f : Nat → W32) : (putPlain d m n f).Within a := within_putLanes _ _ _ _
@[simp] theorem within_putGroups (d : BitVec 5) (m : W64) (g : BitVec 2) (f : Nat → Nat → Option Rounded) : (putGroups d m g f).Within a := by
  unfold putGroups
  exact within_putLanes _ _ _ _

/-! ### FIFO fields (R364) -/

@[simp] theorem within_readYf (k : SlotKind) (r : BitVec 5) : (readYf k r).Within a := by
  intro s
  simp only [readYf, withinAt_guard guards_get]
  intro t ht
  cases ht
  cases s.here.fifoOf r with
  | none => simp
  | some p =>
    obtain ⟨n, b⟩ := p
    cases b with
    | recv ch =>
      dsimp only
      cases (alGet s.chans (clusterOf s.cur * 256 + ch.toNat)).getD [] with
      | nil => simp
      | cons w ws =>
        simp only [withinAt_guard (guards_classWait 0)]
        exact fun _ _ => withinAt_set_bind (State.within_of_same rfl rfl rfl rfl rfl rfl rfl rfl rfl) (withinAt_of_guards (guards_pure _))
    | _ => simp

@[simp] theorem within_readR (c : Cl) (r : BitVec 5) : (readR c r).Within a := by cases c <;> intro s <;> simp [readR]
@[simp] theorem within_readT (c : Cl) (r : BitVec 5) : (readT c r).Within a := by cases c <;> intro s <;> simp [readT]

@[simp] theorem within_destY (k : SlotKind) (d : BitVec 5) (r : Reg) : (destY k d r).Within a := by
  intro s
  simp only [destY, withinAt_guard guards_getHere]
  intro k hk
  cases hk
  cases s.here.fifoOf d with
  | none => simp
  | some p =>
    obtain ⟨n, b⟩ := p
    cases b with
    | send q =>
      simp only [withinAt_guard (guards_stopIf _ _), withinAt_guard guards_get]
      intro _ _ _ _ t ht
      cases ht
      refine withinAt_set_bind (State.Within.trans (t := s.setHere
        { s.here with sends := s.here.sends.map fun e => if e.id = q then { e with entries := e.entries ++ [(s.next, none)] } else e })
        (within_setHere (.of_same rfl rfl rfl rfl)) ?_) (withinAt_of_guards (guards_pure _))
      exact State.within_of_same rfl rfl rfl rfl rfl rfl rfl rfl rfl
    | _ => simp

@[simp] theorem within_destT (c : Cl) (d : BitVec 5) (r : Reg) : (destT c d r).Within a := by cases c <;> intro s <;> simp [destT]

@[simp] theorem within_writeR (c : Cl) (d : BitVec 5) (r : Reg) (n : Nat) : (writeR c d r n).Within a := by
  cases c with
  | x => exact within_exact _ _
  | y => exact within_bind (within_destY _ _ _) fun _ => within_exact _ _

/-- A load's result goes to its register or its FIFO. -/
@[simp] theorem within_destT_elastic (c : Cl) (d : BitVec 5) (r : Reg) (n : Nat) : (destT c d r >>= fun x => elasticRes x n).Within a :=
  within_bind (within_destT _ _ _) fun _ => within_elasticRes _ _

@[simp] theorem within_poisonedLoad (c : Cl) (t : BitVec 5) (n : Nat) : (poisonedLoad c t n).Within a :=
  within_bind within_freshValue fun _ => within_destT_elastic _ _ _ _

@[simp] theorem within_needY (y : BitVec 5) : (needY y).Within a :=
  within_bind (within_readYf _ _) fun _ s => by simp

@[simp] theorem within_tagDatum (c : Cl) (t : BitVec 5) : (tagDatum c t).Within a :=
  within_bind (within_readT _ _) fun _ s => by simp

@[simp] theorem within_retAddr : retAddr.Within a := by
  intro s
  simp only [retAddr, withinAt_guard guards_get]
  intro r hr
  cases hr
  have skip := skipBundles_upToTlb 4 s s.here.pc.toNat
  cases h : s.skipBundles s.here.pc.toNat 4 with
  | mk e t =>
    rw [h] at skip
    obtain ⟨l, rfl⟩ := skip
    cases e with
    | error r => exact withinAt_of_guards (guards_stop _)
    | ok x => exact withinAt_set_bind (State.within_of_same rfl rfl rfl rfl rfl rfl rfl rfl rfl) (withinAt_of_guards (guards_pure _))

/-! ### Loads through handles -/

theorem takeLines_lines (s : State) (core key n : Nat) : ∃ l, s.takeLines core key n = { s with lines := l } := by
  unfold State.takeLines
  generalize linesOf key n = ls
  induction ls generalizing s with
  | nil => exact ⟨s.lines, rfl⟩
  | cons x ls ih =>
    rw [List.foldl_cons]
    cases lineOf s.lines core x with
    | some _ => exact ih s
    | none =>
      obtain ⟨l, hl⟩ := ih { s with lines := keepFirst (fun p => p.1 == core) Config.l1Lines ((core, (x, readCells s.mem x 64)) :: s.lines) }
      exact ⟨l, hl⟩

/-- A load changes at most the lines of the core's L1. -/
theorem afterLoad_lines (s : State) (c : Nat) (h : Handle) (o n : Nat) : ∃ l, s.afterLoad c h o n = { s with lines := l } := by
  unfold State.afterLoad
  split
  · exact ⟨s.lines, rfl⟩
  · split
    · exact takeLines_lines s _ _ _
    · exact ⟨_, rfl⟩

theorem State.within_afterLoad (s : State) (c : Nat) (h : Handle) (o n : Nat) : s.Within a (s.afterLoad c h o n) := by
  obtain ⟨l, hl⟩ := afterLoad_lines s c h o n
  rw [hl]
  exact State.within_of_same rfl rfl rfl rfl rfl rfl rfl rfl rfl

@[simp] theorem within_loadHandle (c : BitVec 4) (h : Handle) (o n : Nat) : (loadHandle c h o n).Within a := by
  intro s
  simp only [loadHandle, withinAt_guard (guards_classWait c), withinAt_guard guards_get, withinAt_guard (guards_stopIf _ _)]
  intro _ _ r hr _ _
  cases hr
  split
  · exact withinAt_set_bind (State.within_afterLoad ..) (withinAt_of_guards (guards_pure _))
  · exact withinAt_of_guards fun s => by simp

@[simp] theorem within_addLoad (r : Result) (h : Handle) (late : Bool) (redo : Redo) : (addLoad r h late redo).Within a := by
  intro s
  simp only [addLoad, withinAt_guard guards_get]
  intro t ht
  cases ht
  split
  · exact withinAt_setHere (Ctx.within_addLate ..)
  · exact withinAt_setHere (Ctx.within_addFlight ..)

@[simp] theorem within_deliver (c : BitVec 4) (r : Result) (form : LoadForm) (h : Handle) (o n p : Nat) : (deliver c r form h o n p).Within a :=
  within_bind (within_loadHandle _ _ _ _) fun _ s => by simp

@[simp] theorem within_deliverLink (c : BitVec 4) (r0 r1 : Result) (h : Handle) (o : Nat) : (deliverLink c r0 r1 h o).Within a :=
  within_bind (within_loadHandle _ _ _ _) fun _ s => (withinAt_guard guards_get).2 fun _ _ => within_bind (within_addLoad _ _ _ _) (fun _ => within_addLoad _ _ _ _) s

/-! ### Commands and tokens -/

@[simp] theorem within_newToken (kd : BitVec 4) : (newToken kd).Within a := by
  intro s
  simp only [newToken, withinAt_guard guards_get, withinAt_guard (guards_stopIf _ _)]
  intro r hr _ _
  cases hr
  exact withinAt_set_bind (State.within_of_same rfl rfl rfl rfl rfl rfl rfl rfl rfl)
    (withinAt_bind_at (within_exact _ _ _) fun _ _ _ => withinAt_of_guards (guards_pure _))

@[simp] theorem within_issueE (kd : BitVec 4) (ks : List (Option Nat)) (eng : Engine) (op : EOp) (extra : List Nat) :
    (issueE kd ks eng op extra).Within a := by
  intro s
  simp only [issueE, withinAt_guard guards_get, withinAt_guard (guards_stopIf _ _)]
  intro _ _ _ _
  refine within_bind (within_newToken kd) (fun t => within_bind (fun u => ?_) fun _ => fun u => withinAt_of_guards (guards_pure _)) s
  exact (withinAt_modify _).2 (State.within_of_same rfl rfl rfl rfl rfl rfl rfl rfl rfl)

@[simp] theorem within_takeBin (b : Nat) : (takeBin b).Within a := by
  intro s
  simp only [takeBin, withinAt_guard guards_get]
  intro r hr
  cases hr
  exact withinAt_set_bind (State.within_of_same rfl rfl rfl rfl rfl rfl rfl rfl rfl) (withinAt_of_guards (guards_pure _))

/-- A token that the running context owns completes. -/
theorem State.within_finishTok {s : State} {t : Nat} (own : ∃ c, alGet s.toks t = some ⟨s.cur, c⟩) (code : Nat) : s.Within a (s.finishTok t code) := by
  obtain ⟨c, own⟩ := own
  unfold State.finishTok
  rw [own]
  cases c with
  | some c => exact .refl s
  | none =>
    dsimp only
    split
    · let u : State := { s with toks := alSet s.toks t ⟨s.cur, some code⟩ }
      have fired : u.here.Within a ((s.ctx s.cur).fire t code) := Ctx.within_fire ..
      exact State.Within.trans (t := u) (State.within_of_same rfl rfl rfl rfl rfl rfl rfl rfl rfl) (within_setHere fired)
    · exact State.within_of_same rfl rfl rfl rfl rfl rfl rfl rfl rfl

end Sys2Proof.Machine
end

section
/-!
Where a slot's store may write.
-/

namespace Sys2Proof.Machine

section Stores

variable {a : Touch} {s : State}

/-! ### Granules -/

theorem within_performAll (stores : a.stores = true) (core : Nat) (bs : List Byte) (ks : List Nat)
    (place : ∀ k ∈ ks, ∀ x, k ≤ x → x < k + bs.length → a.place x) : s.Within a (performAll s core bs ks) := by
  induction ks generalizing s with
  | nil => exact .refl s
  | cons k ks ih =>
    rw [performAll]
    exact (within_perform stores core (place k List.mem_cons_self)).trans (ih fun j hj => place j (List.mem_cons_of_mem _ hj))

theorem storeKeys_extents {s t : State} (same : t.extents = s.extents) (h : Handle) (o n : Nat) (tenant : BitVec 16) :
    t.storeKeys h o n tenant = s.storeKeys h o n tenant := by
  unfold State.storeKeys State.extentOf
  rw [same]

theorem partKeys_extents {s t : State} (same : t.extents = s.extents) (tenant : BitVec 16) (p : Part) : t.partKeys tenant p = s.partKeys tenant p := by
  unfold State.partKeys
  split
  · rfl
  · exact storeKeys_extents same ..

theorem within_performParts (stores : a.stores = true) (core : Nat) (tenant : BitVec 16) (ps : List Part)
    (place : ∀ p ∈ ps, ∀ k ∈ s.partKeys tenant p, ∀ x, k ≤ x → x < k + p.bytes.length → a.place x) : s.Within a (performParts s core tenant ps) := by
  induction ps generalizing s with
  | nil => exact .refl s
  | cons p ps ih =>
    rw [performParts]
    have first : s.Within a (performAll s core p.bytes (s.partKeys tenant p)) := within_performAll stores core _ _ (place p List.mem_cons_self)
    refine first.trans (ih fun q hq k hk => place q (List.mem_cons_of_mem _ hq) k ?_)
    rw [← partKeys_extents first.extents]
    exact hk

theorem within_keepParts (s : State) (cls : BitVec 4) (ps : List Part) : s.Within a (s.keepParts cls ps) := by
  let k : Ctx := { s.here with
    stores := s.here.stores ++ ps.zipIdx.map fun p => .store (s.next + p.2) s.next cls p.1.key p.1.bytes p.1.loft }
  have kept : s.here.Within a k := .of_same rfl rfl rfl rfl
  exact (within_setHere kept).trans (State.within_of_same rfl rfl rfl rfl rfl rfl rfl rfl rfl)

theorem withinAt_store (stores : a.stores = true) (cls : BitVec 4) {ps : List Part}
    (place : ∀ p ∈ ps, ∀ k ∈ s.partKeys s.here.sr.tenant p, ∀ x, k ≤ x → x < k + p.bytes.length → a.place x) : (store cls ps).WithinAt a s := by
  simp only [store, withinAt_guard guards_get, withinAt_guard (guards_stopIf _ _), withinAt_modify]
  intro _ _ _ _
  split
  · exact within_keepParts s cls ps
  · exact within_performParts stores _ _ ps place

/-! ### The places of a store (R240) -/

/-- A granule's bytes lie among those of its store. -/
theorem part_inside {g i x base : Nat} {bs : List Byte} (lo : base + g * i ≤ x) (hi : x < base + g * i + ((bs.drop (g * i)).take g).length) :
    base ≤ x ∧ x < base + bs.length := by
  rw [List.length_take, List.length_drop] at hi
  omega

theorem withinAt_storeLocal (stores : a.stores = true) (cls : BitVec 4) (g addr : Nat) {bs : List Byte}
    (place : ∀ x, s.spadPlace addr bs.length x → a.place x) : (storeLocal cls g addr bs).WithinAt a s := by
  simp only [storeLocal, withinAt_guard guards_get, withinAt_guard (guards_stopIf _ _)]
  intro t ht _ _
  cases ht
  refine withinAt_store stores cls fun p hp k hk x lo hi => place x ?_
  obtain ⟨i, -, rfl⟩ := List.mem_map.1 hp
  cases List.mem_singleton.1 hk
  exact part_inside lo hi

/-- The keys of a store to a page are places of the page. -/
theorem storeKeys_pagePlace {h : Handle} {o n m d k x : Nat} (hk : k ∈ s.storeKeys h (o + d) m s.here.sr.tenant) (lo : k ≤ x) (hi : x < k + m)
    (inside : d + m ≤ n) : s.pagePlace h o n x := by
  unfold State.storeKeys at hk
  unfold State.pagePlace
  by_cases loft : h.tgt = 1
  · rw [if_pos loft] at hk ⊢
    cases found : s.extentOf h.plane.toNat (h.ppn.toNat * 65536 + (o + d)) m s.here.sr.tenant with
    | none =>
      simp only [found] at hk
      cases hk
    | some e =>
      have fits := List.find?_some found
      simp only [Bool.and_eq_true, Bool.or_eq_true, beq_iff_eq, decide_eq_true_eq] at fits
      obtain ⟨⟨⟨tenant, plane⟩, -⟩, -⟩ := fits
      have place (p : Nat) (hp : k = loftKey p (h.ppn.toNat * 65536 + (o + d))) :
          loftKey p (h.ppn.toNat * 65536 + o) ≤ x ∧ x < loftKey p (h.ppn.toNat * 65536 + o) + n := by
        unfold loftKey at hp ⊢
        omega
      refine ⟨e, List.mem_of_find?_eq_some found, ?_⟩
      simp only [found] at hk
      cases mirror : e.mirror with
      | none =>
        simp only [mirror, List.mem_singleton] at hk
        exact ⟨e.plane, tenant, mirror ▸ plane, .inl rfl, place _ hk⟩
      | some q =>
        simp only [mirror, List.mem_cons, List.not_mem_nil, or_false] at hk
        rcases hk with hk | hk
        · exact ⟨e.plane, tenant, mirror ▸ plane, .inl rfl, place _ hk⟩
        · exact ⟨q, tenant, mirror ▸ plane, .inr rfl, place _ hk⟩
  · rw [if_neg loft] at hk ⊢
    have key : h.key (o + d) = h.key o + d := by
      simp only [Handle.key, hbmKey, hostKey]
      split <;> omega
    rw [List.mem_singleton.1 hk, key] at lo hi
    omega

theorem withinAt_storeHandle (stores : a.stores = true) (cls : BitVec 4) (g : Nat) (h : Handle) (o : Nat) {bs : List Byte}
    (place : ∀ x, s.pagePlace h o bs.length x → a.place x) : (storeHandle cls g h o bs).WithinAt a s := by
  simp only [storeHandle, withinAt_guard guards_get]
  intro t ht
  cases ht
  split
  · exact withinAt_setHere (Ctx.within_addDue ..)
  · refine withinAt_store stores cls fun p hp k hk x lo hi => place x ?_
    obtain ⟨i, -, rfl⟩ := List.mem_map.1 hp
    by_cases loft : h.tgt = 1
    · rw [if_pos loft] at hk
      have keys : k ∈ s.storeKeys h (o + g * i) ((bs.drop (g * i)).take g).length s.here.sr.tenant := hk
      by_cases inside : g * i ≤ bs.length
      · refine storeKeys_pagePlace keys lo hi ?_
        rw [List.length_take, List.length_drop]
        omega
      · have empty : ((bs.drop (g * i)).take g).length = 0 := by
          rw [List.length_take, List.length_drop]
          omega
        exact absurd (Nat.lt_of_le_of_lt lo hi) (by simp only [empty, Nat.add_zero, Nat.lt_irrefl, not_false_eq_true])
    · rw [if_neg loft] at hk
      cases List.mem_singleton.1 hk
      rw [State.pagePlace, if_neg loft]
      exact part_inside lo hi

theorem State.within_latomDo (stores : a.stores = true) (h : Handle) (o : Nat) (wide : Bool) (op : LatomOp) (v e : W64)
    (place : ∀ x, s.pagePlace h o (if wide then 8 else 4) x → a.place x) : s.Within a (s.latomDo s.cur h o wide op v e).1 := by
  refine within_performAll stores _ _ _ fun k hk x lo hi => place x ?_
  rw [length_leBytes] at hi
  exact storeKeys_pagePlace (d := 0) hk lo hi (Nat.le_of_eq (Nat.zero_add _))

/-! ### Tags -/

theorem wf_setTags {tags : List Host.Cell} (wf : Memory.wf tags = true) (cl addr : Nat) (bs : List Bool) :
    Memory.wf (setTags tags cl addr bs) = true := by
  induction bs generalizing tags addr with
  | nil => exact wf
  | cons b bs ih => exact ih (wf_setCell wf _ _) _

theorem within_setTags (touch : a.tags = true) (s : State) (cl addr : Nat) (bs : List Bool) :
    s.Within a { s with tags := setTags s.tags cl addr bs } where
  cur := rfl
  here := .refl _
  others := fun _ _ => rfl
  tiles := rfl
  host := rfl
  extents := rfl
  mem := fun _ => rfl
  tags := fun n => absurd (touch.symm.trans n) Bool.noConfusion
  sems := fun _ => rfl
  mcmds := fun _ => rfl
  inv := fun i => ⟨i.mem, wf_setTags i.tags _ _ _, i.tiles, i.sems⟩
  apart := fun _ _ _ => rfl

/-! ### Semaphores -/

theorem within_setSem (touch : a.sems = true) (s : State) (ref : Nat) (v : W64) : s.Within a (s.setSem ref v) where
  cur := rfl
  here := .refl _
  others := fun _ _ => rfl
  tiles := rfl
  host := rfl
  extents := rfl
  mem := fun _ => rfl
  tags := fun _ => rfl
  sems := fun n => absurd (touch.symm.trans n) Bool.noConfusion
  mcmds := fun _ => rfl
  inv := fun i => ⟨i.mem, i.tags, i.tiles, wf_setCell i.sems _ _⟩
  apart := fun _ _ _ => rfl

/-! ### Matrix commands -/

theorem within_addMcmd (touch : a.mcmds = true) (s : State) (c : MCmd) (n : Nat) : s.Within a { s with mcmds := s.mcmds ++ [c], next := n } where
  cur := rfl
  here := .refl _
  others := fun _ _ => rfl
  tiles := rfl
  host := rfl
  extents := rfl
  mem := fun _ => rfl
  tags := fun _ => rfl
  sems := fun _ => rfl
  mcmds := fun n => absurd (touch.symm.trans n) Bool.noConfusion
  inv := fun i => ⟨i.mem, i.tags, i.tiles, i.sems⟩
  apart := fun _ _ _ => rfl

theorem within_issueM (touch : a.mcmds = true) (op : MOp) : (issueM op).Within a := by
  intro s
  simp only [issueM, withinAt_guard guards_bufferWait, withinAt_guard guards_get, withinAt_guard (guards_stopIf _ _), withinAt_set]
  intro _ _ t ht _ _
  cases ht
  exact within_addMcmd touch s _ _

/-! ### Branches and cursors -/

theorem within_takeBranch (touch : a.branch = true) (t : W64) : (takeBranch t).Within a :=
  within_modifyHere fun _ => ⟨fun _ => rfl, rfl, rfl, fun n => absurd (touch.symm.trans n) Bool.noConfusion⟩

theorem within_setCursor (touch : a.regs = true) (w : Nat) (v : Cursor) : (setCursor w v).Within a :=
  fun _ => (withinAt_modify _).2 (within_setHere ⟨fun n => absurd (touch.symm.trans n) Bool.noConfusion, rfl, rfl, fun _ => rfl⟩)

end Stores

end Sys2Proof.Machine
end

section
/-!
What the bodies that change the device in more than one step may change.
-/

namespace Sys2Proof.Machine

section Forms

variable {a : Touch} {s t : State} {g : Guard} (goes : s.Goes t)
include goes

/-! ### Slots of the X, Y and L kinds -/

theorem comparison_within {c : Cl} {pd : BitVec 4} {x : BitVec 5} {b : Exec (W64 × Option (BitVec 5 × Bool))} {cc : Cond} {w : Nat} (second : b.Within a)
    (ran : comparison g c pd x b cc w s = .next t) : s.Within a t := by
  refine runSlot_within (within_bind (within_readR c x) (fun v => within_bind second fun y => ?_) s) ran goes
  intro u
  rw [withinAt_guard (guards_raiseIf _ _ _ _)]
  intro _ _
  split <;> simp

theorem select_within {c : Cl} {d x y : BitVec 5} {ps : BitVec 4} (ran : select g c d x y ps s = .next t) : s.Within a t :=
  runSlot_within (within_bind (within_readR c x) (fun _ => within_bind (within_readR c y) fun _ u => by simp) s) ran goes

omit goes in
theorem within_cmpReg (c : Cl) (b : BitVec 5) : (cmpReg c b).Within a := within_bind (within_readR c b) fun _ _ => withinAt_of_guards (guards_pure _)

theorem fence_within {m : BitVec 16} {sc : BitVec 4} {bank : Bool} (ran : fence g m sc bank s = .next t) : s.Within a t := by
  refine runSlot_within ?_ ran goes
  rw [withinAt_guard guards_getHere]
  intro _ _
  rw [withinAt_guard (guards_stopIf _ _)]
  intro _ _
  rw [withinAt_modify]
  have drop (u : State) (h : s.Within a u) : s.Within a (if 2 ≤ sc.toNat then u.dropCore (coreOf s.cur) else u) := by
    split
    · exact h.trans (State.within_of_same rfl rfl rfl rfl rfl rfl rfl rfl rfl)
    · exact h
  refine drop _ ?_
  split
  · exact .refl s
  · exact within_setHere (.of_same rfl rfl rfl rfl)

theorem handleLoad_within {cl : Cl} {r o : BitVec 5} {hn cls : BitVec 4} {w : BitVec 2} {disp : BitVec 3} {form : LoadForm}
    (ran : handleLoad g cl r hn o cls w disp form s = .next t) : s.Within a t := by
  refine runSlot_within ?_ ran goes
  have brings (h : Handle) (off n : Nat) : Exec.Within a (destT cl r Reg.zero >>= fun d => deliver cls d form h off n off) :=
    within_bind (within_destT _ _ _) fun _ => within_deliver _ _ _ _ _ _ _
  simp [brings]

theorem ldhS_within {cl : Cl} {r o : BitVec 5} {hn cls : BitVec 4} {w : BitVec 2} {disp : BitVec 3} (ran : execLdhS g cl r hn o cls w disp s = .next t) :
    s.Within a t := by
  refine runSlot_within ?_ ran goes
  rw [withinAt_guard (guards_readY _)]
  intro y _
  rw [withinAt_guard (guards_readH _)]
  intro h _
  dsimp only
  split
  · exact within_poisonedLoad _ _ _ s
  · cases checkHandle hn.toNat h (lhOffset y.val w disp) (2 ^ w.toNat) (2 ^ w.toNat) true false false with
    | some e => exact within_destT_elastic _ _ _ _ s
    | none =>
      rw [withinAt_guard (guards_checkLoft _ _ _ _ _)]
      exact fun _ _ => within_bind (within_destT _ _ _) (fun _ => within_deliver _ _ _ _ _ _ _) s

theorem loadFull_within {cl : Cl} {r x : BitVec 5} {cls : BitVec 4} {w : BitVec 2} {off : BitVec 7} {take : Bool} (touch : take = true → a.tags = true)
    (ran : loadFull g cl r x cls w off take s = .next t) : s.Within a t := by
  refine runSlot_within ?_ ran goes
  have last (addr : Nat) (bs : List Byte) : Exec.Within a (destT cl r ⟨loaded true bs, false⟩ >>= fun d => elasticRes d 5 >>= fun _ =>
      if take then modify fun s => { s with tags := setTags s.tags (clusterOf s.cur) addr (List.replicate (tagWords w) false) } else pure ()) := by
    refine within_bind (within_destT _ _ _) fun _ => within_bind (within_elasticRes _ _) fun _ u => ?_
    rw [withinAt_ite]
    refine ⟨fun h => ?_, fun _ => withinAt_of_guards (guards_pure _)⟩
    rw [withinAt_modify]
    exact within_setTags (touch h) u _ _ _
  simp [last]

theorem ldlink_within {r o : BitVec 5} {hn cls : BitVec 4} (ran : execLdlink g r hn o cls s = .next t) : s.Within a t := by
  refine runSlot_within ?_ ran goes
  have fresh (n : Nat) : Exec.Within a (freshValue >>= fun v => elasticRes (.y r ⟨v, true⟩) n >>= fun _ => freshValue >>= fun v =>
      elasticRes (.y (pairNext r) ⟨v, true⟩) n) :=
    within_bind within_freshValue fun _ => within_bind (within_elasticRes _ _) fun _ => within_bind within_freshValue fun _ => within_elasticRes _ _
  simp [fresh]

omit goes in
/-- An entry goes to the end of a load queue. -/
theorem within_enqueue (q : BitVec 2) (es : Ctx → List QEntry) :
    Exec.Within a (getHere >>= fun k => setHere { k with q := vset k.q q.toNat (es k), nextId := k.nextId + 1 }) :=
  within_modifyHere (f := fun k => { k with q := vset k.q q.toNat (es k), nextId := k.nextId + 1 }) fun _ => .of_same rfl rfl rfl rfl

theorem ldq_within {q w : BitVec 2} {o : BitVec 5} {hn cls : BitVec 4} (ran : execLdq g q hn o cls w s = .next t) : s.Within a t := by
  refine runSlot_within ?_ ran goes
  rw [withinAt_guard guards_getHere]
  intro _ _
  rw [withinAt_guard (guards_stopIf _ _)]
  intro _ _
  rw [withinAt_guard (guards_readY _)]
  intro y _
  rw [withinAt_guard (guards_readH _)]
  intro h _
  dsimp only
  rw [withinAt_ite]
  refine ⟨fun _ => within_bind within_freshValue (fun _ => within_enqueue q _) s, fun _ => ?_⟩
  rw [withinAt_guard (guards_raiseSome _ _)]
  intro _ _
  refine within_bind (within_loadHandle _ _ _ _) (fun bs u => ?_) s
  rw [withinAt_guard guards_get]
  intro _ _
  split
  · exact within_bind within_freshValue (fun _ => within_enqueue q _) u
  · rw [withinAt_guard (guards_pure _)]
    exact fun _ _ => within_enqueue q _ u

omit goes in
theorem within_dequeue (q : BitVec 2) (es : List QEntry) : Exec.Within a (getHere >>= fun k => setHere { k with q := vset k.q q.toNat es }) :=
  within_modifyHere (f := fun k => { k with q := vset k.q q.toNat es }) fun _ => .of_same rfl rfl rfl rfl

theorem qpop_within {cl : Cl} {r : BitVec 5} {q : BitVec 2} (ran : execQpop g cl r q s = .next t) : s.Within a t := by
  refine runSlot_within ?_ ran goes
  rw [withinAt_guard guards_getHere]
  intro k _
  cases k.queue q with
  | nil => exact withinAt_of_guards (guards_raise _ _ _)
  | cons e es =>
    dsimp only
    rw [withinAt_guard (guards_stopIf _ _)]
    intro _ _
    cases e.failed with
    | some p => exact withinAt_of_guards (guards_stop _)
    | none =>
      exact within_bind (within_destT _ _ _) (fun _ => within_bind (within_exact _ _) fun _ => within_dequeue q es) s

end Forms

end Sys2Proof.Machine
end

section
/-!
What the stores may change: the bytes that their operands address, and the tags where they are tag instructions.
-/

namespace Sys2Proof.Machine

section Places

variable {a : Touch} {s t u : State}

/-! ### The operands that address a store -/

/-- A part that changes nothing ends in the state it begins in. -/
theorem guard_ok {α β : Type} {x : Exec α} {f : α → Exec β} (hx : x.Guards) {r : β} (h : (x >>= f) s = .ok (r, t)) :
    ∃ q, x s = .ok (q, s) ∧ f q s = .ok (r, t) := by
  obtain ⟨q, u, hq, hu⟩ := bind_ok h
  cases hx s q u hq
  exact ⟨q, hq, hu⟩

theorem readYV_value {k : SlotKind} {r : BitVec 5} {v : W64} (h : readYV k r s = .ok (v, s)) : v = (s.here.regs.ry r).val := by
  obtain ⟨_, read, h⟩ := guard_ok (guards_readY r) h
  obtain ⟨_, -, h⟩ := guard_ok (guards_raiseIf _ _ _ _) h
  cases read
  cases h
  rfl

theorem needQuad_value {q : BitVec 3} {i : Nat} {v : W64} (h : needQuad q i s = .ok (v, s)) : v = (s.here.regs.ry (quad q i)).val := by
  rw [needQuad_apply] at h
  split at h
  · cases h
  · cases h
    rfl

theorem tagAddr_value {r : BitVec 5} {w : BitVec 2} {o : BitVec 7} {x : Nat} (h : tagAddr r w o s = .ok (x, s)) :
    x = localAddr (s.here.regs.ry r).val (2 ^ w.toNat) o := by
  obtain ⟨_, read, h⟩ := guard_ok (guards_readY r) h
  obtain ⟨_, -, h⟩ := guard_ok (guards_needReg _ _ _ _) h
  obtain ⟨_, -, h⟩ := guard_ok (guards_checkLocal _ _ _ _) h
  cases read
  cases h
  exact lsAddr_eq _ _ _

theorem scaleAddr_value {r : BitVec 5} {o : BitVec 11} {x : Nat} (h : scaleAddr r o s = .ok (x, s)) : x = localAddr (s.here.regs.ry r).val 256 o := by
  obtain ⟨_, read, h⟩ := guard_ok (guards_readYV _ r) h
  obtain ⟨_, -, h⟩ := guard_ok (guards_checkLocal _ _ _ _) h
  cases readYV_value read
  cases h
  exact addrOff_eq _ _ _

theorem length_bytesOf (v : Lanes) : (bytesOf v).length = 256 := by simp [bytesOf, length_leBytes]

/-! ### The places are those of the state at the issue -/

theorem State.Within.spadPlace (h : s.Within a u) {addr n key : Nat} (p : u.spadPlace addr n key) : s.spadPlace addr n key := by
  unfold State.spadPlace at p ⊢
  rwa [h.cur] at p

theorem State.Within.pagePlace (h : s.Within a u) {g : Handle} {o n key : Nat} (p : u.pagePlace g o n key) : s.pagePlace g o n key := by
  have tenant : u.here.sr.tenant = s.here.sr.tenant := by rw [h.here.sr]
  unfold State.pagePlace at p ⊢
  rwa [h.extents, tenant] at p

/-- The datum of a store may be popped from a FIFO first. -/
theorem withinAt_datum {c : Cl} {r : BitVec 5} {f : Reg → Exec Unit} (h : ∀ v u, s.Within a u → (f v).WithinAt a u) :
    (readT c r >>= f).WithinAt a s :=
  withinAt_bind_at (within_readT c r s) fun v u read => h v u (within_readT c r s v u read)

end Places

section Forms

variable {a : Touch} {s t : State} {g : Guard} (goes : s.Goes t)
include goes

/-! ### Stores to the scratchpad -/

theorem st_within {cl : Cl} {r y : BitVec 5} {cls : BitVec 4} {w : BitVec 2} {off : BitVec 7} (stores : a.stores = true)
    (place : ∀ x, s.storePlace (.st g cl r y cls w off) x → a.place x) (ran : execSt g cl r y cls w off s = .next t) : s.Within a t := by
  refine runSlot_within ?_ ran goes
  rw [withinAt_guard (guards_readY _)]
  intro v hv
  cases hv
  rw [withinAt_guard (guards_needReg _ _ _ _)]
  intro _ _
  dsimp only
  rw [withinAt_guard (guards_checkLocal _ _ _ _)]
  refine fun _ _ => withinAt_datum fun v u hu => ?_
  rw [withinAt_guard (guards_needReg _ _ _ _)]
  refine fun _ _ => withinAt_storeLocal stores _ _ _ fun x hx => place x ?_
  have inside := hu.spadPlace hx
  rwa [length_leBytes, lsAddr_eq] at inside

theorem stv_within {v y : BitVec 5} {cls : BitVec 4} {ew : BitVec 2} {off : BitVec 8} (stores : a.stores = true)
    (place : ∀ x, s.storePlace (.stv g v y cls ew off) x → a.place x) (ran : execStv g v y cls ew off s = .next t) : s.Within a t := by
  refine runSlot_within ?_ ran goes
  rw [withinAt_guard (guards_readYV _ _)]
  intro b hb
  cases readYV_value hb
  dsimp only
  rw [withinAt_guard (guards_checkLocal _ _ _ _)]
  intro _ _
  rw [withinAt_guard (guards_readV _)]
  refine fun l _ => withinAt_storeLocal stores _ _ _ fun x hx => place x ?_
  rwa [length_bytesOf, addrOff_eq] at hx

theorem sst_within {sc cls : BitVec 4} {y : BitVec 5} {off : BitVec 11} (stores : a.stores = true)
    (place : ∀ x, s.storePlace (.sst g sc y cls off) x → a.place x) (ran : execSst g sc y cls off s = .next t) : s.Within a t := by
  refine runSlot_within ?_ ran goes
  rw [withinAt_guard (guards_scaleAddr _ _)]
  intro b hb
  cases scaleAddr_value hb
  rw [withinAt_guard (guards_scaleWait _)]
  intro _ _
  rw [withinAt_guard guards_getHere]
  refine fun _ _ => withinAt_storeLocal stores _ _ _ fun x hx => place x ?_
  rwa [length_bytesOf] at hx

theorem stvs_within {v ix y : BitVec 5} {cls : BitVec 4} {ew : BitVec 2} (stores : a.stores = true)
    (place : ∀ x, s.storePlace (.stvs g v ix y cls ew) x → a.place x) (ran : execStvs g v ix y cls ew s = .next t) : s.Within a t := by
  refine runSlot_within ?_ ran goes
  rw [withinAt_guard (guards_readYV _ _)]
  intro b hb
  cases readYV_value hb
  rw [withinAt_guard (guards_readV _)]
  intro l hl
  cases hl
  dsimp only
  rw [withinAt_guard (guards_checkLanes _ _)]
  intro _ _
  rw [withinAt_guard guards_get]
  intro z hz
  cases hz
  rw [withinAt_guard (guards_stopIf _ _)]
  intro _ _
  rw [withinAt_guard (guards_readV _)]
  refine fun l _ => withinAt_store stores _ fun p hp k hk x lo hi => place x ?_
  obtain ⟨⟨addr, i⟩, hq, rfl⟩ := List.mem_map.1 hp
  cases List.mem_singleton.1 hk
  have lane := List.fst_mem_of_mem_zipIdx hq
  obtain ⟨j, hj, rfl⟩ := List.mem_map.1 lane
  rw [length_leBytes] at hi
  exact ⟨j, List.mem_range.1 hj, lo, hi⟩

/-! ### Tag instructions -/

theorem ste_within {cl : Cl} {r y : BitVec 5} {cls : BitVec 4} {w : BitVec 2} {off : BitVec 7} (stores : a.stores = true) (tags : a.tags = true)
    (place : ∀ x, s.storePlace (.ste g cl r y cls w off) x → a.place x) (ran : execSte g cl r y cls w off s = .next t) : s.Within a t := by
  refine runSlot_within ?_ ran goes
  rw [withinAt_guard (guards_tagAddr _ _ _)]
  intro addr ha
  cases tagAddr_value ha
  refine withinAt_bind_at (within_tagDatum _ _ s) fun v u read => ?_
  have before := within_tagDatum (a := a) _ _ s v u read
  rw [withinAt_guard (guards_tagLock _ _ _)]
  intro _ _
  rw [withinAt_guard guards_get]
  intro z hz
  cases hz
  rw [withinAt_guard (guards_stopIf _ _)]
  intro _ _
  rw [withinAt_guard (guards_classWait _)]
  intro _ _
  rw [withinAt_modify]
  refine State.Within.trans (within_perform stores _ fun x lo hi => place x ?_) (within_setTags tags _ _ _ _)
  rw [length_leBytes] at hi
  exact before.spadPlace ⟨lo, hi⟩

theorem tset_within {cl : Cl} {r y : BitVec 5} {cls : BitVec 4} {w : BitVec 2} {off : BitVec 7} (tags : a.tags = true)
    (ran : execTset g cl r y cls w off s = .next t) : s.Within a t := by
  refine runSlot_within ?_ ran goes
  rw [withinAt_guard (guards_tagAddr _ _ _)]
  refine fun addr _ => withinAt_bind_at (within_tagDatum _ _ s) fun v u _ => ?_
  rw [withinAt_guard (guards_tagLock _ _ _)]
  intro _ _
  rw [withinAt_guard (guards_classWait _)]
  intro _ _
  rw [withinAt_modify]
  exact within_setTags tags u _ _ _

/-! ### Stores through a handle -/

theorem sth_within {cl : Cl} {r o : BitVec 5} {hn cls : BitVec 4} {w : BitVec 2} {disp : BitVec 3} (stores : a.stores = true)
    (place : ∀ x, s.storePlace (.sth g cl r hn o cls w disp) x → a.place x) (ran : execSth g cl r hn o cls w disp s = .next t) : s.Within a t := by
  refine runSlot_within ?_ ran goes
  rw [withinAt_guard (guards_readY _)]
  intro v hv
  cases hv
  rw [withinAt_guard (guards_needReg _ _ _ _)]
  intro _ _
  rw [withinAt_guard (guards_readH _)]
  intro h hh
  cases hh
  dsimp only
  rw [withinAt_guard (guards_raiseSome _ _)]
  intro _ _
  rw [withinAt_guard (guards_checkLoft _ _ _ _ _)]
  refine fun _ _ => withinAt_datum fun v u hu => ?_
  rw [withinAt_guard (guards_needReg _ _ _ _)]
  refine fun _ _ => withinAt_storeHandle stores _ _ _ _ fun x hx => place x ?_
  have inside := hu.pagePlace hx
  rwa [length_leBytes, lhOffset_eq] at inside

theorem stvh_within {v o : BitVec 5} {hn cls : BitVec 4} {ew : BitVec 2} (stores : a.stores = true)
    (place : ∀ x, s.storePlace (.stvh g v hn o cls ew) x → a.place x) (ran : execStvh g v hn o cls ew s = .next t) : s.Within a t := by
  refine runSlot_within ?_ ran goes
  rw [withinAt_guard (guards_readYV _ _)]
  intro b hb
  cases readYV_value hb
  dsimp only
  rw [withinAt_guard (guards_readH _)]
  intro h hh
  cases hh
  rw [withinAt_guard (guards_raiseSome _ _)]
  intro _ _
  rw [withinAt_guard (guards_checkLoft _ _ _ _ _)]
  intro _ _
  rw [withinAt_guard (guards_readV _)]
  refine fun l _ => withinAt_storeHandle stores _ _ _ _ fun x hx => place x ?_
  rwa [length_bytesOf] at hx

theorem stlink_within {r o : BitVec 5} {hn cls : BitVec 4} (stores : a.stores = true)
    (place : ∀ x, s.storePlace (.stlink g r hn o cls) x → a.place x) (ran : execStlink g r hn o cls s = .next t) : s.Within a t := by
  refine runSlot_within ?_ ran goes
  rw [withinAt_guard (guards_readY _)]
  intro v hv
  cases hv
  rw [withinAt_guard (guards_needReg _ _ _ _)]
  intro _ _
  rw [withinAt_guard (guards_readH _)]
  intro h hh
  cases hh
  dsimp only
  rw [withinAt_guard (guards_raiseSome _ _)]
  intro _ _
  rw [withinAt_guard (guards_raiseIf _ _ _ _)]
  intro _ _
  rw [withinAt_guard (guards_checkLoft _ _ _ _ _)]
  intro _ _
  rw [withinAt_guard (guards_readY _)]
  intro _ _
  rw [withinAt_guard (guards_readY _)]
  intro _ _
  rw [withinAt_guard (guards_needReg _ _ _ _)]
  intro _ _
  rw [withinAt_guard (guards_needReg _ _ _ _)]
  refine fun _ _ => withinAt_storeHandle stores _ _ _ _ fun x hx => place x ?_
  rwa [List.length_append, length_leBytes, length_leBytes] at hx

end Forms

end Sys2Proof.Machine
end

section
/-!
What the other slots may change whose bodies change the device in more than one step: branches, context control, tokens, semaphores, walks,
the loft and the matrix commands.
-/

namespace Sys2Proof.Machine

section Parts

variable {a : Touch} {s t : State}

/-- Either of two parts that change nothing, with the same after them. -/
theorem withinAt_either {α β : Type} {p : Prop} [Decidable p] {x y : Exec α} {f : α → Exec β} (hx : x.Guards) (hy : y.Guards)
    (h : ∀ r, (f r).WithinAt a s) : (if p then x >>= f else y >>= f).WithinAt a s :=
  (withinAt_ite _ _ _).2 ⟨fun _ => (withinAt_guard hx).2 fun r _ => h r, fun _ => (withinAt_guard hy).2 fun r _ => h r⟩

theorem within_markHere {f : Ctx → Ctx} (same : ∀ k, (f k).regs = k.regs ∧ (f k).sr = k.sr ∧ (f k).pc = k.pc ∧ (f k).branch = k.branch) :
    Exec.Within a (getHere >>= fun k => setHere (f k)) :=
  within_modifyHere fun k => .of_same (same k).1 (same k).2.1 (same k).2.2.1 (same k).2.2.2

@[simp] theorem within_retireWith (ks : List (Option Nat)) : (retireWith ks).Within a :=
  within_markHere (f := fun k => { k with run := .halted, retiring := some ks }) fun _ => ⟨rfl, rfl, rfl, rfl⟩

/-- Both answers of an elastic command of the E slot go in flight. -/
theorem Ctx.within_addAnswer (k : Ctx) (d : BitVec 5) (pd : BitVec 4) (n : Nat) (el : Bool) (rd : Redo) : k.Within a (addAnswer k d pd n el rd) :=
  (Ctx.within_addFlight k _ _ _ _ _ _ _).trans (Ctx.within_addFlight _ _ _ _ _ _ _ _)

theorem within_wnextEnd (regs : a.regs = true) (r : EYF) (w : Nat) (c : Cursor) : (wnextEnd r w c).Within a :=
  within_bind (within_setCursor regs _ _) fun _ => within_putEY _ _ _

/-- A return is no end of a slot that goes on. -/
theorem returnWith_redirected {leave : Ctx → Ctx} {r : Unit} (ran : returnWith leave s = .ok (r, t)) : t.status = .redirected := by
  obtain ⟨_, -, ran⟩ := guard_ok guards_get ran
  obtain ⟨_, -, ran⟩ := guard_ok (guards_stopIf _ _) ran
  cases ran
  rfl

/-- A new token is the running context's own. -/
theorem newToken_own {kd : BitVec 4} {n : Nat} (ran : newToken kd s = .ok (n, t)) : ∃ c, alGet t.toks n = some ⟨t.cur, c⟩ := by
  obtain ⟨u, hu, ran⟩ := guard_ok guards_get ran
  cases hu
  obtain ⟨_, -, ran⟩ := guard_ok (guards_stopIf _ _) ran
  cases ran
  exact ⟨none, alGet_alSet _ _ _⟩

/-- A token that is complete at once. -/
theorem within_finished (kd : BitVec 4) (code : Nat) : Exec.Within a (newToken kd >>= fun n => finishNow n code) := fun s =>
  withinAt_bind_at (within_newToken kd s) fun _ _ ran => (withinAt_modify _).2 (State.within_finishTok (newToken_own ran) code)

end Parts

section Forms

variable {a : Touch} {s t : State} {g : Guard} (goes : s.Goes t)
include goes

/-! ### Vector slots -/

theorem runV_within {body : W64 → Exec Unit} (h : ∀ m, (body m).WithinAt a s) (ran : runV g body s = .next t) : s.Within a t := by
  by_cases none : s.here.laneMask g = 0
  · rw [runV, if_pos none] at ran
    cases ran
    exact .refl s
  · rw [runV, if_neg none] at ran
    rcases runBody_outcome ran with ⟨r, hb⟩ | ⟨e, he⟩
    · exact h _ r t hb
    · exact absurd he (goes e)

/-! ### Branches -/

theorem br_within {off : BitVec 24} (branch : a.branch = true) (ran : execBr g off s = .next t) : s.Within a t :=
  runSlot_within (within_takeBranch branch _ s) ran goes

theorem call_within {off : BitVec 24} (branch : a.branch = true) (ran : execCall g off s = .next t) : s.Within a t :=
  runSlot_within (within_bind within_retAddr (fun _ => within_bind (within_exact _ _) fun _ => within_takeBranch branch _) s) ran goes

theorem jr_within {d x : BitVec 5} (branch : a.branch = true) (ran : execJr g d x s = .next t) : s.Within a t := by
  refine runSlot_within ?_ ran goes
  rw [withinAt_guard (guards_registerTarget _)]
  intro target _
  rw [withinAt_ite]
  exact ⟨fun _ => within_bind within_retAddr (fun _ => within_bind (within_exact _ _) fun _ => within_takeBranch branch _) s,
    fun _ => within_takeBranch branch _ s⟩

theorem ret_within (branch : a.branch = true) (ran : execRet g s = .next t) : s.Within a t := by
  refine runSlot_within ?_ ran goes
  rw [withinAt_guard (guards_registerTarget _)]
  exact fun _ _ => within_takeBranch branch _ s

theorem chk_within {x : BitVec 5} {off : BitVec 19} (branch : a.branch = true) (ran : execChk g x off s = .next t) : s.Within a t := by
  refine runSlot_within ?_ ran goes
  rw [withinAt_guard (guards_readX _)]
  intro r _
  rw [withinAt_ite]
  exact ⟨fun _ => within_takeBranch branch _ s, fun _ => withinAt_of_guards (guards_pure ())⟩

/-! ### Control of the context -/

theorem clrfel_within (ran : execClrfel g s = .next t) : s.Within a t := by
  refine runSlot_within ?_ ran goes
  rw [withinAt_guard guards_getHere]
  intro k hk
  cases hk
  exact withinAt_bind_at (withinAt_setHere ⟨fun _ => rfl, rfl, rfl, fun _ => rfl⟩) fun _ u _ => within_exact _ _ u

theorem yield_within (ran : execYield g s = .next t) : s.Within a t :=
  runSlot_within (within_markHere (f := fun k => { k with yielded := true }) (fun _ => ⟨rfl, rfl, rfl, rfl⟩) s) ran goes

theorem halt_within (ran : execHalt g s = .next t) : s.Within a t := runSlot_within (within_retireWith _ s) ran goes

theorem retire_within {ka kb kc : BitVec 4} (ran : execRetire g ka kb kc s = .next t) : s.Within a t := by
  refine runSlot_within ?_ ran goes
  rw [withinAt_guard (guards_consumed _)]
  exact fun _ _ => within_retireWith _ s

/-! ### Tokens, bins and interrupts -/

theorem kpoll_within {d : BitVec 5} {pd ka : BitVec 4} (ran : execKpoll g d pd ka s = .next t) : s.Within a t := by
  refine runSlot_within ?_ ran goes
  rw [withinAt_guard (guards_readK _)]
  exact fun _ _ => within_bind (within_exactExt _ _) (fun _ => within_putHit _ _ _) s

theorem uiarm_within {ka : BitVec 4} (ran : execUiarm g ka s = .next t) : s.Within a t := by
  refine runSlot_within ?_ ran goes
  rw [withinAt_guard (guards_readK _)]
  intro tok _
  rw [withinAt_guard guards_getHere]
  intro k hk
  cases hk
  split
  · exact withinAt_setHere (.of_same rfl rfl rfl rfl)
  · exact withinAt_setHere (.of_same rfl rfl rfl rfl)

theorem uidis_within {ka : BitVec 4} (ran : execUidis g ka s = .next t) : s.Within a t :=
  runSlot_within (within_markHere (f := fun k => { k with arm := if ka = 0 then Vector.replicate 16 none else vset k.arm ka.toNat none })
    (fun _ => ⟨rfl, rfl, rfl, rfl⟩) s) ran goes

theorem binacq_within {r : EYF} {q : BitVec 3} (ran : execBinacq g r q s = .next t) : s.Within a t := by
  refine runSlot_within ?_ ran goes
  rw [withinAt_guard (guards_awaitTokens _)]
  intro _ _
  rw [withinAt_guard (guards_needQuad _ _)]
  intro ref _
  dsimp only
  rw [withinAt_guard (guards_raiseIf _ _ _ _)]
  intro _ _
  rw [withinAt_guard (guards_raiseIf _ _ _ _)]
  intro _ _
  rw [withinAt_guard (guards_stopIf _ _)]
  exact fun _ _ => within_bind (within_takeBin _) (fun _ => within_putEY _ _ _) s

theorem waitany_within {r : EYF} {q : BitVec 3} (ran : execWaitany g r q s = .next t) : s.Within a t := by
  refine runSlot_within ?_ ran goes
  rw [withinAt_guard (guards_awaitTokens _)]
  intro _ _
  rw [withinAt_guard (guards_needQuad _ _)]
  intro v _
  dsimp only
  rw [withinAt_guard (guards_raiseIf _ _ _ _)]
  intro _ _
  split
  · exact withinAt_of_guards (guards_stop _)
  · exact withinAt_of_guards (guards_raise _ _ _)
  · next i n _ =>
    exact within_bind (within_takeBin n) (fun b => within_bind
      (within_markHere (f := fun k => { k with rot := BitVec.ofNat 3 (i + 1) }) fun _ => ⟨rfl, rfl, rfl, rfl⟩) fun _ => within_putEY _ _ _) s

/-! ### Semaphores -/

theorem semadd_within {r : EYF} {cls : BitVec 4} {q : BitVec 3} (sems : a.sems = true) (ran : execSemadd g r cls q s = .next t) : s.Within a t := by
  refine runSlot_within ?_ ran goes
  rw [withinAt_guard (guards_semOperand _ _ _ _)]
  intro p _
  refine withinAt_bind_at ((withinAt_modify _).2 (within_setSem sems s _ _)) fun _ u _ => within_putEY _ _ _ u

theorem semcas_within {r : EYF} {cls : BitVec 4} {q : BitVec 3} (sems : a.sems = true) (ran : execSemcas g r cls q s = .next t) : s.Within a t := by
  refine runSlot_within ?_ ran goes
  rw [withinAt_guard (guards_semOperand _ _ _ _)]
  intro p _
  dsimp only
  rw [withinAt_ite]
  exact ⟨fun _ => withinAt_bind_at ((withinAt_modify _).2 (within_setSem sems s _ _)) fun _ u _ => within_putEY _ _ _ u, fun _ => within_putEY _ _ _ s⟩

/-! ### FIFOs, barriers and the loft -/

theorem fbind_within {kd n : BitVec 4} {snd : Bool} {q : BitVec 3} (ran : execFbind g kd snd n q s = .next t) : s.Within a t := by
  refine runSlot_within ?_ ran goes
  rw [withinAt_guard (guards_needQuad _ _)]
  intro ad _
  rw [withinAt_guard guards_get]
  intro u hu
  cases hu
  dsimp only
  rw [withinAt_guard (guards_raiseIf _ _ _ _)]
  intro _ _
  have bound {k : Ctx} {u : State} (g : (s.setHere k).Within a u) (h : s.here.Within a k) :
      Exec.WithinAt a ((set u : Exec PUnit) >>= fun _ => newToken kd >>= fun n => finishNow n 0) s :=
    withinAt_set_bind ((within_setHere h).trans g) (within_finished kd 0 u)
  split
  · rw [withinAt_guard (guards_raiseIf _ _ _ _)]
    exact fun _ _ => bound (State.within_of_same rfl rfl rfl rfl rfl rfl rfl rfl rfl) (.of_same rfl rfl rfl rfl)
  · rw [withinAt_guard (guards_raiseIf _ _ _ _)]
    exact fun _ _ => bound (State.within_of_same rfl rfl rfl rfl rfl rfl rfl rfl rfl) (.of_same rfl rfl rfl rfl)

theorem funbind_within {kd n : BitVec 4} (ran : execFunbind g kd n s = .next t) : s.Within a t := by
  refine runSlot_within ?_ ran goes
  rw [withinAt_guard guards_getHere]
  intro k hk
  cases hk
  split
  · exact withinAt_of_guards (guards_raise _ _ _)
  · exact withinAt_bind_at (withinAt_setHere (.of_same rfl rfl rfl rfl)) fun _ u _ =>
      within_bind (within_issueE _ _ _ _ _) (fun _ => (fun _ => withinAt_of_guards (guards_pure ()))) u
  · exact withinAt_bind_at (withinAt_setHere (.of_same rfl rfl rfl rfl)) fun _ u _ =>
      within_bind (within_issueE _ _ _ _ _) (fun _ => (fun _ => withinAt_of_guards (guards_pure ()))) u

theorem barw_within {k : KE} {q : BitVec 3} (ran : execBarw g k q s = .next t) : s.Within a t := by
  refine runSlot_within ?_ ran goes
  rw [withinAt_guard guards_get]
  intro u hu
  cases hu
  dsimp only
  split
  · rw [withinAt_guard (guards_stopIf _ _)]
    exact fun _ _ => withinAt_bind_at (withinAt_setHere (.of_same rfl rfl rfl rfl)) fun _ u _ => within_exact _ _ u
  · refine withinAt_of_guards fun s => ?_
    simp

theorem alloc_within {mirrored : Bool} {r : EYF} {q : BitVec 3} (ran : runSlot g (issueAlloc mirrored r q) s = .next t) : s.Within a t := by
  refine runSlot_within ?_ ran goes
  simp only [issueAlloc, withinAt_guard (guards_awaitTokens _), withinAt_guard (guards_needQuad _ _), withinAt_guard (guards_raiseIf _ _ _ _),
    withinAt_guard guards_get]
  intro _ _ size _ w _ _ _ _ _ u hu
  cases hu
  cases (allocPlanes mirrored w).find? s.lost.contains with
  | some p => exact withinAt_of_guards (guards_raise _ _ _)
  | none => exact withinAt_setHere (Ctx.within_addAnswer _ _ _ _ _ _)

theorem latom_within {r : EYF} {wide : Bool} {op : LatomOp} {q : BitVec 3} (stores : a.stores = true)
    (place : ∀ x, s.storePlace (.latom g r wide op q) x → a.place x) (ran : execLatom g r wide op q s = .next t) : s.Within a t := by
  refine runSlot_within ?_ ran goes
  rw [withinAt_guard (guards_awaitTokens _)]
  intro _ _
  rw [withinAt_guard (guards_needQuad _ _)]
  intro o ho
  cases needQuad_value ho
  dsimp only
  rw [withinAt_guard (guards_needQuad _ _)]
  intro v _
  refine withinAt_either (guards_needQuad _ _) (guards_pure _) fun e => ?_
  rw [withinAt_guard (guards_needQuad _ _)]
  intro ctl hc
  cases needQuad_value hc
  rw [withinAt_guard (guards_readH _)]
  intro h hh
  cases hh
  rw [withinAt_guard (guards_raiseSome _ _)]
  intro _ _
  rw [withinAt_guard (guards_raiseSome _ _)]
  intro _ _
  rw [withinAt_guard (guards_raiseIf _ _ _ _)]
  intro _ _
  rw [withinAt_guard (guards_checkLoft _ _ _ _ _)]
  intro _ _
  rw [withinAt_guard guards_get]
  intro u hu
  cases hu
  rw [withinAt_guard (guards_classWait _)]
  intro _ _
  rw [withinAt_guard (guards_stopIf _ _)]
  intro _ _
  rw [withinAt_guard (guards_stopIf _ _)]
  intro _ _
  rw [withinAt_ite]
  refine ⟨fun _ => withinAt_setHere (Ctx.within_addAnswer _ _ _ _ _ _), fun _ => ?_⟩
  refine withinAt_set_bind (State.within_latomDo stores _ _ _ _ _ _ fun x hx => place x ?_)
    (within_bind (within_elasticRes _ _) (fun _ => within_elasticRes _ _) _)
  have same (n : Nat) : BitVec.ofNat 4 (bits n 8 4) = BitVec.ofNat 4 (n / 2 ^ 8) := BitVec.eq_of_toNat_eq (Nat.mod_mod _ _)
  rw [same] at hx
  exact hx

/-! ### Walks -/

theorem wnext_within {r : EYF} {wc q : BitVec 3} (regs : a.regs = true) (ran : execWnext g r wc q s = .next t) : s.Within a t := by
  refine runSlot_within ?_ ran goes
  rw [withinAt_guard (guards_awaitTokens _)]
  intro _ _
  dsimp only
  rw [withinAt_guard (guards_raiseIf _ _ _ _)]
  intro _ _
  rw [withinAt_guard (guards_stopIf _ _)]
  intro _ _
  simp only [withinAt_ite]
  refine ⟨fun _ => within_putEY _ _ _ s, fun _ => ⟨fun _ => within_wnextEnd regs _ _ _ s, fun _ =>
    ⟨fun _ => withinAt_of_guards (guards_raiseReason _ _ _), fun _ => ?_⟩⟩⟩
  cases s.walkOf s.cur wc.toNat with
  | none => exact withinAt_of_guards (guards_stop _)
  | some x =>
    dsimp only
    rw [withinAt_ite]
    refine ⟨fun _ => withinAt_bind_at ((withinAt_modify _).2 (State.within_of_same rfl rfl rfl rfl rfl rfl rfl rfl rfl)) fun _ u _ =>
      within_wnextEnd regs _ _ _ u, fun _ => ?_⟩
    split
    · rw [withinAt_ite]
      exact ⟨fun _ => withinAt_of_guards (guards_stop _), fun _ => withinAt_of_guards (guards_raiseReason _ _ _)⟩
    · rw [withinAt_guard (guards_raiseIf _ _ _ _)]
      intro _ _
      rw [withinAt_guard (guards_raiseIf _ _ _ _)]
      intro _ _
      cases x.landed with
      | nil => exact withinAt_of_guards (guards_stop _)
      | cons l ls =>
        dsimp only
        rw [withinAt_guard (guards_stopIf _ _)]
        refine fun _ _ => within_bind (within_takeBin _) (fun _ => within_bind (fun u => ?_) fun _ => within_bind (within_setCursor regs _ _) fun _ =>
          within_putEY _ _ _) s
        exact (withinAt_modify _).2 (State.within_of_same rfl rfl rfl rfl rfl rfl rfl rfl rfl)

theorem wrest_within {k : KE} {wc q : BitVec 3} (ran : execWrest g k wc q s = .next t) : s.Within a t := by
  refine runSlot_within ?_ ran goes
  rw [withinAt_guard (guards_imageAddr _)]
  intro x _
  dsimp only
  rw [withinAt_guard (guards_checkPriv _ _)]
  intro _ _
  rw [withinAt_guard (guards_accessBefore _)]
  refine fun before _ => within_bind (within_exact _ _) (fun _ u => ?_) s
  rw [withinAt_guard (guards_consumed _)]
  exact fun _ _ => within_bind (within_issueE _ _ _ _ _) (fun _ => (fun _ => withinAt_of_guards (guards_pure ()))) u

end Forms

/-! ### Slots that leave their bundle -/

section Leaving

variable {a : Touch} {s t : State} {g : Guard} (ok : t.status = .ok)
include ok

/-- SOFTWARE raised by an enabled trap is no end of a slot that goes on. -/
theorem trap_within {n : BitVec 14} (ran : execTrap g n s = .next t) : s.Within a t := by
  unfold execTrap at ran
  split at ran
  · cases ran
    cases ok
  · cases ran
    exact .refl s

theorem return_within {b : Bool} {n : Nat} {leave : Ctx → Ctx} (ran : runSlot g (raiseIf b n .X 0 >>= fun _ => returnWith leave) s = .next t) : s.Within a t := by
  rcases runSlot_outcome ran with rfl | ⟨r, hb⟩ | ⟨e, he⟩
  · exact .refl _
  · obtain ⟨_, -, left⟩ := guard_ok (guards_raiseIf _ _ _ _) hb
    cases ok.symm.trans (returnWith_redirected left)
  · exact absurd he (State.goes_of_ok ok e)

end Leaving

end Sys2Proof.Machine
end

section
/-!
What each slot instruction may change at its issue, kind by kind.
-/

namespace Sys2Proof.Machine

/-- The slots that issue a matrix command. -/
def commandsMatrix : Instr → Bool
  | .mma _ _ _ _ _ _ _ _ | .mmaz _ _ _ _ _ _ _ _ | .mcon _ _ _ _ _ _ | .mrot _ _ _ | .mdrain _ _ _ _ _ _ _ | .mzero _ _ | .mldac _ _ _
  | .mstac _ _ _ | .mhld _ _ _ | .mdmap _ _ _ | .mdclr _ | .mord _ _ _ _ | .mvac _ _ _ _ _ | .mcopy _ _ _ _ => true
  | _ => false

/-- What a slot instruction may change at its issue. -/
def State.touchOf (s : State) (i : Instr) : Touch :=
  ⟨isWnext i, isBranch i, storesBytes i, changesTags i, changesSems i, commandsMatrix i, s.storePlace i⟩

/-- The slots that choose what their context runs next. -/
def leavesBundle : Instr → Bool
  | .trap _ _ | .eret _ | .uret _ => true
  | _ => false

/-- A slot that goes on changes nothing else. -/
def Keeps (i : Instr) : Prop :=
  ∀ s t : State, exec i s = .next t → s.Goes t → (leavesBundle i = true → t.status = .ok) → s.Within (s.touchOf i) t

variable {i : Instr} {w l : Nat}

/-! ### The V slot -/

/-- A V slot acts lane by lane, and its body is within everything. -/
theorem exec_vector (slot : slotWord i = some (.V, w, l)) :
    ∃ (g : Guard) (body : W64 → Exec Unit), guardOf i = some g ∧ (∀ s, exec i s = runV g body s) ∧ ∀ a m, (body m).Within a := by
  cases i
  any_goals (rename Cl => c; cases c)
  all_goals cases slot
  all_goals
    refine ⟨_, ?_, rfl, fun s => ?_, fun a m s => ?_⟩
    rotate_left
    · simp only [exec, execVadd, execVsub, execVmul, execVfma, execVfms, execVmin, execVmax, execVabs, execVneg, execVand, execVor, execVxor, execVandn,
        execVshl, execVshr, execVsra, execVcmp, execVsel, execVdiv, execVsqrt, execVrsqrt, execVexp2, execVcvt, execVpack, execVunpk, execVredadd,
        execVredmax, execVredmin, execVperm, execVbcast, execVmerge, execVscan, execAgen, execVext, execVins, execViota, execVmov, execVclz, execVpopc,
        vbin, vfused, vminmax, signOp, vroot, vlogic, vshift, vredminmax]
      rfl
    · simp

end Sys2Proof.Machine
end

section
/-!
What the slots of the other kinds may change at their issue.
-/

namespace Sys2Proof.Machine

/-! ### Bodies of two steps -/

section Parts

variable {a : Touch}

@[simp] theorem within_binop (c : Cl) (d x y : BitVec 5) (n : Nat) (f : Reg → Reg → Reg) :
    Exec.Within a (readR c x >>= fun p => readR c y >>= fun q => writeR c d (f p q) n) :=
  within_bind (within_readR _ _) fun _ => within_bind (within_readR _ _) fun _ => within_writeR _ _ _ _

@[simp] theorem within_unop (c : Cl) (d x : BitVec 5) (n : Nat) (f : Reg → Reg) : Exec.Within a (readR c x >>= fun p => writeR c d (f p) n) :=
  within_bind (within_readR _ _) fun _ => within_writeR _ _ _ _

@[simp] theorem within_move (k : SlotKind) (y : BitVec 5) (n : Nat) (f : Reg → Result) : Exec.Within a (readYf k y >>= fun p => exact (f p) n) :=
  within_bind (within_readYf _ _) fun _ => within_exact _ _

@[simp] theorem within_fromY (y : BitVec 5) (n : Nat) (f : W64 → Result) : Exec.Within a (needY y >>= fun v => exact (f v) n) :=
  within_bind (within_needY _) fun _ => within_exact _ _

@[simp] theorem within_partFromY (y : BitVec 5) (n : Nat) (f : W64 → Ctx → Result) :
    Exec.Within a (needY y >>= fun v => getHere >>= fun k => exact (f v k) n) :=
  within_bind (within_needY _) fun _ _ => (withinAt_guard guards_getHere).2 fun _ _ => within_exact _ _ _

@[simp] theorem within_translate (y : BitVec 5) (r : Result) (n : Nat) (f : W64 → Redo) :
    Exec.Within a (needY y >>= fun v => getHere >>= fun k => setHere (k.addLate r n false (f v))) :=
  within_bind (within_needY _) fun v => within_modifyHere (f := fun k => k.addLate r n false (f v)) fun k => Ctx.within_addLate k _ _ _ _

/-- A cursor is written and its command enters the engine. -/
theorem within_cursorIssue (r : Result) (l : List (BitVec 4)) (kd : BitVec 4) (eng : Engine) (op : EOp) (extra : List Nat) :
    Exec.Within a (exact r 1 >>= fun _ => consumed l >>= fun ks => (fun _ => ()) <$> issueE kd ks eng op extra) :=
  within_bind (within_exact _ _) fun _ _ => (withinAt_guard (guards_consumed _)).2 fun _ _ => (withinAt_map _).2 (within_issueE _ _ _ _ _ _)

theorem within_issueWalk (core : Bool) (k : KE) (f : BitVec 2) (wc q : BitVec 3) : (issueWalk core k f wc q).Within a :=
  fun _ => by simp [issueWalk, within_cursorIssue]

end Parts

variable {i : Instr} {w l : Nat}

/-! ### Kind by kind -/

theorem keeps_X (slot : slotWord i = some (.X, w, l)) : Keeps i := by
  intro s t ran goes stays
  cases i
  any_goals (rename Cl => c; cases c)
  all_goals cases slot
  case cmpX => exact comparison_within goes (within_cmpReg _ _) ran
  case cmpiX => exact comparison_within goes (fun _ => withinAt_of_guards (guards_pure _)) ran
  case selX => exact select_within goes ran
  case br => exact br_within goes rfl ran
  case call => exact call_within goes rfl ran
  case jr => exact jr_within goes rfl ran
  case ret => exact ret_within goes rfl ran
  case chk => exact chk_within goes rfl ran
  case clrfel => exact clrfel_within goes ran
  case yield => exact yield_within goes ran
  case trap => exact trap_within (stays rfl) ran
  case eret => exact return_within (stays rfl) ran
  case uret => exact return_within (stays rfl) ran
  all_goals
    refine runSlot_within ?_ ran goes
    simp

theorem keeps_Y (slot : slotWord i = some (.Y, w, l)) : Keeps i := by
  intro s t ran goes stays
  cases i
  any_goals (rename Cl => c; cases c)
  all_goals cases slot
  case cmpY => exact comparison_within goes (within_cmpReg _ _) ran
  case cmpiY => exact comparison_within goes (fun _ => withinAt_of_guards (guards_pure _)) ran
  case selY => exact select_within goes ran
  all_goals
    refine runSlot_within ?_ ran goes
    simp

theorem keeps_L (slot : slotWord i = some (.L, w, l)) : Keeps i := by
  intro s t ran goes stays
  cases i <;> first | cases slot | (cases ‹Cl› <;> cases slot)
  case st => exact st_within goes rfl (fun _ h => h) ran
  case ldf => exact loadFull_within goes Bool.noConfusion ran
  case ldfe => exact loadFull_within goes (fun _ => rfl) ran
  case ste => exact ste_within goes rfl rfl (fun _ h => h) ran
  case tset => exact tset_within goes rfl ran
  case ldh => exact handleLoad_within goes ran
  case ldhz => exact handleLoad_within goes ran
  case ldhS => exact ldhS_within goes ran
  case sth => exact sth_within goes rfl (fun _ h => h) ran
  case ldq => exact ldq_within goes ran
  case qpop => exact qpop_within goes ran
  case stv => exact stv_within goes rfl (fun _ h => h) ran
  case stvh => exact stvh_within goes rfl (fun _ h => h) ran
  case stvs => exact stvs_within goes rfl (fun _ h => h) ran
  case fenceC => exact fence_within goes ran
  case fenceBank => exact fence_within goes ran
  case stlink => exact stlink_within goes rfl (fun _ h => h) ran
  case ldlink => exact ldlink_within goes ran
  all_goals
    refine runSlot_within ?_ ran goes
    simp

theorem keeps_S (slot : slotWord i = some (.S, w, l)) : Keeps i := by
  intro s t ran goes stays
  cases i
  any_goals (rename Cl => c; cases c)
  all_goals cases slot
  case sst => exact sst_within goes rfl (fun _ h => h) ran
  all_goals
    refine runSlot_within ?_ ran goes
    simp

theorem keeps_E (slot : slotWord i = some (.E, w, l)) : Keeps i := by
  intro s t ran goes stays
  cases i
  any_goals (rename Cl => c; cases c)
  all_goals cases slot
  case binacq => exact binacq_within goes ran
  case waitany => exact waitany_within goes ran
  case kpoll => exact kpoll_within goes ran
  case uiarm => exact uiarm_within goes ran
  case uidis => exact uidis_within goes ran
  case walk => exact runSlot_within (within_issueWalk _ _ _ _ _ s) ran goes
  case chain => exact runSlot_within (within_issueWalk _ _ _ _ _ s) ran goes
  case wnext => exact wnext_within (q := 0) goes rfl ran
  case wrest => exact wrest_within goes ran
  case fbind => exact fbind_within goes ran
  case funbind => exact funbind_within goes ran
  case lalloc => exact alloc_within goes ran
  case lallocM => exact alloc_within goes ran
  case latom => exact latom_within goes rfl (fun _ h => h) ran
  case barw => exact barw_within goes ran
  case semadd => exact semadd_within goes rfl ran
  case semcas => exact semcas_within goes rfl ran
  all_goals
    refine runSlot_within ?_ ran goes
    simp

theorem keeps_V (slot : slotWord i = some (.V, w, l)) : Keeps i := by
  obtain ⟨g, body, -, form, keeps⟩ := exec_vector slot
  exact fun s t ran goes _ => runV_within goes (fun m => keeps _ m s) ((form s).symm.trans ran)

end Sys2Proof.Machine
end

section
/-!
The M slot, which issues one matrix command at most, and what every slot leaves alone at its issue.
-/

namespace Sys2Proof.Machine

/-! ### One matrix command at most -/

/-- A part of a body issues one matrix command at most. -/
def Exec.OneCommandAt {α : Type} (x : Exec α) (s : State) : Prop := ∀ r t, x s = .ok (r, t) → t.mcmds.length ≤ s.mcmds.length + 1

section Commands

variable {α β : Type} {a : Touch} {s t : State} {x : Exec α} {f : α → Exec β}

theorem State.Within.mcmds_length (h : s.Within a t) (none : a.mcmds = false) : t.mcmds.length ≤ s.mcmds.length + 1 := by
  rw [h.mcmds none]
  exact Nat.le_succ _

@[simp] theorem oneCommandAt_guard (hx : x.Guards) : (x >>= f).OneCommandAt s ↔ ∀ r, x s = .ok (r, s) → (f r).OneCommandAt s := by
  constructor
  · intro h r hr q t ht
    exact h q t (by rw [exec_bind, hr]; exact ht)
  · intro h r t ht
    obtain ⟨q, hq, ht⟩ := guard_ok hx ht
    exact h q hq r t ht

@[simp] theorem oneCommandAt_ite (p : Prop) [Decidable p] (x y : Exec α) :
    (if p then x else y).OneCommandAt s ↔ (p → x.OneCommandAt s) ∧ (¬ p → y.OneCommandAt s) := by
  split <;> rename_i h <;> simp [h]

@[simp] theorem oneCommandAt_issueM (op : MOp) : (issueM op).OneCommandAt s := by
  intro r t h
  obtain ⟨_, -, h⟩ := guard_ok guards_bufferWait h
  obtain ⟨_, hs, h⟩ := guard_ok guards_get h
  obtain ⟨_, -, h⟩ := guard_ok (guards_stopIf _ _) h
  cases hs
  cases h
  exact Nat.le_of_eq List.length_append

/-- What is in flight is no command. -/
@[simp] theorem oneCommandAt_exact (r : Result) (n : Nat) (f : Unit → Exec β) :
    (exact r n >>= f).OneCommandAt s ↔ (f ()).OneCommandAt (s.setHere (s.here.addFlight s.scripted r n false false none none)) := .rfl

theorem runSlot_oneCommand {g : Guard} {body : Exec Unit} (h : body.OneCommandAt s) (ran : runSlot g body s = .next t) (goes : s.Goes t) :
    t.mcmds.length ≤ s.mcmds.length + 1 := by
  rcases runSlot_outcome ran with rfl | ⟨r, hb⟩ | ⟨e, he⟩
  · exact Nat.le_succ _
  · exact h r t hb
  · exact absurd he (goes e)

end Commands

/-! ### The M slot -/

section Matrix

variable {i : Instr} {w l : Nat} {s : State}

theorem within_boundaryIssue {a : Touch} (touch : a.mcmds = true) (r : Result) (op : MOp) : Exec.Within a (exact r 1 >>= fun _ => issueM op) :=
  within_bind (within_exact _ _) fun _ => within_issueM touch op

/-- Products read their scales before they are issued. -/
theorem issueMma_within {a : Touch} (touch : a.mcmds = true) (z : Bool) (ac x y : BitVec 5) (fmt : Fmt) (ca dm : Bool) (sp : BitVec 3) :
    (issueMma z ac x y fmt ca dm sp).Within a := fun s => by
  simp [issueMma, within_issueM touch]

theorem keeps_M (slot : slotWord i = some (.M, w, l)) : Keeps i := by
  intro s t ran goes _
  have touch : commandsMatrix i = true → (s.touchOf i).mcmds = true := id
  generalize s.touchOf i = a at touch
  cases i
  any_goals (rename Cl => c; cases c)
  all_goals cases slot
  case mma => exact runSlot_within (issueMma_within (touch rfl) _ _ _ _ _ _ _ _ s) ran goes
  case mmaz => exact runSlot_within (issueMma_within (touch rfl) _ _ _ _ _ _ _ _ s) ran goes
  case macv => exact runSlot_within (by simp) ran goes
  all_goals
    have issue := within_issueM (touch rfl)
    have boundary := within_boundaryIssue (touch rfl)
    refine runSlot_within ?_ ran goes
    simp [issue, boundary]

theorem oneCommand_command (slot : slotWord i = some (.M, w, l)) (command : commandsMatrix i = true) {t : State} (ran : exec i s = .next t)
    (goes : s.Goes t) : t.mcmds.length ≤ s.mcmds.length + 1 := by
  cases i
  any_goals (rename Cl => c; cases c)
  all_goals cases slot
  case mma => exact runSlot_oneCommand (by simp [issueMma]) ran goes
  case mmaz => exact runSlot_oneCommand (by simp [issueMma]) ran goes
  case macv => cases command
  all_goals
    refine runSlot_oneCommand ?_ ran goes
    simp

end Matrix

/-! ### Every slot -/

section Slots

variable {i : Instr} {k : SlotKind} {w l : Nat} {s t : State}

theorem keeps_slot (slot : slotWord i = some (k, w, l)) : Keeps i := by
  cases k with
  | X => exact keeps_X slot
  | Y => exact keeps_Y slot
  | L => exact keeps_L slot
  | V => exact keeps_V slot
  | M => exact keeps_M slot
  | E => exact keeps_E slot
  | S => exact keeps_S slot

/-- Only the M slot issues a matrix command. -/
theorem oneCommand_slot (slot : slotWord i = some (k, w, l)) (ran : exec i s = .next t) (ok : t.status = .ok) :
    t.mcmds.length ≤ s.mcmds.length + 1 := by
  cases command : commandsMatrix i with
  | false => exact (keeps_slot slot s t ran (State.goes_of_ok ok) fun _ => ok).mcmds_length command
  | true =>
    have matrix : ∃ w l, slotWord i = some (.M, w, l) := by
      cases i <;> cases command <;> exact ⟨_, _, rfl⟩
    obtain ⟨_, _, slot⟩ := matrix
    exact oneCommand_command slot command ran (State.goes_of_ok ok)

/-- A disabled slot does nothing. -/
theorem exec_disabled {g : Guard} (guard : guardOf i = some g) (slot : slotWord i = some (k, w, l)) (scalar : k ≠ .V) (off : s.here.enabled g = false) :
    exec i s = .next s := by
  cases i <;> cases guard <;> cases slot
  any_goals exact (scalar rfl).elim
  case trap => exact if_neg (ne_true_of_eq_false off)
  all_goals exact runSlot_off off _

/-- A V slot whose predicate enables no lane does nothing. -/
theorem exec_noLanes {g : Guard} (guard : guardOf i = some g) (slot : slotWord i = some (.V, w, l)) (none : s.here.laneMask g = 0) :
    exec i s = .next s := by
  obtain ⟨h, body, named, form, -⟩ := exec_vector slot
  cases guard.symm.trans named
  exact (form s).trans (if_pos none)

end Slots

/-- Settles O55: each kind's slots keep within what their instruction may touch. -/
theorem issueLeavesTheRest : Obligations.IssueLeavesTheRest := by
  unfold Obligations.IssueLeavesTheRest
  refine ⟨fun s i g k w l guard slot off => ?_, fun s t i slot ran ok => ?_⟩
  · by_cases vector : k = .V
    · subst vector
      exact exec_noLanes guard slot ((if_pos rfl).mp off)
    · exact exec_disabled guard slot vector (by rwa [if_neg vector] at off)
  · obtain ⟨⟨k, w, l⟩, slot⟩ := Option.isSome_iff_exists.1 slot
    have kept := keeps_slot slot s t ran (State.goes_of_ok ok) fun _ => ok
    exact ⟨kept.here.regs, kept.here.sr, kept.here.pc, kept.cur, kept.here.branch, kept.others, kept.mem, kept.tags, kept.sems, kept.tiles, kept.host,
      oneCommand_slot slot ran ok, fun inv key changed => by_contra fun out => changed (kept.apart inv key out)⟩

end Sys2Proof.Machine
end

section
/-!
The canonical form of the memories: what the shared operations of the device keep.
-/

namespace Sys2Proof.Machine

variable {s t : State}

/-- Whatever leaves the four memories alone keeps their canonical form. -/
theorem State.Inv.same (h : s.Inv) (mem : t.mem = s.mem) (tags : t.tags = s.tags) (tiles : t.tiles = s.tiles) (sems : t.sems = s.sems) : t.Inv :=
  ⟨mem ▸ h.mem, tags ▸ h.tags, tiles ▸ h.tiles, sems ▸ h.sems⟩

theorem State.Inv.setCtx (h : s.Inv) (c : Nat) (k : Ctx) : (s.setCtx c k).Inv := h.same rfl rfl rfl rfl
theorem State.Inv.setHere (h : s.Inv) (k : Ctx) : (s.setHere k).Inv := h.same rfl rfl rfl rfl
theorem State.Inv.setBin (h : s.Inv) (key : Nat) (b : Bin) : (s.setBin key b).Inv := h.same rfl rfl rfl rfl
theorem State.Inv.putE (h : s.Inv) (c : ECmd) : (s.putE c).Inv := h.same rfl rfl rfl rfl
theorem State.Inv.putM (h : s.Inv) (c : MCmd) : (s.putM c).Inv := h.same rfl rfl rfl rfl
theorem State.Inv.putWalk (h : s.Inv) (w : Walk) : (s.putWalk w).Inv := h.same rfl rfl rfl rfl
theorem State.Inv.dropWalk (h : s.Inv) (w : Walk) : (s.dropWalk w).Inv := h.same rfl rfl rfl rfl
theorem State.Inv.setFlag (h : s.Inv) (n : Nat) : (s.setFlag n).Inv := h.same rfl rfl rfl rfl
theorem State.Inv.sent (h : s.Inv) (peer chan n : Nat) : (s.sent peer chan n).Inv := h.same rfl rfl rfl rfl
theorem State.Inv.acked (h : s.Inv) (peer chan : Nat) : (s.acked peer chan).Inv := h.same rfl rfl rfl rfl
theorem State.Inv.scrub (h : s.Inv) (keys : List Nat) : (s.scrub keys).Inv := h.same rfl rfl rfl rfl
theorem State.Inv.dropCore (h : s.Inv) (core : Nat) : (s.dropCore core).Inv := h.same rfl rfl rfl rfl

theorem State.Inv.perform (h : s.Inv) (core key : Nat) (bs : List Byte) : (s.perform core key bs).Inv := ⟨wf_writeCells h.mem _ _, h.tags, h.tiles, h.sems⟩

theorem State.Inv.finishTok (h : s.Inv) (tok code : Nat) : (s.finishTok tok code).Inv := (finishTok_sameTasks s tok code).data.inv h

theorem State.Inv.finishToks (h : s.Inv) (code : Nat) (ts : List Nat) : (finishToks s code ts).Inv := (finishToks_sameTasks code ts s).data.inv h

theorem State.Inv.freeUnread (h : s.Inv) (cl : Nat) (ls : List Landed) : (freeUnread s cl ls).Inv := (freeUnread_sameTasks cl ls s).data.inv h

theorem State.Inv.freeClaims (h : s.Inv) (cs : List Nat) : (s.freeClaims cs).Inv := h.same rfl rfl rfl rfl
theorem State.Inv.freeSlots (h : s.Inv) (i : Nat) : (s.freeSlots i).Inv := h.same rfl rfl rfl rfl

/-! ### Killing what a context or an instance has in progress -/

theorem State.Inv.killFill (h : s.Inv) (c : ECmd) : (s.killFill c).Inv := by
  unfold State.killFill
  split
  · exact h
  · dsimp only
    split
    · exact (h.setBin _ _).finishTok _ _
    · exact h.finishTok _ _

theorem State.Inv.killFills (cs : List ECmd) : ∀ {s : State}, s.Inv → (killFills s cs).Inv := by
  induction cs with
  | nil => exact id
  | cons c cs ih => exact fun h => ih (h.killFill c)

theorem State.Inv.killWalk (h : s.Inv) (w : Walk) : (s.killWalk w).Inv := by
  unfold State.killWalk
  dsimp only
  split
  · exact (h.freeUnread _ _).finishTok _ _
  · exact ((h.setBin _ _).freeUnread _ _).finishTok _ _

theorem State.Inv.killWalks (ws : List Walk) : ∀ {s : State}, s.Inv → (killWalks s ws).Inv := by
  induction ws with
  | nil => exact id
  | cons w ws ih => exact fun h => ih (h.killWalk w)

theorem State.Inv.dropWork (h : s.Inv) (cs : List Nat) : (s.dropWork cs).Inv :=
  (State.Inv.killWalks _ (State.Inv.killFills _ (h.finishToks _ _))).same rfl rfl rfl rfl

theorem State.Inv.freeCtxs (cs : List Nat) : ∀ {s : State}, s.Inv → (Machine.freeCtxs s cs).Inv := by
  induction cs with
  | nil => exact id
  | cons c cs ih => exact fun h => ih (h.same rfl rfl rfl rfl)

theorem State.Inv.killInst (h : s.Inv) (id : Nat) (r : FaultRec) : (s.killInst id r).Inv := by
  unfold State.killInst
  split
  · exact h
  · next i _ =>
    have freed := State.Inv.freeCtxs i.live (((h.dropWork (i.live ++ i.ended.map Prod.snd)).freeClaims i.live |>.freeSlots id).finishTok i.tok 20)
    exact freed.same rfl rfl rfl rfl

theorem State.Inv.stopStream (h : s.Inv) (c : Nat) (r : FaultRec) : (s.stopStream c r).Inv := (h.dropWork [c]).same rfl rfl rfl rfl

/-! ### Traps, blocks and freezes -/

theorem State.Inv.trapCtx (h : s.Inv) (c : Nat) (r : TrapRec) : (s.trapCtx c r).Inv := by
  unfold State.trapCtx
  dsimp only
  split
  · split
    · exact h.killInst _ _
    · exact h.stopStream _ _
  · exact h.setCtx _ _

theorem State.Inv.reported (h : s.Inv) (c w : Nat) : (s.reported c w).Inv := by
  unfold State.reported
  split
  · exact h
  · split
    · exact h
    · split
      · exact h.putWalk _
      · exact ((h.freeUnread _ _).dropWalk _).setCtx _ _

theorem State.Inv.takeTrap (h : s.Inv) (r : TrapRec) : (s.takeTrap r).Inv := by
  unfold State.takeTrap
  dsimp only
  split
  · exact (h.trapCtx _ _).same rfl rfl rfl rfl
  · exact ((h.setHere _).trapCtx _ _).same rfl rfl rfl rfl
  · exact ((h.reported _ _).trapCtx _ _).same rfl rfl rfl rfl

theorem State.Inv.rehop (h : s.Inv) (c w : Nat) : (s.rehop c w).Inv := by
  unfold State.rehop
  split
  · exact h
  · exact h.putWalk _

theorem State.Inv.block (h : s.Inv) (act : OnBlock) : (s.block act).Inv := by
  cases act with
  | rehop w => exact (h.rehop s.cur w).same rfl rfl rfl rfl
  | _ => exact h.same rfl rfl rfl rfl

theorem State.Inv.freeze (h : s.Inv) : s.freeze.Inv := h.same rfl rfl rfl rfl

theorem State.Inv.stoppedBy (h : s.Inv) (e : Stop) : (s.stoppedBy e).Inv := by
  cases e with
  | trap r => exact h.takeTrap r
  | blockWith act => exact h.block act
  | freeze => exact h.freeze
  | freezePast p => exact h.same rfl rfl rfl rfl

/-! ### Slots -/

theorem State.Inv.returned (h : s.Inv) {g : Guard} {b : Bool} {n : Nat} {leave : Ctx → Ctx}
    (ran : runSlot g (raiseIf b n .X 0 >>= fun _ => returnWith leave) s = .next t) : t.Inv := by
  rcases runSlot_outcome ran with rfl | ⟨r, hb⟩ | ⟨e, rfl⟩
  · exact h
  · obtain ⟨_, -, left⟩ := guard_ok (guards_raiseIf _ _ _ _) hb
    obtain ⟨_, hs, left⟩ := guard_ok guards_get left
    obtain ⟨_, -, left⟩ := guard_ok (guards_stopIf _ _) left
    cases hs
    cases left
    exact h.same rfl rfl rfl rfl
  · exact h.stoppedBy e

theorem State.Inv.software (h : s.Inv) {g : Guard} {n : BitVec 14} (ran : execTrap g n s = .next t) : t.Inv := by
  unfold execTrap at ran
  split at ran
  · cases ran
    exact (h.setHere _).takeTrap _
  · cases ran
    exact h

theorem State.Inv.left (h : s.Inv) {i : Instr} (leaves : leavesBundle i = true) (ran : exec i s = .next t) : t.Inv := by
  cases i <;> cases leaves
  case trap => exact h.software ran
  case eret => exact h.returned ran
  case uret => exact h.returned ran

/-- A slot keeps the canonical form, however it ends. -/
theorem State.Inv.slot (h : s.Inv) {i : Instr} {k : SlotKind} {w l : Nat} (slot : slotWord i = some (k, w, l)) (ran : exec i s = .next t) : t.Inv := by
  by_cases leaves : leavesBundle i = true
  · exact h.left leaves ran
  · by_cases goes : s.Goes t
    · exact (keeps_slot slot s t ran goes fun l => absurd l leaves).inv h
    · obtain ⟨e, he⟩ := not_forall_not.1 goes
      exact he ▸ h.stoppedBy e

end Sys2Proof.Machine
end

section
/-!
The canonical form of the memories: what accesses of memory keep, and the turns of the contexts, whatever an instruction's meaning is as long as
it keeps it.
-/

namespace Sys2Proof.Machine

/-! ### Accesses -/

section Accesses

variable {s : State}

theorem State.Inv.foldl {α : Type} {f : State → α → State} (step : ∀ {s : State} (x : α), s.Inv → (f s x).Inv) (l : List α) :
    ∀ {s : State}, s.Inv → (l.foldl f s).Inv := by
  induction l with
  | nil => exact id
  | cons x l ih => exact fun h => ih (step x h)

theorem State.Inv.performAll (core : Nat) (bs : List Byte) (ks : List Nat) : ∀ {s : State}, s.Inv → (performAll s core bs ks).Inv := by
  induction ks with
  | nil => exact id
  | cons k ks ih => exact fun h => ih (h.perform _ _ _)

theorem State.Inv.pageWritePieces (core : Nat) (h : Handle) (tenant : BitVec 16) (bs : List Byte) (o : Nat) (ps : List (Nat × Nat)) :
    ∀ {s : State}, s.Inv → (pageWritePieces s core h tenant bs o ps).Inv := by
  induction ps with
  | nil => exact id
  | cons p ps ih => exact fun inv => ih (State.Inv.performAll _ _ _ inv)

theorem State.Inv.pageWrite (inv : s.Inv) (core : Nat) (h : Handle) (o : Nat) (tenant : BitVec 16) (bs : List Byte) : (s.pageWrite core h o tenant bs).Inv := by
  unfold State.pageWrite
  split
  · exact State.Inv.pageWritePieces _ _ _ _ _ _ inv
  · exact inv.perform _ _ _

theorem State.Inv.afterLoad (inv : s.Inv) (c : Nat) (h : Handle) (o n : Nat) : (s.afterLoad c h o n).Inv := by
  obtain ⟨l, hl⟩ := afterLoad_lines s c h o n
  exact hl ▸ inv.same rfl rfl rfl rfl

theorem State.Inv.latomDo (inv : s.Inv) (c : Nat) (h : Handle) (o : Nat) (wide : Bool) (op : LatomOp) (v e : W64) : (s.latomDo c h o wide op v e).1.Inv :=
  State.Inv.performAll _ _ _ inv

theorem State.Inv.latomLost (inv : s.Inv) (c : Nat) (h : Handle) (o : Nat) (wide : Bool) (op : LatomOp) (v e : W64) : (s.latomLost c h o wide op v e).1.Inv := by
  have drawn : ({ s with free := s.free + 3 } : State).Inv := inv.same rfl rfl rfl rfl
  unfold State.latomLost
  dsimp only
  split
  · exact drawn.latomDo _ _ _ _ _ _ _
  · exact drawn

theorem State.Inv.latomMeet (inv : s.Inv) {c : Nat} {h : Handle} {o : Nat} {wide : Bool} {op : LatomOp} {v e : W64} {p : State × W64 × Bool}
    (met : s.latomMeet c h o wide op v e = some p) : p.1.Inv := by
  unfold State.latomMeet at met
  dsimp only at met
  by_cases lost : (s.lostPlane h o (if wide then 8 else 4) (s.ctx c).sr.tenant false).isSome = true
  · rw [if_pos lost] at met
    cases met
    exact inv.latomLost _ _ _ _ _ _ _
  · rw [if_neg lost] at met
    obtain ⟨-, done⟩ := Option.ite_none_left_eq_some.1 met
    cases done
    exact inv.latomDo _ _ _ _ _ _ _

/-! ### Loads that a later access passes -/

theorem State.Inv.pinFlight (inv : s.Inv) (c : Nat) (f : Flight) : (s.pinFlight c f).Inv := by
  unfold State.pinFlight
  split
  · split
    · exact inv
    · dsimp only
      split
      · exact (inv.afterLoad _ _ _ _).setCtx _ _
      · exact inv.setCtx _ _
  · next h o wide op v e _ =>
    by_cases torn : s.tearsLoad c h o (if wide then 8 else 4) = true
    · rw [if_pos torn]
      exact inv
    · rw [if_neg torn]
      split
      · next met => exact (inv.latomMeet met).setCtx _ _
      · exact inv.setCtx _ _
  · exact inv

theorem State.Inv.pinEntry (inv : s.Inv) (c : Nat) (e : QEntry) : (s.pinEntry c e).Inv := by
  unfold State.pinEntry
  dsimp only
  split
  · exact inv
  · exact (inv.afterLoad _ _ _ _).setCtx _ _

theorem State.Inv.pin (inv : s.Inv) (c : Nat) (p : Passing) : (s.pin c p).Inv :=
  State.Inv.foldl (fun e h => h.pinEntry c e) _ (State.Inv.foldl (fun f h => h.pinFlight c f) _ inv)

end Accesses

/-! ### Outcomes -/

/-- What an outcome goes on with has its memories in canonical form. -/
def Canonical (o : Host.Outcome State Fault Refusal) : Prop := ∀ t, o = .next t → t.Inv

theorem canonical_next {t : State} (h : t.Inv) : Canonical (.next t) := fun _ e => by cases e; exact h

theorem canonical_fault (f : Fault) : Canonical (.fault f) := fun _ e => nomatch e

/-- An event happens only where it has something to act on. -/
theorem canonical_event {what : String} {r : Option State} (h : ∀ t, r = some t → t.Inv) : Canonical (event what r) := by
  cases r with
  | none => exact canonical_fault _
  | some t => exact canonical_next (h t rfl)

/-! ### The turns of the contexts -/

section Turns

variable {ex : Meaning} (keeps : ∀ i s, s.Inv → Canonical (ex i s)) {s t : State} (h : s.Inv)

theorem State.UpToTlb.inv (same : s.UpToTlb t) (h : s.Inv) : t.Inv := by
  obtain ⟨tlb, rfl⟩ := same
  exact h.same rfl rfl rfl rfl

include h

theorem canonical_takeTrap (r : TrapRec) : Canonical (.next (s.takeTrap r)) := canonical_next (h.takeTrap r)

theorem State.Inv.stopBundle (a : Status) : (s.stopBundle a).Inv := by
  cases a with
  | ok => exact h
  | trapped r => exact h.takeTrap r
  | blocked act => exact h.block act
  | frozen => exact h.freeze
  | frozenPast p => exact (h.stoppedBy (.freezePast p)).pin s.cur p
  | redirected => exact h

theorem State.Inv.turnOver (c : Nat) : (s.turnOver c).Inv := by
  unfold State.turnOver
  dsimp only
  have held : ((if (s.ctx c).yielded then s.setCtx c { s.ctx c with yielded := false } else s)).Inv := by
    split
    · exact h.setCtx _ _
    · exact h
  split
  · exact held.same rfl rfl rfl rfl
  · exact held.same rfl rfl rfl rfl

theorem State.Inv.wake : (s.wake ex).Inv := by
  unfold State.wake
  split
  · exact h
  · refine State.Inv.foldl (fun core h => ?_) _ (State.Inv.foldl (fun c h => h.setCtx _ _) _ h)
    unfold State.giveTurn
    cases State.rotate _ _ with
    | none => exact h
    | some c => exact h.same rfl rfl rfl rfl

include keeps

/-- What the slots of a bundle end in. -/
theorem runSlots_canonical (is : List Instr) :
    (∀ t, runSlots ex s is = .done t → t.Inv) ∧ (∀ t, runSlots ex s is = .left t → t.Inv) ∧ (∀ o, runSlots ex s is = .other o → Canonical o) := by
  induction is generalizing s with
  | nil =>
    refine ⟨fun t e => ?_, fun t e => ?_, fun o e => ?_⟩ <;> cases e
    exact h
  | cons i is ih =>
    have one := keeps i s h
    unfold runSlots
    cases ran : ex i s with
    | next t =>
      have ht := one t ran
      dsimp only
      cases st : t.status with
      | ok => exact ih ht
      | redirected => exact ⟨fun _ e => (nomatch e), fun _ e => by cases e; exact ht, fun _ e => (nomatch e)⟩
      | _ => exact ⟨fun _ e => (nomatch e), fun _ e => (nomatch e), fun _ e => (nomatch e)⟩
    | fault f => exact ⟨fun _ e => (nomatch e), fun _ e => (nomatch e), fun o e => by cases e; exact canonical_fault f⟩
    | refused r => exact ⟨fun _ e => (nomatch e), fun _ e => (nomatch e), fun o e => by cases e; exact fun _ e => nomatch e⟩

theorem finishBundle_canonical (ht : t.Inv) (b : Bundle) (grp : Group) : Canonical (finishBundle ex s t b grp) := by
  unfold finishBundle
  split
  · exact keeps _ _ h
  · dsimp only
    split
    · exact canonical_next (ht.setHere _)
    · next i _ =>
      have one := keeps i t ht
      cases ran : ex i t with
      | next u =>
        dsimp only
        split
        · exact canonical_next (ht.setHere _)
        · exact canonical_next (one u ran)
      | fault f => exact canonical_fault f
      | refused r => exact fun _ e => nomatch e

theorem issueWords_canonical (words : List Nat) : Canonical (issueWords ex s words) := by
  unfold issueWords
  dsimp only
  split
  · exact canonical_takeTrap h _
  · next b _ =>
    split
    · exact canonical_takeTrap h _
    · split
      · exact canonical_takeTrap h _
      · split
        · exact keeps _ _ h
        · obtain ⟨done, left, other⟩ := runSlots_canonical keeps h ((bundleOps b s.here.rep.isSome).filter fun i => !isTrap i)
          split
          · exact canonical_next (h.stopBundle _)
          · next ran => exact canonical_next (left _ ran)
          · next ran => exact other _ ran
          · next ran => exact finishBundle_canonical keeps h (done _ ran) _ _

theorem issueBundle_canonical : Canonical (issueBundle ex s) := by
  have ready : ({ s.setHere { s.here with run := .running } with status := .ok, issueFrom := s.next } : State).Inv := h.same rfl rfl rfl rfl
  unfold issueBundle
  dsimp only
  split
  · exact canonical_next h.freeze
  · have read := (bundleWords_upToTlb { s.setHere { s.here with run := .running } with status := .ok, issueFrom := s.next }).inv ready
    split
    · next t words =>
      have ht : t.Inv := by rwa [words] at read
      exact canonical_takeTrap ht _
    · next a ws t words =>
      have ht : t.Inv := by rwa [words] at read
      have there : (t.atBundle a ws).Inv := ht.same rfl rfl rfl rfl
      exact issueWords_canonical keeps there _

theorem issueHere_canonical : Canonical (issueHere ex s) := by
  unfold issueHere
  split
  · exact keeps _ _ h
  · split
    · exact keeps _ _ h
    · split
      · exact canonical_next h.freeze
      · have cycle := h.setHere s.here.newCycle
        unfold issueNow
        split
        · exact issueBundle_canonical keeps cycle
        · dsimp only
          split
          · exact issueBundle_canonical keeps (cycle.setHere _)
          · exact keeps _ _ cycle

theorem issueTurn_canonical : Canonical (issueTurn ex s) := by
  unfold issueTurn
  split
  · exact canonical_next h
  · next c _ =>
    have turn := issueHere_canonical keeps (s := { s with cur := c, status := .ok }) (h.same rfl rfl rfl rfl)
    cases ran : issueHere ex { s with cur := c, status := .ok } with
    | next t => exact canonical_next ((turn t ran).turnOver c)
    | fault f => exact canonical_fault f
    | refused r => exact fun _ e => nomatch e

theorem stepWith_canonical : Canonical (stepWith ex s) := by
  have woken := h.wake (ex := ex)
  unfold stepWith
  dsimp only
  split
  · next i r _ =>
    cases (s.wake ex).outOfPlace i with
    | none => exact keeps i _ (woken.same rfl rfl rfl rfl)
    | some w => exact canonical_fault _
  · split
    · exact keeps _ _ woken
    · split
      · exact issueTurn_canonical keeps woken
      · exact canonical_next woken

end Turns

end Sys2Proof.Machine
end

section
/-!
The canonical form of the memories: what repeats keep, and the events of the contexts' results, load queues and stores.
-/

namespace Sys2Proof.Machine

/-! ### States that an event may find -/

section Optional

variable {α : Type} {s : State}

/-- The state that an event leaves, if it happens, has its memories in canonical form. -/
def Sound (r : Option State) : Prop := ∀ t, r = some t → t.Inv

theorem sound_none : Sound none := fun _ h => nomatch h

theorem sound_some (h : s.Inv) : Sound (some s) := fun _ e => by cases e; exact h

theorem sound_bind {x : Option α} {f : α → Option State} (h : ∀ a, x = some a → Sound (f a)) : Sound (x >>= f) := by
  cases x with
  | none => exact sound_none
  | some a => exact h a rfl

theorem sound_map {x : Option α} {f : α → State} (h : ∀ a, x = some a → (f a).Inv) : Sound (x.map f) := by
  cases x with
  | none => exact sound_none
  | some a => exact sound_some (h a rfl)

theorem sound_ite {p : Prop} [Decidable p] {x y : Option State} (hx : p → Sound x) (hy : ¬ p → Sound y) : Sound (if p then x else y) := by
  split
  · next h => exact hx h
  · next h => exact hy h

theorem sound_guard {p : Prop} [Decidable p] {x : Option State} (h : Sound x) : Sound (if p then none else x) := sound_ite (fun _ => sound_none) fun _ => h

theorem sound_when {p : Prop} [Decidable p] {x : Option State} (h : Sound x) : Sound (if p then x else none) := sound_ite (fun _ => h) fun _ => sound_none

theorem sound_orElse {x y : Option State} (hx : Sound x) (hy : Sound y) : Sound (x.orElse fun _ => y) := by
  cases x with
  | none => exact hy
  | some _ => exact hx

end Optional

variable {s t : State}

/-! ### Empty bundles and repeats -/

theorem within_advance {a : Touch} (p : Rep) (l : List (BitVec 5 × Bool)) : (advance p l).Within a := by
  induction l with
  | nil => exact fun _ => withinAt_of_guards (guards_pure ())
  | cons y l ih => exact fun s => (withinAt_guard (guards_readY _)).2 fun _ _ => within_bind (within_exact _ _) (fun _ => ih) s

/-- What no slot may change. -/
def Touch.nothing : Touch := ⟨false, false, false, false, false, false, fun _ => False⟩

theorem repeatCommand_canonical (h : s.Inv) (i : Instr) : Canonical (repeatCommand i s) := by
  cases i
  case mma _ ac a b fmt ca dm sp => exact fun _ ran => h.slot (i := .mma ⟨false, 0⟩ ac a b fmt ca dm sp) rfl ran
  case mmaz _ ac a b fmt ca dm sp => exact fun _ ran => h.slot (i := .mmaz ⟨false, 0⟩ ac a b fmt ca dm sp) rfl ran
  case mdrain _ ac y fmt sc cmp rnd => exact fun _ ran => h.slot (i := .mdrain ⟨false, 0⟩ ac y fmt sc cmp rnd) rfl ran
  case mldac _ ac y => exact fun _ ran => h.slot (i := .mldac ⟨false, 0⟩ ac y) rfl ran
  case mstac _ ac y => exact fun _ ran => h.slot (i := .mstac ⟨false, 0⟩ ac y) rfl ran
  all_goals exact canonical_next h

theorem State.Inv.repetition (h : s.Inv) (p : Rep) : Canonical (s.repetition p) := by
  have ready : ({ s with status := .ok } : State).Inv := h.same rfl rfl rfl rfl
  unfold State.repetition
  split
  · exact canonical_next h
  · next i _ =>
    split
    · have command := repeatCommand_canonical ready i
      cases ran : repeatCommand i { s with status := .ok } with
      | next t =>
        have ht := command t ran
        dsimp only
        split
        · intro u advanced
          rcases runBody_outcome advanced with ⟨r, hb⟩ | ⟨e, rfl⟩
          · exact (within_advance (a := .nothing) _ _ t r u hb).inv ht
          · exact ht.stoppedBy e
        · exact canonical_next ht
      | fault f => exact canonical_fault f
      | refused r => exact fun _ e => nomatch e
    · exact canonical_next h

theorem State.Inv.repeatHead (h : s.Inv) (len : BitVec 3) (mword : W32) : Canonical (execRepeatHead len mword s) := by
  unfold execRepeatHead
  split
  · exact canonical_next (h.takeTrap _)
  · next body after _ _ =>
    have started := h.setHere { s.here with rep := some (s.here.startRep mword body after) }
    dsimp only
    split
    · exact canonical_next started
    · have first := started.repetition (s.here.startRep mword body after)
      cases ran : (s.setHere { s.here with rep := some (s.here.startRep mword body after) }).repetition (s.here.startRep mword body after) with
      | next t =>
        have ht := first t ran
        dsimp only
        split
        · exact canonical_next (h.takeTrap _)
        · exact canonical_next (h.block _)
        · exact canonical_next h.freeze
        · exact canonical_next (h.stoppedBy (.freezePast _))
        · exact canonical_next ht
      | fault f => exact canonical_fault f
      | refused r => exact fun _ e => nomatch e

theorem State.Inv.repeats (h : s.Inv) : Canonical (execRepetition s) := by
  unfold execRepetition
  split
  · exact h.repetition _
  · exact canonical_fault _

/-! ### Results in flight -/

section Results

variable (h : s.Inv)
include h

theorem State.Inv.landLoad (c : Nat) (f : Flight) (g : Handle) (o n p : Nat) (form : LoadForm) : (s.landLoad c f g o n p form).Inv := by
  unfold State.landLoad
  dsimp only
  split
  · exact (h.afterLoad _ _ _ _).setCtx _ _
  · exact h.setCtx _ _

theorem State.Inv.landEntry (c : Nat) (e : QEntry) : (s.landEntry c e).Inv := by
  unfold State.landEntry
  dsimp only
  split
  · exact (h.afterLoad _ _ _ _).setCtx _ _
  · exact h.setCtx _ _

theorem State.Inv.arriveResult (c i : Nat) : Sound (s.arriveResult c i) := by
  unfold State.arriveResult
  refine sound_bind fun f _ => sound_guard ?_
  split
  · exact sound_some (h.setCtx _ _)
  · refine sound_guard ?_
    split
    · exact sound_some (h.setCtx _ _)
    · exact sound_guard (sound_some (h.landLoad _ _ _ _ _ _ _))
  · exact sound_map fun p met => (h.latomMeet met).setCtx _ _
  · exact sound_none

theorem State.Inv.tellDomain : s.tellDomain.Inv := State.Inv.foldl (fun _ h => h.acked _ _) _ h

theorem State.Inv.allocate {tenant : BitVec 16} {m : Bool} {size planes : W64} {p : State × Option Nat} (allocated : s.allocate tenant m size planes = .ok p) :
    p.1.Inv := by
  unfold State.allocate at allocated
  dsimp only at allocated
  split at allocated
  · cases allocated
  · split at allocated
    · cases allocated
    · split at allocated
      · cases allocated
      · split at allocated
        · cases allocated
          exact h
        · cases allocated
          have cleared (es : List Extent) (o n : Nat) (ps : List Nat) : ({ s with extents := es, mem := clearPlanes s.mem o n ps } : State).Inv :=
            ⟨wf_clearPlanes _ _ _ h.mem, h.tags, h.tiles, h.sems⟩
          dsimp only
          split
          · exact (cleared _ _ _ _).tellDomain
          · exact cleared _ _ _ _

theorem State.Inv.answerAlloc (c : Nat) (f : Flight) (m : Bool) (size planes : W64) : (s.answerAlloc c f m size planes).Inv := by
  unfold State.answerAlloc
  split
  · exact h.setCtx _ _
  · next t o allocated => exact State.Inv.setCtx (h.allocate allocated) _ _

theorem State.Inv.arriveExact (c i : Nat) : Sound (s.arriveExact c i) := by
  unfold State.arriveExact
  refine sound_bind fun f _ => sound_guard ?_
  split
  · exact sound_some (h.setCtx _ _)
  · exact sound_some (h.answerAlloc _ _ _ _ _)
  · exact sound_none

theorem State.Inv.freezeLate (c : Nat) (el : Bool) : Sound (s.freezeLate c el) := sound_when (sound_some (h.setCtx _ _))

theorem State.Inv.translate {die : Nat} {tenant : BitVec 16} {va : Nat} {r : Option Handle} (walked : s.translate die tenant va = (r, t)) : t.Inv := by
  obtain ⟨tlb, rfl⟩ := translate_tlb walked
  exact h.same rfl rfl rfl rfl

theorem State.Inv.finishXlat (c i : Nat) : Sound (s.finishXlat c i) := by
  unfold State.finishXlat
  refine sound_bind fun f _ => sound_guard ?_
  split
  · dsimp only
    split
    · next walked => exact sound_some ((h.translate walked).setCtx _ _)
    · next walked =>
      split
      · exact sound_some ((h.translate walked).setCtx _ _)
      · exact sound_some ((h.translate walked).setCtx _ _)
  · exact sound_none

theorem State.Inv.refuse (c i : Nat) : Sound (s.refuse c i) := by
  unfold State.refuse
  dsimp only
  split
  · refine sound_guard ?_
    split
    · exact sound_when (sound_some (h.setCtx _ _))
    · exact sound_when (sound_some (h.setCtx _ _))
    · exact sound_none
  · exact sound_when (sound_some (h.setCtx _ _))

/-! ### Load queues and stores -/

theorem State.Inv.arriveEntry (c q i : Nat) : Sound (s.arriveEntry c q i) := by
  unfold State.arriveEntry
  refine sound_bind fun e _ => sound_guard ?_
  split
  · exact sound_some (h.setCtx _ _)
  · exact sound_guard (sound_some (h.landEntry _ _))

theorem State.Inv.landGranule (c : Nat) (g : Granule) : (s.landGranule c g).Inv := by
  unfold State.landGranule
  dsimp only
  split
  · exact h.perform _ _ _
  · next p o _ =>
    have performed := State.Inv.performAll (coreOf c) g.bytes (s.storeKeys p o g.bytes.length (s.ctx c).sr.tenant) h
    split
    · split
      · exact performed.same rfl rfl rfl rfl
      · exact h.same rfl rfl rfl rfl
    · split
      · exact h.setCtx _ _
      · exact performed

theorem State.Inv.refence (c : Nat) : (s.refence c).Inv := by
  obtain ⟨lines, hl⟩ := refence_lines s c
  exact hl ▸ h.same rfl rfl rfl rfl

theorem State.Inv.performStore (c id : Nat) : Sound (s.performStore c id) := by
  unfold State.performStore
  refine sound_bind fun p _ => ?_
  dsimp only
  exact sound_guard (sound_some (((h.refence c).setCtx _ _).landGranule _ _))

/-! ### Traps and interrupts at a boundary -/

theorem State.Inv.takeDue (c : Nat) : Sound (s.takeDue c) := by
  unfold State.takeDue
  exact sound_bind fun r _ => sound_guard (sound_some (State.Inv.same ((h.setCtx _ _).trapCtx c r) rfl rfl rfl rfl))

theorem State.Inv.userInterrupt (c : Nat) : Sound (s.userInterrupt c) := by
  unfold State.userInterrupt
  exact sound_when (sound_map fun _ _ => h.setCtx _ _)

end Results

end Sys2Proof.Machine
end

section
/-!
The canonical form of the memories: the commands of the matrix engine, the copy engine, the bank engines, the buffer unit and the token unit, and
the walks of the gleaner.
-/

namespace Sys2Proof.Machine

variable {s t : State} (h : s.Inv)
include h

/-! ### Writes of the scratchpad and the tiles -/

omit h in
theorem inv_ite {p : Prop} [Decidable p] (hs : s.Inv) (ht : t.Inv) : (if p then s else t).Inv := by
  split
  · exact hs
  · exact ht

theorem State.Inv.withMem {mem : List Host.Cell} (wf : Memory.wf mem = true) : ({ s with mem := mem } : State).Inv := ⟨wf, h.tags, h.tiles, h.sems⟩

theorem State.Inv.withTags {tags : List Host.Cell} (wf : Memory.wf tags = true) : ({ s with tags := tags } : State).Inv := ⟨h.mem, wf, h.tiles, h.sems⟩

theorem State.Inv.writeTile (core n : Nat) (v : Tile) : (s.writeTile core n v).Inv := ⟨h.mem, h.tags, wf_writeCells h.tiles _ _, h.sems⟩

theorem State.Inv.fillTags (cl addr n : Nat) : (s.fillTags cl addr n).Inv := h.withTags (wf_setTags h.tags _ _ _)

/-! ### The matrix engine -/

theorem State.Inv.cmdDone (c id : Nat) : (s.cmdDone c id).Inv := by
  obtain ⟨ctxs, lines, done⟩ := cmdDone_shape s c id
  exact done ▸ h.same rfl rfl rfl rfl

theorem State.Inv.mEffect (c : MCmd) : (s.mEffect c).Inv := by
  obtain ⟨mem, tiles, cs, effect, hm, ht⟩ := mEffect_shape (s := s) (c := c)
  exact effect ▸ ⟨hm h.mem, h.tags, ht h.tiles, h.sems⟩

theorem State.Inv.dropM (c : MCmd) : (s.dropM c).Inv :=
  State.Inv.cmdDone (s := { s with mcmds := s.mcmds.filter fun d => d.id != c.id }) (h.same rfl rfl rfl rfl) _ _

theorem State.Inv.enterM (id : Nat) : Sound (s.enterM id) := sound_bind fun _ _ => sound_when (sound_some (h.putM _))

theorem State.Inv.startM (id : Nat) : Sound (s.startM id) := sound_bind fun _ _ => sound_when (sound_some (h.putM _))

theorem State.Inv.completeM (id : Nat) : Sound (s.completeM id) :=
  sound_bind fun c _ => sound_when (sound_some ((h.mEffect c).dropM c))

/-! ### The end of an engine command -/

theorem State.Inv.passE (c : ECmd) : (s.passE c).Inv :=
  State.Inv.cmdDone (s := { s with ecmds := s.ecmds.filter fun d => d.id != c.id }) (h.same rfl rfl rfl rfl) _ _

theorem State.Inv.dropE (c : ECmd) (code : Nat) : (s.dropE c code).Inv :=
  (State.Inv.cmdDone (s := { s with ecmds := s.ecmds.filter fun d => d.id != c.id }) (h.same rfl rfl rfl rfl) _ _).finishTok _ _

/-! ### The copy engine and the bank engines -/

theorem State.Inv.listDone (c : ECmd) : (s.listDone c).Inv := by
  unfold State.listDone
  split
  · exact h.cmdDone _ _
  · exact h

theorem State.Inv.startCopy (c : ECmd) : (s.startCopy c).Inv := by
  unfold State.startCopy
  split
  · exact h.dropE _ _
  · have started (d : ECmd) : ((s.putE d).listDone c).Inv := (h.putE d).listDone c
    dsimp only
    split
    · exact (started _).setBin _ _
    · exact started _

omit h in
theorem State.Inv.moveRows (c : ECmd) (dir : Bool) (g : Handle) (lw ctl : W64) (rows : List (Nat × Nat × Nat)) :
    ∀ {s : State}, s.Inv → (moveRows s c dir g lw ctl rows).Inv := by
  induction rows with
  | nil => exact id
  | cons row rows ih =>
    intro s h
    refine ih ?_
    dsimp only
    split
    · exact h.pageWrite _ _ _ _ _
    · split
      · exact h.writeTile _ _ _
      · have written := h.withMem (wf_writeCells h.mem (spadKey (clusterOf c.ctx) row.2.1) (s.rowIn g ctl c.tenant row.1 row.2.2))
        split
        · exact written.fillTags _ _ _
        · exact written

theorem State.Inv.endFill (c : ECmd) (good : Bool) : (s.endFill c good).Inv := by
  unfold State.endFill
  split
  · exact h
  · exact h.setBin _ _

theorem State.Inv.failLoft (c : ECmd) : (s.failLoft c).Inv :=
  State.Inv.dropE (State.Inv.endFill (s := { s with free := s.free + 1 }) (h.same rfl rfl rfl rfl) c false) _ _

theorem State.Inv.failHost (c : ECmd) : (s.failHost c).Inv := (h.endFill c false).dropE _ _

theorem State.Inv.completeCopy (id : Nat) : Sound (s.completeCopy id) := by
  unfold State.completeCopy
  refine sound_bind fun c _ => sound_bind fun parts _ => ?_
  dsimp only
  refine sound_guard (sound_ite (fun _ => sound_some (h.failLoft c)) fun _ => sound_some ?_)
  exact ((State.Inv.moveRows _ _ _ _ _ _ h).endFill _ _).dropE _ _

theorem State.Inv.completeBank (id : Nat) : Sound (s.completeBank id) := by
  unfold State.completeBank
  refine sound_bind fun c _ => ?_
  split
  · refine sound_guard ?_
    dsimp only
    exact sound_ite (fun _ => sound_some (h.failLoft c)) fun _ => sound_some (State.Inv.dropE (h.withMem (wf_writeCells h.mem _ _)) _ _)
  · exact sound_none

/-! ### The buffer unit and the token unit -/

theorem State.Inv.startBinrel (c : ECmd) (n : Nat) : (s.startBinrel c n).Inv := by
  unfold State.startBinrel
  dsimp only
  split
  · exact h.dropE _ _
  · split
    · exact (h.setBin _ _).dropE _ _
    · exact (h.setBin _ _).dropE _ _

theorem State.Inv.killWalkFill (w : Walk) : (s.killWalkFill w).Inv := by
  unfold State.killWalkFill
  split
  · exact h
  · exact ((h.setBin _ _).finishTok _ _).putWalk _

theorem State.Inv.killBinFill (cl n : Nat) : (s.killBinFill cl n).Inv := by
  unfold State.killBinFill
  cases s.ecmds.find? fun d : ECmd => d.stage == .started && d.op.fillBin == some n && clusterOf d.ctx == cl with
  | none =>
    dsimp only
    split
    · exact h
    · exact h.killWalkFill _
  | some d =>
    have dropped := h.dropE d 5
    dsimp only
    split
    · exact dropped
    · exact dropped.killWalkFill _

theorem State.Inv.startBinkill (c : ECmd) (n : Nat) : (s.startBinkill c n).Inv := by
  have killed := h.killBinFill (clusterOf c.ctx) n
  unfold State.startBinkill
  dsimp only
  split
  · exact killed.dropE _ _
  · exact (killed.setBin _ _).dropE _ _

theorem State.Inv.testSemwait (id : Nat) : Sound (s.testSemwait id) := by
  unfold State.testSemwait
  refine sound_bind fun c _ => ?_
  split
  · exact sound_guard (sound_ite (fun _ => sound_some (h.dropE _ _)) fun _ => sound_some h)
  · exact sound_none

/-! ### The gleaner's commands -/

theorem State.Inv.addWalk (id c wc tok : Nat) (cu : Cursor) (link : BitVec 128) (restart : Bool) : (s.addWalk id c wc tok cu link restart).Inv :=
  h.same rfl rfl rfl rfl

theorem State.Inv.startWalk (c : ECmd) (wc : Nat) (link : BitVec 128) : (s.startWalk c wc link).Inv := (h.passE c).addWalk _ _ _ _ _ _ _

theorem State.Inv.stopWalk (w : Walk) : (s.stopWalk w).Inv := (((h.freeUnread _ _).dropWalk w).finishTok _ _).setCtx _ _

theorem State.Inv.startWstop (c : ECmd) (wc : Nat) : (s.startWstop c wc).Inv := by
  unfold State.startWstop
  split
  · exact h.dropE _ _
  · exact (h.stopWalk _).dropE _ _

theorem State.Inv.startWbudget (c : ECmd) (wc : Nat) (v : BitVec 16) : (s.startWbudget c wc v).Inv := by
  unfold State.startWbudget
  split
  · exact h.dropE _ _
  · exact (h.setCtx _ _).dropE _ _

theorem State.Inv.startWsave (c : ECmd) (wc a : Nat) : (s.startWsave c wc a).Inv := State.Inv.dropE (h.withMem (wf_writeCells h.mem _ _)) _ _

theorem State.Inv.restartWalk (id c wc tok : Nat) (v : Cursor) : (s.restartWalk id c wc tok v).Inv := (restartWalk_sameTasks s id c wc tok v).data.inv h

theorem State.Inv.startWrest (c : ECmd) (wc a : Nat) : (s.startWrest c wc a).Inv := by
  unfold State.startWrest
  dsimp only
  split
  · exact (h.passE c).restartWalk _ _ _ _ _
  · exact (h.setCtx _ _).dropE _ _

/-! ### Hops -/

theorem State.Inv.reach {c : Nat} {l : BitVec 128} {r : Except Nat Reached} (reached : s.reach c l = (r, t)) : t.Inv := by
  unfold State.reach at reached
  dsimp only at reached
  split at reached
  · split at reached
    · cases reached
      exact h
    · split at reached
      · cases reached
        exact h
      · split at reached <;> cases reached
        · exact h.acked _ _
        · exact h
  · split at reached
    · cases reached
      exact h
    · split at reached
      · next walked =>
        cases reached
        exact h.translate walked
      · next walked =>
        have ht := h.translate walked
        split at reached
        · cases reached
          exact ht
        · split at reached
          · split at reached <;> cases reached <;> exact ht
          · split at reached <;> cases reached <;> exact ht

theorem State.Inv.recordReason (w : Walk) (i r : Nat) (l : BitVec 128) : (s.recordReason w i r l).Inv := by
  unfold State.recordReason
  dsimp only
  split
  · exact h.putWalk _
  · exact (h.putWalk _).finishTok _ _

theorem State.Inv.rereadHop (w : Walk) (cu : Cursor) : (s.rereadHop w cu).Inv := by
  rcases reached : s.reach w.ctx cu.link with ⟨r | p, t⟩
  · rw [reread_failed rfl reached]
    exact (h.reach reached).recordReason _ _ _ _
  · by_cases fresh : headField (p.head t) 64 4 = cu.gen
    · rw [reread_fresh rfl reached fresh]
      exact (h.reach reached).putWalk _
    · rw [reread_stale rfl reached fresh]
      exact (h.reach reached).recordReason _ _ _ _

theorem State.Inv.beginFill (w : Walk) (cu : Cursor) (p : Reached) : (s.beginFill w cu p).Inv := by
  have spent : (if w.later then s.setCtx w.ctx ((s.ctx w.ctx).setCursor w.wc (cu.setBudget (cu.budget - 1))) else s).Inv := inv_ite (h.setCtx _ _) h
  unfold State.beginFill
  refine inv_ite (h.recordReason _ _ _ _) (inv_ite (h.recordReason _ _ _ _) (inv_ite (h.recordReason _ _ _ _) (inv_ite (h.recordReason _ _ _ _) ?_)))
  exact ((spent.withMem (wf_writeCells spent.mem _ _)).setBin _ _).putWalk _

theorem State.Inv.payloadPackets (l : BitVec 128) (n : Nat) : (s.payloadPackets l n).Inv := by
  unfold State.payloadPackets
  split
  · exact h.sent _ _ _
  · exact h

theorem State.Inv.endWalkFill (w : Walk) (cu : Cursor) (l : Landed) : (s.endWalkFill w cu l).Inv := by
  unfold State.endWalkFill
  dsimp only
  split
  · exact (h.setBin _ _).recordReason _ _ _ _
  · have paid (key : Nat) (bs : List Byte) (n : Nat) : (({ s with mem := writeCells s.mem key bs } : State).payloadPackets l.link n).Inv :=
      (h.withMem (wf_writeCells h.mem _ _)).payloadPackets _ _
    split
    · exact ((paid _ _ _).setBin _ _).recordReason _ _ _ _
    · exact ((paid _ _ _).setBin _ _).putWalk _

theorem State.Inv.hop (id : Nat) : Sound (s.hop id) := by
  unfold State.hop
  refine sound_bind fun w _ => ?_
  dsimp only
  split
  · exact sound_bind fun l _ => sound_some (h.endWalkFill _ _ _)
  · split
    · exact sound_when (sound_some (h.dropWalk _))
    · split
      · exact sound_some (h.rereadHop _ _)
      · split
        · split
          · exact sound_some (h.recordReason _ _ _ _)
          · exact sound_some ((h.putWalk _).finishTok _ _)
        · split
          · exact sound_some (h.recordReason _ _ _ _)
          · split
            · exact sound_some (h.recordReason _ _ _ _)
            · split
              · next reached => exact sound_some ((h.reach reached).recordReason _ _ _ _)
              · next reached => exact sound_when (sound_some ((h.reach reached).beginFill _ _ _))

end Sys2Proof.Machine
end

section
/-!
The canonical form of the memories: barriers, the fabric and the loft.
-/

namespace Sys2Proof.Machine

section Fabric

variable {s t : State} (h : s.Inv)
include h

/-! ### Barriers -/

theorem State.Inv.putBarrier (b : Barrier) : (s.putBarrier b).Inv := h.same rfl rfl rfl rfl

theorem State.Inv.failBarrier (b : Barrier) : (s.failBarrier b).Inv :=
  State.Inv.finishToks (s := { s with barriers := s.barriers.filter fun x => x.id != b.id }) (h.same rfl rfl rfl rfl) _ _

theorem State.Inv.claimBarrier (d : W64) (tenant : BitVec 16) (place : Nat) : (s.claimBarrier d tenant place).2.Inv := by
  unfold State.claimBarrier
  split
  · exact h
  · exact h.same rfl rfl rfl rfl

theorem State.Inv.joinBarrier (d : W64) (tenant : BitVec 16) (place : Nat) (add : Barrier → Barrier) : (s.joinBarrier d tenant place add).Inv := by
  have claimed := h.claimBarrier d tenant place
  exact inv_ite (claimed.putBarrier _) ((claimed.putBarrier _).failBarrier _)

theorem State.Inv.startBar (c : ECmd) (d : W64) : (s.startBar c d).Inv := (h.passE c).joinBarrier _ _ _ _

theorem State.Inv.barrierReport (id : Nat) : Sound (s.barrierReport id) := by
  unfold State.barrierReport
  refine sound_bind fun b _ => ?_
  split
  · exact sound_some (h.putBarrier _)
  · exact sound_some (h.putBarrier _)
  · exact sound_when (sound_ite (fun _ => sound_some (h.failBarrier _)) fun _ => sound_some (h.putBarrier _))

theorem State.Inv.barrierRelease (id : Nat) : Sound (s.barrierRelease id) := by
  refine sound_bind fun b _ => sound_when (sound_some ?_)
  have released := h.finishToks 0 ((splitRound s.device.toNat b b.arrivals []).1.map Prod.fst)
  exact inv_ite (released.same rfl rfl rfl rfl) (released.putBarrier _)

theorem State.Inv.peerReport (dev : Nat) (d : W64) (tenant : BitVec 16) : (s.peerReport dev d tenant).Inv := inv_ite (h.joinBarrier _ _ _ _) h

omit h in
theorem State.Inv.failRounds (dev : Nat) (bs : List Barrier) : ∀ {s : State}, s.Inv → (failRounds s dev bs).Inv := by
  induction bs with
  | nil => exact id
  | cons b bs ih => exact fun h => ih (inv_ite (h.failBarrier b) h)

/-! ### FIFOs -/

theorem State.Inv.startFunbindRecv (c : ECmd) (ch : Nat) : (s.startFunbindRecv c ch).Inv := h.same rfl rfl rfl rfl

theorem State.Inv.loseWord (key : Nat) : (s.loseWord key).Inv := h.same rfl rfl rfl rfl

theorem State.Inv.endDrain (id : Nat) : Sound (s.endDrain id) := by
  unfold State.endDrain
  refine sound_bind fun c _ => ?_
  split
  · exact sound_when (sound_some (h.dropE _ _))
  · exact sound_none

theorem State.Inv.setSend (id : Nat) (v : Option SendQ) : (s.setSend id v).Inv := h.same rfl rfl rfl rfl

theorem State.Inv.endSend (e : SendQ) : (s.endSend e).Inv := by
  unfold State.endSend
  split
  · split
    · exact h.setSend _ _
    · exact inv_ite ((h.setSend _ _).dropE _ _) h
  · exact h

theorem State.Inv.startFunbindSend (c : ECmd) (q : Nat) : (s.startFunbindSend c q).Inv := by
  have started := h.putE { c with stage := .started }
  unfold State.startFunbindSend
  dsimp only
  split
  · exact h.dropE _ _
  · exact inv_ite (started.dropE _ _) (started.endSend _)

theorem State.Inv.deliverWord (id : Nat) : Sound (s.deliverWord id) := by
  unfold State.deliverWord
  refine sound_bind fun e _ => ?_
  split
  · exact sound_when (sound_some (h.endSend _))
  · exact sound_none
  · refine sound_guard (sound_ite (fun _ => sound_when (sound_some ?_)) fun _ => sound_guard (sound_some ?_))
    · have received (chans : List (Nat × List W64)) : ({ s with chans := chans } : State).Inv := h.same rfl rfl rfl rfl
      exact ((received _).setSend _ _).endSend _
    · exact ((h.acked _ _).setSend _ _).endSend _

/-! ### Transfers -/

theorem State.Inv.farPage {die : Nat} {tenant : BitVec 16} {a n : Nat} {w : Bool} {r : Option (Handle × Nat)}
    (found : s.farPage die tenant a n w = (r, t)) : t.Inv := by
  unfold State.farPage at found
  rcases walked : s.translate die tenant a with ⟨_ | p, u⟩
  · rw [walked] at found
    cases found
    exact h.translate walked
  · rw [walked] at found
    dsimp only at found
    by_cases holds : (if w then p.w else p.r) = true ∧ a % pageBytes p.size + n ≤ pageBytes p.size
    · rw [if_pos holds] at found
      cases found
      exact h.translate walked
    · rw [if_neg holds] at found
      cases found
      exact h.translate walked

theorem State.Inv.completeXfer (id : Nat) : Sound (s.completeXfer id) := by
  unfold State.completeXfer
  refine sound_bind fun c _ => ?_
  split
  · refine sound_guard (sound_ite (fun _ => sound_some (h.failLoft _)) fun _ => ?_)
    dsimp only
    refine sound_ite (fun _ => ?_) fun _ => ?_
    · split
      · next found => exact sound_some ((h.farPage found).dropE _ _)
      · next found =>
        have ht := h.farPage found
        exact sound_ite (fun _ => sound_some (ht.failLoft _)) fun _ =>
          sound_ite (fun _ => sound_some ((ht.pageWrite _ _ _ _ _).dropE _ _)) fun _ => sound_some ((ht.pageWrite _ _ _ _ _).dropE _ _)
    · refine sound_ite (fun _ => sound_some (h.dropE _ _)) fun _ => sound_ite (fun _ => sound_some ((h.acked _ _).dropE _ _)) fun _ => ?_
      have sent (dev n : Nat) := h.sent dev 2 n
      exact sound_ite (fun _ => sound_some (((sent _ _).pageWrite _ _ _ _ _).dropE _ _)) fun _ =>
        sound_some (((sent _ _).withMem (wf_writeCells (sent _ _).mem _ _)).dropE _ _)
  · exact sound_none

/-! ### Packets -/

theorem State.Inv.deliver (peer : Nat) (p : Payload) : (s.deliver peer p).Inv := by
  cases p with
  | empty => exact h
  | fifoWord die cl chan w => exact h.same rfl rfl rfl rfl
  | barrierReport d tenant => exact h.peerReport _ _ _
  | mirrorAdd tenant plane start size second => exact ⟨wf_clearPlanes _ _ _ h.mem, h.tags, h.tiles, h.sems⟩
  | mirrorRemove tenant plane start size second => exact h.same rfl rfl rfl rfl
  | xferBytes tenant va len off bs =>
    unfold State.deliver
    dsimp only
    split
    · next found => exact h.farPage found
    · next found => exact inv_ite (h.farPage found) ((h.farPage found).pageWrite _ _ _ _ _)

theorem State.Inv.accept {p : Payload} {q : State × Payload} (accepted : s.accept p = some q) : q.1.Inv := by
  unfold State.accept at accepted
  split at accepted
  · split at accepted
    · cases accepted
      exact h.loseWord _
    · obtain ⟨-, same⟩ := Option.ite_none_right_eq_some.1 accepted
      cases same
      exact h
  · split at accepted
    · obtain ⟨-, same⟩ := Option.ite_none_left_eq_some.1 accepted
      cases same
      exact h
    · cases accepted
      exact h

omit h in
theorem State.Inv.flushHeld (peer : Nat) (n : Nat) : ∀ {s : State} (l : Link), s.Inv → (flushHeld s peer l n).1.Inv := by
  induction n with
  | zero => exact fun _ h => h
  | succ n ih =>
    intro s l h
    unfold Machine.flushHeld
    split
    · exact h
    · exact ih _ (h.deliver _ _)

theorem State.Inv.receive (peer port chan seq : Nat) (stomp : Bool) (pay : Payload) : Sound (s.receive peer port chan seq stomp pay) := by
  unfold State.receive
  refine sound_guard (sound_ite (fun _ => sound_some h) fun _ => ?_)
  dsimp only
  refine sound_ite (fun _ => sound_some (h.same rfl rfl rfl rfl)) fun _ => sound_bind fun q accepted => ?_
  have taken := h.accept accepted
  have delivered : (if orderedChan chan then q.1 else q.1.deliver peer q.2).Inv := inv_ite taken (taken.deliver _ _)
  exact sound_some ((State.Inv.flushHeld peer 64 _ delivered).same rfl rfl rfl rfl)

/-! ### Loss -/

theorem State.Inv.losePlane (p : Nat) : (s.losePlane p).Inv := inv_ite h (h.same rfl rfl rfl rfl)

theorem State.Inv.loseDevice (dev : Nat) : (s.loseDevice dev).Inv := by
  refine inv_ite h (State.Inv.foldl (fun c ht => ?_) _ (State.Inv.failRounds dev s.barriers (h.same rfl rfl rfl rfl)))
  split
  · exact inv_ite (ht.dropE _ _) ht
  · exact ht

theorem State.Inv.resend (peer chan : Nat) : Sound (s.resend peer chan) := by
  unfold State.resend
  refine sound_bind fun p _ => ?_
  dsimp only
  exact sound_ite (fun _ => sound_some (h.same rfl rfl rfl rfl)) fun _ => sound_some (inv_ite (h.losePlane _) (h.loseDevice _))

/-! ### The loft -/

theorem State.Inv.startLfree (c : ECmd) (a : W64) : (s.startLfree c a).Inv := by
  unfold State.startLfree
  dsimp only
  split
  · exact h.dropE _ _
  · have freed (es : List Extent) : ({ s with extents := es } : State).Inv := h.same rfl rfl rfl rfl
    split
    · exact (freed _).tellDomain.dropE _ _
    · exact (freed _).dropE _ _

/-! ### Starts of engine commands -/

theorem State.Inv.enterE (id : Nat) : Sound (s.enterE id) := sound_bind fun _ _ => sound_when (sound_some (h.same rfl rfl rfl rfl))

theorem State.Inv.startOp (c : ECmd) : (s.startOp c).Inv := by
  unfold State.startOp
  cases c.op with
  | copy | copyg | copyx => exact h.startCopy c
  | binrel n => exact h.startBinrel c n
  | binkill n => exact h.startBinkill c n
  | kjoin ks => exact h.dropE c _
  | semwait ref => exact h.putE _
  | walk wc link => exact h.startWalk c wc link
  | wstop wc => exact h.startWstop c wc
  | wbudget wc v => exact h.startWbudget c wc v
  | wsave wc a => exact h.startWsave c wc a
  | wrest wc a => exact h.startWrest c wc a
  | bank | xfer | launch => exact h.putE _
  | funbindRecv ch => exact h.startFunbindRecv c ch
  | funbindSend q => exact h.startFunbindSend c q
  | lfree a => exact h.startLfree c a
  | bar d => exact h.startBar c d

theorem State.Inv.startE (id : Nat) : Sound (s.startE id) := sound_bind fun c _ => sound_when (sound_some (h.startOp c))

/-! ### Host reads -/

theorem State.Inv.hostRead (c i : Nat) (err : Option (BitVec 2)) : Sound (s.hostRead c i err) := by
  unfold State.hostRead
  dsimp only
  split
  · split
    · refine sound_guard ?_
      split
      · exact sound_guard (sound_some (h.landLoad _ _ _ _ _ _ _))
      · exact sound_some (h.setCtx _ _)
    · exact sound_none
  · split
    · refine sound_guard ?_
      split
      · exact sound_guard (sound_some (h.landEntry _ _))
      · exact sound_some (h.setCtx _ _)
    · split
      · exact sound_none
      · split
        · split
          · exact sound_none
          · exact sound_when (sound_some (h.failHost _))
        · exact sound_when (sound_map fun _ _ => h.setCtx _ _)

end Fabric

end Sys2Proof.Machine
end

section
/-!
The canonical form of the memories: launches, placement, and the end, the saving and the return of instances.
-/

namespace Sys2Proof.Machine

section Instances

variable {s t : State} (h : s.Inv)
include h

/-! ### launch -/

theorem State.Inv.homeOf (c : Nat) (r : List Byte) : (s.homeOf c r).2.Inv := by
  by_cases own : recAffinity r = 0
  · rw [(homeOf_cases s c r).1 own]
    exact h
  · rcases walked : s.translate (dieOf c) (BitVec.ofNat 16 (recTenant r)) (recAffinity r) with ⟨_ | leaf, t⟩
    · rw [(homeOf_cases s c r).2.1 own t walked]
      exact h.translate walked
    · obtain ⟨elsewhere, hbm⟩ := (homeOf_cases s c r).2.2 own leaf t walked
      by_cases target : leaf.tgt = 0
      · rw [hbm target]
        exact h.translate walked
      · rw [elsewhere target]
        exact h.translate walked

theorem State.Inv.enterPending (c : ECmd) (key : Nat) (arg : W64) (r : List Byte) : Sound (s.enterPending c key arg r) := by
  have homed := h.homeOf c.ctx r
  exact sound_guard (sound_some ((homed.passE c).same rfl rfl rfl rfl))

theorem State.Inv.snapshot (c : ECmd) (hf : Bool) (page : Handle) (a : Nat) (arg : W64) : (s.snapshot c hf page a arg).Inv := by
  refine inv_ite (h.failLoft c) (inv_ite (h.dropE c _) (inv_ite (h.putE _) ?_))
  generalize entered : s.enterPending c _ arg _ = r
  cases r with
  | none => exact h.putE _
  | some t => exact h.enterPending _ _ _ _ _ entered

theorem State.Inv.launchSnapshot (id : Nat) : Sound (s.launchSnapshot id) := by
  refine sound_bind fun c _ => ?_
  split
  · exact sound_when (sound_some (h.snapshot _ _ _ _ _))
  · exact h.enterPending _ _ _ _
  · exact sound_none

theorem State.Inv.resnapshot (id : Nat) : Sound (s.resnapshot id) := by
  refine sound_bind fun c _ => ?_
  split
  · exact sound_guard (sound_some (h.snapshot _ _ _ _ _))
  · exact sound_none

/-! ### Placement -/

theorem State.Inv.place (p : Pending) (core : Nat) (cs : List Nat) (es : List (Nat × Nat)) : (s.place p core cs es).Inv := by
  obtain ⟨_, _, _, placed, -⟩ := place_shape s p core cs es
  rw [placed]
  exact ⟨h.mem, h.tags, wf_clearCells h.tiles _ _, h.sems⟩

theorem State.Inv.placeRecord (id : Nat) : Sound (s.placeRecord id) := by
  refine sound_bind fun p _ => sound_guard ?_
  rcases chosen : s.placeFor p with ⟨_ | place, t⟩
  · exact sound_none
  · obtain ⟨tlb, rfl⟩ := placeFor_tlb chosen
    have walked : ({ s with tlb := tlb } : State).Inv := h.same rfl rfl rfl rfl
    cases place with
    | drop =>
      have dropped (ps : List Pending) : ({ s with tlb := tlb, pendings := ps } : State).Inv := h.same rfl rfl rfl rfl
      exact sound_some ((dropped _).finishTok _ _)
    | on core cs es => exact sound_some (walked.place p core cs es)

theorem State.Inv.ageLevel (id : Nat) : Sound (s.ageLevel id) :=
  sound_ite (fun _ => sound_some (h.same rfl rfl rfl rfl)) fun _ => sound_when (sound_some (h.same rfl rfl rfl rfl))

theorem State.Inv.expireWait (id : Nat) : Sound (s.expireWait id) := sound_bind fun _ _ => sound_when (sound_some (h.same rfl rfl rfl rfl))

/-! ### The end of a part and of an instance -/

omit h in
theorem State.Inv.stopWalks (ws : List Walk) : ∀ {s : State}, s.Inv → (stopWalks s ws).Inv := by
  induction ws with
  | nil => exact id
  | cons w ws ih => exact fun h => ih (h.stopWalk w)

theorem State.Inv.endPart (c : Nat) : Sound (s.endPart c) := by
  refine sound_bind fun ks _ => ?_
  split
  · exact sound_some (h.setCtx _ _)
  · refine sound_bind fun inst _ => sound_guard (sound_some ?_)
    have freed := (State.Inv.stopWalks (s.walks.filter fun w => w.ctx == c) h).freeClaims [c]
    exact freed.same rfl rfl rfl rfl

theorem State.Inv.addSig (v : Nat) : (s.addSig v).Inv := inv_ite ⟨h.mem, h.tags, h.tiles, wf_setCell h.sems _ _⟩ h

theorem State.Inv.discarded (i : Inst) : (s.discarded i).Inv := (h.finishToks 5 _).same rfl rfl rfl rfl

theorem State.Inv.endInst (id : Nat) : Sound (s.endInst id) := by
  refine sound_bind fun i _ => sound_guard (sound_some ?_)
  have signalled := (((h.discarded i).addSig (recRef i.record 2)).addSig (recRef i.record 3)).finishTok i.tok 0
  exact (signalled.freeSlots id).same rfl rfl rfl rfl

/-! ### Pre-emption and return -/

theorem State.Inv.stopInst (i : Inst) : (s.stopInst i).Inv := h.same rfl rfl rfl rfl

theorem State.Inv.saveInst (id : Nat) : Sound (s.saveInst id) := by
  refine sound_bind fun i _ => sound_guard (sound_some ?_)
  exact ((saveWalks_sameTasks _ _).trans (saveCtxs_sameTasks _ _)).data.inv h |>.same rfl rfl rfl rfl

theorem State.Inv.restoreWalks (mv : List (Nat × Nat × Nat)) (ws : List (Nat × (Nat × (Nat × Option Landed)))) : (restoreWalks s mv ws).Inv :=
  (restoreWalks_sameTasks mv ws s).data.inv h

theorem State.Inv.giveSlot (core : Nat) (cs : List Nat) : (s.giveSlot core cs).Inv := (giveSlot_sameTasks s core cs).data.inv h

theorem State.Inv.resumeImage (id : Nat) : Sound (s.resumeImage id) := by
  refine sound_bind fun m _ => sound_bind fun room _ => sound_guard (sound_some ?_)
  have back := (restoreCtxs_sameTasks id ((m.ctxs.zip room.2).map fun p => (p.1.2, p.1.1, p.2)) s).data.inv h
  refine ((State.Inv.restoreWalks ?_ _ _).dropCore _).giveSlot _ _
  exact ⟨wf_writeCells back.mem _ _, wf_writeCells back.tags _ _, wf_writeCells back.tiles _ _, back.sems⟩

theorem State.Inv.killImage (m : Image) (r : FaultRec) : (s.killImage m r).Inv :=
  ((((h.dropWork (m.ctxs.map Prod.snd ++ m.inst.ended.map Prod.snd)).freeClaims (m.ctxs.map Prod.snd)).finishToks 5
    (m.walks.map fun w => w.2.2.1)).finishTok m.inst.tok 20).same rfl rfl rfl rfl

end Instances

end Sys2Proof.Machine
end

section
/-!
The canonical form of the memories: resets, starts, power and heat, and the host's accesses.
-/

namespace Sys2Proof.Machine

section Host

variable {s t : State} (h : s.Inv)
include h

theorem State.Inv.withHost (host : HostIf) : ({ s with host := host } : State).Inv := h.same rfl rfl rfl rfl

/-! ### Resets -/

theorem State.Inv.setMode (m : Mode) : (s.setMode m).Inv := inv_ite h (h.same rfl rfl rfl rfl)

/-- The scratchpads, tags, tiles and semaphores are empty again, and the rest of memory is a part of what it was. -/
theorem State.Inv.diesReset (keep : Nat → Bool) : (s.diesReset keep).Inv := ⟨wf_filter h.mem _, rfl, rfl, rfl⟩

theorem State.Inv.newStart : s.newStart.Inv := by
  have kept := h.diesReset keptKey
  exact inv_ite (kept.withHost _) ((kept.withHost _).setMode _)

/-! ### Starts -/

theorem State.Inv.startFails (reason detail : Nat) : (s.startFails reason detail).Inv := by
  have starting := h.setMode .starting
  exact inv_ite ((starting.withHost _).setMode _) (starting.withHost _)

theorem State.Inv.trip : s.trip.Inv := ((h.withHost _).setFlag 3).setMode _

omit h in
theorem wf_writeSegments (segs : List (Nat × List Byte)) : ∀ {mem : List Host.Cell}, Memory.wf mem = true → Memory.wf (writeSegments mem segs) = true := by
  induction segs with
  | nil => exact id
  | cons seg segs ih =>
    intro mem wf
    refine ih ?_
    split
    · exact wf_writeCells wf _ _
    · exact wf

omit h in
theorem State.Inv.startStreams (cfgs : List (Nat × Config.StreamCfg)) : ∀ {s : State}, s.Inv → (startStreams s cfgs).Inv := by
  induction cfgs with
  | nil => exact id
  | cons cfg cfgs ih => exact fun h => ih (h.same rfl rfl rfl rfl)

theorem State.Inv.start (rep : StartReport) : (s.start rep).Inv := by
  unfold State.start
  dsimp only
  split
  · exact (h.startFails _ _).trip
  · refine inv_ite (h.startFails _ _) ?_
    split
    · exact h.startFails _ _
    · exact h.startFails _ _
    · have starting := h.setMode .starting
      have loaded := starting.withMem (wf_writeSegments (Config.imageSegments (imageBody s.host.flash)) starting.mem)
      exact ((State.Inv.startStreams (imageCfgs (imageBody s.host.flash)) loaded).withHost _).setMode _

/-! ### The host's accesses -/

theorem State.Inv.pokeSpad (cl a n : Nat) (v : W64) : (s.pokeSpad cl a n v).Inv := h.withMem (wf_writeCells h.mem _ _)

theorem bar0RegisterWrite_canonical (off : Nat) (v : W64) : Canonical (execBar0RegisterWrite off v s) := by
  refine canonical_next ?_
  split
  · exact h.same rfl rfl rfl rfl
  · exact h.same rfl rfl rfl rfl
  · exact inv_ite (h.setFlag 1) (h.same rfl rfl rfl rfl)
  · exact h.same rfl rfl rfl rfl
  · exact h.same rfl rfl rfl rfl
  · exact h.same rfl rfl rfl rfl
  · exact h.same rfl rfl rfl rfl
  · exact h

theorem plainViewAccess_canonical (die off : Nat) (wide : Bool) (data : Option W64) : Canonical (execPlainViewAccess die off wide data s) := by
  refine canonical_event (sound_guard (sound_ite (fun _ => sound_some (h.same rfl rfl rfl rfl)) fun _ => ?_))
  cases data with
  | none => exact sound_some (h.same rfl rfl rfl rfl)
  | some v => exact sound_some ((h.pokeSpad _ _ _ v).same rfl rfl rfl rfl)

theorem fillViewWrite_canonical (die off : Nat) (wide : Bool) (data : W64) : Canonical (execFillViewWrite die off wide data s) := by
  refine canonical_event (sound_guard (sound_ite (fun _ => sound_some (h.same rfl rfl rfl rfl)) fun _ =>
    sound_ite (fun _ => sound_some ((h.setFlag 0).same rfl rfl rfl rfl)) fun _ => sound_some ?_))
  have poked := h.pokeSpad (s.streamCluster die) (off - fillBase) (accessBytes wide) data
  exact (poked.withTags (wf_setTags poked.tags _ _ _)).same rfl rfl rfl rfl

theorem fillViewRead_canonical (die off : Nat) (wide : Bool) : Canonical (execFillViewRead die off wide s) :=
  canonical_event (sound_guard (sound_ite (fun _ => sound_some (h.same rfl rfl rfl rfl)) fun _ => sound_some (h.same rfl rfl rfl rfl)))

/-! ### The reeve's mailboxes -/

theorem State.Inv.takeCmd (rq : Requester) : (s.takeCmd rq).Inv := by
  cases rq with
  | host => exact h
  | stream d => exact h.withTags (wf_setTags h.tags _ _ _)

theorem State.Inv.putStatus (rq : Requester) (st : Nat) : (s.putStatus rq st).Inv := by
  cases rq with
  | host => exact h.same rfl rfl rfl rfl
  | stream d =>
    have poked := h.pokeSpad (s.streamCluster d) mbStsAddr 8 (BitVec.ofNat 64 st)
    exact poked.withTags (wf_setTags poked.tags _ _ _)

theorem State.Inv.pokeHost (a : Nat) (bs : List Byte) : (s.pokeHost a bs).Inv := h.withMem (wf_writeCells h.mem _ _)

theorem State.Inv.ackInval (id : Nat) : Sound (s.ackInval id) := by
  refine sound_bind fun i _ => sound_when (sound_some ?_)
  have acked (is : List Inval) : ({ s with invals := is } : State).Inv := h.same rfl rfl rfl rfl
  exact (acked _).putStatus _ _

theorem State.Inv.endRecover (img : List Byte) : (s.endRecover img).Inv := ((h.withHost _).putStatus .host 0).newStart.withHost _

end Host

/-! ### The reeve's commands -/

/-- What a command does leaves the memories in their canonical form. -/
def Careful (act : List W64 → State → State × Option Nat) : Prop := ∀ a s, s.Inv → (act a s).1.Inv

/-- A step of the mailbox leaves the memories in their canonical form when what its command does leaves them so. -/
theorem reeve_canonical {own : Nat} {m : Mail} {act : List W64 → State → State × Option Nat} (careful : Careful act) {s : State} (h : s.Inv) :
    Canonical (reeve own m act s) := by
  refine canonical_event ?_
  split
  · exact sound_none
  · next c args _ =>
    refine sound_guard ?_
    have taken := h.takeCmd m.rq
    split
    · exact sound_some (taken.putStatus _ _)
    · have done : (if m.stray then ((s.takeCmd m.rq).setFlag 2, some 3) else act args (s.takeCmd m.rq)).1.Inv := by
        split
        · exact taken.setFlag 2
        · exact careful _ _ taken
      dsimp only
      split
      · exact sound_some done
      · exact sound_some (done.putStatus _ _)

/-- A pair's state is canonical in either branch. -/
theorem fst_inv_ite {p : Prop} [Decidable p] {x y : State × Option Nat} (hx : x.1.Inv) (hy : y.1.Inv) : (if p then x else y).1.Inv := by
  split
  · exact hx
  · exact hy

section Commands

variable {s : State} (h : s.Inv) (m : Mail)

theorem onInst_inv {resume : Bool} {a : List W64} {run : Inst → State × Option Nat} {saved : Image → State × Option Nat}
    (h : s.Inv) (hr : ∀ i, (run i).1.Inv) (hs : ∀ m, (saved m).1.Inv) : (onInst resume a s run saved).1.Inv := by
  refine fst_inv_ite h ?_
  split
  · exact h
  · exact hr _
  · exact hs _

include h

theorem setdev_canonical : Canonical (execSetdev m s) := reeve_canonical (fun _ _ h => fst_inv_ite h (h.same rfl rfl rfl rfl)) h
theorem setroot_canonical : Canonical (execSetroot m s) := reeve_canonical (fun _ _ h => fst_inv_ite h (h.same rfl rfl rfl rfl)) h
theorem settvec_canonical : Canonical (execSettvec m s) := reeve_canonical (fun _ _ h => fst_inv_ite h (h.same rfl rfl rfl rfl)) h
theorem semten_canonical : Canonical (execSemten m s) := reeve_canonical (fun _ _ h => fst_inv_ite h (h.same rfl rfl rfl rfl)) h
theorem quota_canonical : Canonical (execQuota m s) := reeve_canonical (fun _ _ h => fst_inv_ite h (h.same rfl rfl rfl rfl)) h
theorem inval_canonical : Canonical (execInval m s) := reeve_canonical (fun _ _ h => fst_inv_ite h (h.same rfl rfl rfl rfl)) h

theorem preempt_canonical : Canonical (execPreempt m s) := reeve_canonical (fun _ _ h => onInst_inv h (fun i => h.stopInst i) fun _ => h) h
theorem resume_canonical : Canonical (execResume m s) :=
  reeve_canonical (fun _ _ h => onInst_inv h (fun _ => h) fun _ => h.same rfl rfl rfl rfl) h
theorem kill_canonical : Canonical (execKill m s) :=
  reeve_canonical (fun _ _ h => onInst_inv h (fun i => h.killInst i.id _) fun m => h.killImage m _) h

theorem planelost_canonical : Canonical (execPlanelost m s) := reeve_canonical (fun _ _ h => fst_inv_ite h (h.losePlane _)) h
theorem planeclr_canonical : Canonical (execPlaneclr m s) :=
  reeve_canonical (fun _ _ h => fst_inv_ite h (fst_inv_ite (h.same rfl rfl rfl rfl) h)) h

theorem faultrec_canonical : Canonical (execFaultrec m s) := reeve_canonical (fun _ _ h => fst_inv_ite h (h.pokeHost _ _)) h
theorem attest_canonical : Canonical (execAttest m s) := reeve_canonical (fun _ _ h => h.pokeHost _ _) h
theorem hbmload_canonical : Canonical (execHbmload m s) :=
  reeve_canonical (fun _ _ h => fst_inv_ite h (h.withMem (wf_writeCells h.mem _ _))) h

theorem recover_canonical : Canonical (execRecover m s) := by
  unfold execRecover
  split
  · exact canonical_event (sound_when (sound_some (h.endRecover _)))
  · exact reeve_canonical (fun _ _ h => fst_inv_ite h (fst_inv_ite h (h.same rfl rfl rfl rfl))) h

end Commands

end Sys2Proof.Machine
end

section
/-!
Every step keeps the canonical form of the memories: every instruction does, in a bundle or as a step of its own, and with them the turns of
the contexts.
-/

namespace Sys2Proof.Machine

/-- What an instruction leaves has the memories in their canonical form: a slot instruction by what it may touch, and each other step by the
operation that it performs. -/
theorem exec_canonical (i : Instr) (s : State) (h : s.Inv) : Canonical (exec i s) := by
  cases slot : slotWord i with
  | some word => exact fun t ran => h.slot slot ran
  | none =>
    cases i with
    | emptyBundle | insertedCycle => exact canonical_next (h.setHere _)
    | repeatHead len mword => exact h.repeatHead len mword
    | repetition => exact h.repeats
    | resultArrival c id => exact canonical_event (h.arriveResult c id)
    | exactResultArrival c id => exact canonical_event (h.arriveExact c id)
    | slackWindowFreeze c => exact canonical_event (h.freezeLate c true)
    | exactResultFreeze c => exact canonical_event (h.freezeLate c false)
    | translationWalkDone c id => exact canonical_event (h.finishXlat c id)
    | queuedLoadArrival c q id => exact canonical_event (h.arriveEntry c q id)
    | storePerformed c id => exact canonical_event (h.performStore c id)
    | loftRefusal c id => exact canonical_event (h.refuse c id)
    | hostReadCompletion c id err => exact canonical_event (h.hostRead c id err)
    | completionTimeout c id => exact canonical_event (h.hostRead c id (some 2))
    | trapTaken c => exact canonical_event (h.takeDue c)
    | userInterruptTaken c => exact canonical_event (h.userInterrupt c)
    | mQueueEntry id => exact canonical_event (h.enterM id)
    | mCommandStart id => exact canonical_event (h.startM id)
    | mCommandComplete id => exact canonical_event (h.completeM id)
    | eQueueEntry id => exact canonical_event (h.enterE id)
    | eCommandStart id => exact canonical_event (h.startE id)
    | copyComplete id => exact canonical_event (h.completeCopy id)
    | bankComplete id => exact canonical_event (h.completeBank id)
    | xferComplete id => exact canonical_event (h.completeXfer id)
    | semwaitTest id => exact canonical_event (h.testSemwait id)
    | gleanerHop id => exact canonical_event (h.hop id)
    | launchSnapshot id => exact canonical_event (h.launchSnapshot id)
    | singleResnapshot id => exact canonical_event (h.resnapshot id)
    | instancePlacement id => exact canonical_event (h.placeRecord id)
    | pendingLevelAging id => exact canonical_event (h.ageLevel id)
    | crossDieWaitExpiry id => exact canonical_event (h.expireWait id)
    | contextPartEnd c => exact canonical_event (h.endPart c)
    | instanceEnd id => exact canonical_event (h.endInst id)
    | preemptSave id => exact canonical_event (h.saveInst id)
    | resumePlacement id => exact canonical_event (h.resumeImage id)
    | invalidationAck id => exact canonical_event (h.ackInval id)
    | packetReceive src chan seq stomp pay => exact canonical_event (h.receive src.peer src.port chan seq stomp pay)
    | endToEndResend peer chan => exact canonical_event (h.resend peer chan)
    | fifoWordDelivery id => exact canonical_event (sound_orElse (h.deliverWord id) (h.endDrain id))
    | barrierReport id => exact canonical_event (h.barrierReport id)
    | barrierRelease id => exact canonical_event (h.barrierRelease id)
    | powerOnReset => exact canonical_next (h.diesReset outsideKey)
    | conventionalReset | functionLevelReset => exact canonical_next h.newStart
    | start rep => exact canonical_event (sound_when (sound_some (h.start rep)))
    | startTimeout n => exact canonical_event (sound_when (sound_some (h.startFails 6 n)))
    | thermalTrip die =>
      exact canonical_event (sound_guard (sound_ite (fun _ => sound_some (h.startFails 7 die).trip) fun _ => sound_some h.trip))
    | clockThrottle | clockRestore => exact canonical_event (sound_when (sound_some (h.withHost _)))
    | plimWrite | hflagWrite | deviceControl2Write => exact canonical_next (h.withHost _)
    | bar0RegisterWrite off v => exact bar0RegisterWrite_canonical h off v
    | plainViewAccess die off wide data => exact plainViewAccess_canonical h die off wide data
    | fillViewWrite die off wide data => exact fillViewWrite_canonical h die off wide data
    | fillViewRead die off wide => exact fillViewRead_canonical h die off wide
    | unsupportedBar2Access => exact canonical_event (sound_when (sound_some (h.withHost _)))
    | setdev m => exact setdev_canonical h m
    | setroot m => exact setroot_canonical h m
    | settvec m => exact settvec_canonical h m
    | inval m => exact inval_canonical h m
    | semten m => exact semten_canonical h m
    | quota m => exact quota_canonical h m
    | preempt m => exact preempt_canonical h m
    | resume m => exact resume_canonical h m
    | kill m => exact kill_canonical h m
    | planelost m => exact planelost_canonical h m
    | planeclr m => exact planeclr_canonical h m
    | faultrec m => exact faultrec_canonical h m
    | attest m => exact attest_canonical h m
    | recover m => exact recover_canonical h m
    | hbmload m => exact hbmload_canonical h m
    | _ => exact nomatch slot

/-- Settles O60: each operation that writes a memory writes it by the operations of the canonical lists, and a step is made of these. -/
theorem stepKeepsInvariant : Obligations.StepKeepsInvariant := by
  unfold Obligations.StepKeepsInvariant
  exact fun s t inv ran => stepWith_canonical exec_canonical inv t ran

end Sys2Proof.Machine
end
